-- ==== Sys2Proof/Word.lean ====
section
/-! DEFINITION. The word types of the package: bytes, 64-bit words, vectors, flits, and byte strings (00 R6). -/

namespace Sys2Proof

/-- A byte. -/
abbrev Byte := BitVec 8
/-- A 32-bit word: an accumulator entry, an FP32 value, a lane. -/
abbrev Word32 := BitVec 32
/-- A 64-bit word: a scalar register, a global address, a register of control space. -/
abbrev Word := BitVec 64
/-- A vector register (03 R92). -/
abbrev Vec := BitVec 1024
/-- The 64 bytes of a flit, byte 0 in bits [7:0] (11 R367). -/
abbrev Flit := BitVec 512
/-- A string of bytes, lowest address first. -/
abbrev Bytes := List Byte

end Sys2Proof
end

