-- ==== Sys2Proof/Syntax.lean ====
section
/-! DEFINITION. The commands of the package: one constructor of `Instr` for each row of the table of operations and
events. An operand is what reaches the package from outside with the event (a packet, a register write, a measured
value), or names the unit at which the event takes place. -/

namespace Sys2Proof

/-- A compute core, 0 to 4,607 (01 R24). -/
abbrev CoreId := Fin 4608
/-- A die, by die index (01 R10). -/
abbrev DieId := Fin 40
/-- A routing die X0 to X3. -/
abbrev XDie := Fin 4
/-- A memory-hub die M0 to M7. -/
abbrev HubId := Fin 8
/-- An HBM4 stack (10 R325). -/
abbrev StackId := Fin 24
/-- A fabric port (11 R360). -/
abbrev PortId := Fin 56

/-- A codeword as received: the 10-bit symbols of each of the four lanes, in their order (11 R365). -/
abbrev LaneWord := List (List (BitVec 10))

/-- A slot of the link stream as received (11 R367): a flit and its check word as the FEC decoder gives them; the
codewords received with errors whose first stream bit is in the slot; and whether the slot holds bits of an
uncorrectable codeword that an earlier slot has counted (11 R365, R369; log entry 42). -/
structure Slot where
  flit : Flit
  check : BitVec 32
  words : List LaneWord
  spoiled : Bool
deriving DecidableEq, Repr

/-- A slot in which a MARKER comes, with the number of slots since the last MARKER (11 R367). -/
structure MarkerSlot where
  slot : Slot
  since : Nat
deriving DecidableEq, Repr

/-- What the training of a port finds beside the requests for Quick FEC (11 R366, R374, R395): an optical module, the far
receiver's division of its buffers, and BER_EXP and EYE_MV of lanes 0 to 3. -/
structure TrainReport where
  optical : Bool
  division : BitVec 64
  lanes : List (Byte × Byte)
  /-- The link coefficients (18 R588). -/
  coeff : Word
deriving DecidableEq, Repr

/-- What the host port answers to a channel's ring accesses (16 R530): the 64 bytes of the next entry, or `none` when its
read ended in a PCIe error; and whether a ring write has ended in one. -/
structure RingAnswer where
  entry : Option Bytes
  writeError : Bool
deriving DecidableEq, Repr

/-- A partition (15 R489). -/
abbrev PartId := Fin 32
/-- A steward core: 0 to 7 are K0.4 to K0.11, 8 to 19 are K1.0 to K1.11 (15 R498). -/
abbrev StewardId := Fin 20
/-- A host channel (16 R522). -/
abbrev ChanId := Fin 1024
/-- A package ID (01 R29). -/
abbrev PkgId := BitVec 15

/-- A party that accesses memory or a register of the package (01 R28, 16 R523, 10 R336). -/
inductive Agent where
  /-- A compute core through its S slot. -/
  | core (c : CoreId)
  /-- A core's DMA engine. -/
  | coreDma (c : CoreId)
  /-- A steward core. -/
  | steward (k : StewardId)
  /-- The host through BAR4 or BAR2. -/
  | host
  /-- The host through channel page `n` of BAR0. -/
  | channel (n : ChanId)
  /-- The tray's board management controller, over I3C. -/
  | bmc
  /-- Filina. -/
  | firmware
  /-- The command processor, for partition `p` (14 R477). -/
  | cmdproc (p : PartId)
  /-- A Monsoon unit, a Forecast sequencer or a combiner, for partition `p`. -/
  | monsoon (p : PartId)
  /-- A request of job `job` from another package (12 R409). -/
  | remote (job : BitVec 32)
deriving DecidableEq, Repr

/-- The lane of the matrix unit (04 R150). -/
inductive Lane where
  | load
  | compute
deriving DecidableEq, Repr

/-- A piece of armed or running work that a Season comparator watches (02 R59, R68). -/
inductive WorkRef where
  /-- The running or armed kernel of a core. -/
  | kernel (c : CoreId)
  /-- The kernel of partition `p` saved from core `c`, or pending for it, watched on the K0 copy (15 R509). -/
  | savedKernel (p : PartId) (c : CoreId)
  /-- A Monsoon step slot. -/
  | step (sl : Fin 8)
  /-- A Forecast slot. -/
  | forecast (f : Fin 16)
  /-- The collective with key (group, EQUINOX) (13 R443). -/
  | coll (group : BitVec 12) (equinox : Word)
  /-- The command-list entry of partition `p` at ring position `pos`: DMA, RETURN, waits, signals, LOOP_UNTIL. -/
  | entry (p : PartId) (pos : Nat)
deriving DecidableEq, Repr

/-- The header of a transaction packet (12 R400): bytes 4 to 63 of its PACKET flit. -/
structure Pkt where
  op : Byte
  epoch : BitVec 2 := 0
  retry : BitVec 2 := 0
  comp : Bool := false
  mv : Bool := false
  combined : Bool := false
  locked : Bool := false
  dst : PkgId
  src : PkgId
  srcUnit : BitVec 16
  reqId : BitVec 32
  job : BitVec 32
  part : BitVec 5 := 0
  status : Byte := 0
  length : BitVec 10 := 0
  addr : BitVec 48 := 0
  arg0 : Word := 0
  arg1 : Word := 0
  origTime : Word := 0
  group : BitVec 12 := 0
  height : BitVec 4 := 0
deriving DecidableEq, Repr

/-- The header of a collective tree packet (13 R447): opcodes 0x40 to 0x43, bytes 24 to 63 in its own layout. -/
structure TreePkt where
  op : Byte
  epoch : BitVec 2 := 0
  retry : BitVec 2 := 0
  dst : PkgId
  src : PkgId
  srcUnit : BitVec 16
  reqId : BitVec 32
  job : BitVec 32
  part : BitVec 5 := 0
  length : BitVec 10 := 0
  addr : BitVec 48
  digest : Word
  equinox : Word
  group : BitVec 12
  tree : BitVec 1
  empty : Bool := false
  special : Bool := false
  limbBase : BitVec 4 := 0
  limbCount : BitVec 4 := 0
  abortCode : BitVec 16 := 0
  origin : PkgId := 0
deriving DecidableEq, Repr

/-- Physical errors that one read of a 64-byte block meets (10 R330, R331, R343): symbols of the code word that have
changed in the stack since they were written (positions 0 to 63 data, 70 to 73 check bytes, each with the bits that
flipped), the bits flipped in one 8-byte word of a slice SRAM, and the corrections that the stack's on-die ECC
reported. -/
structure Upset where
  symbols : List (Nat × Byte) := []
  sramWord : Nat := 0
  sramBits : Nat := 0
  onDie : Nat := 0
deriving DecidableEq, Repr

/-- A clock island (02 R41): a core, or one of the network stops, memory controllers or link interfaces of a die. The
units of a die compare with the copy of its network stop 0 (log entry 69). -/
inductive IslandRef where
  | core (c : CoreId)
  | stop (d : DieId) (i : Byte)
  | memCtl (h : HubId) (i : Byte)
  | link (d : DieId) (i : Byte)
deriving DecidableEq, Repr

/-- The die-to-die modules that join two dies (01 R14, R17): the bridge of a compute die to its home memory hub, and the
ring segment from a position to the next. -/
inductive ModuleRef where
  | bridge (c : Fin 18)
  | segment (pos : Fin 40)
deriving DecidableEq, Repr

/-- What fails at once: dies, and modules that could not be restored to full width, each of which is a failure of both
dies that it joins (01 R35, R37). -/
structure FailedUnits where
  dies : List DieId
  modules : List ModuleRef
deriving DecidableEq, Repr

/-- A port that loses lock, with the lanes that lost signal or clock recovery (11 R380, R395). -/
structure LockLoss where
  port : PortId
  lanes : BitVec 4
deriving DecidableEq, Repr

/-- A firmware image as it was read (18 R584, R585): its header and body. -/
structure BootImage where
  bytes : Bytes
deriving DecidableEq, Repr

/-- What the end of a start step found (18 R582 to R594). -/
inductive StepResult where
  /-- The step passed. -/
  | ok
  /-- Die BIST: the dies that failed, and the modules that could not be restored to full width (R583, 01 R35). -/
  | bist (dies : List DieId) (modules : List ModuleRef)
  /-- Authentication of the image that the boot source gave: under BOOT_SEL 0 that of Boot Partition 0 and, when it was
  read, that of Boot Partition 1; under BOOT_SEL 1 the bytes are those of the boot SRAM (R584, R585). -/
  | auth (image : BootImage) (second : Option BootImage)
  /-- The boot source could not be read: the NVMe status (R584, R594). -/
  | bootRead (nvme : BitVec 8)
  /-- HBM interface training, or its replay in a warm start, failed on a stack (R590, R594). -/
  | hbmTrain (st : StackId)
  /-- The memory test repaired rows with hPPR: per stack the repairs used and the spares left; a stack whose row no
  spare could repair is named in `bad` (R355, R356). -/
  | memTest (repairs : List (StackId × Nat × Nat)) (bad : Option StackId)
  /-- The offset of the K0 copy from its source, in ticks, at the Season lock step, and whether the package is a
  master under R51 (R593). -/
  | season (offset : Int) (master : Bool)
deriving DecidableEq, Repr

/-- The register that an RC_READ, REGISTER_WRITE or W1C_WRITE names, by the space in which it lies. -/
inductive RegRef where
  /-- Device control space at an offset from 0x1F00_0000_0000 (01 R28). -/
  | ctrl (off : BitVec 24)
  /-- The page of host channel `n` (16 R528). -/
  | chan (n : ChanId) (off : BitVec 12)
  /-- A steward CSR (14 R487). -/
  | csr (k : StewardId) (num : BitVec 12)
  /-- The management register file, over I3C (18 R595). -/
  | mgmt (off : Byte)
  /-- The MSI-X table and pending bit array of BAR4, from offset 0x100_0000 (16 R522). -/
  | msix (off : BitVec 16)
  /-- The configuration space of the host port's function (16 R521, 19 R613). -/
  | cfg (off : BitVec 12)
deriving DecidableEq, Repr

/-- The rail that a regulator reports (19 R604). -/
inductive Rail where
  | die (d : DieId)
  | hbm (st : StackId)
deriving DecidableEq, Repr

/-- Who asserted THERMTRIP_N (18 R594, 19 R621). -/
inductive TripSource where
  | die (d : DieId)
  | stack (st : StackId)
  | board
deriving DecidableEq, Repr

/-- The commands. -/
inductive Instr where
  -- the compute core and its matrix unit (03, 04, 05)
  | wideWordIssue (c : CoreId)
  | matrixOpStart (c : CoreId) (lane : Lane)
  | matrixOpDone (c : CoreId) (lane : Lane)
  | loadDataReturn (c : CoreId) (i : Nat)
  | storeAcknowledgement (c : CoreId) (i : Nat)
  | dmaTagComplete (c : CoreId) (tag : Fin 32)
  | mbsendAnswer (c : CoreId)
  | kernelCompletion (c : CoreId)
  -- launches and deadlines (02)
  | launchArm (c : CoreId)
  | launchStart (c : CoreId)
  | equinoxReached (w : WorkRef)
  | deadlineMissed (w : WorkRef)
  -- dies and Season (01, 02, 11, 19)
  | dieFailed (f : FailedUnits)
  | controlDieFailed (k : Fin 2)
  | countSync (meas : List (IslandRef × Int))
  | beaconIntervalEnd (n : PortId)
  | holdoverEnd
  | linkDelayRefresh
  | ppsEdge
  | timerefCountCheck (edges : Nat)
  -- Monsoon (06, 07)
  | monsoonStepArm (p : PartId)
  | routerInputPost (c : CoreId) (tag : Fin 32)
  | scoringStart (sl : Fin 8) (x : XDie)
  | countRoundStart (sl : Fin 8)
  | countPacket (x : XDie) (k : Pkt) (data : Bytes)
  | prefixPacket (x : XDie) (k : Pkt) (data : Bytes)
  | abortPacket (x : XDie) (k : Pkt) (data : Bytes)
  | dispatchChoice (sl : Fin 8) (x : XDie)
  | dispatchPortWrite (x : XDie) (k : Pkt) (data : Bytes)
  | batchComplete (sl : Fin 8) (slot : Fin 256)
  | stepPairExpiry
  | returnStart (sl : Fin 8) (slot : Fin 256)
  | returnRowSend (sl : Fin 8) (slot : Fin 256)
  | returnPortWrite (x : XDie) (k : Pkt) (data : Bytes)
  | tokenCombine (sl : Fin 8) (row : Nat)
  | stepComplete (sl : Fin 8)
  | stepCommitDone (sl : Fin 8)
  -- Forecast (08)
  | forecastArm (p : PartId)
  | forecastStart (f : Fin 16)
  | forecastSegment (f : Fin 16) (x : XDie)
  | forecastListAssembly (f : Fin 16)
  | forecastComplete (f : Fin 16)
  -- the buffer pool manager (09)
  | bpmAlloc (a : Agent) (q : Fin 8)
  | bpmIncr (a : Agent) (addr : Word)
  | bpmDecr (a : Agent) (addr : Word)
  | bpmGrant (a : Agent) (q : Fin 8) (mask : Word)
  | bpmCacheRefill (n : Fin 256)
  | bpmCacheWriteback (n : Fin 256)
  -- memory hubs (10)
  | hbmRead (a : Agent) (addr : BitVec 48) (u : Upset)
  | hbmWrite (a : Agent) (addr : BitVec 48) (data : Bytes) (u : Upset)
  | correctionWriteback (addr : BitVec 48)
  | patrolScrub (h : HubId) (u : Upset)
  | rowClose (st : StackId) (pc : Fin 64) (bank : Nat)
  | stackTemperatureReading (st : StackId) (t : BitVec 16)
  | spprRepair (st : StackId) (pc : Fin 64) (bank row : Nat)
  | trafficGeneratorStart (h : HubId) (ch : Fin 96)
  | trafficGeneratorDone (h : HubId) (ch : Fin 96) (errors : BitVec 32) (firstRow : BitVec 16)
  -- ports and links (11)
  | packet (n : PortId) (w : Slot)
  | dataFlit (n : PortId) (w : Slot)
  | stompedFlit (n : PortId) (w : Slot)
  | badSlot (n : PortId) (w : Slot)
  | idle (n : PortId) (w : Slot)
  | credit (n : PortId) (w : Slot)
  | beacon (n : PortId) (w : Slot) (rxFrac : BitVec 4)
  | discovery (n : PortId) (w : Slot)
  | marker (n : PortId) (m : MarkerSlot)
  | creditSend (n : PortId)
  | beaconSend (n : PortId) (txFrac : BitVec 4)
  | discoverySend (n : PortId)
  | markerSend (n : PortId)
  | loseLock (l : LockLoss)
  /-- `good`: the pre-FEC bit error ratio allows Quick FEC; `peerQuick`: the far end requests it (11 R366). -/
  | portTrainingDone (n : PortId) (good peerQuick : Bool) (r : TrainReport)
  | trainingTimeout (n : PortId)
  | fastRetrainTimeout (n : PortId)
  | fabPortRetrain (n : PortId)
  -- transactions (12)
  | requestSend (reqId : BitVec 32)
  | read (k : Pkt)
  | write (k : Pkt) (data : Bytes)
  | writeMcast (k : Pkt) (data : Bytes)
  | reduceInto (k : Pkt) (data : Bytes)
  | addInt (k : Pkt)
  | addFp32 (k : Pkt)
  | atomicMin (k : Pkt)
  | atomicMax (k : Pkt)
  | swap (k : Pkt)
  | cas (k : Pkt)
  | fetchAdd (k : Pkt)
  | probe (k : Pkt)
  | jobTeardown (n : PortId) (k : Pkt)
  | readReply (k : Pkt) (data : Bytes)
  | ack (k : Pkt)
  | atomicReply (k : Pkt)
  | attemptTimeout (reqId : BitVec 32)
  | busyResend (reqId : BitVec 32)
  | probeTimeout (reqId : BitVec 32)
  | combineWindowClose (reqId : BitVec 32)
  | routeEpochSwitch
  | routeEpochRetire
  -- collectives (13)
  | collUp (k : TreePkt) (data : Bytes)
  | collDown (k : TreePkt) (data : Bytes)
  | collRoot (k : TreePkt) (data : Bytes)
  | collAbort (k : TreePkt)
  | collectiveComplete (group : BitVec 12) (equinox : Word)
  | collectiveCommitDone (group : BitVec 12) (equinox : Word)
  -- the command list and the stewards (14)
  | kernel (p : PartId)
  | dma (p : PartId)
  | monsoon (p : PartId)
  | forecast (p : PartId)
  | returnEntry (p : PartId)
  | collective (p : PartId)
  | waitSeason (p : PartId)
  | waitSem (p : PartId)
  | loopUntil (p : PartId)
  | loopTest (p : PartId)
  | signalSem (p : PartId)
  | signalWord (p : PartId)
  | signalTime (p : PartId)
  | ringPoll (p : PartId)
  | cmdReserve (k : StewardId) (m : Word)
  | cmdDoorbell (k : StewardId)
  | cmdSemAdd (k : StewardId) (v : Word)
  | cmdSemTake (k : StewardId) (n : Word)
  | stewardException (k : StewardId) (cause : BitVec 6) (pc tval : Word)
  | wfi (k : StewardId)
  | wfiEnd (k : StewardId)
  -- partitions and the schedule (15)
  | create (pblock : Option Bytes)
  | destroy
  | destroyAt (p : PartId)
  | deferredPlacement (p : PartId)
  | claim (pblock : Option Bytes)
  | yearSet
  | scheduleTakesEffect
  | monthHandoverStart (i : Fin 64)
  | monthEnd (i : Fin 64)
  | quiesceTimeout (c : CoreId)
  | contextSaveDone (c : CoreId)
  | contextRestoreDone (c : CoreId)
  | windowAccess (a : Agent) (addr : BitVec 48) (len : Nat) (wdata : Option Bytes)
  | faultRecordWrite (p : PartId)
  | teardownComplete (p : PartId)
  -- firmware commands (16)
  | chOpen
  | chClose
  | windowMap
  | pkgQuery
  | fwReset
  | poolCreate
  | poolDestroy
  | groupDefine
  | groupDestroy
  | seasonSet
  | wvSet
  | anemSelect
  | routeLoad (pblock : Option Bytes)
  | routeSwitch
  | xactTimeoutSet
  | quiesce
  | resume
  | llmMode
  | memTest
  -- checkpoints and the Barometer (17)
  | secureSet
  | seedLoad (pblock : Option Bytes)
  | dewSetup
  | dewRelease
  | frostSetup
  | ckptWrite (pblock : Option Bytes)
  | ckptWriteComplete (p : PartId) (mediaOk : Bool)
  | ckptRestore (pblock : Option Bytes) (stored : List (Nat × Option Bytes))
  | ckptQuery
  | barometerUpdate
  -- host channels and mailboxes (16)
  | chDoorbell (n : ChanId) (v : BitVec 32)
  | chControlEnable (n : ChanId) (v : Word)
  | channelFetch (n : ChanId) (answer : RingAnswer)
  | channelTimeout (n : ChanId)
  | functionLevelReset
  | channelDrained (n : ChanId)
  | filinaWatchdog
  | firmwareRestart
  | commandServiceTake
  | mbxPost (k : StewardId) (m : Fin 64) (addr : Word)
  | lockAcquire (a : Agent) (w : Fin 256)
  | lockRelease (a : Agent) (w : Fin 256) (v : BitVec 32)
  | hostWindowAccess (off : BitVec 36) (len : Nat) (wdata : Option Bytes)
  -- attestation (18 R587)
  | getVersion
  | getCapabilities
  | negotiateAlgorithms (req : Bytes)
  | getDigests
  | getCertificate (slot : Nat) (off len : Nat)
  | challenge (slot : Nat) (nonce : Bytes)
  | getMeasurements (index : Nat) (nonce : Bytes)
  -- starts, resets and the management interface (18)
  | pwrokLow
  | pwrokHigh
  | coldResetAssert
  | coldStart (slot : BitVec 4) (bootSel : BitVec 2)
  | warmEntry (noSpare : Option StackId)
  | warmStart
  | startStepEnd (r : StepResult)
  | addressAssignmentTimeout
  | seasonLockTimeout
  | entdaa (addr : BitVec 7)
  | pkgMgmtTray (v : BitVec 32)
  | pkgMgmtDim (v : BitVec 32)
  | pkgMgmtPwrCap (v : BitVec 32)
  -- supplies, clocks, power and heat (19)
  | thermtrip (src : TripSource)
  | hostPerstN
  | powerSample (watts : Nat)
  | powerStepEval (p100us p1s : Nat)
  | vin48Undervoltage
  | vin48Overvoltage
  | inputPowerExcess
  | railOutOfRegulation (rail : Rail)
  | vstby12Low
  | droopTrip (d : Fin 18) (row : Fin 16)
  | junctionSensorRead (d : DieId) (t : BitVec 16)
  | refclkLoss (which : Fin 2)
  | pcieRefclkLoss
  -- boundary scan (19 R617)
  | bypass
  | idcode
  | samplePreload (v : Nat)
  | extest
  | extestPulse
  | extestTrain
  | clamp
  | highz
  -- registers with no row of their own (00 R9)
  | rcRead (a : Agent) (r : RegRef) (event : Nat)
  | w1cWrite (a : Agent) (r : RegRef) (v : Word)
  | registerWrite (a : Agent) (r : RegRef) (v : Word)
  -- the rest of the table, in its order
  | vstby12InRange
  | peerSignalDetected (n : PortId)
  | ppsEdgeLate
  | pcieRefclkReturn
  | hbmRefresh (st : StackId) (pc : Fin 64) (bank : Nat)
  | ckptRestoreComplete (p : PartId)
deriving DecidableEq, Repr

end Sys2Proof
end

