-- ==== Sys2Proof/Decode.lean ====
section
/-! DEFINITION. The command that a word spells by the bits of the table. No row of the table gives bits, so no word
spells a command (log entry 4). -/

namespace Sys2Proof

/-- The command of a word of `nbits` bits. -/
def decodeTableWord (_nbits _w : Nat) : Option Instr := none

end Sys2Proof
end

