-- ==== Sys2Proof/Machine/Bits.lean ====
section
/-! DEFINITION. Bit fields, byte strings, tables by number, the canonical byte memory, and the checks over byte strings
(CRCs) that several chapters use. -/

namespace Sys2Proof.Machine

open Sys2Proof

/-! ## Bit fields and byte order -/

/-- Bits [hi:lo] of a number (00 R6). -/
def fld (v hi lo : Nat) : Nat := (v >>> lo) % 2 ^ (hi + 1 - lo)

/-- Bit `i` of a number. -/
def bit (v i : Nat) : Bool := v.testBit i

/-- The number that a byte string holds, least significant byte first (00 R6). -/
def leNat : Bytes → Nat
  | [] => 0
  | b :: bs => b.toNat + 256 * leNat bs

/-- The `n` bytes of a number, least significant byte first (00 R6). -/
def leBytes : Nat → Nat → Bytes
  | 0, _ => []
  | n + 1, v => BitVec.ofNat 8 v :: leBytes n (v / 256)

/-- Bytes `off` to `off + n - 1` of a byte string as a number; bytes beyond its end read as zero. -/
def field (bs : Bytes) (off n : Nat) : Nat := leNat ((bs.drop off).take n)

/-- `n` zero bytes. -/
def zeros (n : Nat) : Bytes := List.replicate n 0

/-- Every byte of the string is zero. -/
def allZero (bs : Bytes) : Bool := bs.all (· == 0)

/-- A byte string cut or padded with zeros to `n` bytes. -/
def padTo (n : Nat) (bs : Bytes) : Bytes := bs.take n ++ zeros (n - bs.length)

/-- The signed value of the low `w` bits of `v`. -/
def signed (w v : Nat) : Int := (BitVec.ofNat w v).toInt

/-- The low `w` bits of `v`, sign-extended to 64. -/
def sext64 (w v : Nat) : Word := (BitVec.ofNat w v).signExtend 64

/-- Ceiling division. -/
def cdiv (a b : Nat) : Nat := (a + b - 1) / b

/-- `v` rounded up to a multiple of `m`. -/
def roundUp (v m : Nat) : Nat := cdiv v m * m

/-- A counter that saturates at its highest value. -/
def satAdd {w : Nat} (c : BitVec w) (n : Nat) : BitVec w :=
  if c.toNat + n < 2 ^ w then BitVec.ofNat w (c.toNat + n) else BitVec.allOnes w

/-- The bytes of a flit, byte 0 first. -/
def flitBytes (f : Flit) : Bytes := leBytes 64 f.toNat

/-- The flit that holds a byte string. -/
def flitOf (bs : Bytes) : Flit := BitVec.ofNat 512 (leNat (padTo 64 bs))

/-- Number of one bits. -/
def popcount {w : Nat} (v : BitVec w) : Nat := (List.range w).countP fun i => v.getLsbD i

/-! ## Tables by number -/

/-- The entry of a table, if it is listed. -/
def Tab.get? {α : Type} : List (Nat × α) → Nat → Option α
  | [], _ => none
  | (i, a) :: t, k => if i = k then some a else Tab.get? t k

/-- The entry of a table, or the default. -/
def Tab.get {α : Type} (d : α) (t : List (Nat × α)) (k : Nat) : α := (Tab.get? t k).getD d

/-- The table with one entry set, in rising order of the index. -/
def Tab.put {α : Type} : List (Nat × α) → Nat → α → List (Nat × α)
  | [], k, a => [(k, a)]
  | (i, b) :: t, k, a =>
    if k < i then (k, a) :: (i, b) :: t
    else if k = i then (k, a) :: t
    else (i, b) :: Tab.put t k a

/-- The table without an entry. -/
def Tab.del {α : Type} (t : List (Nat × α)) (k : Nat) : List (Nat × α) := t.filter fun e => e.1 != k

/-! ## The byte memory

A list of (address, byte) pairs, addresses strictly rising, no byte equal to zero; an address that is not listed reads
as zero (log entry 3). -/

/-- The byte at an address. -/
def memGet : List Host.Cell → Nat → Byte
  | [], _ => 0
  | (i, b) :: t, a => if i = a then b else memGet t a

/-- The memory with one byte set, in canonical form. -/
def memSet : List Host.Cell → Nat → Byte → List Host.Cell
  | [], a, b => if b = 0 then [] else [(a, b)]
  | (i, c) :: t, a, b =>
    if a < i then (if b = 0 then (i, c) :: t else (a, b) :: (i, c) :: t)
    else if a = i then (if b = 0 then t else (a, b) :: t)
    else (i, c) :: memSet t a b

/-- `n` bytes from an address upwards. -/
def memRead (m : List Host.Cell) (a : Nat) : Nat → Bytes
  | 0 => []
  | n + 1 => memGet m a :: memRead m (a + 1) n

/-- The memory with a byte string written from an address upwards. -/
def memWrite (m : List Host.Cell) (a : Nat) : Bytes → List Host.Cell
  | [] => m
  | b :: bs => memWrite (memSet m a b) (a + 1) bs

/-- The memory with `n` bytes from `a` set to zero: the listed bytes of the range are dropped. -/
def memClear (m : List Host.Cell) (a n : Nat) : List Host.Cell := m.filter fun c => c.1 < a || a + n ≤ c.1

/-- The canonical form of the memory: addresses strictly rising, no zero byte listed. -/
def Memory.wf (m : List Host.Cell) : Bool :=
  m.all (fun c => c.2 != 0) && (m.zip m.tail).all fun e => e.1.1 < e.2.1

/-! ## Checks over byte strings -/

/-- One bit step of a CRC of width `w`, most significant bit first. -/
def crcStep {w : Nat} (poly r : BitVec w) (d : Bool) : BitVec w :=
  let top := r.msb != d
  let r' := r <<< 1
  if top then r' ^^^ poly else r'

/-- A byte into a CRC, most significant bit first. -/
def crcByte {w : Nat} (poly : BitVec w) (r : BitVec w) (b : Byte) : BitVec w :=
  [7, 6, 5, 4, 3, 2, 1, 0].foldl (fun r i => crcStep poly r (b.getLsbD i)) r

/-- The CRC-64 of ECMA-182 (06 R207): initial value 0, no final XOR, most significant bit first. -/
def crc64 (bs : Bytes) : Word := bs.foldl (crcByte 0x42F0E1EBA9EA3693#64) 0

/-- The 16-bit CRC of GUARD_DETECT (10 R331): generator 0x1_8BB7, initial value 0, no final XOR. -/
def crc16 (bs : Bytes) : BitVec 16 := bs.foldl (crcByte 0x8BB7#16) 0

/-- A byte with its bits in the opposite order. -/
def byteRev (b : Byte) : Byte := b.reverse

/-- The CRC-32 of IEEE 802.3 over the bytes of a flit (11 R368): bits of a byte least significant first, the result
with its bits reversed, initial value and final XOR all ones. -/
def crc32 (bs : Bytes) : Word32 :=
  (bs.foldl (fun r b => crcByte 0x04C11DB7#32 r (byteRev b)) (BitVec.allOnes 32)).reverse ^^^ BitVec.allOnes 32

end Sys2Proof.Machine
end

