-- ==== Sys2Proof/Machine/Codes.lean ====
section
/-! DEFINITION. The codes of the fabric's FEC: RS(136,128) and RS(544,514) over GF(2^10), their four-lane symbol
distribution, and their decoder (11 R364, R365; log entry 42). -/

namespace Sys2Proof.Machine

open Sys2Proof

/-! ## The field GF(2^10) -/

/-- Multiplication by x modulo x^10 + x^3 + 1. -/
def fecTwo (a : Nat) : Nat := if a < 512 then 2 * a else (2 * a) ^^^ 0x409

def fecMulGo : Nat → Nat → Nat → Nat
  | 0, _, _ => 0
  | k + 1, a, b => (if b % 2 = 1 then a else 0) ^^^ fecMulGo k (fecTwo a) (b / 2)

def fecMul (a b : Nat) : Nat := fecMulGo 10 a b

/-- α^k, α a root of the field polynomial. -/
def fecExp : Nat → Nat
  | 0 => 1
  | k + 1 => fecTwo (fecExp k)

def fecPow (a : Nat) : Nat → Nat
  | 0 => 1
  | k + 1 => fecMul a (fecPow a k)

def fecInv (a : Nat) : Nat := fecPow a 1022

/-- The value at `x` of a polynomial whose lowest coefficient comes first. -/
def fecEval (p : List Nat) (x : Nat) : Nat := p.foldr (fun c acc => c ^^^ fecMul acc x) 0

/-- Sum of two polynomials. -/
def fecAdd (p q : List Nat) : List Nat := (List.range (max p.length q.length)).map fun i => p.getD i 0 ^^^ q.getD i 0

/-! ## The codes -/

/-- A code of `n` symbols, `k` of them the message, with the generator (x − α^0) … (x − α^(n−k−1)). -/
structure RsCode where
  n : Nat
  k : Nat

/-- The codes of Quick and Standard FEC. -/
def fecCode (quick : Bool) : RsCode := if quick then ⟨136, 128⟩ else ⟨544, 514⟩

/-- The generator, highest coefficient first. -/
def RsCode.generator (r : RsCode) : List Nat :=
  (List.range (r.n - r.k)).foldl (fun g i => List.zipWith (· ^^^ ·) (g ++ [0]) (0 :: g.map (fecMul (fecExp i)))) [1]

/-- One message symbol goes through the division by the generator. -/
def RsCode.divide (r : RsCode) (rem : List Nat) (m : Nat) : List Nat :=
  let f := m ^^^ rem.headD 0
  List.zipWith (· ^^^ ·) (rem.tail ++ [0]) (r.generator.tail.map (fecMul f))

/-- The codeword of a message: its symbols, then the remainder. -/
def RsCode.encode (r : RsCode) (msg : List Nat) : List Nat :=
  msg ++ msg.foldl r.divide (List.replicate (r.n - r.k) 0)

/-- Syndrome j of a word. -/
def fecSyndrome (w : List Nat) (j : Nat) : Nat := w.foldl (fun acc c => fecMul acc (fecExp j) ^^^ c) 0

/-- The error locator as it grows, and what its next change needs. -/
structure Locator where
  poly : List Nat
  prev : List Nat
  len : Nat
  gap : Nat
  last : Nat

/-- The locator after syndrome `n`. -/
def Locator.step (syn : List Nat) (l : Locator) (n : Nat) : Locator :=
  let d := (List.range (l.len + 1)).foldl (fun acc i => acc ^^^ fecMul (l.poly.getD i 0) (syn.getD (n - i) 0)) 0
  let poly := fecAdd l.poly (List.replicate l.gap 0 ++ l.prev.map (fecMul (fecMul d (fecInv l.last))))
  if d = 0 then { l with gap := l.gap + 1 }
  else if 2 * l.len ≤ n then ⟨poly, l.poly, n + 1 - l.len, 1, d⟩
  else { l with poly := poly, gap := l.gap + 1 }

def locate (syn : List Nat) : Locator := (List.range syn.length).foldl (Locator.step syn) ⟨[1], [1], 0, 1, 1⟩

/-- The word with the errors that its syndromes locate taken out. -/
def RsCode.repair (r : RsCode) (w syn : List Nat) : List Nat :=
  let lam := (locate syn).poly
  let omega := (List.range syn.length).map fun i =>
    (List.range (i + 1)).foldl (fun acc j => acc ^^^ fecMul (lam.getD j 0) (syn.getD (i - j) 0)) 0
  let slope := (lam.tail.zipIdx).map fun e => if e.2 % 2 = 0 then e.1 else 0
  (w.zipIdx).map fun e =>
    let x := fecExp (r.n - 1 - e.2)
    let y := fecInv x
    if fecEval lam y = 0 then e.1 ^^^ fecMul x (fecMul (fecEval omega y) (fecInv (fecEval slope y))) else e.1

/-- Symbols in which two words differ. -/
def symbolErrors (v w : List Nat) : Nat := (List.zip v w).countP fun e => e.1 ≠ e.2

/-- The decoder: the codeword within (n − k)/2 symbols of the word; `none` is an uncorrectable word. -/
def RsCode.correct (r : RsCode) (w : List Nat) : Option (List Nat) :=
  let syn := (List.range (r.n - r.k)).map (fecSyndrome w)
  if syn.all (· == 0) then some w
  else
    let v := r.repair w syn
    if ((List.range (r.n - r.k)).all fun j => fecSyndrome v j == 0) ∧ symbolErrors v w ≤ (r.n - r.k) / 2 then some v else none

/-! ## The lanes -/

/-- The symbols of a codeword from its lanes: symbol i is sent on lane i mod 4. -/
def laneSymbols (r : RsCode) (c : LaneWord) : List Nat :=
  (List.range r.n).map fun i => ((c.getD (i % 4) []).getD (i / 4) 0).toNat

/-- The codeword on the lanes that carries a piece of the link stream: under Standard the last 20 message bits are zero. -/
def lineWord (quick : Bool) (stream : List Nat) : LaneWord :=
  let w := (fecCode quick).encode (if quick then stream else stream ++ [0, 0])
  (List.range 4).map fun l => (w.zipIdx.filter fun e => e.2 % 4 = l).map fun e => BitVec.ofNat 10 e.1

/-- What the decoder of a mode finds in a received codeword: the number of symbols corrected, or an uncorrectable word. -/
def rxWord (quick : Bool) (c : LaneWord) : Option Nat :=
  let w := laneSymbols (fecCode quick) c
  ((fecCode quick).correct w).map fun v => symbolErrors v w

end Sys2Proof.Machine
end

