-- ==== Sys2Proof/Config.lean ====
section
/-! DEFINITION. What the spec leaves open: constants with no body, so that no proof can see a value of them. A free
value is one of the functions below applied to a counter that the state carries (`State.free`) or to the operands that
it depends on. -/

namespace Sys2Proof.Config

/-- A free choice among alternatives that the spec allows, or a free number (log entry 2). -/
opaque freeNat : Nat → Nat

/-- A byte that the spec does not fix (log entry 2). -/
opaque freeByte : Nat → Byte

/-- A word that the spec does not fix (log entry 2). -/
opaque freeWord : Nat → Word

/-- The bits of an integer lane of a V-slot operation whose exact result lies outside the lane type (03 R98: the result
is not given; log entry 17): operation code, lane width, and the operands' bits. -/
opaque intLane : Nat → Nat → Nat → Nat → Nat → Nat

/-- Which bank, within its pseudo-channel, a granule offset takes: of an even offset the bank itself, of an odd one its
place among the banks that its neighbours do not have (10 R327: otherwise not given; log entry 12). -/
opaque bankOf : Nat → Nat

/-- The row of a granule offset in its bank (10 R327: not given; log entry 12). -/
opaque rowOf : Nat → Nat

/-- The set of a slice's cache that holds a granule, before reduction modulo the number of sets (10 R341: not given;
log entry 13). -/
opaque llmSet : Nat → Nat

/-- The SECDED syndrome of a word of slice SRAM with an error (10 R343: the code is not given; log entry 14). -/
opaque secdedSyndrome : Nat → Byte

/-- Bytes of the SSD on the flash port that one image may take (17 R570: the capacity is not given; log entry 57). -/
opaque frostSpace : Nat

/-- What the pins hold when the boundary scan cells sample them (19 R617: the levels come from the board; log entry 68). -/
opaque pinLevels : Nat → Nat

/-- A measurement register after it is extended by a digest (18 R586: the extension is not given; log entry 50). -/
opaque measureExtend : BitVec 384 → BitVec 384 → BitVec 384

/-- The digest of the boot ROM (18 R586: its contents are not given; log entry 50). -/
opaque bootRomDigest : BitVec 384

/-- The digest of the straps, PKG_ID, PKG_HBM, the key slot used and the fused minimum SVN (18 R586: their layout is not
given; log entry 50). -/
opaque configDigest : BitVec 6 → Word → Word → Nat → BitVec 32 → BitVec 384

/-- The SHA-384 of the key that is fused in slot 0 to 3 (18 R585: set in manufacture; log entry 118). -/
opaque fusedKey : Nat → Bytes

/-- Bytes of a vector register of a steward core, which `vlenb` reads (14 R461: RVA23U64 leaves it open; log entry 138). -/
opaque vlenb : Word

/-- The body of an SPDM response, for the request's name and its parameters (18 R587: given by DMTF SPDM 1.3, outside
the spec; log entry 51). -/
opaque spdmBody : String → Bytes → List (BitVec 384) → Bytes

end Sys2Proof.Config
end

