-- ==== Sys2Proof/Machine/State.lean ====
section
/-! DEFINITION. The state of one package, as plain data: everything the spec gives it, the queue of waiting commands,
and what it has sent. A table indexed by a number is a list of (index, value) pairs in rising order of the index; an
index that is not listed has the default that the field's docstring or its accessor gives. -/

namespace Sys2Proof.Machine

open Sys2Proof

/-- A table by number: pairs in rising order of the key. -/
abbrev Table (α : Type) := List (Nat × α)

/-! ## Faults and refusals of the model -/

/-- Why the model stops: nothing does. A fault of the package (a fault record, a teardown) is a next state. -/
inductive Fault where
deriving DecidableEq, Repr

/-- Why a command is refused. -/
inductive Refusal where
  /-- Raised by an arm of `exec` whose command has no meaning yet. Safe. -/
  | notModelled (mnemonic : String)
deriving DecidableEq, Repr

/-! ## Fault records -/

/-- A fault record (15 R514); SEQ, PARTITION, JOB, SCOPE and SECONDARY are filled when it is written. -/
structure FaultRec where
  code : BitVec 16
  source : BitVec 16
  season : Word
  addr : Word := 0
  d0 : Word := 0
  d1 : Word := 0
  d2 : Word := 0
  d3 : Word := 0
deriving DecidableEq, Repr

/-! ## Season (02) -/

/-- The Season lock states (02 R54). -/
inductive LockState where
  | unlocked
  | acquiring
  | locked
  | holdover
deriving DecidableEq, Repr

/-- The local copy of an island other than K0 (02 R45, R46, R48): its difference from the K0 copy in ticks, a difference
that a count-sync word has found and that has not shown in `off` yet (log entry 70), the correction still to be made by
slewing, and the K0 count at the last slewed tick. -/
structure Island where
  off : Int := 0
  drift : Int := 0
  slew : Int := 0
  lastSlew : Nat := 0
deriving DecidableEq, Repr

/-- One Month of the schedule (15 R501). -/
structure Month where
  part : Nat
  start : Nat
  len : Nat
deriving DecidableEq, Repr

/-- The Season block and the Season master logic (02 R79, 15 R520). -/
structure Season where
  k0 : Word
  running : Bool
  state : LockState
  role : BitVec 2
  hops : Byte
  refPresent : Bool
  priority : Byte
  source : Bool
  ppsBase : Word
  holdoverMax : Word
  inForce : Byte × Bool × Word × Word
  offset : BitVec 32
  master : Option PkgId
  lockEvents : BitVec 32
  islandSlips : BitVec 32
  launchWindow : Table (BitVec 16)
  linkDelay : Table (BitVec 32)
  slew : Int
  lastSlew : Nat
  islands : Table Island
  countSync : Bool
  parent : Option PortId
  ppsEdges : List Nat
  timerefOk : Bool
  holdoverAt : Nat
  yearLog2 : BitVec 5
  commitAt : Option Nat
  yearBase : Word
  handoverLead : Word
  months : Table Month
  monthsNext : Table Month
  /-- SEA_MONTH_NEXT entries last written with VALID clear: the other fields as written (00 R9). -/
  monthsIdle : Table Word
  /-- The planned return of each block that is lent, for SEA_RESUME_AT (15 R518). -/
  resumeAt : Table Word
deriving DecidableEq, Repr

/-! ## The compute core (03) and its matrix unit (04, 05) -/

/-- A launch of a kernel on one core (14 R475, R476, 02 R61). -/
structure Launch where
  part : Nat
  pos : Nat
  entry : Word
  args : Word
  rank : Nat
  size : Nat
  equinox : Nat
  deadline : Nat
  /-- SEA_LAUNCH_WINDOW of the partition when the entry was fetched (02 R81). -/
  window : Nat
deriving DecidableEq, Repr

/-- What a core is doing (03 R49, R123, R125). -/
inductive CorePhase where
  | idle
  | running
  /-- HALT has issued; the core waits for its stores, tags and lanes. -/
  | halting
  /-- Stopped by a teardown (15 R513). -/
  | stopped
deriving DecidableEq, Repr

/-- Where a core stands in a pre-emption (15 R505 to R510). -/
inductive Preempt where
  | live
  | quiescing (at_ : Nat)
  | saving
  | saved
  | restoring
deriving DecidableEq, Repr

/-- A load or store of the S slot that has not returned or been acknowledged (03 R86, R119). -/
structure MemOp where
  store : Bool
  addr : Word
  size : Nat
  signed : Bool
  reg : BitVec 5
  data : Word
  /-- The data of a load, or the completion of a store, that has been fixed: by the core's own memories at issue, by
  a cache hit, or by a reply. -/
  answer : Option Word
  /-- The access is a transaction of the fabric. -/
  remote : Bool
  /-- Its place in the order of issue among the core's accesses and transfers (03 R118). -/
  seq : Nat
deriving DecidableEq, Repr

/-- An asynchronous transfer of the D slot under a tag (03 R105, R106). -/
structure Dma where
  tag : Nat
  op : Byte
  /-- The operand registers' values, and IMM. -/
  ga : Word
  so : Word
  len : Word
  imm : BitVec 20
  /-- The address of the word that issued it. -/
  word : Word
  /-- The register that a DATOM's old value replaces. -/
  reg : BitVec 5
  mv : Bool
  /-- The parts within the package: local address, scratchpad offset, bytes. -/
  pieces : List (Nat × Nat × Nat)
  /-- Transactions of the fabric that have not completed; 1 for a post that the admitter has not taken. -/
  left : Nat
  /-- A fault found in the operands, raised once the earlier parts are done: code, faulting address, detail words. -/
  fault : Option FaultRec
  /-- The value that a DATOM returns. -/
  result : Option Word
  /-- Its place in the order of issue among the core's accesses and transfers (03 R118). -/
  seq : Nat
  /-- Scratchpad offsets of the 64-byte blocks that an entry of a DGATH has written (08 R301). -/
  landed : List Nat
deriving DecidableEq, Repr

/-- An MBSEND whose answer has not returned: the register and the result (03 R110). -/
structure MbPending where
  reg : BitVec 5
  result : BitVec 2
deriving DecidableEq, Repr

/-- A line of a core's cache: the address of its 64 bytes and the bytes (03 R115, R116). -/
structure CacheLine where
  addr : Nat
  data : Bytes
deriving DecidableEq, Repr

/-- A weight bank of one engine (04 R135, 05 R174): the FMT and 2:4 declaration that wrote it, the element codes of
its K rows of 16 columns, row-major, the E8M0 scale of each column, and which 4 × 4 blocks are present. -/
structure Bank where
  record : Option (BitVec 4 × Bool)
  codes : List Nat
  scales : List Nat
  present : List Bool
deriving DecidableEq, Repr

/-- The four engines' banks: `active` computes, `shadow` is loaded (04 R135). -/
structure EngineBanks where
  active : Bank
  shadow : Bank
deriving DecidableEq, Repr

/-- A matrix operation in its lane, with the operands read at issue (04 R141, R150). -/
structure MatOp where
  seq : Nat
  op : Byte
  emask : BitVec 4
  fmt : BitVec 4
  imm : BitVec 17
  a : Word
  b : Word
  c : Word
  word : Word
  slotBits : BitVec 48
  running : Bool
  /-- The 32-bit entries, and the bytes, that a running operation writes: for each address the successive values, the
  last one final (04 R152, R153). -/
  entries : List (Nat × List Word32)
  bytes : List (Nat × Byte)
  flags : BitVec 5
  /-- What a running MWLD loads: the banks of engines, or rows of the activation buffer with their scales (04 R135,
  R138). -/
  banks : Table Bank := []
  rows : List Bytes := []
  rowScales : List (List Nat) := []
deriving DecidableEq, Repr

/-- The matrix unit (04 R131 to R139, R150). -/
structure Matrix where
  stratus : Bool
  engines : Table EngineBanks
  actFmt : BitVec 4
  actRows : List Bytes
  actScales : List (List Nat)
  lastM : Nat
  lastK : Nat
  seq : Nat
  loadQ : List MatOp
  compQ : List MatOp
deriving DecidableEq, Repr

/-- A batch of spilled Drift entries: its spill number, the local address of its 64 bytes, and which of its four
copies are unconsumed (05 R191, R195). -/
structure Batch where
  no : Nat
  addr : Nat
  live : List Bool
deriving DecidableEq, Repr

/-- Drift beside its entries, which lie in the core's Drift window (05 R188 to R193). -/
structure Drift where
  /-- Sequence numbers taken since Drift was last empty. -/
  seq : Nat
  /-- Spill numbers taken since Drift was last empty. -/
  spill : Nat
  /-- The latched descriptor: SP_BASE, SP_SIZE, HBM_BASE (local), HBM_SIZE. -/
  latch : Option (Nat × Nat × Nat × Nat)
  spFill : Nat
  hbmFill : Nat
  batches : List Batch
deriving DecidableEq, Repr

/-- A word that has issued and whose D or C slot waits for the M slot of the same word: the registers that its D and C
slots read and the core's Season copy, as they were at issue, and the word (03 R86, R88, R117, 04 R151). -/
structure WordTail where
  s : Vector Word 32
  v : Vector Vec 32
  p : Byte
  fpflags : BitVec 5
  status : BitVec 2
  dmas : List Dma
  cycle64 : Nat
  copy : Nat
  word : Nat
deriving DecidableEq, Repr

/-- A compute core (03 R92, R127). Its scratchpad, accumulator store and Drift entries lie in memory, at its core
window (01 R27). -/
structure Core where
  s : Vector Word 32
  v : Vector Vec 32
  p : Byte
  vm : Vector Word 8
  pc : Word
  status : BitVec 2
  fpflags : BitVec 5
  /-- Core cycles since reset, in 1/64 cycle (03 R127, 19 R607). -/
  cycle64 : Nat
  rank : BitVec 16
  size : BitVec 16
  /-- The AES-128 round keys 0 to 10; empty when no seed is loaded (03 R120). -/
  keys : List (BitVec 128)
  phase : CorePhase
  /-- The partition whose context is live on the core. -/
  ctx : Option Nat
  preempt : Preempt
  cur : Option Launch
  /-- Lateness of the running kernel's launch on this core; `none` when it was not late. -/
  late : Option Nat
  mayVary : Bool
  pendingLaunch : Option Launch
  armed : Option (Launch × Option Nat)
  mops : List MemOp
  dmas : List Dma
  mb : List MbPending
  /-- The result of the core's last post, as MBX_RESULT shows it (16 R541). -/
  mbxResult : BitVec 2
  /-- Scalar registers that the last word with STOP has still to write (03 R89). -/
  stopRegs : List (BitVec 5)
  /-- A word waits in SEMWAIT: its semaphore has queued it, and whether the take has been served (14 R481). -/
  semWait : Option Bool
  /-- The word in issue, when its D and C slots have still to take effect. -/
  tail : Option WordTail
  icache : List CacheLine
  dcache : List CacheLine
  matrix : Matrix
  drift : Drift
deriving DecidableEq, Repr

/-! ## Partitions (15), their rings and semaphores (14) -/

/-- The states of a partition (15 R493). -/
inductive PState where
  | absent
  | active
  | teardown
  | faulted
  | deferred
deriving DecidableEq, Repr

/-- The type of a command-list entry (14 R473). -/
inductive EntryType where
  | kernel
  | dma
  | monsoon
  | forecast
  | ret
  | collective
  | waitSeason
  | waitSem
  | loopUntil
  | signalSem
  | signalWord
  | signalTime
deriving DecidableEq, Repr

/-- A fetched entry that has not passed CMD_CONSUMER (14 R470). -/
structure Item where
  pos : Nat
  type : EntryType
  mv : Bool
  equinox : Nat
  deadline : Nat
  param : BitVec 48
  arg : Word
  /-- SEA_LAUNCH_WINDOW of the partition when the entry was fetched (02 R81). -/
  window : Nat
  /-- Armed at the unit that carries it out. -/
  armed : Bool
  /-- Its work has started (02 R59). -/
  started : Bool
  complete : Bool
  /-- Its completion has been written (14 R480). -/
  written : Bool
  late : Option Nat
  /-- Cores of a KERNEL that have not halted; requests of a DMA that have not completed. -/
  left : Nat
  doneAt : Nat
  detail : Word32
  /-- The Monsoon step slot of a MONSOON or RETURN entry, the Forecast slot of a FORECAST entry. -/
  slot : Nat
  /-- The X-die whose dispatcher holds a RETURN entry (07 R258; log entry 78). -/
  die : Nat
  /-- DMA: the global address of the destination; the fault that ends the copy once its requests are done; and the data
  read so far, by offset, of a compressed copy from another package. -/
  copyTo : Nat
  fault : Option FaultRec
  buf : List (Nat × Bytes)
deriving DecidableEq, Repr

/-- A loop in progress: position of the LOOP_UNTIL, BODY, the trip, and the loop descriptor (14 R483, R484). -/
structure Loop where
  pos : Nat
  body : Nat
  trip : Nat
  word : Nat
  value : Nat
  mask : Nat
  op : Nat
  exitAt : Bool
  bound : Nat
  period : Nat
  exitCount : Nat
deriving DecidableEq, Repr

/-- The command and completion rings of a partition (14 R465 to R471). -/
structure Ring where
  base : Nat
  log2 : Nat
  cplBase : Nat
  reserved : Nat
  fetched : Nat
  consumer : Nat
  items : List Item
  loop : Option Loop
  /-- The command processor was told of, or has found, a valid entry at the next position (14 R468). -/
  awake : Bool
deriving DecidableEq, Repr

/-- Who waits on a semaphore (14 R481). -/
inductive Waiter where
  /-- A core's SEMWAIT; `faulty` when its word will raise a fault as it issues, so that it takes nothing (03 R128). -/
  | core (c : Nat) (n : Word) (faulty : Bool)
  | entry (pos : Nat) (n : Nat)
deriving DecidableEq, Repr

/-- A partition (15 R491, R494, R515, R519; 14 R465, R481; 17 R555, R572). -/
structure Partition where
  state : PState
  job : BitVec 32
  calm : Bool
  allowMv : Bool
  realtime : Bool
  lendable : Bool
  faults : Nat
  home : BitVec 288
  claim : BitVec 288
  stewards : List Nat
  /-- Indices of its regions in the region table. -/
  regions : List Nat
  /-- Its last-level memory ranges: slice, offset in the slice, bytes. -/
  ranges : List (Nat × Nat × Nat)
  save : Nat
  saveRegion : Option Nat
  faultArea : Nat
  creator : BitVec 16
  /-- For a DEFERRED partition: X, the blocks it needs, its AFFINITY addresses, the order of its CREATE. -/
  deferral : Option (Nat × Nat × List Nat × Nat)
  /-- An accepted DESTROY that has not yet released the partition: AT, 0 for at once, and the SENDER_ID. -/
  destroyAt : Option (Nat × BitVec 16)
  /-- Fault records that have not been written: primary first. -/
  records : List FaultRec
  recordsWritten : Nat
  /-- Records taken for slots 0 to 15 since the first fault. -/
  recordsTaken : Nat
  notices : Nat
  ring : Ring
  sems : Table Word32
  waiters : Table (List Waiter)
  secureThreshold : Byte
  secureArmed : Bool
  seedDigest : Option Word
deriving DecidableEq, Repr

/-- A steward core (14 R461, R487, R488). -/
structure Steward where
  part : Option Nat
  running : Bool
  semSel : BitVec 6
  semTake : Word
  wakeAt : Word
  trapVec : Word
  trapActive : Bool
  trapCause : BitVec 6
  trapEpc : Word
  trapTval : Word
  trapScratch : Word
  /-- Where the steward resumes after a delivered exception. -/
  pc : Word
  /-- It waits in WFI, which ends at this K0 count at the latest; and whether an event of R488 has come since. -/
  waiting : Option Nat
  woken : Bool
  mbxResult : BitVec 2
  /-- The `cycle` and `instret` counters (14 R463). -/
  cycle : Word
  instret : Word
  /-- The integer and floating-point registers (14 R461, R464): what steward code does with them is RISC-V's. -/
  xregs : Table Word
  fregs : Table Word
  /-- The vector and floating-point state of the RVA23U64 profile (14 R461; log entry 138): v0 to v31, as numbers, `vl`,
  `vtype`, `vstart`, `vcsr` and `fcsr`. -/
  vregs : Table Nat
  vl : Word
  vtype : Word
  vstart : Word
  vcsr : BitVec 3
  fcsr : Byte
deriving DecidableEq, Repr

/-! ## Monsoon (06, 07) and Forecast (08) -/

/-- A step descriptor and its combine descriptor (06 R205, 07 R252). -/
structure StepDesc where
  step : BitVec 16
  group : BitVec 12
  k : Nat
  spares : Nat
  mode : Nat
  renorm : Bool
  gate : Nat
  modeByte : Byte
  fmtByte : Byte
  fmtIn : BitVec 4
  fmtW : BitVec 4
  dm64 : Nat
  tokens : Nat
  experts : Nat
  tokenBase : Nat
  routerIn : Nat
  gateW : Nat
  gateBias : Nat
  table : Nat
  slotMap : Nat
  result : Nat
  summary : Nat
  resultSem : Byte
  out : Nat
  stage : Nat
  tags : Nat
  status : Nat
  outStride : Nat
  retFmt : BitVec 4
  outFmt : BitVec 4
  combineSem : Byte
  outSpread : Nat
deriving DecidableEq, Repr

/-- The fate of a primary choice (06 R226, R231). -/
inductive ChoiceState where
  /-- It belongs to the round in progress. -/
  | open_
  | admitted (row : Nat)
  | dropped
deriving DecidableEq, Repr

/-- A choice of a token: step row, choice rank, expert after any deferral, gate weight, replica, admission unit. -/
structure Choice where
  row : Nat
  rank : Nat
  expert : Nat
  gate : BitVec 16
  replica : Nat
  pkg : PkgId
  slot : Nat
  capacity : Nat
  round : Nat
  deferred : Bool
  state : ChoiceState
  /-- It has been sent by the dispatcher. -/
  sent : Bool
deriving DecidableEq, Repr

/-- An entry of the expert table as the admitter read it (06 R216, R217). -/
structure ExpertEntry where
  valid : Bool
  bad : Bool
  replicas : Nat
  capacity : Nat
  units : List (PkgId × Nat)
deriving DecidableEq, Repr

/-- An entry of the slot map (06 R240). -/
structure SlotEntry where
  expert : Nat
  valid : Bool
  pool : Nat
  sem : Nat
  batch : Nat
deriving DecidableEq, Repr

/-- A record of a count packet, held at the host (06 R222): round, member, slot, count, capacity, expert. -/
structure CountRec where
  round : Nat
  member : PkgId
  slot : Nat
  count : Nat
  capacity : Nat
  expert : Nat
deriving DecidableEq, Repr

/-- A row being reassembled from compressed chunks (06 R239): key, dense length, chunks held, whether LAST came. -/
structure Reassembly where
  /-- Receiver rows: (slot, batch row); combiner rows: (256 + rank, step row). -/
  key : Nat × Nat
  stepSlot : Nat
  dense : Nat
  chunks : List (Nat × Bytes)
  last : Option Nat
deriving DecidableEq, Repr

/-- A Monsoon step slot that is not free (06 R204, R248). -/
structure Step where
  part : Nat
  pos : Nat
  desc : Nat
  d : StepDesc
  equinox : Nat
  deadline : Nat
  late : Option Nat
  mv : Bool
  members : List PkgId
  digest : Word
  faulted : Bool
  round : Nat
  /-- Step rows that have arrived (06 R208). -/
  arrived : List Nat
  /-- X-dies whose quarter has been scored, selected and gated. -/
  scored : List Nat
  /-- The table buffer of each X-die, as its admitter read the table (06 R217). -/
  entries : Table (List ExpertEntry)
  slots : Table SlotEntry
  choices : List Choice
  /-- Spares of each step row, not yet used, in rank order: expert and gate weight. -/
  spares : Table (List (Nat × BitVec 16))
  /-- The round's counts have been sent. -/
  countsSent : Bool
  /-- Count packets received as a host: round, X-die, member. -/
  countFrom : List (Nat × Nat × PkgId)
  counts : List CountRec
  /-- Prefix packets awaited or received as a source: round, member, X-die; and the prefixes: round, member, slot. -/
  prefixFrom : List (Nat × PkgId × Nat)
  prefixes : List (Nat × PkgId × Nat × Nat)
  /-- The last admission round has ended on this package. -/
  admitted : Bool
  sentTo : Table Nat
  /-- Per hosted slot: the buffers taken, and N_r of the last round counted. -/
  buffers : Table (List Nat)
  batchN : Table Nat
  nFinal : List Nat
  /-- Chunks received per hosted row: slot, row, chunk; and rows complete: slot, row. -/
  rxChunks : List (Nat × Nat × Nat)
  rxRows : List (Nat × Nat)
  batchDone : List Nat
  /-- Returns launched, by slot: ring position, OUT_BATCH, RET_STRIDE, format; and returns begun: the next row, chunks
  not acknowledged. -/
  returns : Table (Nat × Nat × Nat × Nat)
  returning : Table (Nat × Nat)
  returned : List Nat
  /-- Result chunks staged: row, rank, chunk; results complete: row, rank. -/
  retChunks : List (Nat × Nat × Nat)
  retRows : List (Nat × Nat)
  combined : List Nat
  complete : Bool
  doneAt : Nat
  /-- The order in which the package armed it (06 R245). -/
  seq : Nat
  /-- The fault code of the abort that ended it (06 R242). -/
  abort : Option Nat
deriving DecidableEq, Repr

/-- A Forecast descriptor (08 R286). -/
structure FcDesc where
  nblk : Nat
  capBlk : Nat
  lastFill : Nat
  hgroups : Nat
  rows : Nat
  window : Nat
  segments : Nat
  kseg : Nat
  fmt : BitVec 4
  sem : Byte
  pinCount : Nat
  hgBytes : Nat
  wrap : Nat
  pages : Nat
  sums : Nat
  probes : Nat
  pins : Nat
  out : Nat
  outStride : Nat
deriving DecidableEq, Repr

/-- A Forecast slot that is not free (08 R285, R304). -/
structure Fc where
  part : Nat
  pos : Nat
  desc : Nat
  d : FcDesc
  equinox : Nat
  deadline : Nat
  late : Option Nat
  phase : BitVec 4
  pinList : List Nat
  /-- Segments scored: (head group, segment). -/
  scored : List (Nat × Nat)
  /-- Blocks kept: head group, row, block, score. -/
  kept : List (Nat × Nat × Nat × Word32)
  hg : Nat
  /-- Lists written, in the order of assembly. -/
  lists : Nat
  /-- Its place in the order of arming, among the Monsoon steps too (06 R245). -/
  seq : Nat
deriving DecidableEq, Repr

/-- What each X-die holds beside the package-wide slots (06 R230, R239, R248; 12 R411; 13 R444, R445, R460). -/
structure XDieState where
  choicesOut : BitVec 48
  rowsIn : BitVec 48
  dropped : BitVec 48
  deferred : BitVec 48
  scoreBusy : BitVec 48
  dispatchStall : BitVec 48
  early : List (Pkt × Bytes)
  earlyHigh : Nat
  lastFault : Word
  reassembly : List Reassembly
  replay : List (PkgId × BitVec 32 × Byte × Word × Nat)
  horizon : Nat
  collDone : BitVec 48
  collFaults : BitVec 48
  collBusy : BitVec 48
  collEarly : List (TreePkt × Bytes)
  collEarlyHigh : Nat
  collLastFault : Word
deriving DecidableEq, Repr

/-! ## The buffer pool manager (09) -/

/-- A pool (09 R305 to R308, R319). Its free ring, state bits and reference counts lie in memory at META. -/
structure Pool where
  owner : Nat
  cls : Nat
  count : Nat
  base : Nat
  metaAddr : Nat
  grant : BitVec 32
  /-- The on-chip cache of free indices, newest first. -/
  cache : List Nat
  /-- Slots of the free ring consumed and filled so far. -/
  ringHead : Nat
  ringTail : Nat
  low : Nat
deriving DecidableEq, Repr

/-- The counters of the manager (09 R324). -/
structure Bpm where
  allocs : BitVec 48
  frees : BitVec 48
  empty : BitVec 48
  lastFault : Word
deriving DecidableEq, Repr

/-! ## Memory hubs (10) -/

/-- A region of the region table (10 R328, R358): BASE and SIZE in units of 3 GiB. -/
structure Region where
  base : Nat
  size : Nat
  detect : Bool
  llmAlloc : BitVec 2
  /-- The partition that owns it; `none` for a region of firmware. -/
  owner : Option Nat
deriving DecidableEq, Repr

/-- A line of a slice's cache: its granule, a dirty bit per 64-byte block (10 R341). -/
structure LlmLine where
  granule : Nat
  dirty : BitVec 4
  /-- Dirty blocks that a double-bit error has spoiled (10 R344). -/
  spoiled : BitVec 4
  /-- Blocks, by number in the line, that the line holds otherwise than they were written: a fill delivered an error
  that the guard does not see (10 R330, R342). -/
  held : Table Bytes := []
deriving DecidableEq, Repr

/-- A traffic generator and checker (10 R354, R358). -/
structure TrafficGen where
  ctrl : Word
  errors : BitVec 32
  firstRow : BitVec 16
  done : Bool
  busy : Bool
deriving DecidableEq, Repr

/-- A stack: temperature, cap in 0.5 %, refresh, repairs (10 R349, R355, R358). -/
structure StackState where
  /-- MH_TEMP, and the last reading of the stack's own sensor, which outlives OFF (10 R349, 19 R621; log entry 136). -/
  temp : BitVec 16
  sensor : BitVec 16
  cap : Byte
  refresh2x : Bool
  hardUsed : BitVec 16
  softUsed : BitVec 16
  sparesLeft : BitVec 16
  /-- Spare rows at the last cold start (17 R552). -/
  sparesAtStart : BitVec 16
  selfRefresh : Bool
  /-- The results of its interface training (18 R582, R588). -/
  training : Word
deriving DecidableEq, Repr

/-- A memory hub (10 R358). -/
structure HubState where
  mode : BitVec 2
  corrected : BitVec 48
  uncorrectable : BitVec 48
  detected : BitVec 48
  onDie : BitVec 48
  llmHits : BitVec 48
  llmMisses : BitVec 48
  lastError : Word
  scrubPasses : BitVec 32
  scrubNext : Nat
  /-- Least recently used line first. -/
  lines : List LlmLine
  gens : Table TrafficGen
  /-- The data of the last HBM_READ served, by local address. -/
  lastRead : Option (Nat × Bytes)
deriving DecidableEq, Repr

/-! ## Ports (11) -/

/-- The states of a port (11 R382). -/
inductive PortState where
  | disabled
  | down
  | training
  | discovery
  | up
  | failed
  | mismatch
deriving DecidableEq, Repr

/-- Why a port trains (11 R383, R384, R386). -/
inductive TrainKind where
  | full
  | fast
deriving DecidableEq, Repr

/-- The last DISCOVERY flit of the peer (11 R388, R395). -/
structure PeerInfo where
  port : BitVec 6
  tray : BitVec 11
  trayValid : Bool
  optical : Bool
  quickOk : Bool
  role : BitVec 2
  slot : BitVec 4
deriving DecidableEq, Repr

/-- A packet being received (11 R377): the header flit, data flits expected, data flits so far. -/
structure OpenPkt where
  header : Flit
  vc : Nat
  expect : Nat
  flits : List Flit
  stomped : Bool
  /-- The port it is being forwarded to, when its header has been forwarded (11 R378); 56 when that port has lost lock
  since, and discards the rest (11 R380). -/
  forward : Option Nat
deriving DecidableEq, Repr

/-- The beacon exchange of a port (11 R391 to R394), times in 1/16 tick. -/
structure BeaconState where
  lastRxTx : Nat
  lastRxAt : Nat
  sent : List Nat
  exchanges : Nat
  delaySum : Int
  intervalExchange : Bool
  misses : Nat
  peerPriority : Byte
  peerMaster : PkgId
  peerHops : Byte
  peerRole : BitVec 2
  heard : Bool
deriving DecidableEq, Repr

/-- A fabric port (11 R360 to R395, 12 R428, R429). -/
structure Port where
  state : PortState
  enable : Bool
  fecMode : BitVec 2
  retrain : Bool
  training : Option TrainKind
  trainStart : Nat
  quick : Bool
  /-- This end's request for Quick FEC, and whether an optical module is attached, found in training (11 R366). -/
  wantQuick : Bool
  optical : Bool
  laneLock : BitVec 4
  peer : Option PeerInfo
  peerIdent : Word
  /-- The peer held before a retrain in SERVICE or a warm start, as (tray, slot, port). -/
  oldPeer : Option (BitVec 11 × BitVec 4 × BitVec 6)
  creditCfg : Word
  /-- This receiver's division as the last training took it (11 R373). -/
  division : Word
  /-- The far receiver's division, found in training (11 R374). -/
  creditInForce : Word
  fecCorrected : BitVec 48
  fecUncorr : BitVec 48
  crcDiscard : BitVec 48
  orphan : BitVec 48
  stompedIn : BitVec 48
  stompedOut : BitVec 48
  protoErr : BitVec 48
  retrains : BitVec 48
  beaconMiss : BitVec 48
  lanes : Table Word
  pseqTx : Table (BitVec 16)
  pseqRx : Table (BitVec 16)
  freed : Table (BitVec 16)
  freedSent : Table (BitVec 16)
  /-- SENT of the last IDLE flit sent (11 R370, R371). -/
  idleSent : Table (BitVec 16)
  peerFreed : Table (BitVec 16)
  open_ : Option OpenPkt
  markersSeen : Nat
  /-- In TRAINING, markers in a row as the Quick code decodes them; `markersSeen` are those of the Standard code. -/
  markersQuick : Nat
  markerSeq : BitVec 16
  beacon : BeaconState
  /-- The link coefficients of the last training (18 R588). -/
  coeff : Word
  savedCoeff : Bool
  savedQuick : Bool
deriving DecidableEq, Repr

/-! ## Transactions (12) -/

/-- What a transaction was sent for. -/
inductive Owner where
  /-- The S-slot load or store of a core at this address. -/
  | coreMem (c : Nat) (addr : Word) (store : Bool)
  /-- Bytes of a transfer under a tag: core, tag, scratchpad offset of the data. -/
  | coreDma (c tag off : Nat)
  | datom (c tag : Nat)
  /-- A DMA entry of a ring, with the local address at which a READ's data is stored. -/
  | entry (p pos : Nat) (dst : Nat)
  /-- A message of a Monsoon step: count, prefix, abort or dispatch. -/
  | monsoon (sl : Nat)
  /-- A chunk of a returned slot. -/
  | ret (sl slot : Nat)
  | coll (group : BitVec 12) (equinox : Word)
  /-- A multicast copy forwarded for the copy received in transaction (src, reqId), or sent at the origin. -/
  | mcast (src : PkgId) (reqId : BitVec 32)
  | ckpt (p : Nat)
  /-- A READ of a Dew restore: bytes of shard k, at an offset of its header and data (17 R568). -/
  | shard (p k off : Nat)
  | combined (members : List (BitVec 32 × Word))
  | probe (reqId : BitVec 32)
deriving DecidableEq, Repr

/-- Where a transaction stands (12 R404, R408, R410, R414, 15 R506). -/
inductive XState where
  | queued
  | sent
  | busy
  | probing
  | suspended
  /-- Held in the switch core's window that this request opened, or that the named request opened (12 R419). -/
  | window
  | joined (leader : BitVec 32)
deriving DecidableEq, Repr

/-- An outstanding transaction of an engine (12 R396). `tree` is set for a collective tree packet. -/
structure Xact where
  k : Pkt
  tree : Option TreePkt
  data : Bytes
  owner : Owner
  part : Nat
  state : XState
  first : Nat
  sentAt : Nat
  attempts : Nat
  lastStatus : Byte
deriving DecidableEq, Repr

/-- A WRITE_MCAST copy that this member has received and whose subtree is not complete (12 R422). -/
structure McastIn where
  k : Pkt
  left : Nat
deriving DecidableEq, Repr

/-- A routing table slot (12 R426, R430). -/
structure RouteTable where
  valid : Bool
  epoch : BitVec 2
  x0 : Word
  x1 : Word
  y0 : Word
  y1 : Word
  z : Word
deriving DecidableEq, Repr

/-- A packet that waits in a switch core for a credit on a port (12 R425): the port whose buffer it holds (56: none), the
credits it needs, its header without PSEQ, and its data. -/
structure OutPkt where
  src : Nat
  port : Nat
  need : Nat
  vc : Nat
  header : Flit
  data : Bytes
deriving DecidableEq, Repr

/-- Weathervane of a partition: its registers, and the headers counted at port n received (2n) and sent (2n + 1) (12
R428, R430). -/
structure Vane where
  n : BitVec 5
  on : Bool
  base : Word
  size : BitVec 24
  counts : Table Nat
deriving DecidableEq, Repr

/-- What one selection of the Anemometer counts, and the most input buffers in use at its port since FAB_ANEM_QDEPTH was
read (12 R429, R430). -/
structure Anem where
  pkts : BitVec 48
  bytes : BitVec 48
  stall : BitVec 48
  high : BitVec 16
deriving DecidableEq, Repr

/-- The fabric registers and state common to the package (11 R395, 12 R426 to R430). -/
structure Fabric where
  sysDim : BitVec 32
  /-- FAB_SYS_DIM as the last training took it (11 R395). -/
  dimInForce : BitVec 32
  timeout : BitVec 16
  maxTransit : BitVec 16
  epoch : BitVec 2
  epochAt : Word
  /-- The count of the last switch made (12 R426). -/
  epochDone : Word
  combine : Bool
  tables : Table RouteTable
  retiring : Option (Nat × Nat)
  retries : BitVec 48
  unknown : BitVec 48
  busy : BitVec 48
  lateReply : BitVec 48
  epochDrop : BitVec 48
  combinedCnt : BitVec 48
  nextReq : BitVec 32
  xacts : List Xact
  mcastIn : List McastIn
  teardowns : List (BitVec 32 × Word)
  wv : Table Vane
  anemSel : Word
  /-- The Anemometer's counts, by selection. -/
  anem : Table Anem
  swqDepth : Table (BitVec 16 × BitVec 16)
  swqStall : Table (BitVec 48)
  /-- Packets received for this package and not yet applied, with the port and virtual channel of their buffer; port
  56 stands for the package network. -/
  rx : List (Nat × Nat × Flit × Bytes)
  outQ : List OutPkt
deriving DecidableEq, Repr

/-! ## Collectives (13) -/

/-- An entry of the group table (13 R432). -/
structure Group where
  owner : Nat
  job : BitVec 32
  listDigest : Word
  list : Nat
  members : List PkgId
  self : Nat
  trays : Nat
  trayIndex : Nat
  nw : Option Nat × Option Nat × Option Nat
  sw : Option Nat × Option Nat × Option Nat
  mask : BitVec 16
  leader : Nat
  /-- The tray leader table (13 R433). -/
  leaders : List Nat
deriving DecidableEq, Repr

/-- A tree packet held in a chunk buffer: tree, chunk, part, input (0 left, 1 right, 2 parent, 3 ROOT link), header and
data (13 R445, R448). -/
structure CollPart where
  tree : Nat
  chunk : Nat
  part : Nat
  input : Nat
  k : TreePkt
  data : Bytes
deriving DecidableEq, Repr

/-- An armed collective (13 R442 to R454). -/
structure Coll where
  part : Nat
  pos : Nat
  desc : Nat
  group : BitVec 12
  equinox : Word
  deadline : Nat
  kind : Nat
  op : Nat
  fmt : Nat
  sem : Byte
  root : Nat
  /-- This package's own member index. -/
  self : Nat
  count : Nat
  src : Nat
  dst : Nat
  stage : Nat
  calm : Bool
  digest : Word
  late : Option Nat
  mv : Bool
  /-- X-dies on which it has started (02 R61). -/
  started : List Nat
  /-- The parts received. -/
  got : List CollPart
  /-- Up chunks sent or, at a tree root, reduced: (tree, chunk). -/
  upDone : List (Nat × Nat)
  /-- Result chunks passed down and staged: (tree, chunk). -/
  downDone : List (Nat × Nat)
  /-- COLL_ROOT chunks staged at ROOT: (tree, chunk). -/
  rootDone : List (Nat × Nat)
  complete : Bool
  doneAt : Nat
  /-- Chunk buffers reserved on each X-die. -/
  buffers : Nat
  /-- The first abort received: its code, its ORIGIN and its sender (13 R456). -/
  abort : Option (Nat × PkgId × PkgId)
  /-- Its aborts have been sent or forwarded. -/
  aborted : Bool
deriving DecidableEq, Repr

/-! ## The host port, mailboxes and firmware (16) -/

/-- A command that a service has taken or a channel has fetched: sender, its partition, ring index, 64 bytes. -/
structure Taken where
  sender : BitVec 16
  part : Nat
  index : BitVec 32
  entry : Bytes
  /-- The read of the entry failed (16 R530). -/
  readError : Bool
  /-- The partitions that were ACTIVE when a service took it (16 R546). -/
  active : BitVec 32 := 0
deriving DecidableEq, Repr

/-- A notice that waits for room in a channel's completion ring (16 R538): code, RESULT0, RESULT1, continuation. -/
structure Notice where
  code : BitVec 16
  r0 : Word
  r1 : Word
  cont : Bytes
deriving DecidableEq, Repr

/-- A host channel (16 R527 to R534). -/
structure Channel where
  open_ : Bool
  draining : Bool
  reset : Bool
  ringError : Bool
  noticeLost : Bool
  timeoutFlag : Bool
  producer : BitVec 32
  consumer : BitVec 32
  generation : BitVec 16
  control : Word
  cmdBase : Word
  cplBase : Word
  cplConsumer : BitVec 32
  timeout : BitVec 16
  intr : Word
  part : Nat
  noPasid : Bool
  pasid : BitVec 20
  /-- Completion slots written. -/
  written : BitVec 32
  fetched : List Taken
  notices : List Notice
  /-- Held until a doorbell after a firmware reset (16 R534). -/
  hold : Bool
  /-- The timer of R532: nanoseconds counted, since when it counts, and whether it has expired. -/
  stall : Nat
  since : Option Nat
  timedOut : Bool
deriving DecidableEq, Repr

/-- Firmware and its services (16 R541 to R547, 17 R559). -/
structure Firmware where
  up : Bool
  /-- Filina has been started since the main domain was powered, and its die works: it restarts after a reset. -/
  loaded : Bool
  resets : BitVec 16
  mailboxes : Table (List Taken)
  rr : Nat
  taken : List Taken
  locks : Table (BitVec 16 × Nat)
  windowBase : BitVec 48
  createCount : Nat
  /-- A MEM_TEST in progress: the command, its hub and its channels (10 R354). -/
  testing : Option (Taken × Nat × List Nat)
  /-- The MSI-X table and pending bit array, by offset from 0x100_0000 of BAR4 (16 R522). -/
  msix : Table Byte
deriving DecidableEq, Repr

/-! ## The Barometer and checkpoints (17) -/

/-- Counters sampled at a Barometer update (17 R552). -/
structure BaroSample where
  /-- The K0 count of the update; a step of the K0 copy moves it by the same amount (18 R593). -/
  at_ : Int
  ecc : Nat
  poisoned : Nat
  link : Table Nat
  retrains : Table Nat
  droop : Nat
  seasonMax : Nat
  locked : Bool
deriving DecidableEq, Repr

/-- The Barometer (17 R552, R576). -/
structure Baro where
  value : Byte
  scores : List Byte
  peak : Byte
  samples : List BaroSample
  /-- Running totals since start, unaffected by reads that clear the registers. -/
  eccTotal : Nat
  poisonTotal : Nat
  linkTotal : Table Nat
  retrainTotal : Table Nat
  droopTotal : Nat
  /-- The largest magnitude of SEA_OFFSET since the last update, in 1/16 tick. -/
  seasonMax : Nat
deriving DecidableEq, Repr

/-- A Dew store (17 R564 to R569). -/
structure DewStore where
  job : BitVec 32
  base : Nat
  imageMax : Nat
  shard : Nat
  region : Nat
  gen : Nat
  margin : BitVec 2
deriving DecidableEq, Repr

/-- A checkpoint command in progress (17 R561 to R573). -/
structure CkptRun where
  cmd : Taken
  restore : Bool
  tier : Nat
  job : BitVec 32
  gen : Nat
  image : Bytes
  digest : Word
  left : Nat
  failed : Bool
  manifest : Bytes
  result : Word
  /-- What the READs of a Dew restore have brought: shard, offset, bytes (17 R568). -/
  replies : List (Nat × Nat × Bytes)
deriving DecidableEq, Repr

/-- The checkpoint service (17 R559 to R572). -/
structure Ckpt where
  dew : Table DewStore
  /-- Frost: for each JOB its KEEP, and the complete generations with their images, newest first. -/
  frostKeep : Table Nat
  frost : List (BitVec 32 × Nat × Bytes)
  snowGen : Table Nat
  running : Table CkptRun
deriving DecidableEq, Repr

/-! ## Starts, pins and power (18, 19) -/

/-- The package states (18 R579). -/
inductive PkgState where
  | off
  | coldStart
  | warmStart
  | service
  | quiesced
  | haltRefused
deriving DecidableEq, Repr

/-- The warm record (18 R588). -/
structure WarmRecord where
  valid : Bool
  pkg : PkgId
  sysDim : BitVec 32
  peers : Table (BitVec 11 × BitVec 4 × BitVec 6)
  quick : Table Bool
  /-- The HBM training results, by stack, and the link coefficients, by port. -/
  training : Table Word
  coeffs : Table Word
deriving DecidableEq, Repr

/-- Package state, start progress, straps, pins and the management registers (18 R578 to R596, 19 R601 to R624). -/
structure Mgmt where
  state : PkgState
  step : Nat
  warmIgnored : Bool
  pending : Bool
  causeCode : Byte
  causeDetail : BitVec 16
  tray : BitVec 32
  dim : BitVec 32
  straps : BitVec 6
  /-- The levels of BOOT_SEL and TRAY_SLOT at the pins (18 R578, R595). -/
  pins : BitVec 6
  elapsedFrom : Nat
  /-- When the present step of a start began. -/
  stepFrom : Nat
  elapsed : BitVec 32
  /-- A start has begun and has ended neither in SERVICE nor in HALT_REFUSED (18 R595). -/
  elapsedRuns : Bool
  pwrCap : BitVec 16
  warm : WarmRecord
  /-- WARM_RST_N fell in QUIESCED and the entry steps have run. -/
  warmEntered : Bool
  warmNoSpare : Option StackId
  i3cAddr : Option (BitVec 7)
  measure : Table (BitVec 384)
  svn : BitVec 32
  minSvn : BitVec 32
  /-- The key hashes fused in K0, and the keys revoked (18 R585). -/
  keyHashes : List Bytes
  revoked : BitVec 4
  standby : Bool
  pwrok : Bool
  coldRst : Bool
  mainRails : Bool
  hbmRails : Bool
  vio : Bool
  thermLatch : Bool
  refclk0 : Bool
  refclk1 : Bool
  pcieClk : Bool
  /-- Boot SRAM of K0, when the host writes the image (18 R584). -/
  bootSram : Table Byte
  /-- What the host has written in the configuration space of the host port (19 R613). -/
  hostCfg : Table (BitVec 32)
  /-- PKG_MGMT_PWR as the power controller last showed it, when it does not run (19 R624). -/
  pwrKept : BitVec 32
deriving DecidableEq, Repr

/-- The power controller and the sensors (19 R606 to R623). -/
structure Power where
  n : Nat
  therm : Table Nat
  /-- The input power measured every 1 µs, newest first, over the last 1 s (19 R606). -/
  samples : List Nat
  overUs : Nat
  fastHold : Nat
  p100us : Nat
  p1s : Nat
  gating : Bool
  peak : BitVec 16
  throttle : BitVec 48
  droop : BitVec 48
  droopAt : Table Nat
  temps : Table (BitVec 16)
  /-- Step 1 of a start has ended, so that N shows n (19 R623). -/
  started : Bool
deriving DecidableEq, Repr

/-- The instructions of the test access port (19 R617). -/
inductive TapInstr where
  | bypass
  | idcode
  | samplePreload
  | extest
  | extestPulse
  | extestTrain
  | clamp
  | highz
deriving DecidableEq, Repr

/-- The test access port: the instruction in effect, IDCODE at reset (log entry 65), the cells preloaded, the last value
shifted out. -/
structure Tap where
  instr : TapInstr
  cells : Nat
  out : BitVec 32
deriving DecidableEq, Repr

/-! ## What the package sends -/

/-- An SPDM answer, with what 18 R587 states of it: the request it answers (`none` while the mailbox is busy), the version,
the algorithms, whether keys are exchanged, the certificate slots in use and the measurements; the rest of its body is
DMTF's (log entry 51). -/
structure SpdmAnswer where
  request : Option String
  version : Nat × Nat
  asym : String
  hash : String
  keyExchange : Bool
  slots : List Nat
  measures : List (BitVec 384)
  body : Bytes
deriving DecidableEq, Repr

/-- What leaves the package, or is answered to a party outside. -/
inductive OutMsg where
  /-- A flit on a port, with its check word (11 R368). -/
  | flit (n : PortId) (f : Flit) (check : Word32)
  /-- A packet on a port: its header flit and data flits, each with its check word (11 R372). -/
  | packet (n : PortId) (slots : List (Flit × Word32))
  /-- A message between units of this package, over the package network (01 R30). -/
  | local_ (k : Pkt) (data : Bytes)
  | localTree (k : TreePkt) (data : Bytes)
  /-- A read request to host memory for a channel, and a write: each with the channel's PASID, or `none` when the channel
  was bound without one (16 R521). -/
  | hostRead (n : ChanId) (pasid : Option (BitVec 20)) (addr : Word) (len : Nat)
  | hostWrite (n : ChanId) (pasid : Option (BitVec 20)) (addr : Word) (data : Bytes)
  | msix (vector : BitVec 11)
  /-- A read completion to the host: data, or `none` for an Unsupported Request; EP bit (16 R524). -/
  | completion (data : Option Bytes) (ep : Bool)
  /-- The answer to a read or write by an agent of the package or over I3C; `none` refuses the access. -/
  | answer (a : Agent) (data : Option Word)
  /-- A READ answered to an agent: data of a window access. -/
  | bytes (a : Agent) (data : Option Bytes)
  | spdm (answer : SpdmAnswer)
  | tdo (v : Nat)
  /-- Data sent to the SSD on the flash port, or to the bridge behind the S-ports (17 R570, R571). -/
  | frost (job : BitVec 32) (gen : Nat)
  | thermtripN
  | alertN
deriving DecidableEq, Repr

/-! ## The package -/

/-- What a run of a traffic generator left in the rows of a channel (10 R354): the rows, the pattern, where its free bytes
start, and the blocks (first and count) that have been written since. -/
structure TestRun where
  hub : Nat
  chan : Nat
  first : Nat
  count : Nat
  pattern : Nat
  seed : Nat
  since : List (Nat × Nat)
deriving DecidableEq, Repr

/-- The ordering numbers (00 R2). -/
inductive Part where
  | h24x64
  | h24x48
deriving DecidableEq, Repr

/-- The state of the package. -/
structure State where
  /-- Commands that wait, first in, first out. -/
  pending : List Instr
  part : Part
  /-- Memory bytes by local address (01 R25): HBM, last-level memory scratchpad windows, core windows. -/
  mem : List Host.Cell
  /-- Poisoned 64-byte blocks, by block number (10 R335, R344). -/
  poison : List Nat
  /-- Symbols of stored code words that differ from what was written, by block number (10 R330). -/
  upsets : Table (List (Nat × Byte))
  /-- Corrections of HBM blocks that wait to be written back, by block number, with the bytes corrected (10 R334). -/
  writebacks : Table Bytes
  /-- What the traffic generators' runs left in the rows they tested, newest first (10 R354). -/
  testRuns : List TestRun
  /-- Open rows, by (stack × 64 + pseudo-channel) × 2^32 + bank, each with the time of the bank's last request; and
  corrections given by rows. -/
  openRows : Table (Nat × Nat)
  rowErrors : Table Nat
  regions : Table Region
  /-- MH_REGION entries last written with VALID clear: the other fields as written (00 R9). -/
  regionsIdle : Table Word
  dieOk : BitVec 40
  dieFail : BitVec 40
  selfId : Option PkgId
  season : Season
  cores : Table Core
  /-- Contexts of pre-empted partitions: (partition, core) and the core's state block (15 R507). -/
  saved : List (Nat × Nat × Core)
  partitions : Table Partition
  stewards : Table Steward
  steps : Table Step
  /-- Remembered (GROUP, STEP) pairs and the count at which each was remembered (06 R244). -/
  pairs : List (BitVec 12 × BitVec 16 × Nat)
  forecasts : Table Fc
  fcRequests : BitVec 48
  fcScored : BitVec 48
  xdies : Table XDieState
  pools : Table Pool
  bpm : Bpm
  hubs : Table HubState
  hbmStacks : Table StackState
  ports : Table Port
  fabric : Fabric
  groups : Table Group
  colls : List Coll
  /-- Collectives that have ended here and whose arrival bits are kept (13 R448). -/
  collPast : List Coll
  channels : Table Channel
  /-- The partition whose ring the command processor served last (14 R471). -/
  lastRing : Nat
  fw : Firmware
  baro : Baro
  ckpt : Ckpt
  mgmt : Mgmt
  power : Power
  tap : Tap
  /-- What the package has sent, newest first: the model's own, which no command reads (log entry 10). -/
  out : List OutMsg
  /-- Nanoseconds that have passed: the model's own. -/
  time : Nat
  /-- The number of free values drawn so far: the model's own. -/
  free : Nat
deriving DecidableEq, Repr

/-! ## Reset

The package with no standby supply: every register holds the reset value its chapter gives, nothing runs, and the
package is OFF (18 R597, R601). A table that lists nothing reads as its reset value everywhere. -/

/-- The Season block at the loss of standby (02 R79, 15 R520). -/
def Season.reset : Season where
  k0 := 0
  running := false
  state := .unlocked
  role := 0
  hops := 0
  refPresent := false
  priority := 0x80
  source := false
  ppsBase := 0
  holdoverMax := 0x3E8
  inForce := (0x80, false, 0, 0x3E8)
  offset := 0
  master := none
  lockEvents := 0
  islandSlips := 0
  launchWindow := []
  linkDelay := []
  slew := 0
  lastSlew := 0
  islands := []
  countSync := false
  parent := none
  ppsEdges := []
  timerefOk := false
  holdoverAt := 0
  yearLog2 := 0
  commitAt := none
  yearBase := 0
  handoverLead := 0x30D40
  months := []
  monthsNext := []
  monthsIdle := []
  resumeAt := []

def Vane.reset : Vane := ⟨0, false, 0, 0, []⟩

/-- The fabric registers at reset (11 R395, 12 R430). -/
def Fabric.reset : Fabric where
  sysDim := 0
  dimInForce := 0
  timeout := 0x4E20
  maxTransit := 0x4E20
  epoch := 0
  epochAt := 0
  epochDone := 0
  combine := true
  tables := []
  retiring := none
  retries := 0
  unknown := 0
  busy := 0
  lateReply := 0
  epochDrop := 0
  combinedCnt := 0
  nextReq := 0
  xacts := []
  mcastIn := []
  teardowns := []
  wv := []
  anemSel := 0
  anem := []
  swqDepth := []
  swqStall := []
  rx := []
  outQ := []

/-- The warm record with VALID clear (18 R588). -/
def WarmRecord.reset : WarmRecord where
  valid := false
  pkg := 0
  sysDim := 0
  peers := []
  quick := []
  training := []
  coeffs := []

/-- The standby domain before VSTBY12 enters its range (18 R595, 19 R601, R624). -/
def Mgmt.reset : Mgmt where
  state := .off
  step := 0
  warmIgnored := false
  pending := false
  causeCode := 0
  causeDetail := 0
  tray := 0
  dim := 0
  straps := 0
  pins := 0
  elapsedFrom := 0
  stepFrom := 0
  elapsed := 0
  elapsedRuns := false
  pwrCap := 0x1770
  warm := WarmRecord.reset
  warmEntered := false
  warmNoSpare := none
  i3cAddr := none
  measure := []
  svn := 0
  minSvn := 0
  keyHashes := [Config.fusedKey 0, Config.fusedKey 1, Config.fusedKey 2, Config.fusedKey 3]
  revoked := 0
  standby := false
  pwrok := false
  coldRst := false
  mainRails := false
  hbmRails := false
  vio := false
  thermLatch := false
  refclk0 := true
  refclk1 := true
  pcieClk := true
  bootSram := []
  hostCfg := []
  pwrKept := 0

/-- The power controller before a start (19 R608, R623). -/
def Power.reset : Power where
  n := 16
  therm := []
  samples := []
  overUs := 0
  fastHold := 0
  p100us := 0
  p1s := 0
  gating := false
  peak := 0
  throttle := 0
  droop := 0
  droopAt := []
  temps := []
  started := false

/-- Filina before a start (16 R541): every service is down. -/
def Firmware.reset : Firmware where
  up := false
  loaded := false
  resets := 0
  mailboxes := []
  rr := 0
  taken := []
  locks := []
  windowBase := 0
  createCount := 0
  testing := none
  msix := []

/-- The Barometer at reset (17 R576). -/
def Baro.reset : Baro where
  value := 0
  scores := [0, 0, 0, 0, 0, 0]
  peak := 0
  samples := []
  eccTotal := 0
  poisonTotal := 0
  linkTotal := []
  retrainTotal := []
  droopTotal := 0
  seasonMax := 0

/-- The package right after reset: before its standby supply comes up, with every field that no rule gives a value empty
or zero (log entry 11). The spec names two parts and picks neither; no command changes `part` (log entry 1). -/
def State.reset : State where
  pending := []
  part := .h24x64
  mem := []
  poison := []
  upsets := []
  writebacks := []
  testRuns := []
  openRows := []
  rowErrors := []
  regions := []
  regionsIdle := []
  dieOk := 0
  dieFail := 0
  selfId := none
  season := Season.reset
  cores := []
  saved := []
  partitions := []
  stewards := []
  steps := []
  pairs := []
  forecasts := []
  fcRequests := 0
  fcScored := 0
  xdies := []
  pools := []
  bpm := ⟨0, 0, 0, 0⟩
  hubs := []
  hbmStacks := []
  ports := []
  fabric := Fabric.reset
  groups := []
  colls := []
  collPast := []
  channels := []
  lastRing := 31
  fw := Firmware.reset
  baro := Baro.reset
  ckpt := ⟨[], [], [], [], []⟩
  mgmt := Mgmt.reset
  power := Power.reset
  tap := ⟨.idcode, 0, 0⟩
  out := []
  time := 0
  free := 0

end Sys2Proof.Machine
end

