-- ==== Sys2Proof/Machine/Units.lean ====
section
/-! DEFINITION. The units of the package: what a table entry that is not listed reads as, one reader and one writer
for every table of the state, numbering of dies, units and ports, and the Season copies. -/

namespace Sys2Proof.Machine

open Sys2Proof

/-! ## What a unit holds when its table lists nothing -/

/-- Engine banks of zeros with no record (04 R133). -/
def Bank.zero : Bank := ⟨none, [], [], []⟩

def EngineBanks.zero : EngineBanks := ⟨Bank.zero, Bank.zero⟩

/-- The matrix unit when a kernel starts (04 R133): Cumulus, banks and buffer of zeros. -/
def Matrix.zero : Matrix where
  stratus := false
  engines := []
  actFmt := 0
  actRows := []
  actScales := []
  lastM := 0
  lastK := 0
  seq := 0
  loadQ := []
  compQ := []

/-- Drift of a core that holds no entry (05 R188, R201). -/
def Drift.empty : Drift := ⟨0, 0, none, 0, 0, []⟩

/-- A core at the reset values of 03 R127; general registers as at a kernel start (03 R123). -/
def Core.zero : Core where
  s := Vector.replicate 32 0
  v := Vector.replicate 32 0
  p := 0
  vm := Vector.replicate 8 0
  pc := 0
  status := 0
  fpflags := 0
  cycle64 := 0
  rank := 0
  size := 0
  keys := []
  phase := .idle
  ctx := none
  preempt := .live
  cur := none
  late := none
  mayVary := false
  pendingLaunch := none
  armed := none
  mops := []
  dmas := []
  mb := []
  mbxResult := 0
  stopRegs := []
  semWait := none
  tail := none
  icache := []
  dcache := []
  matrix := Matrix.zero
  drift := Drift.empty

def Ring.empty : Ring := ⟨0, 0, 0, 0, 0, 0, [], none, false⟩

/-- A partition ID that is free (15 R493, R519). -/
def Partition.absent : Partition where
  state := .absent
  job := 0
  calm := false
  allowMv := false
  realtime := false
  lendable := false
  faults := 0
  home := 0
  claim := 0
  stewards := []
  regions := []
  ranges := []
  save := 0
  saveRegion := none
  faultArea := 0
  creator := 0
  deferral := none
  destroyAt := none
  records := []
  recordsWritten := 0
  recordsTaken := 0
  notices := 0
  ring := Ring.empty
  sems := []
  waiters := []
  secureThreshold := 0
  secureArmed := false
  seedDigest := none

/-- A steward with no partition (14 R487). -/
def Steward.unassigned : Steward where
  part := none
  running := false
  semSel := 0
  semTake := 0
  wakeAt := 0
  trapVec := 0
  trapActive := false
  trapCause := 0
  trapEpc := 0
  trapTval := 0
  trapScratch := 0
  pc := 0
  waiting := none
  woken := false
  mbxResult := 0
  cycle := 0
  instret := 0
  xregs := []
  fregs := []
  vregs := []
  vl := 0
  vtype := 0
  vstart := 0
  vcsr := 0
  fcsr := 0

def XDieState.zero : XDieState where
  choicesOut := 0
  rowsIn := 0
  dropped := 0
  deferred := 0
  scoreBusy := 0
  dispatchStall := 0
  early := []
  earlyHigh := 0
  lastFault := 0
  reassembly := []
  replay := []
  horizon := 0
  collDone := 0
  collFaults := 0
  collBusy := 0
  collEarly := []
  collEarlyHigh := 0
  collLastFault := 0

def TrafficGen.zero : TrafficGen := ⟨0, 0, 0, false, false⟩

/-- A hub at the reset values of 10 R358. -/
def HubState.zero : HubState where
  mode := 0
  corrected := 0
  uncorrectable := 0
  detected := 0
  onDie := 0
  llmHits := 0
  llmMisses := 0
  lastError := 0
  scrubPasses := 0
  scrubNext := 0
  lines := []
  gens := []
  lastRead := none

/-- A stack before its first reading: temperature 0, 1× refresh, cap 100 % (10 R349, R358). -/
def StackState.zero : StackState where
  sensor := 0
  temp := 0
  cap := 0xC8
  refresh2x := false
  hardUsed := 0
  softUsed := 0
  sparesLeft := 0
  sparesAtStart := 0
  selfRefresh := false
  training := 0

def BeaconState.zero : BeaconState where
  lastRxTx := 0
  lastRxAt := 0
  sent := []
  exchanges := 0
  delaySum := 0
  intervalExchange := false
  misses := 0
  peerPriority := 0
  peerMaster := 0
  peerHops := 0
  peerRole := 0
  heard := false

/-! ## Numbering of ports (11 R360, R361) -/

/-- The role of a port: 0 T, 1 L, 2 S. -/
def portRole (n : Nat) : Nat :=
  if n = 48 ∨ n = 55 then 2 else if n < 42 ∧ n % 7 < 4 then 1 else 0

/-- The dimension (0 X, 1 Y, 2 Z), sense (true for +) and index of an L-port. -/
def lPort (n : Nat) : Nat × Bool × Nat := (n / 14, n % 7 % 2 = 1, n / 7 % 2 * 2 + n % 7 / 2)

/-- The L-port of a dimension, sense and index. -/
def lPortNo (dim : Nat) (plus : Bool) (k : Nat) : Nat :=
  dim * 14 + k / 2 * 7 + k % 2 * 2 + (if plus then 1 else 0)

/-- The T-ports in increasing order; a T-ordinal is a position in this list. -/
def tPorts : List Nat := (List.range 56).filter fun n => portRole n = 0

/-- The peer slot and the link of a T-port, on the package in slot `s`. -/
def tPeer (s n : Nat) : Nat × Nat :=
  let t := tPorts.idxOf n
  let j := t % 15
  (if j < s then j else j + 1, t / 15)

/-- The T-port to slot `p` by link `l`, on the package in slot `s`. -/
def tPortTo (s p l : Nat) : Nat :=
  let j := if p < s then p else p - 1
  tPorts.getD (l * 15 + j) 0

/-- FAB_CREDIT_CFG at reset, by the role of the port (11 R395). -/
def creditReset (n : Nat) : Word :=
  match portRole n with
  | 0 => 0x0808080808080808
  | 1 => 0x2020202020202020
  | _ => 0x1010101010101010

/-- A port at the reset values of 11 R395. -/
def Port.zero (n : Nat) : Port where
  state := .disabled
  enable := false
  fecMode := 0
  retrain := false
  training := none
  trainStart := 0
  quick := false
  wantQuick := false
  optical := false
  laneLock := 0
  peer := none
  peerIdent := 0
  oldPeer := none
  creditCfg := creditReset n
  division := creditReset n
  creditInForce := creditReset n
  fecCorrected := 0
  fecUncorr := 0
  crcDiscard := 0
  orphan := 0
  stompedIn := 0
  stompedOut := 0
  protoErr := 0
  retrains := 0
  beaconMiss := 0
  lanes := []
  pseqTx := []
  pseqRx := []
  freed := []
  freedSent := []
  idleSent := []
  peerFreed := []
  open_ := none
  markersSeen := 0
  markersQuick := 0
  markerSeq := 0
  beacon := BeaconState.zero
  coeff := 0
  savedCoeff := false
  savedQuick := false

/-- A channel that is not open (16 R528). -/
def Channel.closed : Channel where
  open_ := false
  draining := false
  reset := false
  ringError := false
  noticeLost := false
  timeoutFlag := false
  producer := 0
  consumer := 0
  generation := 0
  control := 0
  cmdBase := 0
  cplBase := 0
  cplConsumer := 0
  timeout := 0x32
  intr := 0
  part := 0
  noPasid := false
  pasid := 0
  written := 0
  fetched := []
  notices := []
  hold := false
  stall := 0
  since := none
  timedOut := false

def Anem.zero : Anem := ⟨0, 0, 0, 0⟩

def RouteTable.invalid : RouteTable := ⟨false, 0, 0, 0, 0, 0, 0⟩

def Island.inStep : Island := ⟨0, 0, 0, 0⟩

/-! ## Readers and writers of the tables of the state -/

/-- The clocks of the main domain run: the package is neither off nor halted (01 R40, 12 R416, 19 R605). -/
def State.moves (s : State) : Bool := s.mgmt.state ≠ .off && s.mgmt.state ≠ .haltRefused

/-- The Season copies count: from step 2 of a cold start on, while those clocks run (02 R44, 19 R605). -/
def State.ticks (s : State) : Bool := s.season.running && s.moves

def State.core (s : State) (c : Nat) : Core := Tab.get Core.zero s.cores c
def State.setCore (s : State) (c : Nat) (k : Core) : State := { s with cores := Tab.put s.cores c k }
def State.updCore (s : State) (c : Nat) (f : Core → Core) : State := s.setCore c (f (s.core c))

def State.partition (s : State) (p : Nat) : Partition := Tab.get Partition.absent s.partitions p
def State.setPartition (s : State) (p : Nat) (x : Partition) : State :=
  { s with partitions := Tab.put s.partitions p x }
def State.updPartition (s : State) (p : Nat) (f : Partition → Partition) : State :=
  s.setPartition p (f (s.partition p))

def State.steward (s : State) (k : Nat) : Steward := Tab.get Steward.unassigned s.stewards k
def State.updSteward (s : State) (k : Nat) (f : Steward → Steward) : State :=
  { s with stewards := Tab.put s.stewards k (f (s.steward k)) }

def State.xdie (s : State) (x : Nat) : XDieState := Tab.get XDieState.zero s.xdies x
def State.updXdie (s : State) (x : Nat) (f : XDieState → XDieState) : State :=
  { s with xdies := Tab.put s.xdies x (f (s.xdie x)) }

def State.hub (s : State) (m : Nat) : HubState := Tab.get HubState.zero s.hubs m
def State.updHub (s : State) (m : Nat) (f : HubState → HubState) : State :=
  { s with hubs := Tab.put s.hubs m (f (s.hub m)) }

def State.stack (s : State) (i : Nat) : StackState := Tab.get StackState.zero s.hbmStacks i
def State.updStack (s : State) (i : Nat) (f : StackState → StackState) : State :=
  { s with hbmStacks := Tab.put s.hbmStacks i (f (s.stack i)) }

def State.port (s : State) (n : Nat) : Port := Tab.get (Port.zero n) s.ports n
def State.updPort (s : State) (n : Nat) (f : Port → Port) : State :=
  { s with ports := Tab.put s.ports n (f (s.port n)) }

def State.channel (s : State) (n : Nat) : Channel := Tab.get Channel.closed s.channels n
def State.updChannel (s : State) (n : Nat) (f : Channel → Channel) : State :=
  { s with channels := Tab.put s.channels n (f (s.channel n)) }

def State.updStep (s : State) (sl : Nat) (f : Step → Step) : State :=
  match Tab.get? s.steps sl with
  | some x => { s with steps := Tab.put s.steps sl (f x) }
  | none => s

def State.updFc (s : State) (i : Nat) (f : Fc → Fc) : State :=
  match Tab.get? s.forecasts i with
  | some x => { s with forecasts := Tab.put s.forecasts i (f x) }
  | none => s

def State.updPool (s : State) (n : Nat) (f : Pool → Pool) : State :=
  match Tab.get? s.pools n with
  | some x => { s with pools := Tab.put s.pools n (f x) }
  | none => s

def State.updSeason (s : State) (f : Season → Season) : State := { s with season := f s.season }
def State.updFabric (s : State) (f : Fabric → Fabric) : State := { s with fabric := f s.fabric }
def State.updMgmt (s : State) (f : Mgmt → Mgmt) : State := { s with mgmt := f s.mgmt }
def State.updPower (s : State) (f : Power → Power) : State := { s with power := f s.power }
def State.updFw (s : State) (f : Firmware → Firmware) : State := { s with fw := f s.fw }

/-- Something leaves the package. -/
def State.emit (s : State) (m : OutMsg) : State := { s with out := m :: s.out }

/-- A free choice: a number that nothing constrains, and the state with one more free value drawn (log entry 2). -/
def State.draw (s : State) : Nat × State := (Config.freeNat s.free, { s with free := s.free + 1 })

/-- One element of a non-empty list, chosen freely (log entry 2). -/
def State.pick {α : Type} (s : State) (l : List α) : Option α × State :=
  let (n, s) := s.draw
  (l[n % max l.length 1]?, s)

/-- `n` bytes that the spec does not fix (log entry 2). -/
def State.drawBytes (s : State) (n : Nat) : Bytes × State :=
  ((List.range n).map fun i => Config.freeByte (s.free + i), { s with free := s.free + n })

/-! ## Season copies (02 R44, R45) -/

/-- The K0 copy of Season. -/
def State.now (s : State) : Nat := s.season.k0.toNat

/-- The island of a core. -/
def coreIsland (c : Nat) : Nat := c

/-- The island of a die's units: its network stop 0 (log entry 69). -/
def dieIsland (d : Nat) : Nat := 4608 + d * 256

/-- The number of an island. -/
def IslandRef.no : IslandRef → Nat
  | .core c => c.val
  | .stop d i => 4608 + d.val * 256 + i.toNat
  | .memCtl h i => 4608 + (40 + 18 + h.val) * 256 + i.toNat
  | .link d i => 4608 + (80 + d.val) * 256 + i.toNat

/-- The die that holds an island. -/
def islandDie (i : Nat) : Nat := if i < 4608 then i / 256 else (i - 4608) / 256 % 40

/-- The dies in the order of their ring positions (01 R16). -/
def ringDies : List Nat :=
  [38, 30, 31, 18, 0, 1, 2, 19, 3, 4, 26, 27, 20, 5, 6, 21, 7, 8, 32, 33,
    39, 34, 35, 22, 9, 10, 11, 23, 12, 13, 28, 29, 24, 14, 15, 25, 16, 17, 36, 37]

/-- The home memory hub of a compute die (01 R15). -/
def homeHub (c : Nat) : Nat := [0, 0, 0, 1, 1, 2, 2, 3, 3, 4, 4, 4, 5, 5, 6, 6, 7, 7].getD c 0

/-- The two dies that a module joins (01 R35). -/
def ModuleRef.dies : ModuleRef → List Nat
  | .bridge c => [c.val, 18 + homeHub c.val]
  | .segment p => [ringDies.getD p.val 0, ringDies.getD ((p.val + 1) % 40) 0]

/-- The local copy of an island. -/
def State.copyAt (s : State) (i : Nat) : Nat :=
  ((s.now : Int) + (Tab.get Island.inStep s.season.islands i).off).toNat

/-- The copy of an X-die, and of all four. -/
def State.xNow (s : State) (x : Nat) : Nat := s.copyAt (dieIsland (26 + x))
def State.xCopies (s : State) : List Nat := [0, 1, 2, 3].map s.xNow

/-- The largest lateness over the four X-dies of work armed on them now (02 R61). -/
def State.xLate (s : State) (equinox : Nat) : Option Nat :=
  let m := s.xCopies.foldl max 0
  if equinox ≠ 0 ∧ equinox ≤ m then some (m - equinox) else none

/-- The first X-die at which work armed now is later than a launch window (02 R63). -/
def State.lateDie (s : State) (equinox window : Nat) : Option Nat :=
  if equinox = 0 then none else [0, 1, 2, 3].find? fun x => s.xNow x > equinox + window

/-- The first X-die whose copy has passed a deadline while its own part is not done. X0 also records completion: it holds
the work until it is complete (02 R66, R68, R69). -/
def State.missedDie (s : State) (deadline : Nat) (done : Nat → Bool) : Option Nat :=
  [0, 1, 2, 3].find? fun x => s.xNow x > deadline && (x = 0 || !done x)

/-- The launch window of a partition (02 R79). -/
def State.window (s : State) (p : Nat) : Nat := (Tab.get 0x40#16 s.season.launchWindow p).toNat

/-! ## Source units (01 R11) -/

/-- The source unit of a compute core. -/
def coreUnit (c : Nat) : Nat := c / 256 * 256 + c % 256

/-- A unit that the spec does not name, from a free value: a unit number within one of the 40 dies. -/
def freeUnit (n : Nat) : Nat := n / 256 % 40 * 256 + n % 256

/-- Unit `u` of X-die `x`. -/
def xUnit (x u : Nat) : Nat := (26 + x) * 256 + u

/-- The command processor (14 R474), and the command and checkpoint services (15 R499, 17 R560). -/
def cmdUnit : Nat := 0x2620
def serviceUnit : Nat := 0x2610
def ckptUnit : Nat := 0x2630

/-- A steward core: its K-die and its core number (14 R464). -/
def stewardDie (k : Nat) : Nat := if k < 8 then 38 else 39
def stewardNo (k : Nat) : Nat := if k < 8 then k + 4 else k - 8
def stewardUnit (k : Nat) : Nat := stewardDie k * 256 + stewardNo k

/-- A SENDER_ID (16 R525). -/
def chanSender (n : Nat) : Nat := n
def coreSender (c : Nat) : Nat := 0x1000 + c
def stewardSender (k : Nat) : Nat := 0x3000 + (if k < 8 then k + 4 else 12 + (k - 8))

/-! ## Cores and partitions (15 R490, R492, R475) -/

/-- The core block of a core. -/
def blockOf (c : Nat) : Nat := c / 16

/-- The blocks of a mask, in rising order. -/
def maskBlocks (m : BitVec 288) : List Nat := (List.range 288).filter fun b => m.getLsbD b

/-- The cores of a partition in rank order: its home and its claimed blocks. -/
def Partition.cores (x : Partition) : List Nat :=
  (maskBlocks (x.home ||| x.claim)).flatMap fun b => (List.range 16).map (16 * b + ·)

/-- The cores of a partition's home blocks. -/
def Partition.homeCores (x : Partition) : List Nat :=
  (maskBlocks x.home).flatMap fun b => (List.range 16).map (16 * b + ·)

/-- Number of cores of a partition. -/
def Partition.coreCount (x : Partition) : Nat := 16 * popcount (x.home ||| x.claim)

/-- The partition has a core among its home or claimed blocks. -/
def Partition.hasCore (x : Partition) (c : Nat) : Bool := c < 4608 && (x.home ||| x.claim).getLsbD (blockOf c)

/-- The rank of a core of the partition (14 R475). -/
def Partition.rankOf (x : Partition) (c : Nat) : Nat :=
  16 * ((List.range (blockOf c)).countP fun b => (x.home ||| x.claim).getLsbD b) + c % 16

/-- The core of a rank (14 R475). -/
def Partition.coreOf (x : Partition) (r : Nat) : Nat :=
  16 * (maskBlocks (x.home ||| x.claim)).getD (r / 16) 0 + r % 16

/-- The partition exists and is not torn down. -/
def Partition.alive (x : Partition) : Bool := x.state = .active

/-- IDs of the partitions of a job that are not ABSENT. -/
def State.partsOfJob (s : State) (job : BitVec 32) : List Nat :=
  (s.partitions.filter fun e => e.2.state ≠ .absent ∧ e.2.job = job).map (·.1)

/-- The partition whose home a block is. -/
def State.homeOf (s : State) (b : Nat) : Option Nat :=
  (s.partitions.find? fun e => e.2.state ≠ .absent && e.2.home.getLsbD b).map (·.1)

/-- The partition that owns the context on a core: the live one, else the home partition of its block. -/
def State.coreOwner (s : State) (c : Nat) : Option Nat :=
  match (s.core c).ctx with
  | some p => some p
  | none => s.homeOf (blockOf c)

/-- The saved context of a partition on a core (15 R507). -/
def State.savedCore (s : State) (p c : Nat) : Option Core :=
  (s.saved.find? fun e => e.1 = p ∧ e.2.1 = c).map (·.2.2)

/-- A context of partition `p` on core `c`, live or saved, changed by `f`. -/
def State.updCtx (s : State) (p c : Nat) (f : Core → Core) : State :=
  if (s.core c).ctx = some p then s.updCore c f
  else { s with saved := s.saved.map fun e => if e.1 = p ∧ e.2.1 = c then (e.1, e.2.1, f e.2.2) else e }

/-- This package's ID, 0 before assignment (01 R32). -/
def State.self (s : State) : PkgId := s.selfId.getD 0

/-- The package runs partitions (18 R579). -/
def State.inService (s : State) : Bool := s.mgmt.state = .service

/-- Firmware runs and the package is in SERVICE or QUIESCED. -/
def State.operational (s : State) : Bool := s.mgmt.state = .service || s.mgmt.state = .quiesced

/-- The main domain is powered: a start is in progress or has ended (18 R579). -/
def State.mainOn (s : State) : Bool := s.mgmt.state ≠ .off

end Sys2Proof.Machine
end

