-- ==== Sys2Proof/Machine/Memory.lean ====
section
/-! DEFINITION. The local address map (01 R25 to R28), the HBM mapping, regions and guards (10 R325 to R337), the slice
caches (10 R340 to R345), and the reads and writes of memory by local address that every unit uses. -/

namespace Sys2Proof.Machine

open Sys2Proof

/-! ## Where an address lies -/

/-- 3 GiB, the unit of the region table (10 R328). -/
def regionUnit : Nat := 0xC0000000

/-- Populated units of HBM (00 R3, 10 R359). -/
def State.hbmUnits (s : State) : Nat := match s.part with
  | .h24x64 => 512
  | .h24x48 => 384

/-- Data bytes per 3 GiB of a region (10 R329). -/
def Region.dataUnit (r : Region) : Nat := if r.detect then 0xBA000000 else 0xB4000000

/-- First byte of a region's data range, and its length (10 R329). -/
def Region.start (r : Region) : Nat := r.base * regionUnit
def Region.dataLen (r : Region) : Nat := r.size * r.dataUnit

/-- The region whose data range holds a local HBM address, with its index. -/
def State.regionAt (s : State) (a : Nat) : Option (Nat × Region) :=
  s.regions.find? fun e => e.2.start ≤ a && a < e.2.start + e.2.dataLen

/-- Backed bytes of a slice window in a mode (10 R340). -/
def llmBacked (mode : Nat) : Nat := match mode with
  | 0 => 0
  | 1 => 0x3000000
  | _ => 0x6000000

/-- Sets of a slice's cache in a mode (10 R340). -/
def llmSets (mode : Nat) : Nat := match mode with
  | 0 => 24576
  | 1 => 12288
  | _ => 0

/-- What a local address reaches (01 R25 to R28, 10 R332). -/
inductive Place where
  | hbm (region : Nat) (r : Region)
  | llm (m off : Nat)
  | core (c off : Nat)
  | ctrl (off : Nat)
  | unmapped
deriving DecidableEq, Repr

def llmBase : Nat := 0x100000000000
def coreBase : Nat := 0x180000000000
def ctrlBase : Nat := 0x1F0000000000

/-- The place of a local address. -/
def State.place (s : State) (a : Nat) : Place :=
  if a < regionUnit * s.hbmUnits then
    match s.regionAt a with
    | some (i, r) => .hbm i r
    | none => .unmapped
  else if llmBase ≤ a ∧ a < llmBase + 8 * 0x6000000 then
    let m := (a - llmBase) / 0x6000000
    let off := (a - llmBase) % 0x6000000
    if off < llmBacked (s.hub m).mode.toNat then .llm m off else .unmapped
  else if coreBase ≤ a ∧ a < coreBase + 4608 * 0x200000 then
    let off := (a - coreBase) % 0x200000
    if off < 0x130000 then .core ((a - coreBase) / 0x200000) off else .unmapped
  else if ctrlBase ≤ a ∧ a < ctrlBase + 0x1000000 then .ctrl (a - ctrlBase)
  else .unmapped

/-- The address is unmapped to an agent that does not reach device control space (01 R28, 10 R332). -/
def State.unmappedAt (s : State) (a : Nat) : Bool :=
  match s.place a with
  | .unmapped => true
  | .ctrl _ => true
  | _ => false

/-- The start of a core window, and of the scratchpad, the accumulator store and Drift in it (01 R27). -/
def winBase (c : Nat) : Nat := coreBase + c * 0x200000
def spBase (c : Nat) : Nat := winBase c
def accBase (c : Nat) : Nat := winBase c + 0x100000
def driftBase (c : Nat) : Nat := winBase c + 0x120000

/-- A global address is canonical (01 R29, R31). -/
def canonical (g : Word) : Bool := !g.getLsbD 63

/-- The package and the local address of a global address (01 R29). -/
def gPkg (g : Word) : PkgId := g.extractLsb' 48 15
def gLocal (g : Word) : Nat := fld g.toNat 47 0

/-- The global address of a local address of this package. -/
def State.global (s : State) (a : Nat) : Word := BitVec.ofNat 64 (s.self.toNat * 2 ^ 48 + a)

/-! ## The HBM mapping (10 R325, R327) -/

/-- The hub that serves a local HBM address. -/
def hubOf (a : Nat) : Nat :=
  let g := a >>> 8
  (g ^^^ (g >>> 11) ^^^ (g >>> 22)) % 8

/-- Stack, pseudo-channel and granule offset of a local HBM address. -/
def stackOf (a : Nat) : Nat := 3 * hubOf a + (a >>> 11) % 3
def pcOf (a : Nat) : Nat :=
  let r := (a >>> 11) / 3
  (r ^^^ (r >>> 6) ^^^ (r >>> 12)) % 64
def granOf (a : Nat) : Nat := ((a >>> 11) / 3) >>> 6

/-- The channel number of R325 within the hub. -/
def chanOf (a : Nat) : Nat := (stackOf a - 3 * hubOf a) * 32 + pcOf a / 2

/-- The key of the open row of a bank, and of a row. -/
def bankKey (st pc bank : Nat) : Nat := (st * 64 + pc) * 2 ^ 32 + bank
def rowKey (st pc bank row : Nat) : Nat := ((st * 64 + pc) * 2 ^ 32 + bank) * 2 ^ 32 + row

/-- The n-th number that is neither `x` nor `y`. -/
def nthOther (n x y : Nat) : Nat :=
  let n := if min x y ≤ n then n + 1 else n
  if x ≠ y ∧ max x y ≤ n then n + 1 else n

/-- The bank of a granule offset within its pseudo-channel: any, but that consecutive offsets have different banks (10
R327; log entry 12). -/
def granBank (o : Nat) : Nat :=
  let free (o : Nat) : Nat := Config.bankOf o % (2 ^ 32 - 2)
  if o % 2 = 0 then free o else nthOther (free o) (free (o - 1)) (free (o + 1))

/-- The bank and the row of a local HBM address (log entry 12). -/
def bankNo (a : Nat) : Nat := granBank (granOf a)
def rowNo (a : Nat) : Nat := Config.rowOf (granOf a) % 2 ^ 32

/-! ## The Reed–Solomon code of GUARD_CORRECT (10 R330) -/

/-- One step of multiplication by x in GF(2^8) with a field polynomial. -/
def gfTwo (poly a : Nat) : Nat := if a < 128 then 2 * a else (2 * a) ^^^ poly

/-- Multiplication in GF(2^8): bits of `b` from the lowest. -/
def gfMulGo (poly : Nat) : Nat → Nat → Nat → Nat
  | 0, _, _ => 0
  | k + 1, a, b => (if b % 2 = 1 then a else 0) ^^^ gfMulGo poly k (gfTwo poly a) (b / 2)

def gfMul (poly a b : Nat) : Nat := gfMulGo poly 8 a b

/-- Powers in GF(2^8). -/
def gfPow (poly a : Nat) : Nat → Nat
  | 0 => 1
  | k + 1 => gfMul poly a (gfPow poly a k)

/-- The inverse in GF(2^8). -/
def gfInv (poly a : Nat) : Nat := gfPow poly a 254

/-- The field polynomial x^8 + x^4 + x^3 + x^2 + 1. -/
def rsPoly : Nat := 0x11D

/-- The locator of symbol position `i` of 74: α^(73 − i). -/
def rsLoc (i : Nat) : Nat := gfPow rsPoly 2 (73 - i)

/-- Syndrome S_j of an error pattern. -/
def rsSyndrome (e : List (Nat × Byte)) (j : Nat) : Nat :=
  e.foldl (fun acc x => acc ^^^ gfMul rsPoly x.2.toNat (gfPow rsPoly (rsLoc x.1) j)) 0

/-- The error of one or two symbols that four syndromes name: positions and values. -/
def rsFind (s0 s1 s2 s3 : Nat) : Option (List (Nat × Nat)) :=
  let one := (List.range 74).find? fun i =>
    let x := rsLoc i
    s0 ≠ 0 && gfMul rsPoly s0 x = s1 && gfMul rsPoly s1 x = s2 && gfMul rsPoly s2 x = s3
  match one with
  | some i => some [(i, s0)]
  | none =>
    (List.range 74).findSome? fun i => (List.range i).findSome? fun j =>
      let x := rsLoc i
      let y := rsLoc j
      let f := gfMul rsPoly (s1 ^^^ gfMul rsPoly s0 x) (gfInv rsPoly (x ^^^ y))
      let e := s0 ^^^ f
      if e ≠ 0 ∧ f ≠ 0 ∧ gfMul rsPoly e (gfPow rsPoly x 2) ^^^ gfMul rsPoly f (gfPow rsPoly y 2) = s2 ∧
          gfMul rsPoly e (gfPow rsPoly x 3) ^^^ gfMul rsPoly f (gfPow rsPoly y 3) = s3 then
        some [(j, f), (i, e)]
      else none

/-- Symbols 64 to 69 are the address symbols, which are not stored. -/
def rsStored (i : Nat) : Bool := i < 64 || 70 ≤ i && i < 74

/-- What a check of a block finds. -/
inductive Check where
  /-- The bytes are delivered with these changes to what was written: an error that the code does not see. -/
  | clean (diff : List (Nat × Byte))
  /-- Corrected, with what remains of the error after the correction. -/
  | corrected (diff : List (Nat × Byte))
  | bad (syndrome : Nat)
deriving DecidableEq, Repr

/-- The decoder of GUARD_CORRECT on an error pattern (10 R330). -/
def checkCorrect (e : List (Nat × Byte)) : Check :=
  let s0 := rsSyndrome e 0
  let s1 := rsSyndrome e 1
  let s2 := rsSyndrome e 2
  let s3 := rsSyndrome e 3
  if s0 = 0 ∧ s1 = 0 ∧ s2 = 0 ∧ s3 = 0 then .clean e
  else match rsFind s0 s1 s2 s3 with
    | some fix =>
      if fix.all fun x => rsStored x.1 then
        .corrected (e ++ fix.map fun x => (x.1, BitVec.ofNat 8 x.2))
      else .bad (s0 + s1 * 256 + s2 * 65536 + s3 * 16777216)
    | none => .bad (s0 + s1 * 256 + s2 * 65536 + s3 * 16777216)

/-- The symbol of an error pattern at a position. -/
def symbolAt (e : List (Nat × Byte)) (i : Nat) : Byte :=
  e.foldl (fun acc x => if x.1 = i then acc ^^^ x.2 else acc) 0

/-- The check of GUARD_DETECT on an error pattern (10 R331): positions 70 and 71 are the check bytes. -/
def checkDetect (e : List (Nat × Byte)) : Check :=
  let data := (List.range 64).map (symbolAt e)
  let c := (crc16 (data ++ zeros 6)).toNat ^^^ leNat [symbolAt e 70, symbolAt e 71]
  if c = 0 then .clean e else .bad c

/-- A block's bytes with an error pattern applied. -/
def applyErr (e : List (Nat × Byte)) (bs : Bytes) : Bytes := bs.mapIdx fun i b => b ^^^ symbolAt e i

/-! ## Memory errors -/

/-- A read or write that fails: the STATUS of 12 R404 (1 unmapped, 2 GUARD_CORRECT, 3 GUARD_DETECT), the record's
source unit (`none`: the issuing unit) and detail words 0 to 2 (10 R338), and the local address of the block. -/
structure MemErr where
  status : Nat
  source : Option Nat
  d0 : Nat
  d1 : Nat
  d2 : Nat
  at_ : Nat
  /-- The reader kind, when the access of the hub and not the issuer gives it (10 R338). -/
  kind : Option Nat := none
deriving DecidableEq, Repr

/-- MEM_UNMAPPED at a local address. -/
def MemErr.unmapped (a : Nat) : MemErr := { status := 1, source := none, d0 := 0, d1 := 0, d2 := 0, at_ := a }

/-- The error as the fill of a line meets it: reader kind 6 (10 R338). -/
def MemErr.ofFill (e : MemErr) : MemErr := { e with kind := some 6 }

/-- The error as the access to a core window that was served elsewhere reports it: at the address issued (10 R338). -/
def MemErr.issuedAt (e : MemErr) (a : Nat) : MemErr := { e with at_ := a }

/-- The fault code of a memory error (10 R336). -/
def MemErr.code (e : MemErr) : Nat := match e.status with
  | 1 => 0x0403
  | 2 => 0x0401
  | _ => 0x0402

/-- An error in HBM that a hub finds (10 R338). -/
def MemErr.hbm (detect : Bool) (region a syndrome : Nat) : MemErr :=
  { status := if detect then 3 else 2, source := some ((18 + hubOf a) * 256 + chanOf a)
    d0 := stackOf a + pcOf a * 256 + granOf a % 2 ^ 32 * 65536, d1 := syndrome, d2 := region, at_ := a }

/-- An error in a slice scratchpad (10 R338, R344). -/
def MemErr.sram (m off d1 : Nat) : MemErr :=
  { status := 2, source := some ((18 + m) * 256 + 0xF0), d0 := off / 64 * 64, d1 := d1, d2 := 0xFFFF
    at_ := llmBase + m * 0x6000000 + off / 64 * 64 }

/-- The sign that a read found the poison mark and no new error (10 R338). -/
def oldPoison : Nat := 2 ^ 63

/-! ## Hub counters -/

/-- MH_LAST_ERROR (10 R358). -/
def lastErrorWord (now kind stack pc : Nat) : Word :=
  BitVec.ofNat 64 (now % 2 ^ 32 * 2 ^ 32 + kind * 2 ^ 24 + stack * 2 ^ 16 + pc * 2 ^ 8)

/-- A correction of HBM at a local address (10 R334): counted by hub, by row and for the Barometer; the corrected block is
to be written back. -/
def State.noteCorrected (s : State) (a : Nat) (bs : Bytes) : State :=
  let k := rowKey (stackOf a) (pcOf a) (bankNo a) (rowNo a)
  let s := s.updHub (hubOf a) fun h =>
    { h with corrected := satAdd h.corrected 1, lastError := lastErrorWord s.now 1 (stackOf a) (pcOf a) }
  { s with
    rowErrors := Tab.put s.rowErrors k (Tab.get 0 s.rowErrors k + 1)
    writebacks := Tab.put s.writebacks (a / 64) bs
    baro := { s.baro with eccTotal := s.baro.eccTotal + 1 } }

/-- A block becomes poisoned (10 R335). -/
def State.poisonBlock (s : State) (a : Nat) : State :=
  { s with
    poison := if s.poison.contains (a / 64) then s.poison else a / 64 :: s.poison
    baro := { s.baro with poisonTotal := s.baro.poisonTotal + 1 } }

/-- A block of HBM is poisoned by an error that its read found (10 R335, R358). -/
def State.notePoisoned (s : State) (detect : Bool) (a : Nat) : State :=
  (s.poisonBlock a).updHub (hubOf a) fun h =>
    if detect then
      { h with detected := satAdd h.detected 1, lastError := lastErrorWord s.now 3 (stackOf a) (pcOf a) }
    else
      { h with uncorrectable := satAdd h.uncorrectable 1, lastError := lastErrorWord s.now 2 (stackOf a) (pcOf a) }

/-- A byte of HBM lies in a row that a run of a channel tests. -/
def inRun (m ch first count a : Nat) : Bool :=
  a < 512 * regionUnit && hubOf a = m && chanOf a = ch && first ≤ rowNo a && rowNo a < first + count

/-- A block still holds what a run of a generator left in it. -/
def TestRun.holds (r : TestRun) (b : Nat) : Bool :=
  inRun r.hub r.chan r.first r.count (b * 64) && !r.since.any fun e => e.1 ≤ b && b < e.1 + e.2

/-- The byte that a run leaves at an address of its rows: zeros and ones for those patterns; for the others no rule gives
it (log entry 25). -/
def TestRun.byte (r : TestRun) (a : Nat) : Byte := match r.pattern with
  | 3 => 0
  | 4 => 0xFF
  | _ => Config.freeByte (r.seed + a)

/-- The bytes of the 64-byte block that holds a local address, as written: by the last run of a generator, when nothing
has been written there since, or as the memory lists them. -/
def State.blockBytes (s : State) (a : Nat) : Bytes :=
  match s.testRuns.find? fun r => r.holds (a / 64) with
  | some r => (List.range 64).map fun i => r.byte (a / 64 * 64 + i)
  | none => memRead s.mem (a / 64 * 64) 64

/-- Blocks are written: no run of a generator shows in them. -/
def TestRun.wrote (l : List TestRun) (b n : Nat) : List TestRun := l.map fun r => { r with since := (b, n) :: r.since }

/-- An access to HBM opens the row of its bank (10 R348). -/
def State.openRow (s : State) (a : Nat) : State :=
  { s with openRows := Tab.put s.openRows (bankKey (stackOf a) (pcOf a) (bankNo a)) (rowNo a, s.time) }

/-! ## The check area (10 R329) -/

/-- Check bytes 0 to 3 of a block of GUARD_CORRECT: the remainder of M(x) × x^4 by g(x) = x^4 + 15 x^3 + 54 x^2 + 120 x +
64 (10 R330), by division, highest coefficient first. -/
def rsCheck (bs : Bytes) (blockNo : Nat) : List Nat :=
  (bs.map (·.toNat) ++ (leBytes 6 blockNo).map (·.toNat)).foldl (fun r m =>
    let q := m ^^^ r.getD 0 0
    [r.getD 1 0 ^^^ gfMul rsPoly q 15, r.getD 2 0 ^^^ gfMul rsPoly q 54, r.getD 3 0 ^^^ gfMul rsPoly q 120,
      gfMul rsPoly q 64]) [0, 0, 0, 0]

/-- The check bytes that the hub keeps for the block at a local address, as last written (10 R330, R331). What has changed
in them since stands in `State.upsets`, at positions 70 to 73. -/
def State.checkBytes (s : State) (r : Region) (a : Nat) : Bytes :=
  if r.detect then leBytes 2 (crc16 (s.blockBytes a ++ leBytes 6 (a / 64))).toNat
  else (rsCheck (s.blockBytes a) (a / 64)).map (BitVec.ofNat 8)

/-- The number of a block within its pseudo-channel. -/
def pcBlock (a : Nat) : Nat := granOf a * 4 + a / 64 % 4

/-- The check block, numbered within the region's share of the pseudo-channel, that holds the check bytes of a block, and
their offset in it: 16 consecutive data blocks of the pseudo-channel share one in GUARD_CORRECT, 32 in GUARD_DETECT. -/
def Region.checkPlace (r : Region) (a : Nat) : Nat × Nat :=
  let i := pcBlock a - pcBlock r.start
  if r.detect then (i / 32, i % 32 * 2) else (i / 16, i % 16 * 4)

/-- A read of one block of HBM at the hub, past the cache (10 R330, R331, R334, R335). -/
def State.hbmBlock (s : State) (region : Nat) (r : Region) (a : Nat) : Except MemErr Bytes × State :=
  let s := s.openRow a
  if s.poison.contains (a / 64) then (.error (MemErr.hbm r.detect region a oldPoison), s)
  else
    let e := Tab.get [] s.upsets (a / 64)
    match (if r.detect then checkDetect e else checkCorrect e) with
    | .clean d => (.ok (applyErr d (s.blockBytes a)), s)
    | .corrected d =>
      let bs := applyErr d (s.blockBytes a)
      (.ok bs, s.noteCorrected a bs)
    | .bad syn => (.error (MemErr.hbm r.detect region a syn), s.notePoisoned r.detect a)

/-! ## The slice caches (10 R341 to R345) -/

/-- The line of a granule in a hub's cache. -/
def HubState.line? (h : HubState) (g : Nat) : Option LlmLine := h.lines.find? fun l => l.granule = g

/-- A line becomes the most recently used. -/
def HubState.touch (h : HubState) (l : LlmLine) : HubState :=
  { h with lines := (h.lines.filter fun x => x.granule ≠ l.granule) ++ [l] }

/-- The write-back of a dirty line (10 R342, R344): check bytes are made again, a spoiled block is poisoned. -/
def State.writeBackLine (s : State) (l : LlmLine) : State :=
  (List.range 4).foldl (fun s i =>
    if l.dirty.getLsbD i then
      let b := l.granule * 4 + i
      let s := { s.openRow (b * 64) with
        upsets := Tab.del s.upsets b, poison := s.poison.filter (· ≠ b), writebacks := Tab.del s.writebacks b }
      let s := match Tab.get? l.held i with
        | some bs => { s with mem := memWrite s.mem (b * 64) bs, testRuns := TestRun.wrote s.testRuns b 1 }
        | none => s
      if l.spoiled.getLsbD i then
        (s.poisonBlock (b * 64)).updHub (hubOf (b * 64)) fun h => { h with
          uncorrectable := satAdd h.uncorrectable 1
          lastError := lastErrorWord s.now 4 (stackOf (b * 64)) (pcOf (b * 64)) }
      else s
    else s) s

/-- The cache set of a granule (log entry 13). -/
def setOf (mode g : Nat) : Nat := Config.llmSet g % max 1 (llmSets mode)

/-- A line is allocated; the least recently used line of a full set is replaced (10 R341). -/
def State.allocLine (s : State) (m : Nat) (l : LlmLine) : State :=
  let h := s.hub m
  let mode := h.mode.toNat
  if llmSets mode = 0 then s
  else
    let peers := h.lines.filter fun x => setOf mode x.granule = setOf mode l.granule
    if peers.length < 16 then s.updHub m fun h => h.touch l
    else match peers with
      | v :: _ =>
        let s := s.writeBackLine v
        s.updHub m fun h => { h with lines := (h.lines.filter fun x => x.granule ≠ v.granule) }.touch l
      | [] => s

/-- The four blocks of a granule are read and checked for a fill (10 R342): the blocks as delivered, or the first error,
which is the requester's (10 R336). -/
def State.fillRead (s : State) (region : Nat) (r : Region) (g : Nat) : Except MemErr (List Bytes) × State :=
  (List.range 4).foldl (fun (acc : Except MemErr (List Bytes) × State) i =>
    match acc.1 with
    | .error _ => acc
    | .ok l =>
      match acc.2.hbmBlock region r (g * 256 + i * 64) with
      | (.ok bs, s) => (.ok (l ++ [bs]), s)
      | (.error e, s) => (.error e.ofFill, s)) (.ok [], s)

/-- The blocks of a fill that differ from what was written, by number. -/
def State.fillHeld (s : State) (g : Nat) (l : List Bytes) : Table Bytes :=
  (l.zipIdx.filter fun e => e.1 ≠ s.blockBytes (g * 256 + e.2 * 64)).map fun e => (e.2, e.1)

/-- A line is filled: with error, it is not allocated (10 R336, R342). -/
def State.fill (s : State) (region : Nat) (r : Region) (g : Nat) : Except MemErr (List Bytes) × State :=
  match s.fillRead region r g with
  | (.error e, s) => (.error e, s)
  | (.ok l, s) => (.ok l, s.allocLine (hubOf (g * 256))
      { granule := g, dirty := 0, spoiled := 0, held := s.fillHeld g l })

/-- The bytes of a block as a line holds them. -/
def State.lineBytes (s : State) (l : LlmLine) (a : Nat) : Bytes :=
  (Tab.get? l.held (a / 64 % 4)).getD (s.blockBytes a)

/-- Bytes with one 8-byte word replaced by bytes that the spec does not fix (10 R344: a double-bit error in a dirty
block raises no fault, and what the read delivers is not given; log entry 14). -/
def State.spoilWord (s : State) (bs : Bytes) (w : Nat) : Bytes × State :=
  let (f, s) := s.drawBytes 8
  (bs.take (w % 8 * 8) ++ f ++ bs.drop (w % 8 * 8 + 8), s)

/-- A read of one block of HBM that misses the slice's cache: it may fill a line (10 R341, R342). -/
def State.hubMiss (s : State) (region : Nat) (r : Region) (a : Nat) : Except MemErr Bytes × State :=
  let m := hubOf a
  let s := s.updHub m fun h => { h with llmMisses := satAdd h.llmMisses 1 }
  if llmSets (s.hub m).mode.toNat ≠ 0 ∧ (r.llmAlloc = 1 ∨ r.llmAlloc = 2) then
    match s.fill region r (a / 256) with
    | (.error e, s) => (.error e, s)
    | (.ok l, s) => (.ok (l.getD (a / 64 % 4) []), s)
  else s.hbmBlock region r a

/-- A single-bit error of the slice SRAM is corrected (10 R343). -/
def State.noteSram (s : State) (m last : Nat) : State :=
  let s := s.updHub m fun h => { h with
    corrected := satAdd h.corrected 1, lastError := lastErrorWord s.now 4 (last / 64) (last % 64) }
  { s with baro := { s.baro with eccTotal := s.baro.eccTotal + 1 } }

/-- A read of one block of HBM that hits a line of the slice's cache, with the errors that the slice SRAM meets (10
R341, R343, R344). -/
def State.hubHit (s : State) (region : Nat) (r : Region) (a : Nat) (u : Upset) (l : LlmLine) :
    Except MemErr Bytes × State :=
  let m := hubOf a
  let i := a / 64 % 4
  let hit := s.updHub m fun h => ({ h with llmHits := satAdd h.llmHits 1 }).touch l
  if u.sramBits = 0 then
    if l.spoiled.getLsbD i then
      let (bs, s) := hit.spoilWord (s.lineBytes l a) u.sramWord
      (.ok bs, s)
    else (.ok (s.lineBytes l a), hit)
  else if u.sramBits = 1 then (.ok (s.lineBytes l a), hit.noteSram m (stackOf a * 64 + pcOf a))
  else if l.dirty.getLsbD i then
    let (bs, s) := hit.spoilWord (s.lineBytes l a) u.sramWord
    (.ok bs, s.updHub m fun h => h.touch { l with spoiled := l.spoiled ||| (1#4 <<< i) })
  else
    ((s.writeBackLine l).updHub m fun h => { h with
      lines := h.lines.filter fun x => x.granule ≠ a / 256 }).hubMiss region r a

/-- A read of one block of HBM through its hub's slice (10 R341 to R344). -/
def State.hubRead (s : State) (region : Nat) (r : Region) (a : Nat) (u : Upset) : Except MemErr Bytes × State :=
  match (s.hub (hubOf a)).line? (a / 256) with
  | none => s.hubMiss region r a
  | some l => s.hubHit region r a u l

/-- A read of one block of a slice scratchpad (10 R343, R344). -/
def State.sramRead (s : State) (m off : Nat) (u : Upset) : Except MemErr Bytes × State :=
  let a := llmBase + m * 0x6000000 + off
  if s.poison.contains (a / 64) then (.error (MemErr.sram m off oldPoison), s)
  else if u.sramBits = 0 then (.ok (s.blockBytes a), s)
  else if u.sramBits = 1 then
    (.ok (s.blockBytes a), s.noteSram m 0)
  else
    (.error (MemErr.sram m off ((Config.secdedSyndrome s.free).toNat + u.sramWord % 8 * 256)),
      { (s.poisonBlock a).updHub m (fun h => { h with
        uncorrectable := satAdd h.uncorrectable 1, lastError := lastErrorWord s.now 4 0 0 }) with free := s.free + 1 })

/-! ## Access by local address -/

/-- No new physical error meets the access. -/
def noUpset : Upset := {}

/-- The address at which a core-window access of a job is served: the live core's own memory, or the image of a
pre-empted context, also while the core has no context at all (15 R492, R496, R508). -/
def State.windowAddr (s : State) (job : BitVec 32) (c off : Nat) : Nat :=
  let live : Bool := match (s.core c).ctx with
    | some p => (s.partition p).job == job
    | none => false
  if live then winBase c + off
  else
    match s.saved.find? (fun e => e.2.1 = c && (s.partition e.1).job = job) with
    | some (p, _, _) => (s.partition p).save + (s.partition p).rankOf c * 0x140000 + off
    | none => winBase c + off

/-- A read of the 64-byte block that holds a local address, on behalf of a job. -/
def State.readBlock (s : State) (job : BitVec 32) (a : Nat) (u : Upset) : Except MemErr Bytes × State :=
  match s.place a with
  | .hbm i r => match s.hubRead i r a u with
    | (.error e, s) => (.error (e.issuedAt a), s)
    | (.ok bs, s) => (.ok bs, s)
  | .llm m off => s.sramRead m off u
  | .core c off =>
    match s.place (s.windowAddr job c off) with
    | .hbm i r => match s.hubRead i r (s.windowAddr job c off) u with
      | (.error e, s) => (.error (e.issuedAt a), s)
      | (.ok bs, s) => (.ok bs, s)
    | _ => (.ok (s.blockBytes (s.windowAddr job c off)), s)
  | _ => (.error (MemErr.unmapped a), s)

/-- A read of blocks in rising order; it ends at the first error. The bytes of the blocks before it are kept. -/
def State.readBlocks (s : State) (job : BitVec 32) (a : Nat) : Nat → Bytes × Option MemErr × State
  | 0 => ([], none, s)
  | n + 1 =>
    match s.readBlock job a noUpset with
    | (.error e, s) => ([], some e, s)
    | (.ok bs, s) =>
      let (rest, e, s) := s.readBlocks job (a + 64) n
      (bs ++ rest, e, s)

/-- A read of `n` bytes from a local address; the bytes before the first failing block, and the error, at the address at
which that block's part was issued (10 R338). -/
def State.readUpTo (s : State) (job : BitVec 32) (a n : Nat) : Bytes × Option MemErr × State :=
  if n = 0 then ([], none, s)
  else
    let first := a / 64 * 64
    let (bs, e, s) := s.readBlocks job first ((a + n - 1) / 64 - a / 64 + 1)
    ((bs.drop (a - first)).take n, e.map fun e => e.issuedAt (max a e.at_), s)

/-- A read of `n` bytes from a local address, whole or failed. -/
def State.readMem (s : State) (job : BitVec 32) (a n : Nat) : Except MemErr Bytes × State :=
  match s.readUpTo job a n with
  | (_, some e, s) => (.error e, s)
  | (bs, none, s) => (.ok bs, s)

/-- The block of a code word is written whole: no error remains in it (10 R334, R335). -/
def State.freshBlock (s : State) (b : Nat) : State :=
  { s with upsets := Tab.del s.upsets b, poison := s.poison.filter (· ≠ b),
           writebacks := Tab.del s.writebacks b, testRuns := TestRun.wrote s.testRuns b 1 }

/-- A line takes a write of a block: it is dirty, and what the line held of it otherwise is gone. A write of the whole
block mends a spoiled one; a write of a part leaves it spoiled (10 R344). -/
def LlmLine.write (l : LlmLine) (a : Nat) (whole : Bool) : LlmLine :=
  let d : BitVec 4 := 1#4 <<< (a / 64 % 4)
  { l with
    dirty := l.dirty ||| d
    spoiled := if whole then l.spoiled &&& ~~~d else l.spoiled
    held := Tab.del l.held (a / 64 % 4) }

/-- The line of an address, if it is cached, takes a write. -/
def State.dirtyLine (s : State) (a : Nat) (whole : Bool) : State :=
  match (s.hub (hubOf a)).line? (a / 256) with
  | some l => s.updHub (hubOf a) fun h => h.touch (l.write a whole)
  | none => s.openRow a

/-- The cache's part of a write to HBM (10 R341): a hit makes the block dirty; a miss may allocate. A fill that fails is
the writer's fault, and the bytes are written past the cache (log entry 76). -/
def State.cacheWrite (s : State) (region : Nat) (r : Region) (a : Nat) : Except MemErr Unit × State :=
  let m := hubOf a
  match (s.hub m).line? (a / 256) with
  | some l => (.ok (), s.updHub m fun h => ({ h with llmHits := satAdd h.llmHits 1 }).touch (l.write a true))
  | none =>
    let s := s.updHub m fun h => { h with llmMisses := satAdd h.llmMisses 1 }
    if llmSets (s.hub m).mode.toNat ≠ 0 ∧ r.llmAlloc = 2 then
      match s.fill region r (a / 256) with
      | (.ok _, s) => (.ok (), s.dirtyLine a true)
      | (.error e, s) => (.error e, s.openRow a)
    else (.ok (), s.openRow a)

/-- Bytes of a block are written as a new code word. -/
def State.putBlock (s : State) (b : Nat) (bs : Bytes) : State :=
  { s.freshBlock (b / 64) with mem := memWrite s.mem b bs }

/-- A write of a part of a block starts from the block as read. -/
def State.mergeBlock (s : State) (b : Nat) (old bs : Bytes) : State :=
  { s.freshBlock (b / 64) with mem := memWrite (memWrite s.mem (b / 64 * 64) old) b bs }

/-- A write of bytes that lie in one block of HBM (10 R337, R341, R344), with the errors that the slice SRAM meets. A
part of a block is merged into what a read of it gives; that read allocates no line, and the write counts as one access. -/
def State.writeHbm (s : State) (i : Nat) (r : Region) (b : Nat) (bs : Bytes) (u : Upset) : Except MemErr Unit × State :=
  if bs.length = 64 then (s.putBlock b bs).cacheWrite i r b
  else match (s.hub (hubOf b)).line? (b / 256) with
    | some l => match s.hubHit i r b u l with
      | (.error e, s) => (.error e, s)
      | (.ok old, s) => (.ok (), (s.mergeBlock b old bs).dirtyLine b false)
    | none => match s.hbmBlock i r b with
      | (.error e, s) => (.error e, s)
      | (.ok old, s) => (s.mergeBlock b old bs).cacheWrite i r b

/-- Drift in a core's window takes no write (05 R198). -/
def inDrift (off : Nat) : Bool := 0x120000 ≤ off

/-- A write of bytes that lie in one 64-byte block, on behalf of a job (10 R337, R344), with the errors that the slice SRAM
meets. -/
def State.writeBlockMeeting (s : State) (job : BitVec 32) (a : Nat) (bs : Bytes) (u : Upset) :
    Except MemErr Unit × State :=
  match s.place a with
  | .hbm i r => match s.writeHbm i r a bs u with
    | (.error e, s) => (.error (e.issuedAt a), s)
    | (.ok _, s) => (.ok (), s)
  | .llm m off =>
    if bs.length = 64 then (.ok (), s.putBlock a bs)
    else match s.sramRead m off u with
      | (.error e, s) => (.error (e.issuedAt a), s)
      | (.ok _, s) => (.ok (), s.putBlock a bs)
  | .core c off =>
    if inDrift off then (.ok (), s)
    else match s.place (s.windowAddr job c off) with
      | .hbm i r => match s.writeHbm i r (s.windowAddr job c off) bs u with
        | (.error e, s) => (.error (e.issuedAt a), s)
        | (.ok _, s) => (.ok (), s)
      | _ => (.ok (), { s with mem := memWrite s.mem (s.windowAddr job c off) bs })
  | _ => (.error (MemErr.unmapped a), s)

/-- A write of bytes that lie in one 64-byte block, on behalf of a job. -/
def State.writeBlock (s : State) (job : BitVec 32) (a : Nat) (bs : Bytes) : Except MemErr Unit × State :=
  s.writeBlockMeeting job a bs noUpset

/-- A write split at 64-byte blocks, in rising order; it ends at the first error, and earlier blocks stand. -/
def State.writeBlocks (s : State) (job : BitVec 32) (a : Nat) (bs : Bytes) : Nat → Except MemErr Unit × State
  | 0 => (.ok (), s)
  | n + 1 =>
    if bs.isEmpty then (.ok (), s)
    else
      let k := min bs.length (64 - a % 64)
      match s.writeBlock job a (bs.take k) with
      | (.error e, s) => (.error e, s)
      | (.ok _, s) => s.writeBlocks job (a + k) (bs.drop k) n

/-- A write of a byte string from a local address upwards. -/
def State.writeMem (s : State) (job : BitVec 32) (a : Nat) (bs : Bytes) : Except MemErr Unit × State :=
  s.writeBlocks job a bs (bs.length / 64 + 2)

/-! ## Ownership (15 R492, 12 R409) -/

/-- A partition owns the memory at a local address. -/
def State.ownsAt (s : State) (p a : Nat) : Bool :=
  let x := s.partition p
  x.state ≠ .absent && x.state ≠ .faulted &&
  match s.place a with
  | .hbm i _ => x.regions.contains i
  | .llm m off => x.ranges.any fun e => e.1 = m && e.2.1 ≤ off && off < e.2.1 + e.2.2
  | .core c _ => x.hasCore c
  | _ => false

/-- A partition owns every byte of a range: each of its 64-byte blocks. -/
def State.owns (s : State) (p a n : Nat) : Bool :=
  (List.range ((a + n - 1) / 64 - a / 64 + 1)).all fun i => s.ownsAt p ((a / 64 + i) * 64)

/-- The Dew store of a job counts as memory of its ACTIVE partition (17 R564). -/
def State.dewAt (s : State) (job : BitVec 32) (a : Nat) : Bool :=
  s.ckpt.dew.any fun e => e.2.job = job && e.2.base ≤ a && a < e.2.base + 32 * (4096 + e.2.shard)

/-- Some partition of a job owns every byte of a range (12 R409). -/
def State.jobOwns (s : State) (job : BitVec 32) (a n : Nat) : Bool :=
  (List.range ((a + n - 1) / 64 - a / 64 + 1)).all fun i =>
    (s.partsOfJob job).any fun p => s.ownsAt p ((a / 64 + i) * 64) ||
      ((s.partition p).state = .active && s.dewAt job ((a / 64 + i) * 64))

/-- Some byte of a range is unmapped to an agent that does not reach device control space. -/
def State.unmappedIn (s : State) (a n : Nat) : Bool :=
  (List.range ((a + n - 1) / 64 - a / 64 + 1)).any fun i => s.unmappedAt ((a / 64 + i) * 64)

/-- Writes split at 64-byte blocks, each on its own: one that fails leaves the others. -/
def State.pokeBlocks (s : State) (job : BitVec 32) (a : Nat) (bs : Bytes) : Nat → State
  | 0 => s
  | n + 1 =>
    if bs.isEmpty then s
    else
      let k := min bs.length (64 - a % 64)
      (s.writeBlock job a (bs.take k)).2.pokeBlocks job (a + k) (bs.drop k) n

/-- Firmware's own write to the memory of a partition: records, notices, replies, images. A block that is poisoned and
written in part keeps its bytes, the others are written, and no rule names a context that faults for it (log entry 77). -/
def State.poke (s : State) (p a : Nat) (bs : Bytes) : State :=
  s.pokeBlocks (s.partition p).job a bs (bs.length / 64 + 2)

/-- Firmware's or the command processor's own read on behalf of a partition. -/
def State.peek (s : State) (p a n : Nat) : Except MemErr Bytes × State := s.readMem (s.partition p).job a n

end Sys2Proof.Machine
end

