-- ==== Sys2Proof/Machine/Packets.lean ====
section
/-! DEFINITION. Packets on links and in the package: link words and check words (11 R368, R370), transaction and tree
packet headers (12 R400, R401, 13 R447), routing (12 R423 to R425), credits (11 R374), telemetry (12 R428, R429), and
the creation of transactions (12 R396, R402). -/

namespace Sys2Proof.Machine

open Sys2Proof

/-! ## Flits -/

/-- The classes of a flit (11 R368). -/
def classK (cls : Nat) : Word32 := match cls with
  | 0 => 0x00000000
  | 1 => 0x3C3C3C3C
  | _ => 0xC3C3C3C3

/-- The check word of a flit of a class: 0 header, 1 data, 2 stomped (11 R368). -/
def checkWord (f : Flit) (cls : Nat) : Word32 := crc32 (flitBytes f) ^^^ classK cls

/-- The class that a receiver reads from a flit and its check word (11 R369); `none` is a bad slot. -/
def classOf (f : Flit) (check : Word32) : Option Nat :=
  [0, 1, 2].find? fun c => crc32 (flitBytes f) ^^^ check = classK c

/-- Bits of a flit from byte `b`. -/
def ffld (f : Flit) (b hi lo : Nat) : Nat := fld f.toNat (8 * b + hi) (8 * b + lo)

/-- The link word of a header flit (11 R370). -/
def linkWord (pseq vc dflits kind : Nat) : Nat := pseq % 65536 * 65536 + vc * 256 + dflits * 16 + kind

def kindOf (f : Flit) : Nat := ffld f 0 3 0
def dflitsOf (f : Flit) : Nat := ffld f 0 7 4
def vcIn (f : Flit) : Nat := ffld f 0 10 8
def pseqIn (f : Flit) : Nat := ffld f 0 31 16

/-- The link word has a reserved kind or bit, or more than 8 data flits (11 R379). -/
def badLinkWord (f : Flit) : Bool := kindOf f > 5 || dflitsOf f > 8 || ffld f 0 15 11 != 0

/-- The class of a received slot; `none` is a bad slot (11 R369). -/
def slotClass (quick : Bool) (w : Slot) : Option Nat :=
  if w.spoiled || (w.words.any fun c => (rxWord quick c).isNone) then none else classOf w.flit w.check

/-- The 10-bit symbols of slots that follow one another: a slot is the 64 bytes of its flit and its check word, each in
rising order, the low bit of a byte first (11 R367; log entry 139). -/
def slotSymbols (slots : List (Flit × Word32)) : List Nat :=
  let bytes := slots.flatMap fun e => flitBytes e.1 ++ leBytes 4 e.2.toNat
  (List.range (8 * bytes.length / 10)).map fun i => leNat bytes / 2 ^ (10 * i) % 1024

/-- The codewords that carry slots from the start of a codeword on, filled up with IDLE slots (11 R365). -/
def lineWords (quick : Bool) (slots : List (Flit × Word32)) (idle : Flit × Word32) : List LaneWord :=
  let k := if quick then 128 else 512
  let symbols := slotSymbols (slots ++ List.replicate 10 idle)
  (List.range ((544 * slots.length + 10 * k - 1) / (10 * k))).map fun i => lineWord quick ((symbols.drop (i * k)).take k)

/-- A header flit with its PSEQ set. -/
def withPseq (f : Flit) (pseq : Nat) : Flit :=
  BitVec.ofNat 512 (f.toNat - pseqIn f * 65536 + pseq % 65536 * 65536)

/-- Data flits of a packet's data (11 R371). -/
def dataFlits : Nat → Bytes → List Flit
  | 0, _ => []
  | n + 1, bs => flitOf (bs.take 64) :: dataFlits n (bs.drop 64)

/-! ## Transaction packets (12 R400, R401) -/

/-- The virtual channel of a request or reply; a WRITE that a Monsoon unit originates takes channel 4. -/
def vcOf (op srcUnit : Nat) : Nat :=
  if op ≥ 0x80 then 1
  else if op = 0x20 ∨ op = 0x21 then 5
  else if op = 0x03 then 2
  else if 0x40 ≤ op ∧ op ≤ 0x4F then 3
  else if op = 0x02 ∧ 26 ≤ srcUnit / 256 ∧ srcUnit / 256 ≤ 29 ∧ 0x10 ≤ srcUnit % 256 ∧ srcUnit % 256 ≤ 0x1F then 4
  else 0

/-- Whether an operation carries LENGTH bytes of data. -/
def carriesData (op status : Nat) : Bool := op = 2 || op = 3 || op = 4 || (op = 0x80 && (status = 0 || status = 2 || status = 3))

/-- The data flits that a packet has. -/
def pktFlits (k : Pkt) : Nat := if carriesData k.op.toNat k.status.toNat then cdiv k.length.toNat 64 else 0

/-- The header flit of a transaction packet, PSEQ 0. -/
def pktToFlit (k : Pkt) : Flit :=
  let b : Bytes :=
    leBytes 4 (linkWord 0 (vcOf k.op.toNat k.srcUnit.toNat) (pktFlits k) 0) ++
    [k.op, BitVec.ofNat 8 (k.epoch.toNat + k.retry.toNat * 4 + k.comp.toNat * 16 + k.mv.toNat * 32 +
      k.combined.toNat * 64 + k.locked.toNat * 128)] ++
    leBytes 2 k.dst.toNat ++ leBytes 2 k.src.toNat ++ leBytes 2 k.srcUnit.toNat ++ leBytes 4 k.reqId.toNat ++
    leBytes 4 k.job.toNat ++ leBytes 1 k.part.toNat ++ [k.status] ++ leBytes 2 k.length.toNat ++
    leBytes 8 k.addr.toNat ++ leBytes 8 k.arg0.toNat ++ leBytes 8 k.arg1.toNat ++ leBytes 8 k.origTime.toNat ++
    leBytes 2 (k.group.toNat + k.height.toNat * 4096) ++ zeros 6
  flitOf b

/-- The operations of 12 R401 that are not tree packets. -/
def listedOp (op : Nat) : Bool :=
  (1 ≤ op && op ≤ 4) || (0x10 ≤ op && op ≤ 0x16) || op = 0x20 || op = 0x21 || (0x80 ≤ op && op ≤ 0x82)

/-- The header that a PACKET flit holds; `none` when 12 R401 discards it. -/
def pktOfFlit (f : Flit) : Option Pkt :=
  let op := ffld f 4 7 0
  let b5 := ffld f 5 7 0
  let k : Pkt := {
    op := BitVec.ofNat 8 op, epoch := BitVec.ofNat 2 b5, retry := BitVec.ofNat 2 (b5 / 4), comp := bit b5 4,
    mv := bit b5 5, combined := bit b5 6, locked := bit b5 7, dst := BitVec.ofNat 15 (ffld f 6 14 0),
    src := BitVec.ofNat 15 (ffld f 8 14 0), srcUnit := BitVec.ofNat 16 (ffld f 10 15 0),
    reqId := BitVec.ofNat 32 (ffld f 12 31 0), job := BitVec.ofNat 32 (ffld f 16 31 0),
    part := BitVec.ofNat 5 (ffld f 20 4 0), status := BitVec.ofNat 8 (ffld f 21 7 0),
    length := BitVec.ofNat 10 (ffld f 22 9 0), addr := BitVec.ofNat 48 (ffld f 24 47 0),
    arg0 := BitVec.ofNat 64 (ffld f 32 63 0), arg1 := BitVec.ofNat 64 (ffld f 40 63 0),
    origTime := BitVec.ofNat 64 (ffld f 48 63 0), group := BitVec.ofNat 12 (ffld f 56 11 0),
    height := BitVec.ofNat 4 (ffld f 56 15 12) }
  let reserved := ffld f 6 15 15 + ffld f 8 15 15 + ffld f 20 7 5 + ffld f 22 15 10 + ffld f 24 63 48 + ffld f 58 47 0 +
    (if op < 0x80 then ffld f 21 7 0 else 0)
  if !listedOp op || reserved != 0 || vcIn f ≥ 6 || ((op = 3 || op = 4) && k.comp) then none else some k

/-- The header flit of a tree packet, PSEQ 0 (13 R447). -/
def treeToFlit (k : TreePkt) : Flit :=
  let b : Bytes :=
    leBytes 4 (linkWord 0 3 (cdiv k.length.toNat 64) 0) ++
    [k.op, BitVec.ofNat 8 (k.epoch.toNat + k.retry.toNat * 4)] ++
    leBytes 2 k.dst.toNat ++ leBytes 2 k.src.toNat ++ leBytes 2 k.srcUnit.toNat ++ leBytes 4 k.reqId.toNat ++
    leBytes 4 k.job.toNat ++ leBytes 1 k.part.toNat ++ [0] ++ leBytes 2 k.length.toNat ++
    leBytes 8 k.addr.toNat ++ leBytes 8 k.digest.toNat ++ leBytes 8 k.equinox.toNat ++ leBytes 2 k.group.toNat ++
    leBytes 1 (k.tree.toNat + k.empty.toNat * 2 + k.special.toNat * 4) ++
    leBytes 1 (k.limbBase.toNat + k.limbCount.toNat * 16) ++ leBytes 2 k.abortCode.toNat ++ leBytes 2 k.origin.toNat ++
    zeros 8
  flitOf b

/-- The tree packet that a PACKET flit holds. -/
def treeOfFlit (f : Flit) : Option TreePkt :=
  let op := ffld f 4 7 0
  let k : TreePkt := {
    op := BitVec.ofNat 8 op, epoch := BitVec.ofNat 2 (ffld f 5 1 0), retry := BitVec.ofNat 2 (ffld f 5 3 2),
    dst := BitVec.ofNat 15 (ffld f 6 14 0), src := BitVec.ofNat 15 (ffld f 8 14 0),
    srcUnit := BitVec.ofNat 16 (ffld f 10 15 0), reqId := BitVec.ofNat 32 (ffld f 12 31 0),
    job := BitVec.ofNat 32 (ffld f 16 31 0), part := BitVec.ofNat 5 (ffld f 20 4 0),
    length := BitVec.ofNat 10 (ffld f 22 9 0), addr := BitVec.ofNat 48 (ffld f 24 47 0),
    digest := BitVec.ofNat 64 (ffld f 32 63 0), equinox := BitVec.ofNat 64 (ffld f 40 63 0),
    group := BitVec.ofNat 12 (ffld f 48 11 0), tree := BitVec.ofNat 1 (ffld f 50 0 0), empty := bit (ffld f 50 7 0) 1,
    special := bit (ffld f 50 7 0) 2, limbBase := BitVec.ofNat 4 (ffld f 51 3 0),
    limbCount := BitVec.ofNat 4 (ffld f 51 7 4), abortCode := BitVec.ofNat 16 (ffld f 52 15 0),
    origin := BitVec.ofNat 15 (ffld f 54 14 0) }
  let reserved := ffld f 5 7 4 + ffld f 6 15 15 + ffld f 8 15 15 + ffld f 20 7 5 + ffld f 21 7 0 + ffld f 22 15 10 +
    ffld f 24 63 48 + ffld f 48 15 12 + ffld f 50 7 3 + ffld f 54 15 15 + ffld f 56 63 0
  if 0x40 ≤ op ∧ op ≤ 0x43 ∧ reserved = 0 then some k else none

/-- The opcode of a PACKET flit, its destination, its job and its address: the same places in both layouts. -/
def flitOp (f : Flit) : Nat := ffld f 4 7 0
def flitDst (f : Flit) : PkgId := BitVec.ofNat 15 (ffld f 6 14 0)
def flitJob (f : Flit) : BitVec 32 := BitVec.ofNat 32 (ffld f 16 31 0)
def flitAddr (f : Flit) : Nat := ffld f 24 47 0
def flitEpoch (f : Flit) : Nat := ffld f 5 1 0

/-! ## Package IDs and routing (12 R423 to R425, R398) -/

/-- Slot and tray of a package ID, and the tray's coordinate in a dimension (01 R29, 11 R362). -/
def pkgSlot (p : PkgId) : Nat := p.toNat % 16
def pkgTray (p : PkgId) : Nat := p.toNat / 16
def trayCoord (tray dim : Nat) : Nat := match dim with
  | 0 => tray % 16
  | 1 => tray / 16 % 16
  | _ => tray / 256 % 8

/-- The size of a dimension, as the last training took it (11 R362, R395). -/
def State.dimSize (s : State) (dim : Nat) : Nat :=
  let v := s.fabric.dimInForce.toNat
  match dim with
  | 0 => fld v 3 0 + 1
  | 1 => fld v 7 4 + 1
  | _ => fld v 10 8 + 1

/-- The tray coordinates of a package lie inside the dimensions in force (12 R398). -/
def State.inDims (s : State) (p : PkgId) : Bool :=
  (List.range 3).all fun d => trayCoord (pkgTray p) d < s.dimSize d

/-- The valid table slot of an epoch (12 R426). -/
def State.tableOf (s : State) (epoch : Nat) : Option RouteTable :=
  ((s.fabric.tables.map (·.2)).find? fun t => t.valid && t.epoch.toNat = epoch)

/-- The entry of a routing table for a coordinate: KMASK and DIR (12 R424, R430). -/
def RouteTable.entry (t : RouteTable) (dim c : Nat) : Nat × Nat :=
  let w := match dim with
    | 0 => if c < 8 then t.x0 else t.x1
    | 1 => if c < 8 then t.y0 else t.y1
    | _ => t.z
  let b := fld w.toNat (8 * (c % 8) + 7) (8 * (c % 8))
  (b / 16, b % 4)

/-- The L-port index that an address takes under a mask of usable indices (12 R424). -/
def lIndex (kmask addr : Nat) : Option Nat :=
  let j := ((addr >>> 6) ^^^ (addr >>> 12)) % 4
  ((List.range 4).map fun i => (j + i) % 4).find? fun k => kmask.testBit k

/-- Where a packet goes next from this package. -/
inductive Hop where
  /-- It is for this package. -/
  | here
  | out (port : Nat)
  /-- Its epoch names no valid slot (12 R426). -/
  | noEpoch
  /-- The table names no usable port. -/
  | noPort
deriving DecidableEq, Repr

/-- The next hop of a packet (12 R423, R424, R426). -/
def State.nextHop (s : State) (dst : PkgId) (epoch addr : Nat) : Hop :=
  if dst = s.self then .here
  else match s.tableOf epoch with
    | none => .noEpoch
    | some t =>
      if pkgTray dst = pkgTray s.self then .out (tPortTo (pkgSlot s.self) (pkgSlot dst) (addr / 64 % 2))
      else
      let dim? := (List.range 3).find? fun d => (t.entry d (trayCoord (pkgTray dst) d)).2 ≠ 0
      match dim? with
      | none => .noPort
      | some d =>
        let (kmask, dir) := t.entry d (trayCoord (pkgTray dst) d)
        match lIndex kmask addr with
        | none => .noPort
        | some k => .out (lPortNo d (dir = 1) k)

/-- The credits that a packet needs at its output port: 2 when it enters a ring, 1 otherwise (12 R425). The input port
is 56 for a packet injected here. -/
def creditNeed (inPort outPort : Nat) : Nat :=
  if portRole outPort ≠ 1 then 1
  else if portRole inPort = 1 ∧ (lPort inPort).1 = (lPort outPort).1 ∧ inPort < 56 then 1
  else 2

/-! ## Credits and sending on a port (11 R370, R374) -/

/-- Buffers that a division gives a virtual channel (11 R373, R395). -/
def divOf (cfg : Word) (vc : Nat) : Nat := fld cfg.toNat (8 * vc + 7) (8 * vc)

/-- Credits held for a virtual channel (11 R374): the far receiver's division less the packets sent and not yet reported
freed. -/
def Port.credits (p : Port) (vc : Nat) : Nat :=
  divOf p.creditInForce vc - ((Tab.get 0 p.pseqTx vc) - (Tab.get 0 p.peerFreed vc)).toNat

/-- A packet leaves on a port with the next PSEQ of its virtual channel. -/
def State.sendOn (s : State) (n vc : Nat) (header : Flit) (data : Bytes) : State :=
  let q := Tab.get 0#16 (s.port n).pseqTx vc + 1
  let s := s.updPort n fun p => { p with pseqTx := Tab.put p.pseqTx vc q }
  let slot (cls : Nat) (f : Flit) : Flit × Word32 := (f, checkWord f cls)
  if h : n < 56 then
    s.emit (.packet ⟨n, h⟩ (slot 0 (withPseq header q.toNat) :: (dataFlits (dflitsOf header) data).map (slot 1)))
  else s

/-- A flit leaves on a port with its check word (11 R372). -/
def State.sendFlit (s : State) (n : Nat) (f : Flit) (cls : Nat) : State :=
  if h : n < 56 then s.emit (.flit ⟨n, h⟩ f (checkWord f cls)) else s

/-- The port that selection i of the Anemometer names, and whether the selection is in use (12 R430). -/
def State.anemPort (s : State) (i : Nat) : Nat := fld s.fabric.anemSel.toNat (8 * i + 5) (8 * i)
def State.anemOn (s : State) (i : Nat) : Bool := s.fabric.anemSel.toNat.testBit (8 * i + 7)

/-- The selections of the Anemometer that pass a test change what they count (12 R429, R430). -/
def State.noteAnem (s : State) (sel : Nat → Bool) (f : Anem → Anem) : State :=
  s.updFabric fun b => { b with
    anem := (List.range 8).foldl (fun t i => if sel i then Tab.put t i (f (Tab.get Anem.zero t i)) else t) b.anem }

/-- The selections in use that name a port. -/
def State.anemSelects (s : State) (n i : Nat) : Bool := s.anemOn i && s.anemPort i = n

/-- A Weathervane record of a header at a port (12 R428). -/
def wvRecord (now n : Nat) (sent : Bool) (f : Flit) : Bytes :=
  leBytes 8 now ++ [BitVec.ofNat 8 (n + (if sent then 128 else 0))] ++ zeros 7 ++ (flitBytes f).drop 4 ++ zeros 52

/-- A PACKET header of partition `p`'s job passes a port: counted for that port and direction, and every 2^N-th of them
recorded (12 R428). -/
def State.wvNote (s : State) (p n : Nat) (sent : Bool) (f : Flit) : State :=
  let v := Tab.get Vane.reset s.fabric.wv p
  if !v.on then s
  else
    let count := Tab.get 0 v.counts (2 * n + sent.toNat) + 1
    let s := s.updFabric fun b => { b with
      wv := Tab.put b.wv p { v with counts := Tab.put v.counts (2 * n + sent.toNat) count } }
    if count % 2 ^ v.n.toNat ≠ 0 then s
    else
      let a := gLocal v.base
      match s.peek p a 24 with
      | (.error _, s) => s
      | (.ok h, s) =>
        let prod := field h 0 8
        if prod - field h 8 8 = v.size.toNat then s.poke p (a + 16) (leBytes 8 (field h 16 8 + 1))
        else
          (s.poke p (a + 64 + prod % max 1 v.size.toNat * 128) (wvRecord s.now n sent f)).poke p a (leBytes 8 (prod + 1))

/-- Data bytes of a packet: LENGTH, when it has data flits (11 R371, 12 R400, 13 R447). -/
def dataBytes (f : Flit) : Nat := if dflitsOf f = 0 then 0 else ffld f 22 9 0

/-- Telemetry of a PACKET header at a port (12 R428, R429). -/
def State.noteHeader (s : State) (n : Nat) (sent : Bool) (f : Flit) : State :=
  let s := s.noteAnem (s.anemSelects n) fun a => { a with pkts := satAdd a.pkts 1, bytes := satAdd a.bytes (dataBytes f) }
  (s.partsOfJob (flitJob f)).foldl (fun s p => s.wvNote p n sent f) s

/-- A buffer of a port's virtual channel is freed (11 R373, R374); port 56 has none. -/
def State.freeBuffers (s : State) (n vc k : Nat) : State :=
  if n < 56 then s.updPort n fun p => { p with freed := Tab.put p.freed vc (Tab.get 0 p.freed vc + BitVec.ofNat 16 k) }
  else s

/-- A packet that is still arriving is being forwarded on the port (11 R378). -/
def State.portBusy (s : State) (n : Nat) : Bool := s.ports.any fun e => match e.2.open_ with
  | some o => o.forward = some n
  | none => false

/-- A packet may leave on a port at once: no packet of its channel waits there, it holds the credits, and the port is
not inside another packet (11 R374, 12 R425). -/
def State.mayLeave (s : State) (n need vc : Nat) : Bool :=
  !(s.fabric.outQ.any fun o => o.port = n && o.vc = vc) && need ≤ (s.port n).credits vc && !s.portBusy n

/-- The depth of a switch core's queue changes; its high-water mark follows (12 R430). -/
def State.swqStep (s : State) (header : Flit) (up : Bool) : State :=
  let key := flitAddr header / 512 % 4 * 8 + vcIn header
  let (d, hi) := Tab.get (0, 0) s.fabric.swqDepth key
  let d' := if up then d + 1 else d - 1
  s.updFabric fun b => { b with swqDepth := Tab.put b.swqDepth key (d', if hi.toNat < d'.toNat then d' else hi) }

/-- A packet from the buffer of port `src` is given to a port: it leaves at once or waits in the switch core (11 R374,
12 R425). A port that is not UP discards what routing sends to it (11 R380). -/
def State.transmit (s : State) (src n : Nat) (header : Flit) (data : Bytes) : State :=
  let vc := vcIn header
  let need := creditNeed src n
  if (s.port n).state ≠ .up then s.freeBuffers src vc 1
  else if s.mayLeave n need vc then ((s.sendOn n vc header data).noteHeader n true header).freeBuffers src vc 1
  else (s.updFabric fun b => { b with outQ := b.outQ ++ [⟨src, n, need, vc, header, data⟩] }).swqStep header true

/-- Packets that wait on a port leave, in order, as far as credits allow. -/
def State.drainPort (s : State) (n : Nat) : Nat → State
  | 0 => s
  | fuel + 1 =>
    match s.fabric.outQ.find? fun o => o.port = n && o.need ≤ (s.port n).credits o.vc && !s.portBusy n &&
        !(s.fabric.outQ.any fun x => x.port = n && x.vc = o.vc && x ≠ o &&
          s.fabric.outQ.idxOf x < s.fabric.outQ.idxOf o) with
    | none => s
    | some o =>
      let s := (s.updFabric fun b => { b with outQ := b.outQ.erase o }).swqStep o.header false
      (((s.sendOn n o.vc o.header o.data).noteHeader n true o.header).freeBuffers o.src o.vc 1).drainPort n fuel

/-- A packet formed in this package is routed to its first hop (12 R423). Within the package it goes over the package
network (01 R30). A package in HALT_REFUSED forwards nothing (12 R416). -/
def State.inject (s : State) (header : Flit) (data : Bytes) : State :=
  match s.nextHop (flitDst header) (flitEpoch header) (flitAddr header) with
  | .here => { s with fabric := { s.fabric with rx := s.fabric.rx ++ [(56, vcIn header, header, data)] } }
  | .out n => s.transmit 56 n header data
  | .noEpoch => s.updFabric fun b => { b with epochDrop := satAdd b.epochDrop 1 }
  | .noPort => s

/-! ## Transactions (12 R396, R400) -/

/-- The X-die whose engine handles a target local address (12 R396). -/
def engineOf (a : Nat) : Nat := a / 512 % 4

/-- The season state is LOCKED. -/
def State.locked (s : State) : Bool := s.season.state = .locked

/-- A transaction is created; it waits until its engine sends it (12 R396, R408). -/
def State.newXact (s : State) (k : Pkt) (data : Bytes) (owner : Owner) (part : Nat) : State :=
  let id := s.fabric.nextReq
  let k := { k with reqId := id, src := s.self, job := (s.partition part).job, part := BitVec.ofNat 5 part }
  s.updFabric fun b => { b with
    nextReq := id + 1
    xacts := b.xacts ++ [⟨k, none, data, owner, part, .queued, 0, 0, 0, 0⟩] }

/-- A collective tree packet is created; it is timed and retried as a transaction (13 R448). -/
def State.newTree (s : State) (k : TreePkt) (data : Bytes) (owner : Owner) (part : Nat) : State :=
  let id := s.fabric.nextReq
  let k := { k with reqId := id, src := s.self, job := (s.partition part).job, part := BitVec.ofNat 5 part }
  let h : Pkt := { op := k.op, dst := k.dst, src := k.src, srcUnit := k.srcUnit, reqId := id, job := k.job,
                   part := k.part, length := k.length, addr := k.addr }
  s.updFabric fun b => { b with
    nextReq := id + 1
    xacts := b.xacts ++ [⟨h, some k, data, owner, part, .queued, 0, 0, 0, 0⟩] }

/-- The transaction of a REQ_ID. -/
def State.xact? (s : State) (id : BitVec 32) : Option Xact := s.fabric.xacts.find? fun x => x.k.reqId = id

/-- The transaction of a REQ_ID, changed. -/
def State.updXact (s : State) (id : BitVec 32) (f : Xact → Xact) : State :=
  s.updFabric fun b => { b with xacts := b.xacts.map fun x => if x.k.reqId = id then f x else x }

/-- The transaction of a REQ_ID is no longer outstanding. -/
def State.dropXact (s : State) (id : BitVec 32) : State :=
  s.updFabric fun b => { b with xacts := b.xacts.filter fun x => x.k.reqId ≠ id }

/-- The reply to a request (12 R400, R401): fields of the request copied, sent back from this package. -/
def replyTo (s : State) (k : Pkt) (op : Byte) (status : Nat) (arg0 : Word) (length : Nat) : Pkt :=
  { k with op := op, epoch := s.fabric.epoch, dst := k.src, src := s.self, status := BitVec.ofNat 8 status,
           length := BitVec.ofNat 10 length, arg0 := arg0, arg1 := 0, combined := false }

/-- A reply is sent, and UNKNOWN and BUSY are counted (12 R430). -/
def State.reply (s : State) (k : Pkt) (op : Byte) (status : Nat) (arg0 : Word) (data : Bytes) : State :=
  let s := s.updFabric fun b => { b with
    unknown := if status = 5 then satAdd b.unknown 1 else b.unknown
    busy := if status = 6 then satAdd b.busy 1 else b.busy }
  s.inject (pktToFlit (replyTo s k op status arg0 data.length)) data

/-- The packet leaves the buffer that it holds (11 R373, R374): the buffer's port counts it freed. -/
def State.takeRx (s : State) (e : Nat × Nat × Flit × Bytes) : State :=
  let s := { s with fabric := { s.fabric with rx := s.fabric.rx.erase e } }
  s.freeBuffers e.1 e.2.1 1

/-- A received packet that carries a header and data. -/
def State.findRx (s : State) (k : Pkt) (data : Bytes) : Option (Nat × Nat × Flit × Bytes) :=
  s.fabric.rx.find? fun e => pktOfFlit e.2.2.1 = some k && e.2.2.2.take data.length = data

/-- A received tree packet. -/
def State.findRxTree (s : State) (k : TreePkt) (data : Bytes) : Option (Nat × Nat × Flit × Bytes) :=
  s.fabric.rx.find? fun e => treeOfFlit e.2.2.1 = some k && e.2.2.2.take data.length = data

end Sys2Proof.Machine
end

