-- ==== Sys2Proof/Machine/Ops.lean ====
section
/-! DEFINITION. The shared operations of the package: raising a fault and tearing a partition down (15 R513 to R515, 06
R242, 09 R321 to R323, 13 R456), semaphores (14 R481), and what a running partition's contexts go through. -/

namespace Sys2Proof.Machine

open Sys2Proof

/-! ## The Months (15 R500, R501, R504) -/

/-- The place of a Month: its start and its end, in ticks from the start of the Year. -/
def Month.startTick (m : Month) : Nat := m.start * 64
def Month.endTick (m : Month) : Nat := (m.start + m.len) * 64

/-- The length of the Year, 0 when there is no schedule (15 R520). -/
def State.yearLen (s : State) : Nat := if s.season.yearLog2 = 0 then 0 else 2 ^ s.season.yearLog2.toNat

/-- Ticks since the start of the Year in progress. -/
def State.yearPos (s : State) : Nat :=
  if s.yearLen = 0 then 0 else ((s.now : Int) - s.season.yearBase.toNat).emod s.yearLen |>.toNat

/-- A Month is being served or handed over: the count lies from S − SEA_HANDOVER_LEAD to T (15 R504). -/
def State.monthActive (s : State) (m : Month) : Bool :=
  s.yearLen ≠ 0 &&
  (((s.yearPos : Int) - m.startTick + s.season.handoverLead.toNat).emod s.yearLen).toNat <
    s.season.handoverLead.toNat + m.len * 64

/-- The Month now served or handed over in which a block is claimed, if any. -/
def State.claimingMonth (s : State) (b : Nat) : Option Month :=
  (s.season.months.find? fun e => s.monthActive e.2 && (s.partition e.2.part).claim.getLsbD b &&
    (s.partition e.2.part).state = .active).map (·.2)

/-- Its claimant. -/
def State.claimantOf (s : State) (b : Nat) : Option Nat := (s.claimingMonth b).map (·.part)

/-- The K0 count at which a Month that is served or handed over ends, or at which it last ended. -/
def State.monthEndAt (s : State) (m : Month) : Nat :=
  if s.monthActive m then s.now + (((m.endTick : Int) - s.yearPos).emod s.yearLen).toNat
  else s.now - (((s.yearPos : Int) - m.endTick).emod s.yearLen).toNat

/-- The Month that holds a block, or that held it last when a core of it still has the claimant's context (15 R518). -/
def State.lendingMonth (s : State) (b : Nat) : Option Month :=
  match s.claimingMonth b with
  | some m => some m
  | none => match (List.range 16).findSome? fun j => (s.core (16 * b + j)).ctx with
    | none => none
    | some q => (s.season.months.filter fun e => e.2.part = q).foldl (fun acc e => match acc with
        | none => some e.2
        | some m => if s.monthEndAt m < s.monthEndAt e.2 then some e.2 else some m) none

/-- The planned return of a block that is lent in a Month, for SEA_RESUME_AT of its home (15 R518). -/
def State.lendIn (s : State) (b : Nat) (m : Month) : State :=
  s.updSeason fun z => { z with
    resumeAt := Tab.put z.resumeAt b (BitVec.ofNat 64 (s.monthEndAt m + z.handoverLead.toNat)) }

/-- Whose context a core is to hold: the claimant's in its Month, else that of its block's home partition. -/
def State.incoming (s : State) (c : Nat) : Option Nat :=
  match s.claimantOf (blockOf c) with
  | some p => some p
  | none => s.homeOf (blockOf c)

/-- A core window access of a job is held: its context on the core is being stopped, saved or restored (15 R508). -/
def State.coreHeld (s : State) (job : BitVec 32) (c : Nat) : Bool :=
  let k := s.core c
  match k.preempt with
  | .live => false
  | .restoring => match s.incoming c with
    | some p => (s.partition p).job = job
    | none => false
  | _ => match k.ctx with
    | some p => (s.partition p).job = job
    | none => false

/-- The request waits at the core's network stop (15 R508). -/
def State.heldAt (s : State) (job : BitVec 32) (a : Nat) : Bool := match s.place a with
  | .core c _ => s.coreHeld job c
  | _ => false

/-- Some byte of a range of local addresses lies in a core window that is held. -/
def State.heldIn (s : State) (job : BitVec 32) (a n : Nat) : Bool :=
  n ≠ 0 && coreBase < a + n && a < ctrlBase &&
  (List.range ((a + n - 1 - coreBase) / 0x200000 - (a - coreBase) / 0x200000 + 1)).any fun i =>
    let c := (a - coreBase) / 0x200000 + i
    winBase c < a + n && a < winBase c + 0x130000 && s.coreHeld job c

/-- Some range that a unit is to access for a partition is held: the unit waits (15 R508). -/
def State.waitsFor (s : State) (p : Nat) (l : List (Nat × Nat)) : Bool :=
  l.any fun e => s.heldIn (s.partition p).job e.1 e.2

/-! ## Cores changing hands -/

/-- A core is assigned to a partition: its memories are cleared and its registers take their reset values (03 R124,
R127). -/
def State.assignCore (s : State) (c : Nat) (p : Option Nat) (keys : List (BitVec 128)) : State :=
  let s := { s with mem := memClear s.mem (winBase c) 0x130000 }
  s.setCore c { Core.zero with ctx := p, keys := keys }

/-- After a context has gone, the core takes the next one (15 R512): a partition that runs is restored, and a block
whose home does not run keeps a stopped core. -/
def State.settleCore (s : State) (c : Nat) : State :=
  match s.incoming c with
  | some q =>
    if (s.partition q).state = .active then
      s.updCore c fun k => { Core.zero with cycle64 := k.cycle64, ctx := none, preempt := .restoring }
    else s.updCore c fun k => { Core.zero with cycle64 := k.cycle64, ctx := some q, phase := .stopped }
  | none => s.assignCore c none []

/-! ## Halting -/

/-- A matrix operation in its lane is halted: each entry holds one of the values that the operation writes to it, or
the value from before, and which is not fixed (04 R152). -/
def State.haltMatOp (s : State) (op : MatOp) : State :=
  let s := op.entries.foldl (fun s e =>
    let (n, s) := s.draw
    match (e.2)[n % (e.2.length + 1) - 1]? with
    | some v => if n % (e.2.length + 1) = 0 then s else { s with mem := memWrite s.mem e.1 (leBytes 4 v.toNat) }
    | none => s) s
  op.bytes.foldl (fun s e =>
    let (n, s) := s.draw
    if n % 2 = 0 then s else { s with mem := memSet s.mem e.1 e.2 }) s

/-- A mix of old and new values, element by element, which is not fixed (04 R152; log entry 2). -/
def mixed {α : Type} (free : Nat) (d : α) (old new : List α) : List α :=
  (List.range (max old.length new.length)).map fun i => (if Config.freeNat (free + i) % 2 = 0 then old else new).getD i d

/-- The same of rows. -/
def mixedRows {α : Type} (free : Nat) (d : α) (old new : List (List α)) : List (List α) :=
  (List.range (max old.length new.length)).map fun r => mixed (free + r * 65536) d (old.getD r []) (new.getD r [])

/-- The same of a bank. -/
def mixedBank (free : Nat) (old new : Bank) : Bank where
  record := if Config.freeNat free % 2 = 0 then old.record else new.record
  codes := mixed (free + 1) 0 old.codes new.codes
  scales := mixed (free + 4096) 127 old.scales new.scales
  present := mixed (free + 8192) true old.present new.present

/-- An MWLD that has run leaves what it loaded in its banks or in the activation buffer, whose rows from M on stand; M = 0
writes nothing (04 R135, R138, R147; log entry 108). -/
def Matrix.load (m : Matrix) (o : MatOp) : Matrix :=
  let n := fld o.b.toNat 15 0
  if m.stratus then { m with
    actFmt := if n = 0 then m.actFmt else o.fmt
    actRows := o.rows ++ m.actRows.drop o.rows.length
    actScales := o.rowScales ++ m.actScales.drop o.rowScales.length
    lastM := n, lastK := fld o.b.toNat 39 16 }
  else o.banks.foldl (fun m e =>
    { m with engines := Tab.put m.engines e.1 { Tab.get EngineBanks.zero m.engines e.1 with shadow := e.2 } }) m

/-- What a halted MWLD leaves in its banks or in the activation buffer (04 R152). -/
def Matrix.haltLoad (m : Matrix) (free : Nat) : Matrix := match m.loadQ with
  | [] => m
  | o :: _ =>
    let n := m.load o
    if !o.running then m
    else if m.stratus then
      { m with actRows := mixedRows free 0 m.actRows n.actRows
               actScales := mixedRows (free + 1048576) 127 m.actScales n.actScales }
    else
      o.banks.foldl (fun m e =>
        let b := Tab.get EngineBanks.zero m.engines e.1
        { m with engines := Tab.put m.engines e.1 { b with shadow := mixedBank (free + e.1 * 16384) b.shadow e.2 } }) m

/-- A core halts at once (15 R513 step 2, 04 R152): its lanes stop, and its transfers are purged. -/
def State.haltCore (s : State) (c : Nat) : State :=
  let ops := (s.core c).matrix.compQ.filter (·.running)
  let s := ops.foldl State.haltMatOp s
  let free := s.free
  { s.updCore c fun k => { k with
      phase := .stopped, cur := none, pendingLaunch := none, armed := none, mops := [], dmas := [], mb := [],
      stopRegs := [], semWait := none, tail := none
      matrix := { k.matrix.haltLoad free with loadQ := [], compQ := [] } } with free := free + 2097152 }

/-- Drift of a core is discarded: its entries and all that it holds beside them (05 R201). -/
def State.discardDrift (s : State) (c : Nat) : State :=
  { s.updCore c fun k => { k with drift := Drift.empty } with mem := memClear s.mem (driftBase c) 0x10000 }

/-! ## Aborts -/

/-- The header bytes of an exchange packet (06 R222). -/
def exchangeHead (step : BitVec 16) (group : BitVec 12) (round kind : Nat) (zero : Bool) (digest : Word)
    (code : Nat) : Bytes :=
  leBytes 8 (step.toNat + group.toNat * 2 ^ 16 + round * 2 ^ 28 + kind * 2 ^ 30 + zero.toNat * 2 ^ 32) ++
  leBytes 8 digest.toNat ++ leBytes 2 code ++ zeros 14

/-- The local addresses of the ports of X-die `x`'s Monsoon block (06 R248). -/
def monBase (x : Nat) : Nat := ctrlBase + 0x300000 + x * 0x40000
def exchangePort (x : Nat) : Nat := monBase x + 0x18000
def dispatchPort (x : Nat) : Nat := monBase x + 0x10000

/-- A WRITE that a Monsoon unit originates. -/
def monWrite (dst : PkgId) (unit addr : Nat) (data : Bytes) : Pkt :=
  { op := 2, dst := dst, src := 0, srcUnit := BitVec.ofNat 16 unit, reqId := 0, job := 0,
    length := BitVec.ofNat 10 data.length, addr := BitVec.ofNat 48 addr }

/-- The admitter sends an abort of a pair to every member of its group, this package too (06 R242). It leaves X0 for the
exchange port of X0 at the member (log entry 21). -/
def State.sendPairAborts (s : State) (sl p : Nat) (group : BitVec 12) (step : BitVec 16) (round : Nat) (digest : Word)
    (members : List PkgId) (code : Nat) : State :=
  let data := exchangeHead step group round 2 true digest code
  members.foldl (fun s m => s.newXact (monWrite m (xUnit 0 0x12) (exchangePort 0) data) data (.monsoon sl) p) s

/-- The aborts of an armed step. -/
def State.sendStepAborts (s : State) (sl : Nat) (st : Step) (code : Nat) : State :=
  s.sendPairAborts sl st.part st.d.group st.d.step st.round st.digest st.members code

/-- The pair that an exchange packet's data names (06 R222). -/
def exchangePair (data : Bytes) : BitVec 12 × BitVec 16 :=
  (BitVec.ofNat 12 (fld (field data 0 8) 27 16), BitVec.ofNat 16 (field data 0 2))

/-- A pair is remembered; its packets in the early stores are discarded (06 R243, R244). -/
def State.rememberPair (s : State) (group : BitVec 12) (step : BitVec 16) : State :=
  let s := { s with pairs := (s.pairs.filter fun e => e.1 ≠ group ∨ e.2.1 ≠ step) ++ [(group, step, s.now)] }
  [0, 1, 2, 3].foldl (fun s x => s.updXdie x fun d => { d with
    early := d.early.filter fun e => exchangePair e.2 ≠ (group, step) }) s

/-- The position of a member index in a tree, and the index of a position (13 R436). -/
def treePos (tree n i : Nat) : Nat := if tree = 0 then i + 1 else if i = 0 then n else i
def treeIdx (tree n p : Nat) : Nat := if tree = 0 then p - 1 else if p = n then 0 else p

/-- The largest power of two not greater than `n`. -/
def topPow (n : Nat) : Nat := 2 ^ Nat.log2 n

/-- The member index of a tree's root (13 R436). -/
def treeRoot (tree n : Nat) : Nat := treeIdx tree n (topPow n)

/-- The neighbours of this package in a tree: parent, left and right. -/
def Group.nbrs (g : Group) (tree : Nat) : Option Nat × Option Nat × Option Nat := if tree = 0 then g.nw else g.sw

/-- The peers to which a collective's abort goes, each with its tree: neighbours of both trees, and the peer of the
ROOT link (13 R456). -/
def Group.abortPeers (g : Group) (kind root : Nat) : List (Nat × Nat) :=
  let n := g.members.length
  let t (tree : Nat) : List (Nat × Nat) :=
    let (p, l, r) := g.nbrs tree
    let near := ([p, l, r].filterMap id).map fun i => (tree, i)
    let link := if kind = 1 ∨ kind = 2 then
        (if g.self = root then [(tree, treeRoot tree n)]
         else if g.self = treeRoot tree n then [(tree, root)] else []).filter fun e => e.2 ≠ g.self
      else []
    near ++ link.filter fun e => !near.contains e
  t 0 ++ t 1

/-- The abort packet of a collective to a member (13 R447). -/
def abortPkt (c : Coll) (dst : PkgId) (tree code : Nat) (origin : PkgId) : TreePkt :=
  { op := 0x43, dst := dst, src := 0, srcUnit := BitVec.ofNat 16 (xUnit 0 0x40), reqId := 0, job := 0, addr := 0,
    digest := c.digest, equinox := c.equinox, group := c.group, tree := BitVec.ofNat 1 tree,
    abortCode := BitVec.ofNat 16 code, origin := origin }

/-- Aborts of a collective to its peers, except one package (13 R456). -/
def State.sendCollAborts (s : State) (c : Coll) (code : Nat) (origin : PkgId) (but : Option PkgId) : State :=
  match Tab.get? s.groups c.group.toNat with
  | none => s
  | some g =>
    (g.abortPeers c.kind c.root).foldl (fun s e =>
      let dst := g.members.getD e.2 0
      if some dst = but then s
      else s.newTree (abortPkt c dst e.1 code origin) [] (.coll c.group c.equinox) c.part) s

/-- MON_COLL_LAST_FAULT and MON_COLL_FAULTS on the X-dies (13 R460). -/
def State.noteCollFault (s : State) (group : BitVec 12) (code : Nat) : State :=
  (List.range 4).foldl (fun s x => s.updXdie x fun d => { d with
    collFaults := satAdd d.collFaults 1
    collLastFault := BitVec.ofNat 64 (s.now % 2 ^ 32 * 2 ^ 32 + group.toNat * 2 ^ 16 + code) }) s

/-- MON_LAST_FAULT on an X-die (06 R248). -/
def State.noteMonFault (s : State) (x : Nat) (step : BitVec 16) (code : Nat) : State :=
  s.updXdie x fun d => { d with
    lastFault := BitVec.ofNat 64 (s.now % 2 ^ 32 * 2 ^ 32 + step.toNat * 2 ^ 16 + code) }

/-! ## Faults and teardown (15 R513 to R515) -/

/-- A record of a fault detected now. -/
def State.record (s : State) (code source : Nat) (addr : Word := 0) (d0 d1 d2 d3 : Nat := 0) : FaultRec where
  code := BitVec.ofNat 16 code
  source := BitVec.ofNat 16 source
  season := s.season.k0
  addr := addr
  d0 := BitVec.ofNat 64 d0
  d1 := BitVec.ofNat 64 d1
  d2 := BitVec.ofNat 64 d2
  d3 := BitVec.ofNat 64 d3

/-- The partition's part of a fault: counted, and recorded unless the partition is FAULTED or its slots are used up
(15 R515). A fault detected at the same tick as an unwritten primary fault, with a lower source unit, is primary; so
is a fault of the unit itself beside its DEADLINE_MISSED (03 R130). -/
def Partition.addFault (x : Partition) (r : FaultRec) : Partition :=
  let x := { x with faults := min 255 (x.faults + 1) }
  if x.state = .faulted ∨ x.recordsTaken ≥ 16 then x
  else
    let x := { x with recordsTaken := x.recordsTaken + 1 }
    match x.records with
    | f :: rest =>
      if x.recordsWritten = 0 ∧ f.season = r.season ∧ (r.source.toNat < f.source.toNat ∨
          (r.source = f.source ∧ f.code = 0x0801#16 ∧ r.code ≠ 0x0801#16)) then
        { x with records := r :: f :: rest }
      else { x with records := x.records ++ [r] }
    | [] => { x with records := [r] }

/-- Step 2 of a teardown: cores halt, saved images are discarded, stewards halt; and the handovers that the partition
was part of go on without it (15 R512). -/
def State.teardownCores (s : State) (p : Nat) : State :=
  let x := s.partition p
  let s := { s with saved := s.saved.filter fun e => e.1 ≠ p }
  let s := x.cores.foldl (fun s c =>
    let k := s.core c
    if k.ctx = some p then
      let s := (s.haltCore c).discardDrift c
      if k.preempt ≠ .live ∨ (x.claim.getLsbD (blockOf c) ∧ ¬ x.home.getLsbD (blockOf c)) then
        s.settleCore c
      else s
    else if k.ctx = none ∧ k.preempt = .restoring then
      s.settleCore c
    else s) s
  x.stewards.foldl (fun s k => s.updSteward k fun w => { w with running := false, waiting := none }) s

/-- A copy from a staging area that is stopped before its end: which 64-byte blocks have reached their destination is
not fixed (02 R70, 13 R454). -/
def State.haltCopy (s : State) (p src dst n : Nat) : State :=
  (List.range (cdiv n 64)).foldl (fun s i =>
    let (c, s) := s.draw
    if c % 2 = 0 then s
    else match s.peek p (src + i * 64) (min 64 (n - i * 64)) with
      | (.ok bs, s) => s.poke p (dst + i * 64) bs
      | (.error _, s) => s) s

/-- Bytes of an element of a collective's format (13 R438). -/
def collSize (fmt : Nat) : Nat := match fmt with
  | 0 => 4
  | 1 => 2
  | 2 => 2
  | 3 => 4
  | 4 => 8
  | _ => 1

/-- Bytes of a collective's data. -/
def Coll.bytes (c : Coll) : Nat := c.count * collSize c.fmt

/-- The member has a SRC, and a DST and a STAGE (13 R439). -/
def Coll.hasSrc (c : Coll) : Bool := c.kind ≤ 1 || (c.kind = 2 && c.self = c.root)
def Coll.hasDst (c : Coll) : Bool := c.kind = 0 || c.kind = 2 || (c.kind = 1 && c.self = c.root)

/-- A collective ends with its partition: aborts go out or the abort that ended it is forwarded, its fault is counted,
and a commit stops (13 R454, R456). -/
def State.endColl (s : State) (p code : Nat) (c : Coll) : State :=
  let s := if c.aborted then s else match c.abort with
    | some (code, origin, sender) => s.sendCollAborts c code origin (some sender)
    | none => s.sendCollAborts c code s.self none
  if !c.complete then s.noteCollFault c.group code
  else if !c.hasDst then s
  else s.haltCopy p c.stage c.dst c.bytes

/-- The local part of a descriptor's global address. -/
def loc (a : Nat) : Nat := a % 2 ^ 48

/-- The model width of a step, and bytes of an element of RET_FMT or OUT_FMT (06 R205, 07 R252). -/
def StepDesc.width (d : StepDesc) : Nat := 64 * d.dm64
def retSize (fmt : Nat) : Nat := match fmt with
  | 0 => 2
  | 0xA => 4
  | _ => 1

/-- SSTRIDE, the staging position of a result, and the address of an output row (07 R253, R254). -/
def StepDesc.sstride (d : StepDesc) : Nat :=
  roundUp (d.width * max (retSize d.retFmt.toNat) (retSize d.outFmt.toNat)) 64
def StepDesc.stageAt (d : StepDesc) (row rank : Nat) : Nat := loc d.stage + (row * d.k + rank) * d.sstride
def StepDesc.outRow (d : StepDesc) (i : Nat) : Nat :=
  if d.outSpread = 0 then loc d.out + i * d.outStride
  else loc d.out + i / d.outSpread * 0x200000 + i % d.outSpread * d.outStride
def StepDesc.outBytes (d : StepDesc) : Nat := d.width * retSize d.outFmt.toNat

/-- The reservations of a step slot in the reassembly stores are freed (06 R239). -/
def State.dropRows (s : State) (sl : Nat) : State :=
  [0, 1, 2, 3].foldl (fun s x => s.updXdie x fun d => { d with
    reassembly := d.reassembly.filter fun r => r.stepSlot ≠ sl }) s

/-- A step ends with its partition: aborts go to the members; the commit of a complete step stops; rows that have begun
never complete (06 R239, R242, 07 R275). -/
def State.endStep (s : State) (p code sl : Nat) (st : Step) : State :=
  let s := if st.complete then
      (List.range st.d.tokens).foldl (fun s i => s.haltCopy p (st.d.stageAt i 0) (st.d.outRow i) st.d.outBytes) s
    else s
  let s := s.sendStepAborts sl st (st.abort.getD code)
  ((s.rememberPair st.d.group st.d.step).dropRows sl).updStep sl fun st => { st with faulted := true }

/-- Step 3: transactions are discarded; Monsoon steps, Forecast requests and collectives end with their aborts. -/
def State.teardownWork (s : State) (p code : Nat) : State :=
  let s := s.updFabric fun b => { b with xacts := b.xacts.filter fun x => x.part ≠ p }
  let s := s.steps.foldl (fun s e =>
    if e.2.part = p ∧ !e.2.faulted then s.endStep p code e.1 e.2 else s) s
  let fcs : Table Fc := s.forecasts.map fun e => if e.2.part = p then (e.1, { e.2 with phase := 5 }) else e
  let s := { s with forecasts := fcs }
  let mine := s.colls.filter fun c => c.part = p
  let s := mine.foldl (fun s c => s.endColl p code c) s
  { s with
    colls := s.colls.filter fun c => c.part ≠ p
    collPast := s.collPast ++ mine.map fun c => { c with aborted := true } }

/-- Pools of a partition are destroyed; partitions in their grant masks lose them (09 R321, R322). The bit of `p` goes
from every other grant mask (09 R323). -/
def State.teardownPools (s : State) (p : Nat) : State × List (Nat × FaultRec) :=
  let lost := (s.pools.filter fun e => e.2.owner = p).flatMap fun e =>
    ((List.range 32).filter fun g => e.2.grant.getLsbD g && g ≠ p).map fun g =>
      (g, { s.record 0x0707 (xUnit (e.1 % 4) 0x20) 0 e.1 0 p 0 with
        d1 := Config.freeWord (s.free + e.1), d3 := Config.freeWord (s.free + 256 + e.1) })
  let s := { s with
    pools := (s.pools.filter fun e => e.2.owner ≠ p).map fun e =>
      (e.1, { e.2 with grant := e.2.grant &&& ~~~(1#32 <<< p) })
    free := s.free + 512 }
  (s, lost)

/-- Step 4: pools, groups, semaphores, claims and lock words (15 R513, 13 R434, 14 R481, 16 R551). A checkpoint command
that runs for the partition will complete FAULTED (16 R546). -/
def State.teardownRest (s : State) (p : Nat) : State × List (Nat × FaultRec) :=
  let (s, lost) := s.teardownPools p
  let gone := (s.groups.filter fun e => e.2.owner = p).map (·.1)
  let s := { s with groups := s.groups.filter fun e => e.2.owner ≠ p
                    collPast := s.collPast.filter fun c => !gone.contains c.group.toNat }
  let s := s.updPartition p fun x => { x with sems := [], waiters := [], claim := 0 }
  let s := s.updFw fun f => { f with locks := f.locks.filter fun e => e.2.2 ≠ p }
  let running := s.ckpt.running.map fun e => if e.1 = p then (e.1, { e.2 with failed := true }) else e
  ({ s with ckpt := { s.ckpt with running := running } }, lost)

/-- One fault raised in a partition: what it does to the package, and the faults that it brings to others. A DEFERRED
partition, whose creation has been accepted, is one of the partitions of R37 and R38, and is torn down as an ACTIVE one
(01 R37, R38; log entry 107). -/
def State.raiseOne (s : State) (p : Nat) (r : FaultRec) : State × List (Nat × FaultRec) :=
  match (s.partition p).state with
  | .absent => (s, [])
  | .teardown => (s.updPartition p fun x => x.addFault r, [])
  | .faulted => (s.updPartition p fun x => x.addFault r, [])
  | .active | .deferred =>
    let s := s.updPartition p fun x => { x.addFault r with state := .teardown, deferral := none }
    ((s.teardownCores p).teardownWork p r.code.toNat).teardownRest p

/-- Faults in order, with those that they bring. -/
def State.raiseAll : Nat → List (Nat × FaultRec) → State → State
  | 0, _, s => s
  | _ + 1, [], s => s
  | n + 1, (p, r) :: rest, s =>
    let (s, more) := s.raiseOne p r
    raiseAll n (rest ++ more) s

/-- A fault is raised in a partition. -/
def State.raise (s : State) (p : Nat) (r : FaultRec) : State :=
  State.raiseAll 16384 [(p, r)] { s with free := s.free + 8 }

/-- A record whose detail words no rule defines: they are free (log entry 2). -/
def State.recordOpen (s : State) (code source : Nat) (addr : Word) : FaultRec :=
  { s.record code source addr with
    d0 := Config.freeWord s.free, d1 := Config.freeWord (s.free + 1), d2 := Config.freeWord (s.free + 2),
    d3 := Config.freeWord (s.free + 3) }

/-! ## Sequences that a fault ends -/

/-- What a step of a sequence gives: a value, or the record of the fault that ends the sequence. -/
abbrev Try (α : Type) := Except FaultRec α × State

/-- The next step of a sequence. -/
def tryThen {α β : Type} (r : Try α) (f : α → State → Try β) : Try β := match r with
  | (.error e, s) => (.error e, s)
  | (.ok a, s) => f a s

/-- A step for each element of a list, in order. -/
def tryList {α β : Type} (f : α → State → Try β) : List α → State → Try (List β)
  | [], s => (.ok [], s)
  | a :: l, s => match f a s with
    | (.error e, s) => (.error e, s)
    | (.ok b, s) => match tryList f l s with
      | (.error e, s) => (.error e, s)
      | (.ok bs, s) => (.ok (b :: bs), s)

/-- The end of a sequence: its fault is raised in a partition. -/
def tryRaise {α : Type} (p : Nat) (r : Try α) (f : α → State → State) : State := match r with
  | (.error e, s) => s.raise p e
  | (.ok a, s) => f a s

/-- A fault posted to several partitions (01 R37, 11 R386, 12 R415). -/
def State.raiseMany (s : State) (l : List Nat) (f : State → FaultRec) : State :=
  l.foldl (fun s p => s.raise p (f s)) s

/-- IDs of the partitions that are not ABSENT. -/
def State.livePartitions (s : State) : List Nat :=
  (s.partitions.filter fun e => e.2.state ≠ .absent).map (·.1)

/-- The record of a memory error (10 R338). -/
def State.memRecord (s : State) (e : MemErr) (unit : Nat) (addr : Word) (kind : Nat) : FaultRec :=
  s.record e.code (e.source.getD unit) addr e.d0 e.d1 e.d2 (e.kind.getD kind)

/-- A memory error is raised in a partition: the faulting address is the global address as issued. -/
def State.raiseMem (s : State) (p : Nat) (e : MemErr) (unit : Nat) (addr : Word) (kind : Nat) : State :=
  s.raise p (s.memRecord e unit addr kind)

/-- A read on behalf of a partition by a unit of the X-dies, whose error is a fault of the partition (10 R338). -/
def State.unitRead (s : State) (p unit a n : Nat) : Try Bytes := match s.peek p a n with
  | (.error e, s) => (.error (s.memRecord e unit (s.global e.at_) 4), s)
  | (.ok bs, s) => (.ok bs, s)

/-- A write likewise. -/
def State.unitWrite (s : State) (p unit a : Nat) (bs : Bytes) : Try Unit :=
  match s.writeMem (s.partition p).job a bs with
  | (.error e, s) => (.error (s.memRecord e unit (s.global e.at_) 4), s)
  | (.ok _, s) => (.ok (), s)

/-- DEADLINE_MISSED (02 R68), detected on a copy. -/
def State.deadlineRecord (s : State) (unit : Nat) (count deadline equinox : Nat) : FaultRec :=
  { s.recordOpen 0x0801 unit 0 with
    d0 := BitVec.ofNat 64 deadline, d1 := BitVec.ofNat 64 equinox, season := BitVec.ofNat 64 count }

/-- LATE_LAUNCH (02 R63, R64). -/
def State.lateRecord (s : State) (unit : Nat) (count equinox : Nat) : FaultRec :=
  { s.recordOpen 0x0802 unit 0 with
    d0 := BitVec.ofNat 64 equinox, d1 := BitVec.ofNat 64 count, season := BitVec.ofNat 64 count }

/-! ## Waking stewards (14 R488) -/

/-- An event that ends a WFI of every steward of a partition. -/
def State.wakeStewards (s : State) (p : Nat) : State :=
  (s.partition p).stewards.foldl (fun s k => s.updSteward k fun w => { w with woken := true }) s

/-! ## Completions (14 R470, R480) -/

/-- The larger of two latenesses. -/
def maxLate (a b : Option Nat) : Option Nat := match a, b with
  | some x, some y => some (max x y)
  | some x, none => some x
  | none, y => y

/-- An item of a partition's ring, changed. -/
def State.updItem (s : State) (p pos : Nat) (f : Item → Item) : State :=
  s.updPartition p fun x => { x with ring := { x.ring with
    items := x.ring.items.map fun i => if i.pos = pos then f i else i } }

/-- The PHASE of a position (14 R466). -/
def Ring.phase (r : Ring) (pos : Nat) : Nat := (pos / 2 ^ r.log2 + 1) % 2

/-- The 32 bytes of a completion (14 R480). -/
def Ring.completion (r : Ring) (calm : Bool) (i : Item) : Bytes :=
  leBytes 8 i.pos ++ leBytes 8 (r.phase i.pos + i.late.isSome.toNat * 2 + (i.mv && calm).toNat * 4) ++
  leBytes 8 i.doneAt ++ leBytes 4 (min (i.late.getD 0) 0xFFFFFFFF) ++ leBytes 4 i.detail.toNat

/-- The completion of an item is written, and wakes the partition's stewards (14 R488). -/
def State.writeCompletion (s : State) (p : Nat) (i : Item) : State :=
  let x := s.partition p
  let a := x.ring.cplBase + i.pos % 2 ^ x.ring.log2 * 32
  match s.writeMem x.job a (x.ring.completion x.calm i) with
  | (.ok _, s) => (s.updItem p i.pos fun i => { i with written := true }).wakeStewards p
  | (.error e, s) => s.raiseMem p e cmdUnit (s.global a) 2

/-- Bytes 0 to 7 of the ring's slot of a position, as the memory holds them. -/
def State.slotHead (s : State) (r : Ring) (pos : Nat) : Nat := field (memRead s.mem (r.base + pos % 2 ^ r.log2 * 32) 8) 0 8

/-- The first position of the body of a loop that an entry not yet fetched closes: the entries from the next position on
that are already valid in the ring, up to a LOOP_UNTIL (14 R482, R484; log entry 112). -/
def State.bodyAhead (s : State) (r : Ring) : Nat → Nat → Option Nat
  | 0, _ => none
  | n + 1, pos =>
    let h := s.slotHead r pos
    if bit h 8 ≠ decide (r.phase pos = 1) then none
    else if fld h 4 0 = 8 then some (pos - fld h 23 16)
    else s.bodyAhead r n (pos + 1)

/-- The position that CMD_CONSUMER does not pass: the body of the loop in progress, or of one that is being fetched, which
it passes only when the LOOP_UNTIL completes (14 R484). -/
def State.bodyStart (s : State) (r : Ring) : Option Nat := match r.loop with
  | some l => some (l.pos - l.body)
  | none => s.bodyAhead r 256 r.fetched

/-- CMD_CONSUMER advances over positions whose completions have been written, up to a body that it must not pass; they
leave the list. -/
def Ring.advance (r : Ring) (stop : Option Nat) : Nat → Ring
  | 0 => r
  | n + 1 =>
    if (r.items.any fun i => i.pos = r.consumer && i.written) && stop.all fun b => r.consumer < b then
      Ring.advance { r with consumer := r.consumer + 1, items := r.items.filter fun i => i.pos ≠ r.consumer } stop n
    else r

/-- Items that CMD_CONSUMER had passed before a loop ran them again leave the list when they are written. -/
def Ring.shed (r : Ring) : Ring := { r with items := r.items.filter fun i => !(i.written && i.pos < r.consumer) }

/-- Completions are written for the items of a partition that have completed, and CMD_CONSUMER advances. -/
def State.completions (s : State) (p : Nat) : State :=
  let due := (s.partition p).ring.items.filter fun i => i.complete && !i.written
  let s := due.foldl (fun s i => if (s.partition p).state = .active then s.writeCompletion p i else s) s
  let stop := s.bodyStart (s.partition p).ring
  s.updPartition p fun x => { x with ring := (x.ring.advance stop (x.ring.items.length)).shed }

/-- The work of an item has completed at a count. -/
def State.finishItem (s : State) (p pos doneAt : Nat) (late : Option Nat) : State :=
  (s.updItem p pos fun i => { i with complete := true, doneAt := doneAt, late := maxLate i.late late }).completions p

/-- The slots of a step that the package hosts and whose batch has rows: those that must be returned (07 R273). -/
def Step.batchRows (st : Step) (slot : Nat) : Nat := Tab.get 0 st.batchN slot

/-- A return whose rows have all been sent and acknowledged completes its entry (07 R262). -/
def State.endReturn (s : State) (sl slot : Nat) : State :=
  match Tab.get? s.steps sl with
  | none => s
  | some st =>
    match Tab.get? st.returning slot, Tab.get? st.returns slot with
    | some (next, left), some (pos, _) =>
      let die := ((s.partition st.part).ring.items.find? fun i => i.pos = pos).elim 0 fun i => i.die
      let now := s.xNow die
      let due := (s.partition st.part).ring.items.any fun i => i.pos = pos && now ≤ i.deadline
      if next < st.batchRows slot ∨ left ≠ 0 ∨ st.returned.contains slot ∨ !due then s
      else (s.updStep sl fun st => { st with returned := slot :: st.returned }).finishItem st.part pos now none
    | _, _ => s

/-! ## Semaphores (14 R481) -/

/-- The value of a semaphore. -/
def Partition.sem (x : Partition) (i : Nat) : Word32 := Tab.get 0 x.sems i

/-- The queue of a semaphore. -/
def Partition.queue (x : Partition) (i : Nat) : List Waiter := Tab.get [] x.waiters i

/-- The waiter's take has been served: a core's word is satisfied; an entry is complete. -/
def State.serveWaiter (s : State) (p : Nat) : Waiter → State
  | .core c _ _ => s.updCtx p c fun k => { k with semWait := k.semWait.map fun _ => true }
  | .entry pos _ => s.finishItem p pos s.now none

/-- A waiting entry whose deadline has passed is not served (02 R68). -/
def State.waiterDue (s : State) (p : Nat) : Waiter → Bool
  | .core _ _ _ => true
  | .entry pos _ => (s.partition p).ring.items.any fun i => i.pos = pos && s.now ≤ i.deadline

/-- The number that a waiter takes. -/
def Waiter.amount : Waiter → Nat
  | .core _ n _ => n.toNat
  | .entry _ n => n

/-- A waiter whose word raises a fault when it issues: it leaves the queue without taking, and the teardown discards the
queue (03 R128). -/
def Waiter.faulty : Waiter → Bool
  | .core _ _ f => f
  | .entry _ _ => false

/-- The unit serves the queue while the head can be served (14 R481). -/
def State.serveQueue (s : State) (p i : Nat) : Nat → State
  | 0 => s
  | n + 1 =>
    let x := s.partition p
    match x.queue i with
    | [] => s
    | w :: rest =>
      if w.amount ≤ (x.sem i).toNat ∧ w.faulty then
        (s.updPartition p fun x => { x with waiters := Tab.put x.waiters i rest }).serveWaiter p w
      else if w.amount ≤ (x.sem i).toNat ∧ s.waiterDue p w then
        let s := s.updPartition p fun x => { x with
          sems := Tab.put x.sems i (x.sem i - BitVec.ofNat 32 w.amount), waiters := Tab.put x.waiters i rest }
        ((s.serveWaiter p w).wakeStewards p).serveQueue p i n
      else s

/-- Add `a` to a semaphore; `source` stands in the record of SEM_OVERFLOW. -/
def State.semAdd (s : State) (p i : Nat) (a : Nat) (source : Nat) : State :=
  let v := ((s.partition p).sem i).toNat
  if a > 0xFFFFFFFF ∨ v + a > 0xFFFFFFFF then s.raise p (s.recordOpen 0x0807 source 0)
  else
    let s := s.updPartition p fun x => { x with sems := Tab.put x.sems i (BitVec.ofNat 32 (v + a)) }
    (s.wakeStewards p).serveQueue p i (((s.partition p).queue i).length + 1)

/-- A waiter joins a semaphore's queue. -/
def State.semWait (s : State) (p i : Nat) (w : Waiter) : State :=
  let s := s.updPartition p fun x => { x with waiters := Tab.put x.waiters i (x.queue i ++ [w]) }
  s.serveQueue p i (((s.partition p).queue i).length + 1)

/-- A try-take (14 R481): the result and the state. -/
def State.semTry (s : State) (p i n : Nat) : Bool × State :=
  let x := s.partition p
  if (x.queue i).isEmpty ∧ n ≤ (x.sem i).toNat then
    (true, (s.updPartition p fun x => { x with sems := Tab.put x.sems i (x.sem i - BitVec.ofNat 32 n) }).wakeStewards p)
  else (false, s)

end Sys2Proof.Machine
end

