-- ==== Sys2Proof/Machine/Pools.lean ====
section
/-! DEFINITION. The buffer pool manager's operations (09 R305 to R319) and the lock words (16 R548, R549), as every
requester reaches them. -/

namespace Sys2Proof.Machine

open Sys2Proof

/-! ## Pools -/

/-- The size of a pool's buffers (09 R306). -/
def Pool.bufSize (x : Pool) : Nat := match x.cls with
  | 0 => 0x1000
  | 1 => 0x10000
  | _ => 0x100000

/-- Indices in the free ring, and free buffers in all (09 R319). -/
def Pool.ringLen (x : Pool) : Nat := x.ringTail - x.ringHead
def Pool.freeCount (x : Pool) : Nat := x.cache.length + x.ringLen

/-- Where a slot of the free ring, the byte of a state bit, and a reference count lie (09 R307). -/
def Pool.ringAddr (x : Pool) (i : Nat) : Nat := x.metaAddr + i % x.count * 4
def Pool.bitAddr (x : Pool) (i : Nat) : Nat := x.metaAddr + 4 * x.count + i / 8
def Pool.countAddr (x : Pool) (i : Nat) : Nat := x.metaAddr + 4 * x.count + x.count / 8 + 2 * i

/-- The unit that serves a pool (09 R305). -/
def poolUnit (n : Nat) : Nat := xUnit (n % 4) 0x20

/-- The ports of the manager's block (09 R324). -/
def bpmBase : Nat := ctrlBase + 0x400000

/-- BPM_LAST_FAULT (09 R324). -/
def State.noteBpmFault (s : State) (n code : Nat) : State :=
  { s with bpm := { s.bpm with
      lastFault := BitVec.ofNat 64 (s.now % 2 ^ 32 * 2 ^ 32 + min n 255 * 2 ^ 16 + code) } }

/-- A fault of 09 R314 found by a die's unit, raised in the requesting partition with the record of R315. -/
def State.bpmRaise (s : State) (p code unit n : Nat) (addr : Word) (count op : Nat) : State :=
  (s.noteBpmFault n code).raise p (s.record code unit addr n count p op)

/-- A fault on pool `n`. -/
def State.bpmFault (s : State) (p code n : Nat) (addr : Word) (count op : Nat) : State :=
  s.bpmRaise p code (poolUnit n) n addr count op

/-- A fault of a requester's pool that does not exist: no pool matched, and the die is the one that serves its index. -/
def State.bpmAbsent (s : State) (p code n : Nat) (addr : Word) (op : Nat) : State :=
  s.bpmRaise p code (poolUnit n) 0xFFFF addr 0 op

/-- A fault of an address that no pool holds: which die serves it is not given (log entry 2). -/
def State.bpmNoPool (s : State) (p code : Nat) (addr : Word) (op : Nat) : State :=
  s.bpmRaise p code (xUnit (Config.freeNat s.free % 4) 0x20) 0xFFFF addr 0 op

/-- Metadata bytes of pool `n`; an error is raised in the owning partition (09 R307). -/
def State.metaRead (s : State) (n : Nat) (x : Pool) (a len : Nat) : Option Bytes × State :=
  match s.peek x.owner a len with
  | (.ok bs, s) => (some bs, s)
  | (.error e, s) => (none, s.raiseMem x.owner e (poolUnit n) (s.global a) 5)

/-- Metadata of pool `n` is written: whether it was; an error is raised in the owning partition (10 R337). -/
def State.metaWrite (s : State) (n : Nat) (x : Pool) (a : Nat) (bs : Bytes) : Bool × State :=
  match s.writeMem (s.partition x.owner).job a bs with
  | (.ok _, s) => (true, s)
  | (.error e, s) => (false, s.raiseMem x.owner e (poolUnit n) (s.global a) 5)

/-- 64 indices move from the ring head to the cache (09 R319). The index at the head becomes the newest (log entry 16). -/
def State.poolRefill (s : State) (n : Nat) : State :=
  match Tab.get? s.pools n with
  | none => s
  | some x =>
    let k := min 64 x.ringLen
    match s.metaRead n x (x.ringAddr x.ringHead) (4 * k) with
    | (none, s) => s
    | (some bs, s) =>
      let ids := (List.range k).map fun i => field bs (4 * i) 4
      s.updPool n fun x => { x with cache := ids ++ x.cache, ringHead := x.ringHead + k }

/-- The 64 oldest indices of the cache move to the ring tail (09 R319). -/
def State.poolWriteback (s : State) (n : Nat) : State :=
  match Tab.get? s.pools n with
  | none => s
  | some x =>
    let k := min 64 x.cache.length
    let old := (x.cache.drop (x.cache.length - k)).reverse
    match s.metaWrite n x (x.ringAddr x.ringTail) (old.flatMap (leBytes 4)) with
    | (false, s) => s
    | (true, s) =>
      s.updPool n fun x => { x with cache := x.cache.take (x.cache.length - k), ringTail := x.ringTail + k }

/-- The state bit of a buffer of pool `n` is set or cleared, and its count written: both, or neither when the metadata
cannot be read (10 R336, R337). -/
def State.setBuffer (s : State) (n : Nat) (x : Pool) (i count : Nat) : Bool × State :=
  match s.metaRead n x (x.countAddr i) 2 with
  | (none, s) => (false, s)
  | (some _, s) =>
    match s.metaRead n x (x.bitAddr i) 1 with
    | (some [b], s) =>
      let m : Byte := 1#8 <<< (i % 8)
      match s.metaWrite n x (x.bitAddr i) [if count = 0 then b &&& ~~~m else b ||| m] with
      | (true, s) => s.metaWrite n x (x.countAddr i) (leBytes 2 count)
      | (false, s) => (false, s)
    | (_, s) => (false, s)

/-- The next free index of a pool (09 R310, R319): `none` when the pool is empty or its metadata cannot be read. -/
def State.poolTake (s : State) (n : Nat) : Option Nat × State :=
  match Tab.get? s.pools n with
  | none => (none, s)
  | some x =>
    let s := if x.cache.isEmpty ∧ x.ringLen ≠ 0 then s.poolRefill n else s
    match Tab.get? s.pools n with
    | none => (none, s)
    | some x =>
      match x.cache with
      | [] => (none, s)
      | i :: rest =>
        match s.setBuffer n x i 1 with
        | (false, s) => (none, s)
        | (true, s) =>
          let s := s.updPool n fun x => { x with cache := rest, low := min x.low (x.freeCount - 1) }
          (some i, { s with bpm := { s.bpm with allocs := satAdd s.bpm.allocs 1 } })

/-- The local address of buffer `i`. -/
def Pool.bufAddr (x : Pool) (i : Nat) : Nat := x.base + i * x.bufSize

/-- An allocation finds a pool empty, which BPM_EMPTY counts (09 R324). -/
def State.noteEmpty (s : State) : State := { s with bpm := { s.bpm with empty := satAdd s.bpm.empty 1 } }

/-- What an allocation from an empty pool returns (09 R310). -/
def emptyPool : Word := 0x8000000000000001

/-- ALLOC from pool q of partition p (09 R310). -/
def State.bpmAllocOp (s : State) (p q : Nat) : Word × State :=
  let n := p * 8 + q
  match Tab.get? s.pools n with
  | none =>
    (Config.freeWord s.free,
      { s with free := s.free + 1 }.bpmAbsent p 0x0703 n (s.global (bpmBase + 0x20000 + q * 8)) 1)
  | some x =>
    match s.poolTake n with
    | (some i, s) => (s.global (x.bufAddr i), s)
    | (none, s') =>
      if x.freeCount = 0 then (emptyPool, s'.noteEmpty)
      else (Config.freeWord s'.free, { s' with free := s'.free + 1 })

/-- The pool whose buffer begins at a global address, with the buffer's index (09 R314). -/
def State.bufferAt (s : State) (g : Word) : Option (Nat × Pool × Nat) :=
  if !canonical g || gPkg g != s.self then none
  else
    let a := gLocal g
    (s.pools.find? fun e => e.2.base ≤ a && a < e.2.base + e.2.count * e.2.bufSize &&
      (a - e.2.base) % e.2.bufSize = 0).map fun e => (e.1, e.2, (a - e.2.base) / e.2.bufSize)

/-- The cache of pool `n` keeps at most 512 indices (09 R319). -/
def State.cacheFull (s : State) (n : Nat) : Bool := match Tab.get? s.pools n with
  | some x => decide (x.cache.length ≥ 512)
  | none => false

/-- A freed index enters the cache (09 R319). -/
def State.poolFree (s : State) (n i : Nat) : State :=
  { (s.updPool n fun x => { x with cache := i :: x.cache }) with
    bpm := { s.bpm with frees := satAdd s.bpm.frees 1 } }

/-- The last reference to buffer `i` of pool `n` goes: the buffer is FREE and its index returns to the free store (09 R312),
unless the metadata cannot be written. -/
def State.lastRelease (s : State) (n : Nat) (x : Pool) (i : Nat) : State :=
  let s := if s.cacheFull n then s.poolWriteback n else s
  if s.cacheFull n then s
  else match s.setBuffer n x i 0 with
    | (true, s) => s.poolFree n i
    | (false, s) => s

/-- INCR (`up`) or DECR by partition p (09 R311, R312, R314). -/
def State.bpmRefOp (s : State) (p : Nat) (up : Bool) (g : Word) : State :=
  let op := if up then 2 else 3
  match s.bufferAt g with
  | none => s.bpmNoPool p 0x0706 g op
  | some (n, x, i) =>
    match s.metaRead n x (x.countAddr i) 2 with
    | (none, s) => s
    | (some bs, s) =>
      let c := leNat bs
      if x.owner ≠ p ∧ !x.grant.getLsbD p then s.bpmFault p 0x0702 n g c op
      else if c = 0 then s.bpmFault p (if up then 0x0704 else 0x0701) n g c op
      else if up then
        (if c ≥ 0xFFFF then s.bpmFault p 0x0705 n g c op else (s.setBuffer n x i (c + 1)).2)
      else if c = 1 then s.lastRelease n x i
      else (s.setBuffer n x i (c - 1)).2

/-- GRANT on pool q of partition p (09 R313): the owner's own bit is ignored. -/
def State.bpmGrantOp (s : State) (p q : Nat) (v : Word) : State :=
  let n := p * 8 + q
  match Tab.get? s.pools n with
  | none => s.bpmAbsent p 0x0703 n (s.global (bpmBase + 0x20200 + q * 8)) 4
  | some _ => s.updPool n fun x => { x with grant := v.setWidth 32 &&& ~~~(1#32 <<< p) }

/-- Several buffers taken in one operation: all or none (09 R317). -/
def State.poolTakeMany (s : State) (n : Nat) : Nat → List Nat × State
  | 0 => ([], s)
  | k + 1 =>
    match s.poolTake n with
    | (none, s) => ([], s)
    | (some i, s) => let (l, s) := s.poolTakeMany n k; (i :: l, s)

/-! ## Lock words (16 R548, R549) -/

/-- A read of a lock word by a sender of a partition: it acquires a free word. -/
def State.lockRead (s : State) (w : Nat) (sender : BitVec 16) (p : Nat) : Word32 × State :=
  match Tab.get? s.fw.locks w with
  | none => (0, s.updFw fun f => { f with locks := Tab.put f.locks w (sender, p) })
  | some (o, q) => if o = sender ∧ q = p then (0, s) else (0x80000000 ||| o.setWidth 32, s)

/-- A write to a lock word: the owner's own SENDER_ID releases it. -/
def State.lockWrite (s : State) (w : Nat) (sender : BitVec 16) (p : Nat) (v : Word32) : State :=
  match Tab.get? s.fw.locks w with
  | some (o, q) =>
    if o = sender ∧ q = p ∧ v = sender.setWidth 32 then s.updFw fun f => { f with locks := Tab.del f.locks w } else s
  | none => s

/-! ## Who an agent is -/

/-! ## Exceptions of steward code (14 R462, R464) -/

/-- The partition for which a steward runs. -/
def State.stewardPart (s : State) (k : Nat) : Option Nat :=
  if (s.steward k).running then (s.steward k).part.filter fun p => (s.partition p).state = .active else none

/-- CMD_TRAP_CAUSE as it reads. -/
def Steward.trapWord (w : Steward) : Nat := w.trapActive.toNat * 2 ^ 63 + w.trapCause.toNat

/-- An exception in steward code is delivered, or faults the partition (14 R464). -/
def State.stewardTrap (s : State) (k : Nat) (cause : BitVec 6) (pc tval : Word) : State := match s.stewardPart k with
  | none => s
  | some p =>
    let w := s.steward k
    if w.trapVec ≠ 0 ∧ !w.trapActive then
      s.updSteward k fun w => { w with
        trapEpc := pc, trapTval := tval, trapCause := cause, trapActive := true, pc := w.trapVec, waiting := none }
    else
      let r := s.recordOpen 0x0108 (stewardUnit k) tval
      s.raise p { r with d0 := pc, d1 := cause.setWidth 64, d2 := BitVec.ofNat 64 w.trapWord }

/-- A steward's access to an address that it does not reach: an access fault (14 R462), whose PC is the steward's own (log
entry 2). -/
def State.stewardFault (s : State) (k : Nat) (cause : BitVec 6) (addr : Nat) : State :=
  { s with free := s.free + 1 }.stewardTrap k cause (Config.freeWord s.free) (BitVec.ofNat 64 addr)

/-- The agent is a steward that does not reach memory at these addresses: its partition does not own them (14 R462). -/
def State.stewardBarred (s : State) (a : Agent) (addr n : Nat) : Option StewardId := match a with
  | .steward k => match s.stewardPart k.val with
    | some p => if s.owns p addr n then none else some k
    | none => some k
  | _ => none

/-- The partition on whose behalf an agent acts (16 R526). -/
def State.agentPart (s : State) : Agent → Option Nat
  | .core c => s.coreOwner c
  | .coreDma c => s.coreOwner c
  | .steward k => (s.steward k).part
  | .channel n => if (s.channel n).open_ then some (s.channel n).part else none
  | .cmdproc p => some p
  | .monsoon p => some p
  | .host => some 0
  | _ => none

/-- The SENDER_ID of an agent (16 R525). -/
def agentSender : Agent → Option (BitVec 16)
  | .core c => some (BitVec.ofNat 16 (coreSender c))
  | .steward k => some (BitVec.ofNat 16 (stewardSender k))
  | .channel n => some (BitVec.ofNat 16 n)
  | .host => some 0
  | _ => none

/-- The agent is the management partition or the host (01 R28 and the blocks' own rules). -/
def State.isManager (s : State) (a : Agent) : Bool :=
  match a with
  | .host => true
  | .firmware => true
  | _ => s.agentPart a = some 0

/-- The partition for which an agent reaches the pool ports (09 R309): that of a compute core or a steward core, while it
is not torn down (09 R321). -/
def State.poolCaller (s : State) (a : Agent) : Option Nat :=
  let runs (p : Option Nat) : Option Nat := p.filter fun p => (s.partition p).state = .active
  match a with
  | .core _ => runs (s.agentPart a)
  | .steward _ => runs (s.agentPart a)
  | _ => none

/-- The agent is a core or a steward core: the requesters of the pool ports (09 R309). -/
def portRequester : Agent → Bool
  | .core _ => true
  | .steward _ => true
  | _ => false

end Sys2Proof.Machine
end

