-- ==== Sys2Proof/Machine/Hubs.lean ====
section
/-! DEFINITION. The commands of the memory hubs (10): reads and writes with the errors that they meet, write-backs of
corrections, scrub, rows, repair and the traffic generators. -/

namespace Sys2Proof.Machine

open Sys2Proof

/-! ## Errors that arrive -/

/-- The errors that an access of the stack meets join those that the stored code word of its block already has (10 R330,
R331, R343). -/
def State.upsetStack (s : State) (addr : Nat) (u : Upset) : State :=
  let b := addr / 64
  let s := if u.symbols.isEmpty then s
    else { s with upsets := Tab.put s.upsets b (Tab.get [] s.upsets b ++ u.symbols) }
  if u.onDie = 0 then s
  else { s.updHub (hubOf addr) fun h => { h with
    onDie := satAdd h.onDie u.onDie, lastError := lastErrorWord s.now 5 (stackOf addr) (pcOf addr) } with
    baro := { s.baro with eccTotal := s.baro.eccTotal + u.onDie } }

/-- A line of the slice's cache serves an access, which then does not meet the code word. A line that a double-bit error
spoils in a clean block is fetched again (10 R344). -/
def State.lineServes (s : State) (addr : Nat) (u : Upset) : Bool :=
  match (s.hub (hubOf addr)).line? (addr / 256) with
  | some l => u.sramBits < 2 || l.dirty.getLsbD (addr / 64 % 4)
  | none => false

/-- The errors of an access through the slice. -/
def State.upset (s : State) (addr : Nat) (u : Upset) : State :=
  s.upsetStack addr (if s.lineServes addr u then { u with symbols := [] } else u)

/-- The reader kind of detail word 3 (10 R338); for an agent that the rule does not list it is free (log entry 2). -/
def State.readerKind (s : State) : Agent → Nat
  | .core _ => 1
  | .coreDma _ => 2
  | .remote _ => 3
  | .monsoon _ => 4
  | _ => Config.freeNat s.free

/-- The source unit of an agent; one that the spec does not number is a free value (log entry 2). -/
def State.agentUnit (s : State) : Agent → Nat
  | .core c => coreUnit c
  | .coreDma c => coreUnit c
  | .steward k => stewardUnit k
  | .cmdproc _ => cmdUnit
  | _ => freeUnit (Config.freeNat (s.free + 1))

/-- A memory error is raised in the context of the agent that met it (10 R336). The context of another package's
request is on that package; the host, the management controller and firmware have none. -/
def State.raiseAgent (s : State) (a : Agent) (e : MemErr) (addr : Nat) : State :=
  match a with
  | .remote _ => s
  | .host => s
  | .channel _ => s
  | _ => match s.agentPart a with
    | some p => s.raiseMem p e (s.agentUnit a) (s.global addr) (s.readerKind a)
    | none => s

/-- The job on whose behalf an agent accesses memory. -/
def State.agentJob (s : State) (a : Agent) : BitVec 32 := match a with
  | .remote j => j
  | _ => match s.agentPart a with
    | some p => (s.partition p).job
    | none => 0

/-- A hub serves the address: HBM or its slice's scratchpad window, while its clock runs (19 R605). -/
def State.hubServes (s : State) (addr : Nat) : Bool := s.moves && match s.place addr with
  | .hbm _ _ => true
  | .llm _ _ => true
  | .unmapped => true
  | _ => false

/-- A hub serves a read of the block that holds an address. -/
def State.hubReadFor (s : State) (a : Agent) (addr : Nat) (u : Upset) : State :=
  if !s.hubServes addr then s
  else match s.stewardBarred a (addr / 64 * 64) 64 with
  | some k => s.stewardFault k.val 5 addr
  | none =>
    let s := s.upset addr u
    match s.readBlock (s.agentJob a) (addr / 64 * 64) u with
    | (.ok bs, s) => (s.updHub (hubOf addr) fun h => { h with lastRead := some (addr / 64 * 64, bs) }).emit (.bytes a (some bs))
    | (.error e, s) => (s.emit (.bytes a none)).raiseAgent a e addr

/-- A hub serves a write of bytes that lie in one block. -/
def State.hubWriteFor (s : State) (a : Agent) (addr : Nat) (data : Bytes) (u : Upset) : State :=
  if !s.hubServes addr ∨ data.isEmpty ∨ addr % 64 + data.length > 64 then s
  else match s.stewardBarred a addr data.length with
  | some k => s.stewardFault k.val 7 addr
  | none =>
    let s := s.upset addr u
    match s.writeBlockMeeting (s.agentJob a) addr data u with
    | (.ok _, s) => s.emit (.bytes a (some []))
    | (.error e, s) => (s.emit (.bytes a none)).raiseAgent a e addr

/-- The row HBM_READ (10 R330). -/
def execHbmRead (a : Agent) (addr : BitVec 48) (u : Upset) (s : State) : Host.Outcome State Fault Refusal :=
  .next (s.hubReadFor a addr.toNat u)

/-- The row HBM_WRITE (10 R337). -/
def execHbmWrite (a : Agent) (addr : BitVec 48) (data : Bytes) (u : Upset) (s : State) :
    Host.Outcome State Fault Refusal := .next (s.hubWriteFor a addr.toNat data u)

/-! ## Write-backs, scrub and rows -/

/-- The line of a block keeps the bytes that it holds, whatever is written into the stack behind it (10 R342). -/
def State.holdLine (s : State) (a : Nat) : State :=
  match (s.hub (hubOf a)).line? (a / 256) with
  | none => s
  | some l => s.updHub (hubOf a) fun h => { h with lines := h.lines.map fun x =>
      if x.granule = l.granule then { x with held := Tab.put x.held (a / 64 % 4) (s.lineBytes l a) } else x }

/-- The slice's cache holds newer bytes of the block than the stack. -/
def State.dirtyAt (s : State) (a : Nat) : Bool :=
  match (s.hub (hubOf a)).line? (a / 256) with
  | some l => l.dirty.getLsbD (a / 64 % 4)
  | none => false

/-- A corrected block is written back (10 R334): the bytes of the correction, with new check bytes. Bytes that the cache
holds and has not yet written to the stack stand. -/
def State.writeBack (s : State) (addr : Nat) : State :=
  let b := addr / 64
  match (if s.moves then Tab.get? s.writebacks b else none) with
  | none => s
  | some bs =>
    let s := s.openRow addr
    if s.dirtyAt addr then s.freshBlock b
    else
      let s := s.holdLine addr
      { s.freshBlock b with mem := memWrite s.mem (b * 64) bs }

/-- The row CORRECTION_WRITEBACK (10 R334). -/
def execCorrectionWriteback (addr : BitVec 48) (s : State) : Host.Outcome State Fault Refusal :=
  .next (s.writeBack addr.toNat)

/-- Blocks that a hub serves, and the address of the n-th in increasing order (10 R327): each run of 8 granules holds
one granule of each hub. -/
def State.hubBlocks (s : State) : Nat := regionUnit * s.hbmUnits / 512
def hubBlock (m n : Nat) : Nat :=
  let g := n / 4 * 8
  let j := ((List.range 8).find? fun j => hubOf ((g + j) * 256) = m).getD 0
  (g + j) * 256 + n % 4 * 64

/-- A scrub read of the hub's next block, past the cache (10 R339); it pauses on a stack whose cap is below 100 %. -/
def State.scrub (s : State) (m : Nat) (u : Upset) : State :=
  let n := (s.hub m).scrubNext
  let addr := hubBlock m n
  if (s.stack (stackOf addr)).cap ≠ 0xC8 ∨ !s.moves then s
  else
    let s := s.upsetStack addr u
    let s := match s.regionAt addr with
      | some (i, r) => (s.hbmBlock i r addr).2
      | none => s
    s.updHub m fun h =>
      if n + 1 < s.hubBlocks then { h with scrubNext := n + 1 }
      else { h with scrubNext := 0, scrubPasses := h.scrubPasses + 1 }

/-- The row PATROL_SCRUB (10 R339). -/
def execPatrolScrub (h : HubId) (u : Upset) (s : State) : Host.Outcome State Fault Refusal := .next (s.scrub h.val u)

/-- The hub closes a row whose bank has had no request for 200 ns (10 R348). -/
def State.idleRow (s : State) (st pc bank : Nat) : Bool := match Tab.get? s.openRows (bankKey st pc bank) with
  | some (_, last) => last + 200 ≤ s.time && s.moves
  | none => false

/-- The open row of a bank is closed. -/
def State.closeRow (s : State) (st pc bank : Nat) : State :=
  { s with openRows := Tab.del s.openRows (bankKey st pc bank) }

/-- The row ROW_CLOSE (10 R348). -/
def execRowClose (st : StackId) (pc : Fin 64) (bank : Nat) (s : State) : Host.Outcome State Fault Refusal :=
  .next (if s.idleRow st.val pc.val bank then s.closeRow st.val pc.val bank else s)

/-- The row HBM_REFRESH (10 R348): the refresh closes the bank's open row. -/
def execHbmRefresh (st : StackId) (pc : Fin 64) (bank : Nat) (s : State) : Host.Outcome State Fault Refusal :=
  .next (s.closeRow st.val pc.val bank)

/-! ## Repair and test (10 R354, R355) -/

/-- Soft repair of a row that has given 16 or more corrections, in SERVICE; without a spare the row stays in use (10
R356). -/
def State.softRepair (s : State) (st pc bank row : Nat) : State :=
  let k := rowKey st pc bank row
  if !s.inService ∨ Tab.get 0 s.rowErrors k < 16 ∨ (s.stack st).sparesLeft = 0 then s
  else { s.updStack st fun x => { x with softUsed := x.softUsed + 1, sparesLeft := x.sparesLeft - 1 } with
    rowErrors := Tab.del s.rowErrors k }

/-- The row SPPR_REPAIR (10 R355). -/
def execSpprRepair (st : StackId) (pc : Fin 64) (bank row : Nat) (s : State) : Host.Outcome State Fault Refusal :=
  .next (s.softRepair st.val pc.val bank row)

/-- A generator of a hub, changed. -/
def State.updGen (s : State) (m ch : Nat) (f : TrafficGen → TrafficGen) : State :=
  s.updHub m fun h => { h with gens := Tab.put h.gens ch (f (Tab.get TrafficGen.zero h.gens ch)) }

/-- A generator may run: in the memory test of a cold start, or in QUIESCED (10 R354). -/
def State.mayTest (s : State) : Bool :=
  (s.mgmt.state = .coldStart && s.mgmt.step = 6) || s.mgmt.state = .quiesced

/-- A run begins: START and BUSY are set, DONE and the results of the last run are cleared. -/
def State.startGen (s : State) (m ch : Nat) : State :=
  if !s.mayTest then s
  else s.updGen m ch fun g => { g with ctrl := g.ctrl ||| 1, errors := 0, firstRow := 0, done := false, busy := true }

/-- A line keeps the bytes that it holds in all its blocks, whatever becomes of the stack behind it (10 R342). -/
def State.holdBytes (s : State) (l : LlmLine) : LlmLine :=
  { l with held := (List.range 4).map fun i => (i, s.lineBytes l (l.granule * 256 + i * 64)) }

/-- A run leaves its pattern in the first `count` rows that it was to test, as new code words: their errors and poison
marks are gone (10 R354; log entry 25). Lines of the slice's cache stay as they are. -/
def State.testRows (s : State) (m ch : Nat) (ctrl : Word) (count : Nat) : State :=
  if fld ctrl.toNat 7 6 = 1 then s
  else
    let run : TestRun := ⟨m, ch, fld ctrl.toNat 31 16, count, fld ctrl.toNat 5 3, s.free, []⟩
    let ran (a : Nat) : Bool := inRun m ch run.first count a
    let s := s.updHub m fun h => { h with lines := h.lines.map fun l => if ran (l.granule * 256) then s.holdBytes l else l }
    { s with
      mem := s.mem.filter fun c => !ran c.1
      poison := s.poison.filter fun b => !ran (b * 64)
      upsets := s.upsets.filter fun e => !ran (e.1 * 64)
      writebacks := s.writebacks.filter fun e => !ran (e.1 * 64)
      testRuns := run :: s.testRuns
      free := s.free + 512 * regionUnit }

/-- A run ends: START clears, DONE and the results are set, and the rows it tested are overwritten. -/
def State.endGen (s : State) (m ch : Nat) (errors : BitVec 32) (firstRow : BitVec 16) : State :=
  let g := Tab.get TrafficGen.zero (s.hub m).gens ch
  if !g.busy ∨ !s.moves then s
  else
    let s := s.updGen m ch fun g => { g with
      ctrl := g.ctrl &&& ~~~1, errors := errors, firstRow := firstRow, done := true, busy := false }
    s.testRows m ch g.ctrl (fld g.ctrl.toNat 47 32)

/-- A run is given up before its end (16 R534): how many of its rows it has tested is not given (log entry 2). -/
def State.abortGen (s : State) (m ch : Nat) : State :=
  let g := Tab.get TrafficGen.zero (s.hub m).gens ch
  if !g.busy then s
  else
    let (n, s) := s.draw
    let s := s.updGen m ch fun g => { g with ctrl := g.ctrl &&& ~~~1, busy := false }
    s.testRows m ch g.ctrl (n % (fld g.ctrl.toNat 47 32 + 1))

/-- Every run is given up. -/
def State.abortGens (s : State) : State :=
  (s.hubs.flatMap fun e => e.2.gens.map fun g => (e.1, g.1)).foldl (fun s e => s.abortGen e.1 e.2) s

/-- The row TRAFFIC_GENERATOR_START (10 R354). -/
def execTrafficGeneratorStart (h : HubId) (ch : Fin 96) (s : State) : Host.Outcome State Fault Refusal :=
  .next (s.startGen h.val ch.val)

/-- The row TRAFFIC_GENERATOR_DONE (10 R354). -/
def execTrafficGeneratorDone (h : HubId) (ch : Fin 96) (errors : BitVec 32) (firstRow : BitVec 16) (s : State) :
    Host.Outcome State Fault Refusal := .next (s.endGen h.val ch.val errors firstRow)

end Sys2Proof.Machine
end

