-- ==== Sys2Proof/Machine/Source.lean ====
section
/-! DEFINITION. The lock state of the Season count and the choice of its source (02 R46, R51, R54, R55, R58). Without
SERDES_REFCLK0 the timebase tree has no clock, and STATE stays UNLOCKED (19 R616). -/

namespace Sys2Proof.Machine

open Sys2Proof

/-! ## The lock state (02 R54 to R58) -/

/-- STATE changes, which SEA_LOCK_EVENTS counts (02 R58). -/
def Season.setLock (z : Season) (l : LockState) : Season :=
  if z.state = l then z else { z with state := l, lockEvents := satAdd z.lockEvents 1 }

/-- A measured offset from the source, in 1/16 tick: SEA_OFFSET, the slewing of the K0 copy and the lock state (02 R46,
R54, 11 R393). Whole ticks are slewed (log entry 26). -/
def State.measured (s : State) (off : Int) : State :=
  if !s.mgmt.refclk0 then s
  else
    let s := { s with baro := { s.baro with seasonMax := max s.baro.seasonMax off.natAbs } }
    s.updSeason fun z =>
      let z := { z with offset := BitVec.ofInt 32 off }
      if !z.countSync then z
      else { z with slew := -(off.tdiv 16) }.setLock (if off.natAbs ≤ 128 then .locked else .acquiring)

/-- The parent or the reference is lost (02 R55). -/
def State.loseSource (s : State) : State :=
  s.updSeason fun z =>
    if z.state = .locked ∨ z.state = .acquiring then
      { z.setLock .holdover with holdoverAt := z.k0.toNat, parent := none }
    else { z with parent := none }

/-! ## The choice of the source (02 R51) -/

/-- Ports over which a beacon of the present peer has arrived: T-ports and L-ports in UP. -/
def State.heardPorts (s : State) : List Nat :=
  (List.range 56).filter fun n => portRole n ≠ 2 && (s.port n).state = .up && (s.port n).beacon.heard

/-- The most hops from the master to any package (02 R53). -/
def maxHops : Nat := 21

/-- Ports whose announcement of a master is believed: a neighbour that reports 21 hops or more cannot lead to a master,
since no package is further from it, so that the announcements of a master that is gone die out (02 R53, R55; log entry
104). -/
def State.believedPorts (s : State) : List Nat :=
  s.heardPorts.filter fun n => (s.port n).beacon.peerHops.toNat < maxHops

/-- (PRIORITY, package ID) as one number. -/
def electKey (prio : Byte) (id : PkgId) : Nat := prio.toNat * 32768 + id.toNat

/-- The first port with the smallest value. -/
def leastPort (l : List Nat) (f : Nat → Nat) : Option Nat :=
  l.foldl (fun acc n => match acc with
    | none => some n
    | some m => if f n < f m then some n else some m) none

/-- The package becomes a master: it keeps its own count (02 R55). A new tray master has not measured its offset from its
reference (02 R54). -/
def State.becomeMaster (s : State) (role : BitVec 2) : State :=
  s.updSeason fun z =>
    let new := z.role ≠ role
    let z := { z with
      role := role, hops := 0, parent := none, master := some s.self, slew := if new then 0 else z.slew }
    if z.countSync ∧ role = 1 then z.setLock .locked
    else if z.countSync ∧ (new ∨ z.state ≠ .locked) then z.setLock .acquiring else z

/-- The package follows the peer on a port; the offset from a new parent has not been measured (02 R54). -/
def State.follow (s : State) (n : Nat) (hops : Nat) (h : n < 56) : State :=
  let b := (s.port n).beacon
  s.updSeason fun z =>
    let new := z.parent ≠ some ⟨n, h⟩
    let z := { z with
      role := 0, hops := BitVec.ofNat 8 hops, parent := some ⟨n, h⟩, master := some b.peerMaster
      slew := if new then 0 else z.slew }
    if z.countSync ∧ (new ∨ z.state = .holdover ∨ z.state = .unlocked) then z.setLock .acquiring else z

/-- In TRAY_REF no package of the tray is seen to be tray master and this one does not see both inputs: it has no source,
announces no role and follows nobody, so that the next package can take the role (02 R51, R55). HOPS and SEA_OFFSET keep
their last values, as SEA_OFFSET does at a system master (log entry 125). -/
def State.noSource (s : State) : State :=
  s.loseSource.updSeason fun z => { z with role := 0, master := none, slew := 0 }

/-- The source of a package in TRAY_REF (02 R51). -/
def State.electTray (s : State) : State :=
  let masters := s.heardPorts.filter fun n => portRole n = 0 && (s.port n).beacon.peerRole = 2
  match leastPort masters fun n => pkgSlot (s.port n).beacon.peerMaster with
  | some n =>
    if s.season.refPresent ∧ pkgSlot s.self < pkgSlot (s.port n).beacon.peerMaster then s.becomeMaster 2
    else if h : n < 56 then s.follow n 1 h else s
  | none => if s.season.refPresent then s.becomeMaster 2 else s.noSource

/-- The source of a package in ELECTED (02 R51). -/
def State.electSystem (s : State) : State :=
  let key (n : Nat) : Nat := electKey (s.port n).beacon.peerPriority (s.port n).beacon.peerMaster
  match leastPort s.believedPorts key with
  | none => s.becomeMaster 1
  | some n =>
    if electKey s.season.inForce.1 s.self ≤ key n then s.becomeMaster 1
    else
      let same := s.believedPorts.filter fun m => key m = key n
      match leastPort same fun m => (s.port m).beacon.peerHops.toNat with
      | some m => if h : m < 56 then s.follow m ((s.port m).beacon.peerHops.toNat + 1) h else s
      | none => s

/-- The source of the package under R51, from what its beacons told it. -/
def State.elect (s : State) : State :=
  if s.selfId.isNone ∨ !s.mgmt.refclk0 then s
  else if s.season.inForce.2.1 then s.electTray else s.electSystem

/-- The time source on a port is gone (02 R55). -/
def State.loseParent (s : State) (n : Nat) : State :=
  if s.season.parent.map (·.val) = some n then s.loseSource.elect else s

end Sys2Proof.Machine
end

