-- ==== Sys2Proof/Machine/Registers.lean ====
section
/-! DEFINITION. The registers of device control space (01 R28): what each reads as, who may read it, what a read clears,
and what a write stores (00 R7 to R9; the tables of 00 R4, 01 R32, 02 R79, 06 R248, 08 R304, 09 R324, 10 R358, 11 R395,
12 R430, 13 R460, 15 R519, R520, 16 R541, 17 R576, 18 R595, 19 R623, R624). Offsets are from 0x1F00_0000_0000. -/

namespace Sys2Proof.Machine

open Sys2Proof

/-! ## The blocks (01 R28) -/

/-- The blocks of device control space. -/
inductive Block where
  | pkg
  | sea
  | mh (m : Nat)
  | mon (x : Nat)
  | bpm
  | fab (f : Nat)
  | mbx
  | unassigned
deriving DecidableEq, Repr

/-- The block that an offset lies in, and the offset in the block. -/
def blockAt (off : Nat) : Block × Nat :=
  if off < 0x10000 then (.pkg, off)
  else if off < 0x20000 then (.sea, off - 0x10000)
  else if 0x100000 ≤ off ∧ off < 0x300000 then (.mh ((off - 0x100000) / 0x40000), (off - 0x100000) % 0x40000)
  else if 0x300000 ≤ off ∧ off < 0x400000 then (.mon ((off - 0x300000) / 0x40000), (off - 0x300000) % 0x40000)
  else if 0x400000 ≤ off ∧ off < 0x440000 then (.bpm, off - 0x400000)
  else if 0x500000 ≤ off ∧ off < 0x700000 then (.fab ((off - 0x500000) / 0x40000), (off - 0x500000) % 0x40000)
  else if 0x800000 ≤ off ∧ off < 0x900000 then (.mbx, off - 0x800000)
  else (.unassigned, off)

/-! ## Values -/

/-- Six scores from bit 16 (17 R576). -/
def scoresWord (l : List Byte) : Nat := leNat l * 65536

/-- PKG_MGMT_STATE (18 R579, R595). -/
def PkgState.code : PkgState → Nat
  | .off => 0
  | .coldStart => 1
  | .warmStart => 2
  | .service => 3
  | .quiesced => 4
  | .haltRefused => 5

def State.mgmtStateWord (s : State) : Nat :=
  s.mgmt.state.code + s.mgmt.warm.valid.toNat * 8 + s.mgmt.warmIgnored.toNat * 16 +
  (if s.mgmt.state = .off then 0 else s.mgmt.step % 16 * 256)

def State.mgmtCauseWord (s : State) : Nat :=
  s.mgmt.causeCode.toNat + s.mgmt.causeDetail.toNat * 256 + s.mgmt.pending.toNat * 2 ^ 31

/-- ms since the current or the last start began: it runs until SERVICE or HALT_REFUSED, also in OFF after a start that was
broken off (18 R595). -/
def State.elapsedMs (s : State) : Nat :=
  if s.mgmt.elapsedRuns then (s.time - s.mgmt.elapsedFrom) / 1000000 else s.mgmt.elapsed.toNat

/-- A register of the management register file, 32 bits, by its offset (18 R595, 19 R624). -/
def State.mgmtReg (s : State) (off : Nat) : Nat := match off with
  | 0x00 => s.mgmtStateWord
  | 0x04 => s.mgmtCauseWord
  | 0x08 => s.mgmt.tray.toNat
  | 0x0C => s.mgmt.dim.toNat
  | 0x10 => s.mgmt.straps.toNat
  | 0x14 => s.elapsedMs % 2 ^ 32
  | 0x18 => s.mgmt.pwrCap.toNat
  | 0x1C => if s.power.started then s.power.p100us % 65536 + s.power.n % 32 * 65536 else s.mgmt.pwrKept.toNat
  | _ => 0

/-- PKG_PWR_STATUS (19 R623). -/
def State.pwrStatus (s : State) : Nat :=
  s.power.p1s % 65536 * 2 ^ 32 + s.power.p100us % 65536 * 65536 +
  (if s.power.started then s.power.n % 32 * 256 + (decide (s.power.n < 16)).toNat else 0) +
  s.power.gating.toNat * 8 + (decide (s.power.fastHold ≠ 0)).toNat * 4 +
  (decide (s.mgmt.pwrCap.toNat < 6000)).toNat * 2

/-- The hottest sensor reading of the dies, with the lowest die index that has it (19 R623). -/
def State.tempMax (s : State) : Nat :=
  let best := s.power.temps.foldl (fun (acc : Nat × Nat) e =>
    if e.2.toNat > acc.2 then (e.1, e.2.toNat) else acc) (0, 0)
  best.1 + best.2 * 65536

/-- PKG_CLK_STEP0 and 1: nine nibbles from die `d` (19 R623). -/
def State.clkStep (s : State) (d : Nat) : Nat :=
  ((List.range 9).map fun i => (min s.power.n (Tab.get 16 s.power.therm (d + i)) - 1) % 16 * 16 ^ i).sum

/-- A state code of a partition (15 R493). -/
def PState.code : PState → Nat
  | .absent => 0
  | .active => 1
  | .teardown => 2
  | .faulted => 3
  | .deferred => 4

/-- The registers of partition `p` (15 R519, 17 R576). -/
def State.partReg (s : State) (p off : Nat) : Nat :=
  let x := s.partition p
  if off = 0 then
    x.state.code + x.calm.toNat * 2 ^ 10 + x.allowMv.toNat * 2 ^ 11 + x.realtime.toNat * 2 ^ 12 +
    x.lendable.toNat * 2 ^ 13 + x.stewards.length * 2 ^ 14 + x.faults % 256 * 2 ^ 24 + x.job.toNat * 2 ^ 32
  else if off < 0x30 then fld x.home.toNat (8 * (off - 8) + 63) (8 * (off - 8))
  else if off < 0x58 then fld x.claim.toNat (8 * (off - 0x30) + 63) (8 * (off - 0x30))
  else if off = 0x58 then x.save
  else if off = 0x60 then x.faultArea
  else if off = 0x68 then x.secureThreshold.toNat + x.secureArmed.toNat * 256
  else 0

/-- The package identity block. -/
def State.pkgReg (s : State) (off : Nat) : Nat :=
  if off < 0x100 then match off with
    | 0x00 => 0x1100406C10
    | 0x08 => (match s.part with
      | .h24x64 => 0x104018
      | .h24x48 => 0xC3018)
    | 0x10 => s.dieOk.toNat
    | 0x18 => s.dieFail.toNat
    | 0x20 => (match s.selfId with
      | some i => 0x8000 + i.toNat
      | none => 0)
    | _ => 0
  else if off = 0x100 then s.baro.value.toNat + scoresWord s.baro.scores
  else if off = 0x108 then s.baro.peak.toNat
  else if 0x200 ≤ off ∧ off < 0x300 then
    match Tab.get? s.ckpt.dew ((off - 0x200) / 0x20) with
    | none => 0
    | some d => match off % 0x20 with
      | 0x00 => 2 ^ 63 + d.job.toNat
      | 0x08 => d.base
      | 0x10 => d.shard
      | _ => d.gen % 2 ^ 62 + d.margin.toNat * 2 ^ 62
  else if 0x300 ≤ off ∧ off < 0x320 then s.mgmtReg (off - 0x300) + s.mgmtReg (off - 0x300 + 4) * 2 ^ 32
  else if off = 0x400 then s.pwrStatus
  else if off = 0x408 then s.power.peak.toNat
  else if off = 0x410 then s.power.throttle.toNat
  else if off = 0x418 then s.power.droop.toNat
  else if off = 0x420 then s.tempMax
  else if off = 0x428 then s.clkStep 0
  else if off = 0x430 then s.clkStep 9
  else if 0x1000 ≤ off ∧ off < 0x2000 then s.partReg ((off - 0x1000) / 0x80) ((off - 0x1000) % 0x80)
  else 0

/-- The codes of R54. -/
def LockState.code : LockState → Nat
  | .unlocked => 0
  | .acquiring => 1
  | .locked => 2
  | .holdover => 3

/-- SEA_MONTH (15 R520). -/
def Month.word (m : Month) : Nat := 2 ^ 63 + m.part * 2 ^ 56 + m.len * 2 ^ 24 + m.start

/-- Every core of a partition's block holds its context: the block is not lent (15 R518). -/
def State.blockBack (s : State) (p b : Nat) : Bool := (List.range 16).all fun j =>
  (s.core (16 * b + j)).ctx = some p && (s.core (16 * b + j)).preempt = .live

/-- SEA_RESUME_AT of a partition (15 R518): when several Months hold blocks of it, the latest planned return (log entry
137). -/
def State.resumeWord (s : State) (p : Nat) : Nat :=
  let lent := (maskBlocks (s.partition p).home).filter fun b => !s.blockBack p b
  let at_ := (lent.map fun b => (Tab.get 0 s.season.resumeAt b).toNat).foldl max 0
  if lent.isEmpty then 0 else if at_ < s.now then 2 ^ 64 - 1 else at_

/-- The Season block (02 R79, 15 R520). -/
def State.seaReg (s : State) (off : Nat) : Nat :=
  let z := s.season
  if off < 0x100 then match off with
    | 0x00 => s.now
    | 0x08 => z.state.code + z.refPresent.toNat * 8 + z.role.toNat * 16 + z.hops.toNat * 256
    | 0x10 => z.source.toNat + z.priority.toNat * 256
    | 0x18 => z.offset.toNat
    | 0x20 => (match z.master with
      | some i => 0x8000 + i.toNat
      | none => 0)
    | 0x28 => z.ppsBase.toNat
    | 0x30 => z.holdoverMax.toNat
    | 0x38 => z.lockEvents.toNat
    | 0x40 => z.islandSlips.toNat
    | _ => 0
  else if off < 0x200 then s.window ((off - 0x100) / 8)
  else if off < 0x200 + 56 * 8 then (Tab.get 0 z.linkDelay ((off - 0x200) / 8)).toNat
  else if off = 0x400 then z.yearLog2.toNat + z.commitAt.isSome.toNat * 256
  else if off = 0x408 then z.yearBase.toNat
  else if off = 0x410 then z.handoverLead.toNat
  else if 0x600 ≤ off ∧ off < 0x700 then s.resumeWord ((off - 0x600) / 8)
  else if 0x800 ≤ off ∧ off < 0xA00 then ((Tab.get? z.months ((off - 0x800) / 8)).map Month.word).getD 0
  else if 0xA00 ≤ off ∧ off < 0xC00 then
    let i := (off - 0xA00) / 8
    ((Tab.get? z.monthsNext i).map Month.word).getD (Tab.get 0 z.monthsIdle i).toNat
  else 0

/-- MH_REGION (10 R358). -/
def Region.word (r : Region) : Nat :=
  2 ^ 63 + r.detect.toNat * 2 ^ 62 + r.llmAlloc.toNat * 2 ^ 60 + r.size * 65536 + r.base

/-- The block of hub m (10 R358). -/
def State.mhReg (s : State) (m off : Nat) : Nat :=
  let h := s.hub m
  let st (j : Nat) : StackState := s.stack (3 * m + j)
  if off < 0x100 then match off with
    | 0x00 => (st 0).temp.toNat + (st 1).temp.toNat * 2 ^ 16 + (st 2).temp.toNat * 2 ^ 32
    | 0x08 => (st 0).cap.toNat + (st 1).cap.toNat * 2 ^ 8 + (st 2).cap.toNat * 2 ^ 16 +
        (st 0).refresh2x.toNat * 2 ^ 24 + (st 1).refresh2x.toNat * 2 ^ 25 + (st 2).refresh2x.toNat * 2 ^ 26
    | 0x10 => h.mode.toNat
    | 0x18 => h.corrected.toNat
    | 0x20 => h.uncorrectable.toNat
    | 0x28 => h.detected.toNat
    | 0x30 => h.onDie.toNat
    | 0x38 => h.llmHits.toNat
    | 0x40 => h.llmMisses.toNat
    | 0x48 => h.lastError.toNat
    | 0x50 => h.scrubPasses.toNat
    | _ => 0
  else if off < 0x118 then
    let k := st ((off - 0x100) / 8)
    k.hardUsed.toNat * 2 ^ 32 + k.softUsed.toNat * 2 ^ 16 + k.sparesLeft.toNat
  else if 0x200 ≤ off ∧ off < 0x400 then
    let i := (off - 0x200) / 8
    ((Tab.get? s.regions i).map Region.word).getD (Tab.get 0 s.regionsIdle i).toNat
  else if 0x1000 ≤ off ∧ off < 0x1600 then
    let g := Tab.get TrafficGen.zero h.gens ((off - 0x1000) / 16)
    if off % 16 = 0 then g.ctrl.toNat
    else g.errors.toNat * 2 ^ 32 + g.firstRow.toNat * 2 ^ 16 + g.done.toNat * 2 + g.busy.toNat
  else 0

/-- An index of a member, or 0xFFFF (13 R432). -/
def idx16 (o : Option Nat) : Nat := o.getD 0xFFFF

/-- The 64 bytes of a group table entry (13 R432). -/
def Group.bytes (g : Group) : Bytes :=
  leBytes 8 (2 ^ 63 + g.owner * 2 ^ 32 + g.job.toNat) ++ leBytes 8 g.listDigest.toNat ++ leBytes 8 g.list ++
  leBytes 2 g.members.length ++ leBytes 2 g.self ++ leBytes 2 g.trays ++ leBytes 2 g.trayIndex ++
  leBytes 2 (idx16 g.nw.1) ++ leBytes 2 (idx16 g.nw.2.1) ++ leBytes 2 (idx16 g.nw.2.2) ++
  leBytes 2 (idx16 g.sw.1) ++ leBytes 2 (idx16 g.sw.2.1) ++ leBytes 2 (idx16 g.sw.2.2) ++
  leBytes 2 g.mask.toNat ++ leBytes 2 g.leader ++ zeros 16

/-- PHASE of a step slot (06 R248; log entry 32). -/
def Step.phase (t : Step) : Nat :=
  if t.faulted then 8
  else if t.complete then 7
  else if t.scored.length < 4 then (if t.scored.isEmpty then 1 else 2)
  else if !t.admitted then 3
  else if t.choices.any fun c => c.state ≠ .dropped && !c.sent then 4
  else if t.slots.any fun e => e.2.valid && !t.batchDone.contains e.1 then 5
  else 6

/-- MON_STEP_STATE (06 R248). -/
def Step.word (t : Step) : Nat :=
  t.phase + t.round % 4 * 64 + t.d.step.toNat * 256 + t.d.group.toNat * 2 ^ 24 + t.part * 2 ^ 36

/-- MON_FC_STATE (08 R304). -/
def Fc.word (f : Fc) : Nat := f.phase.toNat + f.hg % 16 * 256 + f.part * 2 ^ 32

/-- Chunk buffers that no armed collective has reserved on an X-die (13 R445, R460). -/
def State.chunkFree (s : State) : Nat := 4096 - (s.colls.map (·.buffers)).sum

/-- The stages of an X-die that have work for a step, as bits of MON_STATUS: the scorer and the selector once EQUINOX and
the die's rows are there, the admitter until the step is admitted and in its commit, the sorter and the dispatcher while
rows are to be sent, the receiver while a batch is open, the combiner while rows are to be combined or committed (06 R202,
R248). -/
def State.stagesOf (s : State) (x : Nat) (st : Step) : Nat :=
  let mine (row : Nat) : Bool := row / max 1 (cdiv st.d.tokens 4) = x
  let toSend (c : Choice) : Bool := mine c.row && !c.sent && match c.state with
    | .admitted _ => true
    | _ => false
  let score : Bool := !st.scored.contains x && (List.range st.d.tokens).all fun r => !mine r || st.arrived.contains r
  let send : Bool := st.choices.any toSend
  let back : Bool := st.returning.any fun e => e.1 % 4 = x && e.2.1 < st.batchRows e.1
  let receive : Bool := st.slots.any fun e => e.2.valid && e.1 % 4 = x && !st.batchDone.contains e.1
  let combine : Bool := st.complete || (st.admitted &&
    (List.range st.d.tokens).any fun r => (st.d.tokenBase + r) % 4 = x && !st.combined.contains r)
  if st.faulted || s.xNow x < st.equinox then 0
  else score.toNat * 3 + (!st.admitted || st.complete).toNat * 4 + send.toNat * 8 + (send || back).toNat * 16 +
    receive.toNat * 32 + combine.toNat * 64

/-- The stages of MON_STATUS that can be busy: those that have work for an armed step, and the scorer and the selector while
a Forecast request is scored (06 R202, R248, 08 R285). -/
def State.stageMask (s : State) (x : Nat) : Nat :=
  s.steps.foldl (fun m e => m ||| s.stagesOf x e.2)
    (if s.forecasts.any fun e => e.2.phase = 2 && e.2.equinox ≤ s.xNow x then 3 else 0)

/-- The Monsoon block of X-die x (06 R248, 08 R304, 13 R460). MON_STATUS shows which stages are busy; the time that
stages take is not modelled, so which of the stages that can be busy are is a free value (log entry 6). -/
def State.monReg (s : State) (x off : Nat) : Nat :=
  let d := s.xdie x
  if off < 0x100 then match off with
    | 0x00 => Config.freeNat s.free % 128 &&& s.stageMask x
    | 0x08 => d.choicesOut.toNat
    | 0x10 => d.rowsIn.toNat
    | 0x18 => d.dropped.toNat
    | 0x20 => d.deferred.toNat
    | 0x28 => d.scoreBusy.toNat
    | 0x30 => d.dispatchStall.toNat
    | 0x38 => d.early.length + d.earlyHigh * 65536
    | 0x40 => d.lastFault.toNat
    | 0x48 => if x = 0 then s.fcRequests.toNat else 0
    | 0x50 => if x = 0 then s.fcScored.toNat else 0
    | _ => 0
  else if off < 0x200 then match Tab.get? s.steps ((off - 0x100) / 0x20) with
    | none => 0
    | some t => if off % 0x20 = 0 then t.desc else if off % 0x20 = 8 then t.word else 0
  else if 0x300 ≤ off ∧ off < 0x400 then match Tab.get? s.forecasts ((off - 0x300) / 0x10) with
    | none => 0
    | some f => if off % 16 = 0 then f.desc else f.word
  else if 0x400 ≤ off ∧ off < 0x438 then match off with
    | 0x400 => s.colls.length
    | 0x408 => d.collDone.toNat
    | 0x410 => d.collFaults.toNat
    | 0x418 => d.collBusy.toNat
    | 0x420 => d.collEarly.length + d.collEarlyHigh * 65536
    | 0x428 => s.chunkFree
    | _ => d.collLastFault.toNat
  else if 0x30000 ≤ off then match Tab.get? s.groups (x * 1024 + (off - 0x30000) / 0x40) with
    | none => 0
    | some g => field g.bytes (off % 0x40) 8
  else 0

/-- The buffer pool manager's block, ports apart (09 R324). -/
def State.bpmReg (s : State) (off : Nat) : Nat :=
  if off = 0 then s.bpm.allocs.toNat
  else if off = 8 then s.bpm.frees.toNat
  else if off = 0x10 then s.bpm.empty.toNat
  else if off = 0x18 then s.bpm.lastFault.toNat
  else if 0x1000 ≤ off ∧ off < 0x5000 then match Tab.get? s.pools ((off - 0x1000) / 0x40) with
    | none => 0
    | some x => match off % 0x40 with
      | 0x00 => x.owner + x.cls * 256 + 2 ^ 31 + x.count * 2 ^ 32
      | 0x08 => x.base
      | 0x10 => x.metaAddr
      | 0x18 => x.freeCount + x.low * 2 ^ 32
      | 0x20 => x.grant.toNat
      | _ => 0
  else 0

/-- Port states (11 R382). -/
def PortState.code : PortState → Nat
  | .disabled => 0
  | .down => 1
  | .training => 2
  | .discovery => 3
  | .up => 4
  | .failed => 5
  | .mismatch => 6

/-- FAB_PORT_PEER (11 R395). -/
def PeerInfo.word (p : PeerInfo) : Nat :=
  2 ^ 63 + p.port.toNat * 2 ^ 48 + p.tray.toNat * 2 ^ 32 + p.trayValid.toNat * 2 ^ 15 + p.optical.toNat * 2 ^ 11 +
  p.quickOk.toNat * 2 ^ 10 + p.role.toNat * 256 + p.slot.toNat

/-- The registers of port n (11 R395). -/
def State.portReg (s : State) (n off : Nat) : Nat :=
  let p := s.port n
  match off with
  | 0x00 => p.enable.toNat + p.retrain.toNat * 4 + p.fecMode.toNat * 16
  | 0x08 => p.state.code + n * 256 + portRole n * 2 ^ 14 + p.quick.toNat * 2 ^ 16 + p.laneLock.toNat * 2 ^ 20
  | 0x10 => (p.peer.map PeerInfo.word).getD 0
  | 0x18 => p.creditCfg.toNat
  | 0x20 => p.fecCorrected.toNat
  | 0x28 => p.fecUncorr.toNat
  | 0x30 => p.crcDiscard.toNat
  | 0x38 => p.orphan.toNat
  | 0x40 => p.stompedIn.toNat
  | 0x48 => p.stompedOut.toNat
  | 0x50 => p.protoErr.toNat
  | 0x58 => p.retrains.toNat
  | 0x60 => p.beaconMiss.toNat
  | 0x80 => (Tab.get 0 p.lanes 0).toNat
  | 0x88 => (Tab.get 0 p.lanes 1).toNat
  | 0x90 => (Tab.get 0 p.lanes 2).toNat
  | 0x98 => (Tab.get 0 p.lanes 3).toNat
  | _ => 0

/-- Input buffers of a port that hold a packet (11 R373, 12 R430). -/
def State.buffersInUse (s : State) (n : Nat) : Nat :=
  (s.fabric.rx.countP fun e => e.1 = n) + (s.fabric.outQ.countP fun o => o.src = n) + (s.port n).open_.isSome.toNat

/-- The oldest H of the four X-dies (12 R430). -/
def State.replayHorizon (s : State) : Nat :=
  min (min (s.xdie 0).horizon (s.xdie 1).horizon) (min (s.xdie 2).horizon (s.xdie 3).horizon)

/-- A register of a Weathervane (12 R430). -/
def Vane.word (v : Vane) (off : Nat) : Nat := match off with
  | 0x00 => v.on.toNat + v.n.toNat * 256
  | 0x08 => v.base.toNat
  | 0x10 => v.size.toNat
  | _ => 0

/-- The Anemometer's registers (12 R429, R430). -/
def State.anemReg (s : State) (off : Nat) : Nat :=
  if off = 0xA000 then s.fabric.anemSel.toNat
  else if 0xA100 ≤ off ∧ off < 0xA200 then
    let i := (off - 0xA100) / 0x20
    let a := Tab.get Anem.zero s.fabric.anem i
    let n := s.buffersInUse (s.anemPort i)
    match off % 0x20 with
    | 0x00 => a.pkts.toNat
    | 0x08 => a.bytes.toNat
    | 0x10 => a.stall.toNat
    | _ => n + max n a.high.toNat * 65536
  else if 0xA400 ≤ off ∧ off < 0xA600 then
    let k := (off - 0xA400) / 16
    if off % 16 = 0 then (let (d, hi) := Tab.get (0, 0) s.fabric.swqDepth k; d.toNat + hi.toNat * 65536)
    else (Tab.get 0 s.fabric.swqStall k).toNat
  else 0

/-- A word of a routing table slot (12 R430). -/
def RouteTable.word (t : RouteTable) (i : Nat) : Nat := match i with
  | 0 => t.valid.toNat * 2 ^ 63 + t.epoch.toNat
  | 1 => t.x0.toNat
  | 2 => t.x1.toNat
  | 3 => t.y0.toNat
  | 4 => t.y1.toNat
  | 5 => t.z.toNat
  | _ => 0

/-- The block of fabric die f (11 R395, 12 R430). -/
def State.fabReg (s : State) (f off : Nat) : Nat :=
  let b := s.fabric
  if off = 0 then
    ((List.range 7).map fun p => if (s.port (7 * f + p)).state = .up then 2 ^ p else 0).sum
  else if off = 8 then b.sysDim.toNat
  else if 0x1000 ≤ off ∧ off < 0x1700 then s.portReg (7 * f + (off - 0x1000) / 0x100) (off % 0x100)
  else if 0x8000 ≤ off ∧ off < 0x8068 then match off with
    | 0x8000 => b.timeout.toNat
    | 0x8008 => b.maxTransit.toNat
    | 0x8010 => b.epoch.toNat
    | 0x8018 => b.epochAt.toNat
    | 0x8020 => b.combine.toNat
    | 0x8028 => ((List.range 4).map fun x => (s.xdie x).replay.length).sum
    | 0x8030 => s.replayHorizon
    | 0x8038 => b.retries.toNat
    | 0x8040 => b.unknown.toNat
    | 0x8048 => b.busy.toNat
    | 0x8050 => b.lateReply.toNat
    | 0x8058 => b.epochDrop.toNat
    | _ => b.combinedCnt.toNat
  else if 0x8100 ≤ off ∧ off < 0x8180 then
    (Tab.get RouteTable.invalid b.tables ((off - 0x8100) / 0x40)).word (off % 0x40 / 8)
  else if 0x9000 ≤ off ∧ off < 0x9400 then (Tab.get Vane.reset b.wv ((off - 0x9000) / 0x20)).word (off % 0x20)
  else s.anemReg off

/-- Services up (16 R541): mailboxes 0 to 47 while firmware runs. -/
def State.mbxUp (s : State) : Nat := if s.fw.up then 2 ^ 48 - 1 else 0

/-- LOCK_OWNER of a word (16 R541). -/
def State.lockOwner (s : State) (w : Nat) : Nat := match Tab.get? s.fw.locks w with
  | some (o, p) => 2 ^ 31 + p % 32 * 65536 + o.toNat
  | none => 0

/-- The mailbox block by 8 bytes (16 R541), in which a lock word reads as R548 says of any other access. -/
def State.mbxReg (s : State) (a : Agent) (off : Nat) : Nat :=
  if off = 0x200 then match a with
    | .steward k => (s.steward k).mbxResult.toNat
    | .core c => (s.core c).mbxResult.toNat
    | _ => 0
  else if 0x400 ≤ off ∧ off < 0x600 then (Tab.get [] s.fw.mailboxes ((off - 0x400) / 8)).length
  else if off = 0x600 then s.mbxUp
  else if 0x10000 ≤ off ∧ off < 0x10400 then 0xFFFFFFFF
  else if 0x10400 ≤ off ∧ off < 0x10800 then
    let w := (off - 0x10400) / 4
    s.lockOwner w + s.lockOwner (w + 1) * 2 ^ 32
  else 0

/-! ## Who reads what -/

/-- The Anemometer's registers are for the management partition alone (12 R429). -/
def anemOffset (off : Nat) : Bool := 0xA000 ≤ off

/-- The agent may read the register at an offset; other reads return zero. -/
def State.mayRead (s : State) (a : Agent) (off : Nat) : Bool :=
  if a = .firmware then true
  else match blockAt off with
  | (.pkg, o) => o < 0x100 || o = 0x100 || s.isManager a
  | (.sea, _) => true
  | (.mh _, _) => s.isManager a
  | (.mon _, _) => s.isManager a
  | (.bpm, o) => s.isManager a ||
      (0x1000 ≤ o && s.agentPart a = some ((o - 0x1000) / 0x40 / 8))
  | (.fab _, o) => if anemOffset o then s.isManager a && a ≠ .host else s.isManager a
  | (.mbx, o) => o = 0x200 || (0x10000 ≤ o && o < 0x10400) || s.isManager a
  | (.unassigned, _) => true

/-- The agent reaches the offset at all: compute cores by their S slot and the host reach all of the space (01 R28), a
steward the Season block, the pool ports and the mailbox block (14 R462). -/
def reaches (a : Agent) (off : Nat) : Bool := match a with
  | .core _ => true
  | .host => true
  | .firmware => true
  | .steward _ => match blockAt off with
    | (.sea, _) => true
    | (.bpm, o) => 0x20000 ≤ o
    | (.mbx, _) => true
    | _ => false
  | _ => false

/-- The 64 bits at an offset that is a multiple of 8, to an agent that may read them. -/
def State.regValue (s : State) (a : Agent) (off : Nat) : Nat := match blockAt off with
  | (.pkg, o) => s.pkgReg o
  | (.sea, o) => s.seaReg o
  | (.mh m, o) => s.mhReg m o
  | (.mon x, o) => s.monReg x o
  | (.bpm, o) => s.bpmReg o
  | (.fab f, o) => s.fabReg f o
  | (.mbx, o) => s.mbxReg a o
  | (.unassigned, _) => 0

/-! ## What a read clears -/

/-- The RC registers (00 R9): the register at an offset holds `n`; `none` for a register that a read leaves. -/
def State.setRc (s : State) (off n : Nat) : Option State :=
  let c : BitVec 48 := BitVec.ofNat 48 n
  match blockAt off with
  | (.pkg, o) => match o with
    | 0x108 => some { s with baro := { s.baro with peak := BitVec.ofNat 8 n } }
    | 0x408 => some (s.updPower fun w => { w with peak := BitVec.ofNat 16 n })
    | 0x410 => some (s.updPower fun w => { w with throttle := c })
    | 0x418 => some (s.updPower fun w => { w with droop := c })
    | _ => none
  | (.sea, o) => match o with
    | 0x38 => some (s.updSeason fun z => { z with lockEvents := BitVec.ofNat 32 n })
    | 0x40 => some (s.updSeason fun z => { z with islandSlips := BitVec.ofNat 32 n })
    | _ => none
  | (.mh m, o) => match o with
    | 0x18 => some (s.updHub m fun h => { h with corrected := c })
    | 0x20 => some (s.updHub m fun h => { h with uncorrectable := c })
    | 0x28 => some (s.updHub m fun h => { h with detected := c })
    | 0x30 => some (s.updHub m fun h => { h with onDie := c })
    | 0x38 => some (s.updHub m fun h => { h with llmHits := c })
    | 0x40 => some (s.updHub m fun h => { h with llmMisses := c })
    | _ => none
  | (.mon x, o) => match o with
    | 0x08 => some (s.updXdie x fun d => { d with choicesOut := c })
    | 0x10 => some (s.updXdie x fun d => { d with rowsIn := c })
    | 0x18 => some (s.updXdie x fun d => { d with dropped := c })
    | 0x20 => some (s.updXdie x fun d => { d with deferred := c })
    | 0x28 => some (s.updXdie x fun d => { d with scoreBusy := c })
    | 0x30 => some (s.updXdie x fun d => { d with dispatchStall := c })
    | 0x48 => if x = 0 then some { s with fcRequests := c } else none
    | 0x50 => if x = 0 then some { s with fcScored := c } else none
    | 0x408 => some (s.updXdie x fun d => { d with collDone := c })
    | 0x410 => some (s.updXdie x fun d => { d with collFaults := c })
    | 0x418 => some (s.updXdie x fun d => { d with collBusy := c })
    | _ => none
  | (.bpm, o) => match o with
    | 0x00 => some { s with bpm := { s.bpm with allocs := c } }
    | 0x08 => some { s with bpm := { s.bpm with frees := c } }
    | 0x10 => some { s with bpm := { s.bpm with empty := c } }
    | _ => none
  | (.fab f, o) =>
    if 0x1000 ≤ o ∧ o < 0x1700 then
      let p := 7 * f + (o - 0x1000) / 0x100
      match o % 0x100 with
      | 0x20 => some (s.updPort p fun q => { q with fecCorrected := c })
      | 0x28 => some (s.updPort p fun q => { q with fecUncorr := c })
      | 0x30 => some (s.updPort p fun q => { q with crcDiscard := c })
      | 0x38 => some (s.updPort p fun q => { q with orphan := c })
      | 0x40 => some (s.updPort p fun q => { q with stompedIn := c })
      | 0x48 => some (s.updPort p fun q => { q with stompedOut := c })
      | 0x50 => some (s.updPort p fun q => { q with protoErr := c })
      | 0x58 => some (s.updPort p fun q => { q with retrains := c })
      | 0x60 => some (s.updPort p fun q => { q with beaconMiss := c })
      | _ => none
    else if 0xA100 ≤ o ∧ o < 0xA200 then
      let here (i : Nat) : Bool := i = (o - 0xA100) / 0x20
      match o % 0x20 with
      | 0x00 => some (s.noteAnem here fun a => { a with pkts := c })
      | 0x08 => some (s.noteAnem here fun a => { a with bytes := c })
      | 0x10 => some (s.noteAnem here fun a => { a with stall := c })
      | _ => none
    else if 0xA400 ≤ o ∧ o < 0xA600 ∧ o % 16 = 8 then
      some (s.updFabric fun b => { b with swqStall := Tab.put b.swqStall ((o - 0xA400) / 16) c })
    else match o with
      | 0x8038 => some (s.updFabric fun b => { b with retries := c })
      | 0x8040 => some (s.updFabric fun b => { b with unknown := c })
      | 0x8048 => some (s.updFabric fun b => { b with busy := c })
      | 0x8050 => some (s.updFabric fun b => { b with lateReply := c })
      | 0x8058 => some (s.updFabric fun b => { b with epochDrop := c })
      | 0x8060 => some (s.updFabric fun b => { b with combinedCnt := c })
      | _ => none
  | _ => none

/-- A read of FAB_ANEM_QDEPTH or FAB_SWQ_DEPTH starts HIGH afresh (12 R430), and one of MON_STATUS draws a free value
(log entry 6). -/
def State.afterRead (s : State) (off : Nat) : State := match blockAt off with
  | (.fab _, o) =>
    if 0xA100 ≤ o ∧ o < 0xA200 ∧ o % 0x20 = 0x18 then
      let i := (o - 0xA100) / 0x20
      let now := s.buffersInUse (s.anemPort i)
      s.noteAnem (fun j => j = i) fun a => { a with high := BitVec.ofNat 16 now }
    else if 0xA400 ≤ o ∧ o < 0xA600 ∧ o % 16 = 0 then
      let k := (o - 0xA400) / 16
      let d := (Tab.get (0, 0) s.fabric.swqDepth k).1
      s.updFabric fun b => { b with swqDepth := Tab.put b.swqDepth k (d, d) }
    else s
  | (.mon _, 0) => { s with free := s.free + 1 }
  | _ => s

/-- A read of the 8 bytes at an aligned offset: the value, and the state after what the read clears (00 R9). -/
def State.regRead (s : State) (a : Agent) (off : Nat) : Nat × State :=
  if !s.mayRead a off then (0, s)
  else (s.regValue a off, (s.setRc off 0).getD (s.afterRead off))

/-- What an RC register holds once it has recorded `n`: a counter adds it, and PKG_BARO_PEAK and PKG_PWR_PEAK keep the
larger value. -/
def recorded (off value n : Nat) : Nat := match blockAt off with
  | (.pkg, 0x108) => max value (n % 2 ^ 8)
  | (.pkg, 0x408) => max value (n % 2 ^ 16)
  | (.sea, _) => min (value + n) (2 ^ 32 - 1)
  | _ => min (value + n) (2 ^ 48 - 1)

/-- The RC register at an offset records `n`: an event that is not lost, whatever a read in its cycle did (00 R9). -/
def State.keepEvent (s : State) (off n : Nat) : State :=
  if n = 0 then s else (s.setRc off (recorded off (s.regValue .firmware off) n)).getD s

/-! ## Reads and writes of control space by an agent -/

/-- The lock word at an offset of the mailbox block (16 R541, R548). -/
def lockAt (off : Nat) : Option Nat :=
  match blockAt off with
  | (.mbx, o) => if 0x10000 ≤ o ∧ o < 0x10400 then some ((o - 0x10000) / 4) else none
  | _ => none

/-- The pool port at an offset: ALLOC, INCR, DECR, GRANT (09 R324). -/
inductive BpmPort where
  | alloc (q : Nat)
  | incr
  | decr
  | grant (q : Nat)
deriving DecidableEq, Repr

def bpmPortAt (off : Nat) : Option BpmPort :=
  match blockAt off with
  | (.bpm, o) =>
    if 0x20000 ≤ o ∧ o < 0x20040 ∧ o % 8 = 0 then some (.alloc ((o - 0x20000) / 8))
    else if o = 0x20100 then some .incr
    else if o = 0x20108 then some .decr
    else if 0x20200 ≤ o ∧ o < 0x20240 ∧ o % 8 = 0 then some (.grant ((o - 0x20200) / 8))
    else none
  | _ => none

/-- A read of control space by an agent that reaches it: lock words by 4 bytes, pool ports by 8, registers by any
size. A read of part of an RC register clears all of it (log entry 72). -/
def State.ctrlRead (s : State) (a : Agent) (off size : Nat) : Nat × State :=
  match lockAt off with
  | some w =>
    if size = 4 ∧ off % 4 = 0 then
      match agentSender a, s.agentPart a with
      | some o, some p => let (v, s) := s.lockRead w o p; (v.toNat, s)
      | _, _ => (0, s)
    else (0xFFFFFFFF % 2 ^ (8 * size), s)
  | none =>
    match bpmPortAt off with
    | some (.alloc q) =>
      if size = 8 then
        match s.poolCaller a with
        | some p => let (v, s) := s.bpmAllocOp p q; (v.toNat, s)
        | none => (0, s)
      else (0, s)
    | some _ => (0, s)
    | none =>
      let (v, s) := s.regRead a (off / 8 * 8)
      (fld v (8 * (off % 8) + 8 * size - 1) (8 * (off % 8)), s)

/-- A write of control space by a core, a steward or the host: only lock words and pool ports take one (16 R523). -/
def State.ctrlWrite (s : State) (a : Agent) (off size v : Nat) : State :=
  match lockAt off with
  | some w =>
    if size = 4 ∧ off % 4 = 0 then
      match agentSender a, s.agentPart a with
      | some o, some p => s.lockWrite w o p (BitVec.ofNat 32 v)
      | _, _ => s
    else s
  | none =>
    match bpmPortAt off with
    | none => s
    | some port =>
      if size = 8 then
        match s.poolCaller a with
        | none => s
        | some p => match port with
          | .alloc _ => s
          | .incr => s.bpmRefOp p true (BitVec.ofNat 64 v)
          | .decr => s.bpmRefOp p false (BitVec.ofNat 64 v)
          | .grant q => s.bpmGrantOp p q (BitVec.ofNat 64 v)
      else s

/-! ## Registers that firmware writes -/

/-- The Season count at which a table committed now takes effect (15 R502): the start of the first Year that begins
at least 1,000,000 ticks later. -/
def State.yearStartAfter (s : State) (t : Nat) : Nat :=
  let y := s.yearLen
  let b := s.season.yearBase.toNat
  if y = 0 then t else if t ≤ b then b - (b - t) / y * y else b + cdiv (t - b) y * y

/-- A Month of the next table, or none (15 R520). -/
def monthOf (v : Nat) : Option Month :=
  if bit v 63 then some ⟨fld v 60 56, fld v 23 0, fld v 47 24⟩ else none

/-- A division of the buffers meets R373 on a port. -/
def divisionOk (n : Nat) (v : Word) : Bool :=
  let l := (List.range 8).map (divOf v)
  l.all (2 ≤ ·) && l.sum ≤ (match portRole n with
    | 0 => 64
    | 1 => 256
    | _ => 128)

/-- Port n is enabled, or disabled (11 R363, R382): then its training is over, and its lanes are idle. -/
def Port.setEnable (p : Port) (e : Bool) : Port :=
  if e then { p with enable := true, state := if p.state = .disabled then .down else p.state }
  else { p with enable := false, state := .disabled, training := none, retrain := false, laneLock := 0 }

/-- A slot's routing table takes a word: a table is loaded only into a slot whose VALID is 0 (12 R426, R430). -/
def RouteTable.store (t : RouteTable) (i : Nat) (v : Word) : RouteTable :=
  if t.valid ∧ (i ≠ 0 ∨ v.getLsbD 63) then t
  else match i with
    | 0 => { t with valid := v.getLsbD 63, epoch := v.setWidth 2 }
    | 1 => { t with x0 := v &&& 0xF3F3F3F3F3F3F3F3 }
    | 2 => { t with x1 := v &&& 0xF3F3F3F3F3F3F3F3 }
    | 3 => { t with y0 := v &&& 0xF3F3F3F3F3F3F3F3 }
    | 4 => { t with y1 := v &&& 0xF3F3F3F3F3F3F3F3 }
    | 5 => { t with z := v &&& 0xF3F3F3F3F3F3F3F3 }
    | _ => t

/-- Firmware writes a register of the fabric blocks. A value that the spec says is reserved or never written leaves the
register as it is: FEC_MODE 3, a division that breaks 11 R373, a timeout outside 12 R413, a switch less than 1,000,000
ticks ahead, a word of a valid table (log entry 124). -/
def State.fabWrite (s : State) (f off : Nat) (v : Word) : State :=
  let n := v.toNat
  if off = 8 then s.updFabric fun b => { b with sysDim := BitVec.ofNat 32 n &&& 0x800037FF }
  else if 0x1000 ≤ off ∧ off < 0x1700 then
    let p := 7 * f + (off - 0x1000) / 0x100
    match off % 0x100 with
    | 0x00 =>
      let s := s.updPort p fun q =>
        { q.setEnable (bit n 0) with
          retrain := bit n 2, fecMode := if fld n 5 4 = 3 then q.fecMode else BitVec.ofNat 2 (fld n 5 4) }
      if bit n 0 then s else s.loseParent p
    | 0x18 => if divisionOk p v then s.updPort p fun q => { q with creditCfg := v } else s
    | _ => s
  else if 0x8100 ≤ off ∧ off < 0x8180 then
    s.updFabric fun b =>
      let j := (off - 0x8100) / 0x40
      let t := Tab.get RouteTable.invalid b.tables j
      { b with tables := Tab.put b.tables j (t.store (off % 0x40 / 8) v) }
  else if 0x9000 ≤ off ∧ off < 0x9400 then
    s.updFabric fun b =>
      let p := (off - 0x9000) / 0x20
      let w := Tab.get Vane.reset b.wv p
      { b with wv := Tab.put b.wv p (match off % 0x20 with
        | 0x00 => { w with n := BitVec.ofNat 5 (n / 256), on := bit n 0 }
        | 0x08 => { w with base := v }
        | 0x10 => { w with size := BitVec.ofNat 24 n }
        | _ => w) }
  else match off with
    | 0x8000 => if n % 65536 < 1000 ∨ 40000 < n % 65536 then s else s.updFabric fun b => { b with timeout := BitVec.ofNat 16 n }
    | 0x8008 => s.updFabric fun b => { b with maxTransit := BitVec.ofNat 16 n }
    | 0x8010 => s.updFabric fun b => { b with epoch := BitVec.ofNat 2 n }
    | 0x8018 => if n < s.now + 1000000 then s else s.updFabric fun b => { b with epochAt := v }
    | 0x8020 => s.updFabric fun b => { b with combine := bit n 0 }
    | 0xA000 => s.updFabric fun b => { b with anemSel := v &&& 0xBFBFBFBFBFBFBFBF }
    | _ => s

/-- A region of these units would overlap another entry of the table (10 R328). -/
def State.regionOverlaps (s : State) (i base size : Nat) : Bool :=
  s.regions.any fun e => e.1 != i && base < e.2.base + e.2.size && e.2.base < base + size

/-- A region is destroyed, and with it the Dew store that lies in it (17 R564). -/
def State.dropStores (s : State) (i : Nat) : State :=
  { s with ckpt := { s.ckpt with dew := s.ckpt.dew.filter fun e => e.2.region ≠ i } }

/-- Firmware writes a register of the hubs: the same values stand in all eight blocks (10 R359). A region that the spec
says is never written changes nothing (log entry 74). -/
def State.mhWrite (s : State) (m off : Nat) (v : Word) : State :=
  let n := v.toNat
  if 0x200 ≤ off ∧ off < 0x400 then
    let i := (off - 0x200) / 8
    let base := fld n 8 0
    let size := fld n 25 16
    if !bit n 63 then { s.dropStores i with
      regions := Tab.del s.regions i, regionsIdle := Tab.put s.regionsIdle i (v &&& 0x7000000003FF01FF) }
    else if size = 0 ∨ base + size > s.hbmUnits ∨ fld n 61 60 = 3 ∨ s.regionOverlaps i base size then s
    else
      let r : Region := ⟨base, size, bit n 62, BitVec.ofNat 2 (fld n 61 60), (Tab.get? s.regions i).bind (·.owner)⟩
      let same : Bool := ((Tab.get? s.regions i).map fun q => (q.base, q.size)) = some (base, size)
      { (if same then s else s.dropStores i) with
        regions := Tab.put s.regions i r, regionsIdle := Tab.del s.regionsIdle i }
  else if 0x1000 ≤ off ∧ off < 0x1600 ∧ off % 16 = 0 then
    s.updHub m fun h =>
      let c := (off - 0x1000) / 16
      let g := Tab.get TrafficGen.zero h.gens c
      { h with gens := Tab.put h.gens c { g with ctrl := v &&& 0xFFFFFFFF00F9 } }
  else s

/-- Firmware writes a register of the Season block. -/
def State.seaWrite (s : State) (off : Nat) (v : Word) : State :=
  let n := v.toNat
  if 0x100 ≤ off ∧ off < 0x200 then
    let w := BitVec.ofNat 16 (max 16 (n % 65536))
    s.updSeason fun z => { z with launchWindow := Tab.put z.launchWindow ((off - 0x100) / 8) w }
  else if 0xA00 ≤ off ∧ off < 0xC00 then
    s.updSeason fun z =>
      let i := (off - 0xA00) / 8
      match monthOf n with
      | some m => { z with monthsNext := Tab.put z.monthsNext i m, monthsIdle := Tab.del z.monthsIdle i }
      | none => { z with
          monthsNext := Tab.del z.monthsNext i
          monthsIdle := Tab.put z.monthsIdle i (v &&& 0x1F00FFFFFFFFFFFF) }
  else match off with
    | 0x10 => s.updSeason fun z => { z with source := bit n 0, priority := BitVec.ofNat 8 (n / 256) }
    | 0x28 => s.updSeason fun z => { z with ppsBase := v }
    | 0x30 => s.updSeason fun z => { z with holdoverMax := v }
    | 0x400 =>
      let s := s.updSeason fun z => { z with yearLog2 := BitVec.ofNat 5 n }
      if bit n 8 then
        let at_ := s.yearStartAfter (s.now + 1000000)
        s.updSeason fun z => { z with commitAt := some at_ }
      else s.updSeason fun z => { z with commitAt := none }
    | 0x408 => s.updSeason fun z => { z with yearBase := v }
    | 0x410 => s.updSeason fun z => { z with handoverLead := v }
    | _ => s

/-- Firmware writes a register of control space, 8 bytes. -/
def State.fwWrite (s : State) (off : Nat) (v : Word) : State := match blockAt off with
  | (.sea, o) => s.seaWrite o v
  | (.mh m, o) => s.mhWrite m o v
  | (.fab f, o) => s.fabWrite f o v
  | _ => s

end Sys2Proof.Machine
end

