-- ==== Sys2Proof/Machine/Services.lean ====
section
/-! DEFINITION. The services of Filina (16 R525 to R547, 17 R559): taking commands, the checks that every command passes,
completions, notices, and the rings of the host channels as firmware sees them. -/

namespace Sys2Proof.Machine

open Sys2Proof

/-! ## Statuses and answers -/

/-- The statuses of a completion (16 R546). -/
inductive Status where
  | ok
  | deferred
  | refused
  | stateConflict
  | invalidArgument
  | noResource
  | denied
  | abortedByReset
  | faulted
  | unsupported
deriving DecidableEq, Repr

def Status.code : Status → Nat
  | .ok => 0
  | .deferred => 1
  | .refused => 2
  | .stateConflict => 3
  | .invalidArgument => 4
  | .noResource => 5
  | .denied => 6
  | .abortedByReset => 7
  | .faulted => 8
  | .unsupported => 9

/-- What a command answers. A result word that no rule states is `none`, and is then a free value (log entry 2). -/
structure Answer where
  status : Status
  r0 : Option Word := none
  r1 : Option Word := none
deriving DecidableEq, Repr

/-- A stated result word, or a free one. -/
def State.resultWord (s : State) : Option Word → Word × State
  | some v => (v, s)
  | none => (Config.freeWord s.free, { s with free := s.free + 1 })

/-! ## Fields of an entry (16 R536) -/

def Taken.op (t : Taken) : Nat := field t.entry 0 2
def Taken.tag (t : Taken) : Nat := field t.entry 4 4
def Taken.reply (t : Taken) : Nat := field t.entry 8 8
def Taken.byte (t : Taken) (i : Nat) : Nat := field t.entry i 1
def Taken.half (t : Taken) (i : Nat) : Nat := field t.entry i 2
def Taken.word (t : Taken) (i : Nat) : Nat := field t.entry i 4
def Taken.long (t : Taken) (i : Nat) : Nat := field t.entry i 8

/-- The command came through a host channel (16 R525). -/
def Taken.fromHost (t : Taken) : Bool := t.sender.toNat < 0x400

/-- An entry with the sender's SENDER_ID in bytes 2 and 3 (16 R526). -/
def stampEntry (sender : Nat) (e : Bytes) : Bytes := e.take 2 ++ leBytes 2 sender ++ e.drop 4

/-- The partition was ACTIVE when the command was taken, and is not now (16 R546). -/
def State.tornSince (s : State) (t : Taken) (p : Nat) : Bool :=
  p < 32 && t.active.getLsbD p && (s.partition p).state ≠ .active

/-! ## Completion rings of the channels (16 R528, R531, R537) -/

def Channel.enabled (c : Channel) : Bool := c.control.getLsbD 0
def Channel.cmdLog2 (c : Channel) : Nat := fld c.control.toNat 15 8
def Channel.cplLog2 (c : Channel) : Nat := fld c.control.toNat 23 16

/-- The host address of entry `i`, and of completion slot `j`; the PHASE of a slot. -/
def Channel.entryAddr (c : Channel) (i : Nat) : Word := c.cmdBase + BitVec.ofNat 64 (i % 2 ^ c.cmdLog2 * 64)
def Channel.slotAddr (c : Channel) (j : Nat) : Word := c.cplBase + BitVec.ofNat 64 (j % 2 ^ c.cplLog2 * 32)
def Channel.slotPhase (c : Channel) (j : Nat) : Nat := (j / 2 ^ c.cplLog2 + 1) % 2

/-- Commands of a channel that a service holds. -/
def State.inService? (s : State) (n : Nat) : Nat :=
  (s.fw.taken.countP fun t => t.sender.toNat = n) + (s.ckpt.running.countP fun e => e.2.cmd.sender.toNat = n) +
  (match s.fw.testing with
   | some (t, _) => (decide (t.sender.toNat = n)).toNat
   | none => 0)

/-- Fetched entries of a channel that have not completed. -/
def State.uncompleted (s : State) (n : Nat) : Nat := (s.channel n).fetched.length + s.inService? n

/-- The completion ring has room for `k` slots beyond the fetched entries (16 R531). -/
def State.cplRoom (s : State) (n k : Nat) : Bool :=
  let c := s.channel n
  (c.written + BitVec.ofNat 32 (s.uncompleted n + k) - c.cplConsumer).toNat ≤ 2 ^ c.cplLog2

/-- Fetch of a channel is held by R531 or R534, or nothing is pending: its timer does not count (16 R532). -/
def State.chanCounts (s : State) (n : Nat) : Bool :=
  let c := s.channel n
  c.open_ && !c.draining && c.producer ≠ c.consumer && !c.hold && s.cplRoom n 3

/-- The timer of a channel after something that it depends on has changed. -/
def State.retime (s : State) (n : Nat) : State :=
  let counts := s.chanCounts n
  s.updChannel n fun c => { c with
    stall := c.stall + (match c.since with
      | some t => s.time - t
      | none => 0)
    since := if counts then some s.time else none }

/-- The PASID that a channel's requests carry (16 R521). -/
def Channel.pasid? (c : Channel) : Option (BitVec 20) := if c.noPasid then none else some c.pasid

/-- A write into host memory for a channel, and a read request (16 R521). -/
def State.hostWrite (s : State) (n : Nat) (a : Word) (bs : Bytes) : State :=
  if h : n < 1024 then s.emit (.hostWrite ⟨n, h⟩ (s.channel n).pasid? a bs) else s
def State.hostRead (s : State) (n : Nat) (a : Word) (len : Nat) : State :=
  if h : n < 1024 then s.emit (.hostRead ⟨n, h⟩ (s.channel n).pasid? a len) else s

/-- The vector for completions and notices, and the vector for errors, are signalled when enabled (16 R528). -/
def State.signalCpl (s : State) (n : Nat) : State :=
  let i := (s.channel n).intr
  if i.getLsbD 15 then s.emit (.msix (i.extractLsb' 0 11)) else s
def State.signalErr (s : State) (n : Nat) : State :=
  let i := (s.channel n).intr
  if i.getLsbD 31 then s.emit (.msix (i.extractLsb' 16 11)) else s

/-- The 32 bytes of a completion or a notice (16 R537). -/
def cplBytes (tag opcode status flags gen index : Nat) (r0 r1 : Word) : Bytes :=
  leBytes 4 tag ++ leBytes 2 opcode ++ leBytes 1 status ++ leBytes 1 flags ++ leBytes 2 gen ++ leBytes 2 0 ++
  leBytes 4 index ++ leBytes 8 r0.toNat ++ leBytes 8 r1.toNat

/-! ## Notices (16 R538) -/

/-- Continuation slots of a notice. -/
def Notice.extra (x : Notice) : Nat := x.cont.length / 32

/-- A notice is written: its continuation slots first. -/
def State.writeNotice (s : State) (n : Nat) (x : Notice) : State :=
  let c := s.channel n
  let j := c.written.toNat
  let s := (List.range x.extra).foldl (fun s i =>
    s.hostWrite n (c.slotAddr (j + 1 + i)) ((x.cont.drop (32 * i)).take 32)) s
  let flags := c.slotPhase j + 2 + 4 * x.extra
  let s := s.hostWrite n (c.slotAddr j) (cplBytes 0 x.code.toNat 0 flags c.generation.toNat 0xFFFFFFFF x.r0 x.r1)
  (s.updChannel n fun c => { c with written := c.written + BitVec.ofNat 32 (1 + x.extra) }).signalCpl n

/-- Waiting notices are written, in order, as far as there is room. -/
def State.flushNotices (s : State) (n : Nat) : Nat → State
  | 0 => s
  | k + 1 =>
    let c := s.channel n
    match c.notices with
    | [] => s
    | x :: rest =>
      if !c.open_ ∨ c.draining ∨ !c.enabled ∨ !s.fw.up ∨ !s.cplRoom n (1 + x.extra) then s
      else ((s.updChannel n fun c => { c with notices := rest }).writeNotice n x).flushNotices n k

/-- Notices go out and the timer follows. -/
def State.afterRoom (s : State) (n : Nat) : State := (s.flushNotices n 33).retime n

/-- A notice for a channel: at most 32 wait. -/
def State.notify (s : State) (n : Nat) (x : Notice) : State :=
  let c := s.channel n
  if !c.open_ ∨ c.draining then s
  else if c.notices.length ≥ 32 then s.updChannel n fun c => { c with noticeLost := true }
  else (s.updChannel n fun c => { c with notices := c.notices ++ [x] }).afterRoom n

/-- The channels that are open and bound to a partition. -/
def State.boundChannels (s : State) (p : Nat) : List Nat :=
  (s.channels.filter fun e => e.2.open_ && e.2.part = p).map (·.1)

/-- A notice for the channel that created a partition, and, when `bound`, for every channel bound to it. -/
def State.notifyPartition (s : State) (p : Nat) (bound : Bool) (x : Notice) : State :=
  let own := (s.partition p).creator.toNat
  let all := (if own < 0x400 then [own] else []) ++ (if bound then (s.boundChannels p).filter (· ≠ own) else [])
  all.foldl (fun s n => s.notify n x) s

/-- A notice in a partition's notice area (16 R539), which ends a WFI of its stewards. -/
def State.noticeArea (s : State) (p code : Nat) (r0 r1 : Word) : State :=
  let x := s.partition p
  if x.faultArea = 0 then s
  else
    let k := x.notices + 1
    let a := x.faultArea + 0x400 + (k - 1) % 64 * 64
    let s := s.updPartition p fun x => { x with notices := k }
    (s.poke p a (leBytes 8 k ++ leBytes 2 code ++ zeros 6 ++ leBytes 8 r0.toNat ++ leBytes 8 r1.toNat ++ zeros 32)).wakeStewards p

/-! ## Completing a command (16 R530, R533, R536, R537) -/

/-- A completion on a channel's ring; none is written for a draining channel. -/
def State.completeHost (s : State) (t : Taken) (st : Status) (r0 r1 : Word) : State :=
  let n := t.sender.toNat
  let c := s.channel n
  if !c.open_ ∨ c.draining then s
  else
    let j := c.written.toNat
    let s := s.hostWrite n (c.slotAddr j)
      (cplBytes t.tag t.op st.code (c.slotPhase j) c.generation.toNat t.index.toNat r0 r1)
    ((s.updChannel n fun c => { c with written := c.written + 1 }).signalCpl n).afterRoom n

/-- A completion at REPLY, and then REPLY_SEM. -/
def State.completeInternal (s : State) (t : Taken) (st : Status) (r0 r1 : Word) : State :=
  let s := if t.reply = 0 then s
    else s.poke t.part t.reply (cplBytes t.tag t.op st.code 1 s.fw.resets.toNat 0 r0 r1)
  let b := t.byte 16
  if bit b 7 then s.semAdd t.part (b % 64) 1 serviceUnit else s

/-- A command completes. -/
def State.finishCommand (s : State) (t : Taken) (a : Answer) : State :=
  let (r0, s) := s.resultWord a.r0
  let (r1, s) := s.resultWord a.r1
  if t.fromHost then s.completeHost t a.status r0 r1 else s.completeInternal t a.status r0 r1

/-! ## The checks of R546 -/

/-- Who may issue a command (16 R545). -/
inductive Issuer where
  | manager
  /-- A sender bound to the partition that this byte of the entry names, or the manager. -/
  | owner (at_ : Nat)
  /-- The manager, or the channel that bytes 24 and 25 name. -/
  | closer
  | anyone
deriving DecidableEq, Repr

/-- What the table of commands says of one: its issuer, the package states, the PARAM bytes in use as (first, last),
and the byte that names a partition. -/
structure Rule where
  issuer : Issuer
  states : List PkgState
  used : List (Nat × Nat)
  names : Option Nat := none
deriving DecidableEq, Repr

/-- The sender has the right. -/
def Issuer.allows (i : Issuer) (t : Taken) : Bool :=
  t.part = 0 || match i with
  | .manager => false
  | .owner b => t.part = t.byte b
  | .closer => t.fromHost && t.half 24 = t.sender.toNat
  | .anyone => true

/-- Reserved bytes are zero, and REPLY and REPLY_SEM too from a host channel (16 R536, R545). -/
def Rule.reservedOk (u : Rule) (t : Taken) : Bool :=
  allZero ((t.entry.drop 17).take 7) && !bit (t.byte 16) 6 &&
  (!t.fromHost || allZero ((t.entry.drop 8).take 9)) &&
  (List.range 40).all fun i => (u.used.any fun e => e.1 ≤ 24 + i && 24 + i ≤ e.2) || t.byte (24 + i) = 0

/-- The checks that come before a command's own, in their order; `none` passes. A partition that was torn down comes before
the reserved bytes (log entry 116). -/
def State.precheck (s : State) (u : Rule) (t : Taken) : Option Status :=
  if !u.issuer.allows t then some .denied
  else if !u.states.contains s.mgmt.state then some .stateConflict
  else if (u.names.map fun b => s.tornSince t (t.byte b)) = some true then some .faulted
  else if !u.reservedOk t then some .invalidArgument
  else none

/-! ## Parameter blocks (16 R536) -/

/-- The bytes of a PBLOCK: from host memory, read under the channel's PASID with the answer that the command brings, or
from the sender's memory. -/
def State.readPblock (s : State) (t : Taken) (host : Option Bytes) (a n : Nat) : Except Status Bytes × State :=
  if t.fromHost then
    let s := s.hostRead t.sender.toNat (BitVec.ofNat 64 a) n
    match host with
    | none => (.error .faulted, s)
    | some bs => (.ok (padTo n bs), s)
  else if !s.owns t.part a n then (.error .invalidArgument, s)
  else match s.peek t.part a n with
    | (.ok bs, s) => (.ok bs, s)
    | (.error _, s) => (.error .faulted, s)

/-! ## Which command is executed -/

/-- The checkpoint commands (17 R559). -/
def isCkpt (op : Nat) : Bool := 0x60 ≤ op && op ≤ 0x6F

/-- The partition under which the checkpoint service orders a command: the one that it names, else the sender's. -/
def Taken.ckptKey (t : Taken) : Nat := if [0x60, 0x61, 0x65, 0x66].contains t.op then t.byte 24 else t.part

/-- The command of an opcode that a service executes next. The command service executes in the order of taking (16
R547); the checkpoint service one command per partition at a time (17 R559). -/
def State.nextFor (s : State) (op : Nat) : Option Taken :=
  if !s.fw.up then none
  else if isCkpt op then
    let l := s.fw.taken.filter fun t => isCkpt t.op
    l.find? fun t => t.op = op && (s.ckpt.running.all fun e => e.1 ≠ t.ckptKey) &&
      (l.find? fun u => u.ckptKey = t.ckptKey) = some t
  else match s.fw.taken.filter fun t => !isCkpt t.op with
    | t :: _ => if t.op = op && s.fw.testing.isNone then some t else none
    | [] => none

/-- A command is executed: its checks, its own part, and its completion unless its own part goes on. After an OK
completion comes `after`. -/
def State.commandThen (s : State) (op : Nat) (u : Rule) (body : State → Taken → Option Answer × State)
    (after : State → Taken → State) : State :=
  match s.nextFor op with
  | none => s
  | some t =>
    let s := s.updFw fun f => { f with taken := f.taken.erase t }
    match s.precheck u t with
    | some st => s.finishCommand t ⟨st, none, none⟩
    | none =>
      match body s t with
      | (none, s) => s
      | (some a, s) =>
        let s := s.finishCommand t a
        if a.status = .ok then after s t else s

/-- A command that completes at once. -/
def State.command (s : State) (op : Nat) (u : Rule) (body : State → Taken → Answer × State) : State :=
  s.commandThen op u (fun s t => let (a, s) := body s t; (some a, s)) fun s _ => s

/-! ## Taking (16 R543, R544) -/

/-- The opcodes of the command set. -/
def listedCommand (op : Nat) : Bool :=
  [0x0001, 0x0002, 0x0003, 0x0004, 0x0005, 0x0010, 0x0011, 0x0012, 0x0013, 0x0018, 0x0019, 0x0020, 0x0021, 0x0028,
   0x0029, 0x002A, 0x0030, 0x0031, 0x0032, 0x0038, 0x0039, 0x003A, 0x003B, 0x0060, 0x0061, 0x0062, 0x0063, 0x0064,
   0x0065, 0x0066, 0x0067].contains op

/-- A REPLY that is not a multiple of 32 or does not lie in the sender's memory (16 R536, R544). -/
def State.badReply (s : State) (t : Taken) : Bool :=
  !t.fromHost && t.reply ≠ 0 && (t.reply % 32 ≠ 0 || !s.owns t.part t.reply 32)

/-- Partitions that are ACTIVE, as a mask. -/
def State.activeMask (s : State) : BitVec 32 :=
  s.partitions.foldl (fun m e => if e.2.state = .active then m ||| (1#32 <<< e.1) else m) 0

/-- A service takes a command. -/
def State.accept (s : State) (t : Taken) : State :=
  let t := { t with active := s.activeMask }
  if t.readError then s.finishCommand t ⟨.faulted, none, none⟩
  else if s.badReply t then
    s.raise t.part { s.recordOpen 0x0901 serviceUnit (BitVec.ofNat 64 t.reply) with
      d0 := BitVec.ofNat 64 t.op, d1 := t.sender.setWidth 64 }
  else if !listedCommand t.op then s.finishCommand t ⟨.unsupported, none, none⟩
  else s.updFw fun f => { f with taken := f.taken ++ [t] }

/-- The command service executes no command. -/
def State.serviceIdle (s : State) : Bool :=
  s.fw.testing.isNone && s.fw.taken.all fun t => isCkpt t.op

/-- The senders that the command service polls and that have a command, in their order: mailbox m as m, channel n as
48 + n. -/
def State.readyKeys (s : State) : List Nat :=
  ((s.fw.mailboxes.filter fun e => e.1 < 32 && !e.2.isEmpty).map (·.1)) ++
  ((s.channels.filter fun e => !e.2.fetched.isEmpty && s.inService? e.1 = 0).map fun e => 48 + e.1)

/-- The mailboxes of the checkpoint service that hold a command. -/
def State.ckptKeys (s : State) : List Nat :=
  (s.fw.mailboxes.filter fun e => 32 ≤ e.1 && e.1 < 48 && !e.2.isEmpty).map (·.1)

/-- The command at the head of a mailbox is taken. -/
def State.takeMailbox (s : State) (m : Nat) : State :=
  match Tab.get [] s.fw.mailboxes m with
  | [] => s
  | t :: rest => (s.updFw fun f => { f with mailboxes := Tab.put f.mailboxes m rest }).accept t

/-- The next fetched command of a channel is taken. -/
def State.takeChannel (s : State) (n : Nat) : State :=
  match (s.channel n).fetched with
  | [] => s
  | t :: rest => (s.updChannel n fun c => { c with fetched := rest }).accept t

/-- A service takes its next command: the command service round-robin while it executes none, the checkpoint service
from its mailboxes; which of the two comes first is not fixed (log entry 2). -/
def State.serviceTake (s : State) : State :=
  if !s.fw.up then s
  else
    let ready := if s.serviceIdle then s.readyKeys else []
    let (pick, s) := s.draw
    match ready, s.ckptKeys with
    | [], [] => s
    | [], m :: ms => s.takeMailbox ((m :: ms).getD (pick / 2 % (m :: ms).length) m)
    | k :: ks, l =>
      if pick % 2 = 1 ∧ !l.isEmpty then s.takeMailbox (l.getD (pick / 2 % l.length) 32)
      else
        let key := ((k :: ks).find? fun j => s.fw.rr < j).getD k
        let s := s.updFw fun f => { f with rr := key }
        if key < 48 then s.takeMailbox key else s.takeChannel (key - 48)

/-- The row COMMAND_SERVICE_TAKE (16 R543). -/
def execCommandServiceTake (s : State) : Host.Outcome State Fault Refusal := .next s.serviceTake

end Sys2Proof.Machine
end

