-- ==== Sys2Proof/Machine/Commands.lean ====
section
/-! DEFINITION. The firmware commands of 16 R545 other than those of partitions and the schedule: channels, pools (09),
groups (13), Season, telemetry, routing (12), the package states (18 R579, R581), slices and memory test (10). -/

namespace Sys2Proof.Machine

open Sys2Proof

/-! ## Channels (16 R527, R533) -/

/-- Channel 0 bound to function 0, without a PASID, and to partition 0 (16 R527). -/
def Channel.management : Channel := { Channel.closed with open_ := true, noPasid := true }

/-- The binding of a channel is held by an open one (16 R527). -/
def State.bindingUsed (s : State) (noPasid : Bool) (pasid : BitVec 20) : Bool :=
  s.channels.any fun e => e.2.open_ && e.2.noPasid = noPasid && (noPasid || e.2.pasid = pasid)

/-- CH_OPEN. -/
def State.chOpen (s : State) (t : Taken) : Answer × State :=
  let n := t.half 24
  let w := t.word 28
  let p := t.byte 32
  let c := s.channel n
  let st := (s.partition p).state
  if n = 0 ∨ n > 1023 ∨ fld w 30 20 ≠ 0 ∨ p > 31 then (⟨.invalidArgument, none, none⟩, s)
  else if c.open_ ∨ c.draining ∨ s.bindingUsed (bit w 31) (BitVec.ofNat 20 w) ∨ (st ≠ .active ∧ st ≠ .deferred) then
    (⟨.stateConflict, none, none⟩, s)
  else
    let new := { Channel.closed with open_ := true, part := p, noPasid := bit w 31, pasid := BitVec.ofNat 20 w }
    (⟨.ok, some (BitVec.ofNat 64 n), none⟩, s.updChannel n fun _ => new)

/-- The row CH_OPEN (16 R527). -/
def execChOpen (s : State) : Host.Outcome State Fault Refusal :=
  .next (s.command 1 ⟨.manager, [.service, .quiesced], [(24, 25), (28, 32)], some 32⟩ fun s t => s.chOpen t)

/-- A sender reset of a channel (16 R533): its unfetched entries and its notices are discarded, and it drains. -/
def State.senderReset (s : State) (n : Nat) : State :=
  if !(s.channel n).open_ ∨ (s.channel n).draining then s
  else (s.updChannel n fun c => { c with producer := c.consumer, notices := [], draining := true }).retime n

/-- CH_CLOSE. -/
def State.chClose (s : State) (t : Taken) : Answer × State :=
  let n := t.half 24
  if n = 0 ∨ n > 1023 then (⟨.invalidArgument, none, none⟩, s)
  else if !(s.channel n).open_ ∨ (s.channel n).draining then (⟨.stateConflict, none, none⟩, s)
  else (⟨.ok, none, none⟩, s)

/-- The row CH_CLOSE (16 R533): the channel drains after the command's own completion. -/
def execChClose (s : State) : Host.Outcome State Fault Refusal :=
  .next (s.commandThen 2 ⟨.closer, [.service, .quiesced], [(24, 25)], none⟩
    (fun s t => let (a, s) := s.chClose t; (some a, s)) fun s t => s.senderReset (t.half 24))

/-- WINDOW_MAP (16 R524). -/
def State.windowMap (s : State) (t : Taken) : Answer × State :=
  let b := t.long 32
  if b % 0x40000000 ≠ 0 ∨ b + 0x1000000000 > ctrlBase then (⟨.invalidArgument, none, none⟩, s)
  else (⟨.ok, none, none⟩, s.updFw fun f => { f with windowBase := BitVec.ofNat 48 b })

/-- The row WINDOW_MAP (16 R524). -/
def execWindowMap (s : State) : Host.Outcome State Fault Refusal :=
  .next (s.command 3 ⟨.manager, [.service, .quiesced], [(32, 39)], none⟩ fun s t => s.windowMap t)

/-! ## The package (16 R545, 18 R579, R581) -/

def allStates : List PkgState := [.off, .coldStart, .warmStart, .service, .quiesced, .haltRefused]

/-- The row PKG_QUERY (16 R545). -/
def execPkgQuery (s : State) : Host.Outcome State Fault Refusal :=
  .next (s.command 4 ⟨.anyone, allStates, [], none⟩ fun s _ =>
    (⟨.ok, some (BitVec.ofNat 64 s.mgmt.state.code), some (s.dieFail.setWidth 64)⟩, s))

/-- A firmware reset begins: every service is down (16 R534, R543). -/
def State.firmwareDown (s : State) : State := s.updFw fun f => { f with up := false }

/-- The row FW_RESET (16 R534): the reset begins after the completion. -/
def execFwReset (s : State) : Host.Outcome State Fault Refusal :=
  .next (s.commandThen 5 ⟨.manager, allStates, [], none⟩ (fun s _ => (some ⟨.ok, none, none⟩, s))
    fun s _ => s.firmwareDown)

/-- A partition but 0 keeps the package from QUIESCED. -/
def State.busyPartition (s : State) : Bool := s.partitions.any fun e =>
  e.1 ≠ 0 && (e.2.state = .active || e.2.state = .teardown || e.2.state = .deferred)

/-- The row QUIESCE (16 R545). -/
def execQuiesce (s : State) : Host.Outcome State Fault Refusal :=
  .next (s.command 0x38 ⟨.manager, [.service], [], none⟩ fun s _ =>
    if s.busyPartition then (⟨.stateConflict, none, none⟩, s)
    else (⟨.ok, none, none⟩, s.updMgmt fun m => { m with state := .quiesced }))

/-- A port is expected (11 R363). -/
def State.portExpected (s : State) (n : Nat) : Bool := match portRole n with
  | 0 => true
  | 1 => 1 < s.dimSize (lPort n).1
  | _ => s.fabric.dimInForce.getLsbD (if n = 48 then 12 else 13)

/-- Every expected port is UP (11 R387). -/
def State.portsUp (s : State) : Bool := (List.range 56).all fun n => !s.portExpected n || (s.port n).state = .up

/-- The package enters SERVICE: channel 0 is bound (16 R527) and partition 0 exists (15 R489). -/
def State.enterService (s : State) : State :=
  let s := if (s.channel 0).open_ then s else s.updChannel 0 fun _ => Channel.management
  let s := if (s.partition 0).state = .absent then s.updPartition 0 fun x => { x with state := .active } else s
  s.updMgmt fun m => { m with state := .service }

/-- The row RESUME (18 R581). -/
def execResume (s : State) : Host.Outcome State Fault Refusal :=
  .next (s.command 0x39 ⟨.manager, [.quiesced], [], none⟩ fun s _ =>
    if s.portsUp then (⟨.ok, none, none⟩, s.enterService) else (⟨.stateConflict, none, none⟩, s))

/-! ## Pools (09 R306 to R308, R321, R322) -/

/-- A range lies in the data range of one HBM region that a partition owns. -/
def State.inRegion (s : State) (p a n : Nat) (correct : Bool) : Bool :=
  let x := s.partition p
  x.state ≠ .absent && x.state ≠ .faulted &&
  x.regions.any fun i => match Tab.get? s.regions i with
    | some r => r.start ≤ a && a + n ≤ r.start + r.dataLen && (!correct || !r.detect)
    | none => false

/-- The size of a class's buffers, and the bytes of a pool's metadata (09 R306, R307). -/
def classSize (cls : Nat) : Nat := if cls = 0 then 0x1000 else if cls = 1 then 0x10000 else 0x100000
def metaBytes (count : Nat) : Nat := 4 * count + count / 8 + 2 * count

/-- A pool as POOL_CREATE makes it. -/
def Pool.new (p cls count base meta_ : Nat) : Pool where
  owner := p
  cls := cls
  count := count
  base := base
  metaAddr := meta_
  grant := 0
  cache := []
  ringHead := 0
  ringTail := count
  low := count

/-- POOL_CREATE. -/
def State.poolCreate (s : State) (t : Taken) : Answer × State :=
  let p := t.byte 24
  let q := t.byte 25
  let cls := t.byte 26
  let count := t.word 28
  let base := t.long 32
  let meta_ := t.long 40
  let size := classSize cls
  let overlap := s.pools.any fun e => base < e.2.base + e.2.count * e.2.bufSize && e.2.base < base + count * size
  if p > 31 ∨ q > 7 ∨ cls > 2 ∨ count % 512 ≠ 0 ∨ count < 512 ∨ count > 67108864 ∨ base % size ≠ 0 ∨ meta_ % 4096 ≠ 0 ∨
      !s.inRegion p base (count * size) false ∨ !s.inRegion p meta_ (metaBytes count) true then
    (⟨.invalidArgument, none, none⟩, s)
  else if (s.partition p).state ≠ .active ∨ (Tab.get? s.pools (p * 8 + q)).isSome ∨ overlap then
    (⟨.stateConflict, none, none⟩, s)
  else
    let ring := (List.range count).flatMap fun i => leBytes 4 i
    let s := s.poke p (meta_) (ring ++ zeros (metaBytes count - 4 * count))
    (⟨.ok, none, none⟩, { s with pools := Tab.put s.pools (p * 8 + q) (Pool.new p cls count base meta_) })

/-- The row POOL_CREATE (09 R306). -/
def execPoolCreate (s : State) : Host.Outcome State Fault Refusal :=
  .next (s.command 0x18 ⟨.manager, [.service], [(24, 26), (28, 47)], some 24⟩ fun s t => s.poolCreate t)

/-- A pool goes; the partitions in its grant mask lose it (09 R322). -/
def State.destroyPool (s : State) (n : Nat) (x : Pool) : State :=
  let s := { s with pools := Tab.del s.pools n }
  ((List.range 32).filter fun g => x.grant.getLsbD g).foldl (fun s g =>
    s.raise g { s.recordOpen 0x0707 (poolUnit n) 0 with
      d0 := BitVec.ofNat 64 n, d2 := BitVec.ofNat 64 x.owner }) s

/-- POOL_DESTROY. -/
def State.poolDestroy (s : State) (t : Taken) : Answer × State :=
  let p := t.byte 24
  let q := t.byte 25
  if p > 31 ∨ q > 7 then (⟨.invalidArgument, none, none⟩, s)
  else match Tab.get? s.pools (p * 8 + q) with
    | none => (⟨.stateConflict, none, none⟩, s)
    | some x => (⟨.ok, none, none⟩, s.destroyPool (p * 8 + q) x)

/-- The row POOL_DESTROY (09 R321). -/
def execPoolDestroy (s : State) : Host.Outcome State Fault Refusal :=
  .next (s.command 0x19 ⟨.manager, [.service], [(24, 25)], some 24⟩ fun s t => s.poolDestroy t)

/-! ## Groups (13 R432 to R436) -/

/-- Trailing zero bits of a position, its left child and its right child among n positions. -/
def trailing : Nat → Nat → Nat
  | 0, _ => 0
  | k + 1, p => if p % 2 = 0 then trailing k (p / 2) + 1 else 0
def leftChild (p : Nat) : Option Nat :=
  let h := trailing 16 p
  if h ≥ 1 then some (p - 2 ^ (h - 1)) else none
def rightChild (n p : Nat) : Option Nat :=
  let h := trailing 16 p
  (((List.range h).reverse).find? fun s => p + 2 ^ s ≤ n).map fun s => p + 2 ^ s
def parentOf (n p : Nat) : Option Nat :=
  ((List.range n).map (· + 1)).find? fun q => leftChild q = some p || rightChild n q = some p

/-- Parent, left and right of a member in a tree, as member indices (13 R436). -/
def treeNbrs (tree n i : Nat) : Option Nat × Option Nat × Option Nat :=
  let p := treePos tree n i
  ((parentOf n p).map (treeIdx tree n), (leftChild p).map (treeIdx tree n), (rightChild n p).map (treeIdx tree n))

/-- The member list that the bytes at LIST hold. -/
def memberList (bs : Bytes) (n : Nat) : List Nat := (List.range n).map fun i => field bs (2 * i) 2

/-- A list that R433 refuses. -/
def State.badList (s : State) (l : List Nat) : Bool :=
  !(l.zip l.tail).all (fun e => e.1 < e.2) || l.any (fun m => 0x8000 ≤ m || !s.inDims (BitVec.ofNat 15 m)) ||
  !l.contains s.self.toNat

/-- The tray leaders of a list: the first member of each tray (13 R433). -/
def trayLeaders (l : List Nat) : List Nat :=
  (List.range l.length).filter fun i => i = 0 || l.getD i 0 / 16 ≠ l.getD (i - 1) 0 / 16

/-- The entry that firmware computes. -/
def State.groupOf (s : State) (p list : Nat) (bs : Bytes) (l : List Nat) : Group :=
  let n := l.length
  let self := l.idxOf s.self.toNat
  let leaders := trayLeaders l
  let tray := s.self.toNat / 16
  let mine := (leaders.filter fun i => l.getD i 0 / 16 = tray).headD 0
  { owner := p, job := (s.partition p).job, listDigest := crc64 bs, list := list
    members := l.map (BitVec.ofNat 15), self := self, trays := leaders.length, trayIndex := leaders.idxOf mine
    nw := treeNbrs 0 n self, sw := treeNbrs 1 n self
    mask := (l.filter fun m => m / 16 = tray && m ≠ s.self.toNat).foldl (fun a m => a ||| (1#16 <<< (m % 16))) 0
    leader := mine, leaders := leaders }

/-- Work on a group is armed (13 R434). -/
def State.groupArmed (s : State) (g : Nat) : Bool :=
  (s.colls.any fun c => c.group.toNat = g) || s.steps.any fun e => e.2.d.group.toNat = g

/-- A group is written, with its tray leader table; what was kept of its last collectives goes. -/
def State.putGroup (s : State) (g p : Nat) (x : Group) : State :=
  let table := x.leaders.flatMap (leBytes 2)
  let s := s.poke p (roundUp (x.list + 2 * x.members.length) 64) table
  { s with groups := Tab.put s.groups g x, collPast := s.collPast.filter fun c => c.group.toNat ≠ g }

/-- GROUP_DEFINE after the range of its parameters. -/
def State.groupDefineList (s : State) (g p list n : Nat) : Answer × State :=
  match s.peek p list (2 * n) with
  | (.error _, s) => (⟨.faulted, none, none⟩, s)
  | (.ok bs, s) =>
    let l := memberList bs n
    let old := Tab.get? s.groups g
    if s.badList l then (⟨.invalidArgument, none, none⟩, s)
    else if (s.partition p).state ≠ .active ∨ (old.map (·.owner)).getD p ≠ p ∨ (old.isSome ∧ s.groupArmed g) then
      (⟨.stateConflict, none, none⟩, s)
    else
      let x := s.groupOf p list bs l
      if !s.owns p list (roundUp (2 * n) 64 + 2 * x.leaders.length) then (⟨.invalidArgument, none, none⟩, s)
      else (⟨.ok, none, none⟩, s.putGroup g p x)

/-- GROUP_DEFINE. -/
def State.groupDefine (s : State) (t : Taken) : Answer × State :=
  let g := t.half 24
  let p := t.byte 26
  let list := t.long 32
  let n := t.half 40
  if g > 4095 ∨ p > 31 ∨ list % 64 ≠ 0 ∨ n = 0 ∨ n > 32768 ∨ !s.inRegion p list (2 * n) false then
    (⟨.invalidArgument, none, none⟩, s)
  else s.groupDefineList g p list n

/-- The row GROUP_DEFINE (13 R433). -/
def execGroupDefine (s : State) : Host.Outcome State Fault Refusal :=
  .next (s.command 0x20 ⟨.owner 26, [.service], [(24, 26), (32, 41)], some 26⟩ fun s t => s.groupDefine t)

/-- GROUP_DESTROY. -/
def State.groupDestroy (s : State) (t : Taken) : Answer × State :=
  let g := t.half 24
  let p := t.byte 26
  if g > 4095 ∨ p > 31 then (⟨.invalidArgument, none, none⟩, s)
  else if ((Tab.get? s.groups g).map (·.owner)) ≠ some p ∨ s.groupArmed g then (⟨.stateConflict, none, none⟩, s)
  else
    let past := s.collPast.filter fun c => c.group.toNat ≠ g
    (⟨.ok, none, none⟩, { s with groups := Tab.del s.groups g, collPast := past })

/-- The row GROUP_DESTROY (13 R434). -/
def execGroupDestroy (s : State) : Host.Outcome State Fault Refusal :=
  .next (s.command 0x21 ⟨.owner 26, [.service], [(24, 26)], some 26⟩ fun s t => s.groupDestroy t)

/-! ## Season and telemetry (02 R80, 12 R428, R429) -/

/-- SEASON_SET. -/
def State.seasonSet (s : State) (t : Taken) : Answer × State :=
  let m := t.byte 24
  if m > 7 then (⟨.invalidArgument, none, none⟩, s)
  else
    let s := if bit m 0 then s.seaWrite 0x10 (BitVec.ofNat 64 (t.long 32)) else s
    let s := if bit m 1 then s.seaWrite 0x28 (BitVec.ofNat 64 (t.long 40)) else s
    let s := if bit m 2 then s.seaWrite 0x30 (BitVec.ofNat 64 (t.long 48)) else s
    (⟨.ok, none, none⟩, s)

/-- The row SEASON_SET (02 R80). -/
def execSeasonSet (s : State) : Host.Outcome State Fault Refusal :=
  .next (s.command 0x28 ⟨.manager, [.service, .quiesced], [(24, 24), (32, 55)], none⟩ fun s t => s.seasonSet t)

/-- WV_SET: the ranges of R430 bind a configuration that enables sampling. -/
def State.wvSet (s : State) (t : Taken) : Answer × State :=
  let p := t.byte 24
  let n := t.byte 25
  let on := t.byte 26
  let base := BitVec.ofNat 64 (t.long 32)
  let size := t.word 40
  let badRing := n < 6 || n > 20 || size = 0 || !canonical base || gPkg base ≠ s.self || gLocal base % 64 ≠ 0 ||
    !s.owns p (gLocal base) (64 + size * 128)
  if p > 31 ∨ n > 31 ∨ on > 1 ∨ size ≥ 2 ^ 24 ∨ (on = 1 ∧ badRing) then (⟨.invalidArgument, none, none⟩, s)
  else if (s.partition p).state ≠ .active then (⟨.stateConflict, none, none⟩, s)
  else
    let entry := { Vane.reset with n := BitVec.ofNat 5 n, on := on == 1, base := base, size := BitVec.ofNat 24 size }
    (⟨.ok, none, none⟩, s.updFabric fun b => { b with wv := Tab.put b.wv p entry })

/-- The row WV_SET (12 R428). -/
def execWvSet (s : State) : Host.Outcome State Fault Refusal :=
  .next (s.command 0x29 ⟨.owner 24, [.service], [(24, 26), (32, 43)], some 24⟩ fun s t => s.wvSet t)

/-- The row ANEM_SELECT (12 R429). -/
def execAnemSelect (s : State) : Host.Outcome State Fault Refusal :=
  .next (s.command 0x2A ⟨.manager, [.service, .quiesced], [(24, 31)], none⟩ fun s t =>
    (⟨.ok, none, none⟩, s.fabWrite 0 0xA000 (BitVec.ofNat 64 (t.long 24))))

/-! ## Routing (12 R413, R426) -/

/-- The table slots whose VALID is 0. -/
def State.freeTables (s : State) : List Nat :=
  [0, 1].filter fun j => !(Tab.get RouteTable.invalid s.fabric.tables j).valid

/-- A routing table from its 40 bytes; reserved bits read as zero (00 R8). -/
def routeOf (epoch : Nat) (b : Bytes) : RouteTable :=
  let w (i : Nat) : Word := BitVec.ofNat 64 (field b (8 * i) 8) &&& 0xF3F3F3F3F3F3F3F3
  ⟨true, BitVec.ofNat 2 epoch, w 0, w 1, w 2, w 3, w 4⟩

/-- ROUTE_LOAD: of two free slots either may take the table (log entry 2). -/
def State.routeLoad (s : State) (t : Taken) (host : Option Bytes) : Answer × State :=
  let e := t.byte 24
  if e > 3 then (⟨.invalidArgument, none, none⟩, s)
  else match s.readPblock t host (t.long 32) 40 with
    | (.error st, s) => (⟨st, none, none⟩, s)
    | (.ok b, s) =>
      let (slot, s) := s.pick s.freeTables
      match slot with
      | none => (⟨.stateConflict, none, none⟩, s)
      | some j => (⟨.ok, none, none⟩, s.updFabric fun x => { x with tables := Tab.put x.tables j (routeOf e b) })

/-- The row ROUTE_LOAD (12 R426). -/
def execRouteLoad (pblock : Option Bytes) (s : State) : Host.Outcome State Fault Refusal :=
  .next (s.command 0x30 ⟨.manager, [.service, .quiesced], [(24, 24), (32, 39)], none⟩ fun s t => s.routeLoad t pblock)

/-- The row ROUTE_SWITCH (12 R426). -/
def execRouteSwitch (s : State) : Host.Outcome State Fault Refusal :=
  .next (s.command 0x31 ⟨.manager, [.service], [(32, 39)], none⟩ fun s t =>
    if t.long 32 < s.now + 1000000 then (⟨.invalidArgument, none, none⟩, s)
    else (⟨.ok, none, none⟩, s.updFabric fun b => { b with epochAt := BitVec.ofNat 64 (t.long 32) }))

/-- The row XACT_TIMEOUT_SET (12 R413). -/
def execXactTimeoutSet (s : State) : Host.Outcome State Fault Refusal :=
  .next (s.command 0x32 ⟨.manager, [.service, .quiesced], [(24, 27)], none⟩ fun s t =>
    if t.word 24 < 1000 ∨ t.word 24 > 40000 then (⟨.invalidArgument, none, none⟩, s)
    else (⟨.ok, none, none⟩, s.updFabric fun b => { b with timeout := BitVec.ofNat 16 (t.word 24) }))

/-! ## Slices and memory test (10 R345, R354) -/

/-- Bytes of a slice window are lost: they read as memory that nothing has written (log entry 3). -/
def State.loseRange (s : State) (a n : Nat) : State :=
  { s with mem := memClear s.mem a n, poison := s.poison.filter fun b => b * 64 < a || a + n ≤ b * 64 }

/-- A slice changes its mode: dirty lines are written back, the cache is empty, and what the window no longer backs is
lost (10 R345). -/
def State.setSlice (s : State) (m mode : Nat) : State :=
  let s := (s.hub m).lines.foldl State.writeBackLine s
  let s := s.updHub m fun h => { h with lines := [], mode := BitVec.ofNat 2 mode }
  s.loseRange (llmBase + m * 0x6000000 + llmBacked mode) (0x6000000 - llmBacked mode)

/-- Firmware writes MH_LLM_CFG: in QUIESCED alone, and in all eight hubs (10 R345, R359). -/
def State.sliceModes (s : State) (v : Word) : State :=
  if s.mgmt.state ≠ .quiesced ∨ fld v.toNat 1 0 = 3 then s
  else (List.range 8).foldl (fun s m => s.setSlice m (fld v.toNat 1 0)) s

/-- The row LLM_MODE (10 R345). -/
def execLlmMode (s : State) : Host.Outcome State Fault Refusal :=
  .next (s.command 0x3A ⟨.manager, [.quiesced], [(24, 25)], none⟩ fun s t =>
    if t.byte 25 > 2 then (⟨.invalidArgument, none, none⟩, s)
    else (⟨.ok, none, none⟩, ((List.range 8).filter fun m => bit (t.byte 24) m).foldl (fun s m => s.setSlice m (t.byte 25)) s))

/-- The channels that a MEM_TEST names. -/
def testChannels (c : Nat) : List Nat := if c = 0xFF then List.range 96 else [c]

/-- MEM_TEST begins: the generators of its channels start. -/
def State.memTest (s : State) (t : Taken) : Option Answer × State :=
  let m := t.byte 24
  let c := t.byte 25
  if m > 7 ∨ (c > 95 ∧ c ≠ 0xFF) then (some ⟨.invalidArgument, none, none⟩, s)
  else
    let l := testChannels c
    let ctrl := BitVec.ofNat 64 (t.long 32) &&& 0xFFFFFFFF00F8
    let s := l.foldl (fun s ch => (s.updGen m ch fun g => { g with ctrl := ctrl }).startGen m ch) s
    (none, s.updFw fun f => { f with testing := some (t, m, l) })

/-- MEM_TEST ends once every generator has: the mismatches summed, and the row of the first; without a mismatch no rule
gives a row. -/
def State.memTestEnd (s : State) (t : Taken) (m : Nat) (l : List Nat) : State :=
  let gens := l.map fun ch => Tab.get TrafficGen.zero (s.hub m).gens ch
  if gens.any (·.busy) then s
  else
    let row := (gens.find? fun g => g.errors ≠ 0).map fun g => g.firstRow.setWidth 64
    (s.updFw fun f => { f with testing := none }).finishCommand t
      ⟨.ok, some (BitVec.ofNat 64 ((gens.map fun g => g.errors.toNat).sum)), row⟩

/-- The row MEM_TEST (10 R354): it begins the test, and, while one runs, ends it. -/
def execMemTest (s : State) : Host.Outcome State Fault Refusal :=
  .next (match s.fw.testing with
    | some (t, m, l) => if s.fw.up then s.memTestEnd t m l else s
    | none => s.commandThen 0x3B ⟨.manager, [.quiesced], [(24, 25), (32, 39)], none⟩ (fun s t => s.memTest t) fun s _ => s)

end Sys2Proof.Machine
end

