-- ==== Sys2Proof/Machine/Flags.lean ====
section
/-! DEFINITION. Number formats, exact arithmetic with one rounding, and the sticky flags (03 R99 to R102, 04 R154 to
R162, 12 R405, 13 R449). -/

namespace Sys2Proof.Machine

open Sys2Proof

/-! ## Exact values -/

/-- A value: NaN, an infinity, or (−1)^neg × m × 2^e. -/
inductive Val where
  | nan
  | inf (neg : Bool)
  | fin (neg : Bool) (m : Nat) (e : Int)
deriving DecidableEq, Repr

/-- How a format treats its largest exponent (04 R159). -/
inductive Top where
  /-- IEEE: infinities and NaNs. -/
  | ieee
  /-- E4M3: only S.1111.111 is NaN. -/
  | e4m3
  /-- Finite values only. -/
  | finite
deriving DecidableEq, Repr

/-- A floating-point format. -/
structure FFmt where
  ebits : Nat
  mbits : Nat
  bias : Nat
  top : Top
  /-- The NaN that results take. -/
  nan : Nat
  /-- Conversions saturate a finite overflow (04 R158). -/
  sat : Bool
deriving DecidableEq, Repr

def fp32 : FFmt := ⟨8, 23, 127, .ieee, 0x7FC00000, false⟩
def bf16 : FFmt := ⟨8, 7, 127, .ieee, 0x7FC0, false⟩
def fp16 : FFmt := ⟨5, 10, 15, .ieee, 0x7E00, false⟩
def e4m3 : FFmt := ⟨4, 3, 7, .e4m3, 0x7F, true⟩
def e5m2 : FFmt := ⟨5, 2, 15, .ieee, 0x7E, true⟩
def e2m3 : FFmt := ⟨2, 3, 1, .finite, 0, true⟩
def e3m2 : FFmt := ⟨3, 2, 3, .finite, 0, true⟩
def e2m1 : FFmt := ⟨2, 1, 1, .finite, 0, true⟩

/-- Bits of a format. -/
def FFmt.width (f : FFmt) : Nat := 1 + f.ebits + f.mbits

/-- The exponent of the unit of a subnormal. -/
def FFmt.qmin (f : FFmt) : Int := 1 - (f.bias : Int) - f.mbits

/-- The largest exponent field of a finite value, and its largest mantissa with the hidden bit. -/
def FFmt.emax (f : FFmt) : Nat := match f.top with
  | .ieee => 2 ^ f.ebits - 2
  | _ => 2 ^ f.ebits - 1
def FFmt.mmax (f : FFmt) : Nat := match f.top with
  | .e4m3 => 2 ^ (f.mbits + 1) - 2
  | _ => 2 ^ (f.mbits + 1) - 1

/-- The bits of the largest finite value, and of infinity, without the sign. -/
def FFmt.maxBits (f : FFmt) : Nat := f.emax * 2 ^ f.mbits + (f.mmax - 2 ^ f.mbits)
def FFmt.infBits (f : FFmt) : Nat := match f.top with
  | .ieee => (2 ^ f.ebits - 1) * 2 ^ f.mbits
  | _ => f.maxBits

/-- The sign bit of a format. -/
def FFmt.signBit (f : FFmt) (neg : Bool) : Nat := if neg then 2 ^ (f.ebits + f.mbits) else 0

/-- The value that bits of a format hold (04 R159). -/
def FFmt.decode (f : FFmt) (v : Nat) : Val :=
  let neg := v.testBit (f.ebits + f.mbits)
  let e := fld v (f.ebits + f.mbits - 1) f.mbits
  let m := v % 2 ^ f.mbits
  if f.top = .ieee ∧ e = 2 ^ f.ebits - 1 then (if m = 0 then .inf neg else .nan)
  else if f.top = .e4m3 ∧ e = 15 ∧ m = 7 then .nan
  else if e = 0 then .fin neg m f.qmin
  else .fin neg (m + 2 ^ f.mbits) (f.qmin + e - 1)

/-! ## Sticky flags (03 R99, R127): NV, DZ, OF, UF, NX from bit 4 -/

def flagNV : BitVec 5 := 16
def flagDZ : BitVec 5 := 8
def flagOF : BitVec 5 := 4
def flagUF : BitVec 5 := 2
def flagNX : BitVec 5 := 1

/-! ## Rounding to nearest even -/

/-- A number of bits. -/
def bitLen (m : Nat) : Nat := if m = 0 then 0 else Nat.log2 m + 1

/-- `m / 2^k`, rounded to nearest even. -/
def rneShift (m k : Nat) : Nat :=
  let d := 2 ^ k
  let q := m / d
  let r := m % d
  if 2 * r > d ∨ (2 * r = d ∧ q % 2 = 1) then q + 1 else q

/-- `m × 2^e` in units of `2^q`, rounded to nearest even. -/
def rneAt (m : Nat) (e q : Int) : Nat := if q ≤ e then m * 2 ^ (e - q).toNat else rneShift m (q - e).toNat

/-- `m × 2^e` is a whole number of units of `2^q`. -/
def exactAt (m : Nat) (e q : Int) : Bool := q ≤ e || m % 2 ^ (q - e).toNat = 0

/-- A finite value rounded into a format (03 R99, 04 R158): the bits and the flags. `sat`: a finite overflow
saturates. -/
def FFmt.roundFin (f : FFmt) (sat : Bool) (neg : Bool) (m : Nat) (e : Int) : Nat × BitVec 5 :=
  if m = 0 then (f.signBit neg, 0)
  else
    let p := f.mbits + 1
    let qu := e + bitLen m - p
    /- Rounded with unbounded exponent range. -/
    let ru := rneAt m e qu
    let eu := (if ru = 2 ^ p then qu + 1 else qu) - f.qmin + 1
    let mu := if ru = 2 ^ p then 2 ^ f.mbits else ru
    if eu > f.emax ∨ (eu = f.emax ∧ mu > f.mmax) then
      (f.signBit neg + (if sat then f.maxBits else f.infBits), flagOF ||| flagNX)
    else
      let q := max qu f.qmin
      let r := rneAt m e q
      let inexact := !exactAt m e q
      let tiny : Bool := eu < 1
      let field := if r < 2 ^ f.mbits then r else r + (q - f.qmin).toNat * 2 ^ f.mbits
      (f.signBit neg + field, (if inexact then flagNX else 0) ||| (if inexact && tiny then flagUF else 0))

/-- A value as the result of an arithmetic operation (03 R99): a NaN is the canonical NaN. -/
def FFmt.result (f : FFmt) : Val → Nat × BitVec 5
  | .nan => (f.nan, 0)
  | .inf n => (f.signBit n + f.infBits, 0)
  | .fin n m e => f.roundFin false n m e

/-- A value converted to a format (03 R102, 04 R158). -/
def FFmt.convert (f : FFmt) : Val → Nat × BitVec 5
  | .nan => (f.nan, flagNV)
  | .inf n => if f.top = .e4m3 then (f.signBit n + f.maxBits, flagNV) else (f.signBit n + f.infBits, 0)
  | .fin n m e => f.roundFin f.sat n m e

/-! ## Exact operations -/

/-- The product or quotient's sign. -/
def Val.isNan : Val → Bool
  | .nan => true
  | _ => false

def Val.neg : Val → Val
  | .nan => .nan
  | .inf n => .inf !n
  | .fin n m e => .fin (!n) m e

def Val.abs : Val → Val
  | .nan => .nan
  | .inf _ => .inf false
  | .fin _ m e => .fin false m e

/-- The signed integer `m × 2^(e − q)` of a finite value, for `q ≤ e`. -/
def scaled (n : Bool) (m : Nat) (e q : Int) : Int :=
  let v : Int := (m * 2 ^ (e - q).toNat : Nat)
  if n then -v else v

/-- The exact sum. A zero sum is −0 only when both operands are negative. -/
def Val.add : Val → Val → Val
  | .nan, _ => .nan
  | _, .nan => .nan
  | .inf a, .inf b => if a = b then .inf a else .nan
  | .inf a, _ => .inf a
  | _, .inf b => .inf b
  | .fin n m e, .fin n' m' e' =>
    let q := min e e'
    let v := scaled n m e q + scaled n' m' e' q
    if v = 0 then .fin (n && n') 0 q else .fin (v < 0) v.natAbs q

/-- The exact product. -/
def Val.mul : Val → Val → Val
  | .nan, _ => .nan
  | _, .nan => .nan
  | .inf a, .inf b => .inf (a != b)
  | .inf a, .fin n m _ => if m = 0 then .nan else .inf (a != n)
  | .fin n m _, .inf b => if m = 0 then .nan else .inf (n != b)
  | .fin n m e, .fin n' m' e' => .fin (n != n') (m * m') (e + e')

/-- Less than, on values that are not NaN; −0 and +0 are equal. -/
def Val.lt : Val → Val → Bool
  | .inf true, .inf true => false
  | .inf true, _ => true
  | _, .inf true => false
  | .inf false, _ => false
  | _, .inf false => true
  | .fin n m e, .fin n' m' e' => let q := min e e'; scaled n m e q < scaled n' m' e' q
  | _, _ => false

/-- Equal, on values that are not NaN. -/
def Val.eq : Val → Val → Bool
  | .inf a, .inf b => a = b
  | .fin n m e, .fin n' m' e' => let q := min e e'; scaled n m e q = scaled n' m' e' q
  | _, _ => false

def Val.isNeg : Val → Bool
  | .nan => false
  | .inf n => n
  | .fin n _ _ => n

/-- The larger of two values that are not NaN; −0 is less than +0 (03 R99). -/
def Val.max (a b : Val) : Val := if a.lt b || (a.eq b && a.isNeg) then b else a
def Val.min (a b : Val) : Val := if b.lt a || (a.eq b && b.isNeg) then b else a

/-- An integer as a value. -/
def Val.ofInt (i : Int) : Val := .fin (i < 0) i.natAbs 0

/-- The result of an operation on operands of a format, with NV for a NaN operand or an invalid operation (03 R99). -/
def FFmt.op (f : FFmt) (v : Val) : Nat × BitVec 5 := if v.isNan then (f.nan, flagNV) else f.result v

def FFmt.add (f : FFmt) (a b : Nat) : Nat × BitVec 5 := f.op ((f.decode a).add (f.decode b))
def FFmt.sub (f : FFmt) (a b : Nat) : Nat × BitVec 5 := f.op ((f.decode a).add (f.decode b).neg)
def FFmt.mul (f : FFmt) (a b : Nat) : Nat × BitVec 5 := f.op ((f.decode a).mul (f.decode b))
def FFmt.fma (f : FFmt) (a b c : Nat) : Nat × BitVec 5 :=
  f.op (((f.decode a).mul (f.decode b)).add (f.decode c))
def FFmt.max (f : FFmt) (a b : Nat) : Nat × BitVec 5 :=
  let x := f.decode a
  let y := f.decode b
  if x.isNan || y.isNan then (f.nan, flagNV) else f.result (x.max y)
def FFmt.min (f : FFmt) (a b : Nat) : Nat × BitVec 5 :=
  let x := f.decode a
  let y := f.decode b
  if x.isNan || y.isNan then (f.nan, flagNV) else f.result (x.min y)

/-! ## VEXP2, VRCP, VRSQRT (03 R100) -/

/-- The integer square root: the root of `n / 4`, doubled, and one more bit. -/
def isqrtGo : Nat → Nat → Nat
  | 0, _ => 0
  | k + 1, n =>
    if n = 0 then 0
    else
      let r := 2 * isqrtGo k (n / 4)
      if (r + 1) * (r + 1) ≤ n then r + 1 else r

def isqrt (n : Nat) : Nat := isqrtGo (bitLen n) n

/-- Fraction bits of the fixed-point evaluation of 2^f (log entry 15). -/
def expBits : Nat := 400

/-- 2^0.b1b2… in fixed point, from the lowest of `k` fraction bits: 2^(0.b…) = √(2^b × 2^(0.…)). -/
def exp2Frac (f : Nat) : Nat → Nat
  | 0 => 2 ^ expBits
  | k + 1 => isqrt ((if f.testBit k then 2 else 1) * exp2Frac f k * 2 ^ expBits)

/-- A value with the bits below it marked as not zero. -/
def sticky (neg : Bool) (m : Nat) (e : Int) (more : Bool) : Val := .fin neg (2 * m + more.toNat) (e - 1)

/-- 2^x of a finite x, far exponents cut off beyond every format's range. -/
def exp2Val (n : Bool) (m : Nat) (e : Int) : Val :=
  let lim : Nat := 4096
  if e ≥ 0 then
    let i : Nat := min lim (m * 2 ^ e.toNat)
    .fin false 1 (if n then -(i : Int) else i)
  else
    let k := (-e).toNat
    let i := m / 2 ^ k
    let f := m % 2 ^ k
    if f = 0 then
      let i := min lim i
      .fin false 1 (if n then -(i : Int) else i)
    else if i ≥ lim then sticky false 1 (if n then -(lim : Int) else lim) true
    else if n then sticky false (exp2Frac (2 ^ k - f) k) (-(i : Int) - 1 - expBits) true
    else sticky false (exp2Frac f k) ((i : Int) - expBits) true

def FFmt.exp2 (f : FFmt) (a : Nat) : Nat × BitVec 5 :=
  match f.decode a with
  | .nan => (f.nan, flagNV)
  | .inf n => if n then (0, 0) else (f.infBits, 0)
  | .fin n m e => f.result (exp2Val n m e)

def FFmt.rcp (f : FFmt) (a : Nat) : Nat × BitVec 5 :=
  match f.decode a with
  | .nan => (f.nan, flagNV)
  | .inf n => (f.signBit n, 0)
  | .fin n 0 _ => (f.signBit n + f.infBits, flagDZ)
  | .fin n m e => f.result (sticky n (2 ^ 100 / m) (-100 - e) (2 ^ 100 % m ≠ 0))

def FFmt.rsqrt (f : FFmt) (a : Nat) : Nat × BitVec 5 :=
  match f.decode a with
  | .nan => (f.nan, flagNV)
  | .inf n => if n then (f.nan, flagNV) else (0, 0)
  | .fin n 0 _ => (f.signBit n + f.infBits, flagDZ)
  | .fin true _ _ => (f.nan, flagNV)
  | .fin false m e =>
    /- An even exponent: m × 2^e = m' × 4^h. -/
    let m' := if e % 2 = 0 then m else 2 * m
    let h := (e - e % 2) / 2
    let q := isqrt (2 ^ 200 / m')
    f.result (sticky false q (-100 - h) (q * q * m' ≠ 2 ^ 200))

/-! ## Integers -/

/-- A value rounded to nearest even as an integer. -/
def Val.rneInt (n : Bool) (m : Nat) (e : Int) : Int :=
  let v : Int := rneAt m e 0
  if n then -v else v

/-- A value converted to a signed integer of `w` bits (03 R102): bits and flags. -/
def toIntW (w : Nat) : Val → Nat × BitVec 5
  | .nan => (0, flagNV)
  | .inf n => (if n then 2 ^ (w - 1) else 2 ^ (w - 1) - 1, flagNV)
  | .fin n m e =>
    let i := Val.rneInt n m e
    if i < -2 ^ (w - 1) then (2 ^ (w - 1), flagNV)
    else if i ≥ 2 ^ (w - 1) then (2 ^ (w - 1) - 1, flagNV)
    else ((BitVec.ofInt w i).toNat, if exactAt m e 0 then 0 else flagNX)

/-! ## Operand formats of the matrix unit (03 R104, 04 R159) -/

/-- The format of an FMT code, INT8 aside. -/
def fmtOf (c : Nat) : FFmt := match c with
  | 0 => bf16
  | 1 => fp16
  | 2 => e4m3
  | 3 => e5m2
  | 4 => e4m3
  | 5 => e5m2
  | 6 => e2m3
  | 7 => e3m2
  | 8 => e2m1
  | _ => fp32

/-- The code's elements are INT8. -/
def isInt8 (c : Nat) : Bool := c = 9

/-- Bits of an element (04 R160). -/
def elemBits (c : Nat) : Nat := match c with
  | 0 => 16
  | 1 => 16
  | 6 => 6
  | 7 => 6
  | 8 => 4
  | 0xA => 32
  | _ => 8

/-- The code is an MX format, with E8M0 scales. -/
def isMX (c : Nat) : Bool := 4 ≤ c && c ≤ 8

/-- The value of an element. -/
def elemVal (c v : Nat) : Val :=
  if isInt8 c then Val.ofInt (signed 8 v) else (fmtOf c).decode v

/-- An element is zero: +0 or −0, or 0 in INT8 (05 R165). -/
def elemZero (c v : Nat) : Bool :=
  match elemVal c v with
  | .fin _ 0 _ => true
  | _ => false

/-- The value of an E8M0 scale (04 R159, R162). -/
def scaleVal (v : Nat) : Val := if v = 255 then .nan else .fin false 1 ((v : Int) - 127)

/-- Element `i` of a packed row of elements (04 R160). -/
def elemAt (bits : Nat) (row : Nat) (i : Nat) : Nat := (row >>> (bits * i)) % 2 ^ bits

/-- The elements of packed bytes. -/
def unpack (bits n : Nat) (bs : Bytes) : List Nat :=
  let v := leNat bs
  (List.range n).map fun i => elemAt bits v i

/-- Elements packed from bit 0 upwards, into whole bytes. -/
def pack (bits : Nat) (l : List Nat) : Bytes :=
  leBytes (cdiv (bits * l.length) 8) (l.foldr (fun x acc => x % 2 ^ bits + 2 ^ bits * acc) 0)

/-- A list of values summed exactly; a zero sum is +0. -/
def sumVals (l : List Val) : Val :=
  match l.foldl Val.add (.fin false 0 0) with
  | .fin _ 0 e => .fin false 0 e
  | v => v

/-- One rounding group (04 R154, R156): the accumulator plus the exact sum of the products, rounded once to FP32. -/
def accumulate (acc : Nat) (products : List Val) : Nat × BitVec 5 :=
  match sumVals [fp32.decode acc, sumVals products] with
  | .nan => (fp32.nan, flagNV)
  | v =>
    let (b, f) := fp32.result v
    (b, f &&& flagOF)

end Sys2Proof.Machine
end

