-- ==== Sys2Proof/Machine/Atomics.lean ====
section
/-! DEFINITION. Atomics and reductions into memory (12 R403, R405, R409), as a target performs them for a request and
the package performs them for its own agents (01 R30). -/

namespace Sys2Proof.Machine

open Sys2Proof

/-- How a read-modify-write ends: the STATUS of 12 R404 that refuses it, with the memory error if one was met. -/
inductive Refused where
  | denied
  | mem (e : MemErr)
deriving DecidableEq, Repr

/-- The STATUS of a refusal (12 R404). -/
def Refused.status : Refused → Nat
  | .denied => 4
  | .mem e => e.status

/-- The new value and the value returned of an atomic (12 R403): OP 0 ADD_INT, 1 ADD_FP32, 2 MIN, 3 MAX, 4 SWAP, 5 CAS,
6 FETCH_ADD, at width `w` bits. -/
def atomicOp (op w m a c : Nat) : Nat × Nat := match op with
  | 0 => ((m + a) % 2 ^ w, 0)
  | 1 => ((fp32.add (m % 2 ^ 32) (a % 2 ^ 32)).1, 0)
  | 2 => (if signed w m ≤ signed w a then m else a % 2 ^ w, m)
  | 3 => (if signed w a ≤ signed w m then m else a % 2 ^ w, m)
  | 4 => (a % 2 ^ w, m)
  | 5 => (if m = c % 2 ^ w then a % 2 ^ w else m, m)
  | _ => ((m + a) % 2 ^ w, m)

/-- Why an atomic or a reduction at a local address is refused before it reads memory: unmapped, as control space is to
the agents that issue them (01 R28), a core window, or memory that no partition of the job owns (12 R403, R409). -/
def State.rmwRefused (s : State) (job : BitVec 32) (a n : Nat) : Option Refused :=
  match s.place a with
  | .ctrl _ => some (.mem (MemErr.unmapped a))
  | .unmapped => some (.mem (MemErr.unmapped a))
  | .core _ _ => some .denied
  | _ =>
    if s.unmappedIn a n then some (.mem (MemErr.unmapped a))
    else if s.jobOwns job a n then none else some .denied

/-- An atomic of `w` bits at a local address on behalf of a job: the value returned. -/
def State.atomicAt (s : State) (job : BitVec 32) (op w a : Nat) (arg cmp : Word) : Except Refused Word × State :=
  let w := if op = 1 then 32 else w
  match s.rmwRefused job a (w / 8) with
  | some r => (.error r, s)
  | none =>
    if a % (w / 8) ≠ 0 then (.error .denied, s)
    else match s.readMem job a (w / 8) with
      | (.error e, s) => (.error (.mem e), s)
      | (.ok bs, s) =>
        let (new, ret) := atomicOp op w (leNat bs) arg.toNat cmp.toNat
        match s.writeMem job a (leBytes (w / 8) new) with
        | (.error e, s) => (.error (.mem e), s)
        | (.ok _, s) => (.ok (BitVec.ofNat 64 ret), s)

/-- Bytes of an element of a reduction format (12 R405). -/
def reduceSize (fmt : Nat) : Nat := match fmt with
  | 0 => 4
  | 1 => 2
  | 2 => 2
  | 3 => 4
  | _ => 8

/-- One element combined (12 R405): op 0 SUM, 1 MAX, 2 MIN, 3 AND, 4 OR, 5 XOR. -/
def reduceElem (op fmt t d : Nat) : Nat :=
  if fmt ≤ 2 then
    let f := if fmt = 0 then fp32 else if fmt = 1 then bf16 else fp16
    match op with
    | 0 => (f.add t d).1
    | 1 => (f.max t d).1
    | _ => (f.min t d).1
  else
    let w := 8 * reduceSize fmt
    match op with
    | 0 => (t + d) % 2 ^ w
    | 1 => if signed w d ≤ signed w t then t else d
    | 2 => if signed w t ≤ signed w d then t else d
    | 3 => t &&& d
    | 4 => t ||| d
    | _ => t ^^^ d

/-- Data combined into the bytes at the target, element by element. Bytes after the last whole element stand. -/
def reduceBytes (op fmt : Nat) (old data : Bytes) : Bytes :=
  let k := reduceSize fmt
  let n := data.length / k
  ((List.range n).flatMap fun i => leBytes k (reduceElem op fmt (field old (k * i) k) (field data (k * i) k))) ++
    old.drop (k * n)

/-- A reduction at a local address on behalf of a job. -/
def State.reduceAt (s : State) (job : BitVec 32) (op fmt a : Nat) (data : Bytes) : Except Refused Unit × State :=
  match s.rmwRefused job a data.length with
  | some r => (.error r, s)
  | none =>
    match s.readMem job a data.length with
    | (.error e, s) => (.error (.mem e), s)
    | (.ok old, s) =>
      match s.writeMem job a (reduceBytes op fmt old data) with
      | (.error e, s) => (.error (.mem e), s)
      | (.ok _, s) => (.ok (), s)

/-! ## Records of chapter 12 (12 R431) -/

/-- The OP byte of an atomic code. -/
def atomicOpcode (op : Nat) : Nat := 0x10 + op

/-- A fault of 12 R431 for an access that never became a transaction: it has no REQ_ID and no ORIG_TIME, so those
words are free (log entry 2). -/
def State.fabricRecord (s : State) (code unit : Nat) (g : Word) (op status : Nat) : FaultRec :=
  { s.record code unit g 0 (op + status * 65536) (gPkg g).toNat 0 with
    d0 := Config.freeWord s.free, d3 := Config.freeWord (s.free + 1) }

/-- The record of a refusal that the package gives one of its own agents (10 R338, 12 R431). -/
def State.refusedRecord (s : State) (r : Refused) (unit : Nat) (g : Word) (op kind : Nat) : FaultRec := match r with
  | .denied => s.fabricRecord 0x0508 unit g op 4
  | .mem e => s.memRecord e unit g kind

end Sys2Proof.Machine
end

