-- ==== Sys2Proof/Machine/Operands.lean ====
section
/-! DEFINITION. The operand forms of a wide word (03 R82 to R85, R95, R98, R103, R105, R109): the slots and their
fields, the registers they name, the codes that are illegal, and the S slot's arithmetic (R95, R96). -/

namespace Sys2Proof.Machine

open Sys2Proof

/-! ## The word -/

/-- The bits of a slot: 0 S, 1 V, 2 M, 3 D, 4 C (03 R82, R129). -/
def slotOf (w slot : Nat) : Nat := match slot with
  | 0 => fld w 63 16
  | 1 => fld w 127 64
  | 2 => fld w 175 128
  | 3 => fld w 223 176
  | _ => fld w 255 224

/-- The header's fields (03 R83). -/
def wPmask (w slot : Nat) : Bool := bit w (11 + slot)
def wPneg (w : Nat) : Bool := bit w 10
def wPsel (w : Nat) : Nat := fld w 9 7
def wStop (w : Nat) : Bool := bit w 6
def wMv (w : Nat) : Bool := bit w 5
def wValid (w slot : Nat) : Bool := bit w slot

/-! ## The fields of a slot, given the slot's own bits -/

/-- S slot: OP, RD, RA, RB, IMM (03 R95). -/
def sOp (b : Nat) : Nat := fld b 47 40
def sRd (b : Nat) : Nat := fld b 39 35
def sRa (b : Nat) : Nat := fld b 34 30
def sRb (b : Nat) : Nat := fld b 29 25
def sImm (b : Nat) : Word := sext64 25 b

/-- V slot (03 R98). -/
def vOp (b : Nat) : Nat := fld b 63 56
def vVd (b : Nat) : Nat := fld b 55 51
def vVa (b : Nat) : Nat := fld b 50 46
def vVb (b : Nat) : Nat := fld b 45 41
def vVc (b : Nat) : Nat := fld b 40 36
def vVm (b : Nat) : Nat := fld b 35 33
def vTy (b : Nat) : Nat := fld b 32 30
def vSa (b : Nat) : Nat := fld b 29 25
def vImm (b : Nat) : Nat := fld b 24 0

/-- M slot (03 R103). -/
def mOp (b : Nat) : Nat := fld b 47 40
def mEmask (b : Nat) : Nat := fld b 39 36
def mRa (b : Nat) : Nat := fld b 35 31
def mRb (b : Nat) : Nat := fld b 30 26
def mRc (b : Nat) : Nat := fld b 25 21
def mFmt (b : Nat) : Nat := fld b 20 17
def mImm (b : Nat) : Nat := fld b 16 0

/-- D slot (03 R105). -/
def dOp (b : Nat) : Nat := fld b 47 40
def dRa (b : Nat) : Nat := fld b 39 35
def dRb (b : Nat) : Nat := fld b 34 30
def dRc (b : Nat) : Nat := fld b 29 25
def dTag (b : Nat) : Nat := fld b 24 20
def dImm (b : Nat) : Nat := fld b 19 0

/-- C slot (03 R109). -/
def cOp (b : Nat) : Nat := fld b 31 26
def cRa (b : Nat) : Nat := fld b 25 21
def cRb (b : Nat) : Nat := fld b 20 16
def cImm (b : Nat) : Nat := fld b 15 0

/-! ## Registers (03 R85, R92) -/

/-- Scalar register i: s0 reads zero. -/
def Core.rs (k : Core) (i : Nat) : Word := if i = 0 then 0 else k.s.toList.getD i 0

/-- Scalar register i written: s0 ignores it. -/
def Core.ws (k : Core) (i : Nat) (v : Word) : Core :=
  if h : i < 32 then (if i = 0 then k else { k with s := k.s.set i v h }) else k

def Core.rv (k : Core) (i : Nat) : Vec := k.v.toList.getD i 0
def Core.wv (k : Core) (i : Nat) (v : Vec) : Core := if h : i < 32 then { k with v := k.v.set i v h } else k

/-- Predicate register i: p0 reads 1. -/
def Core.rp (k : Core) (i : Nat) : Bool := i = 0 || k.p.getLsbD i

/-- Predicate register i written: p0 ignores it. -/
def Core.wp (k : Core) (i : Nat) (v : Bool) : Core :=
  if i = 0 then k
  else { k with p := if v then k.p ||| (1#8 <<< i) else k.p &&& ~~~(1#8 <<< i) }

/-- Mask register i: vm0 reads all ones. -/
def Core.rvm (k : Core) (i : Nat) : Word := if i = 0 then BitVec.allOnes 64 else k.vm.toList.getD i 0

/-- Mask register i written: vm0 ignores it. -/
def Core.wvm (k : Core) (i : Nat) (v : Word) : Core :=
  if h : i < 8 then (if i = 0 then k else { k with vm := k.vm.set i v h }) else k

/-- The slot executes: it is present, and its predicate, if it has one, is 1 (03 R84, R85). -/
def Core.executes (k : Core) (w slot : Nat) : Bool :=
  wValid w slot && (!wPmask w slot || (k.rp (wPsel w) != wPneg w))

/-! ## Codes that are listed (03 R94) -/

/-- The S-slot operation is listed. -/
def sListed (op : Nat) : Bool :=
  (0x01 ≤ op && op ≤ 0x0F) || (0x11 ≤ op && op ≤ 0x1A) || (0x20 ≤ op && op ≤ 0x26) || (0x28 ≤ op && op ≤ 0x2B) ||
  (0x30 ≤ op && op ≤ 0x35) || (0x38 ≤ op && op ≤ 0x3D) || op = 0x40 || op = 0x41

/-- The S-slot operation writes a predicate. -/
def sPset (op : Nat) : Bool := (0x30 ≤ op && op ≤ 0x35) || (0x38 ≤ op && op ≤ 0x3D)

def sIllegal (b : Nat) : Bool := !sListed (sOp b) || (sPset (sOp b) && sRd b % 8 = 0)

/-- A code that IMM[3:0] of VCVT takes (03 R102). -/
def cvtCode (c : Nat) : Bool := c ≤ 4 || c = 8 || c = 9

def vIllegal (b : Nat) : Bool :=
  let op := vOp b
  let ty := vTy b
  let listed := (0x01 ≤ op && op ≤ 0x0C) || (0x10 ≤ op && op ≤ 0x12) || op = 0x18 || (0x20 ≤ op && op ≤ 0x22) ||
    op = 0x28 || op = 0x2A || op = 0x31 || op = 0x38 || op = 0x39
  !listed || ty > 4 ||
  (0x0A ≤ op && op ≤ 0x0C && ty ≥ 3) ||
  (op = 0x18 && !cvtCode (vImm b % 16)) ||
  (op = 0x31 && (ty = 2 || ty = 3) && vImm b % 64 ≥ 32) ||
  (op = 0x39 && (vImm b % 16 = 0 || vImm b % 16 > 10))

/-- The M-slot operation and its FMT (04 R143, 05 R179); the form decides for a compressed MDRAIN. -/
def mIllegal (stratus : Bool) (b : Nat) : Bool :=
  let f := mFmt b
  match mOp b with
  | 0x01 => false
  | 0x02 => f > 9
  | 0x03 => f > 9
  | 0x04 => f > 9
  | 0x05 => false
  | 0x06 => !(f = 0 || f = 0xA)
  | 0x07 => if bit (mImm b) 15 ∧ !stratus then f > 3 else !(f ≤ 3 || f = 9 || f = 0xA)
  | _ => true

/-- A reduction code is listed (12 R405). -/
def reduceListed (op fmt : Nat) : Bool := op ≤ 5 && fmt ≤ 4 && !(op ≥ 3 && fmt ≤ 2)

def dIllegal (b : Nat) : Bool :=
  match dOp b with
  | 0x01 => false
  | 0x02 => false
  | 0x08 => false
  | 0x09 => false
  | 0x0A => false
  | 0x0B => false
  | 0x0C => !reduceListed (dImm b % 16) (fld (dImm b) 7 4)
  | 0x0D => dImm b % 16 > 6
  | 0x10 => false
  | 0x18 => false
  | 0x1A => false
  | _ => true

/-- A special register number is assigned (03 R127). -/
def srListed (n : Nat) : Bool := n ≤ 7

def cIllegal (b : Nat) : Bool :=
  match cOp b with
  | 0x01 => false
  | 0x02 => false
  | 0x03 => false
  | 0x04 => false
  | 0x08 => cImm b ≥ 32
  | 0x09 => false
  | 0x10 => false
  | 0x11 => false
  | 0x18 => false
  | 0x19 => false
  | 0x20 => false
  | 0x28 => !srListed (cImm b % 4096)
  | 0x29 => !(cImm b % 4096 = 2 || cImm b % 4096 = 3)
  | _ => true

/-- The slot raises ILLEGAL_WORD under R94 or R127. -/
def slotIllegal (stratus : Bool) (slot b : Nat) : Bool := match slot with
  | 0 => sIllegal b
  | 1 => vIllegal b
  | 2 => mIllegal stratus b
  | 3 => dIllegal b
  | _ => cIllegal b

/-! ## What a slot reads and writes (03 R86, R87) -/

/-- Scalar registers that a slot reads. -/
def slotReads (slot b : Nat) : List Nat := match slot with
  | 0 =>
    let op := sOp b
    if op ≤ 0x0F || (0x28 ≤ op && op ≤ 0x35) then [sRa b, sRb b] else if op = 0x19 then [] else [sRa b]
  | 1 => match vOp b with
    | 0x09 => [vSa b]
    | 0x38 => [vVa b, vVb b, vSa b]
    | _ => []
  | 2 => match mOp b with
    | 0x01 => []
    | 0x05 => [mRa b, mRb b]
    | _ => [mRa b, mRb b, mRc b]
  | 3 => match dOp b with
    | 0x01 => [dRa b]
    | 0x02 => [dRa b]
    | 0x0D => [dRa b, dRb b, dRc b]
    | 0x18 => [dRa b, dRb b]
    | 0x1A => [dRb b, dRc b]
    | _ => [dRa b, dRb b, dRc b]
  | _ => match cOp b with
    | 0x03 => [cRa b]
    | 0x09 => [cRa b]
    | 0x11 => [cRa b]
    | 0x18 => [cRa b]
    | 0x19 => [cRa b]
    | 0x20 => [cRa b]
    | 0x29 => [cRa b]
    | _ => []

/-- A register that a slot names as its destination. -/
inductive Dest where
  | s (i : Nat)
  | v (i : Nat)
  | p (i : Nat)
  | vm (i : Nat)
deriving DecidableEq, Repr

/-- The destination registers of a slot. -/
def slotDests (slot b : Nat) : List Dest := match slot with
  | 0 =>
    if sPset (sOp b) then [.p (sRd b % 8)]
    else if 0x28 ≤ sOp b ∧ sOp b ≤ 0x2B then [] else [.s (sRd b)]
  | 1 =>
    if vOp b = 0x31 then [.s (vSa b)]
    else if 0x10 ≤ vOp b ∧ vOp b ≤ 0x12 then [.vm (vVd b % 8)] else [.v (vVd b)]
  | 2 => []
  | 3 => match dOp b with
    | 0x01 => [.v (dRc b)]
    | 0x0D => [.s (dRb b)]
    | 0x1A => [.s (dRc b)]
    | _ => []
  | _ => match cOp b with
    | 0x02 => [.s 31]
    | 0x10 => [.s (cRa b)]
    | 0x20 => [.s (cRb b)]
    | 0x28 => [.s (cRa b)]
    | _ => []

/-- The scalar registers that a slot writes. -/
def slotWrites (slot b : Nat) : List Nat := (slotDests slot b).filterMap fun d => match d with
  | .s i => some i
  | _ => none

/-- The lower slot and the other slot of the pair that names one destination (03 R87, R129). -/
def Core.conflict (k : Core) (w : Nat) : Option (Nat × Nat) :=
  let on := (List.range 5).filter fun i => k.executes w i
  on.findSome? fun i => (on.filter (i < ·)).findSome? fun j =>
    if (slotDests i (slotOf w i)).any fun d => (slotDests j (slotOf w j)).contains d then some (i, j) else none

/-! ## S-slot arithmetic (03 R95, R96) -/

/-- The unsigned quotient of magnitudes with the sign of the exact quotient, towards zero (log entry 18). -/
def sdiv (a b : Int) : Int := a.tdiv b
def srem (a b : Int) : Int := a.tmod b

/-- The operations 0x01 to 0x0F. -/
def aluOp (op : Nat) (a b : Word) : Word := match op with
  | 0x01 => a + b
  | 0x02 => a - b
  | 0x03 => a &&& b
  | 0x04 => a ||| b
  | 0x05 => a ^^^ b
  | 0x06 => a <<< (b.toNat % 64)
  | 0x07 => a >>> (b.toNat % 64)
  | 0x08 => a.sshiftRight (b.toNat % 64)
  | 0x09 => a * b
  | 0x0A => BitVec.ofInt 64 ((a.toInt * b.toInt) / 2 ^ 64)
  | 0x0B => if b = 0 then BitVec.allOnes 64 else BitVec.ofInt 64 (sdiv a.toInt b.toInt)
  | 0x0C => if b = 0 then BitVec.allOnes 64 else BitVec.ofNat 64 (a.toNat / b.toNat)
  | 0x0D => if b = 0 then a else BitVec.ofInt 64 (srem a.toInt b.toInt)
  | 0x0E => if a.toInt ≤ b.toInt then a else b
  | _ => if a.toInt ≤ b.toInt then b else a

/-- The compares of PSET, by the low three bits of OP. -/
def cmpOp (op : Nat) (a b : Word) : Bool := match op % 8 with
  | 0 => a = b
  | 1 => a ≠ b
  | 2 => a.toInt < b.toInt
  | 3 => a.toNat < b.toNat
  | 4 => b.toInt ≤ a.toInt
  | _ => b.toNat ≤ a.toNat

/-- Leading zeros. -/
def clz64 (a : Word) : Nat := if a = 0 then 64 else 63 - Nat.log2 a.toNat

/-- The result that an S-slot operation other than a load or a compare writes to s[RD]. -/
def Core.aluResult (k : Core) (b : Nat) : Word :=
  let op := sOp b
  let a := k.rs (sRa b)
  if op ≤ 0x0F then aluOp op a (k.rs (sRb b))
  else if op ≤ 0x18 then aluOp (op - 0x10) a (sImm b)
  else if op = 0x19 then sImm b
  else if op = 0x1A then (a <<< 25) ||| BitVec.ofNat 64 (fld b 24 0)
  else if op = 0x40 then BitVec.ofNat 64 (clz64 a)
  else BitVec.ofNat 64 (popcount a)

/-- Bytes of a load or store, and whether a load extends the sign. -/
def accessSize (op : Nat) : Nat := match op with
  | 0x20 => 1
  | 0x21 => 2
  | 0x22 => 4
  | 0x23 => 8
  | 0x24 => 1
  | 0x25 => 2
  | 0x26 => 4
  | 0x28 => 1
  | 0x29 => 2
  | 0x2A => 4
  | _ => 8
def accessSigned (op : Nat) : Bool := 0x24 ≤ op && op ≤ 0x26

/-- A loaded value in its register. -/
def extend (size : Nat) (sgn : Bool) (v : Nat) : Word := if sgn then sext64 (8 * size) v else BitVec.ofNat 64 (v % 2 ^ (8 * size))

end Sys2Proof.Machine
end

