-- ==== Sys2Proof/Machine/Tiles.lean ====
section
/-! DEFINITION. Sparse tiles (05 R165 to R173, R179, R183): reading, checking and writing. -/

namespace Sys2Proof.Machine

open Sys2Proof

/-- The header of a tile (05 R166), its sizes decoded; ROWS or COLS code 3 decodes to 0. -/
structure TileHead where
  fmt : Nat
  rows : Nat
  cols : Nat
  raw : Bool
  krows : Bool
  s24 : Bool
  reserved : Bool
  nnz : Nat
  length : Nat
  vrows : Nat
  vcols : Nat
  /-- Bytes 0 to 7. -/
  word : Nat
deriving DecidableEq, Repr

def tileDim (c : Nat) : Nat := match c with
  | 0 => 16
  | 1 => 32
  | 2 => 64
  | _ => 0

def tileHead (bs : Bytes) : TileHead :=
  let v := field bs 0 32
  { fmt := fld v 3 0, rows := tileDim (fld v 5 4), cols := tileDim (fld v 7 6), raw := bit v 8, krows := bit v 9,
    s24 := bit v 10, reserved := fld v 15 11 ≠ 0 || fld v 255 64 ≠ 0, nnz := fld v 31 16, length := fld v 47 32,
    vrows := fld v 55 48, vcols := fld v 63 56, word := fld v 63 0 }

/-- Blocks of a tile, bytes of a block, and bytes of the dense elements (05 R167, R168). -/
def TileHead.blocks (h : TileHead) : Nat := h.rows * h.cols / 16
def blockBytesOf (fmt : Nat) : Nat := 2 * elemBits fmt
def TileHead.denseBytes (h : TileHead) : Nat := h.rows * h.cols * elemBits h.fmt / 8

/-- Scales on each line of the non-K dimension, and in all (05 R169). -/
def TileHead.perLine (h : TileHead) : Nat := cdiv (if h.krows then h.rows else h.cols) 32
def TileHead.scaleCount (h : TileHead) : Nat :=
  if isMX h.fmt then (if h.krows then h.cols else h.rows) * h.perLine else 0

/-- The LENGTH that the form, shape, NNZ and scale section give (05 R173). -/
def TileHead.due (h : TileHead) : Nat :=
  (if h.raw then 32 + h.denseBytes else 64 + h.nnz * blockBytesOf h.fmt) + h.scaleCount

/-- The header and bitmap pass R173; `bitmap` is the 32-byte field as a number, and a bit of it beyond the tile's blocks
fails too (log entry 128). -/
def TileHead.ok (h : TileHead) (bitmap : Nat) : Bool :=
  !h.reserved && h.rows ≠ 0 && h.cols ≠ 0 && h.fmt ≤ 9 && 0 < h.vrows && h.vrows ≤ h.rows && 0 < h.vcols &&
  h.vcols ≤ h.cols && !(h.s24 && !h.krows) &&
  (h.raw || (bitmap >>> h.blocks = 0 && h.nnz = popcount (BitVec.ofNat 256 bitmap))) && h.length = h.due

/-- A tile as read: its header, the codes of its elements row by row, which 4 × 4 blocks are present, its scales. -/
structure Tile where
  head : TileHead
  codes : List Nat
  present : List Bool
  scales : List Nat
  /-- Non-zero elements stored below the valid rows, by column and then row: (row, column) (05 R183). -/
  strays : List (Nat × Nat)
deriving DecidableEq, Repr

/-- The tile that bytes hold; `none` is TILE_FORMAT (05 R173). A dense tile counts as having every block present. -/
def tileOf (bs : Bytes) : Option Tile :=
  let h := tileHead bs
  let bitmap := if h.raw then 0 else field bs 32 32
  if !h.ok bitmap ∨ bs.length < h.length then none
  else
    let bits := elemBits h.fmt
    let present := (List.range h.blocks).map fun b => h.raw || bitmap.testBit b
    let elem : Nat → Nat → Nat :=
      if h.raw then
        let v := leNat ((bs.drop 32).take h.denseBytes)
        fun i j => elemAt bits v (i * h.cols + j)
      else
        let v := leNat ((bs.drop 64).take (h.nnz * blockBytesOf h.fmt))
        fun i j =>
          let b := i / 4 * (h.cols / 4) + j / 4
          if bitmap.testBit b then
            elemAt bits v (16 * ((List.range b).countP fun x => bitmap.testBit x) + 4 * (i % 4) + j % 4)
          else 0
    let codes := (List.range (h.rows * h.cols)).map fun n =>
      let i := n / h.cols
      let j := n % h.cols
      if i < h.vrows ∧ j < h.vcols then elem i j else 0
    let at_ := h.due - h.scaleCount
    let below := if h.vrows = h.rows then [] else (List.range h.cols).flatMap fun j =>
      ((List.range (h.rows - h.vrows)).filter fun i => !elemZero h.fmt (elem (h.vrows + i) j)).map fun i => (h.vrows + i, j)
    some ⟨h, codes, present, ((bs.drop at_).take h.scaleCount).map (·.toNat), below⟩

/-- The code of element (i, j), zero outside the tile. -/
def Tile.code (t : Tile) (i j : Nat) : Nat := if j < t.head.cols then t.codes.getD (i * t.head.cols + j) 0 else 0

/-- Block (br, bc) is present. -/
def Tile.has (t : Tile) (br bc : Nat) : Bool := t.present.getD (br * (t.head.cols / 4) + bc) false

/-- The first block whose bitmap bit is set and that lies wholly outside VROWS × VCOLS (05 R183). -/
def Tile.outside (t : Tile) : Option Nat :=
  if t.head.raw then none
  else (List.range t.head.blocks).find? fun b =>
    t.present.getD b false &&
      (t.head.vrows ≤ b / (t.head.cols / 4) * 4 || t.head.vcols ≤ b % (t.head.cols / 4) * 4)

/-! ## Writing (05 R172, R179) -/

/-- The smallest dimension that holds `m`, and its code. -/
def dimFor (m : Nat) : Nat × Nat := if m ≤ 16 then (16, 0) else if m ≤ 32 then (32, 1) else (64, 2)

/-- An activation tile of `m` rows of 64 elements, in the form that R172 chooses. -/
def writeTile (fmt m : Nat) (codes : List Nat) : Bytes :=
  let (rows, rc) := dimFor m
  let bits := elemBits fmt
  let el (i j : Nat) : Nat := if i < m then codes.getD (i * 64 + j) 0 else 0
  let block (b : Nat) : List Nat := (List.range 16).map fun n => el (b / 16 * 4 + n / 4) (b % 16 * 4 + n % 4)
  let set := (List.range (rows * 4)).filter fun b => (block b).any fun x => !elemZero fmt x
  let comp := 64 + set.length * blockBytesOf fmt
  let dense := 32 + rows * 64 * bits / 8
  let head (raw : Bool) (nnz len : Nat) : Bytes :=
    leBytes 32 (fmt + rc * 16 + 2 * 64 + raw.toNat * 256 + nnz * 65536 + len * 2 ^ 32 + m * 2 ^ 48 + 64 * 2 ^ 56)
  if comp > dense then head true 0 dense ++ pack bits ((List.range (rows * 64)).map fun n => el (n / 64) (n % 64))
  else head false set.length comp ++ leBytes 32 ((set.map fun b => 2 ^ b).sum) ++ set.flatMap fun b => pack bits (block b)

end Sys2Proof.Machine
end

