-- ==== Sys2Proof/Machine/DmaUnit.lean ====
section
/-! DEFINITION. The asynchronous transfers of a core (03 R105 to R108, 05 R186, R187, 08 R300 to R302, 12 R397, R402,
R421), and the multicast tree of a group (13 R437). -/

namespace Sys2Proof.Machine

open Sys2Proof

/-- A fault that a slot raises when its word issues: a core fault with the words of 03 R129 (an address the spec does
not give is free), or a fault of another chapter with its own record. -/
inductive SFault where
  | core (code : Nat) (addr : Option Word)
  | other (r : FaultRec)
deriving DecidableEq, Repr

/-! ## Splitting (12 R402) -/

/-- A range as runs that do not cross a 512-byte boundary: offset from the start, and length. -/
def split512 (a n : Nat) : List (Nat × Nat) :=
  if n = 0 then []
  else (List.range ((a + n - 1) / 512 - a / 512 + 1)).map fun i =>
    let lo := max a ((a / 512 + i) * 512)
    let hi := min (a + n) ((a / 512 + i + 1) * 512)
    (lo - a, hi - lo)

/-! ## The multicast tree (12 R421, 13 R437) -/

/-- The trays adjacent to tray j in the tray tree. -/
def trayAdj (trays j : Nat) : List Nat :=
  (if j = 0 then [] else [(j - 1) / 16]) ++ ((List.range 16).map fun i => 16 * j + i + 1).filter (· < trays)

/-- Edges on the longest path from tray j that does not return through tray `from`. -/
def trayReach (trays : Nat) : Nat → Nat → Nat → Nat
  | 0, _, _ => 0
  | n + 1, j, src => (((trayAdj trays j).filter (· ≠ src)).map fun k => 1 + trayReach trays n k j).foldl max 0

/-- The packages to which a copy goes, with HEIGHT: the leaders of adjacent trays except `src`, and every slot of the
mask. -/
def Group.mcastTo (g : Group) (self : PkgId) (src : Option Nat) : List (PkgId × Nat) :=
  let near := (trayAdj g.trays g.trayIndex).filter fun j => some j ≠ src
  (near.map fun j => (g.members.getD (g.leaders.getD j 0) 0, 1 + trayReach g.trays 8 j g.trayIndex)) ++
  ((List.range 16).filter fun i => g.mask.getLsbD i).map fun i =>
    (BitVec.ofNat 15 (pkgTray self * 16 + i), 0)

/-- The tray index of a package among a group's trays. -/
def Group.trayOf (g : Group) (p : PkgId) : Option Nat :=
  (List.range g.trays).find? fun j => pkgTray (g.members.getD (g.leaders.getD j 0) 0) = pkgTray p

/-! ## A core's transfers -/

/-- The transfer under a tag. -/
def Core.dma? (k : Core) (tag : Nat) : Option Dma := k.dmas.find? fun d => d.tag = tag

/-- A change to the transfer under a tag. -/
def Core.updDma (k : Core) (tag : Nat) (f : Dma → Dma) : Core :=
  { k with dmas := k.dmas.map fun d => if d.tag = tag then f d else d }

/-- A context of a partition on a core, live or saved. -/
def State.ctxCore (s : State) (p c : Nat) : Core :=
  if (s.core c).ctx = some p then s.core c else (s.savedCore p c).getD (s.core c)

/-- Transactions that a core has outstanding for its DMA tags and DATOMs (12 R397): of its live context, also those that
were suspended and have not gone out again, and DATOMs that wait for their engine. -/
def State.coreXacts (s : State) (c : Nat) : Nat := s.fabric.xacts.countP fun x =>
  (x.state ≠ .suspended || (s.core c).ctx = some x.part) && match x.owner with
    | .coreDma k _ _ => k = c && x.state ≠ .queued
    | .datom k _ => k = c
    | _ => false

/-- The partition on whose behalf a core acts. -/
def State.corePart (s : State) (c : Nat) : Nat := (s.coreOwner c).getD 0

/-- One run of a transfer between a global address and the scratchpad: a piece when the address is this package's, a
transaction otherwise (01 R30). -/
def State.dmaRun (s : State) (c : Nat) (d : Dma) (op : Nat) (comp : Bool) (g : Word) (off n : Nat) : State × Dma :=
  if gPkg g = s.self then (s, { d with pieces := d.pieces ++ [(gLocal g, off, n)] })
  else
    let data := if op = 1 then [] else memRead s.mem (spBase c + off) n
    let k : Pkt := {
      op := BitVec.ofNat 8 op, comp := comp, mv := d.mv, dst := gPkg g, src := 0, srcUnit := BitVec.ofNat 16 (coreUnit c),
      reqId := 0, job := 0, length := BitVec.ofNat 10 n, addr := BitVec.ofNat 48 (gLocal g),
      arg0 := if op = 4 then BitVec.ofNat 64 (d.imm.toNat % 256) else 0 }
    (s.newXact k data (.coreDma c d.tag off) (s.corePart c), { d with left := d.left + 1 })

/-- A range of a transfer, run by run. -/
def State.dmaRange (s : State) (c : Nat) (d : Dma) (op : Nat) (comp : Bool) (g : Word) (off n : Nat) : State × Dma :=
  (split512 (gLocal g) n).foldl (fun acc e =>
    acc.1.dmaRun c acc.2 op comp (g + BitVec.ofNat 64 e.1) (off + e.1) e.2) (s, d)

/-- A package that a range names is not in the system (12 R398). -/
def State.offSystem (s : State) (g : Word) (n : Nat) : Bool :=
  [g, g + BitVec.ofNat 64 (n - 1)].any fun a => gPkg a ≠ s.self && !s.inDims (gPkg a)

/-- A range of global addresses that a core issues: ADDR_NONCANONICAL (01 R31), then FABRIC_NO_ROUTE (12 R398). -/
def State.addrFault (s : State) (c : Nat) (g : Word) (n op : Nat) : Option FaultRec :=
  if !canonical g ∨ !canonical (g + BitVec.ofNat 64 (n - 1)) then some (s.recordOpen 0x0504 (coreUnit c) g)
  else if s.offSystem g n then some (s.fabricRecord 0x0506 (coreUnit c) g op 0)
  else none

/-- The checks of 03 R107 and R128 on global address, scratchpad offset and length. When several fail, the first in this
order is reported; a bad length reports the global address (log entry 36). Bytes beyond the scratchpad, and an offset
beyond it at length 0, raise SCRATCH_RANGE (log entry 113). -/
def blockChecks (g so n : Word) : Option SFault :=
  if g.toNat % 64 ≠ 0 then some (.core 0x0103 (some g))
  else if so.toNat % 64 ≠ 0 then some (.core 0x0103 (some so))
  else if n.toNat % 64 ≠ 0 ∨ n.toNat > 0x1000000 then some (.core 0x0103 (some g))
  else if so.toNat ≥ 0x100000 ∨ so.toNat + n.toNat > 0x100000 then some (.core 0x0105 (some so))
  else none

/-- A gather entry at a scratchpad offset: SRC, DST, LENGTH (08 R297). -/
def State.gatherEntry (s : State) (c off : Nat) : Word × Nat × Nat :=
  let bs := memRead s.mem (spBase c + off) 16
  (BitVec.ofNat 64 (field bs 0 8), field bs 8 4, field bs 12 4)

/-- Why an entry is refused (08 R302): the reason of detail word 2. -/
def gatherReason (base : Nat) (src : Word) (dst len : Nat) : Option Nat :=
  let dest := base + dst % 2 ^ 20
  if src.toNat % 64 ≠ 0 ∨ dest % 64 ≠ 0 ∨ len % 64 ≠ 0 then some 1
  else if len > 65536 then some 2
  else if dest + len > 0x100000 then some 3
  else if !canonical src then some 4
  else if dst ≥ 2 ^ 20 then some 5
  else none

/-- The record of GATHER_ENTRY (08 R302). -/
def State.gatherRecord (s : State) (c : Nat) (word addr : Word) (idx reason : Nat) : FaultRec :=
  s.record 0x0107 (coreUnit c) addr word.toNat idx reason ((s.core c).cycle64 / 64)

/-- The entries of a DGATH from index i on: runs up to the first that is refused. -/
def State.gather (s : State) (c : Nat) (d : Dma) : Nat → Nat → State × Dma
  | 0, _ => (s, d)
  | n + 1, i =>
    let off := d.so.toNat + 16 * i
    let (src, dst, len) := s.gatherEntry c off
    if len = 0 then s.gather c d n (i + 1)
    else
      let base := d.ga.toNat % 2 ^ 20
      match gatherReason base src dst len with
      | some r => (s, { d with fault := some (s.gatherRecord c d.word (BitVec.ofNat 64 off) i r) })
      | none =>
        match s.addrFault c src len 1 with
        | some r => (s, { d with fault := some r })
        | none =>
          let (s, d) := s.dmaRange c d 1 false src (base + dst % 2 ^ 20) len
          s.gather c d n (i + 1)

/-- The tiles of a compressed DPUT from offset o on (05 R186, R187). -/
def State.putTiles (s : State) (c : Nat) (d : Dma) : Nat → Nat → State × Dma
  | 0, _ => (s, d)
  | n + 1, o =>
    if o ≥ d.len.toNat then (s, d)
    else
      let bs := memRead s.mem (spBase c + d.so.toNat + o) (d.len.toNat - o)
      let h := tileHead bs
      let padded := roundUp h.length 64
      if h.length = 0 then (s, d)
      else if (tileOf bs).isNone ∨ o + padded > d.len.toNat then
        (s, { d with fault := some (s.recordOpen 0x0205 (coreUnit c) 0) })
      else
        let (s, d) := s.dmaRange c d 2 true (d.ga + BitVec.ofNat 64 o) (d.so.toNat + o) padded
        s.putTiles c d n (o + padded)

/-- A WRITE_MCAST of a range: a copy to each target of the tree, and the origin's own (12 R421). A group that is not in
the table has no member to write to (log entry 23). -/
def State.mcastRange (s : State) (c : Nat) (d : Dma) : State × Dma :=
  match Tab.get? s.groups (d.imm.toNat % 4096) with
  | none => (s, d)
  | some g =>
    let d := { d with pieces := (split512 d.ga.toNat d.len.toNat).map fun e =>
      (d.ga.toNat + e.1, d.so.toNat + e.1, e.2) }
    (split512 d.ga.toNat d.len.toNat).foldl (fun acc e =>
      (g.mcastTo s.self none).foldl (fun (acc : State × Dma) t =>
        let k : Pkt := {
          op := 3, mv := d.mv, dst := t.1, src := 0, srcUnit := BitVec.ofNat 16 (coreUnit c), reqId := 0, job := 0,
          length := BitVec.ofNat 10 e.2, addr := BitVec.ofNat 48 (d.ga.toNat + e.1),
          group := BitVec.ofNat 12 d.imm.toNat, height := BitVec.ofNat 4 t.2 }
        (acc.1.newXact k (memRead s.mem (spBase c + d.so.toNat + e.1) e.2) (.coreDma c d.tag (d.so.toNat + e.1))
          (s.corePart c), { acc.2 with left := acc.2.left + 1 })) acc) (s, d)

/-- Bytes of a DATOM's operand (03 R107, 12 R403). -/
def datomSize (imm : Nat) : Nat := if imm % 16 = 1 then 4 else if bit imm 4 then 8 else 4

/-- A DATOM issues: performed here when its address is this package's, sent otherwise. -/
def State.datomIssue (s : State) (c : Nat) (d : Dma) : State × Dma :=
  if gPkg d.ga = s.self then (s, d)
  else
    let n := datomSize d.imm.toNat
    let op := d.imm.toNat % 16
    let k : Pkt := {
      op := BitVec.ofNat 8 (atomicOpcode op), mv := d.mv, dst := gPkg d.ga, src := 0,
      srcUnit := BitVec.ofNat 16 (coreUnit c), reqId := 0, job := 0, length := BitVec.ofNat 10 n,
      addr := BitVec.ofNat 48 (gLocal d.ga), arg0 := d.so, arg1 := if op = 5 then d.len else 0 }
    (s.newXact k [] (.datom c d.tag) (s.corePart c), { d with left := 1 })

/-- The OP of chapter 12 that a transfer's accesses carry. -/
def dmaOpcode (op imm : Nat) : Nat := match op with
  | 0x08 => 1
  | 0x09 => 2
  | 0x0A => 1
  | 0x0B => 3
  | 0x0C => 4
  | _ => atomicOpcode (imm % 16)

/-- A context of the core is live or is being brought to rest. -/
def Core.drains (k : Core) : Bool := match k.preempt with
  | .live => true
  | .quiescing _ => true
  | _ => false

/-- The faults that a transfer raises when its word issues; MISALIGNED goes before the faults of the address (log entry
36). A gather list that reaches beyond the scratchpad raises GATHER_ENTRY also where its offset does (log entry 123). -/
def State.dmaFault (s : State) (c : Nat) (d : Dma) : Option SFault :=
  let op := d.op.toNat
  match op with
  | 0x0A =>
    if d.len.toNat > 4096 ∨ d.so.toNat % 16 ≠ 0 ∨ (d.len ≠ 0 ∧ d.so.toNat + 16 * d.len.toNat > 0x100000) then
      some (.other (s.gatherRecord c d.word d.so 0 6))
    else if d.so.toNat ≥ 0x100000 then some (.core 0x0105 (some d.so))
    else none
  | 0x0B =>
    match blockChecks d.ga d.so d.len with
    | some f => some f
    | none =>
      if d.len ≠ 0 ∧ d.ga.toNat ≥ 2 ^ 48 then
        some (.other (s.memRecord (MemErr.unmapped d.ga.toNat) (coreUnit c) d.ga 2))
      else none
  | 0x0D =>
    if d.ga.toNat % datomSize d.imm.toNat ≠ 0 then some (.core 0x0103 (some d.ga))
    else (s.addrFault c d.ga (datomSize d.imm.toNat) (dmaOpcode op d.imm.toNat)).map .other
  | 0x10 =>
    if d.so.toNat % 64 ≠ 0 ∨ d.len.toNat % 64 ≠ 0 then some (.core 0x0103 (some d.so))
    else if d.so.toNat ≥ 0x100000 ∨ d.so.toNat + d.len.toNat > 0x100000 then some (.core 0x0105 (some d.so))
    else none
  | _ =>
    match blockChecks d.ga d.so d.len with
    | some f => some f
    | none => if d.len = 0 then none else (s.addrFault c d.ga d.len.toNat (dmaOpcode op d.imm.toNat)).map .other

/-- The transfer starts under its tag. -/
def State.dmaStart (s : State) (c : Nat) (d : Dma) : State :=
  let (s, d) : State × Dma := match d.op.toNat with
    | 0x08 => s.dmaRange c d 1 false d.ga d.so.toNat d.len.toNat
    | 0x09 =>
      if d.imm.getLsbD 0 then s.putTiles c d (d.len.toNat / 64 + 1) 0
      else s.dmaRange c d 2 false d.ga d.so.toNat d.len.toNat
    | 0x0A => s.gather c d d.len.toNat 0
    | 0x0B => s.mcastRange c d
    | 0x0C => s.dmaRange c d 4 false d.ga d.so.toNat d.len.toNat
    | 0x0D => s.datomIssue c d
    | _ => (s, { d with left := 1 })
  { (s.updCore c fun k => { k with dmas := k.dmas ++ [d] }) with free := s.free + 8 }

/-- The scratchpad runs that a transfer touches (04 R151): for a DGATH its list and the destinations in it. -/
def State.transferRuns (s : State) (c : Nat) (d : Dma) : List (Nat × Nat) := match d.op.toNat with
  | 0x0A => (d.so.toNat, 16 * d.len.toNat) :: (List.range (min 4096 d.len.toNat)).map fun i =>
      let (_, dst, len) := s.gatherEntry c (d.so.toNat + 16 * i)
      (d.ga.toNat % 2 ^ 20 + dst % 2 ^ 20, len)
  | 0x0D => []
  | _ => [(d.so.toNat, d.len.toNat)]

/-- Two ranges share a 64-byte block. -/
def sameBlock (a n b m : Nat) : Bool := a / 64 ≤ (b + m - 1) / 64 && b / 64 ≤ (a + n - 1) / 64

/-- The ranges within the package that a transfer accesses: its pieces, or the word of a DATOM that is performed here. -/
def Dma.runs (d : Dma) : List (Nat × Nat) :=
  if d.op = 0x0D then (if d.left = 0 ∧ d.result.isNone then [(gLocal d.ga, datomSize d.imm.toNat)] else [])
  else d.pieces.map fun e => (e.1, e.2.2)

/-- A transfer accesses a 64-byte block of a range within the package (01 R21). -/
def Dma.hits (d : Dma) (a n : Nat) : Bool := d.runs.any fun e => sameBlock e.1 e.2 a n

/-- Data of a transfer reach the scratchpad. A 64-byte block that another entry of the same DGATH has already written
keeps that entry's bytes or takes these: which is not fixed (08 R301; log entry 2). -/
def State.landData (s : State) (c p tag off : Nat) (bs : Bytes) (gather : Bool) : State :=
  if !gather then { s with mem := memWrite s.mem (spBase c + off) bs }
  else
    (List.range (cdiv bs.length 64)).foldl (fun s i =>
      let at_ := off + 64 * i
      let again := (((s.ctxCore p c).dma? tag).map fun d => d.landed.contains at_).getD false
      let (n, s) := if again then s.draw else (1, s)
      let s := s.updCtx p c fun k => k.updDma tag fun d => { d with landed := at_ :: d.landed }
      if n % 2 = 0 then s else { s with mem := memWrite s.mem (spBase c + at_) ((bs.drop (64 * i)).take 64) }) s

/-! ## The pieces within the package -/

/-- A piece done: what it writes, or the record of the fault that ends the transfer. -/
def State.piece (s : State) (c : Nat) (d : Dma) (e : Nat × Nat × Nat) : Except FaultRec Unit × State :=
  let (a, off, n) := e
  let job := (s.partition (s.corePart c)).job
  let unit := coreUnit c
  match d.op.toNat with
  | 0x08 => get s job a off n unit
  | 0x0A => get s job a off n unit
  | 0x0C =>
    match s.reduceAt job (d.imm.toNat % 16) (d.imm.toNat / 16 % 16) a (memRead s.mem (spBase c + off) n) with
    | (.ok _, s) => (.ok (), s)
    | (.error r, s) => (.error (s.refusedRecord r unit (s.global a) 4 2), s)
  | _ =>
    match s.writeMem job a (memRead s.mem (spBase c + off) n) with
    | (.ok _, s) => (.ok (), s)
    | (.error e, s) => (.error (s.memRecord e unit (s.global e.at_) 2), s)
where
  get (s : State) (job : BitVec 32) (a off n unit : Nat) : Except FaultRec Unit × State :=
    let (bs, e, s) := s.readUpTo job a n
    let s := s.landData c (s.corePart c) d.tag off bs (d.op = 0x0A)
    match e with
    | none => (.ok (), s)
    | some e => (.error (s.memRecord e unit (s.global e.at_) 2), s)

/-- The pieces in order, up to the first that fails. -/
def State.piecesGo (s : State) (c : Nat) (d : Dma) : List (Nat × Nat × Nat) → Except FaultRec Unit × State
  | [] => (.ok (), s)
  | e :: rest =>
    match s.piece c d e with
    | (.error r, s) => (.error r, s)
    | (.ok _, s) => s.piecesGo c d rest

/-- The end of a transfer: its pieces, its deferred fault, and the value a DATOM returns. -/
def State.dmaEnd (s : State) (c : Nat) (d : Dma) : Option FaultRec × State :=
  let p := s.corePart c
  match s.piecesGo c d d.pieces with
  | (.error r, s) => (some r, s)
  | (.ok _, s) =>
    match d.fault with
    | some r => (some { r with
        season := s.season.k0
        d3 := if r.code = 0x0107 then BitVec.ofNat 64 ((s.core c).cycle64 / 64) else r.d3 }, s)
    | none =>
      let done (s : State) (v : Option Word) : State := s.updCore c fun k =>
        let k := { k with dmas := k.dmas.filter fun x => x.tag ≠ d.tag }
        match v with
        | some v => { k.ws d.reg.toNat v with stopRegs := k.stopRegs.filter (· ≠ d.reg) }
        | none => k
      if d.op = 0x0D then
        match d.result with
        | some v => (none, done s (some v))
        | none =>
          match s.atomicAt (s.partition p).job (d.imm.toNat % 16) (8 * datomSize d.imm.toNat) (gLocal d.ga) d.so d.len with
          | (.ok v, s) => (none, done s (some v))
          | (.error r, s) =>
            (some (s.refusedRecord r (coreUnit c) d.ga (dmaOpcode 0x0D d.imm.toNat) 2), s)
      else (none, done s none)

end Sys2Proof.Machine
end

