-- ==== Sys2Proof/Machine/DriftUnit.lean ====
section
/-! DEFINITION. Drift, the hash accumulator of a core (05 R188 to R200). Its entries lie in the core's Drift window
(R198): KEY, VALUE and STAMP at (set × 8 + way) × 16. -/

namespace Sys2Proof.Machine

open Sys2Proof

/-- An entry: KEY, VALUE, STAMP. -/
structure DriftEntry where
  key : Nat
  value : Nat
  stamp : Nat
deriving DecidableEq, Repr

def DriftEntry.bytes (e : DriftEntry) : Bytes := leBytes 8 e.key ++ leBytes 4 e.value ++ leBytes 4 e.stamp

def driftEntryOf (bs : Bytes) : DriftEntry := ⟨field bs 0 8, field bs 8 4, field bs 12 4⟩

/-- The set of a key (05 R189). -/
def driftSet (k : Nat) : Nat :=
  (List.range 7).foldl (fun acc i => acc ^^^ ((k >>> (9 * i)) % 512)) 0 ^^^ (k >>> 63)

def driftAddr (c set way : Nat) : Nat := driftBase c + (set * 8 + way) * 16

/-- The entry in a way; STAMP 0 is an empty way. -/
def State.driftEntry (s : State) (c set way : Nat) : DriftEntry := driftEntryOf (memRead s.mem (driftAddr c set way) 16)

def State.putDrift (s : State) (c set way : Nat) (e : DriftEntry) : State :=
  { s with mem := memWrite s.mem (driftAddr c set way) e.bytes }

/-- A way becomes empty. -/
def State.freeDrift (s : State) (c set way : Nat) : State :=
  s.putDrift c set way { s.driftEntry c set way with stamp := 0 }

/-- The way of a set that holds a key, and its lowest empty way. -/
def State.driftFind (s : State) (c k : Nat) : Option Nat :=
  (List.range 8).find? fun w => let e := s.driftEntry c (driftSet k) w; e.stamp ≠ 0 && e.key = k
def State.driftHole (s : State) (c set : Nat) : Option Nat :=
  (List.range 8).find? fun w => (s.driftEntry c set w).stamp = 0

/-- Every entry that is valid, with its set and way. -/
def State.driftValid (s : State) (c : Nat) : List (Nat × Nat × DriftEntry) :=
  (List.range 4096).filterMap fun i =>
    let e := s.driftEntry c (i / 8) (i % 8)
    if e.stamp = 0 then none else some (i / 8, i % 8, e)

/-! ## The overflow regions (05 R192, R193, R199) -/

/-- Where the descriptor lies. -/
def driftDesc : Nat := 0xFFFC0

/-- The descriptor, checked: SP_BASE, SP_SIZE, HBM_BASE (local), HBM_SIZE; `none` is DRIFT_CONFIG. -/
def State.driftLatch (s : State) (c : Nat) : Option (Nat × Nat × Nat × Nat) :=
  let bs := memRead s.mem (spBase c + driftDesc) 64
  let sp := field bs 0 8
  let spn := field bs 8 8
  let hb : Word := BitVec.ofNat 64 (field bs 16 8)
  let hbn := field bs 24 8
  let bad := sp ≥ 2 ^ 20 || sp % 64 ≠ 0 || spn % 64 ≠ 0 || hb.toNat % 64 ≠ 0 || hbn % 64 ≠ 0 ||
    !allZero (bs.drop 32) || (spn ≠ 0 && sp + spn > driftDesc) ||
    (hbn ≠ 0 && (!canonical hb || gPkg hb ≠ s.self || gLocal hb + hbn > regionUnit * s.hbmUnits))
  if bad then none else some (sp, spn, gLocal hb, hbn)

/-- A DADD or a DDRAIN that faults. -/
inductive DriftFault where
  | config
  | overflow
  | mem (e : MemErr)
  | range
deriving DecidableEq, Repr

def State.updDrift (s : State) (c : Nat) (f : Drift → Drift) : State := s.updCore c fun k => { k with drift := f k.drift }

/-- Where the next batch goes: in the scratchpad region until it is full, then in HBM (05 R191, R200). -/
def Drift.place (d : Drift) (l : Nat × Nat × Nat × Nat) (c : Nat) : Option (Nat × Drift) :=
  if d.spFill + 64 ≤ l.2.1 then some (spBase c + l.1 + d.spFill, { d with spFill := d.spFill + 64 })
  else if d.hbmFill + 64 ≤ l.2.2.2 then some (l.2.2.1 + d.hbmFill, { d with hbmFill := d.hbmFill + 64 })
  else none

/-- A set spills its four entries of lowest STAMP (05 R191). -/
def State.driftSpill (s : State) (c set : Nat) : Except DriftFault Unit × State :=
  let d := (s.core c).drift
  let latch := match d.latch with
    | some l => some l
    | none => s.driftLatch c
  match latch with
  | none => (.error .config, s)
  | some l =>
    match d.place l c with
    | none => (.error .overflow, s)
    | some (addr, d) =>
      let all := (List.range 8).map fun w => (w, s.driftEntry c set w)
      let out := (all.mergeSort fun a b => a.2.stamp ≤ b.2.stamp).take 4
      let bytes := ((out.mergeSort fun a b => a.2.key ≤ b.2.key).flatMap fun e => e.2.bytes)
      let s := out.foldl (fun s e => s.freeDrift c set e.1) s
      let s := s.updDrift c fun _ => { d with
        latch := some l, spill := d.spill + 1,
        batches := d.batches ++ [⟨d.spill, addr, List.replicate 4 true⟩] }
      match s.writeMem ((s.partition ((s.coreOwner c).getD 0)).job) addr bytes with
      | (.error e, s) => (.error (.mem e), s)
      | (.ok _, s) => (.ok (), s)

/-- The scratchpad runs that a DADD of a key touches: none, or, when its set spills, the descriptor and the region (05
R191, R192). -/
def State.daddRuns (s : State) (c k : Nat) : List (Nat × Nat) :=
  if (s.driftFind c k).isSome ∨ (s.driftHole c (driftSet k)).isSome then []
  else (driftDesc, 64) :: (((s.core c).drift.latch.or (s.driftLatch c)).map fun l => (l.1, l.2.1)).toList

/-- The scratchpad runs that a DDRAIN touches: its records and the spilled batches. -/
def State.ddrainRuns (s : State) (c n off : Nat) : List (Nat × Nat) :=
  (off, 16 * min n 65536) :: (((s.core c).drift.batches.filter fun b =>
    spBase c ≤ b.addr && b.addr < spBase c + 0x100000).map fun b => (b.addr - spBase c, 64))

/-- The batches in HBM that a DADD of a key writes, when its set spills, or that a DDRAIN reads (05 R191, R195). -/
def State.driftBlocks (s : State) (c op k : Nat) : List Nat :=
  let d := (s.core c).drift
  let at_ : List Nat :=
    if op = 0x1A then d.batches.map (·.addr)
    else if (s.driftFind c k).isSome ∨ (s.driftHole c (driftSet k)).isSome then []
    else ((d.latch.or (s.driftLatch c)).bind fun l => d.place l c).toList.map (·.1)
  at_.filter fun a => a < spBase c || spBase c + 0x100000 ≤ a

/-- DADD of x to key k (05 R190, R200). -/
def State.dadd (s : State) (c k x : Nat) : Except DriftFault Unit × State :=
  let n := (s.core c).drift.seq + 1
  if n > 0xFFFFFFFF then (.error .overflow, s)
  else
    let set := driftSet k
    let s' := s.updDrift c fun d => { d with seq := n }
    match s.driftFind c k with
    | some w =>
      let e := s.driftEntry c set w
      (.ok (), s'.putDrift c set w ⟨k, (fp32.add e.value x).1, n⟩)
    | none =>
      match s.driftHole c set with
      | some w => (.ok (), s'.putDrift c set w ⟨k, x, n⟩)
      | none =>
        match s'.driftSpill c set with
        | (.error e, _) => (.error e, s)
        | (.ok _, s') =>
          match s'.driftHole c set with
          | some w => (.ok (), s'.putDrift c set w ⟨k, x, n⟩)
          | none => (.ok (), s')

/-! ## DDRAIN (05 R195) -/

/-- The bytes of a batch. -/
def State.batchBytes (s : State) (c : Nat) (b : Batch) : Except MemErr Bytes × State :=
  s.readMem ((s.partition ((s.coreOwner c).getD 0)).job) b.addr 64

/-- The batches with the four entries that each holds, in increasing spill number. -/
def State.readBatches (s : State) (c : Nat) : List Batch → Except MemErr (List (Batch × List DriftEntry)) × State
  | [] => (.ok [], s)
  | b :: rest =>
    match s.batchBytes c b with
    | (.error e, s) => (.error e, s)
    | (.ok bs, s) =>
      match s.readBatches c rest with
      | (.error e, s) => (.error e, s)
      | (.ok l, s) => (.ok ((b, (List.range 4).map fun i => driftEntryOf (bs.drop (16 * i))) :: l), s)

/-- Copies of a key fold into one value, in order. -/
def foldCopies : List Nat → Nat
  | [] => 0
  | v :: vs => vs.foldl (fun acc x => (fp32.add acc x).1) v

/-- Live copies in batches: key and value, in increasing spill number. -/
def liveCopies (l : List (Batch × List DriftEntry)) : List (Nat × Nat) :=
  l.flatMap fun e => (e.2.mapIdx fun i x => (i, x)).filterMap fun x =>
    if e.1.live.getD x.1 false then some (x.2.key, x.2.value) else none

/-- The regions that a DDRAIN's records must not overlap (05 R199). -/
def Drift.guarded (d : Drift) : List (Nat × Nat) :=
  (driftDesc, 64) :: match d.latch with
    | some l => [(l.1, l.2.1)]
    | none => []

/-- DDRAIN of up to n records to scratchpad offset `off`: the number written. Its range is checked as a transfer's (log entry
113). -/
def State.ddrain (s : State) (c n off : Nat) : Except DriftFault Nat × State :=
  let d := (s.core c).drift
  match s.readBatches c d.batches with
  | (.error e, s') => (.error (.mem e), s')
  | (.ok bl, s) =>
    let copies := liveCopies bl
    let held := s.driftValid c
    let keys := ((copies.map (·.1) ++ held.map (·.2.2.key)).mergeSort (· ≤ ·)).eraseDups.take n
    let len := 16 * keys.length
    if len ≠ 0 ∧ (d.guarded.any fun g => g.2 ≠ 0 && off < g.1 + g.2 && g.1 < off + len) then (.error .config, s)
    else if off ≥ 0x100000 ∨ off + len > 0x100000 then (.error .range, s)
    else
      let value (k : Nat) : Nat :=
        foldCopies (((copies.filter fun x => x.1 = k).map (·.2)) ++
          ((held.filter fun x => x.2.2.key = k).map (·.2.2.value)))
      let records := keys.flatMap fun k => leBytes 8 k ++ leBytes 4 (value k) ++ zeros 4
      let s := { s with mem := memWrite s.mem (spBase c + off) records }
      let s := (held.filter fun x => keys.contains x.2.2.key).foldl (fun s x => s.freeDrift c x.1 x.2.1) s
      let left := bl.map fun e => { e.1 with live := e.1.live.mapIdx fun i x => x && !keys.contains (e.2.getD i ⟨0, 0, 0⟩).key }
      let left := left.filter fun b => b.live.any id
      let empty : Bool := left.isEmpty && (held.all fun x => keys.contains x.2.2.key)
      (.ok keys.length, s.updDrift c fun d => if empty then Drift.empty else { d with batches := left })

end Sys2Proof.Machine
end

