-- ==== Sys2Proof/Machine/MatrixUnit.lean ====
section
/-! DEFINITION. The matrix unit (04 R131 to R158, 05 R174 to R184): the operands of each operation, the faults found at
issue, the interlock of R151, and what an operation reads, computes and writes. -/

namespace Sys2Proof.Machine

open Sys2Proof

/-! ## Shapes and operands (04 R134, R141) -/

/-- K per Cumulus step, which is also the rounding group G; doubled by 2:4 (04 R134), for MXFP4 too (log entry 129). -/
def kSpan (fmt : Nat) (s24 : Bool) : Nat := (if fmt = 8 then 32 else 16) * (if s24 then 2 else 1)

def MatOp.code (o : MatOp) : Nat := o.op.toNat
def MatOp.f (o : MatOp) : Nat := o.fmt.toNat
def MatOp.s24 (o : MatOp) : Bool := o.imm.getLsbD 16
def MatOp.tile (o : MatOp) : Bool := o.imm.getLsbD 15
def MatOp.span (o : MatOp) : Nat := kSpan o.f o.s24
def MatOp.engines (o : MatOp) : List Nat := (List.range 4).filter fun e => o.emask.getLsbD e

/-- s[RB][15:0] M, s[RB][39:16], s[RB][63:40], and s[RC]'s fields. -/
def MatOp.m (o : MatOp) : Nat := fld o.b.toNat 15 0
def MatOp.bMid (o : MatOp) : Nat := fld o.b.toNat 39 16
def MatOp.bHigh (o : MatOp) : Nat := fld o.b.toNat 63 40
def MatOp.accOff (o : MatOp) : Nat := fld o.c.toNat 16 0
def MatOp.scaleBase (o : MatOp) : Nat := fld o.c.toNat 36 17
def MatOp.indexBase (o : MatOp) : Nat := fld o.c.toNat 56 37

/-- Whole bytes that `n` elements of a format take. -/
def rowBytes (fmt n : Nat) : Nat := cdiv (n * elemBits fmt) 8

/-- Columns of MBIAS and MDRAIN: 64 in Cumulus, 256 in Stratus (04 R142). -/
def bodyCols (stratus : Bool) : Nat := if stratus then 256 else 64

/-- Bytes of an entry that MDRAIN writes, and of one that MBIAS reads. -/
def drainSize (fmt : Nat) : Nat := if fmt = 9 ∨ fmt = 0xA then 4 else if fmt ≤ 1 then 2 else 1

/-- A run of bytes that an operation reads or writes: in the accumulator store or the scratchpad, start, length. -/
structure Run where
  acc : Bool
  start : Nat
  len : Nat
deriving DecidableEq, Repr

/-- Bytes of a packed weight tile of one engine, its index block included. -/
def MatOp.packedTile (o : MatOp) : Nat :=
  kSpan o.f false * rowBytes o.f 16 + (if o.s24 then o.span * 2 else 0)

/-- The operands of an operation: the offset as issued, and the runs; `tileLen` is the LENGTH of the compressed tile at
s[RA]. A compressed MDRAIN reaches as far as a tile of its shape that stores every block (log entry 127). -/
def MatOp.operands (o : MatOp) (stratus : Bool) (tileLen : Nat) : List (Nat × List Run) :=
  let a := o.a.toNat
  let mx (l : List (Nat × List Run)) : List (Nat × List Run) := if isMX o.f then l else []
  match o.code with
  | 0x02 =>
    if stratus then
      (a, (List.range o.m).map fun r => ⟨false, a + r * o.bHigh, rowBytes o.f o.bMid⟩) ::
      mx [(o.c.toNat, [⟨false, o.c.toNat, o.m * cdiv o.bMid 32⟩])]
    else if o.tile then [(a, [⟨false, a, max 32 tileLen⟩])]
    else
      (a, o.engines.map fun e => ⟨false, a + e * fld o.b.toNat 23 0, o.packedTile⟩) ::
      mx [(o.c.toNat, o.engines.map fun e => ⟨false, o.c.toNat + 16 * e, 16⟩)]
  | 0x03 =>
    (if o.m = 0 then []
     else if o.tile then [(a, [⟨false, a, max 32 tileLen⟩])]
     else (a, (List.range o.m).map fun r => ⟨false, a + r * o.bMid, rowBytes o.f o.span⟩) ::
       mx [(o.scaleBase, (List.range o.m).map fun r => ⟨false, o.scaleBase + r * o.bHigh, 1⟩)]) ++
    [(o.accOff, [⟨true, o.accOff, o.m * 256⟩])]
  | 0x04 =>
    (if o.m = 0 ∨ o.bMid = 0 then []
     else (a, (List.range (if o.s24 then o.bMid / 2 else o.bMid)).map fun k => ⟨false, a + k * o.bHigh, rowBytes o.f 256⟩) ::
       mx [(o.scaleBase, [⟨false, o.scaleBase, cdiv o.bMid 32 * 256⟩])] ++
       (if o.s24 then [(o.indexBase, [⟨false, o.indexBase, o.bMid / 4 * 128⟩])] else [])) ++
    [(o.accOff, [⟨true, o.accOff, o.m * 1024⟩])]
  | 0x05 => [(a, [⟨true, a, o.b.toNat⟩])]
  | 0x06 => if o.m = 0 then [] else
      [(a, [⟨false, a, bodyCols stratus * (if o.f = 0 then 2 else 4)⟩]),
       (o.c.toNat, [⟨true, o.c.toNat, o.m * bodyCols stratus * 4⟩])]
  | 0x07 => if o.m = 0 then [] else
      [(a, [⟨true, a, o.m * bodyCols stratus * 4⟩]),
       (o.c.toNat, if o.tile then [⟨false, o.c.toNat, 32 + (dimFor o.m).1 * rowBytes o.f 64⟩]
         else (List.range o.m).map fun r => ⟨false, o.c.toNat + r * o.bMid, bodyCols stratus * drainSize o.f⟩)]
  | _ => []

/-- The runs that an operation reads or writes; an MSTREAM with K = 0 writes nothing (04 R147). -/
def MatOp.runs (o : MatOp) (stratus : Bool) (tileLen : Nat) : List Run :=
  if o.code = 0x04 ∧ o.bMid = 0 then [] else (o.operands stratus tileLen).flatMap (·.2)

/-- A run reaches beyond its memory (04 R146). -/
def Run.beyond (r : Run) : Bool := r.len ≠ 0 && r.start + r.len > (if r.acc then 0x20000 else 0x100000)

/-- Two runs share a byte. -/
def Run.meets (r q : Run) : Bool :=
  r.acc = q.acc && r.start < q.start + q.len && q.start < r.start + r.len && r.len ≠ 0 && q.len ≠ 0

/-- The first base or stride that is not aligned, in the order of the operands; a stride or a byte count is named by the
base that it belongs to (04 R145; log entry 109). -/
def MatOp.misaligned (o : MatOp) (stratus : Bool) : Option Word :=
  let l : List (Nat × Nat × Word) := match o.code with
    | 0x02 =>
      if stratus then [(o.a.toNat, 4, o.a), (o.bHigh, 4, o.a)]
      else if o.tile then [(o.a.toNat, 4, o.a)] else [(o.a.toNat, 4, o.a), (fld o.b.toNat 23 0, 4, o.a)]
    | 0x03 => (o.a.toNat, 4, o.a) :: (if o.tile then [] else [(o.bMid, 4, o.a)]) ++ [(o.accOff, 256, BitVec.ofNat 64 o.accOff)]
    | 0x04 => [(o.a.toNat, 4, o.a), (o.bHigh, 4, o.a), (o.accOff, 256, BitVec.ofNat 64 o.accOff)]
    | 0x05 => [(o.a.toNat, 256, o.a), (o.b.toNat, 256, o.a)]
    | 0x06 => [(o.a.toNat, 4, o.a), (o.c.toNat, 256, o.c)]
    | 0x07 => [(o.a.toNat, 256, o.a), (o.c.toNat, 4, o.c)] ++ (if o.tile then [] else [(o.bMid, 4, o.c)])
    | _ => []
  (l.find? fun e => e.1 % e.2.1 ≠ 0).map (·.2.2)

/-! ## The unit as a later operation in program order finds it (04 R135, R139, R149) -/

/-- The form, the records of each engine's active and shadow bank, and the M and K of the last Stratus MWLD. -/
structure Ahead where
  stratus : Bool
  recs : List (Option (BitVec 4 × Bool) × Option (BitVec 4 × Bool))
  lastM : Nat
  lastK : Nat
deriving DecidableEq, Repr

def Matrix.engine (m : Matrix) (e : Nat) : EngineBanks := Tab.get EngineBanks.zero m.engines e

/-- One operation that has not yet taken effect, taken in program order. A Stratus MWLD with M = 0 counts as the last one (04
R139, R147; log entry 108). -/
def Ahead.after (h : Ahead) (o : MatOp) : Ahead := match o.code with
  | 0x01 => ⟨o.imm.getLsbD 0, List.replicate 4 (none, none), 0, 0⟩
  | 0x02 =>
    if h.stratus then { h with lastM := o.m, lastK := o.bMid }
    else { h with recs := h.recs.mapIdx fun e x => if o.emask.getLsbD e then (x.1, some (o.fmt, o.s24)) else x }
  | 0x03 =>
    if o.running then h
    else { h with recs := h.recs.mapIdx fun e x => if o.emask.getLsbD e then (x.2, x.1) else x }
  | _ => h

/-- Operations of both lanes in program order. -/
def Matrix.queued (m : Matrix) : List MatOp := (m.loadQ ++ m.compQ).mergeSort fun a b => a.seq ≤ b.seq

def Matrix.ahead (m : Matrix) : Ahead :=
  m.queued.foldl Ahead.after
    ⟨m.stratus, (List.range 4).map fun e => ((m.engine e).active.record, (m.engine e).shadow.record), m.lastM, m.lastK⟩

/-- The form in which an operation that is already queued runs. -/
def Matrix.formAt (m : Matrix) (o : MatOp) : Bool :=
  ((m.queued.filter fun x => x.seq < o.seq).foldl Ahead.after ⟨m.stratus, [], 0, 0⟩).stratus

/-- A shape that raises MATRIX_SHAPE at issue (04 R135, R138, R139, R147, 05 R175, R179); a compressed MDRAIN of more than
64 rows is one (log entry 132). -/
def Ahead.badShape (h : Ahead) (o : MatOp) : Bool := match o.code with
  | 0x02 => h.stratus && (o.tile || o.m > 16 || o.m * o.bMid * elemBits o.f > 8 * 16384)
  | 0x03 => o.m > 512 || (o.tile && (o.m > 64 || o.bMid % o.span ≠ 0)) ||
      (o.engines.any fun e => match (h.recs.getD e (none, none)).2 with
        | some r => r ≠ (o.fmt, o.s24)
        | none => false)
  | 0x04 => o.tile || o.m > 16 ||
      (o.m ≠ 0 && o.bMid ≠ 0 && (o.bMid % o.span ≠ 0 || o.bMid > h.lastK || o.m > h.lastM))
  | 0x07 => o.tile && (h.stratus || o.m > 64)
  | _ => false

/-- The first fault of 04 R149 after ILLEGAL_WORD: the code, and the faulting address if the spec gives one; SCRATCH_RANGE
names the operand's offset as issued (03 R128), of several operands out of range the first (log entry 109). -/
def Ahead.issueFault (h : Ahead) (o : MatOp) (tileLen : Nat) : Option (Nat × Option Word) :=
  if (o.code = 0x03 && h.stratus) || (o.code = 0x04 && !h.stratus) then some (0x0203, none)
  else if h.badShape o then some (0x0204, none)
  else match o.misaligned h.stratus with
    | some a => some (0x0103, some a)
    | none =>
      match (o.operands h.stratus tileLen).find? fun e => e.2.any Run.beyond with
      | some e => some (0x0105, some (BitVec.ofNat 64 e.1))
      | none => none

/-! ## Reading operands -/

/-- Bytes of a core's scratchpad, and an entry of its accumulator store. -/
def State.spBytes (s : State) (c off n : Nat) : Bytes := memRead s.mem (spBase c + off) n
def State.accEntry (s : State) (c off : Nat) : Nat := leNat (memRead s.mem (accBase c + off) 4)

/-- The bytes of the compressed tile at a scratchpad offset, as far as the scratchpad reaches. -/
def State.tileBytes (s : State) (c off : Nat) : Bytes :=
  let len := (tileHead (s.spBytes c off 32)).length
  s.spBytes c off (min (max 32 len) (0x100000 - off))

/-- LENGTH in the header of the tile that an operation names, as the scratchpad holds it now: at issue, whatever an earlier
MDRAIN has yet to write (log entry 110). -/
def State.tileLen (s : State) (c : Nat) (o : MatOp) : Nat := (tileHead (s.spBytes c o.a.toNat 32)).length

/-- The runs of a queued operation. -/
def State.opRuns (s : State) (c : Nat) (o : MatOp) : List Run := o.runs ((s.core c).matrix.formAt o) (s.tileLen c o)

/-- The interlock of 04 R151: a run that a queued or running matrix operation reads or writes. -/
def State.interlocked (s : State) (c : Nat) (r : Run) : Bool :=
  (s.core c).matrix.queued.any fun o => (s.opRuns c o).any r.meets

/-- A fault that the matrix unit finds in an operand (05 R173, R175, R184). -/
inductive ReadFault where
  /-- SPARSE_DECL_VIOLATION or SPARSE_INDEX_RANGE, with detail words 1 to 3. -/
  | sparse (code d1 d2 d3 : Nat)
  | shape
  /-- TILE_FORMAT, with bytes 0 to 7 of the header. -/
  | tileFormat (head : Nat)
  | range
deriving DecidableEq, Repr

/-- The code of a K position that forms no product (05 R176, R180). -/
def noProduct : Nat := 0x10000

/-- Nibble of group g and column n: i0 and i1. -/
def nibbleOf (q : Nat) : Nat × Nat := (q % 4, q / 4 % 4)

/-- The codes of K × N weights from kept rows and index nibbles (05 R180), row by row. -/
def expand24 (k n : Nat) (kept : Nat → Nat → Nat) (nib : Nat → Nat → Nat) : List Nat :=
  (List.range (k * n)).map fun x =>
    let r := x / n
    let j := x % n
    let (i0, i1) := nibbleOf (nib (r / 4) j)
    if r % 4 = i0 then kept (2 * (r / 4)) j else if r % 4 = i1 then kept (2 * (r / 4) + 1) j else noProduct

/-- The first group whose indices break R181: group, column, nibble. -/
def badNibble (groups n : Nat) (nib : Nat → Nat → Nat) : Option (Nat × Nat × Nat) :=
  (List.range (groups * n)).findSome? fun x =>
    let q := nib (x / n) (x % n)
    let (i0, i1) := nibbleOf q
    if i0 ≥ i1 then some (x / n, x % n, q) else none

def nibbleFault (f : Nat × Nat × Nat) : ReadFault := .sparse 0x0201 (f.1 + f.2.1 * 65536) f.2.2 0

/-- The packed weight tile of engine e (04 R141, 05 R180). -/
def State.packedBank (s : State) (c : Nat) (o : MatOp) (e : Nat) : Except ReadFault Bank :=
  let base := o.a.toNat + e * fld o.b.toNat 23 0
  let bits := elemBits o.f
  let rb := rowBytes o.f 16
  let rows := (List.range (kSpan o.f false)).map fun k => leNat (s.spBytes c (base + k * rb) rb)
  let kept (k n : Nat) : Nat := elemAt bits (rows.getD k 0) n
  let scales := if isMX o.f then (s.spBytes c (o.c.toNat + 16 * e) 16).map (·.toNat) else []
  let codes : Except ReadFault (List Nat) :=
    if o.s24 then
      let idx := leNat (s.spBytes c (base + kSpan o.f false * rb) (o.span * 2))
      let nib (g n : Nat) : Nat := (idx >>> (4 * (g * 16 + n))) % 16
      match badNibble (o.span / 4) 16 nib with
      | some f => .error (nibbleFault f)
      | none => .ok (expand24 o.span 16 kept nib)
    else .ok ((List.range (o.span * 16)).map fun x => kept (x / 16) (x % 16))
  match codes with
  | .error f => .error f
  | .ok l => .ok ⟨some (o.fmt, o.s24), l, scales, []⟩

/-- Non-zero elements of K group g in a column of a weight tile, as positions in the group. -/
def Tile.kept (t : Tile) (g n : Nat) : List Nat :=
  (List.range 4).filter fun i => !elemZero t.head.fmt (t.code (4 * g + i) n)

/-- The compressed weight tile of a Cumulus MWLD, checked (05 R174, R175, R182, R183): a shape that R174 does not allow is a
MATRIX_SHAPE (log entry 130). An index derived from a non-zero
element that is stored below the valid rows names a K position beyond the valid extent; the groups' counts are checked
first (log entry 41). -/
def State.weightTile (s : State) (c : Nat) (o : MatOp) : Except ReadFault Tile :=
  let off := o.a.toNat
  let bs := s.tileBytes c off
  if off + (tileHead bs).length > 0x100000 then .error .range
  else match tileOf bs with
    | none => .error (.tileFormat (tileHead bs).word)
    | some t =>
      if !t.head.krows || t.head.cols ≠ 64 || t.head.rows ≠ o.span then .error .shape
      else match t.outside with
        | some b => .error (.sparse 0x0202 (b + b % 16 * 4 * 65536) b t.head.word)
        | none =>
          if !o.s24 then .ok t
          else if !t.head.s24 then
            .error (.sparse 0x0201 (Config.freeNat s.free % 2 ^ 32) (Config.freeNat (s.free + 1)) t.head.word)
          else
            match (List.range (o.span / 4 * 64)).find? fun x => (t.kept (x / 64) (x % 64)).length > 2 with
            | some x =>
              .error (.sparse 0x0201 (x / 64 + x % 64 * 65536) (t.kept (x / 64) (x % 64)).length t.head.word)
            | none =>
              match t.strays.find? fun e => e.2 < t.head.vcols with
              | some (k, n) => .error (.sparse 0x0202 (k / 4 + n * 65536) k t.head.word)
              | none => .ok t

/-- Engine e's bank from a compressed weight tile; elements in another format than the operation's are not defined
(log entry 19). A group of an S24 tile with fewer than two non-zeros forms no product at its zeros (log entry 133). -/
def Tile.bank (t : Tile) (o : MatOp) (e free : Nat) : Bank :=
  let codes := (List.range (o.span * 16)).map fun x =>
    let k := x / 16
    let n := 16 * e + x % 16
    if t.head.fmt ≠ o.f then Config.freeNat (free + e * 1024 + x) % 2 ^ elemBits o.f
    else if o.s24 ∧ !(t.kept (k / 4) n).contains (k % 4) then noProduct
    else t.code k n
  ⟨some (o.fmt, o.s24), codes,
    (List.range (16 * t.head.perLine)).map fun x => t.scales.getD ((16 * e + x % 16) * t.head.perLine + x / 16) 127,
    (List.range (o.span / 4 * 4)).map fun b => t.has (b / 4) (4 * e + b % 4)⟩

/-- The scale of K position k in a column of a compressed tile: the tile may carry two scales on a line, and each goes with
its own 32 positions (log entry 111). -/
def Tile.scaleAt (t : Tile) (line k : Nat) : Nat := t.scales.getD (line * t.head.perLine + k / 32) 127

/-! ## Arithmetic (04 R154 to R157) -/

/-- A product: codes and scales of the activation and the weight. -/
structure Product where
  a : Nat
  w : Nat
  sa : Nat
  sw : Nat
deriving DecidableEq, Repr

/-- One rounding group into an accumulator entry. -/
def groupInto (fmt acc : Nat) (l : List Product) : Nat × BitVec 5 :=
  let l := l.filter fun p => p.a < noProduct && p.w < noProduct
  if isInt8 fmt then
    ((BitVec.ofInt 32 (acc + (l.map fun p => signed 8 p.a * signed 8 p.w).sum)).toNat, 0)
  else
    let one (c s : Nat) : Val := if isMX fmt then (elemVal fmt c).mul (scaleVal s) else elemVal fmt c
    accumulate acc (l.map fun p => (one p.a p.sa).mul (one p.w p.sw))

/-- What a compute-lane operation writes: entries of the accumulator store with their successive values, scratchpad
bytes, and flags. -/
structure Written where
  entries : List (Nat × List Word32)
  bytes : List (Nat × Byte)
  flags : BitVec 5
deriving DecidableEq, Repr

def Written.nothing : Written := ⟨[], [], 0⟩

/-- The activation operand of an MMUL: the code, the scale of (row, K), and which blocks are present. -/
structure Slice where
  code : Nat → Nat → Nat
  scale : Nat → Nat → Nat
  has : Nat → Nat → Bool

/-- The activation slice of an MMUL (04 R141, 05 R174, R175). -/
def State.actSlice (s : State) (c : Nat) (o : MatOp) : Except ReadFault Slice :=
  if o.tile then
    let off := o.a.toNat
    let bs := s.tileBytes c off
    if off + (tileHead bs).length > 0x100000 then .error .range
    else match tileOf bs with
      | none => .error (.tileFormat (tileHead bs).word)
      | some t =>
        if t.head.krows || t.head.cols < o.bMid + o.span || o.m ≠ t.head.vrows then .error .shape
        else match t.outside with
          | some b => .error (.sparse 0x0202 (b + b % (t.head.cols / 4) * 4 * 65536) b t.head.word)
          | none => .ok ⟨
              fun r k => if t.head.fmt ≠ o.f then Config.freeNat (s.free + r * 1024 + k) % 2 ^ elemBits o.f
                else t.code r (o.bMid + k),
              fun r k => t.scaleAt r (o.bMid + k),
              fun br kb => t.has br (o.bMid / 4 + kb)⟩
  else
    let rb := rowBytes o.f o.span
    .ok ⟨fun r k => elemAt (elemBits o.f) (leNat (s.spBytes c (o.a.toNat + r * o.bMid) rb)) k,
      fun r _ => leNat (s.spBytes c (o.scaleBase + r * o.bHigh) 1),
      fun _ _ => true⟩

/-- An MMUL with its active banks (04 R137, 05 R176, R177). -/
def State.mmul (s : State) (c : Nat) (o : MatOp) (m : Matrix) : Except ReadFault Written :=
  if o.m = 0 then .ok Written.nothing
  else match s.actSlice c o with
    | .error f => .error f
    | .ok x =>
      let cells := (List.range o.m).flatMap fun r => o.engines.flatMap fun e => (List.range 16).map fun n => (r, e, n)
      .ok (cells.foldl (fun acc rc =>
        let (r, e, n) := rc
        let bank := (m.engine e).active
        let off := o.accOff + r * 256 + e * 64 + n * 4
        let prods := ((List.range o.span).filter fun k =>
          x.has (r / 4) (k / 4) && bank.present.getD (k / 4 * 4 + n / 4) true).map fun k =>
            { a := x.code r k, w := bank.codes.getD (k * 16 + n) 0, sa := x.scale r k, 
              sw := bank.scales.getD (k / 32 * 16 + n) (bank.scales.getD n 127) }
        let (v, fl) := groupInto o.f (s.accEntry c off) prods
        { acc with entries := acc.entries ++ [(accBase c + off, [BitVec.ofNat 32 v])], flags := acc.flags ||| fl })
        Written.nothing)

/-- An MSTREAM (04 R139, R140, 05 R180, R181). A buffer loaded in another format than the MSTREAM's is not defined (log
entry 19). -/
def State.mstream (s : State) (c : Nat) (o : MatOp) (m : Matrix) : Except ReadFault Written :=
  if o.m = 0 ∨ o.bMid = 0 then .ok Written.nothing
  else
    let bits := elemBits o.f
    let row (k : Nat) : Nat := leNat (s.spBytes c (o.a.toNat + k * o.bHigh) (rowBytes o.f 256))
    let nib (g n : Nat) : Nat :=
      let b := leNat (s.spBytes c (o.indexBase + g * 128 + n / 2) 1)
      if n % 2 = 0 then b % 16 else b / 16
    let cols := o.engines.flatMap fun e => (List.range 64).map fun n => 64 * e + n
    let bad := if o.s24 then
        (List.range (o.bMid / 4)).findSome? fun g => cols.findSome? fun n =>
          let (i0, i1) := nibbleOf (nib g n)
          if i0 ≥ i1 then some (g, n, nib g n) else none
      else none
    match bad with
    | some f => .error (nibbleFault f)
    | none =>
      let weight (k n : Nat) : Nat :=
        if o.s24 then
          let (i0, i1) := nibbleOf (nib (k / 4) n)
          if k % 4 = i0 then elemAt bits (row (2 * (k / 4))) n
          else if k % 4 = i1 then elemAt bits (row (2 * (k / 4) + 1)) n
          else noProduct
        else elemAt bits (row k) n
      let act (r k : Nat) : Nat :=
        if m.actFmt = o.fmt then elemAt bits (leNat (m.actRows.getD r [])) k
        else Config.freeNat (s.free + r * 65536 + k) % 2 ^ bits
      let wscale (k n : Nat) : Nat := leNat (s.spBytes c (o.scaleBase + k / 32 * 256 + n) 1)
      let cells := (List.range o.m).flatMap fun r => cols.map fun n => (r, n)
      .ok (cells.foldl (fun acc rc =>
        let (r, n) := rc
        let off := o.accOff + r * 1024 + n * 4
        let (vs, _, fl) := (List.range (o.bMid / o.span)).foldl (fun (st : List Word32 × Nat × BitVec 5) g =>
          let prods := (List.range o.span).map fun i =>
            let k := g * o.span + i
            { a := act r k, w := weight k n, sa := (m.actScales.getD r []).getD (k / 32) 127, sw := wscale k n : Product }
          let (v, fl) := groupInto o.f st.2.1 prods
          (st.1 ++ [BitVec.ofNat 32 v], v, st.2.2 ||| fl)) ([], s.accEntry c off, 0)
        { acc with entries := acc.entries ++ [(accBase c + off, vs)], flags := acc.flags ||| fl }) Written.nothing)

/-- MZERO, MBIAS and MDRAIN (04 R142, R143, 05 R179). -/
def State.moveOp (s : State) (c : Nat) (o : MatOp) (stratus : Bool) : Written :=
  let cols := bodyCols stratus
  match o.code with
  | 0x05 => { Written.nothing with
      entries := (List.range (o.b.toNat / 4)).map fun i => (accBase c + o.a.toNat + 4 * i, [0]) }
  | 0x06 => { Written.nothing with
      entries := (List.range (o.m * cols)).map fun i =>
        let x := i % cols
        (accBase c + o.c.toNat + 4 * i,
          [BitVec.ofNat 32 (if o.f = 0 then leNat (s.spBytes c (o.a.toNat + 2 * x) 2) * 65536
            else leNat (s.spBytes c (o.a.toNat + 4 * x) 4))]) }
  | _ =>
    let conv (i : Nat) : Nat × BitVec 5 :=
      let v := s.accEntry c (o.a.toNat + 4 * i)
      if o.f = 9 ∨ o.f = 0xA then (v, 0) else (fmtOf o.f).convert (fp32.decode v)
    let all := (List.range (o.m * cols)).map conv
    let flags := all.foldl (fun acc e => acc ||| e.2) 0
    let place (off : Nat) (bs : Bytes) : List (Nat × Byte) := bs.mapIdx fun i b => (spBase c + off + i, b)
    if o.m = 0 then Written.nothing
    else if o.tile then
      { Written.nothing with bytes := place o.c.toNat (writeTile o.f o.m (all.map (·.1))), flags := flags }
    else
      { Written.nothing with
        bytes := (List.range o.m).flatMap fun r =>
          place (o.c.toNat + r * o.bMid)
            (((all.drop (r * cols)).take cols).flatMap fun e => leBytes (drainSize o.f) e.1)
        flags := flags }

/-! ## The lanes (04 R136, R138, R150) -/

/-- The load lane's head may start. -/
def Matrix.loadReady (m : Matrix) : Bool := match m.loadQ with
  | [] => false
  | o :: _ =>
    !o.running && !(m.compQ.any fun x => x.code = 0x01 && x.seq < o.seq) &&
    (if m.stratus then !(m.compQ.any fun x => x.code = 0x04 && x.seq < o.seq)
     else !(m.compQ.any fun x => x.code = 0x03 && x.seq < o.seq && !x.running))

/-- The compute lane's head may start. -/
def Matrix.compReady (m : Matrix) : Bool := match m.compQ with
  | [] => false
  | o :: _ =>
    !o.running &&
    (if o.code = 0x01 ∨ o.code = 0x03 ∨ o.code = 0x04 then !(m.loadQ.any fun x => x.seq < o.seq) else true)

/-- The banks of the engines that an MMUL uses are swapped (04 R135). -/
def Matrix.swap (m : Matrix) (o : MatOp) : Matrix :=
  o.engines.foldl (fun m e =>
    let b := m.engine e
    { m with engines := Tab.put m.engines e ⟨b.shadow, b.active⟩ }) m

/-- The record of a fault found in an operand; a MATRIX_SHAPE has address 0 and the detail of 03 R129 (log entry 131). -/
def State.readRecord (s : State) (c : Nat) (o : MatOp) (f : ReadFault) : FaultRec :=
  let unit := coreUnit c
  let core (code : Nat) (addr : Word) : FaultRec :=
    s.record code unit addr o.word.toNat 2 o.slotBits.toNat ((s.core c).cycle64 / 64)
  match f with
  | .sparse code d1 d2 d3 => s.record code unit o.a o.word.toNat d1 d2 d3
  | .shape => core 0x0204 0
  | .range => core 0x0105 o.a
  | .tileFormat head =>
    let r := s.recordOpen 0x0205 unit o.a
    { r with d0 := o.word, d1 := r.d1 &&& 0xFFFFFFFF, d3 := BitVec.ofNat 64 head }

/-- The packed banks of a list of engines. -/
def State.packedBanks (s : State) (c : Nat) (o : MatOp) : List Nat → Except ReadFault (Table Bank)
  | [] => .ok []
  | e :: l => match s.packedBank c o e with
    | .error f => .error f
    | .ok b => match s.packedBanks c o l with
      | .error f => .error f
      | .ok bs => .ok ((e, b) :: bs)

/-- What the head of the load lane loads, from the state in which it starts (04 R135, R138; log entry 22). -/
def State.loadResult (s : State) (c : Nat) (o : MatOp) : Except ReadFault MatOp :=
  let o := { o with running := true }
  if (s.core c).matrix.stratus then
    .ok { o with
      rows := (List.range o.m).map fun r => s.spBytes c (o.a.toNat + r * o.bHigh) (rowBytes o.f o.bMid)
      rowScales := if isMX o.f then
          (List.range o.m).map fun r =>
            (s.spBytes c (o.c.toNat + r * cdiv o.bMid 32) (cdiv o.bMid 32)).map (·.toNat)
        else [] }
  else if o.tile then
    match s.weightTile c o with
    | .error f => .error f
    | .ok t => .ok { o with banks := o.engines.map fun e => (e, t.bank o e s.free) }
  else match s.packedBanks c o o.engines with
    | .error f => .error f
    | .ok l => .ok { o with banks := l }

/-- A fault of the operand is raised in the partition of the core's context. -/
def State.raiseRead (s : State) (c : Nat) (o : MatOp) (f : ReadFault) : State :=
  match s.coreOwner c with
  | some p => s.raise p (s.readRecord c o f)
  | none => s

/-- The head of the load lane starts: it reads its operands. -/
def State.loadStart (s : State) (c : Nat) (o : MatOp) : State :=
  match s.loadResult c o with
  | .error f => s.raiseRead c o f
  | .ok o =>
    { s.updCore c fun k => { k with matrix := { k.matrix with loadQ := o :: k.matrix.loadQ.tail } } with
      free := s.free + 4096 }

/-- The head of the load lane ends: its banks or the activation buffer hold what it loaded. -/
def State.loadDone (s : State) (c : Nat) (o : MatOp) : State :=
  s.updCore c fun k => { k with matrix := { k.matrix.load o with loadQ := k.matrix.loadQ.tail } }

/-- What the head of the compute lane writes, from the state in which it starts. -/
def State.compResult (s : State) (c : Nat) (o : MatOp) (m : Matrix) : Except ReadFault Written :=
  match o.code with
  | 0x01 => .ok Written.nothing
  | 0x03 => s.mmul c o m
  | 0x04 => s.mstream c o m
  | _ => .ok (s.moveOp c o m.stratus)

/-- The head of the compute lane starts: an MMUL swaps its banks, operands are read (log entry 22). -/
def State.compStart (s : State) (c : Nat) (o : MatOp) : State :=
  let m := (s.core c).matrix
  let m' := if o.code = 0x03 then m.swap o else m
  match s.compResult c o m' with
  | .error f => s.raiseRead c o f
  | .ok w =>
    let o := { o with running := true, entries := w.entries, bytes := w.bytes, flags := w.flags }
    { (s.updCore c fun k => { k with matrix := { m' with compQ := o :: m'.compQ.tail } }) with free := s.free + 2097152 }

/-- The head of the compute lane ends: its last results are written, and MFORM takes effect (04 R132). -/
def State.compDone (s : State) (c : Nat) (o : MatOp) : State :=
  let mem := o.entries.foldl (fun mem e => memWrite mem e.1 (leBytes 4 (e.2.getLastD 0).toNat)) s.mem
  let mem := o.bytes.foldl (fun mem e => memSet mem e.1 e.2) mem
  let s := { s with mem := mem }
  s.updCore c fun k =>
    let m := { k.matrix with compQ := k.matrix.compQ.tail }
    let m := if o.code = 0x01 then
        { Matrix.zero with stratus := o.imm.getLsbD 0, seq := m.seq, loadQ := m.loadQ, compQ := m.compQ }
      else m
    { k with matrix := m, fpflags := k.fpflags ||| o.flags }

end Sys2Proof.Machine
end

