-- ==== Sys2Proof/Machine/Aes.lean ====
section
/-! DEFINITION. AES-128 as the counter-based draws use it (03 R120 to R122): the key schedule, a round, and the counter
blocks. -/

namespace Sys2Proof.Machine

open Sys2Proof

/-- The field polynomial of AES. -/
def aesPoly : Nat := 0x11B

/-- A byte rotated left. -/
def rotl8 (v k : Nat) : Nat := (v <<< k ||| v >>> (8 - k)) % 256

/-- The S-box: the inverse in GF(2^8), then the affine map. -/
def sbox (v : Nat) : Nat :=
  let i := if v = 0 then 0 else gfInv aesPoly v
  i ^^^ rotl8 i 1 ^^^ rotl8 i 2 ^^^ rotl8 i 3 ^^^ rotl8 i 4 ^^^ 0x63

/-- The 16 bytes of a block, byte 0 in bits [7:0]. -/
def blockOfBytes (l : List Nat) : BitVec 128 := BitVec.ofNat 128 (l.foldr (fun b acc => b % 256 + 256 * acc) 0)
def bytesOfBlock (b : BitVec 128) : List Nat := (List.range 16).map fun i => fld b.toNat (8 * i + 7) (8 * i)

/-- One column of MixColumns. -/
def mixColumn (c : List Nat) : List Nat :=
  (List.range 4).map fun i =>
    gfMul aesPoly 2 (c.getD i 0) ^^^ gfMul aesPoly 3 (c.getD ((i + 1) % 4) 0) ^^^
      c.getD ((i + 2) % 4) 0 ^^^ c.getD ((i + 3) % 4) 0

/-- AES round `r` of a block with the round keys (03 R122): round 10 omits MixColumns. -/
def aesRound (keys : List (BitVec 128)) (r : Nat) (b : BitVec 128) : BitVec 128 :=
  let s := (bytesOfBlock b).map sbox
  let s := (List.range 16).map fun i => s.getD (i % 4 + 4 * ((i / 4 + i % 4) % 4)) 0
  let s := if r = 10 then s else (List.range 4).flatMap fun c => mixColumn ((s.drop (4 * c)).take 4)
  blockOfBytes s ^^^ keys.getD r 0

/-- The next round key: words of 4 bytes, each the XOR of the word before it (transformed for the first) and the word
four before. -/
def nextKey (rcon : Nat) (k : List Nat) : List Nat :=
  let w (i : Nat) := (k.drop (4 * i)).take 4
  let x (a b : List Nat) := List.zipWith (· ^^^ ·) a b
  let t := match w 3 with
    | [a, b, c, d] => [sbox b ^^^ rcon, sbox c, sbox d, sbox a]
    | l => l
  let w0 := x (w 0) t
  let w1 := x (w 1) w0
  let w2 := x (w 2) w1
  let w3 := x (w 3) w2
  w0 ++ w1 ++ w2 ++ w3

/-- Round keys from a key on, with the round constants 1, 2, 4, … in GF(2^8). -/
def keyGo : Nat → Nat → List Nat → List (BitVec 128)
  | 0, _, k => [blockOfBytes k]
  | n + 1, rcon, k => blockOfBytes k :: keyGo n (gfTwo aesPoly rcon) (nextKey rcon k)

/-- The key schedule of a 16-byte seed: round keys 0 to 10. -/
def keySchedule (seed : Bytes) : List (BitVec 128) := keyGo 10 1 ((padTo 16 seed).map (·.toNat))

/-- Counter block `j` (03 R121). -/
def counterBlock (stream step index : Word) (j : Nat) : BitVec 128 :=
  BitVec.ofNat 128 ((index.toNat + j) % 2 ^ 48 + step.toNat % 2 ^ 48 * 2 ^ 48 + stream.toNat % 2 ^ 32 * 2 ^ 96)

/-- Block `j` of a vector. -/
def vblock (v : Vec) (j : Nat) : BitVec 128 := v.extractLsb' (128 * j) 128

/-- A vector of eight blocks. -/
def vecOfBlocks (f : Nat → BitVec 128) : Vec :=
  BitVec.ofNat 1024 ((List.range 8).foldr (fun j acc => (f j).toNat + 2 ^ 128 * acc) 0)

end Sys2Proof.Machine
end

