-- ==== Sys2Proof/Machine/Vector.lean ====
section
/-! DEFINITION. The V slot (03 R93, R98 to R102, R121, R122). -/

namespace Sys2Proof.Machine

open Sys2Proof

/-! ## Lanes -/

/-- Bits and number of lanes of a TYPE: 0 BF16, 1 FP16, 2 FP32, 3 INT32, 4 INT16. -/
def laneW (t : Nat) : Nat := if t = 2 ∨ t = 3 then 32 else 16
def laneN (t : Nat) : Nat := 1024 / laneW t

/-- The TYPE is an integer type, and the format of a floating-point TYPE. -/
def laneInt (t : Nat) : Bool := t = 3 || t = 4
def laneFmt (t : Nat) : FFmt := match t with
  | 0 => bf16
  | 1 => fp16
  | _ => fp32

def lane (t : Nat) (v : Vec) (i : Nat) : Nat := fld v.toNat (laneW t * (i + 1) - 1) (laneW t * i)

/-- A vector with bits [off + w - 1 : off] replaced. -/
def putBits (v : Vec) (off w x : Nat) : Vec :=
  BitVec.ofNat 1024 (v.toNat - fld v.toNat (off + w - 1) off * 2 ^ off + x % 2 ^ w * 2 ^ off)

/-- The lanes that a mask names take new values; each lane's flags are gathered from the lanes written (03 R93). -/
def mapLanes (t : Nat) (mask : Word) (old : Vec) (f : Nat → Nat × BitVec 5) : Vec × BitVec 5 :=
  (List.range (laneN t)).foldl (fun acc i =>
    if mask.getLsbD i then
      let (x, fl) := f i
      (putBits acc.1 (laneW t * i) (laneW t) x, acc.2 ||| fl)
    else acc) (old, 0)

/-- An exact integer as a lane: outside the lane's range the result is not given (log entry 17). -/
def intLane (t op a b c : Nat) (r : Int) : Nat :=
  let w := laneW t
  if -2 ^ (w - 1) ≤ r ∧ r < 2 ^ (w - 1) then (BitVec.ofInt w r).toNat 
  else Config.intLane op w a (if op ≥ 7 then 0 else b) (if op = 4 then c else 0) % 2 ^ w

/-- The lane-wise arithmetic of operations 0x01 to 0x08. -/
def laneOp (t op a b c : Nat) : Nat × BitVec 5 :=
  if laneInt t then
    let x := signed (laneW t) a
    let y := signed (laneW t) b
    let r : Int := match op with
      | 1 => x + y
      | 2 => x - y
      | 3 => x * y
      | 4 => x * y + signed (laneW t) c
      | 5 => max x y
      | 6 => min x y
      | 7 => if x < 0 then -x else x
      | _ => -x
    (intLane t op a b c r, 0)
  else
    let f := laneFmt t
    match op with
    | 1 => f.add a b
    | 2 => f.sub a b
    | 3 => f.mul a b
    | 4 => f.fma a b c
    | 5 => f.max a b
    | 6 => f.min a b
    | 7 => f.op (f.decode a).abs
    | _ => f.op (f.decode a).neg

/-- A compare of two lanes: 0x10 equal, 0x11 less, 0x12 less or equal (03 R98, R99). -/
def laneCmp (t op a b : Nat) : Bool × BitVec 5 :=
  if laneInt t then
    let x := signed (laneW t) a
    let y := signed (laneW t) b
    (match op with
      | 0x10 => x = y
      | 0x11 => x < y
      | _ => x ≤ y, 0)
  else
    let x := (laneFmt t).decode a
    let y := (laneFmt t).decode b
    if x.isNan || y.isNan then (false, flagNV)
    else (match op with
      | 0x10 => x.eq y
      | 0x11 => x.lt y
      | _ => x.lt y || x.eq y, 0)

/-- A signed integer saturated to `w` bits, with NV when it does not fit. -/
def satInt (w : Nat) (i : Int) : Nat × BitVec 5 :=
  if i < -2 ^ (w - 1) then (2 ^ (w - 1), flagNV)
  else if i ≥ 2 ^ (w - 1) then (2 ^ (w - 1) - 1, flagNV)
  else ((BitVec.ofInt w i).toNat, 0)

/-! ## VCVT (03 R102) -/

/-- A side's format code: the TYPE codes, 8 E4M3, 9 E5M2. Bits of an element, and number of positions. -/
def sideW (c : Nat) : Nat := if c ≥ 8 then 8 else laneW c
def sideN (c : Nat) : Nat := if c = 2 ∨ c = 3 then 32 else 64
def sideFmt (c : Nat) : FFmt := match c with
  | 8 => e4m3
  | 9 => e5m2
  | _ => laneFmt c

/-- The bit offset of element i of a side; `half` selects the half of an 8-bit operand. -/
def sideOff (c : Nat) (half : Bool) (i : Nat) : Nat :=
  if c ≥ 8 then (if half then 512 else 0) + 8 * i else laneW c * i

/-- One element converted. -/
def cvtElem (src dst x : Nat) : Nat × BitVec 5 :=
  if laneInt src then
    let i := signed (laneW src) x
    if laneInt dst then satInt (laneW dst) i else (sideFmt dst).convert (Val.ofInt i)
  else
    let v := (sideFmt src).decode x
    if laneInt dst then toIntW (laneW dst) v else (sideFmt dst).convert v

/-- VCVT of a whole register. -/
def vcvt (t imm : Nat) (mask : Word) (a old : Vec) : Vec × BitVec 5 :=
  let c := imm % 16
  let half := bit imm 4
  let (src, dst) := if bit imm 5 then (c, t) else (t, c)
  let up := if bit imm 6 then 32 else 0
  (List.range (sideN dst)).foldl (fun acc i =>
    let j? : Option Nat :=
      if sideN src = sideN dst then some i
      else if sideN dst = 32 then some (i + up)
      else if up ≤ i ∧ i < up + 32 then some (i - up) else none
    match j? with
    | none => acc
    | some j =>
      if mask.getLsbD i then
        let o := sideOff src half j
        let (x, fl) := cvtElem src dst (fld a.toNat (o + sideW src - 1) o)
        (putBits acc.1 (sideOff dst half i) (sideW dst) x, acc.2 ||| fl)
      else acc) (old, 0)

/-! ## Reductions (03 R101) -/

/-- Adjacent elements combined, the lower-numbered first. -/
def pairUp (f : Nat → Nat → Nat × BitVec 5) : List Nat → List Nat × BitVec 5
  | a :: b :: rest =>
    let (x, fl) := f a b
    let (l, fl') := pairUp f rest
    (x :: l, fl ||| fl')
  | l => (l, 0)

/-- The tree over a power of two of elements. -/
def treeFold (f : Nat → Nat → Nat × BitVec 5) : Nat → List Nat → Nat × BitVec 5
  | 0, l => (l.headD 0, 0)
  | n + 1, l =>
    match l with
    | [a] => (a, 0)
    | _ =>
      let (l', fl) := pairUp f l
      let (x, fl') := treeFold f n l'
      (x, fl ||| fl')

/-- VRSUM, VRMAX, VRMIN: the result and its width. -/
def vreduce (t op : Nat) (mask : Word) (a : Vec) : Nat × Nat × BitVec 5 :=
  let ls (ident : Nat) : List Nat := (List.range (laneN t)).map fun i => if mask.getLsbD i then lane t a i else ident
  let f := laneFmt t
  let w := laneW t
  if op = 0x20 then
    if laneInt t then
      let (x, fl) := treeFold (fun a b => ((a + b) % 2 ^ 32, 0)) 8
        ((ls 0).map fun x => (BitVec.ofInt 32 (signed w x)).toNat)
      (x, 32, fl)
    else
      let (x, fl) := treeFold fp32.add 8
        ((ls (f.signBit true)).map fun x => if t = 2 then x else (fp32.convert (f.decode x)).1)
      (x, 32, fl)
  else if laneInt t then
    let (x, fl) := treeFold
      (fun a b =>
        let p := signed w a
        let q := signed w b
        (if op = 0x21 then (if p < q then b else a) else (if q < p then b else a), 0)) 8
      (ls (if op = 0x21 then 2 ^ (w - 1) else 2 ^ (w - 1) - 1))
    (x, w, fl)
  else
    let (x, fl) := treeFold (if op = 0x21 then f.max else f.min) 8
      (ls (f.signBit (op = 0x21) + f.infBits))
    (x, w, fl)

/-! ## The slot -/

/-- The core after an executing V slot; `none` is KEY_ABSENT (03 R120). Registers are read from `r`, the core before
the word, and written in `k`. -/
def vSlot (r k : Core) (b : Nat) : Option Core :=
  let op := vOp b
  let t := vTy b
  let mask := r.rvm (vVm b)
  let va := r.rv (vVa b)
  let vb := r.rv (vVb b)
  let vc := r.rv (vVc b)
  let old := r.rv (vVd b)
  let sa := r.rs (vSa b)
  let done (x : Vec × BitVec 5) : Option Core :=
    let k := k.wv (vVd b) x.1
    some { k with fpflags := k.fpflags ||| x.2 }
  if op ≤ 0x08 then
    done (mapLanes t mask old fun i => laneOp t op (lane t va i) (lane t vb i) (lane t vc i))
  else if op = 0x09 then
    let x : Nat × BitVec 5 :=
      if bit (vImm b) 0 then (sa.toNat % 2 ^ laneW t, 0)
      else if laneInt t then satInt (laneW t) sa.toInt
      else (laneFmt t).convert (Val.ofInt sa.toInt)
    done (mapLanes t mask old fun _ => x)
  else if op ≤ 0x0C then
    let f := laneFmt t
    done (mapLanes t mask old fun i =>
      if op = 0x0A then f.exp2 (lane t va i) else if op = 0x0B then f.rcp (lane t va i) else f.rsqrt (lane t va i))
  else if op ≤ 0x12 then
    let m0 := r.rvm (vVd b % 8)
    let x := (List.range (laneN t)).foldl (fun (acc : Nat × BitVec 5) i =>
      if mask.getLsbD i then
        let (c, fl) := laneCmp t op (lane t va i) (lane t vb i)
        (acc.1 - (if m0.getLsbD i then 2 ^ i else 0) + (if c then 2 ^ i else 0), acc.2 ||| fl)
      else acc) (m0.toNat, 0)
    let k := k.wvm (vVd b % 8) (BitVec.ofNat 64 x.1)
    some { k with fpflags := k.fpflags ||| x.2 }
  else if op = 0x18 then done (vcvt t (vImm b) mask va old)
  else if op ≤ 0x22 then
    let (x, w, fl) := vreduce t op mask va
    done (putBits old 0 w x, fl)
  else if op = 0x28 then
    done (mapLanes t mask old fun i => (lane t va (lane t vb i % laneN t), 0))
  else if op = 0x2A then
    let sel := r.rvm (vVc b % 8)
    done (mapLanes t mask old fun i => (if sel.getLsbD i then lane t va i else lane t vb i, 0))
  else if op = 0x31 then some (k.ws (vSa b) (BitVec.ofNat 64 (lane t va (vImm b % 64))))
  else if r.keys.isEmpty then none
  else if op = 0x38 then
    let x := vecOfBlocks fun j => counterBlock (r.rs (vVa b)) (r.rs (vVb b)) sa j ^^^ r.keys.getD 0 0
    done (mapLanes t mask old fun i => (lane t x i, 0))
  else
    let x := vecOfBlocks fun j => aesRound r.keys (vImm b % 16) (vblock va j)
    done (mapLanes t mask old fun i => (lane t x i, 0))

end Sys2Proof.Machine
end

