-- ==== Sys2Proof/Machine/Kernel.lean ====
section
/-! DEFINITION. The compute core's events (03 R82 to R130, 04 R150 to R153): issue of a wide word, the matrix lanes, the
return of loads, stores, transfers and mailbox answers, and the end of a kernel. -/

namespace Sys2Proof.Machine

open Sys2Proof

/-! ## Records -/

/-- A fault of a core is raised in the partition whose context the core holds. -/
def State.raiseCore (s : State) (c : Nat) (r : FaultRec) : State :=
  match s.coreOwner c with
  | some p => s.raise p r
  | none => s

/-- The record of a core fault (03 R129); an address that its code does not define is zero (15 R514). -/
def State.coreRecord (s : State) (c code : Nat) (addr : Option Word) (word : Word) (d1 d2 : Nat) : FaultRec :=
  s.record code (coreUnit c) (addr.getD 0) word.toNat d1 d2 ((s.core c).cycle64 / 64)

/-! ## Caches (03 R115, R116) -/

/-- The line of a cache that holds an address. -/
def lineOf (l : List CacheLine) (a : Nat) : Option CacheLine := l.find? fun x => x.addr = a / 64 * 64

/-- A line enters a cache of 4 ways with `sets` sets; which way of a full set it replaces is free (log entry 24). -/
def State.cacheFill (s : State) (l : List CacheLine) (sets : Nat) (x : CacheLine) : List CacheLine × State :=
  let same := l.filter fun y => y.addr / 64 % sets = x.addr / 64 % sets
  if same.length < 4 then (l ++ [x], s)
  else match s.pick same with
    | (some v, s) => (l.filter (· ≠ v) ++ [x], s)
    | (none, s) => (l ++ [x], s)

/-- A local address from which words are fetched: mapped HBM, or the last-level memory scratchpad window (03 R115, 10
R332). -/
def State.fetchable (s : State) (g : Word) : Bool :=
  canonical g && gPkg g = s.self && match s.place (gLocal g) with
    | .hbm _ _ => true
    | .llm _ _ => true
    | _ => false

/-- The wide word at the core's PC, through the instruction cache. A FETCH_FAULT at fetch has no slot: its record has slot
number 7 and a free detail word 2 (log entry 37). -/
def State.fetchWord (s : State) (c : Nat) : Except FaultRec Nat × State :=
  let k := s.core c
  let a := gLocal k.pc
  let word (bs : Bytes) : Nat := field bs (a % 64 / 32 * 32) 32
  if !s.fetchable k.pc then
    (.error { s.coreRecord c 0x0102 (some k.pc) k.pc 7 0 with d2 := Config.freeWord s.free }, { s with free := s.free + 1 })
  else match lineOf k.icache a with
    | some l => (.ok (word l.data), s)
    | none =>
      match s.readBlock (s.partition (s.corePart c)).job (a / 64 * 64) noUpset with
      | (.error e, s) => (.error (s.memRecord e (coreUnit c) k.pc 1), s)
      | (.ok bs, s) =>
        let (l, s) := s.cacheFill k.icache 256 ⟨a / 64 * 64, bs⟩
        (.ok (word bs), s.updCore c fun k => { k with icache := l })

/-! ## Waiting (03 R86, R89, R90, R106, R119, 04 R150, R151, 12 R397) -/

/-- Scalar registers with a write pending from an earlier word; s0 discards what is written to it (03 R92). -/
def Core.pendingRegs (k : Core) : List Nat :=
  (((k.mops.filter fun m => !m.store).map fun m => m.reg.toNat) ++
   ((k.dmas.filter fun d => d.op = 0x0D).map fun d => d.reg.toNat) ++ k.mb.map fun m => m.reg.toNat).filter (· ≠ 0)

/-- Some valid slot reads or writes a register with a write pending. -/
def Core.scoreboard (k : Core) (w : Nat) : Bool :=
  (List.range 5).any fun i => wValid w i &&
    (slotReads i (slotOf w i) ++ slotWrites i (slotOf w i)).any fun r => k.pendingRegs.contains r

/-- The next place in the order of issue of the core's accesses and transfers. -/
def Core.nextAccess (k : Core) : Nat :=
  max ((k.mops.map (·.seq)).foldl max 0) ((k.dmas.map (·.seq)).foldl max 0) + 1

/-- The transfer that a D slot starts. -/
def Core.dmaOf (k : Core) (w : Nat) : Dma :=
  let b := slotOf w 3
  { tag := dTag b, op := BitVec.ofNat 8 (dOp b), ga := k.rs (dRa b), so := k.rs (dRb b), len := k.rs (dRc b),
    imm := BitVec.ofNat 20 (dImm b), word := k.pc, reg := BitVec.ofNat 5 (dRb b), mv := wMv w, pieces := [], left := 0,
    fault := none, result := none, seq := 0, landed := [] }

/-- The address of an S-slot access (03 R97). -/
def Core.sAddr (k : Core) (b : Nat) : Word := k.rs (sRa b) + sImm b

/-- The offset in the core's own window of a direct access (03 R97). -/
def State.direct (s : State) (c : Nat) (g : Word) : Option Nat :=
  if canonical g ∧ gPkg g = s.self ∧ winBase c ≤ gLocal g ∧ gLocal g < winBase (c + 1) then some (gLocal g - winBase c)
  else none

/-- The scratchpad offset of a VLD or VST (03 R105). -/
def Core.vAddr (k : Core) (b : Nat) : Word := k.rs (dRa b) + sext64 20 (dImm b)

/-- The S slot accesses memory. -/
def sMem (b : Nat) : Bool := 0x20 ≤ sOp b && sOp b ≤ 0x2B

/-- The run that an access at offset `off` of the core's window touches, when a matrix operation can touch it. -/
def windowRun (off n : Nat) : Option Run :=
  if off < 0x100000 then some ⟨false, off, n⟩ else if off < 0x120000 then some ⟨true, off - 0x100000, n⟩ else none

/-- The S slot waits: the interlock of 04 R151. -/
def State.sWaits (s : State) (c b : Nat) : Bool :=
  sMem b && match s.direct c ((s.core c).sAddr b) with
    | some off => match windowRun off (accessSize (sOp b)) with
      | some r => s.interlocked c r
      | none => false
    | none => false

/-- The M slot waits: its lane holds 4 operations. -/
def Core.mWaits (k : Core) (b : Nat) : Bool :=
  if mOp b = 0x02 then k.matrix.loadQ.length ≥ 4 else k.matrix.compQ.length ≥ 4

/-- An earlier access or transfer of the core to a 64-byte block of the package is outstanding (01 R21, 03 R118). -/
def Core.blockBusy (k : Core) (a : Nat) : Bool :=
  (k.mops.any fun m => !m.remote && sameBlock a 64 (gLocal m.addr) m.size) || k.dmas.any fun d => d.hits a 64

/-- A DADD or a DDRAIN meets a batch in HBM that earlier accesses of the core have still to reach. -/
def State.driftBusy (s : State) (c : Nat) (r : Core) (w : Nat) : Bool :=
  let b := slotOf w 3
  (dOp b = 0x18 || dOp b = 0x1A) &&
    (s.driftBlocks c (dOp b) (r.dmaOf w).ga.toNat).any fun a => (s.core c).blockBusy a

/-- The D slot, its registers read from `r`, waits: its tag runs, the interlock of 04 R151, of which DADD and DDRAIN are no
exception (log entry 114), a batch that earlier accesses have still to reach, or a DATOM beyond 1,024 transactions. -/
def State.dWaits (s : State) (c : Nat) (r : Core) (w : Nat) : Bool :=
  let b := slotOf w 3
  let d := r.dmaOf w
  if dOp b ≤ 0x02 then s.interlocked c ⟨false, (r.vAddr b).toNat, 128⟩
  else if dOp b = 0x18 then s.driftBusy c r w || (s.daddRuns c d.ga.toNat).any fun e => s.interlocked c ⟨false, e.1, e.2⟩
  else if dOp b = 0x1A then
    s.driftBusy c r w || (s.ddrainRuns c d.len.toNat d.so.toNat).any fun e => s.interlocked c ⟨false, e.1, e.2⟩
  else
    ((s.core c).dma? d.tag).isSome || ((s.transferRuns c d).any fun e => s.interlocked c ⟨false, e.1, e.2⟩) ||
    (dOp b = 0x0D && gPkg d.ga ≠ s.self && s.coreXacts c ≥ 1024)

/-- The conditions of a FENCE (03 R119): the invalidations wait for the loads, the stores and the transfers. The stores of
an MDRAIN are acknowledged when its lane has done it (04 R153). -/
def Core.fenceWaits (k : Core) (imm : Nat) : Bool :=
  let inv := bit imm 3 || bit imm 4
  ((bit imm 0 || inv) && k.mops.any fun m => !m.store) ||
  ((bit imm 1 || inv) && (k.mops.any (fun m => m.store) || k.matrix.compQ.any fun o => o.op = 0x07)) ||
  ((bit imm 2 || inv) && !k.dmas.isEmpty)

/-- The C slot is an MBSEND whose entry a matrix operation has still to write or to read: behind the M slot of its own
word it waits (03 R88). -/
def State.mbWaits (s : State) (c : Nat) (r : Core) (w : Nat) : Bool :=
  cOp (slotOf w 4) = 0x20 && s.interlocked c ⟨false, (r.rs (cRa (slotOf w 4))).toNat, 64⟩

/-- A matrix operation that has sticky flags still to write is queued or runs (04 R135, R155). -/
def Core.flagsPending (k : Core) : Bool := k.matrix.compQ.any fun o => o.code = 0x03 || o.code = 0x04 || o.code = 0x07

/-- The C slot waits, apart from SEMWAIT: a read or write of CORE_STATUS for the flags of an outstanding MBSEND (03 R86,
R110), and one of CORE_FPFLAGS for those of an earlier matrix operation. -/
def State.cWaits (s : State) (c b : Nat) : Bool :=
  let k := s.core c
  match cOp b with
  | 0x28 | 0x29 => (cImm b % 4096 = 2 && !k.mb.isEmpty) || (cImm b % 4096 = 3 && k.flagsPending)
  | 0x08 => k.fenceWaits (cImm b)
  | 0x09 => k.dmas.any fun d => (k.rs (cRa b)).getLsbD d.tag
  | 0x11 => s.copyAt (coreIsland c) < (k.rs (cRa b)).toNat
  | _ => false

/-- The slot executes and its code is listed. -/
def Core.runs (k : Core) (w slot : Nat) : Bool :=
  k.executes w slot && !slotIllegal k.matrix.ahead.stratus slot (slotOf w slot)

/-- While GATING is 1 no word issues in alternate periods of 1 µs (19 R608; log entry 119). -/
def State.gated (s : State) : Bool := s.power.gating && s.time / 1000 % 2 = 1

/-- The word does not issue yet, apart from a SEMWAIT. -/
def State.wordWaits (s : State) (c w : Nat) : Bool :=
  let k := s.core c
  s.gated || k.scoreboard w ||
  (k.runs w 0 && s.sWaits c (slotOf w 0)) ||
  (k.runs w 2 && k.mWaits (slotOf w 2)) ||
  (k.runs w 3 && s.dWaits c k w) ||
  (k.runs w 4 && s.cWaits c (slotOf w 4))

/-! ## The slots

Each slot reads registers from `r`, the core before the word, and acts on the state that the slots before it left (03
R86, R88). -/

/-- What a slot gives. -/
abbrev SlotOut := Except SFault State

/-- S slot: arithmetic and compares (03 R95, R96), direct accesses, and other accesses, which stay outstanding (03 R97,
R116). The spec orders no faults of one access: MISALIGNED goes first here (log entry 36). -/
def State.sSlot (s : State) (c : Nat) (r : Core) (w : Nat) : SlotOut :=
  let b := slotOf w 0
  let op := sOp b
  if sPset op then
    let y := if op < 0x38 then r.rs (sRb b) else sImm b
    .ok (s.updCore c fun k => k.wp (sRd b % 8) (cmpOp op (r.rs (sRa b)) y))
  else if !sMem b then .ok (s.updCore c fun k => k.ws (sRd b) (r.aluResult b))
  else
    let g := r.sAddr b
    let n := accessSize op
    let store : Bool := 0x28 ≤ op
    if g.toNat % n ≠ 0 then .error (.core 0x0103 (some g))
    else match s.addrFault c g n (if store then 2 else 1) with
      | some f => .error (.other f)
      | none =>
        let a := gLocal g
        match s.direct c g with
        | some off =>
          if off ≥ 0x130000 then .error (.other (s.memRecord (MemErr.unmapped a) (coreUnit c) g 1))
          else if store then
            if off ≥ 0x120000 then .ok s
            else .ok { s with mem := memWrite s.mem a (leBytes n (r.rs (sRb b)).toNat) }
          else .ok (s.updCore c fun k => k.ws (sRd b) (extend n (accessSigned op) (leNat (memRead s.mem a n))))
        | none =>
          let here : Bool := gPkg g = s.self
          match (if here ∧ !store then lineOf (s.core c).dcache a else none) with
          | some l => .ok (s.updCore c fun k => k.ws (sRd b) (extend n (accessSigned op) (field l.data (a % 64) n)))
          | none =>
            let data := r.rs (sRb b)
            let m : MemOp := {
              store := store, addr := g, size := n, signed := accessSigned op, reg := BitVec.ofNat 5 (sRd b), data := data,
              answer := none, remote := !here, seq := (s.core c).nextAccess }
            let s := s.updCore c fun k => { k with
              mops := k.mops ++ [m]
              dcache := if store ∧ here then
                  k.dcache.map fun l => if l.addr = a / 64 * 64 then
                    { l with data := l.data.take (a % 64) ++ leBytes n data.toNat ++ l.data.drop (a % 64 + n) } else l
                else k.dcache }
            if here then .ok s
            else
              let k : Pkt := {
                op := if store then 2 else 1, mv := wMv w, dst := gPkg g, src := 0,
                srcUnit := BitVec.ofNat 16 (coreUnit c), reqId := 0, job := 0, length := BitVec.ofNat 10 n,
                addr := BitVec.ofNat 48 a }
              .ok (s.newXact k (if store then leBytes n data.toNat else []) (.coreMem c g store) (s.corePart c))

/-- V slot. -/
def State.vSlotStep (s : State) (c : Nat) (r : Core) (w : Nat) : SlotOut :=
  match vSlot r (s.core c) (slotOf w 1) with
  | some k => .ok (s.setCore c k)
  | none => .error (.core 0x0106 (some r.pc))

/-- The matrix operation of an M slot. -/
def Core.matOf (r : Core) (w : Nat) : MatOp :=
  let b := slotOf w 2
  { seq := r.matrix.seq, op := BitVec.ofNat 8 (mOp b), emask := BitVec.ofNat 4 (mEmask b), fmt := BitVec.ofNat 4 (mFmt b),
    imm := BitVec.ofNat 17 (mImm b), a := r.rs (mRa b), b := r.rs (mRb b), c := r.rs (mRc b), word := r.pc,
    slotBits := BitVec.ofNat 48 b, running := false, entries := [], bytes := [], flags := 0 }

/-- M slot: the faults of 04 R149, then the operation enters its lane. -/
def State.mSlot (s : State) (c : Nat) (r : Core) (w : Nat) : SlotOut :=
  let o := r.matOf w
  match r.matrix.ahead.issueFault o (s.tileLen c o) with
  | some (code, addr) => .error (.core code addr)
  | none => .ok (s.updCore c fun k =>
      let m := { k.matrix with seq := k.matrix.seq + 1 }
      { k with matrix := if o.code = 0x02 then { m with loadQ := m.loadQ ++ [o] } else { m with compQ := m.compQ ++ [o] } })

/-- The fault that a DADD or a DDRAIN gives (05 R199, R200); the details of DRIFT_CONFIG and DRIFT_OVERFLOW are not
given. -/
def State.driftFault (s : State) (c off : Nat) : DriftFault → SFault
  | .config => .other (s.recordOpen 0x0206 (coreUnit c) 0)
  | .overflow => .other (s.recordOpen 0x0207 (coreUnit c) 0)
  | .mem e => .other (s.memRecord e (coreUnit c) (s.global e.at_) 1)
  | .range => .core 0x0105 (some (BitVec.ofNat 64 off))

/-- A D-slot operation that requires MV issues without it in a Calm partition (12 R403, R406): refused as 03 R111 refuses
the operations that it names (log entry 40). -/
def State.unmarkedFloat (s : State) (c w : Nat) (d : Dma) : Bool :=
  ((d.op = 0x0D && d.imm.toNat % 16 = 1) || (d.op = 0x0C && d.imm.toNat % 16 = 0 && d.imm.toNat / 16 % 16 < 3)) &&
  !wMv w && (s.partition (s.corePart c)).calm

/-- D slot (03 R105 to R107). For a VLD or VST, MISALIGNED goes before SCRATCH_RANGE (log entry 36). -/
def State.dSlot (s : State) (c : Nat) (r : Core) (w : Nat) : SlotOut :=
  let b := slotOf w 3
  let d := { r.dmaOf w with seq := (s.core c).nextAccess }
  if s.unmarkedFloat c w d then .error (.core 0x0104 (some r.pc))
  else match dOp b with
  | 0x01 =>
    let off := r.vAddr b
    if off.toNat % 128 ≠ 0 then .error (.core 0x0103 (some off))
    else if off.toNat ≥ 0x100000 then .error (.core 0x0105 (some off))
    else .ok (s.updCore c fun k => k.wv (dRc b) (BitVec.ofNat 1024 (leNat (memRead s.mem (spBase c + off.toNat) 128))))
  | 0x02 =>
    let off := r.vAddr b
    if off.toNat % 128 ≠ 0 then .error (.core 0x0103 (some off))
    else if off.toNat ≥ 0x100000 then .error (.core 0x0105 (some off))
    else .ok { s with mem := memWrite s.mem (spBase c + off.toNat) (leBytes 128 (r.rv (dRc b)).toNat) }
  | 0x18 =>
    match s.dadd c d.ga.toNat (d.so.toNat % 2 ^ 32) with
    | (.ok _, s) => .ok s
    | (.error e, s) => .error (s.driftFault c 0 e)
  | 0x1A =>
    match s.ddrain c d.len.toNat d.so.toNat with
    | (.ok n, s) => .ok (s.updCore c fun k => k.ws (dRc b) (BitVec.ofNat 64 n))
    | (.error e, s) => .error (s.driftFault c d.so.toNat e)
  | _ =>
    match s.dmaFault c d with
    | some f => .error f
    | none =>
      if d.len = 0 ∧ dOp b ≠ 0x0D ∧ dOp b ≠ 0x10 then .ok s
      else .ok (s.dmaStart c d)

/-- A post to a mailbox (16 R542): 0 accepted, 1 full, 2 the service is down. -/
def State.mbxPost (s : State) (m : Nat) (sender : BitVec 16) (p : Nat) (entry : Bytes) : Nat × State :=
  let q := Tab.get [] s.fw.mailboxes m
  if !s.mbxUp.testBit m then (2, s)
  else if q.length ≥ 16 then (1, s)
  else
    let entry := entry.take 2 ++ leBytes 2 sender.toNat ++ entry.drop 4
    (0, s.updFw fun f => { f with mailboxes := Tab.put f.mailboxes m (q ++ [⟨sender, p, 0, entry, false, 0⟩]) })

/-- The value of a special register, those of the core read from `k` (03 R86, R127). -/
def State.specialReg (s : State) (c : Nat) (k : Core) (n : Nat) : Word :=
  let p := s.corePart c
  let x := s.partition p
  BitVec.ofNat 64 (match n with
    | 0 => s.self.toNat * 2 ^ 16 + c
    | 1 => x.job.toNat * 2 ^ 32 + x.allowMv.toNat * 2 ^ 9 + x.calm.toNat * 2 ^ 8 + p
    | 2 => k.status.toNat
    | 3 => k.fpflags.toNat
    | 4 => k.cycle64 / 64
    | 5 => (k.dmas.map fun d => 2 ^ d.tag).sum
    | 6 => k.size.toNat * 2 ^ 16 + k.rank.toNat
    | _ => (!k.keys.isEmpty).toNat)

/-- An operation that returns a time issues without MV in a Calm partition (03 R111). -/
def State.unmarkedTime (s : State) (c w b : Nat) : Bool :=
  (cOp b = 0x10 || (cOp b = 0x28 && cImm b % 4096 = 4)) && !wMv w && (s.partition (s.corePart c)).calm

/-- C slot (03 R109 to R112), its wait being over. An MBSEND whose entry begins in the scratchpad and reaches beyond it
raises SCRATCH_RANGE (log entry 39). -/
def State.cSlot (s : State) (c : Nat) (r : Core) (w : Nat) : SlotOut :=
  let b := slotOf w 4
  let p := s.corePart c
  let a := r.rs (cRa b)
  let rel : Word := r.pc + sext64 16 (cImm b) * 32
  if s.unmarkedTime c w b then .error (.core 0x0104 (some r.pc))
  else match cOp b with
  | 0x01 => .ok (s.updCore c fun k => { k with pc := rel })
  | 0x02 => .ok (s.updCore c fun k => { k.ws 31 (r.pc + 32) with pc := rel })
  | 0x03 =>
    if a.toNat % 32 ≠ 0 then .error (.core 0x0102 (some a))
    else .ok (s.updCore c fun k => { k with pc := a })
  | 0x04 => .ok (s.updCore c fun k => { k with phase := .halting })
  | 0x08 => .ok (s.updCore c fun k => { k with
      dcache := if bit (cImm b) 3 then [] else k.dcache
      icache := if bit (cImm b) 4 then [] else k.icache })
  | 0x10 => .ok (s.updCore c fun k => k.ws (cRa b) (BitVec.ofNat 64 ((r.tail.map (·.copy)).getD (s.copyAt (coreIsland c)))))
  | 0x18 => .ok (s.semAdd p (cImm b % 64) a.toNat (coreUnit c))
  | 0x19 => .ok (s.updCore c fun k => { k with semWait := none })
  | 0x20 =>
    let off := a.toNat
    if off + 64 > 0x100000 then .error (.core 0x0105 (some a))
    else
      let (res, s) := s.mbxPost (cImm b % 64) (BitVec.ofNat 16 (coreSender c)) p (memRead s.mem (spBase c + off) 64)
      .ok (s.updCore c fun k => { k with
        mbxResult := BitVec.ofNat 2 res, mb := k.mb ++ [⟨BitVec.ofNat 5 (cRb b), BitVec.ofNat 2 res⟩] })
  | 0x28 => .ok (s.updCore c fun k => k.ws (cRa b) (s.specialReg c r (cImm b % 4096)))
  | 0x29 => .ok (s.updCore c fun k =>
      if cImm b % 4096 = 2 then { k with status := k.status &&& ~~~(a.setWidth 2) }
      else { k with fpflags := k.fpflags &&& ~~~(a.setWidth 5) })
  | _ => .ok s

/-- One slot of the word. -/
def State.slot (s : State) (c : Nat) (r : Core) (w : Nat) : Nat → SlotOut
  | 0 => s.sSlot c r w
  | 1 => s.vSlotStep c r w
  | 2 => s.mSlot c r w
  | 3 => s.dSlot c r w
  | _ => s.cSlot c r w

/-! ## Stores within the package -/

/-- An access within the package reaches a core window that is held (15 R508). -/
def State.mopHeld (s : State) (c : Nat) (m : MemOp) : Bool :=
  !m.remote && s.waitsFor (s.corePart c) [(gLocal m.addr, m.size)]

/-- A store within the package becomes visible. -/
def State.localStore (s : State) (c : Nat) (m : MemOp) : State :=
  let a := gLocal m.addr
  match s.place a with
  | .ctrl off =>
    if h : c < 4608 then s.ctrlWrite (.core ⟨c, h⟩) off m.size (m.data.toNat % 2 ^ (8 * m.size)) else s
  | _ =>
    match s.writeMem (s.partition (s.corePart c)).job a (leBytes m.size m.data.toNat) with
    | (.error e, s) => s.raiseCore c (s.memRecord e (coreUnit c) m.addr 1)
    | (.ok _, s) => s

/-- The core's accesses within the package that are outstanding and lie in no held window take effect (03 R128: every
earlier word has taken effect). -/
def State.landStores (s : State) (c : Nat) : State :=
  let l := (s.core c).mops.filter fun m => m.store && !m.remote && !s.mopHeld c m
  l.foldl (fun s m => s.localStore c m) (s.updCore c fun k => { k with mops := k.mops.filter fun m => !l.contains m })

/-- A fault found when a word is fetched or issues. -/
def State.issueFault (s : State) (c : Nat) (r : FaultRec) : State := (s.landStores c).raiseCore c r

/-! ## Issue -/

/-- The record of a slot's fault. -/
def State.slotRecord (s : State) (c : Nat) (r : Core) (w i : Nat) : SFault → FaultRec
  | .core code addr => s.coreRecord c code addr r.pc i (slotOf w i)
  | .other r => r

/-- The slots in order, up to the first fault; an R87 conflict counts at its lower slot (03 R130). At one slot, an
unlisted code goes first, then a conflict, then the slot's other faults (log entry 36). -/
def State.slots (s : State) (c : Nat) (r : Core) (w : Nat) : List Nat → Except FaultRec State
  | [] => .ok s
  | i :: rest =>
    let pc := some r.pc
    if wValid w i && slotIllegal r.matrix.ahead.stratus i (slotOf w i) then
      .error (s.coreRecord c 0x0101 pc r.pc i (slotOf w i))
    else match (r.conflict w).filter fun e => e.1 = i with
      | some (x, y) => .error (s.coreRecord c 0x0101 pc r.pc (x + 16 * y) (slotOf w i))
      | none =>
        if r.executes w i then
          match s.slot c r w i with
          | .error f => .error (s.slotRecord c r w i f)
          | .ok s => s.slots c r w rest
        else s.slots c r w rest

/-- The word's MV mark is not allowed (02 R76). -/
def State.mvForbidden (s : State) (p : Nat) : Bool := (s.partition p).calm && !(s.partition p).allowMv

/-- What slots of a word give, or the word's first fault (02 R76, 03 R130). -/
def State.wordSlots (s : State) (c : Nat) (r : Core) (w : Nat) (l : List Nat) : Except FaultRec State :=
  if wMv w ∧ s.mvForbidden (s.corePart c) then .error (s.coreRecord c 0x0104 (some r.pc) r.pc 7 (w % 65536))
  else
    let x := s.partition (s.corePart c)
    (s.updCore c fun k => { k with pc := k.pc + 32, mayVary := k.mayVary || (wMv w && x.calm) }).slots c r w l

/-- The word's slots have all taken effect: with STOP, the next one waits for the registers that it writes (03 R89). -/
def State.wordStop (s : State) (c : Nat) (r : Core) (w : Nat) : State :=
  s.updCore c fun k => { k with
    tail := none
    stopRegs := if wStop w then
        (((List.range 5).filter fun i => r.executes w i).flatMap fun i => slotWrites i (slotOf w i)).filterMap fun x =>
          if k.pendingRegs.contains x then some (BitVec.ofNat 5 x) else none
      else [] }

/-- What the held slots of a word keep from its issue. -/
def State.tailOf (s : State) (c w : Nat) : WordTail :=
  let r := s.core c
  ⟨r.s, r.v, r.p, r.fpflags, r.status, r.dmas, r.cycle64, s.copyAt (coreIsland c), w⟩

/-- The D slot, or the C slot, of a word waits for its M slot, or a DADD or DDRAIN for the store of its S slot. -/
def State.tailWaits (s : State) (c : Nat) (r : Core) (w : Nat) : Bool :=
  (r.runs w 3 && (if r.runs w 2 then s.dWaits c r w else s.driftBusy c r w)) ||
  (r.runs w 2 && r.runs w 4 && s.mbWaits c r w)

/-- The word issues (03 R86 to R90, R128 to R130): from the state after its fetch, all its slots take effect, or it
raises its first fault and has no effect. A D or C slot that an earlier slot of its own word holds back (03 R88, R118, 04
R151) takes effect afterwards, and with it the C slot. -/
def State.issueWord (s : State) (c w : Nat) : State :=
  let r := s.core c
  match s.wordSlots c r w [0, 1, 2, 3, 4] with
  | .error f => s.issueFault c f
  | .ok all =>
    match s.wordSlots c r w [0, 1, 2] with
    | .error f => s.issueFault c f
    | .ok part =>
      if part.tailWaits c r w then part.updCore c fun k => { k with tail := some (s.tailOf c w) }
      else all.wordStop c r w

/-- The core as the held slots of a word read it. -/
def Core.atIssue (k : Core) (t : WordTail) : Core :=
  { k with
    s := t.s, v := t.v, p := t.p, fpflags := t.fpflags, status := t.status, dmas := t.dmas, cycle64 := t.cycle64
    pc := k.pc - 32 }

/-- The D and C slots of the word in issue take effect, once the slots before them have finished with the range. -/
def State.finishWord (s : State) (c : Nat) (t : WordTail) : State :=
  let r := (s.core c).atIssue t
  if !(s.core c).drains ∨ s.tailWaits c r t.word then s
  else match s.slots c r t.word [3, 4] with
    | .error f => s.issueFault c f
    | .ok s => s.wordStop c r t.word

/-- A SEMWAIT joins its semaphore's queue (14 R481); afterwards it waits there. -/
def State.joinSem (s : State) (c w : Nat) : State :=
  let b := slotOf w 4
  let faulty := match s.wordSlots c (s.core c) w [0, 1, 2, 3, 4] with
    | .error _ => true
    | .ok _ => false
  let s := s.updCore c fun k => { k with semWait := some false }
  s.semWait (s.corePart c) (cImm b % 64) (.core c ((s.core c).rs (cRa b)) faulty)

/-- WIDE_WORD_ISSUE at a core. -/
def State.wideWord (s : State) (c : Nat) : State :=
  let k := s.core c
  if k.phase ≠ .running then s
  else if let some t := k.tail then s.finishWord c t
  else if k.preempt ≠ .live ∨ !k.stopRegs.isEmpty then s
  else match s.fetchWord c with
    | (.error r, s) => s.issueFault c r
    | (.ok w, s') =>
      if s'.wordWaits c w then s
      else if k.runs w 4 ∧ cOp (slotOf w 4) = 0x19 then
        match k.semWait with
        | none =>
          let s' := s'.joinSem c w
          if (s'.core c).semWait = some true then s'.issueWord c w else s'
        | some false => s
        | some true => s'.issueWord c w
      else s'.issueWord c w

/-- The row WIDE_WORD_ISSUE (03 R86). -/
def execWideWordIssue (c : CoreId) (s : State) : Host.Outcome State Fault Refusal := .next (s.wideWord c.val)

/-! ## The matrix lanes (04 R150) -/

/-- MATRIX_OP_START: the head of the lane starts. -/
def State.laneStart (s : State) (c : Nat) (l : Lane) : State :=
  let k := s.core c
  let m := k.matrix
  if !k.drains then s
  else match l with
    | .load =>
      match m.loadQ with
      | o :: _ =>
        if m.loadReady then s.loadStart c o else s
      | [] => s
    | .compute =>
      match m.compQ with
      | o :: _ => if m.compReady then s.compStart c o else s
      | [] => s

/-- MATRIX_OP_DONE: the running head of the lane has written its last result. -/
def State.laneDone (s : State) (c : Nat) (l : Lane) : State :=
  let k := s.core c
  let m := k.matrix
  if !k.drains then s
  else match l with
    | .load =>
      match m.loadQ with
      | o :: _ =>
        if o.running then s.loadDone c o else s
      | [] => s
    | .compute =>
      match m.compQ with
      | o :: _ => if o.running then s.compDone c o else s
      | [] => s

/-- The row MATRIX_OP_START. -/
def execMatrixOpStart (c : CoreId) (l : Lane) (s : State) : Host.Outcome State Fault Refusal := .next (s.laneStart c.val l)

/-- The row MATRIX_OP_DONE. -/
def execMatrixOpDone (c : CoreId) (l : Lane) (s : State) : Host.Outcome State Fault Refusal := .next (s.laneDone c.val l)

/-! ## Loads, stores and transfers -/

/-- No earlier access or transfer of the core to the same 64-byte block is outstanding (01 R21, 03 R118). -/
def Core.mopFirst (k : Core) (i : Nat) (m : MemOp) : Bool :=
  !((k.mops.take i).any fun x => x.addr.toNat / 64 = m.addr.toNat / 64) &&
  (m.remote || !k.dmas.any fun d => d.seq < m.seq && d.hits (gLocal m.addr) m.size)

/-- No earlier access or transfer of the core meets a 64-byte block of a transfer within the package (01 R21, 03 R118). -/
def Core.dmaFirst (k : Core) (d : Dma) : Bool :=
  !(k.mops.any fun m => m.seq < d.seq && !m.remote && d.hits (gLocal m.addr) m.size) &&
  !(k.dmas.any fun e => e.seq < d.seq && d.runs.any fun p => e.hits p.1 p.2)

/-- The outstanding access at a position, which may complete now. -/
def Core.mopReady? (k : Core) (i : Nat) (store : Bool) : Option MemOp :=
  match k.mops[i]? with
  | some m => if m.store = store ∧ k.drains ∧ k.mopFirst i m ∧ (m.remote → m.answer.isSome) then some m else none
  | none => none

/-- The access leaves the list. -/
def Core.dropMop (k : Core) (i : Nat) : Core := { k with mops := k.mops.eraseIdx i }

/-- A loaded value reaches its register. -/
def Core.loaded (k : Core) (m : MemOp) (v : Nat) : Core :=
  { k.ws m.reg.toNat (extend m.size m.signed v) with stopRegs := k.stopRegs.filter (· ≠ m.reg) }

/-- A later store of the core to a line that is being filled: the cache is written through (03 R116). -/
def MemOp.patch (bs : Bytes) (m : MemOp) : Bytes :=
  let o := gLocal m.addr % 64
  bs.take o ++ leBytes m.size m.data.toNat ++ bs.drop (o + m.size)

/-- The data of a load within the package: HBM enters the data cache, with the core's later stores to it (03 R116). -/
def State.localLoad (s : State) (c : Nat) (m : MemOp) : State :=
  let a := gLocal m.addr
  match s.place a with
  | .ctrl off =>
    if h : c < 4608 then
      let (v, s) := s.ctrlRead (.core ⟨c, h⟩) off m.size
      s.updCore c fun k => k.loaded m v
    else s
  | pl =>
    match s.readBlock (s.partition (s.corePart c)).job (a / 64 * 64) noUpset with
    | (.error e, s) => s.raiseCore c (s.memRecord e (coreUnit c) m.addr 1)
    | (.ok bs, s) =>
      let s := s.updCore c fun k => k.loaded m (field bs (a % 64) m.size)
      let bs := ((s.core c).mops.filter fun x => x.store && !x.remote && gLocal x.addr / 64 = a / 64).foldl MemOp.patch bs
      match pl with
      | .hbm _ _ =>
        let k := s.core c
        let (l, s) := if (lineOf k.dcache a).isSome then (k.dcache, s) else s.cacheFill k.dcache 128 ⟨a / 64 * 64, bs⟩
        s.updCore c fun k => { k with dcache := l }
      | _ => s

/-- LOAD_DATA_RETURN. -/
def State.loadReturn (s : State) (c i : Nat) : State :=
  match (s.core c).mopReady? i false with
  | none => s
  | some m =>
    if s.mopHeld c m then s
    else
      let s := s.updCore c fun k => k.dropMop i
      match m.answer with
      | some v => s.updCore c fun k => k.loaded m v.toNat
      | none => s.localLoad c m

/-- STORE_ACKNOWLEDGEMENT. -/
def State.storeAck (s : State) (c i : Nat) : State :=
  match (s.core c).mopReady? i true with
  | none => s
  | some m =>
    if s.mopHeld c m then s
    else
      let s := s.updCore c fun k => k.dropMop i
      if m.answer.isSome then s else s.localStore c m

/-- DMA_TAG_COMPLETE: every part of the transfer is done, or its fault is raised. -/
def State.tagComplete (s : State) (c tag : Nat) : State :=
  match (s.core c).dma? tag with
  | none => s
  | some d =>
    if d.left ≠ 0 ∨ !(s.core c).drains ∨ !(s.core c).dmaFirst d ∨ s.waitsFor (s.corePart c) d.runs then s
    else match s.dmaEnd c d with
      | (none, s) => s
      | (some r, s) => s.raiseCore c r

/-- MBSEND_ANSWER: s[RB], and the flags of CORE_STATUS, which match the last MBSEND (03 R110, R127). -/
def State.mbAnswer (s : State) (c : Nat) : State :=
  match (s.core c).mb with
  | [] => s
  | a :: rest =>
    if !(s.core c).drains then s
    else s.updCore c fun k =>
      let k := k.ws a.reg.toNat (a.result.setWidth 64)
      { k with mb := rest, stopRegs := k.stopRegs.filter (· ≠ a.reg), status := a.result }

/-- The row LOAD_DATA_RETURN. -/
def execLoadDataReturn (c : CoreId) (i : Nat) (s : State) : Host.Outcome State Fault Refusal := .next (s.loadReturn c.val i)

/-- The row STORE_ACKNOWLEDGEMENT. -/
def execStoreAcknowledgement (c : CoreId) (i : Nat) (s : State) : Host.Outcome State Fault Refusal :=
  .next (s.storeAck c.val i)

/-- The row DMA_TAG_COMPLETE. -/
def execDmaTagComplete (c : CoreId) (tag : Fin 32) (s : State) : Host.Outcome State Fault Refusal :=
  .next (s.tagComplete c.val tag.val)

/-- The row MBSEND_ANSWER. -/
def execMbsendAnswer (c : CoreId) (s : State) : Host.Outcome State Fault Refusal := .next (s.mbAnswer c.val)

/-! ## Launches and the end of a kernel (02 R61 to R67, 03 R123, R125, 14 R475, R476) -/

/-- Launch state is written to the comparator of an idle core, and lateness is judged (02 R61 to R63). -/
def State.armLaunch (s : State) (c : Nat) : State :=
  let k := s.core c
  match k.pendingLaunch with
  | none => s
  | some l =>
    if k.phase ≠ .idle ∨ k.armed.isSome ∨ k.preempt ≠ .live ∨ k.ctx ≠ some l.part then s
    else
      let now := s.copyAt (coreIsland c)
      let late := if l.equinox ≠ 0 ∧ l.equinox ≤ now then some (now - l.equinox) else none
      if (s.partition l.part).calm ∧ late.getD 0 > l.window then
        s.raise l.part (s.lateRecord (coreUnit c) now l.equinox)
      else s.updCore c fun k => { k with pendingLaunch := none, armed := some (l, late) }

/-- One core of a KERNEL has finished at a count; the last one to finish records completion (02 R66). -/
def Item.coreDone (i : Item) (now : Nat) (late : Option Nat) (mv : Bool) : Item :=
  { i with left := i.left - 1, late := maxLate i.late late, mv := i.mv || mv,
           complete := i.complete || i.left ≤ 1, doneAt := now }

/-- Loads and answers that outlive their kernel write no register any more: s0 discards what is written to it. -/
def Core.forget (k : Core) : Core :=
  { k with mops := k.mops.map fun m => { m with reg := 0 }, mb := k.mb.map fun m => { m with reg := 0 } }

/-- KERNEL_COMPLETION: a halting core whose stores, transfers and lanes have ended records completion no later than its
deadline (02 R67, R69), becomes idle and arms its pending launch (03 R125, 04 R152). -/
def State.kernelEnd (s : State) (c : Nat) : State :=
  let k := s.core c
  match k.cur with
  | none => s
  | some l =>
    let now := s.copyAt (coreIsland c)
    if k.phase ≠ .halting ∨ k.preempt ≠ .live ∨ (k.mops.any fun m => m.store) ∨ !k.dmas.isEmpty ∨
        !k.matrix.loadQ.isEmpty ∨ !k.matrix.compQ.isEmpty ∨ now > l.deadline then s
    else
      let s := (s.updItem l.part l.pos fun i => i.coreDone now k.late k.mayVary).completions l.part
      (s.updCore c fun k => { k.forget with phase := .idle, cur := none, late := none, mayVary := false, stopRegs := [] }).armLaunch c

/-- The row KERNEL_COMPLETION. -/
def execKernelCompletion (c : CoreId) (s : State) : Host.Outcome State Fault Refusal := .next (s.kernelEnd c.val)

end Sys2Proof.Machine
end

