-- ==== Sys2Proof/Machine/Copies.lean ====
section
/-! DEFINITION. The copy of a DMA entry (14 R477, 05 R186, 12 R402): its runs, its tiles, and its completion. -/

namespace Sys2Proof.Machine

open Sys2Proof

/-- The item of a position. -/
def State.item? (s : State) (p pos : Nat) : Option Item := (s.partition p).ring.items.find? fun i => i.pos = pos

/-- A record of a memory fault that the command processor meets (14 R477): a DMA reader. -/
def State.cmdMem (s : State) (e : MemErr) : FaultRec := s.memRecord e cmdUnit (s.global e.at_) 2

/-- A read and a write by the command processor on behalf of a partition. -/
def State.cmdRead (s : State) (p a n : Nat) : Try Bytes := match s.peek p a n with
  | (.error e, s) => (.error (s.cmdMem e), s)
  | (.ok bs, s) => (.ok bs, s)
def State.cmdWrite (s : State) (p a : Nat) (bs : Bytes) : Try Unit := match s.writeMem (s.partition p).job a bs with
  | (.error e, s) => (.error (s.cmdMem e), s)
  | (.ok _, s) => (.ok (), s)

/-- A range as runs that cross no 512-byte boundary at the source or at the destination: offset and length. -/
def copyRuns (src dst n : Nat) : List (Nat × Nat) :=
  (split512 src n).flatMap fun e => (split512 (dst + e.1) e.2).map fun f => (e.1 + f.1, f.2)

/-- A request of the copy. -/
def cmdPkt (op : Nat) (comp mv : Bool) (g : Nat) (n : Nat) : Pkt :=
  { op := BitVec.ofNat 8 op, comp := comp, mv := mv, dst := gPkg (BitVec.ofNat 64 g), src := 0,
    srcUnit := BitVec.ofNat 16 cmdUnit, reqId := 0, job := 0, length := BitVec.ofNat 10 n,
    addr := BitVec.ofNat 48 g }

/-- The address lies on this package. -/
def State.isOwn (s : State) (g : Nat) : Bool := gPkg (BitVec.ofNat 64 g) = s.self

/-- Bytes go to their destination: here at once, or by a WRITE, which is counted. -/
def State.copyOut (s : State) (p pos : Nat) (comp mv : Bool) (dst : Nat) (bs : Bytes) : Try Unit :=
  if s.isOwn dst then s.cmdWrite p (loc dst) bs
  else
    let s := s.newXact (cmdPkt 2 comp mv dst bs.length) bs (.entry p pos 0) p
    (.ok (), s.updItem p pos fun i => { i with left := i.left + 1 })

/-- Bytes that have been read go out in runs. -/
def State.copyBytes (s : State) (p pos : Nat) (comp mv : Bool) (dst : Nat) (bs : Bytes) : Try Unit :=
  tryThen (tryList (fun e s => s.copyOut p pos comp mv (dst + e.1) ((bs.drop e.1).take e.2)) (split512 dst bs.length) s)
    fun _ s => (.ok (), s)

/-- One run of a copy whose bytes are not tiles. -/
def State.copyRun (s : State) (p pos : Nat) (mv : Bool) (src dst n : Nat) : Try Unit :=
  if s.isOwn src then tryThen (s.cmdRead p (loc src) n) fun bs s => s.copyOut p pos false mv dst bs
  else
    let s := s.newXact (cmdPkt 1 false mv src n) [] (.entry p pos dst) p
    (.ok (), s.updItem p pos fun i => { i with left := i.left + 1 })

/-- The tiles of a compressed copy, from offset `o` of the bytes read; a tile that fails R173 ends the copy once the
tiles before it are delivered (05 R187). -/
def State.copyTiles (s : State) (p pos : Nat) (mv : Bool) (dst : Nat) (bs : Bytes) : Nat → Nat → Try Unit
  | 0, _ => (.ok (), s)
  | n + 1, o =>
    if o ≥ bs.length then (.ok (), s)
    else
      let rest := bs.drop o
      let h := tileHead rest
      let padded := roundUp h.length 64
      if h.length = 0 then (.ok (), s)
      else if (tileOf rest).isNone ∨ o + padded > bs.length then
        let r := s.recordOpen 0x0205 cmdUnit 0
        (.ok (), (s.updItem p pos fun i => { i with fault := some r }))
      else tryThen (s.copyBytes p pos true mv (dst + o) (rest.take padded)) fun _ s =>
        s.copyTiles p pos mv dst bs n (o + padded)

/-- The offsets of data that waits in the item's buffer are marked so in the owner of a READ. -/
def bufMark : Nat := 2 ^ 64

/-- The requests of a copy, or its parts within the package. -/
def State.copyStart (s : State) (p pos : Nat) (mv comp : Bool) (src dst n : Nat) : Try Unit :=
  let s := s.updItem p pos fun i => { i with copyTo := dst }
  if !comp then
    tryThen (tryList (fun e s => s.copyRun p pos mv (src + e.1) (dst + e.1) e.2) (copyRuns src dst n) s) fun _ s => (.ok (), s)
  else if s.isOwn src then
    tryThen (s.cmdRead p (loc src) n) fun bs s => s.copyTiles p pos mv dst bs (n / 64 + 1) 0
  else
    let runs := split512 src n
    let s := runs.foldl (fun s e => s.newXact (cmdPkt 1 false mv (src + e.1) e.2) [] (.entry p pos (bufMark + e.1)) p) s
    (.ok (), s.updItem p pos fun i => { i with left := i.left + runs.length })

/-- The bytes in an item's buffer, in order of offset. -/
def Item.bufBytes (i : Item) : Bytes := (i.buf.mergeSort fun a b => a.1 ≤ b.1).flatMap (·.2)

/-- Every request of an item is done: what waits in its buffer goes out, its fault is raised, or it completes no later
than its deadline (14 R470, R477, 02 R67). -/
def State.entryEnd (s : State) (p pos : Nat) : State :=
  let done (s : State) : State :=
    match s.item? p pos with
    | none => s
    | some i =>
      if i.left ≠ 0 then s
      else match i.fault with
        | some r => s.raise p { r with season := s.season.k0 }
        | none => if s.now ≤ i.deadline then s.finishItem p pos s.now none else s
  match s.item? p pos with
  | none => s
  | some i =>
    if i.left ≠ 0 then s
    else if i.buf.isEmpty then done s
    else
      let bs := i.bufBytes
      let s := s.updItem p pos fun i => { i with buf := [] }
      tryRaise p (s.copyTiles p pos i.mv i.copyTo bs (bs.length / 64 + 1) 0) fun _ s => done s

/-- One request of a ring's DMA entry is done. -/
def State.entryPart (s : State) (p pos : Nat) : State :=
  (s.updItem p pos fun i => { i with left := i.left - 1 }).entryEnd p pos

/-- Data that a READ of a DMA entry brought: into the item's buffer, to memory here, or out by a WRITE. -/
def State.entryStore (s : State) (x : Xact) (p pos dst : Nat) (data : Bytes) : State :=
  if dst ≥ bufMark then (s.updItem p pos fun i => { i with buf := (dst - bufMark, data) :: i.buf }).entryPart p pos
  else tryRaise p (s.copyOut p pos false x.k.mv dst data) fun _ s => s.entryPart p pos

end Sys2Proof.Machine
end

