-- ==== Sys2Proof/Machine/Halts.lean ====
section
/-! DEFINITION. How the package stops (01 R37 to R40, 18 R579, R580, R594), and the commands of chapters 01, 02 and 19
that concern its dies and its Season source (02 R44 to R57, 19 R615). -/

namespace Sys2Proof.Machine

open Sys2Proof

/-! ## HALT_REFUSED -/

/-- Nothing runs on the cores and the stewards (18 R579). -/
def State.stopAll (s : State) : State :=
  let s := s.cores.foldl (fun s e => s.haltCore e.1) s
  { s with stewards := s.stewards.map fun e => (e.1, { e.2 with running := false, waiting := none }) }

/-- The package is in a start (18 R579). -/
def State.starting (s : State) : Bool := s.mgmt.state = .coldStart || s.mgmt.state = .warmStart

/-- The package enters HALT_REFUSED with a cause (18 R580, R588, R594, R595). Filina runs on when a cold start has loaded
it (16 R546, 18 R587; log entry 120). -/
def State.halt (s : State) (code : Byte) (detail : Nat) : State :=
  let failed := s.starting
  let warm : Bool := s.mgmt.state = .warmStart
  let ms := s.elapsedMs
  let s := s.stopAll
  let s := if failed then s.updFw fun f => { f with up := f.up || (f.loaded && !warm) } else s
  (s.updMgmt fun m => { m with
    state := .haltRefused, causeCode := code, causeDetail := BitVec.ofNat 16 detail, pending := true,
    elapsed := BitVec.ofNat 32 ms, elapsedRuns := false, warm := { m.warm with valid := m.warm.valid && !failed },
    warmEntered := false }).emit .alertN

/-! ## Failing dies (01 R37 to R39) -/

/-- PKG_DIE_FAIL and PKG_DIE_OK after dies have failed. -/
def State.markDies (s : State) (dies : List Nat) : State :=
  let m : BitVec 40 := dies.foldl (fun acc d => acc ||| (1#40 <<< d)) 0
  { s with dieFail := s.dieFail ||| m, dieOk := s.dieOk &&& ~~~m }

/-- The lowest of a list of dies. -/
def lowest (dies : List Nat) : Nat := dies.foldl min 39

/-- Dies other than K0 and K1 fail: every partition gets one record, and the package halts (01 R37, R38). -/
def State.failDies (s : State) (dies : List Nat) (code : Byte) (detail : Nat) : State :=
  let s := s.markDies dies
  let s := s.raiseMany s.livePartitions fun s =>
    { s.recordOpen 0x0A02 (lowest dies * 256) 0 with d0 := s.dieFail.setWidth 64 }
  s.halt code detail

/-- A control die fails: the registers of the dies show it (01 R32), and no record is posted (01 R39). Filina runs on
K0. -/
def State.failControl (s : State) (d : Nat) : State :=
  let s := (s.markDies [d]).halt 0x0D d
  if d = 38 then s.updFw fun f => { f with up := false, loaded := false } else s

/-- Dies fail: when a control die is among them, as R39 says, else as R37 says. Of both control dies the lower index is
named, as R36 and R38 do (log entry 105). -/
def State.failAny (s : State) (l : List Nat) : State :=
  match l.filter (38 ≤ ·) with
  | [] => s.failDies l 0x0B (lowest l)
  | c => (s.markDies l).failControl (lowest c)

/-- The row DIE_FAILED (01 R37): dies other than the control dies, and modules that have failed, each of which is a
failure of both dies that it joins (01 R35). The rules name SERVICE; a package in QUIESCED does the same (log entry
75). -/
def execDieFailed (f : FailedUnits) (s : State) : Host.Outcome State Fault Refusal :=
  let l := (f.dies.map (·.val)).filter (· < 38) ++ f.modules.flatMap ModuleRef.dies
  .next (if l.isEmpty ∨ !s.operational then s else s.failAny l)

/-- The row CONTROL_DIE_FAILED (01 R39). -/
def execControlDieFailed (k : Fin 2) (s : State) : Host.Outcome State Fault Refusal :=
  .next (if s.operational then s.failControl (38 + k.val) else s)

/-! ## The count-sync check (02 R48) -/

/-- The island of K0, which holds the K0 copy itself. -/
def k0Island : Nat := dieIsland 38

/-- The difference from the K0 copy that an island's copy shows, with the drift found and not yet shown. -/
def Island.difference (i : Island) : Int := i.off + i.drift

/-- The island as the count-sync word finds it: a copy never steps, so what its difference has changed by shows over the
next ticks (02 R45; log entry 70). An island that had followed the K0 copy so far made its corrections. -/
def Season.measureIsland (z : Season) (i : Nat) (m : Int) : Season :=
  let x := Tab.get { Island.inStep with lastSlew := z.lastSlew } z.islands i
  { z with islands := Tab.put z.islands i { x with drift := m - x.off } }

/-- An island's check: its difference from the K0 copy is removed by slewing, and counted. -/
def Season.checkIsland (z : Season) (i : Nat) : Season :=
  let x := Tab.get Island.inStep z.islands i
  if x.difference = 0 then z
  else { z with
    islands := Tab.put z.islands i { x with slew := -x.difference }
    islandSlips := satAdd z.islandSlips 1 }

/-- The islands' copies as the count-sync word finds them: `meas` gives each island whose copy has moved, with its
difference from the K0 copy. A difference of more than 4 ticks is a failure of the island's die. -/
def State.syncCheck (s : State) (meas : List (Nat × Int)) : State :=
  let s := s.updSeason fun z => meas.foldl (fun z e => z.measureIsland e.1 e.2) z
  let far := (s.season.islands.filter fun e => e.2.difference.natAbs > 4).map fun e => islandDie e.1
  if !far.isEmpty then s.failAny far
  else s.updSeason fun z => (z.islands.map (·.1)).foldl Season.checkIsland z

/-- The row COUNT_SYNC (02 R48): the check runs from the Season lock step on, in a start too. -/
def execCountSync (meas : List (IslandRef × Int)) (s : State) : Host.Outcome State Fault Refusal :=
  let l := (meas.map fun e => (IslandRef.no e.1, e.2)).filter fun e => e.1 ≠ k0Island
  .next (if s.season.countSync ∧ s.moves then s.syncCheck l else s)

/-! ## The reference inputs (19 R615) -/

/-- REF_PRESENT is formed again; its loss is the loss of the tray master's reference (02 R55). -/
def State.checkRef (s : State) : State :=
  let e := s.season.ppsEdges
  let near (a b : Nat) : Bool := 999998000 ≤ a - b && a - b ≤ 1000002000
  let ok : Bool := s.season.timerefOk && match e with
    | a :: b :: c :: d :: _ => near a b && near b c && near c d
    | _ => false
  let was := s.season.refPresent
  let s := s.updSeason fun z => { z with refPresent := ok }
  if was ∧ !ok then
    if s.season.role = 2 then s.loseSource.elect else s
  else if !was ∧ ok then s.elect else s

/-- A PPS edge: its place in ticks of the timebase, which no correction of a copy moves (log entry 106); the tray master
measures the offset of its K0 count from SEA_PPS_BASE (02 R51). -/
def State.pps (s : State) : State :=
  let t := s.time
  let s := (s.updSeason fun z => { z with ppsEdges := (t :: z.ppsEdges).take 4 }).checkRef
  if s.season.role = 2 ∧ s.season.refPresent then
    let d := ((s.now : Int) - s.season.inForce.2.2.1.toNat).emod 1000000000
    s.measured (16 * (if d ≥ 500000000 then d - 1000000000 else d))
  else s

/-- The row PPS_EDGE (19 R615). -/
def execPpsEdge (s : State) : Host.Outcome State Fault Refusal := .next (if s.ticks then s.pps else s)

/-- The row TIMEREF_COUNT_CHECK (19 R615): 10,000 edges, within 5 ppm, are exactly 10,000. -/
def execTimerefCountCheck (edges : Nat) (s : State) : Host.Outcome State Fault Refusal :=
  .next (if s.ticks then (s.updSeason fun z => { z with timerefOk := edges = 10000 }).checkRef else s)

/-- The row PPS_EDGE_LATE (19 R615). -/
def execPpsEdgeLate (s : State) : Host.Outcome State Fault Refusal :=
  .next (match s.season.ppsEdges with
    | a :: _ =>
      if s.ticks ∧ s.time > a + 1000002000 then (s.updSeason fun z => { z with ppsEdges := [] }).checkRef else s
    | [] => s)

/-! ## Holdover and link delays (02 R56, R57, 11 R393) -/

/-- HOLDOVER may end: SEA_HOLDOVER_MAX has elapsed, or the estimated error can have passed 8 ns, which it does not do
in the first 160 ms. -/
def State.holdoverOver (s : State) : Bool :=
  s.moves && s.season.state = .holdover &&
    min 160000000 (s.season.inForce.2.2.2.toNat * 1000000) ≤ s.now - s.season.holdoverAt

/-- HOLDOVER ends in UNLOCKED, and the Calm partitions are torn down (02 R57). -/
def State.endHoldover (s : State) : State :=
  let s := s.updSeason fun z => z.setLock .unlocked
  s.raiseMany (s.livePartitions.filter fun p => (s.partition p).calm) fun s =>
    s.recordOpen 0x0804 (freeUnit (Config.freeNat (s.free + 4))) 0

/-- The row HOLDOVER_END (02 R56). -/
def execHoldoverEnd (s : State) : Host.Outcome State Fault Refusal := .next (if s.holdoverOver then s.endHoldover else s)

/-- SEA_LINK_DELAY takes the mean of each port's exchanges (02 R50), rounded towards zero (log entry 115). -/
def State.refreshDelays (s : State) : State :=
  (List.range 56).foldl (fun s n =>
    let b := (s.port n).beacon
    if b.exchanges = 0 then s
    else
      let mean := b.delaySum.tdiv b.exchanges
      (s.updSeason fun z => { z with linkDelay := Tab.put z.linkDelay n (BitVec.ofInt 32 mean) }).updPort n fun p =>
        { p with beacon := { p.beacon with exchanges := 0, delaySum := 0 } }) s

/-- The row LINK_DELAY_REFRESH (11 R393). -/
def execLinkDelayRefresh (s : State) : Host.Outcome State Fault Refusal :=
  .next (if s.ticks then s.refreshDelays else s)

end Sys2Proof.Machine
end

