-- ==== Sys2Proof/Machine/Engines.lean ====
section
/-! DEFINITION. The transaction engines and switch cores as sources (12 R396, R404, R408 to R422, R426): sending,
retrying, combining, probing, what a reply completes, and what a failure raises. -/

namespace Sys2Proof.Machine

open Sys2Proof

/-! ## Records and failures -/

/-- The global address of a transaction. -/
def pktTarget (k : Pkt) : Word := BitVec.ofNat 64 (k.dst.toNat * 2 ^ 48 + k.addr.toNat)

/-- The record of 12 R431. -/
def State.xactRecord (s : State) (x : Xact) (code status : Nat) : FaultRec :=
  s.record code x.k.srcUnit.toNat (pktTarget x.k) x.k.reqId.toNat
    (x.k.op.toNat + min 15 x.attempts * 256 + status * 65536) x.k.dst.toNat x.k.origTime.toNat

/-- The fault that a STATUS gives (12 R404). -/
def statusFault (status : Nat) : Nat := match status with
  | 1 => 0x0403
  | 2 => 0x0401
  | 3 => 0x0402
  | 5 => 0x0502
  | _ => 0x0508

/-- A member, or the members, of a combined request that still wait for its reply (12 R420): a member that a pre-emption has suspended
does not (15 R506). -/
def State.memberOf (s : State) (id : BitVec 32) : Option Xact :=
  (s.xact? id).filter fun x => match x.state with
    | .joined _ => true
    | _ => false

def State.membersOf (s : State) (ids : List (BitVec 32 × Word)) : List Xact := ids.filterMap fun i => s.memberOf i.1

/-- A transaction whose failure is no fault: a COLL_ABORT that cannot be delivered (13 R456), and a read of a shard that its
package does not give (17 R568). -/
def Xact.undelivered (x : Xact) : Bool := (x.tree.map (·.op)) = some 0x43 || match x.owner with
  | .shard _ _ _ => true
  | _ => false

/-- So is a combined request all of whose members are such reads (12 R420). -/
def State.unraised (s : State) (x : Xact) : Bool := x.undelivered || match x.owner with
  | .combined ids => !(s.membersOf ids).isEmpty && (s.membersOf ids).all Xact.undelivered
  | _ => false

/-- A transaction ends in a fault in the context that issued it; a combined one in every member's (12 R420). An abort of
a collective that cannot be delivered is dropped (13 R456), and a shard that does not come is not available (17 R568). -/
def State.failXact (s : State) (x : Xact) (code status : Nat) : State :=
  match x.owner with
  | .combined ids =>
    let s := s.dropXact x.k.reqId
    (s.membersOf ids).foldl (fun s m =>
      let s := s.dropXact m.k.reqId
      if m.undelivered then s else s.raise m.part { s.xactRecord x code status with season := s.season.k0 }) s
  | _ =>
    let s := s.dropXact x.k.reqId
    if x.undelivered then s
    else s.raise x.part (s.xactRecord x code status)

/-! ## What a reply completes -/

/-- One packet of a transfer under a tag is done. -/
def Dma.partDone (d : Dma) : Dma := { d with left := d.left - 1 }

/-- The first outstanding remote access to an address gets its answer. -/
def answerMop (addr : Word) (store : Bool) (v : Word) : List MemOp → List MemOp
  | [] => []
  | m :: rest =>
    if m.remote ∧ m.addr = addr ∧ m.store = store ∧ m.answer.isNone then { m with answer := some v } :: rest
    else m :: answerMop addr store v rest

/-- The data of a READ reach the scratchpad under a core's tag. -/
def State.dmaData (s : State) (x : Xact) (c tag off : Nat) (data : Bytes) : State :=
  s.landData c x.part tag off data (((s.ctxCore x.part c).dma? tag).any fun d => d.op = 0x0A)

/-- A copy of a multicast forwarded for a received copy is acknowledged: when it was the last, so is the received copy
(12 R422). -/
def State.mcastPart (s : State) (src : PkgId) (id : BitVec 32) : State :=
  match s.fabric.mcastIn.find? fun m => m.k.src = src ∧ m.k.reqId = id with
  | none => s
  | some m =>
    if m.left ≤ 1 then
      (s.updFabric fun b => { b with mcastIn := b.mcastIn.erase m }).reply m.k 0x81 0 0 []
    else s.updFabric fun b => { b with mcastIn := b.mcastIn.map fun y => if y = m then { y with left := y.left - 1 } else y }

/-- Bytes of a shard arrive for a restore. The header tells how many bytes of data to read (17 R567, R568). -/
def State.shardReply (s : State) (x : Xact) (p k off : Nat) (data : Bytes) : State :=
  match Tab.get? s.ckpt.running p with
  | none => s
  | some r =>
    let s := { s with ckpt := { s.ckpt with
      running := Tab.put s.ckpt.running p { r with replies := (k, off, data) :: r.replies } } }
    let used := field data 32 8
    if off ≠ 0 ∨ !(s.ckpt.dew.any fun e => e.2.job = r.job && used ≤ e.2.shard) then s
    else (List.range (cdiv used 512)).foldl (fun s i =>
      s.newXact { x.k with length := BitVec.ofNat 10 (min 512 (used - 512 * i))
                           addr := x.k.addr + BitVec.ofNat 48 (4096 + 512 * i) } [] (.shard p k (64 + 512 * i)) p) s

/-- The effect of a successful reply on the unit that issued the transaction, for every owner but a switch core. -/
def State.finish (s : State) (x : Xact) (v : Word) (data : Bytes) : State :=
  match x.owner with
  | .coreMem c addr store =>
    s.updCtx x.part c fun k => { k with mops := answerMop addr store (if store then 0 else BitVec.ofNat 64 (leNat data)) k.mops }
  | .coreDma c tag off =>
    let s := if x.k.op = 1 then s.dmaData x c tag off data else s
    s.updCtx x.part c fun k => k.updDma tag Dma.partDone
  | .datom c tag => s.updCtx x.part c fun k => k.updDma tag fun d => { d.partDone with result := some v }
  | .entry p pos dst => if x.k.op = 1 then s.entryStore x p pos dst data else s.entryPart p pos
  | .ret sl slot => (s.updStep sl fun t => { t with returning := t.returning.map fun e =>
      if e.1 = slot then (e.1, e.2.1, e.2.2 - 1) else e }).endReturn sl slot
  | .mcast src id => s.mcastPart src id
  | .ckpt p => { s with ckpt := { s.ckpt with running := s.ckpt.running.map fun e =>
      if e.1 = p then (e.1, { e.2 with left := e.2.left - 1 }) else e } }
  | .shard p k off => s.shardReply x p k off data
  | .probe id =>
    match s.xact? id with
    | some y => s.failXact y 0x0501 y.lastStatus.toNat
    | none => s
  | _ => s

/-- Width of an atomic, in bits. -/
def pktWidth (k : Pkt) : Nat := 8 * k.length.toNat

/-- One step of a combined operand's sum (12 R419). -/
def combineStep (op w : Nat) (a b : Word) : Word :=
  if op = 0x11 then BitVec.ofNat 64 (fp32.add (a.toNat % 2 ^ 32) (b.toNat % 2 ^ 32)).1
  else BitVec.ofNat 64 ((a.toNat + b.toNat) % 2 ^ w)

/-- The members in increasing SRC_UNIT. -/
def bySource (l : List Xact) : List Xact := l.mergeSort fun a b => a.k.srcUnit.toNat ≤ b.k.srcUnit.toNat

/-- A combined reply answers its members, in increasing SRC_UNIT (12 R420): for a FETCH_ADD the old value plus the
operands before, also those of members that no longer wait. -/
def State.answerMembers (s : State) (op w : Nat) (v : Word) (data : Bytes) : List (BitVec 32 × Word) → State
  | [] => s
  | (id, a) :: rest =>
    let s := match s.memberOf id with
      | some m => (s.dropXact id).finish m v data
      | none => s
    s.answerMembers op w (if op = 0x16 then combineStep op w v a else v) data rest

/-- A reply with STATUS 0 to an outstanding transaction. -/
def State.complete (s : State) (x : Xact) (v : Word) (data : Bytes) : State :=
  let s := s.dropXact x.k.reqId
  match x.owner with
  | .combined ids => s.answerMembers x.k.op.toNat (pktWidth x.k) v data ids
  | _ => s.finish x v data

/-- A fault STATUS of a READ_REPLY delivers the bytes before the first poisoned block (12 R404), to a transfer, to a DMA
entry, or to one member of a combined READ. A scalar load lies inside one block and gets none. -/
def State.partTo (s : State) (x : Xact) (data : Bytes) : State := match x.owner with
  | .coreDma c tag off => s.dmaData x c tag off data
  | .entry p pos dst =>
    if dst ≥ bufMark then s.updItem p pos fun i => { i with buf := (dst - bufMark, data) :: i.buf }
    else if data.isEmpty then s
    else tryRaise p (s.copyOut p pos false x.k.mv dst data) fun _ s => s
  | _ => s

/-- The bytes go to the unit that issued the READ, or to every member of a combined one (12 R420). -/
def State.deliverPart (s : State) (x : Xact) (data : Bytes) : State := match x.owner with
  | .combined ids => (s.membersOf ids).foldl (fun s m => s.partTo m data) s
  | _ => s.partTo x data

/-- A reply arrives at the engine (12 R404, R410). -/
def State.onReply (s : State) (k : Pkt) (data : Bytes) : State :=
  let late (s : State) : State := s.updFabric fun b => { b with lateReply := satAdd b.lateReply 1 }
  match s.xact? k.reqId with
  | none => late s
  | some x =>
    if x.state = .queued ∨ x.state = .suspended ∨ x.k.dst ≠ k.src then late s
    else
      match k.status.toNat with
      | 0 => s.complete x k.arg0 (data.take k.length.toNat)
      | 6 => s.updXact k.reqId fun y => { y with state := .busy, sentAt := s.now, lastStatus := 6 }
      | st =>
        let s := if x.k.op = 1 ∧ (st = 2 ∨ st = 3) then s.deliverPart x (data.take k.length.toNat) else s
        s.failXact { x with lastStatus := BitVec.ofNat 8 st } (statusFault st) st

/-! ## Sending (12 R396, R397, R408) -/

/-- The 64-byte blocks that a request touches: first and last. -/
def pktBlocks (k : Pkt) : Nat × Nat := (k.addr.toNat / 64, (k.addr.toNat + max 1 k.length.toNat - 1) / 64)

/-- Two requests of one source unit to one package share a block. Tree packets name no memory: none holds another back (13
R445, R447). -/
def pktShares (a b : Pkt) : Bool :=
  a.op.toNat / 16 ≠ 4 && b.op.toNat / 16 ≠ 4 && a.srcUnit = b.srcUnit && a.dst = b.dst && (pktBlocks a).1 ≤ (pktBlocks b).2 && (pktBlocks b).1 ≤ (pktBlocks a).2

/-- No earlier request of the unit to a shared block is outstanding (12 R408). -/
def State.firstInOrder (s : State) (x : Xact) : Bool :=
  !((s.fabric.xacts.takeWhile fun y => y.k.reqId ≠ x.k.reqId).any fun y => pktShares y.k x.k)

/-- The core whose context issued a transaction. -/
def Xact.core? (x : Xact) : Option Nat := match x.owner with
  | .coreMem c _ _ => some c
  | .coreDma c _ _ => some c
  | .datom c _ => some c
  | _ => none

/-- A checkpoint's packet to another package waits for those that go before it in its shard: the header, 64 bytes, for
every one, a data packet for the header write that clears VALID (17 R567). -/
def State.shardTurn (s : State) (x : Xact) : Bool :=
  x.k.dst = s.self || !((s.fabric.xacts.takeWhile fun y => y.k.reqId ≠ x.k.reqId).any fun y =>
    y.owner = x.owner && y.k.dst = x.k.dst && (x.data.length = 64 || y.data.length = 64))

/-- The context that issued a transaction may start it: it is live (15 R505), and a further packet of its DMA engine finds
fewer than 1,024 of its transfers outstanding (12 R397). A suspended one and a DATOM are among these already. -/
def State.mayStart (s : State) (x : Xact) : Bool := match x.core? with
  | none => (match x.owner with
    | .ckpt _ => s.shardTurn x
    | _ => true)
  | some c =>
    (s.core c).ctx = some x.part && (s.core c).preempt = .live &&
    (match x.owner with
      | .coreDma _ _ _ => x.state ≠ .queued || s.coreXacts c < 1024
      | _ => true)

/-- The engine has a free slot (12 R396). -/
def State.engineFree (s : State) (x : Xact) : Bool :=
  (s.fabric.xacts.countP fun y => y.state ≠ .queued && y.state ≠ .suspended &&
    engineOf y.k.addr.toNat = engineOf x.k.addr.toNat) < 8192

/-- A packet of Snowpack goes to the bridge, by the S-ports in turn every 4 KiB, and is not routed (17 R571). -/
def State.injectFor (s : State) (x : Xact) (header : Flit) (data : Bytes) : State := match x.owner with
  | .ckpt p =>
    if x.k.dst ≠ s.self then s.inject header data
    else
      let obj := ((Tab.get? s.ckpt.running p).map fun r => field r.cmd.entry 40 8).getD 0
      s.transmit 56 (if (x.k.addr.toNat - obj) / 4096 % 2 = 0 then 48 else 55) header data
  | _ => s.inject header data

/-- An attempt leaves the package; `first` sets ORIG_TIME and LOCKED (12 R400, R410). -/
def State.sendAttempt (s : State) (x : Xact) (retry : Nat) (first : Bool) : State :=
  let k := { x.k with epoch := s.fabric.epoch, retry := BitVec.ofNat 2 retry,
                      origTime := if first then s.season.k0 else x.k.origTime
                      locked := if first then s.locked else x.k.locked }
  let s := s.updXact k.reqId fun y => { y with
    k := k, state := .sent, sentAt := s.now, first := if first then s.now else y.first, attempts := retry + 1 }
  match x.tree with
  | some t => s.inject (treeToFlit { t with epoch := s.fabric.epoch, retry := BitVec.ofNat 2 retry }) x.data
  | none => s.injectFor { x with k := k } (pktToFlit k) x.data

/-- A request may be combined in its switch core (12 R418). -/
def State.eligible (s : State) (x : Xact) : Bool :=
  s.fabric.combine && x.tree.isNone && !x.k.combined &&
  (x.k.op = 1 || x.k.op = 0x10 || x.k.op = 0x11 || x.k.op = 0x16) &&
  (!(s.partition x.part).calm || x.k.mv)

/-- Two requests combine (12 R418). -/
def pktCombines (a b : Pkt) : Bool :=
  a.job = b.job && a.dst = b.dst && a.addr = b.addr && a.op = b.op && a.length = b.length

/-- The window that a request joins: its leader, when fewer than 64 requests are in it (12 R419). -/
def State.openWindow (s : State) (x : Xact) : Option Xact :=
  s.fabric.xacts.find? fun y => y.state = .window && pktCombines y.k x.k &&
    (s.fabric.xacts.countP fun z => z.state = .joined y.k.reqId) < 63 && s.now < y.sentAt + 64

/-- A request that goes to its switch core's window is not timed by its engine while it is there (log entry 27). -/
def State.toWindow (s : State) (x : Xact) : State :=
  let st : XState := match s.openWindow x with
    | some y => .joined y.k.reqId
    | none => .window
  s.updXact x.k.reqId fun y => { y with
    state := st, sentAt := s.now, first := s.now, attempts := 1
    k := { y.k with origTime := s.season.k0, locked := s.locked, epoch := s.fabric.epoch } }

/-- The last attempt has timed out: firmware on the target is probed (12 R414). -/
def State.probe (s : State) (x : Xact) : State :=
  let id := s.fabric.nextReq
  let k : Pkt := { op := 0x20, dst := x.k.dst, src := 0, srcUnit := x.k.srcUnit, reqId := 0, job := 0, addr := x.k.addr }
  let s := s.updXact x.k.reqId fun y => { y with state := .probing }
  let s := s.newXact k [] (.probe x.k.reqId) x.part
  match s.xact? id with
  | some y => s.sendAttempt y 0 true
  | none => s

/-- An attempt is sent again, and counted (12 R430). -/
def State.resend (s : State) (x : Xact) : State :=
  (s.updFabric fun b => { b with retries := satAdd b.retries 1 }).sendAttempt x x.attempts false

/-- A transaction that a pre-emption suspended goes on, when its engine has a slot (12 R396, 15 R506). -/
def State.resumeXact (s : State) (x : Xact) : State :=
  if !s.engineFree x then s else if x.attempts < 4 then s.resend x else s.probe x

/-- REQUEST_SEND: the first attempt of a transaction that waits for its engine, or the next one of a transaction that was
suspended and waits for it again. -/
def State.requestSend (s : State) (id : BitVec 32) : State :=
  match s.xact? id with
  | none => s
  | some x =>
    if !s.operational ∨ !s.firstInOrder x ∨ !s.mayStart x ∨ !s.engineFree x then s
    else if x.state = .suspended then s.resumeXact x
    else if x.state ≠ .queued then s
    else if s.eligible x ∧ x.k.dst ≠ s.self then s.toWindow x
    else s.sendAttempt x 0 true

/-- COMBINE_WINDOW_CLOSE: one request goes out for all the members (12 R419). -/
def State.closeWindow (s : State) (id : BitVec 32) : State :=
  match s.xact? id with
  | none => s
  | some x =>
    if x.state ≠ .window ∨ !s.moves ∨ s.now < x.sentAt + 64 then s
    else
      let members := bySource (s.fabric.xacts.filter fun y => y.k.reqId = id || y.state = .joined id)
      let sum := match members with
        | m :: rest => rest.foldl (fun acc y => combineStep x.k.op.toNat (pktWidth x.k) acc y.k.arg0) m.k.arg0
        | [] => 0
      let ids := members.map fun m => (m.k.reqId, m.k.arg0)
      let s := ids.foldl (fun s i => s.updXact i.1 fun y => { y with state := .joined id }) s
      let k := { x.k with combined := true, arg0 := sum, srcUnit := BitVec.ofNat 16 (xUnit (engineOf x.k.addr.toNat) 0x31)
                          mv := members.any fun m => m.k.mv }
      let new := s.fabric.nextReq
      let s := s.newXact k [] (.combined ids) x.part
      let s := s.updFabric fun b => { b with combinedCnt := satAdd b.combinedCnt members.length }
      match s.xact? new with
      | some y => s.sendAttempt y 0 true
      | none => s

/-- The row REQUEST_SEND (12 R408). -/
def execRequestSend (reqId : BitVec 32) (s : State) : Host.Outcome State Fault Refusal := .next (s.requestSend reqId)

/-- The row COMBINE_WINDOW_CLOSE (12 R419). -/
def execCombineWindowClose (reqId : BitVec 32) (s : State) : Host.Outcome State Fault Refusal :=
  .next (s.closeWindow reqId)

/-! ## Timeouts, BUSY and probes (12 R404, R410, R414, R415, R422) -/

/-- The time that an attempt is given: a multicast copy's grows with the height of its subtree (12 R422). -/
def State.attemptTime (s : State) (x : Xact) : Nat :=
  s.fabric.timeout.toNat * (if x.k.op = 3 then 1 + x.k.height.toNat else 1)

/-- The transaction is a PROBE. -/
def Xact.isProbe (x : Xact) : Bool := match x.owner with
  | .probe _ => true
  | _ => false

/-- The four attempts of a transaction that is no multicast copy end 4 × FAB_XACT_TIMEOUT after its first send, also when
BUSY re-sends have delayed them (12 R413). An attempt sent later, after a pre-emption, has its own time (15 R510; log
entry 134). -/
def State.attemptsOver (s : State) (x : Xact) : Bool :=
  let bound := x.first + 4 * s.fabric.timeout.toNat
  x.k.op ≠ 3 && x.sentAt < bound && bound ≤ s.now

/-- ATTEMPT_TIMEOUT. -/
def State.attemptTimeout (s : State) (id : BitVec 32) : State :=
  match s.xact? id with
  | none => s
  | some x =>
    if x.state ≠ .sent ∨ x.isProbe ∨ !s.moves then s
    else if s.attemptsOver x then s.probe x
    else if s.now < x.sentAt + s.attemptTime x then s
    else if x.attempts < 4 then s.resend x
    else s.probe x

/-- BUSY_RESEND: 1,000 ticks after the BUSY reply; the re-sends stop when the time of four attempts has passed since the
first send. -/
def State.busyResend (s : State) (id : BitVec 32) : State :=
  match s.xact? id with
  | none => s
  | some x =>
    if x.state ≠ .busy ∨ !s.moves ∨ s.now < x.sentAt + 1000 then s
    else if x.first + 4 * s.attemptTime x ≤ s.now then s.probe x
    else s.sendAttempt x (x.attempts - 1) false

/-- The JOB_TEARDOWN of a job that meets an unreachable package (12 R400, R415). -/
def State.teardownPkt (s : State) (job : BitVec 32) (gone : PkgId) : Pkt :=
  { op := 0x21, dst := 0, src := s.self, srcUnit := BitVec.ofNat 16 serviceUnit, reqId := 0, job := job,
    arg0 := gone.setWidth 64, arg1 := BitVec.ofNat 64 (s.self.toNat + s.now % 2 ^ 48 * 2 ^ 16), origTime := s.season.k0
    locked := s.locked }

/-- JOB_TEARDOWN goes out on the ports that are UP, but for the one it came in on (12 R415). What it was issued with stays;
the package that sends it on is its source (log entry 44). -/
def State.sendTeardown (s : State) (k : Pkt) (but : Option Nat) : State :=
  let k := { k with epoch := s.fabric.epoch, src := s.self, srcUnit := BitVec.ofNat 16 serviceUnit }
  (((List.range 56).filter fun n => portRole n ≠ 2 && (s.port n).state = .up && some n ≠ but).foldl fun s n =>
    s.transmit 56 n (pktToFlit k) []) s

/-- JOB_ABORTED is posted to partitions of a job (12 R415, R431): REQ_ID and ORIG_TIME are the teardown's. -/
def State.abortJob (s : State) (k : Pkt) (but : Option Nat) : State :=
  s.raiseMany ((s.partsOfJob k.job).filter fun p => some p ≠ but) fun s =>
    { s.recordOpen 0x0507 serviceUnit 0 with
      d0 := k.reqId.setWidth 64, d1 := k.arg1 &&& 0x7FFF, d2 := k.arg0, d3 := k.origTime }

/-- PROBE_TIMEOUT: TARGET_DEAD, and the job teardown that follows it (12 R414, R415). -/
def State.probeTimeout (s : State) (id : BitVec 32) : State :=
  match s.xact? id with
  | none => s
  | some x =>
    match x.owner with
    | .probe orig =>
      if x.state ≠ .sent ∨ !s.moves ∨ s.now < x.sentAt + s.fabric.timeout.toNat then s
      else match s.xact? orig with
        | none => s.dropXact id
        | some y =>
          if y.undelivered then (s.dropXact id).dropXact orig
          else if s.unraised y then (s.dropXact id).failXact y 0x0503 y.lastStatus.toNat
          else
          let s := (s.dropXact id).failXact y 0x0503 y.lastStatus.toNat
          let k := s.teardownPkt y.k.job y.k.dst
          let s := s.updFabric fun b => { b with teardowns := (k.job, k.arg1) :: b.teardowns }
          (s.sendTeardown k none).abortJob k (some y.part)
    | _ => s

/-- The row ATTEMPT_TIMEOUT (12 R410). -/
def execAttemptTimeout (reqId : BitVec 32) (s : State) : Host.Outcome State Fault Refusal := .next (s.attemptTimeout reqId)

/-- The row BUSY_RESEND (12 R404). -/
def execBusyResend (reqId : BitVec 32) (s : State) : Host.Outcome State Fault Refusal := .next (s.busyResend reqId)

/-- The row PROBE_TIMEOUT (12 R414). -/
def execProbeTimeout (reqId : BitVec 32) (s : State) : Host.Outcome State Fault Refusal := .next (s.probeTimeout reqId)

/-! ## Replies -/

/-- A packet held in an input buffer, if a command names it and the package answers fabric transactions (01 R40). -/
def State.heldRx (s : State) (k : Pkt) (data : Bytes) : Option (Nat × Nat × Flit × Bytes) :=
  if s.operational then s.findRx k data else none

/-- The data of a READ are for a core window that is held: they wait (15 R508). -/
def State.landingHeld (s : State) (x : Xact) : Bool := match x.owner with
  | .entry p _ dst => x.k.op = 1 && dst < bufMark && s.isOwn dst && s.waitsFor p [(loc dst, x.k.length.toNat)]
  | _ => false

/-- The reply with this REQ_ID waits for a held core window. -/
def State.replyHeld (s : State) (id : BitVec 32) : Bool := match s.xact? id with
  | none => false
  | some x => (match x.owner with
    | .combined ids => (s.membersOf ids).any fun m => s.landingHeld m
    | _ => s.landingHeld x)

/-- A reply of one kind. -/
def State.takeReply (s : State) (op : Byte) (k : Pkt) (data : Bytes) : State :=
  if k.op ≠ op ∨ s.replyHeld k.reqId then s
  else match s.heldRx k data with
    | some e => (s.takeRx e).onReply k e.2.2.2
    | none => s

/-- The row READ_REPLY (12 R404). -/
def execReadReply (k : Pkt) (data : Bytes) (s : State) : Host.Outcome State Fault Refusal := .next (s.takeReply 0x80 k data)

/-- The row ACK (12 R404). -/
def execAck (k : Pkt) (s : State) : Host.Outcome State Fault Refusal := .next (s.takeReply 0x81 k [])

/-- The row ATOMIC_REPLY (12 R404). -/
def execAtomicReply (k : Pkt) (s : State) : Host.Outcome State Fault Refusal := .next (s.takeReply 0x82 k [])

/-! ## Routing epochs (12 R426) -/

/-- The slot of the current epoch. -/
def State.currentSlot (s : State) : Nat :=
  if (Tab.get RouteTable.invalid s.fabric.tables 0).valid ∧
      (Tab.get RouteTable.invalid s.fabric.tables 0).epoch = s.fabric.epoch then 0 else 1

/-- ROUTE_EPOCH_SWITCH: at FAB_EPOCH_AT, CURRENT takes the epoch of the other slot. -/
def State.switchEpoch (s : State) : State :=
  let at_ := s.fabric.epochAt.toNat
  if at_ = 0 ∨ s.fabric.epochAt = s.fabric.epochDone ∨ s.now < at_ ∨ s.fabric.retiring.isSome ∨ !s.moves then s
  else
    let old := s.currentSlot
    let new := Tab.get RouteTable.invalid s.fabric.tables (1 - old)
    s.updFabric fun b => { b with
      epoch := new.epoch, epochDone := b.epochAt, retiring := some (old, at_ + 2 * b.maxTransit.toNat) }

/-- ROUTE_EPOCH_RETIRE: the slot that was left is no longer valid. -/
def State.retireEpoch (s : State) : State :=
  match s.fabric.retiring with
  | none => s
  | some (j, at_) =>
    if s.now < at_ ∨ !s.moves then s
    else s.updFabric fun b => { b with
      retiring := none
      tables := Tab.put b.tables j { Tab.get RouteTable.invalid b.tables j with valid := false } }

/-- The row ROUTE_EPOCH_SWITCH (12 R426). -/
def execRouteEpochSwitch (s : State) : Host.Outcome State Fault Refusal := .next s.switchEpoch

/-- The row ROUTE_EPOCH_RETIRE (12 R426). -/
def execRouteEpochRetire (s : State) : Host.Outcome State Fault Refusal := .next s.retireEpoch

end Sys2Proof.Machine
end

