-- ==== Sys2Proof/Machine/Collectives.lean ====
section
/-! DEFINITION. Collectives (13): descriptors and arming, the two trees, partials and results, staging, commit, aborts. -/

namespace Sys2Proof.Machine

open Sys2Proof

/-! ## Formats and partials (13 R438, R446, R449 to R451) -/

/-- The format of a floating-point FMT. -/
def collFmt (fmt : Nat) : FFmt := match fmt with
  | 0 => fp32
  | 1 => bf16
  | 2 => fp16
  | 5 => e4m3
  | _ => e5m2

/-- FMT is a floating-point format. -/
def Coll.float (c : Coll) : Bool := c.fmt ≠ 3 && c.fmt ≠ 4

/-- Partials travel in limb form. -/
def Coll.limbs (c : Coll) : Bool := c.calm && c.float && c.op = 0

/-- Elements of a chunk, and the number of chunks. -/
def Coll.ec (c : Coll) : Nat := if c.limbs || c.fmt = 4 then 64 else 128
def Coll.chunks (c : Coll) : Nat := cdiv c.count c.ec

/-- The chunks that a tree carries: Northwind the first half. -/
def Coll.treeChunks (c : Coll) (tree : Nat) : List Nat :=
  let half := cdiv c.chunks 2
  if tree = 0 then List.range half else (List.range (c.chunks - half)).map (half + ·)

/-- Elements of a chunk, its offset in the data, and its bytes in FMT. -/
def Coll.chunkLen (c : Coll) (ch : Nat) : Nat := min c.ec (c.count - ch * c.ec)
def Coll.chunkOff (c : Coll) (ch : Nat) : Nat := ch * c.ec * collSize c.fmt
def Coll.chunkBytes (c : Coll) (ch : Nat) : Nat := c.chunkLen ch * collSize c.fmt

/-- The tree's up path, or its down path, carries data (13 R452). -/
def Coll.carries (c : Coll) (tree : Nat) (down : Bool) : Bool :=
  (c.kind = 0 || c.kind = (if down then 2 else 1)) && !(c.treeChunks tree).isEmpty

/-- What a path carries, by chunk number; the one EMPTY packet of a path without data has number 0. -/
def Coll.items (c : Coll) (tree : Nat) (down : Bool) : List Nat := if c.carries tree down then c.treeChunks tree else [0]

/-- An element of a partial: its bits, or in limb form its exact sum in units of 2^−149 and its code. -/
abbrev CollElem := Int × Nat

/-- A contribution in partial form. -/
def Coll.contribute (c : Coll) (bits : Nat) : CollElem :=
  if c.limbs then match (collFmt c.fmt).decode bits with
    | .fin n m e => (scaled n m e (-149), 0)
    | .inf n => (0, if n then 2 else 1)
    | .nan => (0, 3)
  else if c.float then (((fp32.convert ((collFmt c.fmt).decode bits)).1 : Nat), 0)
  else ((bits : Nat), 0)

/-- Two partials combined. -/
def Coll.combine (c : Coll) (a b : CollElem) : CollElem :=
  if c.limbs then (a.1 + b.1, a.2 ||| b.2)
  else ((reduceElem c.op (if c.float then 0 else c.fmt) a.1.toNat b.1.toNat : Nat), 0)

/-- A result in FMT. -/
def Coll.result (c : Coll) (a : CollElem) : Nat :=
  let f := collFmt c.fmt
  if c.limbs then match a.2 with
    | 0 => (f.convert (.fin (a.1 < 0) a.1.natAbs (-149))).1
    | 1 => (f.convert (.inf false)).1
    | 2 => (f.convert (.inf true)).1
    | _ => (f.convert .nan).1
  else if c.float then (f.convert (fp32.decode a.1.toNat)).1
  else a.1.toNat

/-- Limb `k` of an accumulator of 320 bits. -/
def limbOf (v : Int) (k : Nat) : Nat := (v.emod (2 ^ 320)).toNat / 2 ^ (32 * k) % 2 ^ 32

/-- Every limb above `k` is the sign extension of limb `k`. -/
def limbsFit (v : Int) (k : Nat) : Bool := signed (32 * (k + 1)) (v.emod (2 ^ 320)).toNat = v

/-- LIMB_BASE and LIMB_COUNT of a chunk (13 R451); a chunk of zeros takes limb 0 (log entry 29). -/
def limbWindow (l : List CollElem) : Nat × Nat :=
  let b := ((List.range 10).find? fun k => l.any fun e => limbOf e.1 k ≠ 0).getD 0
  let t := ((List.range 10).find? fun k => b ≤ k && l.all fun e => limbsFit e.1 k).getD 9
  (b, t + 1 - b)

/-- The limb form of a chunk: SPECIAL, LIMB_BASE, LIMB_COUNT and the bytes. Elements that a short chunk lacks are zero. -/
def limbForm (l : List CollElem) : Bool × Nat × Nat × Bytes :=
  let l := l ++ List.replicate (64 - l.length) (0, 0)
  let (b, m) := limbWindow l
  let sp := l.any fun e => e.2 ≠ 0
  let codes := ((List.range 64).map fun i => (l.getD i (0, 0)).2 * 4 ^ i).sum
  (sp, b, m, ((List.range m).flatMap fun j => l.flatMap fun e => leBytes 4 (limbOf e.1 (b + j))) ++
    (if sp then leBytes 16 codes else []))

/-- The elements of a limb form. -/
def limbElems (sp : Bool) (b m : Nat) (bs : Bytes) : List CollElem :=
  let codes := if sp then field bs (256 * m) 16 else 0
  (List.range 64).map fun i =>
    let v := ((List.range m).map fun j => field bs ((j * 64 + i) * 4) 4 * 2 ^ (32 * j)).sum
    (signed (32 * m) v * 2 ^ (32 * b), codes / 4 ^ i % 4)

/-- Bytes of an element of a partial that is not in limb form. -/
def Coll.partSize (c : Coll) : Nat := if c.float then 4 else collSize c.fmt

/-! ## The parts received (13 R445, R447, R448) -/

/-- Chunk and part of a tree packet (13 R447). -/
def treeChunk (k : TreePkt) : Nat := k.addr.toNat / 512
def treePart (k : TreePkt) : Nat := (k.addr.toNat / 64 + 8 - treeChunk k % 8) % 8

/-- The X-die that handles a tree packet. -/
def treeDie (k : TreePkt) : Nat := treeChunk k % 4

/-- The parts of a chunk from an input. -/
def Coll.partsOf (c : Coll) (tree ch input : Nat) : List CollPart :=
  c.got.filter fun x => x.tree = tree && x.chunk = ch && x.input = input

/-- The bytes of a chunk from an input, once every part is there, with the header of a part. -/
def Coll.whole (c : Coll) (tree ch input : Nat) : Option (TreePkt × Bytes) :=
  let ps := c.partsOf tree ch input
  match ps with
  | [] => none
  | x :: _ =>
    let n := if x.k.empty || !c.limbs || input > 1 then 1
      else max 1 (cdiv (256 * x.k.limbCount.toNat + 16 * x.k.special.toNat) 512)
    let l := (List.range n).map fun i => ps.find? fun y => y.part = i
    if l.all (·.isSome) then some (x.k, (l.filterMap id).flatMap (·.data)) else none

/-- The partial that a child sent. -/
def Coll.childElems (c : Coll) (k : TreePkt) (bs : Bytes) : List CollElem :=
  if c.limbs then limbElems k.special k.limbBase.toNat k.limbCount.toNat bs
  else (List.range (bs.length / c.partSize)).map fun i => ((field bs (i * c.partSize) c.partSize : Nat), 0)

/-- A part's buffer is still in use: its chunk has not been combined or passed on. -/
def Coll.holds (c : Coll) (x : CollPart) : Bool :=
  let key := (x.tree, x.chunk)
  match x.input with
  | 0 => !c.upDone.contains key
  | 1 => !c.upDone.contains key
  | 2 => !c.downDone.contains key
  | _ => if c.kind = 1 then !c.rootDone.contains key else !c.downDone.contains key

/-- The member from which COLL_ROOT packets of a tree come to this one (13 R452). -/
def Coll.rootFrom (c : Coll) (n tree : Nat) : Option Nat :=
  let r := treeRoot tree n
  if c.kind = 1 ∧ c.self = c.root ∧ r ≠ c.self then some r
  else if c.kind = 2 ∧ c.self = r ∧ c.root ≠ c.self then some c.root
  else none

/-- The input of a member that the group entry names for a packet's tree: a child for COLL_UP, the parent for COLL_DOWN. -/
def Group.inputOf (g : Group) (k : TreePkt) : Option Nat :=
  let (p, l, r) := g.nbrs k.tree.toNat
  let who := g.members.idxOf? k.src
  if who = none then none
  else if k.op = 0x40 then (if l = who then some 0 else if r = who then some 1 else none)
  else if k.op = 0x41 then (if p = who then some 2 else none)
  else none

/-- The input of a packet of an armed collective. -/
def Coll.inputOf (c : Coll) (g : Group) (k : TreePkt) : Option Nat :=
  if k.op = 0x42 then
    (if (c.rootFrom g.members.length k.tree.toNat).isSome ∧
        c.rootFrom g.members.length k.tree.toNat = g.members.idxOf? k.src then some 3 else none)
  else g.inputOf k

/-- The inputs that arming reserves buffers for (13 R444): a ROOT link where it receives. -/
def Coll.inputs (c : Coll) (g : Group) : Nat :=
  ([0, 1].map fun t =>
    let (p, l, r) := g.nbrs t
    p.isSome.toNat + l.isSome.toNat + r.isSome.toNat + (c.rootFrom g.members.length t).isSome.toNat).sum

/-! ## Records (13 R457) -/

/-- Unit 0x40 of an X-die. -/
def collUnit (x : Nat) : Nat := xUnit x 0x40

def State.collRecord (s : State) (code x : Nat) (desc : Nat) (group : BitVec 12) (kind who : Nat) (equinox : Word)
    (w3 : Nat) : FaultRec :=
  s.record code (collUnit x) (BitVec.ofNat 64 desc) desc
    (group.toNat + kind * 2 ^ 12 + who % 2 ^ 15 * 2 ^ 16) equinox.toNat w3

/-- A fault of an armed collective. -/
def State.raiseColl (s : State) (c : Coll) (code x who w3 : Nat) : State :=
  s.raise c.part (s.collRecord code x c.desc c.group c.kind who c.equinox w3)

/-- A memory error that a reduction unit meets. -/
def State.collMem (s : State) (c : Coll) (x : Nat) (e : MemErr) : State :=
  s.raiseMem c.part e (collUnit x) (s.global e.at_) 4

/-! ## Sending (13 R446, R447) -/

/-- A tree packet of a collective. -/
def collPkt (c : Coll) (dst : PkgId) (op : Byte) (tree ch part : Nat) : TreePkt :=
  { op := op, dst := dst, src := 0, srcUnit := BitVec.ofNat 16 (collUnit (ch % 4)), reqId := 0, job := 0,
    addr := BitVec.ofNat 48 (ch * 512 + (ch + part) % 8 * 64), digest := c.digest, equinox := c.equinox,
    group := c.group, tree := BitVec.ofNat 1 tree }

/-- An EMPTY packet goes to a member. -/
def State.sendEmpty (s : State) (c : Coll) (dst : PkgId) (op : Byte) (tree : Nat) : State :=
  s.newTree { collPkt c dst op tree 0 0 with empty := true } [] (.coll c.group c.equinox) c.part

/-- A chunk of data goes to a member, in parts of 512 bytes. -/
def State.sendChunk (s : State) (c : Coll) (dst : PkgId) (op : Byte) (tree ch : Nat) (sp : Bool) (b m : Nat)
    (bs : Bytes) : State :=
  (List.range (max 1 (cdiv bs.length 512))).foldl (fun s i =>
    let d := (bs.drop (512 * i)).take 512
    s.newTree { collPkt c dst op tree ch i with
        length := BitVec.ofNat 10 d.length, special := sp, limbBase := BitVec.ofNat 4 b, limbCount := BitVec.ofNat 4 m }
      d (.coll c.group c.equinox) c.part) s

/-- A partial goes to the parent. -/
def State.sendPartial (s : State) (c : Coll) (dst : PkgId) (tree ch : Nat) (l : List CollElem) : State :=
  if c.limbs then
    let (sp, b, m, bs) := limbForm l
    s.sendChunk c dst 0x40 tree ch sp b m bs
  else s.sendChunk c dst 0x40 tree ch false 0 0 (l.flatMap fun e => leBytes c.partSize e.1.toNat)

/-! ## The trees at work (13 R449, R452, R453) -/

/-- The armed collective of a key, and a change to it. -/
def State.coll? (s : State) (group : BitVec 12) (equinox : Word) : Option Coll :=
  s.colls.find? fun c => c.group = group && c.equinox = equinox && s.moves

def State.updColl (s : State) (c : Coll) (f : Coll → Coll) : State :=
  { s with colls := s.colls.map fun x => if x.group = c.group ∧ x.equinox = c.equinox then f x else x }

/-- SRC of a chunk, read by its X-die. -/
def State.readChunk (s : State) (c : Coll) (ch : Nat) : Except MemErr Bytes × State :=
  s.peek c.part (c.src + c.chunkOff ch) (c.chunkBytes ch)

/-- A result chunk is staged at its offset. -/
def State.stageChunk (s : State) (c : Coll) (ch : Nat) (bs : Bytes) : Except MemErr Unit × State :=
  s.writeMem (s.partition c.part).job (c.stage + c.chunkOff ch) (bs.take (c.chunkBytes ch))

/-- A chunk, or an EMPTY packet, passes down a tree at this member (13 R453): staged, and sent to the children. -/
def State.passDown (s : State) (c : Coll) (g : Group) (tree ch : Nat) (data : Option Bytes) : State :=
  let kids := [(g.nbrs tree).2.1, (g.nbrs tree).2.2].filterMap id
  let send (s : State) : State :=
    kids.foldl (fun s i => match data with
      | some bs => s.sendChunk c (g.members.getD i 0) 0x41 tree ch false 0 0 bs
      | none => s.sendEmpty c (g.members.getD i 0) 0x41 tree) s
  let mark (s : State) : State := s.updColl c fun c => { c with downDone := (tree, ch) :: c.downDone }
  match data with
  | some bs =>
    if c.hasDst then
      match s.stageChunk c ch bs with
      | (.error e, s) => s.collMem c (ch % 4) e
      | (.ok _, s) => send (mark s)
    else send (mark s)
  | none => send (mark s)

/-- ROOT of a REDUCE stages a chunk that a tree root formed. -/
def State.stageRoot (s : State) (c : Coll) (tree ch : Nat) (bs : Bytes) : State :=
  match s.stageChunk c ch bs with
  | (.error e, s) => s.collMem c (ch % 4) e
  | (.ok _, s) => s.updColl c fun c => { c with rootDone := (tree, ch) :: c.rootDone }

/-- The children's partials of a chunk are there. -/
def Coll.upReady (c : Coll) (g : Group) (tree ch : Nat) : Bool :=
  ((g.nbrs tree).2.1.isNone || (c.whole tree ch 0).isSome) && ((g.nbrs tree).2.2.isNone || (c.whole tree ch 1).isSome)

/-- A member's partial of a chunk: its own contribution between its left and its right child's (13 R449). -/
def Coll.partialOf (c : Coll) (tree ch : Nat) (src : Bytes) : List CollElem :=
  let w := collSize c.fmt
  let own := (List.range (c.chunkLen ch)).map fun i => c.contribute (field src (i * w) w)
  let v := match c.whole tree ch 0 with
    | some (k, bs) => List.zipWith c.combine (c.childElems k bs) own
    | none => own
  match c.whole tree ch 1 with
  | some (k, bs) => List.zipWith c.combine v (c.childElems k bs)
  | none => v

/-- A chunk goes up, or, at the tree root, becomes a result. -/
def State.passUp (s : State) (c : Coll) (g : Group) (tree ch : Nat) : State :=
  let mark (s : State) : State := s.updColl c fun c => { c with upDone := (tree, ch) :: c.upDone }
  let parent := (g.nbrs tree).1
  if !c.carries tree false then
    match parent with
    | some i => (mark s).sendEmpty c (g.members.getD i 0) 0x40 tree
    | none => mark s
  else match s.readChunk c ch with
    | (.error e, s) => s.collMem c (ch % 4) e
    | (.ok src, s) =>
      let v := c.partialOf tree ch src
      let s := mark s
      match parent with
      | some i => s.sendPartial c (g.members.getD i 0) tree ch v
      | none =>
        let bs := v.flatMap fun e => leBytes (collSize c.fmt) (c.result e)
        if c.kind = 0 then s.passDown c g tree ch (some bs)
        else if c.self = c.root then s.stageRoot c tree ch bs
        else s.sendChunk c (g.members.getD c.root 0) 0x42 tree ch false 0 0 bs

/-- The up phase of a tree has ended at this member. -/
def Coll.upEnded (c : Coll) (tree : Nat) : Bool := (c.items tree false).all fun ch => c.upDone.contains (tree, ch)

/-- What may pass down now for a chunk: the parent's packet; at the tree root, after the up phase, an EMPTY packet or a
chunk of ROOT (13 R452). -/
def State.downSource (s : State) (c : Coll) (g : Group) (tree ch : Nat) : Option (Option Bytes) × State :=
  if (g.nbrs tree).1.isSome then
    match c.whole tree ch 2 with
    | some (k, bs) => (some (if k.empty then none else some bs), s)
    | none => (none, s)
  else if !c.upEnded tree then (none, s)
  else if !c.carries tree true then (some none, s)
  else if c.kind ≠ 2 then (none, s)
  else if c.self = c.root then
    match s.readChunk c ch with
    | (.error e, s) => (none, s.collMem c (ch % 4) e)
    | (.ok bs, s) => (some (some bs), s)
  else match c.whole tree ch 3 with
    | some (_, bs) => (some (some bs), s)
    | none => (none, s)

/-- A chunk's place in SRC or STAGE lies in a core window that is held (15 R508). -/
def State.chunkWaits (s : State) (c : Coll) (ch : Nat) : Bool :=
  s.waitsFor c.part [(if c.hasSrc then c.src + c.chunkOff ch else 0, c.chunkBytes ch),
    (if c.hasDst then c.stage + c.chunkOff ch else 0, c.chunkBytes ch)]

/-- The X-die of a chunk has started the collective, on its own copy (02 R43, R61), and the chunk's memory is at hand. -/
def State.chunkMoves (s : State) (c : Coll) (ch : Nat) : Bool := c.started.contains (ch % 4) && !s.chunkWaits c ch

/-- One thing that a started collective can do now at this member. -/
def State.collAct (s : State) (c : Coll) (g : Group) : Option State :=
  let up := ([0, 1].flatMap fun t => (c.items t false).map fun ch => (t, ch)).find? fun e =>
    s.chunkMoves c e.2 && !c.upDone.contains e && c.upReady g e.1 e.2
  match up with
  | some (t, ch) => some (s.passUp c g t ch)
  | none =>
    let roots := c.got.find? fun x => x.input = 3 && c.kind = 1 && !c.rootDone.contains (x.tree, x.chunk) &&
      s.chunkMoves c x.chunk
    match roots with
    | some x => some (s.stageRoot c x.tree x.chunk x.data)
    | none =>
      ([0, 1].flatMap fun t => (c.items t true).map fun ch => (t, ch)).findSome? fun e =>
        if c.downDone.contains e ∨ !s.chunkMoves c e.2 then none
        else match s.downSource c g e.1 e.2 with
          | (some d, s) => some (s.passDown c g e.1 e.2 d)
          | (none, s') => if s'.coll? c.group c.equinox = none then some s' else none

/-- The collective of a key goes on as far as it can. -/
def State.collRun (s : State) (group : BitVec 12) (equinox : Word) : Nat → State
  | 0 => s
  | n + 1 =>
    match s.coll? group equinox, Tab.get? s.groups group.toNat with
    | some c, some g =>
      if c.complete then s
      else match s.collAct c g with
        | some s => s.collRun group equinox n
        | none => s
    | _, _ => s

/-- Enough for every chunk to pass once on each path. -/
def Coll.fuel (c : Coll) : Nat := 4 * c.chunks + 16

/-! ## Arrivals (13 R445, R448, R455, R456) -/

/-- The header of an answer to a tree packet. -/
def treeAsPkt (k : TreePkt) : Pkt :=
  { op := k.op, retry := k.retry, dst := k.dst, src := k.src, srcUnit := k.srcUnit, reqId := k.reqId, job := k.job,
    part := k.part, addr := k.addr }

/-- The answer to a tree packet. -/
def State.replyTree (s : State) (k : TreePkt) (status : Nat) : State :=
  let s := if status = 6 then s.updXdie (treeDie k) fun d => { d with collBusy := satAdd d.collBusy 1 } else s
  s.reply (treeAsPkt k) 0x81 status 0 []

/-- The arrival bit of a packet is set. -/
def Coll.arrived (c : Coll) (k : TreePkt) (input : Nat) : Bool :=
  c.got.any fun x => x.tree = k.tree.toNat && x.chunk = treeChunk k && x.part = treePart k && x.input = input

/-- A packet of an armed collective: `none` when the buffers of its input are full, else whether it is accepted into
them; a digest that differs raises COLL_MISMATCH. -/
def State.collAccept (s : State) (c : Coll) (input : Nat) (k : TreePkt) (data : Bytes) : Option State :=
  if c.arrived k input ∨ c.complete then some s
  else if k.digest ≠ c.digest then some (s.raiseColl c 0x0601 (treeDie k) k.src.toNat k.digest.toNat)
  else if (c.got.countP fun x => x.input = input && x.tree = k.tree.toNat && x.chunk % 4 = treeDie k && c.holds x) ≥ 8 then
    none
  else
    let part : CollPart := ⟨k.tree.toNat, treeChunk k, treePart k, input, k, data⟩
    some ((s.updColl c fun c => { c with got := c.got ++ [part] }).collRun c.group c.equinox c.fuel)

/-- An abort for an armed collective (13 R456): the first is forwarded, and faults it unless it has completed. Its digest is
compared as that of every tree packet (13 R455), and one that differs is forwarded too; the fault is detected by the X-die
that its ADDR selects. -/
def State.collAborted (s : State) (c : Coll) (k : TreePkt) : State :=
  if c.aborted then s
  else if !c.complete ∧ k.digest ≠ c.digest then
    (s.updColl c fun c => { c with abort := some (k.abortCode.toNat, k.origin, k.src) }).raiseColl c 0x0601 (treeDie k)
      k.src.toNat k.digest.toNat
  else if c.complete then
    (s.sendCollAborts c k.abortCode.toNat k.origin (some k.src)).updColl c fun c => { c with aborted := true }
  else
    let s := s.updColl c fun c => { c with abort := some (k.abortCode.toNat, k.origin, k.src) }
    if k.abortCode = 0x0601 then s.raiseColl c 0x0601 (treeDie k) k.origin.toNat k.digest.toNat
    else s.raiseColl c 0x0603 (treeDie k) k.origin.toNat k.abortCode.toNat

/-- The early store of an X-die takes a packet. -/
def State.storeEarlyTree (s : State) (k : TreePkt) (data : Bytes) : State :=
  s.updXdie (treeDie k) fun d => { d with
    collEarly := d.collEarly ++ [(k, data)], collEarlyHigh := max d.collEarlyHigh (d.collEarly.length + 1) }

/-- Two packets have the same arrival bit. -/
def sameTree (a b : TreePkt) : Bool :=
  a.op = b.op && a.src = b.src && a.tree = b.tree && a.addr = b.addr && a.group = b.group && a.equinox = b.equinox

/-- The key of a packet is armed: it goes to its input. The digest of a packet from the early store that comes from no input
of the collective is compared too (13 R455). -/
def State.applyTree (s : State) (c : Coll) (g : Group) (k : TreePkt) (data : Bytes) : Option State :=
  if k.op = 0x43 then some (s.collAborted c k)
  else match c.inputOf g k with
    | some i => s.collAccept c i k data
    | none =>
      some (if c.complete ∨ k.digest = c.digest then s
        else s.raiseColl c 0x0601 (treeDie k) k.src.toNat k.digest.toNat)

/-- Packets of the early stores that belong to a key go to its buffers as these have room. -/
def State.drainEarly (s : State) (group : BitVec 12) (equinox : Word) : Nat → State
  | 0 => s
  | n + 1 =>
    match s.coll? group equinox, Tab.get? s.groups group.toNat with
    | some c, some g =>
      let next := [0, 1, 2, 3].findSome? fun x => ((s.xdie x).collEarly.filter fun e =>
        e.1.group = group && e.1.equinox = equinox).findSome? fun e =>
          (s.updXdie x fun d => { d with collEarly := d.collEarly.erase e }).applyTree c g e.1 e.2
      match next with
      | some s => s.drainEarly group equinox n
      | none => s
    | _, _ => s

/-- A packet for a key that is not armed: a copy of one that an ended collective took is discarded; the first abort of
an ended collective is forwarded; the rest waits in the early store, or is answered BUSY. -/
def State.treeUnarmed (s : State) (k : TreePkt) (data : Bytes) : State :=
  match s.collPast.find? fun c => c.group = k.group && c.equinox = k.equinox with
  | some c =>
    if k.op = 0x43 then
      let s := if c.aborted then s else s.sendCollAborts c k.abortCode.toNat k.origin (some k.src)
      ({ s with collPast := s.collPast.map fun x => if x = c then { x with aborted := true } else x }).replyTree k 0
    else s.replyTree k 0
  | none =>
    let d := s.xdie (treeDie k)
    if d.collEarly.any fun e => sameTree e.1 k then s.replyTree k 0
    else if d.collEarly.length ≥ 1024 then s.replyTree k 6
    else (s.storeEarlyTree k data).replyTree k 0

/-- A member may be the peer of this one's ROOT link of a tree in some collective: one of the two is the tree root. -/
def Group.mayRoot (g : Group) (src : PkgId) (t : Nat) : Bool :=
  let root := treeRoot t g.members.length
  match g.members.idxOf? src with
  | some i => i ≠ g.self && (i = root || g.self = root)
  | none => false

/-- A sender whose aborts of a collective come here over a tree: a peer of R456. -/
def Group.mayAbort (g : Group) (kind root : Nat) (src : PkgId) (tree : Nat) : Bool :=
  (g.abortPeers kind root).any fun e => e.1 = tree && g.members[e.2]? = some src

/-- The sender may send this packet to this member (13 R448). -/
def State.treeAllowed (s : State) (k : TreePkt) : Bool :=
  match Tab.get? s.groups k.group.toNat with
  | none => false
  | some g =>
    g.job = k.job &&
    match s.coll? k.group k.equinox with
    | some c => if k.op = 0x43 then g.mayAbort c.kind c.root k.src k.tree.toNat else (c.inputOf g k).isSome
    | none =>
      if k.op = 0x43 then g.mayAbort 0 0 k.src k.tree.toNat || g.mayRoot k.src k.tree.toNat
      else if k.op = 0x42 then g.mayRoot k.src k.tree.toNat
      else (g.inputOf k).isSome

/-- A tree packet is received (13 R448). -/
def State.onTree (s : State) (k : TreePkt) (data : Bytes) : State :=
  if !s.treeAllowed k then s.replyTree k 4
  else match s.coll? k.group k.equinox, Tab.get? s.groups k.group.toNat with
    | some c, some g =>
      match s.applyTree c g k data with
      | some s => (s.replyTree k 0).drainEarly k.group k.equinox 4096
      | none => s.replyTree k 6
    | _, _ => s.treeUnarmed k data

/-- A tree packet that a command names leaves its buffer and is served. -/
def State.takeTree (s : State) (op : Byte) (k : TreePkt) (data : Bytes) : State :=
  if k.op ≠ op ∨ !s.operational then s
  else match s.findRxTree k data with
    | some e => (s.takeRx e).onTree k (e.2.2.2.take k.length.toNat)
    | none => s

/-- The row COLL_UP (13 R449). -/
def execCollUp (k : TreePkt) (data : Bytes) (s : State) : Host.Outcome State Fault Refusal := .next (s.takeTree 0x40 k data)

/-- The row COLL_DOWN (13 R453). -/
def execCollDown (k : TreePkt) (data : Bytes) (s : State) : Host.Outcome State Fault Refusal := .next (s.takeTree 0x41 k data)

/-- The row COLL_ROOT (13 R452). -/
def execCollRoot (k : TreePkt) (data : Bytes) (s : State) : Host.Outcome State Fault Refusal := .next (s.takeTree 0x42 k data)

/-- The row COLL_ABORT (13 R456). -/
def execCollAbort (k : TreePkt) (s : State) : Host.Outcome State Fault Refusal := .next (s.takeTree 0x43 k [])

/-! ## Arming and starting (13 R438 to R445, 02 R61 to R63) -/

/-- The collective that a descriptor describes, in the partition's group (13 R438, R441). -/
def State.collOf (s : State) (p pos : Nat) (desc : Nat) (bs : Bytes) (equinox : Word) (deadline : Nat) (mv : Bool)
    (g : Group) : Coll :=
  let x := s.partition p
  { part := p, pos := pos, desc := desc, group := BitVec.ofNat 12 (field bs 4 2), equinox := equinox, deadline := deadline,
    kind := field bs 0 1, op := field bs 1 1, fmt := field bs 2 1, sem := BitVec.ofNat 8 (field bs 3 1),
    root := field bs 6 2, self := g.self, count := field bs 8 8, src := fld (field bs 16 8) 47 0,
    dst := fld (field bs 24 8) 47 0, stage := fld (field bs 32 8) 47 0, calm := x.calm,
    digest := crc64 (bs.take 3 ++ [BitVec.ofNat 8 x.calm.toNat] ++ (bs.drop 4).take 4 ++ (bs.drop 8).take 5 ++
      leBytes 8 deadline ++ leBytes 8 g.listDigest.toNat)
    late := s.xLate equinox.toNat, mv := mv, started := [], got := [], upDone := [], downDone := [], rootDone := [],
    complete := false, doneAt := 0, buffers := 0, abort := none, aborted := false }

/-- A range of local addresses lies in HBM, in the last-level memory scratchpad window or in the core windows (01 R25).
What of it is unmapped is met when it is accessed (10 R332). -/
def inMemory (a n : Nat) : Bool :=
  a + n ≤ 512 * regionUnit || (llmBase ≤ a && a + n ≤ llmBase + 8 * 0x6000000) ||
    (coreBase ≤ a && a + n ≤ coreBase + 4608 * 0x200000)

/-- An address of a descriptor: used and in range, or unused and 0 (13 R439). -/
def State.collAddrOk (s : State) (used : Bool) (a n : Nat) : Bool :=
  if used then
    let w : Word := BitVec.ofNat 64 a
    canonical w && gPkg w = s.self && a % 64 = 0 && n ≤ 2 ^ 34 && inMemory (gLocal w) n
  else a = 0

/-- The descriptor is one that R442 refuses, a group of another job apart. -/
def State.collBad (s : State) (bs : Bytes) (c : Coll) (g : Group) : Bool :=
  let n := roundUp c.bytes 64
  let a (off : Nat) : Nat := field bs off 8
  let meet (x y : Nat) : Bool := x < y + n && y < x + n
  c.kind > 3 || c.op > 5 || c.fmt > 6 || c.sem.getLsbD 6 || field bs 4 2 ≥ 4096 || c.count ≥ 2 ^ 40 ||
  !allZero (bs.drop 40) || g.job ≠ (s.partition c.part).job || c.equinox = 0 ||
  (if c.kind = 1 ∨ c.kind = 2 then decide (c.root ≥ g.members.length) else c.root ≠ 0) ||
  (if c.kind = 3 then c.count ≠ 0 || c.op ≠ 0 || c.fmt ≠ 0 else decide (c.count = 0)) ||
  (c.kind = 2 && c.op ≠ 0) || (c.op ≥ 3 && c.float) ||
  !s.collAddrOk c.hasSrc (a 16) n || !s.collAddrOk c.hasDst (a 24) n ||
  !s.collAddrOk c.hasDst (a 32) n ||
  (c.hasDst && (meet c.stage c.dst || (c.hasSrc && meet c.stage c.src)))

/-- A collective is armed on the four X-dies, or faults before any effect, and is counted as faulted (13 R442, R444, R460, 02
R63). Of a descriptor that cannot be read the group is not known: it is free in MON_COLL_LAST_FAULT (log entry 2). -/
def State.armColl (s : State) (p pos desc : Nat) (equinox : Word) (deadline : Nat) (mv : Bool) (window : Nat) : State :=
  match s.peek p (fld desc 47 0) 64 with
  | (.error e, s) =>
    let (n, s) := s.draw
    (s.noteCollFault (BitVec.ofNat 12 n) e.code).raiseMem p e (collUnit 0) (BitVec.ofNat 64 desc) 4
  | (.ok bs, s) =>
    let group : BitVec 12 := BitVec.ofNat 12 (field bs 4 2)
    let fail (x : Nat) (s : State) (code w3 : Nat) : State :=
      s.raise p (s.collRecord code x desc group (field bs 0 1 % 16) 0 equinox w3)
    let bad : State := [0, 1, 2, 3].foldl (fun s x => fail x s 0x0604 0) (s.noteCollFault group 0x0604)
    match Tab.get? s.groups group.toNat with
    | none => bad
    | some g =>
      let c := s.collOf p pos desc bs equinox deadline mv g
      let used := s.colls.countP fun x => x.group = group
      if s.collBad bs c g then bad
      else if (s.coll? group equinox).isSome then fail 0 (s.noteCollFault group 0x0605) 0x0605 0
      else if used ≥ 4 ∨ s.chunkFree < 8 * c.inputs g then
        fail 0 (s.noteCollFault group 0x0602) 0x0602 (used + s.chunkFree * 65536)
      else match (if c.calm then s.lateDie equinox.toNat window else none) with
      | some x => (s.noteCollFault group 0x0802).raise p (s.lateRecord (collUnit x) (s.xNow x) equinox.toNat)
      | none =>
        let past := s.collPast.filter fun x => x.group ≠ group ∨ x.equinox ≠ equinox
        let s := { s with colls := s.colls ++ [{ c with buffers := 8 * c.inputs g }], collPast := past }
        s.drainEarly group equinox 4096

/-- X-dies at ROOT of a BROADCAST send each tree root their chunks (13 R452). -/
def State.sendRoots (s : State) (c : Coll) (g : Group) (dies : List Nat) : State :=
  ([0, 1].flatMap fun t => ((c.treeChunks t).filter fun ch => dies.contains (ch % 4)).map fun ch => (t, ch)).foldl (fun s e =>
    let r := treeRoot e.1 g.members.length
    if r = c.self ∨ (s.coll? c.group c.equinox).isNone then s
    else match s.readChunk c e.2 with
      | (.error err, s) => s.collMem c (e.2 % 4) err
      | (.ok bs, s) => s.sendChunk c (g.members.getD r 0) 0x42 e.1 e.2 false 0 0 bs) s

/-- A collective starts at each X-die whose own copy has reached its EQUINOX (02 R43, R61), and goes on with what waited for
a held core window (15 R508). -/
def State.startColl (s : State) (group : BitVec 12) (equinox : Word) : State :=
  match s.coll? group equinox, Tab.get? s.groups group.toNat with
  | some c, some g =>
    let root : Bool := c.kind = 2 && c.self = c.root
    let dies := [0, 1, 2, 3].filter fun x => !c.started.contains x && equinox.toNat ≤ s.xNow x &&
      !(root && s.waitsFor c.part [(c.src, c.bytes)])
    if dies.isEmpty then s.collRun group equinox c.fuel
    else
      let c := { c with started := c.started ++ dies }
      let s := s.updColl c fun x => { x with started := c.started }
      let s := if root then s.sendRoots c g dies else s
      (s.collRun group equinox c.fuel).drainEarly group equinox 4096
  | _, _ => s

/-- A key (tree, chunk) is one of an X-die, or any. -/
def inDie (x : Option Nat) (ch : Nat) : Bool := x.all fun x => ch % 4 = x

/-- The chunks of an X-die, or all, have passed on both paths, and are staged at ROOT of a REDUCE (13 R453). -/
def Coll.partDone (c : Coll) (x : Option Nat) : Bool :=
  ([0, 1].all fun t => ((c.items t false).filter (inDie x)).all fun ch => c.upDone.contains (t, ch)) &&
  ([0, 1].all fun t => ((c.items t true).filter (inDie x)).all fun ch => c.downDone.contains (t, ch)) &&
  (c.kind ≠ 1 || c.self ≠ c.root || [0, 1].all fun t => ((c.treeChunks t).filter (inDie x)).all fun ch => c.rootDone.contains (t, ch))

def Coll.dieDone (c : Coll) (x : Nat) : Bool := c.partDone (some x)

/-- The X-die on which a collective's deadline has passed (02 R68). -/
def State.collMissed (s : State) (group : BitVec 12) (equinox : Word) : State :=
  match s.coll? group equinox with
  | none => s
  | some c =>
    match s.missedDie c.deadline c.dieDone with
    | some x =>
      if c.complete then s
      else s.raise c.part (s.deadlineRecord (collUnit x) (s.xNow x) c.deadline c.equinox.toNat)
    | none => s

/-! ## Completion and commit (13 R453, R454) -/

/-- Both down phases have ended here and every staged chunk is written. -/
def Coll.finished (c : Coll) : Bool := !c.started.isEmpty && c.partDone none

/-- The slot is freed, the completion posted and the semaphore signalled. -/
def State.freeColl (s : State) (c : Coll) : State :=
  let s := { s with
    colls := s.colls.filter fun x => x.group ≠ c.group ∨ x.equinox ≠ c.equinox
    collPast := s.collPast ++ [c] }
  let s := s.updItem c.part c.pos fun i => { i with mv := i.mv || c.mv }
  let s := s.finishItem c.part c.pos c.doneAt c.late
  if c.sem.getLsbD 7 then s.semAdd c.part (c.sem.toNat % 64) 1 (collUnit 0) else s

/-- COLLECTIVE_COMPLETE: the completion count is taken; a member without DST is done. -/
def State.completeColl (s : State) (group : BitVec 12) (equinox : Word) : State :=
  match s.coll? group equinox with
  | none => s
  | some c =>
    if c.complete ∨ !c.finished ∨ s.xNow 0 > c.deadline then s
    else
      let c := { c with complete := true, doneAt := s.xNow 0 }
      let s := s.updColl c fun _ => c
      let s := (List.range 4).foldl (fun s x => s.updXdie x fun d => { d with collDone := satAdd d.collDone 1 }) s
      if c.hasDst then s else s.freeColl c

/-- COLLECTIVE_COMMIT_DONE: STAGE has been copied to DST. -/
def State.commitColl (s : State) (group : BitVec 12) (equinox : Word) : State :=
  match s.coll? group equinox with
  | none => s
  | some c =>
    if !c.complete ∨ s.waitsFor c.part [(c.stage, c.bytes), (c.dst, c.bytes)] then s
    else match s.peek c.part c.stage c.bytes with
      | (.error e, s) => s.collMem c 0 e
      | (.ok bs, s) =>
        match s.writeMem (s.partition c.part).job c.dst bs with
        | (.error e, s) => s.collMem c 0 e
        | (.ok _, s) => s.freeColl c

/-- The row COLLECTIVE_COMPLETE (13 R453). -/
def execCollectiveComplete (group : BitVec 12) (equinox : Word) (s : State) : Host.Outcome State Fault Refusal :=
  .next (s.completeColl group equinox)

/-- The row COLLECTIVE_COMMIT_DONE (13 R454). -/
def execCollectiveCommitDone (group : BitVec 12) (equinox : Word) (s : State) : Host.Outcome State Fault Refusal :=
  .next (s.commitColl group equinox)

end Sys2Proof.Machine
end

