-- ==== Sys2Proof/Machine/Monsoon.lean ====
section
/-! DEFINITION. Monsoon up to the routing result (06 R202 to R232, R242 to R245): descriptors and arming, the router
input, scoring and selection, the exchange of counts and prefixes, and admission. -/

namespace Sys2Proof.Machine

open Sys2Proof

/-! ## Units, steps and records -/

/-- The stages' unit numbers (06 R202). -/
def uScorer : Nat := 0x10
def uSelector : Nat := 0x11
def uAdmitter : Nat := 0x12
def uDispatcher : Nat := 0x14
def uReceiver : Nat := 0x15
def uCombiner : Nat := 0x16

/-- The armed step of a (GROUP, STEP) pair, with its slot. -/
def State.stepOf (s : State) (group : BitVec 12) (step : BitVec 16) : Option (Nat × Step) :=
  s.steps.find? fun e => !e.2.faulted && e.2.d.group = group && e.2.d.step = step

/-- The step in a slot, if it is armed and has not faulted, while the X-dies' clocks run (19 R605). -/
def State.step? (s : State) (sl : Nat) : Option Step := (Tab.get? s.steps sl).filter fun st => !st.faulted && s.moves

/-- The Forecast request in a slot, while the X-dies' clocks run (19 R605). -/
def State.fc? (s : State) (sl : Nat) : Option Fc := (Tab.get? s.forecasts sl).filter fun _ => s.moves

/-- A fault of a step (06, after R248): source unit of the stage, detail word 0 the descriptor. -/
def State.stepRecord (s : State) (st : Step) (x unit code d1 d2 : Nat) : FaultRec :=
  { s.recordOpen code (xUnit x unit) 0 with
    d0 := BitVec.ofNat 64 st.desc, d1 := BitVec.ofNat 64 d1, d2 := BitVec.ofNat 64 d2 }

/-- A fault of a step is raised in its partition and noted on the X-die. -/
def State.raiseStep (s : State) (st : Step) (x : Nat) (r : FaultRec) : State :=
  (s.noteMonFault x st.d.step r.code.toNat).raise st.part r

/-- The end of a sequence of a step's work on an X-die. -/
def stepEnd {α : Type} (st : Step) (x : Nat) (r : Try α) (f : α → State → State) : State := match r with
  | (.error e, s) => s.raiseStep st x e
  | (.ok a, s) => f a s

/-- The X-die whose unit a record names. -/
def FaultRec.xdie (r : FaultRec) : Nat := r.source.toNat / 256 - 26

/-- The end of work that several X-dies do for a step: a fault is noted on the die whose unit met it (06 R248). -/
def unitsEnd {α : Type} (st : Step) (r : Try α) (f : α → State → State) : State := match r with
  | (.error e, s) => s.raiseStep st e.xdie e
  | (.ok a, s) => f a s

/-- Head groups and segments that X-die `x` has still to score for a Forecast request (08 R291, R293), the next first. -/
def Fc.todo (f : Fc) (x : Nat) : List (Nat × Nat) :=
  if f.phase ≠ 2 ∨ f.d.kseg = 0 ∨ f.d.nblk ≤ f.d.window then []
  else (List.range f.d.hgroups).flatMap fun h =>
    ((List.range f.d.segments).filter fun g => g % 4 = x && !f.scored.contains (h, g)).map fun g => (h, g)

/-- The lists of a Forecast request. -/
def Fc.total (f : Fc) : Nat := f.d.hgroups * f.d.rows

/-- PHASE of a started request (08 R304): scoring while a segment is left, then assembly, then done. -/
def Fc.settle (f : Fc) : Fc :=
  let open_ : Bool := [0, 1, 2, 3].any fun x => !({ f with phase := 2 }.todo x).isEmpty
  { f with phase := if open_ then 2 else if f.lists < f.total then 3 else 4 }

/-- Another request goes first (06 R245). -/
def Fc.after (f g : Fc) : Bool := g.equinox < f.equinox || (g.equinox = f.equinox && g.seq < f.seq)

/-- A Forecast request goes first at the scorer of an X-die (06 R245, 08 R285). -/
def State.fcFirst (s : State) (x equinox seq : Nat) : Bool :=
  s.forecasts.any fun e => e.2.equinox ≤ s.xNow x && !(e.2.todo x).isEmpty &&
    (e.2.equinox < equinox || (e.2.equinox = equinox && e.2.seq < seq))

/-- The next place in the order of arming. -/
def State.nextSeq (s : State) : Nat :=
  max ((s.steps.map fun e => e.2.seq).foldl max 0) ((s.forecasts.map fun e => e.2.seq).foldl max 0) + 1

/-- Another armed step goes first at a stage (06 R245): lower EQUINOX, then earlier arming. -/
def State.stageFirst (s : State) (st : Step) (ready : Step → Bool) : Bool :=
  !(s.steps.any fun e => !e.2.faulted && ready e.2 &&
    (e.2.equinox < st.equinox || (e.2.equinox = st.equinox && e.2.seq < st.seq)))

/-! ## Descriptors (06 R205 to R207, 07 R252 to R255) -/

/-- The formats of the router input and of the gate weights, and bytes of an element. -/
def monFmt (c : Nat) : Bool := c = 0 || c = 2 || c = 3
def monSize (c : Nat) : Nat := if c = 0 then 2 else 1

/-- The formats of results and outputs. -/
def outFmtOk (c : Nat) : Bool := c = 0 || c = 2 || c = 0xA

/-- A step descriptor and its combine descriptor, 192 bytes. -/
def stepDescOf (bs : Bytes) : StepDesc where
  step := BitVec.ofNat 16 (field bs 0 2)
  group := BitVec.ofNat 12 (field bs 2 2)
  k := field bs 4 1
  spares := field bs 5 1
  mode := field bs 6 1 % 4
  renorm := bit (field bs 6 1) 2
  gate := field bs 6 1 / 8 % 4
  modeByte := BitVec.ofNat 8 (field bs 6 1)
  fmtByte := BitVec.ofNat 8 (field bs 7 1)
  fmtIn := BitVec.ofNat 4 (field bs 7 1)
  fmtW := BitVec.ofNat 4 (field bs 7 1 / 16)
  dm64 := field bs 8 2
  tokens := field bs 12 4
  experts := field bs 16 4
  tokenBase := field bs 24 8
  routerIn := field bs 32 8
  gateW := field bs 40 8
  gateBias := field bs 48 8
  table := field bs 56 8
  slotMap := field bs 64 8
  result := field bs 72 8
  summary := field bs 80 8
  resultSem := BitVec.ofNat 8 (field bs 88 1)
  out := field bs 128 8
  stage := field bs 136 8
  tags := field bs 144 8
  status := field bs 152 8
  outStride := field bs 160 4
  retFmt := BitVec.ofNat 4 (field bs 164 1)
  outFmt := BitVec.ofNat 4 (field bs 164 1 / 16)
  combineSem := BitVec.ofNat 8 (field bs 165 1)
  outSpread := field bs 166 2

/-- An address of a descriptor (06 R205). -/
def State.descAddr (s : State) (a : Nat) : Bool :=
  let w : Word := BitVec.ofNat 64 a
  canonical w && gPkg w = s.self && a % 64 = 0

/-- ROW_BYTES, and the rows of the quarter of X-die `x` (06 R203, R208). -/
def StepDesc.rowBytes (d : StepDesc) : Nat := d.width * monSize d.fmtIn.toNat
def StepDesc.quarter (d : StepDesc) (x : Nat) : List Nat :=
  let q := cdiv d.tokens 4
  (List.range (min d.tokens ((x + 1) * q) - min d.tokens (x * q))).map (x * q + ·)

/-- The X-die of a step row. -/
def StepDesc.dieOf (d : StepDesc) (row : Nat) : Nat := row / max 1 (cdiv d.tokens 4)

/-- Output rows lie in the scratchpad part of their core windows when OUT_SPREAD is used (07 R254). -/
def StepDesc.spreadOk (d : StepDesc) : Bool :=
  d.outSpread = 0 ||
  (coreBase ≤ loc d.out && loc d.out < coreBase + 4608 * 0x200000 &&
    (List.range d.tokens).all fun i =>
      let a := d.outRow i
      a < coreBase + 4608 * 0x200000 && (a - coreBase) % 0x200000 + d.outBytes ≤ 0x100000)

/-- The descriptors pass R206 and R255. -/
def State.stepDescOk (s : State) (bs : Bytes) : Bool :=
  let d := stepDescOf bs
  field bs 2 2 < 4096 && 1 ≤ d.k && d.k ≤ 16 && d.spares ≤ 2 && d.mode ≠ 3 && d.gate ≠ 3 && d.modeByte.toNat < 32 &&
  monFmt d.fmtIn.toNat && monFmt d.fmtW.toNat && 1 ≤ d.dm64 && d.dm64 ≤ 256 && field bs 10 2 = 0 &&
  d.tokens ≤ 65536 && 1 ≤ d.experts && d.experts ≤ 16384 && field bs 20 4 = 0 && d.tokenBase < 2 ^ 40 &&
  ([d.routerIn, d.gateW, d.table, d.slotMap, d.result, d.summary, d.out, d.stage, d.tags].all s.descAddr) &&
  (d.gateBias = 0 || s.descAddr d.gateBias) && (d.status = 0 || s.descAddr d.status) &&
  !d.resultSem.getLsbD 6 && allZero ((bs.drop 89).take 39) && !d.combineSem.getLsbD 6 && allZero (bs.drop 168) &&
  outFmtOk d.retFmt.toNat && outFmtOk d.outFmt.toNat && d.outStride % 64 = 0 && d.outBytes ≤ d.outStride &&
  d.spreadOk && (Tab.get? s.groups d.group.toNat).isSome

/-- The step digest (06 R207). -/
def StepDesc.digest (d : StepDesc) : Word :=
  crc64 (leBytes 2 d.step.toNat ++ leBytes 2 d.group.toNat ++ leBytes 1 d.k ++ leBytes 1 d.spares ++
    [d.modeByte, d.fmtByte] ++ leBytes 2 d.dm64 ++ leBytes 2 d.experts)

/-- An entry of the slot map (06 R240). -/
def slotEntryOf (bs : Bytes) : SlotEntry where
  expert := field bs 0 2 % 2 ^ 14
  valid := bit (field bs 0 2) 15
  pool := field bs 2 1 % 8
  sem := field bs 3 1 % 64
  batch := field bs 8 8

/-- ROW_STRIDE of the receiver (06 R237). -/
def StepDesc.rowStride (d : StepDesc) : Nat := 64 + d.rowBytes

/-- The pool that receives a slot's rows. -/
def State.recvPool (s : State) (p : Nat) (e : SlotEntry) : Option Pool := Tab.get? s.pools (p * 8 + e.pool)

/-! ## Arming (06 R204, R206, R238, R244) -/

/-- The first slot entry that R238 refuses. -/
def State.badPool (s : State) (p : Nat) (d : StepDesc) (l : Table SlotEntry) : Option Nat :=
  (l.find? fun e => e.2.valid && match s.recvPool p e.2 with
    | some x => decide (x.bufSize < d.rowStride)
    | none => true).map (·.1)

/-- A step as it is armed. -/
def State.newStep (s : State) (i : Item) (p : Nat) (d : StepDesc) (slots : Table SlotEntry) : Step where
  part := p
  pos := i.pos
  desc := i.arg.toNat
  d := d
  equinox := i.equinox
  deadline := i.deadline
  late := s.xLate i.equinox
  mv := i.mv
  members := ((Tab.get? s.groups d.group.toNat).map (·.members)).getD []
  digest := d.digest
  faulted := false
  round := 0
  arrived := []
  scored := []
  entries := []
  slots := slots
  choices := []
  spares := []
  countsSent := false
  countFrom := []
  counts := []
  prefixFrom := []
  prefixes := []
  admitted := false
  sentTo := []
  buffers := []
  batchN := []
  nFinal := []
  rxChunks := []
  rxRows := []
  batchDone := []
  returns := []
  returning := []
  returned := []
  retChunks := []
  retRows := []
  combined := []
  complete := false
  doneAt := 0
  seq := s.nextSeq
  abort := none

/-! What the stages of a step access, which they wait for while it lies in a core window that is held (15 R508). -/

/-- The records of the batches on a die, with the buffers' addresses. -/
def Step.batchAreas (st : Step) (x : Nat) : List (Nat × Nat) :=
  (st.slots.filter fun e => e.2.valid && e.1 % 4 = x).map fun e => (loc e.2.batch, 64 + 8 * (Tab.get [] st.buffers e.1).length + 8 * st.d.tokens)

/-- E rounded up to a multiple of 256. -/
def StepDesc.ePad (d : StepDesc) : Nat := roundUp d.experts 256

/-- What scoring on a die reads. -/
def StepDesc.scoreAreas (d : StepDesc) (x : Nat) : List (Nat × Nat) :=
  [(loc d.table, 64 * d.experts), (loc d.gateW, d.width * d.ePad * monSize d.fmtW.toNat),
    (if d.gateBias = 0 then 0 else loc d.gateBias, 4 * d.experts)] ++
  (d.quarter x).map fun r => (loc d.routerIn + r * d.rowBytes, d.rowBytes)

/-- The routing result. -/
def StepDesc.resultAreas (d : StepDesc) : List (Nat × Nat) :=
  [(loc d.result, d.tokens * d.k * 8), (loc d.tags, d.tokens * d.k * 16), (loc d.summary, 64)]

/-- A free step slot. -/
def State.freeStep (s : State) : Option Nat := (List.range 8).find? fun i => (Tab.get? s.steps i).isNone

/-- A pair is remembered, or its step is armed. -/
def State.pairKnown (s : State) (group : BitVec 12) (step : BitVec 16) : Bool :=
  (s.pairs.any fun e => e.1 = group && e.2.1 = step) || (s.stepOf group step).isSome

/-- The memory has room for one more pair beside those of the armed steps. -/
def State.pairRoom (s : State) : Bool := s.pairs.length + (s.steps.countP fun e => !e.2.complete && !e.2.faulted) < 4096

/-- A step fault with no step armed here: raised in a partition; aborts go to the members of the group, when it is
VALID as the fault is raised, and the pair is remembered (06 R242, R243). -/
def State.raisePair (s : State) (p x : Nat) (group : BitVec 12) (step : BitVec 16) (digest : Word) (r : FaultRec) : State :=
  let g := Tab.get? s.groups group.toNat
  let s := (s.noteMonFault x step r.code.toNat).raise p r
  let s := match g with
    | none => s
    | some g => s.sendPairAborts 0 p group step 0 digest g.members r.code.toNat
  if s.pairKnown group step then s else s.rememberPair group step

/-- The step of an item is armed in a slot, waits for what it reads, or faults before any effect. Of a descriptor that
cannot be read the pair is not known: MON_LAST_FAULT has a free STEP (log entry 2). -/
def State.armStep (s0 : State) (p sl : Nat) (i : Item) : State :=
  let fault (s : State) (d : StepDesc) (code : Nat) (d1 d2 : Option Nat) : State :=
    let r := { s.recordOpen code (xUnit 0 uAdmitter) 0 with d0 := i.arg }
    s.raisePair p 0 d.group d.step d.digest
      { r with d1 := (d1.map (BitVec.ofNat 64)).getD r.d1, d2 := (d2.map (BitVec.ofNat 64)).getD r.d2 }
  if s0.waitsFor p [(gLocal i.arg, 192)] then s0
  else match s0.unitRead p (xUnit 0 uAdmitter) (gLocal i.arg) 192 with
  | (.error e, s) =>
    let (n, s) := s.draw
    (s.noteMonFault 0 (BitVec.ofNat 16 n) e.code.toNat).raise p e
  | (.ok bs, s) =>
    let d := stepDescOf bs
    if !s.stepDescOk bs then fault s d 0x0309 none none
    else if s.pairKnown d.group d.step then fault s d 0x0311 none none
    else if s0.waitsFor p [(loc d.slotMap, 8192)] then s0
    else match s.unitRead p (xUnit 0 uAdmitter) (loc d.slotMap) 8192 with
      | (.error e, s) => s.raisePair p 0 d.group d.step d.digest e
      | (.ok map, s) =>
        let slots := (List.range 256).map fun n => (n, slotEntryOf ((map.drop (n * 32)).take 32))
        match s.badPool p d slots with
        | some n => fault s d 0x0310 (some n) (some d.rowStride)
        | none =>
          let st := s.newStep i p d slots
          if s0.waitsFor p ([0, 1, 2, 3].flatMap st.batchAreas) then s0
          else match (if (s.partition p).calm then s.lateDie i.equinox i.window else none) with
          | some x => s.raisePair p x d.group d.step d.digest (s.lateRecord (xUnit x uAdmitter) (s.xNow x) i.equinox)
          | none =>
            { s with steps := Tab.put s.steps sl st }.updItem p i.pos fun i => { i with armed := true, slot := sl }

/-! ## The router input (06 R208, R209) -/

/-- A post's header, and the number of its rows. -/
def State.post (s : State) (c : Nat) (d : Dma) : Nat × Nat :=
  let h := memRead s.mem (spBase c + d.so.toNat) 64
  (field h 0 4, field h 4 2)

/-- ROUTE_POST. -/
def State.postRefused (d : Dma) (first n : Nat) (st : Step) : Bool :=
  d.len.toNat ≠ 64 + n * st.d.rowBytes || first + n > st.d.tokens || (List.range n).any fun i => st.arrived.contains (first + i)

/-- ROUTER_INPUT_POST: a post's rows are written and recorded, and its tag may clear. A post to no armed step is noted in
MON_LAST_FAULT with a free STEP (log entry 2). -/
def State.routerPost (s : State) (c tag : Nat) : State :=
  match (s.core c).dma? tag with
  | none => s
  | some d =>
    if d.op ≠ 0x10 ∨ d.left = 0 ∨ d.fault.isSome ∨ !(s.core c).drains then s
    else
      let p := s.corePart c
      let (first, n) := s.post c d
      let bad (s : State) : State :=
        s.raise p { s.recordOpen 0x0307 (xUnit 0 uAdmitter) d.ga with d0 := d.word }
      match s.steps.find? fun e => !e.2.faulted && e.2.part = p && e.2.desc = d.ga.toNat with
      | none =>
        let (n, s) := s.draw
        bad (s.noteMonFault 0 (BitVec.ofNat 16 n) 0x0307)
      | some (sl, st) =>
        if State.postRefused d first n st then bad (s.noteMonFault 0 st.d.step 0x0307)
        else if s.waitsFor p [(loc st.d.routerIn + first * st.d.rowBytes, n * st.d.rowBytes)] then s
        else
          let bs := memRead s.mem (spBase c + d.so.toNat + 64) (n * st.d.rowBytes)
          match s.writeMem (s.partition p).job (loc st.d.routerIn + first * st.d.rowBytes) bs with
          | (.error e, s) => s.raise p (s.memRecord e (coreUnit c) (s.global e.at_) 2)
          | (.ok _, s) =>
            let s := s.updStep sl fun st => { st with arrived := st.arrived ++ (List.range n).map (first + ·) }
            s.updCore c fun k => k.updDma tag Dma.partDone

/-! ## Scoring (06 R210 to R213) -/

/-- The values of a row of elements. -/
def rowVals (fmt n : Nat) (bs : Bytes) : List Val :=
  let z := monSize fmt
  (List.range n).map fun i => elemVal fmt (field bs (i * z) z)

/-- An exact sum of products. -/
def dotVal (l : List (Val × Val)) : Val := l.foldl (fun acc e => acc.add (e.1.mul e.2)) (.fin false 0 0)

/-- A logit: 64 products summed exactly, each sum added to the accumulator with one rounding (06 R211). -/
def logitGo : Nat → List (Val × Val) → Nat → Nat
  | 0, _, acc => acc
  | n + 1, l, acc =>
    logitGo n (l.drop 64) (fp32.result ((fp32.decode acc).add (dotVal (l.take 64)))).1

/-- The logits of a row: `g` holds the rows of the gate weights. -/
def StepDesc.logits (d : StepDesc) (row : Bytes) (g : List (List Val)) : List Nat :=
  let r := rowVals d.fmtIn.toNat d.width row
  (List.range d.experts).map fun e => logitGo d.dm64 (r.zip (g.map fun l => l.getD e .nan)) 0

/-- A value is NaN or infinite. -/
def nonFinite (f : FFmt) (v : Nat) : Bool := match f.decode v with
  | .fin _ _ _ => false
  | _ => true

/-! ## Selection and gating (06 R214, R215) -/

/-- A score ranks before or with another: a NaN first (log entry 30), then the higher. -/
def scoreLe (a b : Nat) : Bool := match fp32.decode a, fp32.decode b with
  | .nan, _ => true
  | _, .nan => false
  | x, y => !x.lt y

/-- The first `n` experts of a list of scores: higher first, equal scores by expert. -/
def topExperts (scores : List Nat) (n : Nat) : List Nat :=
  (((List.range scores.length).zip scores).mergeSort (fun a b => scoreLe a.2 b.2)).take n |>.map (·.1)

/-- log2 e, cut off after 256 fraction bits. -/
def log2e : Nat := 167052672916848388242985626561247531987276682633131050150846402744536260568207

/-- exp(x) of a finite FP32 x: exp2 of x × log2 e rounded to FP32 (06 R215). -/
def fpExp (x : Nat) : Nat :=
  let y := match fp32.decode x with
    | .fin n m e => if m = 0 then x else (fp32.result (sticky n (m * log2e) (e - 256) true)).1
    | .inf n => fp32.signBit n + fp32.infBits
    | .nan => fp32.nan
  (fp32.exp2 y).1

/-- The exact quotient of two values, its last bit marking what lies below. -/
def Val.div : Val → Val → Val
  | .nan, _ => .nan
  | _, .nan => .nan
  | .inf _, .inf _ => .nan
  | .inf a, .fin n _ _ => .inf (a != n)
  | .fin n _ _, .inf b => .fin (n != b) 0 0
  | .fin n m e, .fin n' m' e' =>
    if m' = 0 then (if m = 0 then .nan else .inf (n != n'))
    else if m = 0 then .fin (n != n') 0 0
    else
      let k := 700 + bitLen m'
      sticky (n != n') (m * 2 ^ k / m') (e - e' - k) (m * 2 ^ k % m' ≠ 0)

/-- A quotient in FP32. -/
def fpDiv (a b : Nat) : Nat := (fp32.result ((fp32.decode a).div (fp32.decode b))).1

/-- The largest of the primaries' logits. -/
def maxLogit (l : List Nat) : Nat := match l with
  | [] => 0
  | a :: rest => rest.foldl (fun m x => if (fp32.decode m).lt (fp32.decode x) then x else m) a

/-- The gate weights of a token's candidates, from their logits: `k` primaries, then spares. -/
def gatesOf (mode k : Nat) (l : List Nat) : List (BitVec 16) :=
  let m := maxLogit (l.take k)
  let ex (x : Nat) : Nat := fpExp (fp32.sub x m).1
  let den := (l.take k).foldl (fun acc x => (fp32.add acc (ex x)).1) 0
  l.map fun x =>
    let w := match mode with
      | 0 => fpDiv (ex x) den
      | 1 => fpDiv 0x3F800000 (fp32.add 0x3F800000 (fpExp (x ^^^ 0x80000000))).1
      | _ => x
    BitVec.ofNat 16 (bf16.convert (fp32.decode w)).1

/-! ## The expert table (06 R216 to R219) -/

/-- An entry as read. -/
def expertOf (bs : Bytes) : ExpertEntry :=
  let w := field bs 0 4
  let r := fld w 19 16
  let words := (List.range (min r 8)).map fun i => field bs (8 + 4 * i) 4
  { valid := bit w 31
    bad := r = 0 || r > 8 || fld w 30 20 ≠ 0 || field bs 4 4 ≠ 0 || !allZero (bs.drop 40) ||
      words.any fun v => bit v 15 || v / 2 ^ 24 ≠ 0
    replicas := r
    capacity := fld w 15 0
    units := words.map fun v => (BitVec.ofNat 15 v, fld v 23 16) }

/-- The replica of an expert for a token of a source package. -/
def replicaOf (t : Nat) (p : PkgId) (e replicas : Nat) : Nat :=
  let x : Word := BitVec.ofNat 64 t ^^^ (BitVec.ofNat 64 p.toNat <<< 40) ^^^ (BitVec.ofNat 64 e <<< 49)
  (x * 0x9E3779B97F4A7C15#64).toNat / 2 ^ 32 * replicas / 2 ^ 32

/-- An entry of an X-die's table buffer. -/
def Step.entry (st : Step) (x e : Nat) : ExpertEntry := (Tab.get [] st.entries x).getD e ⟨false, true, 0, 0, []⟩

/-- A choice of an expert for a token, in a round. -/
def Step.choose (st : Step) (self : PkgId) (row rank e : Nat) (gate : BitVec 16) (round : Nat) (deferred : Bool) : Choice :=
  let x := st.entry (st.d.dieOf row) e
  let r := replicaOf (st.d.tokenBase + row) self e x.replicas
  let u := x.units.getD r (0, 0)
  { row := row, rank := rank, expert := e, gate := gate, replica := r, pkg := u.1, slot := u.2, capacity := x.capacity,
    round := round, deferred := deferred, state := .open_, sent := false }

/-- The fault of a candidate whose entry on an X-die fails R218. -/
def Step.entryFault (st : Step) (x e : Nat) : Option Nat :=
  let x := st.entry x e
  if !x.valid then some 0x0302
  else if x.bad ∨ x.units.any (fun u => !st.members.contains u.1) then some 0x0303
  else none

/-- A token's candidates: experts and gate weights in rank order. -/
abbrev Cands := List (Nat × BitVec 16)

/-- The candidates of a row, or GATE_NONFINITE. -/
def State.selectRow (s : State) (st : Step) (x : Nat) (bias : List Nat) (row : Nat) (logits : List Nat) :
    Except FaultRec Cands :=
  let d := st.d
  let scores := logits.mapIdx fun e l => (fp32.add l (bias.getD e 0)).1
  let ids := topExperts scores (d.k + d.spares)
  let gates := gatesOf d.gate d.k (ids.map fun e => logits.getD e 0)
  let l := ids.zip gates
  match l.find? fun e => nonFinite fp32 (logits.getD e.1 0) || nonFinite fp32 (scores.getD e.1 0) ||
      nonFinite bf16 e.2.toNat with
  | some e => .error (s.stepRecord st x uSelector 0x0304 (d.tokenBase + row) e.1)
  | none => .ok l

/-- An X-die reads the table of a step once, at its scoring start (06 R217). -/
def State.tableRead (s : State) (st : Step) (x : Nat) : Try (List ExpertEntry) :=
  tryThen (s.unitRead st.part (xUnit x uAdmitter) (loc st.d.table) (64 * st.d.experts)) fun bs s =>
    (.ok ((List.range st.d.experts).map fun e => expertOf ((bs.drop (64 * e)).take 64)), s)

/-- A quarter scored, selected and gated: the candidates of each row. -/
def State.scoreQuarter (s : State) (st : Step) (x : Nat) : Try (List (Nat × Cands)) :=
  let d := st.d
  let rows := d.quarter x
  let unit := xUnit x uScorer
  let z := monSize d.fmtW.toNat
  if rows.isEmpty then (.ok [], s)
  else
    tryThen (s.unitRead st.part unit (loc d.gateW) (d.width * d.ePad * z)) fun w s =>
    tryThen (if d.gateBias = 0 then (.ok [], s) else s.unitRead st.part unit (loc d.gateBias) (4 * d.experts)) fun b s =>
    let g := (List.range d.width).map fun k => rowVals d.fmtW.toNat d.experts ((w.drop (k * d.ePad * z)).take (d.experts * z))
    let bias := if d.gateBias = 0 then [] else (List.range d.experts).map fun e => field b (4 * e) 4
    tryList (fun row s =>
      tryThen (s.unitRead st.part unit (loc d.routerIn + row * d.rowBytes) d.rowBytes) fun bs s =>
        match s.selectRow st x bias row (d.logits bs g) with
        | .error r => (.error r, s)
        | .ok l => (.ok (row, l), s)) rows s

/-- The check of the table entries of a quarter's candidates (06 R218). -/
def State.checkCands (s : State) (st : Step) (x : Nat) (l : List (Nat × Cands)) : Try Unit :=
  let all := l.flatMap fun e => e.2.map fun c => (e.1, c.1)
  match all.findSome? fun e => (st.entryFault x e.2).map fun code => (code, e) with
  | some (code, row, e) => (.error (s.stepRecord st x uAdmitter code (st.d.tokenBase + row) e), s)
  | none => (.ok (), s)

/-- Choices in increasing (row, rank). -/
def sortChoices (l : List Choice) : List Choice := l.mergeSort fun a b => a.row * 16 + a.rank ≤ b.row * 16 + b.rank

/-- A quarter's choices join the step. -/
def Step.addQuarter (st : Step) (self : PkgId) (x : Nat) (l : List (Nat × Cands)) : Step :=
  let prim := l.flatMap fun e => (e.2.take st.d.k).mapIdx fun r c => st.choose self e.1 r c.1 c.2 0 false
  { st with
    scored := x :: st.scored
    choices := sortChoices (st.choices ++ prim)
    spares := l.foldl (fun t e => Tab.put t e.1 (e.2.drop st.d.k)) st.spares }

/-- Scoring may start on an X-die (06 R210, R245). -/
def State.mayScore (s : State) (x : Nat) (st : Step) : Bool :=
  !st.scored.contains x && st.equinox ≤ s.xNow x && (st.d.quarter x).all fun r => st.arrived.contains r

/-- SCORING_START on an X-die. -/
def State.scoringStart (s : State) (sl x : Nat) : State :=
  match s.step? sl with
  | none => s
  | some st =>
    if !s.mayScore x st ∨ !s.stageFirst st (s.mayScore x) ∨ s.fcFirst x st.equinox st.seq ∨
        s.waitsFor st.part (st.d.scoreAreas x) then s
    else
      let r := tryThen (s.tableRead st x) fun t s =>
        let st := { st with entries := Tab.put st.entries x t }
        tryThen (s.scoreQuarter st x) fun l s =>
        tryThen (s.checkCands st x l) fun _ s => (.ok (st, l), s)
      stepEnd st x r fun e s =>
        let (n, s) := s.draw
        let s := s.updXdie x fun d => { d with scoreBusy := satAdd d.scoreBusy n }
        s.updStep sl fun _ => e.1.addQuarter s.self x e.2

/-! ## Counts and prefixes (06 R221 to R225) -/

/-- Rounds of a step. -/
def StepDesc.rounds (d : StepDesc) : Nat := if d.mode = 1 then 1 + d.spares else 1

/-- The choices of the round in progress that ask for a unit, in order. -/
def Step.asking (st : Step) (pkg : PkgId) (slot : Nat) : List Choice :=
  st.choices.filter fun c => c.state = .open_ && c.pkg = pkg && c.slot = slot

/-- A record of a count packet (06 R222): present when the package asks for the unit (log entry 31). -/
def Step.countRec (st : Step) (pkg : PkgId) (slot : Nat) : Bytes :=
  match st.asking pkg slot with
  | [] => zeros 6
  | c :: rest => leBytes 6 (min 0xFFFF (rest.length + 1) + c.capacity * 2 ^ 16 + c.expert % 2 ^ 14 * 2 ^ 32 + 2 ^ 47)

/-- X-die `x` has something to ask of a member. -/
def Step.asks (st : Step) (pkg : PkgId) (x : Nat) : Bool :=
  st.choices.any fun c => c.state = .open_ && c.pkg = pkg && c.slot % 4 = x

/-- A count packet from X-die `x` to a member. -/
def State.sendCounts (s : State) (sl : Nat) (st : Step) (x : Nat) (m : PkgId) : State :=
  let full := st.asks m x
  let data := exchangeHead st.d.step st.d.group st.round 0 (!full) st.digest 0 ++
    (if full then (List.range 64).flatMap fun j => st.countRec m (4 * j + x) else [])
  s.newXact (monWrite m (xUnit x uAdmitter) (exchangePort x) data) data (.monsoon sl) st.part

/-- The prefix that a source holds for a unit in the round in progress. -/
def Step.prefixOf (st : Step) (pkg : PkgId) (slot : Nat) : Nat :=
  ((st.prefixes.find? fun e => e.1 = st.round && e.2.1 = pkg && e.2.2.1 = slot).map fun e => e.2.2.2).getD 0

/-! ## Admission (06 R224 to R228) -/

/-- The place of the `j`-th choice of the package on a unit: it is admitted below the capacity. Quarters are contiguous,
so the dies' prefixes only continue the package's. -/
def Step.placeOf (st : Step) (c : Choice) : Nat :=
  st.prefixOf c.pkg c.slot + ((st.asking c.pkg c.slot).takeWhile fun y => y.row ≠ c.row || y.rank ≠ c.rank).length

/-- What becomes of a choice of the round, with the spares left. -/
def Step.settle (st : Step) (self : PkgId) (c : Choice) (sp : Table (List (Nat × BitVec 16))) :
    Choice × Table (List (Nat × BitVec 16)) :=
  if c.state ≠ .open_ then (c, sp)
  else if st.placeOf c < c.capacity then ({ c with state := .admitted (st.placeOf c) }, sp)
  else if st.d.mode = 1 ∧ st.round + 1 < st.d.rounds then
    match Tab.get [] sp c.row with
    | (e, g) :: rest => (st.choose self c.row c.rank e g (st.round + 1) true, Tab.put sp c.row rest)
    | [] => ({ c with state := .dropped }, sp)
  else ({ c with state := .dropped }, sp)

def Step.settleAll (st : Step) (self : PkgId) : List Choice → Table (List (Nat × BitVec 16)) →
    List Choice × Table (List (Nat × BitVec 16))
  | [], sp => ([], sp)
  | c :: l, sp =>
    let (c, sp) := st.settle self c sp
    let (l, sp) := st.settleAll self l sp
    (c :: l, sp)

/-- The first choice of the round that overflows. -/
def Step.overflow (st : Step) : Option Choice := st.choices.find? fun c => c.state = .open_ && decide (c.capacity ≤ st.placeOf c)

/-- Discarded and deferred choices are counted on the dies of their tokens (06 R248). -/
def State.countFates (s : State) (st : Step) (new : List Choice) : State :=
  (st.choices.zip new).foldl (fun s e =>
    let x := st.d.dieOf e.1.row
    if e.1.state = .open_ ∧ e.2.state = .dropped then s.updXdie x fun d => { d with dropped := satAdd d.dropped 1 }
    else if e.1.state = .open_ ∧ e.2.state = .open_ then s.updXdie x fun d => { d with deferred := satAdd d.deferred 1 }
    else s) s

/-! ## Results (06 R231, R232, 07 R249 to R251) -/

/-- A result entry. -/
def Choice.result (c : Choice) : Nat :=
  let (row, adm, drop) : Nat × Bool × Bool := match c.state with
    | .admitted r => (r, true, false)
    | _ => (0, false, true)
  c.expert % 2 ^ 14 + c.pkg.toNat * 2 ^ 16 + c.slot * 2 ^ 32 + row * 2 ^ 40 + adm.toNat * 2 ^ 56 +
    c.deferred.toNat * 2 ^ 57 + drop.toNat * 2 ^ 58 + (decide (c.replica ≠ 0)).toNat * 2 ^ 59

/-- The tag of a choice. -/
def Step.tag (st : Step) (self : PkgId) (c : Choice) : BitVec 128 :=
  BitVec.ofNat 128 ((decide (c.replica ≠ 0)).toNat * 2 ^ 20 + c.deferred.toNat * 2 ^ 21 +
    (decide (c.state = .dropped)).toNat * 2 ^ 22 + st.d.step.toNat * 2 ^ 23 + c.gate.toNat * 2 ^ 39 +
    c.expert % 2 ^ 14 * 2 ^ 55 + c.rank * 2 ^ 69 + (st.d.tokenBase + c.row) % 2 ^ 40 * 2 ^ 73 + self.toNat * 2 ^ 113)

/-- The summary. -/
def Step.summary (st : Step) : Bytes :=
  let adm := st.choices.filter fun c => match c.state with
    | .admitted _ => true
    | _ => false
  leBytes 4 (st.d.tokens * st.d.k) ++ leBytes 4 adm.length ++ leBytes 4 (adm.countP (·.deferred)) ++
    leBytes 4 (st.choices.countP fun c => c.state = .dropped) ++ leBytes 1 st.d.rounds ++ zeros 47

/-- Result entries, tags and summary are written, and RESULT_SEM is signalled. -/
def State.writeResults (s : State) (st : Step) : State :=
  let r := tryThen (tryList (fun c s =>
      let at_ := c.row * st.d.k + c.rank
      let unit := xUnit (st.d.dieOf c.row) uAdmitter
      tryThen (s.unitWrite st.part unit (loc st.d.result + at_ * 8) (leBytes 8 c.result)) fun _ s =>
        s.unitWrite st.part unit (loc st.d.tags + at_ * 16) (leBytes 16 (st.tag s.self c).toNat)) st.choices s) fun _ s =>
    s.unitWrite st.part (xUnit 0 uAdmitter) (loc st.d.summary) st.summary
  unitsEnd st r fun _ s =>
    if st.d.resultSem.getLsbD 7 then s.semAdd st.part (st.d.resultSem.toNat % 64) 1 (xUnit 0 uAdmitter) else s

/-- The round's prefixes are there: admission, and the next round or the results. -/
def State.endRound (s : State) (sl : Nat) (st : Step) : State :=
  match (if st.d.mode = 2 then st.overflow else none) with
  | some c =>
    let x := st.d.dieOf c.row
    let r := s.stepRecord st x uAdmitter 0x0301 (st.d.tokenBase + c.row) (c.expert % 2 ^ 14 + c.replica * 2 ^ 16)
    s.raiseStep st x { r with d3 := BitVec.ofNat 64 (c.capacity + st.prefixOf c.pkg c.slot * 2 ^ 16) }
  | none =>
    let (new, sp) := st.settleAll s.self st.choices st.spares
    let s := s.countFates st new
    let last : Bool := st.d.rounds ≤ st.round + 1
    let st := { st with
      choices := new, spares := sp, countsSent := false, prefixFrom := []
      admitted := last, round := if last then st.round else st.round + 1 }
    let s := s.updStep sl fun _ => st
    if last then s.writeResults st else s

/-- The admitter has a round's counts to send. -/
def Step.mayCount (st : Step) : Bool := st.scored.length = 4 && !st.countsSent && !st.admitted

/-- COUNT_ROUND_START: the round's counts go out; a round in which the package asks for nothing ends here. -/
def State.countRound (s : State) (sl : Nat) : State :=
  match s.step? sl with
  | none => s
  | some st =>
    if !st.mayCount ∨ !s.stageFirst st Step.mayCount ∨ s.waitsFor st.part st.d.resultAreas then s
    else
      let pairs := [0, 1, 2, 3].flatMap fun x => st.members.map fun m => (x, m)
      let s := pairs.foldl (fun s e => s.sendCounts sl st e.1 e.2) s
      let wait := (pairs.filter fun e => st.asks e.2 e.1).map fun e => (st.round, e.2, e.1)
      let st := { st with countsSent := true, prefixFrom := wait }
      let s := s.updStep sl fun _ => st
      if wait.isEmpty then s.endRound sl st else s

/-! ## The host's side of the exchange (06 R223, R229, R237) -/

/-- The records of a count packet. -/
def countRecs (round x : Nat) (m : PkgId) (data : Bytes) : List CountRec :=
  ((List.range 64).map fun j =>
    let v := field data (32 + 6 * j) 6
    (bit v 47, (⟨round, m, 4 * j + x, fld v 15 0, fld v 31 16, fld v 45 32⟩ : CountRec))).filterMap fun e =>
      if e.1 then some e.2 else none

/-- A record that R229 refuses. -/
def Step.countBad (st : Step) (r : CountRec) : Bool :=
  let e := Tab.get ⟨0, false, 0, 0, 0⟩ st.slots r.slot
  !e.valid || e.expert ≠ r.expert || st.counts.any fun q => q.slot = r.slot && q.capacity ≠ r.capacity

/-- The whole demand on a slot up to a round, and N_r (06 R237). -/
def Step.demand (st : Step) (slot round : Nat) : Nat :=
  ((st.counts.filter fun q => q.slot = slot && q.round ≤ round).map (·.count)).sum
def Step.nOf (st : Step) (slot round : Nat) : Nat :=
  match st.counts.find? fun q => q.slot = slot with
  | some q => min q.capacity (st.demand slot round)
  | none => 0

/-- The prefix of a member on a slot (06 R223). -/
def Step.hostPrefix (st : Step) (slot round : Nat) (p : PkgId) : Nat :=
  min 0xFFFF (((st.counts.filter fun q => q.slot = slot &&
    (q.round < round || (q.round = round && q.member.toNat < p.toNat))).map (·.count)).sum)

/-- The buffers of a slot are brought to what N_r rows need (06 R237, R241). -/
def State.takeBuffers (s : State) (sl x round : Nat) (slot : Nat) : Try Unit :=
  match s.step? sl with
  | none => (.ok (), s)
  | some st =>
    let e := Tab.get ⟨0, false, 0, 0, 0⟩ st.slots slot
    let n := st.nOf slot round
    let fail (s : State) : Try Unit := (.error (s.stepRecord st x uReceiver 0x0308 slot n), s)
    match s.recvPool st.part e with
    | none => if n ≤ st.batchRows slot then (.ok (), s) else fail s
    | some pool =>
      let have_ := Tab.get [] st.buffers slot
      let need := cdiv (n * st.d.rowStride) pool.bufSize - have_.length
      if need = 0 then (.ok (), s.updStep sl fun st => { st with batchN := Tab.put st.batchN slot n })
      else
        if pool.freeCount < need then fail (if pool.freeCount = 0 then s.noteEmpty else s)
        else
          let (ids, s) := s.poolTakeMany (st.part * 8 + e.pool) need
          if ids.length < need then fail s
          else
            let addrs := ids.map pool.bufAddr
            let s := s.updStep sl fun st => { st with
              batchN := Tab.put st.batchN slot n, buffers := Tab.put st.buffers slot (have_ ++ addrs) }
            s.unitWrite st.part (xUnit x uReceiver) (loc e.batch + 64 + 8 * have_.length)
              (addrs.flatMap fun a => leBytes 8 (s.global a).toNat)

/-- A prefix packet goes back to a member. -/
def State.sendPrefix (s : State) (sl : Nat) (st : Step) (x round : Nat) (m : PkgId) : State :=
  let data := exchangeHead st.d.step st.d.group round 1 false st.digest 0 ++
    (List.range 64).flatMap fun j => leBytes 2 (
      if st.counts.any fun q => q.round = round && q.member = m && q.slot = 4 * j + x
      then st.hostPrefix (4 * j + x) round m else 0)
  s.newXact (monWrite m (xUnit x uAdmitter) (exchangePort x) data) data (.monsoon sl) st.part

/-- Every member's count packet of a round has reached the host die. -/
def Step.countsIn (st : Step) (round x : Nat) : Bool := st.members.all fun m => st.countFrom.contains (round, x, m)

/-- The host die has the round's counts: buffers are taken, then prefixes go out. -/
def State.hostRound (s : State) (sl x round : Nat) : State :=
  match s.step? sl with
  | none => s
  | some st =>
    let mine := (st.slots.filter fun e => e.2.valid && e.1 % 4 = x).map (·.1)
    stepEnd st x (tryList (fun slot s => s.takeBuffers sl x round slot) mine s) fun _ s =>
      let ask := st.members.filter fun m => st.counts.any fun q => q.round = round && q.member = m && q.slot % 4 = x
      let s := ask.foldl (fun s m => s.sendPrefix sl st x round m) s
      if st.d.rounds ≤ round + 1 then s.updStep sl fun st => { st with nFinal := x :: st.nFinal } else s

/-- A count packet for an armed step. -/
def State.onCounts (s : State) (sl x : Nat) (st : Step) (m : PkgId) (data : Bytes) : State :=
  let w := field data 0 8
  let round := fld w 29 28
  if st.countFrom.contains (round, x, m) ∨ !st.members.contains m then s
  else if BitVec.ofNat 64 (field data 8 8) ≠ st.digest then
    s.raiseStep st x (s.stepRecord st x uAdmitter 0x0305 m.toNat 0xFFFF)
  else
    let recs := if bit w 32 then [] else countRecs round x m data
    match recs.find? st.countBad with
    | some r => s.raiseStep st x (s.stepRecord st x uAdmitter 0x0305 m.toNat r.slot)
    | none =>
      let st := { st with countFrom := (round, x, m) :: st.countFrom, counts := st.counts ++ recs }
      let s := s.updStep sl fun _ => st
      if st.countsIn round x then s.hostRound sl x round else s

/-- A prefix packet for an armed step. -/
def State.onPrefix (s : State) (sl x : Nat) (st : Step) (m : PkgId) (data : Bytes) : State :=
  let round := fld (field data 0 8) 29 28
  if !st.prefixFrom.contains (round, m, x) then s
  else
    let st := { st with
      prefixFrom := st.prefixFrom.erase (round, m, x)
      prefixes := st.prefixes ++ (List.range 64).map fun j => (round, m, 4 * j + x, field data (32 + 2 * j) 2) }
    let s := s.updStep sl fun _ => st
    if st.prefixFrom.isEmpty then s.endRound sl st else s

/-- An abort for an armed step (06 R242): the fault code travels on with it (log entry 21). -/
def State.onAbort (s : State) (sl x : Nat) (st : Step) (m : PkgId) (data : Bytes) : State :=
  let code := field data 16 2
  if st.complete then s
  else
    let s := s.updStep sl fun st => { st with abort := some code }
    s.raiseStep st x (s.stepRecord st x uAdmitter 0x0306 m.toNat code)

/-- A packet of the exchange port for an armed step. -/
def State.onExchange (s : State) (sl x : Nat) (st : Step) (m : PkgId) (data : Bytes) : State :=
  match fld (field data 0 8) 31 30 with
  | 0 => s.onCounts sl x st m data
  | 1 => s.onPrefix sl x st m data
  | 2 => s.onAbort sl x st m data
  | _ => s

/-- The early packets of a step that has been armed are applied, die by die in order of arrival (06 R230). -/
def State.applyEarly (s : State) (sl : Nat) : Nat → State
  | 0 => s
  | n + 1 =>
    match s.step? sl with
    | none => s
    | some st =>
      let mine (x : Nat) : Option (Nat × Pkt × Bytes) := ((s.xdie x).early.find? fun e =>
        exchangePair e.2 = (st.d.group, st.d.step)).map fun e => (x, e)
      match [0, 1, 2, 3].findSome? mine with
      | none => s
      | some (x, e) =>
        let s := s.updXdie x fun d => { d with early := d.early.erase e }
        (s.onExchange sl x st e.1.src e.2).applyEarly sl n

/-- A packet of the exchange port of an X-die leaves its buffer and is answered: applied, discarded when its pair is
remembered, or kept in the early store; with a full store it is not answered (06 R230, R243). -/
def State.takeExchange (s0 : State) (x kind : Nat) (k : Pkt) (data : Bytes) : State :=
  let ok : Bool := k.op = 2 && vcOf k.op.toNat k.srcUnit.toNat = 4 && exchangePort x ≤ k.addr.toNat &&
    k.addr.toNat < exchangePort x + 0x8000 && fld (field data 0 8) 31 30 = kind
  match (if ok ∧ s0.operational then s0.findRx k data else none) with
  | none => s0
  | some e =>
    let s := s0.takeRx e
    let data := e.2.2.2.take k.length.toNat
    let (group, step) := exchangePair data
    match s.stepOf group step with
    | some (sl, st) =>
      if s.waitsFor st.part (st.batchAreas x ++ st.d.resultAreas) then s0
      else (s.reply k 0x81 0 0 []).onExchange sl x st k.src data
    | none =>
      if s.pairKnown group step then s.reply k 0x81 0 0 []
      else if (s.xdie x).early.any fun e => e.1.src = k.src && e.1.srcUnit = k.srcUnit && e.2 = data then
        s.reply k 0x81 0 0 []
      else if (s.xdie x).early.length ≥ 1024 then s
      else (s.updXdie x fun d => { d with
        early := d.early ++ [(k, data)], earlyHigh := max d.earlyHigh (d.early.length + 1) }).reply k 0x81 0 0 []

/-! ## The commands -/

/-- MONSOON_STEP_ARM: the next Monsoon entry of a ring takes a free slot once the memory has room for its pair. -/
def State.monsoonArm (s : State) (p : Nat) : State :=
  let x := s.partition p
  match (if x.state = .active ∧ s.moves then x.ring.items.find? fun i => i.type = .monsoon && !i.armed else none), s.freeStep with
  | some i, some sl => if s.pairRoom then (s.armStep p sl i).applyEarly sl 4096 else s
  | _, _ => s

/-- The row MONSOON_STEP_ARM (06 R204). -/
def execMonsoonStepArm (p : PartId) (s : State) : Host.Outcome State Fault Refusal := .next (s.monsoonArm p.val)

/-- The row ROUTER_INPUT_POST (06 R208). -/
def execRouterInputPost (c : CoreId) (tag : Fin 32) (s : State) : Host.Outcome State Fault Refusal :=
  .next (s.routerPost c.val tag.val)

/-- The row SCORING_START (06 R210). -/
def execScoringStart (sl : Fin 8) (x : XDie) (s : State) : Host.Outcome State Fault Refusal :=
  .next (s.scoringStart sl.val x.val)

/-- The row COUNT_ROUND_START (06 R222). -/
def execCountRoundStart (sl : Fin 8) (s : State) : Host.Outcome State Fault Refusal := .next (s.countRound sl.val)

/-- The row COUNT_PACKET (06 R223). -/
def execCountPacket (x : XDie) (k : Pkt) (data : Bytes) (s : State) : Host.Outcome State Fault Refusal :=
  .next (s.takeExchange x.val 0 k data)

/-- The row PREFIX_PACKET (06 R224). -/
def execPrefixPacket (x : XDie) (k : Pkt) (data : Bytes) (s : State) : Host.Outcome State Fault Refusal :=
  .next (s.takeExchange x.val 1 k data)

/-- The row ABORT_PACKET (06 R242). -/
def execAbortPacket (x : XDie) (k : Pkt) (data : Bytes) (s : State) : Host.Outcome State Fault Refusal :=
  .next (s.takeExchange x.val 2 k data)

/-- STEP_PAIR_EXPIRY: the oldest pair is forgotten 1,000,000 ticks after its step. -/
def State.expirePair (s : State) : State := match s.pairs with
  | (_, _, t) :: rest => if t + 1000000 ≤ s.now ∧ s.moves then { s with pairs := rest } else s
  | [] => s

/-- The row STEP_PAIR_EXPIRY (06 R244). -/
def execStepPairExpiry (s : State) : Host.Outcome State Fault Refusal := .next s.expirePair

end Sys2Proof.Machine
end

