-- ==== Sys2Proof/Machine/Forecast.lean ====
section
/-! DEFINITION. Forecast (08): requests, the window and the pins, scoring by segments, and selection lists. -/

namespace Sys2Proof.Machine

open Sys2Proof

/-- The Forecast sequencer of an X-die. -/
def fcUnit (x : Nat) : Nat := xUnit x 0x17

/-- A fault of a Forecast request: detail word 0 is the descriptor's address; words that no rule defines are free. -/
def State.fcRecord (s : State) (x code desc : Nat) (d1 d2 d3 : Option Nat := none) : FaultRec :=
  let r := s.recordOpen code (fcUnit x) 0
  let or_ (o : Option Nat) (w : Word) : Word := (o.map (BitVec.ofNat 64)).getD w
  { r with d0 := BitVec.ofNat 64 desc, d1 := or_ d1 r.d1, d2 := or_ d2 r.d2, d3 := or_ d3 r.d3 }

/-! ## Descriptors (08 R286, R287) -/

/-- A Forecast descriptor, 128 bytes. -/
def fcDescOf (bs : Bytes) : FcDesc where
  nblk := field bs 0 4
  capBlk := field bs 4 4
  lastFill := field bs 8 1
  hgroups := field bs 9 1
  rows := field bs 10 1
  window := field bs 11 1
  segments := field bs 12 1
  kseg := field bs 13 1
  fmt := BitVec.ofNat 4 (field bs 14 1)
  sem := BitVec.ofNat 8 (field bs 15 1)
  pinCount := field bs 16 2
  hgBytes := field bs 20 4
  wrap := field bs 24 2
  pages := field bs 32 8
  sums := field bs 40 8
  probes := field bs 48 8
  pins := field bs 56 8
  out := field bs 64 8
  outStride := field bs 72 4

/-- MAXSEL, the size of a list, and L, the length of the scorable range. -/
def FcDesc.maxSel (d : FcDesc) : Nat := d.window + d.pinCount + d.segments * d.kseg
def FcDesc.listSize (d : FcDesc) : Nat := 64 + 16 * d.maxSel + roundUp (4 * d.maxSel) 64
def FcDesc.scorable (d : FcDesc) : Nat := d.nblk - min d.nblk d.window

/-- An address lies in HBM, a slice's scratchpad window or a core window (01 R25 to R27). -/
def State.inWindows (s : State) (a : Nat) : Bool :=
  a < regionUnit * s.hbmUnits || (llmBase ≤ a && a < llmBase + 8 * 0x6000000) ||
  (coreBase ≤ a && a < coreBase + 4608 * 0x200000)

/-- An address of a Forecast descriptor. -/
def State.fcAddr (s : State) (a align : Nat) : Bool :=
  let w : Word := BitVec.ofNat 64 a
  canonical w && gPkg w = s.self && s.inWindows (gLocal w) && a % align = 0

/-- The descriptor passes R287. -/
def State.fcDescOk (s : State) (bs : Bytes) : Bool :=
  let d := fcDescOf bs
  1 ≤ d.nblk && d.nblk ≤ 131072 && d.capBlk % 64 = 0 && d.nblk ≤ d.capBlk && d.capBlk ≤ 131072 &&
  1 ≤ d.lastFill && d.lastFill ≤ 64 && 1 ≤ d.hgroups && d.hgroups ≤ 16 && 1 ≤ d.rows && d.rows ≤ 16 &&
  1 ≤ d.window && d.window ≤ 64 && 1 ≤ d.segments && d.segments ≤ 64 && d.kseg ≤ 64 &&
  (field bs 14 1 = 2 || field bs 14 1 = 3) && !d.sem.getLsbD 6 && d.pinCount ≤ 4096 && field bs 18 2 = 0 &&
  d.hgBytes % 64 = 0 && 64 ≤ d.hgBytes && d.hgBytes ≤ 65536 && 1 ≤ d.wrap && d.wrap ≤ 4096 &&
  allZero ((bs.drop 26).take 6) && allZero (bs.drop 76) &&
  s.fcAddr d.pages 64 && s.fcAddr d.sums 64 && s.fcAddr d.probes 64 && s.fcAddr d.out 64 &&
  (if d.pinCount = 0 then decide (d.pins = 0) else s.fcAddr d.pins 4) && d.outStride % 64 = 0 &&
  d.maxSel ≤ 4096 && d.wrap * d.hgBytes ≤ 2 ^ 20 && d.listSize ≤ d.outStride &&
  cdiv d.scorable d.segments ≤ 65536

/-! ## Arming and starting (08 R285, R287, R288) -/

/-- A request is armed in a slot, or faults before any effect. -/
def State.armFc (s : State) (p sl : Nat) (i : Item) : State :=
  if s.waitsFor p [(gLocal i.arg, 128)] then s
  else match s.unitRead p (fcUnit 0) (gLocal i.arg) 128 with
  | (.error e, s) => s.raise p e
  | (.ok bs, s) =>
    let late := s.xLate i.equinox
    if !s.fcDescOk bs then s.raise p (s.fcRecord 0 0x030D i.arg.toNat)
    else match (if (s.partition p).calm then s.lateDie i.equinox i.window else none) with
    | some x => s.raise p (s.lateRecord (fcUnit x) (s.xNow x) i.equinox)
    | none =>
      let f : Fc := { part := p, pos := i.pos, desc := i.arg.toNat, d := fcDescOf bs, equinox := i.equinox, deadline := i.deadline, late := late, phase := 1, pinList := [], scored := [], kept := [], hg := 0, lists := 0, seq := s.nextSeq }
      { s with forecasts := Tab.put s.forecasts sl f }.updItem p i.pos fun i => { i with armed := true, slot := sl }

/-- FORECAST_ARM: the next request of a ring takes a free slot. -/
def State.forecastArm (s : State) (p : Nat) : State :=
  let x := s.partition p
  let sl := (List.range 16).find? fun i => (Tab.get? s.forecasts i).isNone
  match (if x.state = .active ∧ s.moves then x.ring.items.find? fun i => i.type = .forecast && !i.armed else none), sl with
  | some i, some sl => s.armFc p sl i
  | _, _ => s

/-- The position of the first pin that R288 refuses. -/
def badPin (nblk : Nat) (l : List Nat) : Option Nat :=
  (List.range l.length).find? fun i => l.getD i 0 ≥ nblk || (i ≠ 0 && l.getD i 0 ≤ l.getD (i - 1) 0)

/-- FORECAST_START: at EQUINOX, on X0's copy, the sequencer there reads the pin list. -/
def State.forecastStart (s : State) (sl : Nat) : State :=
  match s.fc? sl with
  | none => s
  | some f =>
    if f.phase ≠ 1 ∨ s.xNow 0 < f.equinox ∨ s.waitsFor f.part [(loc f.d.pins, 4 * f.d.pinCount)] then s
    else match s.unitRead f.part (fcUnit 0) (loc f.d.pins) (4 * f.d.pinCount) with
      | (.error e, s) => s.raise f.part e
      | (.ok bs, s) =>
        let pins := (List.range f.d.pinCount).map fun i => field bs (4 * i) 4
        match badPin f.d.nblk pins with
        | some i => s.raise f.part (s.fcRecord 0 0x030D f.desc (some i))
        | none => (s.updItem f.part f.pos fun i => { i with started := true }).updFc sl fun f =>
            Fc.settle { f with phase := 2, pinList := pins }

/-! ## Scoring (08 R291 to R294) -/

/-- The candidates of a segment. -/
def Fc.cands (f : Fc) (g : Nat) : List Nat :=
  let l := f.d.scorable
  let a := g * l / f.d.segments
  let b := (g + 1) * l / f.d.segments
  ((List.range (b - a)).map (a + ·)).filter fun i => !f.pinList.contains i

/-- The score of a probe and a summary. -/
def fcScore (probe summ : List Val) : Nat := logitGo 2 (probe.zip summ) 0

/-- The values of 128 elements. -/
def fcVals (fmt : Nat) (bs : Bytes) : List Val := (List.range 128).map fun i => elemVal fmt (field bs i 1)

/-- A value is NaN or infinite. -/
def Val.open_ : Val → Bool
  | .fin _ _ _ => false
  | _ => true

/-- The KSEG candidates of highest score, from (block, score) pairs in rising order of block. -/
def fcTop (n : Nat) (l : List (Nat × Nat)) : List (Nat × Nat) := (l.mergeSort fun a b => scoreLe a.2 b.2).take n

/-- The scores of one candidate for every row, or the fault of R294. -/
def State.fcCand (s : State) (x : Nat) (f : Fc) (h : Nat) (probes : List (List Val)) (b : Nat) : Try (List Nat) :=
  tryThen (s.unitRead f.part (fcUnit x) (loc f.d.sums + (h * f.d.capBlk + b) * 128) 128) fun bs s =>
    let v := fcVals f.d.fmt.toNat bs
    let sc := probes.map fun p => fcScore p v
    match (List.range probes.length).find? fun r =>
        v.any Val.open_ || (probes.getD r []).any Val.open_ || nonFinite fp32 (sc.getD r 0) with
    | some r => (.error (s.fcRecord x 0x030E f.desc (some b) (some (r + h * 256))), s)
    | none => (.ok sc, s)

/-- What the scoring of a segment reads (15 R508). -/
def Fc.segAreas (f : Fc) (h g : Nat) : List (Nat × Nat) :=
  (loc f.d.probes + h * f.d.rows * 128, f.d.rows * 128) ::
  (f.cands g).map fun b => (loc f.d.sums + (h * f.d.capBlk + b) * 128, 128)

/-- FORECAST_SEGMENT: the die's next segment is scored, and each row keeps its best. -/
def State.forecastSegment (s : State) (sl x : Nat) : State :=
  match s.fc? sl with
  | none => s
  | some f =>
    match (if f.equinox ≤ s.xNow x then f.todo x else []) with
    | [] => s
    | (h, g) :: _ =>
      if s.fcFirst x f.equinox f.seq ∨ s.steps.any fun e => !e.2.faulted && s.mayScore x e.2 &&
          (e.2.equinox < f.equinox || (e.2.equinox = f.equinox && e.2.seq < f.seq)) then s
      else if s.waitsFor f.part (f.segAreas h g) then s
      else
        let cs := f.cands g
        let r := tryThen (s.unitRead f.part (fcUnit x) (loc f.d.probes + h * f.d.rows * 128) (f.d.rows * 128)) fun pb s =>
          let probes := (List.range f.d.rows).map fun r => fcVals f.d.fmt.toNat ((pb.drop (r * 128)).take 128)
          tryList (fun b s => s.fcCand x f h probes b) cs s
        tryRaise f.part r fun sc s =>
          let kept := (List.range f.d.rows).flatMap fun r =>
            (fcTop f.d.kseg (cs.zip (sc.map fun l => l.getD r 0))).map fun e => (h, r, e.1, BitVec.ofNat 32 e.2)
          let (n, s) := s.draw
          let s := s.updXdie x fun d => { d with scoreBusy := satAdd d.scoreBusy n }
          let s := { s with fcScored := satAdd s.fcScored cs.length }
          s.updFc sl fun f =>
            let f := { f with scored := (h, g) :: f.scored, kept := f.kept ++ kept }
            let open_ := [0, 1, 2, 3].flatMap f.todo
            Fc.settle { f with hg := (open_.map (·.1)).foldl min (f.d.hgroups - 1) }

/-! ## Selection lists (08 R295 to R298) -/

/-- Every die has drained a head group. -/
def Fc.drained (f : Fc) (h : Nat) : Bool := [0, 1, 2, 3].all fun x => (f.todo x).all fun e => e.1 ≠ h

/-- The selected blocks of a row and head group, in rising order: the block, in the window, pinned. -/
def Fc.selected (f : Fc) (h r : Nat) : List (Nat × Bool × Bool) :=
  let l := f.d.scorable
  let pins := (f.pinList.filter (· < l)).map fun b => (b, false, true)
  let kept := (f.kept.filter fun e => e.1 = h && e.2.1 = r).map fun e => (e.2.2.1, false, false)
  let window := (List.range (f.d.nblk - l)).map fun i => (l + i, true, false)
  (pins ++ kept).mergeSort (fun a b => a.1 ≤ b.1) ++ window

/-- The lowest of the scores kept: the last in rank. -/
def Fc.threshold (f : Fc) (h r : Nat) : Nat :=
  ((f.kept.filter fun e => e.1 = h && e.2.1 = r).map fun e => e.2.2.2.toNat).foldl
    (fun (acc : Option Nat) v => match acc with
      | none => some v
      | some a => if (fp32.decode v).lt (fp32.decode a) then some v else some a) none |>.getD 0

/-- The header of a list. -/
def Fc.header (f : Fc) (h r : Nat) : Bytes :=
  let l := f.selected h r
  let w := l.countP (·.2.1)
  let n := l.countP (·.2.2)
  leBytes 4 l.length ++ leBytes 2 w ++ leBytes 2 n ++ leBytes 2 (l.length - w - n) ++ leBytes 1 r ++ leBytes 1 h ++
    zeros 4 ++ leBytes 4 (f.threshold h r) ++ zeros 44

/-- The page entry is one that R298 refuses. -/
def badPage (bs : Bytes) : Bool :=
  !bit (field bs 8 2) 0 || field bs 0 8 % 64 ≠ 0 || bit (field bs 0 8) 63 || fld (field bs 8 2) 15 1 ≠ 0 ||
    !allZero (bs.drop 10)

/-- One entry of a list: its page entry is read, and its gather entry and index entry are written. -/
def State.fcEntry (s : State) (f : Fc) (at_ h : Nat) (i : Nat) (e : Nat × Bool × Bool) : Try Unit :=
  tryThen (s.unitRead f.part (fcUnit 0) (loc f.d.pages + (h * f.d.capBlk + e.1) * 16) 16) fun bs s =>
    if badPage bs then (.error (s.fcRecord 0 0x030F f.desc (some e.1) (some h) (some (field bs 0 8))), s)
    else
      let tokens := if e.1 + 1 = f.d.nblk then f.d.lastFill else 64
      let index := e.1 + tokens * 2 ^ 17 + e.2.1.toNat * 2 ^ 24 + e.2.2.toNat * 2 ^ 25
      tryThen (s.unitWrite f.part (fcUnit 0) (at_ + 64 + 16 * i)
        (bs.take 8 ++ leBytes 4 (i % f.d.wrap * f.d.hgBytes) ++ leBytes 4 f.d.hgBytes)) fun _ s =>
          s.unitWrite f.part (fcUnit 0) (at_ + 64 + 16 * f.d.maxSel + 4 * i) (leBytes 4 index)

/-- X0 has a list of the request to assemble. -/
def Fc.mayAssemble (f : Fc) : Bool := (f.phase = 2 || f.phase = 3) && f.lists < f.total && f.drained (f.lists / max 1 f.d.rows)

/-- What the assembly of a list reads and writes (15 R508). -/
def Fc.listAreas (f : Fc) (at_ h r : Nat) : List (Nat × Nat) :=
  (at_, f.d.listSize) :: (f.selected h r).map fun e => (loc f.d.pages + (h * f.d.capBlk + e.1) * 16, 16)

/-- FORECAST_LIST_ASSEMBLY: X0 writes the next list, its header last; requests share the assembly in the order of R245. -/
def State.forecastList (s : State) (sl : Nat) : State :=
  match s.fc? sl with
  | none => s
  | some f =>
    let h := f.lists / max 1 f.d.rows
    let r := f.lists % max 1 f.d.rows
    let at_ := loc f.d.out + (h * f.d.rows + r) * f.d.outStride
    if !f.mayAssemble ∨ (s.forecasts.any fun e => e.2.mayAssemble && f.after e.2) ∨
        s.waitsFor f.part (f.listAreas at_ h r) then s
    else
      let l := f.selected h r
      tryRaise f.part (tryThen (tryList (fun e s => s.fcEntry f at_ h e.1 e.2) ((List.range l.length).zip l) s) fun _ s =>
          s.unitWrite f.part (fcUnit 0) at_ (f.header h r)) fun _ s =>
        s.updFc sl fun f => Fc.settle { f with lists := f.lists + 1 }

/-- FORECAST_COMPLETE: the last header is acknowledged; the slot frees (08 R299). -/
def State.forecastComplete (s : State) (sl : Nat) : State :=
  match s.fc? sl with
  | none => s
  | some f =>
    if f.phase ≠ 4 ∨ s.xNow 0 > f.deadline then s
    else
      let s := { s with forecasts := Tab.del s.forecasts sl, fcRequests := satAdd s.fcRequests 1 }
      let s := s.finishItem f.part f.pos (s.xNow 0) f.late
      if f.d.sem.getLsbD 7 then s.semAdd f.part (f.d.sem.toNat % 64) 1 (fcUnit 0) else s

/-- DEADLINE_MISSED of a request (02 R68). -/
def State.fcMissed (s : State) (sl : Nat) : State :=
  match s.fc? sl with
  | none => s
  | some f =>
    match s.missedDie f.deadline fun x => f.phase ≠ 1 && (f.todo x).isEmpty with
    | some x => if f.phase = 5 then s else s.raise f.part (s.deadlineRecord (fcUnit x) (s.xNow x) f.deadline f.equinox)
    | none => s

/-! ## The commands -/

/-- The row FORECAST_ARM (08 R285). -/
def execForecastArm (p : PartId) (s : State) : Host.Outcome State Fault Refusal := .next (s.forecastArm p.val)

/-- The row FORECAST_START (08 R303). -/
def execForecastStart (f : Fin 16) (s : State) : Host.Outcome State Fault Refusal := .next (s.forecastStart f.val)

/-- The row FORECAST_SEGMENT (08 R293). -/
def execForecastSegment (f : Fin 16) (x : XDie) (s : State) : Host.Outcome State Fault Refusal :=
  .next (s.forecastSegment f.val x.val)

/-- The row FORECAST_LIST_ASSEMBLY (08 R295). -/
def execForecastListAssembly (f : Fin 16) (s : State) : Host.Outcome State Fault Refusal := .next (s.forecastList f.val)

/-- The row FORECAST_COMPLETE (08 R299). -/
def execForecastComplete (f : Fin 16) (s : State) : Host.Outcome State Fault Refusal := .next (s.forecastComplete f.val)

end Sys2Proof.Machine
end

