-- ==== Sys2Proof/Machine/Experts.lean ====
section
/-! DEFINITION. Token rows on their way to the experts (06 R233 to R241): row encoding, dispatch, placement in batches,
the reassembly store, and the completion of a batch. -/

namespace Sys2Proof.Machine

open Sys2Proof

/-! ## Encoded rows (06 R235, R236) -/

/-- Bytes of an element of a row: router input formats and return formats. -/
def rowElem (fmt : Nat) : Nat := elemBits fmt / 8

/-- Bytes of the bitmap of a row of `n` elements: one bit for 16 elements, padded to 8 bytes. -/
def rowBitmap (n : Nat) : Nat := roundUp (cdiv (n / 16) 8) 8

/-- The encoded form of a row, and whether it is the compressed one. -/
def encodeRow (fmt n : Nat) (bs : Bytes) : Bool × Bytes :=
  let z := rowElem fmt
  let group (g : Nat) : Bytes := (bs.drop (g * 16 * z)).take (16 * z)
  let live := (List.range (n / 16)).filter fun g =>
    (List.range 16).any fun i => !elemZero fmt (field (group g) (i * z) z)
  let comp := leBytes (rowBitmap n) ((live.map fun g => 2 ^ g).sum) ++ live.flatMap group
  if comp.length > bs.length then (false, bs) else (true, comp)

/-- The groups of a compressed row in turn: a group left out is zero bytes. -/
def expandGroups (z bits : Nat) : Nat → Nat → Bytes → Bytes
  | 0, _, _ => []
  | n + 1, g, bs =>
    if bits.testBit g then padTo (16 * z) bs ++ expandGroups z bits n (g + 1) (bs.drop (16 * z))
    else zeros (16 * z) ++ expandGroups z bits n (g + 1) bs

/-- The dense row of a compressed one. -/
def expandRow (fmt n : Nat) (bs : Bytes) : Bytes :=
  expandGroups (rowElem fmt) (field bs 0 (rowBitmap n)) (n / 16) 0 (bs.drop (rowBitmap n))

/-- Chunks of 480 bytes. -/
def chunksOf : Nat → Bytes → List Bytes
  | 0, _ => []
  | n + 1, bs => bs.take 480 :: chunksOf n (bs.drop 480)

/-- The packets' data of an encoded row: a header with its chunk number and flags, and the chunk. -/
def rowPackets (head : Nat → Nat → Bytes) (comp : Bool) (enc : Bytes) : List Bytes :=
  let n := cdiv enc.length 480
  (chunksOf n enc).mapIdx fun i c => head i ((decide (i + 1 = n)).toNat + comp.toNat * 2) ++ c

/-! ## Dispatch (06 R233 to R235) -/

/-- The rank of a destination in the dispatcher's rotation: it starts after the source's own key. -/
def Step.rotation (st : Step) (self : PkgId) (pkg : PkgId) : Nat :=
  let n := st.members.length
  (st.members.idxOf pkg + n - st.members.idxOf self - 1) % max 1 n

/-- A choice was admitted and has not been sent. -/
def Choice.waiting (c : Choice) : Bool := !c.sent && match c.state with
  | .admitted _ => true
  | _ => false

/-- The order of the sorter and the dispatcher on a die. -/
def Step.sortKey (st : Step) (self : PkgId) (c : Choice) : Nat :=
  ((c.round * 65536 + st.rotation self c.pkg) * 2 ^ 20 + c.row) * 16 + c.rank

/-- The next choice that the dispatcher of X-die `x` sends. -/
def Step.nextChoice (st : Step) (self : PkgId) (x : Nat) : Option Choice :=
  (st.choices.filter fun c => c.waiting && st.d.dieOf c.row = x).foldl (fun acc c => match acc with
    | none => some c
    | some b => if st.sortKey self c < st.sortKey self b then some c else some b) none

/-- The dispatcher of an X-die has something to send for a step. -/
def Step.mayDispatch (x : Nat) (st : Step) : Bool :=
  (st.choices.any fun c => c.waiting && st.d.dieOf c.row = x) ||
  st.returning.any fun e => e.1 % 4 = x && e.2.1 < st.batchRows e.1

/-- A dispatch header. -/
def Step.dispatchHead (st : Step) (self : PkgId) (c : Choice) (row len i flags : Nat) : Bytes :=
  leBytes 16 (st.tag self c).toNat ++ leBytes 2 row ++ leBytes 1 c.slot ++ [0] ++ leBytes 2 i ++ leBytes 1 flags ++ [0] ++
  leBytes 4 len ++ leBytes 2 st.d.group.toNat ++ [0, 0]

/-- DISPATCH_CHOICE on an X-die. -/
def State.dispatchChoice (s : State) (sl x : Nat) : State :=
  match s.step? sl with
  | none => s
  | some st =>
    match st.nextChoice s.self x with
    | none => s
    | some c =>
      if !s.stageFirst st (Step.mayDispatch x) ∨
          s.waitsFor st.part [(loc st.d.routerIn + c.row * st.d.rowBytes, st.d.rowBytes)] then s
      else
        let row := match c.state with
          | .admitted r => r
          | _ => 0
        stepEnd st x (s.unitRead st.part (xUnit x uDispatcher) (loc st.d.routerIn + c.row * st.d.rowBytes) st.d.rowBytes)
          fun bs s =>
            let key := x * 65536 + c.pkg.toNat
            let n := Tab.get 0 st.sentTo key
            let (comp, enc) := encodeRow st.d.fmtIn.toNat st.d.width bs
            let at_ := dispatchPort (c.slot % 4) + n % 2 * 64
            let s := (rowPackets (st.dispatchHead s.self c row enc.length) comp enc).foldl (fun s d =>
              s.newXact (monWrite c.pkg (xUnit x uDispatcher) at_ d) d (.monsoon sl) st.part) s
            let (stall, s) := s.draw
            let s := s.updXdie x fun d => { d with
              choicesOut := satAdd d.choicesOut 1, dispatchStall := satAdd d.dispatchStall stall }
            s.updStep sl fun st => { st with
              sentTo := Tab.put st.sentTo key (n + 1)
              choices := st.choices.map fun y => if y.row = c.row ∧ y.rank = c.rank then { y with sent := true } else y }

/-- The row DISPATCH_CHOICE (06 R235). -/
def execDispatchChoice (sl : Fin 8) (x : XDie) (s : State) : Host.Outcome State Fault Refusal :=
  .next (s.dispatchChoice sl.val x.val)

/-! ## The reassembly store (06 R239) -/

/-- Bytes reserved in the store of an X-die. -/
def XDieState.reserved (d : XDieState) : Nat := (d.reassembly.map (·.dense)).sum

/-- A chunk of a compressed row goes to the store: `none` when the store cannot reserve the row; the encoded row when it
is whole, and its reservation is freed. -/
def State.reassemble (s : State) (x sl : Nat) (key : Nat × Nat) (dense chunk : Nat) (last : Bool) (bs : Bytes) :
    Option (Option Bytes × State) :=
  let d := s.xdie x
  let is (r : Reassembly) : Bool := r.stepSlot = sl && r.key = key
  let put (r : Reassembly) : Option Bytes × State :=
    let r := if r.chunks.any fun c => c.1 = chunk then r
      else { r with chunks := r.chunks ++ [(chunk, bs)], last := if last then some chunk else r.last }
    let rest := d.reassembly.filter fun r => !is r
    let whole : Option Bytes := match r.last with
      | none => none
      | some m =>
        let l := (List.range (m + 1)).map fun i => (r.chunks.find? fun c => c.1 = i).map (·.2)
        if l.all (·.isSome) then some ((l.filterMap id).flatten) else none
    match whole with
    | some enc => (some enc, s.updXdie x fun d => { d with reassembly := rest })
    | none => (none, s.updXdie x fun d => { d with reassembly := rest ++ [r] })
  match d.reassembly.find? is with
  | some r => some (put r)
  | none => if d.reserved + dense > 0x200000 then none else some (put ⟨key, sl, dense, [], none⟩)

/-! ## Receiving (06 R237) -/

/-- The fields of a dispatch or return header that both have. -/
structure ChunkHead where
  tag : BitVec 128
  row : Nat
  slot : Nat
  fmt : Nat
  chunk : Nat
  last : Bool
  comp : Bool
  length : Nat
  group : BitVec 12
  body : Bytes
deriving DecidableEq, Repr

def chunkHead (data : Bytes) : ChunkHead where
  tag := BitVec.ofNat 128 (field data 0 16)
  row := field data 16 2
  slot := field data 18 1
  fmt := field data 19 1
  chunk := field data 20 2
  last := bit (field data 22 1) 0
  comp := bit (field data 22 1) 1
  length := field data 24 4
  group := BitVec.ofNat 12 (field data 28 2)
  body := data.drop 32

/-- Fields of a tag (07 R249). -/
def tagSource (t : BitVec 128) : PkgId := t.extractLsb' 113 15
def tagToken (t : BitVec 128) : Nat := fld t.toNat 112 73
def tagRank (t : BitVec 128) : Nat := fld t.toNat 72 69
def tagStep (t : BitVec 128) : BitVec 16 := t.extractLsb' 23 16

/-- The address of a row of a slot's batch, when a buffer for it has been taken. -/
def State.batchRow (s : State) (st : Step) (slot row : Nat) : Option Nat :=
  match s.recvPool st.part (Tab.get ⟨0, false, 0, 0, 0⟩ st.slots slot) with
  | none => none
  | some pool =>
    let per := max 1 (pool.bufSize / st.d.rowStride)
    ((Tab.get [] st.buffers slot)[row / per]?).map fun a => a + row % per * st.d.rowStride

/-- A row of a batch is whole. -/
def State.rowIn (s : State) (sl x slot row : Nat) : State :=
  (s.updXdie x fun d => { d with rowsIn := satAdd d.rowsIn 1 }).updStep sl fun st =>
    { st with rxRows := (slot, row) :: st.rxRows }

/-- A dense chunk is placed with the row's tag. -/
def State.placeDense (s : State) (sl x : Nat) (st : Step) (h : ChunkHead) (at_ : Nat) : State :=
  if h.chunk * 480 + h.body.length > st.d.rowBytes then s
  else
    let unit := xUnit x uReceiver
    stepEnd st x (tryThen (s.unitWrite st.part unit at_ (leBytes 16 h.tag.toNat ++ zeros 48)) fun _ s =>
      s.unitWrite st.part unit (at_ + 64 + h.chunk * 480) h.body) fun _ s =>
        let s := s.updStep sl fun st => { st with rxChunks := (h.slot, h.row, h.chunk) :: st.rxChunks }
        let got := (st.rxChunks.countP fun e => e.1 = h.slot && e.2.1 = h.row) + 1
        if cdiv st.d.rowBytes 480 ≤ got then s.rowIn sl x h.slot h.row else s

/-- A chunk for an armed step: `none` for BUSY. A chunk for no hosted slot or for a row without a buffer is discarded. -/
def State.onDispatch (s : State) (sl x : Nat) (st : Step) (h : ChunkHead) : Option State :=
  let e := Tab.get ⟨0, false, 0, 0, 0⟩ st.slots h.slot
  match (if e.valid ∧ h.slot % 4 = x then s.batchRow st h.slot h.row else none) with
  | none => some s
  | some at_ =>
    if st.rxRows.contains (h.slot, h.row) ∨ st.rxChunks.contains (h.slot, h.row, h.chunk) then some s
    else if !h.comp then some (s.placeDense sl x st h at_)
    else match s.reassemble x sl (h.slot, h.row) st.d.rowBytes h.chunk h.last h.body with
      | none => none
      | some (none, s) => some s
      | some (some enc, s) =>
        let row := padTo st.d.rowBytes (expandRow st.d.fmtIn.toNat st.d.width enc)
        some (stepEnd st x (s.unitWrite st.part (xUnit x uReceiver) at_ (leBytes 16 h.tag.toNat ++ zeros 48 ++ row))
          fun _ s => s.rowIn sl x h.slot h.row)

/-- A packet of a Monsoon port leaves its buffer. -/
def State.takeMon (s : State) (k : Pkt) (data : Bytes) (lo : Nat) : Option (State × ChunkHead) :=
  let ok : Bool := k.op = 2 && vcOf k.op.toNat k.srcUnit.toNat = 4 && lo ≤ k.addr.toNat && k.addr.toNat < lo + 0x8000
  match (if ok ∧ s.operational then s.findRx k data else none) with
  | none => none
  | some e => some (s.takeRx e, chunkHead (e.2.2.2.take k.length.toNat))

/-- DISPATCH_PORT_WRITE. A chunk of no armed step is acknowledged and discarded (06 R243; log entry 33). -/
def State.dispatchWrite (s0 : State) (x : Nat) (k : Pkt) (data : Bytes) : State :=
  match s0.takeMon k data (dispatchPort x) with
  | none => s0
  | some (s, h) =>
    match s.stepOf h.group (tagStep h.tag) with
    | none => s.reply k 0x81 0 0 []
    | some (sl, st) =>
      if s.waitsFor st.part (((s.batchRow st h.slot h.row).map fun a => (a, st.d.rowStride)).toList) then s0
      else match s.onDispatch sl x st h with
      | some s => s.reply k 0x81 0 0 []
      | none => s.reply k 0x81 6 0 []

/-- The row DISPATCH_PORT_WRITE (06 R237). -/
def execDispatchPortWrite (x : XDie) (k : Pkt) (data : Bytes) (s : State) : Host.Outcome State Fault Refusal :=
  .next (s.dispatchWrite x.val k data)

/-! ## Batches (06 R237, R240) -/

/-- Every row of a slot's batch is in, and the batch has not been completed. -/
def Step.batchDue (st : Step) (slot : Nat) : Bool :=
  (Tab.get ⟨0, false, 0, 0, 0⟩ st.slots slot).valid && st.nFinal.contains (slot % 4) &&
  ((List.range (st.batchRows slot)).all fun r => st.rxRows.contains (slot, r)) && !st.batchDone.contains slot

/-- The receiver of an X-die has a batch to complete. -/
def Step.mayComplete (x : Nat) (st : Step) : Bool := (List.range 256).any fun slot => slot % 4 = x && st.batchDue slot

/-- BATCH_COMPLETE: the batch record is written and SEM signalled; the receiver serves steps in the order of R245. -/
def State.batchComplete (s : State) (sl slot : Nat) : State :=
  match s.step? sl with
  | none => s
  | some st =>
    let e := Tab.get ⟨0, false, 0, 0, 0⟩ st.slots slot
    let n := st.batchRows slot
    let x := slot % 4
    if !st.batchDue slot ∨ !s.stageFirst st (Step.mayComplete x) ∨ s.waitsFor st.part [(loc e.batch, 64)] then s
    else
      let rec_ := leBytes 4 n ++ leBytes 4 (Tab.get [] st.buffers slot).length ++ leBytes 4 st.d.rowStride ++ zeros 52
      stepEnd st x (s.unitWrite st.part (xUnit x uReceiver) (loc e.batch) rec_) fun _ s =>
        (s.updStep sl fun st => { st with batchDone := slot :: st.batchDone }).semAdd st.part e.sem 1 (xUnit x uReceiver)

/-- The row BATCH_COMPLETE (06 R237). -/
def execBatchComplete (sl : Fin 8) (slot : Fin 256) (s : State) : Host.Outcome State Fault Refusal :=
  .next (s.batchComplete sl.val slot.val)

end Sys2Proof.Machine
end

