-- ==== Sys2Proof/Machine/Returns.lean ====
section
/-! DEFINITION. The way back (07): returns of expert results, their placement at the source, the combine, completion and
commit of a step. -/

namespace Sys2Proof.Machine

open Sys2Proof

/-! ## Launching a return (07 R256 to R258) -/

/-- A return record. -/
structure ReturnRec where
  slot : Nat
  fmt : Nat
  out : Nat
  stride : Nat
  zero : Bool
deriving DecidableEq, Repr

def returnRecOf (bs : Bytes) : ReturnRec where
  slot := field bs 0 1
  fmt := field bs 1 1
  out := field bs 8 8
  stride := field bs 16 4
  zero := allZero ((bs.drop 2).take 6) && allZero (bs.drop 20)

/-- The record passes R257 for a step. -/
def State.returnOk (s : State) (st : Step) (r : ReturnRec) : Bool :=
  r.zero && outFmtOk r.fmt && s.descAddr r.out && r.stride % 64 = 0 && st.d.width * retSize r.fmt ≤ r.stride &&
  (Tab.get ⟨0, false, 0, 0, 0⟩ st.slots r.slot).valid && (Tab.get? st.returns r.slot).isNone

/-- A RETURN entry launches: the return of its slot is noted, or RETURN_RECORD is raised. A fault is noted in
MON_LAST_FAULT, with a free STEP where no armed step is named (06 R248; log entry 2). -/
def State.launchReturn (s : State) (p : Nat) (i : Item) : State :=
  let bad (s : State) (x : Nat) (step : BitVec 16) : State :=
    (s.noteMonFault x step 0x030C).raise p
      { s.recordOpen 0x030C (xUnit x uDispatcher) (s.global i.param.toNat) with d0 := i.arg }
  let armed := s.steps.find? fun e => !e.2.faulted && e.2.part = p && e.2.desc = i.arg.toNat
  let (n, s) := s.draw
  let step := (armed.map fun e => e.2.d.step).getD (BitVec.ofNat 16 n)
  match s.unitRead p (xUnit 0 uDispatcher) i.param.toNat 32 with
  | (.error e, s) => (s.noteMonFault 0 step e.code.toNat).raise p e
  | (.ok bs, s) =>
    let r := returnRecOf bs
    match armed with
    | none => bad s (r.slot % 4) step
    | some (sl, st) =>
      if !s.returnOk st r then bad s (r.slot % 4) st.d.step
      else
        (s.updStep sl fun st => { st with returns := Tab.put st.returns r.slot (i.pos, loc r.out, r.stride, r.fmt) }).updItem
          p i.pos fun i => { i with started := true, slot := sl }

/-- RETURN_START: the launch and the batch are both there. -/
def State.returnStart (s : State) (sl slot : Nat) : State :=
  match s.step? sl with
  | none => s
  | some st =>
    if (Tab.get? st.returns slot).isNone ∨ !st.batchDone.contains slot ∨ (Tab.get? st.returning slot).isSome then s
    else (s.updStep sl fun st => { st with returning := Tab.put st.returning slot (0, 0) }).endReturn sl slot

/-- The row RETURN_START (07 R258). -/
def execReturnStart (sl : Fin 8) (slot : Fin 256) (s : State) : Host.Outcome State Fault Refusal :=
  .next (s.returnStart sl.val slot.val)

/-! ## Sending results (07 R259, R260) -/

/-- The local address of the return port of an X-die (07 R261). -/
def returnPort (x : Nat) : Nat := monBase x + 0x20000

/-- The tag of a batch row is one that R259 refuses. -/
def Step.badTag (st : Step) (t : BitVec 128) : Bool :=
  tagStep t ≠ st.d.step || t.getLsbD 22 || t.toNat % 2 ^ 20 ≠ 0 || tagRank t ≥ st.d.k || !st.members.contains (tagSource t)

/-- A return header. -/
def Step.returnHead (st : Step) (t : BitVec 128) (row slot fmt len i flags : Nat) : Bytes :=
  leBytes 16 t.toNat ++ leBytes 2 row ++ leBytes 1 slot ++ leBytes 1 fmt ++ leBytes 2 i ++ leBytes 1 flags ++ [0] ++
  leBytes 4 len ++ leBytes 2 st.d.group.toNat ++ [0, 0]

/-- RETURN_ROW_SEND: the next row of a slot. -/
def State.returnRow (s : State) (sl slot : Nat) : State :=
  match s.step? sl with
  | none => s
  | some st =>
    match Tab.get? st.returning slot, Tab.get? st.returns slot with
    | some (row, left), some (_, out, stride, fmt) =>
      let x := slot % 4
      let unit := xUnit x uDispatcher
      match (if row < st.batchRows slot ∧ s.stageFirst st (Step.mayDispatch x) then s.batchRow st slot row else none) with
      | none => s
      | some at_ =>
        if s.waitsFor st.part [(at_, 16), (out + row * stride, st.d.width * retSize fmt)] then s
        else stepEnd st x (tryThen (s.unitRead st.part unit at_ 16) fun tb s =>
          let t : BitVec 128 := BitVec.ofNat 128 (leNat tb)
          if st.badTag t then (.error (s.stepRecord st x uDispatcher 0x030B slot row), s)
          else tryThen (s.unitRead st.part unit (out + row * stride) (st.d.width * retSize fmt)) fun bs s =>
            (.ok (t, bs), s)) fun e s =>
              let (comp, enc) := encodeRow fmt st.d.width e.2
              let ps := rowPackets (st.returnHead e.1 row slot fmt enc.length) comp enc
              let s := ps.foldl (fun s d =>
                s.newXact (monWrite (tagSource e.1) unit (returnPort (tagToken e.1 % 4)) d) d (.ret sl slot) st.part) s
              s.updStep sl fun st => { st with returning := Tab.put st.returning slot (row + 1, left + ps.length) }
    | _, _ => s

/-- The row RETURN_ROW_SEND (07 R259). -/
def execReturnRowSend (sl : Fin 8) (slot : Fin 256) (s : State) : Host.Outcome State Fault Refusal :=
  .next (s.returnRow sl.val slot.val)

/-! ## Placement at the source (07 R263 to R265) -/

/-- RETURN_INVALID. -/
def State.returnInvalid (s : State) (st : Step) (x : Nat) (t : BitVec 128) (reason : Nat) : State :=
  s.raiseStep st x { s.stepRecord st x uCombiner 0x030A (tagToken t) (tagRank t) with d3 := BitVec.ofNat 64 reason }

/-- LENGTH is that of a row in a RET format: dense, or a bitmap and whole groups of 16 elements, no longer (06 R236). -/
def ChunkHead.lengthOk (h : ChunkHead) (width fmt : Nat) : Bool :=
  let b := rowBitmap width
  if h.comp then b ≤ h.length && (h.length - b) % (16 * retSize fmt) = 0 && h.length ≤ width * retSize fmt
  else h.length = width * retSize fmt

/-- The reason for which R264 refuses a chunk, its choice being `c`. -/
def Step.chunkReason (st : Step) (self : PkgId) (h : ChunkHead) (c : Option Choice) : Option Nat :=
  if (c.map (st.tag self)) ≠ some h.tag then some 3
  else if h.fmt ≠ st.d.retFmt.toNat then some 4
  else if !h.lengthOk st.d.width st.d.retFmt.toNat ∨ h.chunk * 480 + h.body.length > h.length then
    some 5
  else none

/-- A result row is whole in STAGE. -/
def State.resultIn (s : State) (sl row rank : Nat) : State :=
  s.updStep sl fun st => { st with retRows := (row, rank) :: st.retRows }

/-- A valid chunk is staged: `none` for BUSY. -/
def State.stageResult (s : State) (sl x : Nat) (st : Step) (h : ChunkHead) (row rank : Nat) : Option State :=
  let dense := st.d.width * retSize st.d.retFmt.toNat
  let unit := xUnit x uCombiner
  if st.retChunks.contains (row, rank, h.chunk) ∨ st.retRows.contains (row, rank) then some s
  else
    let mark (s : State) : State := s.updStep sl fun st => { st with retChunks := (row, rank, h.chunk) :: st.retChunks }
    if !h.comp then
      some (stepEnd st x (s.unitWrite st.part unit (st.d.stageAt row rank + h.chunk * 480) h.body) fun _ s =>
        let got := (st.retChunks.countP fun e => e.1 = row && e.2.1 = rank) + 1
        if cdiv dense 480 ≤ got then (mark s).resultIn sl row rank else mark s)
    else match s.reassemble x sl (256 + rank, row) dense h.chunk h.last h.body with
      | none => none
      | some (none, s) => some (mark s)
      | some (some enc, s) =>
        let bs := padTo dense (expandRow st.d.retFmt.toNat st.d.width enc)
        some (stepEnd st x (s.unitWrite st.part unit (st.d.stageAt row rank) bs) fun _ s => (mark s).resultIn sl row rank)

/-- A returned chunk for an armed step: `none` for BUSY, which a return before the last admission round gets (log entry
34). -/
def State.onReturn (s : State) (sl x : Nat) (st : Step) (h : ChunkHead) : Option State :=
  let row := tagToken h.tag - st.d.tokenBase
  let rank := tagRank h.tag
  if st.complete then some s
  else if tagSource h.tag ≠ s.self then some (s.returnInvalid st x h.tag 6)
  else if tagToken h.tag < st.d.tokenBase ∨ st.d.tokenBase + st.d.tokens ≤ tagToken h.tag then
    some (s.returnInvalid st x h.tag 2)
  else if !st.admitted then none
  else match st.chunkReason s.self h (st.choices.find? fun c => c.row = row && c.rank = rank) with
    | some r => some (s.returnInvalid st x h.tag r)
    | none => s.stageResult sl x st h row rank

/-- A chunk for a pair that is not armed here: discarded when the pair is remembered (R276), else RETURN_INVALID with
reason 1, in the partition of the sender's job. -/
def State.strayReturn (s : State) (x : Nat) (k : Pkt) (h : ChunkHead) : State :=
  let step := tagStep h.tag
  if s.pairKnown h.group step then s
  else match (s.partsOfJob k.job).find? fun p => (s.partition p).alive with
    | none => s.noteMonFault x step 0x030A
    | some p => s.raisePair p x h.group step 0 { s.recordOpen 0x030A (xUnit x uCombiner) 0 with
        d1 := BitVec.ofNat 64 (tagToken h.tag), d2 := BitVec.ofNat 64 (tagRank h.tag), d3 := 1 }

/-- RETURN_PORT_WRITE. A chunk of no armed step is acknowledged. -/
def State.returnWrite (s0 : State) (x : Nat) (k : Pkt) (data : Bytes) : State :=
  match s0.takeMon k data (returnPort x) with
  | none => s0
  | some (s, h) =>
    match s.stepOf h.group (tagStep h.tag) with
    | none => (s.strayReturn x k h).reply k 0x81 0 0 []
    | some (sl, st) =>
      if s.waitsFor st.part [(st.d.stageAt (tagToken h.tag - st.d.tokenBase) (tagRank h.tag), st.d.sstride)] then s0
      else match s.onReturn sl x st h with
      | some s => s.reply k 0x81 0 0 []
      | none => s.reply k 0x81 6 0 []

/-- The row RETURN_PORT_WRITE (07 R264). -/
def execReturnPortWrite (x : XDie) (k : Pkt) (data : Bytes) (s : State) : Host.Outcome State Fault Refusal :=
  .next (s.returnWrite x.val k data)

/-! ## Summation (07 R266 to R272) -/

/-- The format of RET_FMT and OUT_FMT. -/
def retFmtOf (c : Nat) : FFmt := match c with
  | 0 => bf16
  | 2 => e4m3
  | _ => fp32

/-- A value is a zero. -/
def Val.isZero : Val → Bool
  | .fin _ 0 _ => true
  | _ => false

/-- acc over s = 0: +0, but an infinite acc stays (07 R267 to R269). -/
def Val.overZero : Val → Val
  | .inf n => .inf n
  | _ => .fin false 0 0

/-- The infinite acc that an infinite element gives, over s: infinite, with the sign of the quotient (07 R269). -/
def Val.infOver (s : Val) : Val → Val
  | .inf n => .inf (if s.isZero then n else n != s.isNeg)
  | v => v

/-- A gate or an element is infinite or NaN. -/
def Val.special : Val → Bool
  | .fin _ _ _ => false
  | _ => true

/-- An output element in a Steady partition (07 R267): gates and staged elements in rank order. With a NaN or an infinite
element 04 R156 gives the result (07 R269; log entry 35); an acc that has only overflowed is divided as it is. -/
def combineSteady (renorm : Bool) (out : FFmt) (l : List (Val × Val)) : Nat :=
  let step (e : Nat × Nat) (x : Val × Val) : Nat × Nat :=
    ((fp32.result ((fp32.decode e.1).add (x.1.mul x.2))).1, (fp32.result ((fp32.decode e.2).add x.1)).1)
  let (acc, s) := l.foldl step (0, 0)
  let a := fp32.decode acc
  let d := fp32.decode s
  let v := if !renorm || a.isNan then a
    else if l.any fun x => x.1.special || x.2.special then a.infOver d
    else if d.isZero then .fin false 0 0
    else fp32.decode (fp32.result (a.div d)).1
  (out.convert v).1

/-- An output element in a Calm partition (07 R268): exact sums, one rounding. -/
def combineCalm (renorm : Bool) (out : FFmt) (l : List (Val × Val)) : Nat :=
  let a := (l.map fun x => x.1.mul x.2).foldl Val.add (.fin false 0 0)
  let s := (l.map fun x => x.1).foldl Val.add (.fin false 0 0)
  let v := if a.isZero then .fin false 0 0
    else if !renorm || a.isNan then a
    else if s.isZero then a.overZero
    else a.div s
  (out.convert v).1

/-- The admitted choices of a row, in rank order. -/
def Step.admittedOf (st : Step) (row : Nat) : List Choice :=
  st.choices.filter fun c => c.row = row && match c.state with
    | .admitted _ => true
    | _ => false

/-- A token's results have all been staged (07 R266). -/
def Step.ready (st : Step) (row : Nat) : Bool :=
  st.admitted && (st.admittedOf row).all fun c => st.retRows.contains (row, c.rank)

/-- The status byte of a row (07 R271). -/
def Step.statusByte (st : Step) (row : Nat) : Byte :=
  let adm := st.admittedOf row
  let drop := st.choices.any fun c => c.row = row && c.state = .dropped
  BitVec.ofNat 8 (adm.length % 32 + drop.toNat * 32 + (adm.any (·.deferred)).toNat * 64 + adm.isEmpty.toNat * 128)

/-- A combined row in OUT_FMT. -/
def Step.combineRow (st : Step) (calm : Bool) (l : List (BitVec 16 × Bytes)) : Bytes :=
  let z := retSize st.d.retFmt.toNat
  let rf := retFmtOf st.d.retFmt.toNat
  let rows := l.map fun e => (bf16.decode e.1.toNat, e.2)
  (List.range st.d.width).flatMap fun i =>
    let xs := rows.map fun e => (e.1, rf.decode (field e.2 (i * z) z))
    let f := if calm then combineCalm else combineSteady
    leBytes (retSize st.d.outFmt.toNat) (f st.d.renorm (retFmtOf st.d.outFmt.toNat) xs)

/-- The combiner of an X-die has a token to combine. -/
def Step.mayCombine (x : Nat) (st : Step) : Bool :=
  (List.range st.d.tokens).any fun r => (st.d.tokenBase + r) % 4 = x && !st.combined.contains r && st.ready r

/-- TOKEN_COMBINE; the combiner serves steps in the order of R245. -/
def State.tokenCombine (s : State) (sl row : Nat) : State :=
  match s.step? sl with
  | none => s
  | some st =>
    let x := (st.d.tokenBase + row) % 4
    if st.d.tokens ≤ row ∨ st.combined.contains row ∨ !st.ready row ∨ !s.stageFirst st (Step.mayCombine x) ∨
        s.waitsFor st.part [(st.d.stageAt row 0, st.d.k * st.d.sstride),
          (loc st.d.status + row, (decide (st.d.status ≠ 0)).toNat)] then s
    else
      let unit := xUnit x uCombiner
      let n := st.d.width * retSize st.d.retFmt.toNat
      stepEnd st x (tryThen (tryList (fun c s =>
          tryThen (s.unitRead st.part unit (st.d.stageAt row c.rank) n) fun bs s => (.ok (c.gate, bs), s))
          (st.admittedOf row) s) fun l s =>
        tryThen (s.unitWrite st.part unit (st.d.stageAt row 0) (st.combineRow (s.partition st.part).calm l)) fun _ s =>
          if st.d.status = 0 then (.ok (), s)
          else s.unitWrite st.part unit (loc st.d.status + row) [st.statusByte row]) fun _ s =>
            s.updStep sl fun st => { st with combined := row :: st.combined }

/-- The row TOKEN_COMBINE (07 R267). -/
def execTokenCombine (sl : Fin 8) (row : Nat) (s : State) : Host.Outcome State Fault Refusal :=
  .next (s.tokenCombine sl.val row)

/-! ## Completion and commit (07 R273, R274) -/

/-- Every row is combined, and every hosted slot with rows has been returned. -/
def Step.finished (st : Step) : Bool :=
  st.admitted && ((List.range st.d.tokens).all fun r => st.combined.contains r) &&
  ([0, 1, 2, 3].all fun x => st.nFinal.contains x) &&
  st.slots.all fun e => !e.2.valid || st.batchRows e.1 = 0 || st.returned.contains e.1

/-- STEP_COMPLETE. -/
def State.stepComplete (s : State) (sl : Nat) : State :=
  match s.step? sl with
  | none => s
  | some st =>
    if st.complete ∨ !st.finished ∨ s.xNow 0 > st.deadline then s
    else
      let now := s.xNow 0
      (s.updStep sl fun st => { st with complete := true, doneAt := now }).rememberPair st.d.group st.d.step

/-- STEP_COMMIT_DONE: every row has been copied to its output row; the slot is freed, the completion posted and
COMBINE_SEM signalled. -/
def State.stepCommit (s : State) (sl : Nat) : State :=
  match s.step? sl with
  | none => s
  | some st =>
    if !st.complete ∨ !s.stageFirst st (·.complete) ∨
        s.waitsFor st.part ((List.range st.d.tokens).flatMap fun i =>
          [(st.d.stageAt i 0, st.d.outBytes), (st.d.outRow i, st.d.outBytes)]) then s
    else
      let unit (row : Nat) : Nat := xUnit ((st.d.tokenBase + row) % 4) uCombiner
      unitsEnd st (tryList (fun i s =>
        tryThen (s.unitRead st.part (unit i) (st.d.stageAt i 0) st.d.outBytes) fun bs s =>
          s.unitWrite st.part (unit i) (st.d.outRow i) bs) (List.range st.d.tokens) s) fun _ s =>
            let s := { s with steps := Tab.del s.steps sl }.finishItem st.part st.pos st.doneAt st.late
            if st.d.combineSem.getLsbD 7 then s.semAdd st.part (st.d.combineSem.toNat % 64) 1 (xUnit 0 uAdmitter) else s

/-- The row STEP_COMPLETE (07 R273). -/
def execStepComplete (sl : Fin 8) (s : State) : Host.Outcome State Fault Refusal := .next (s.stepComplete sl.val)

/-- The row STEP_COMMIT_DONE (07 R274). -/
def execStepCommitDone (sl : Fin 8) (s : State) : Host.Outcome State Fault Refusal := .next (s.stepCommit sl.val)

/-- An X-die has nothing left to do for a step: its quarter is admitted and sent, its slots' rows are in and returned, and
its rows are combined. -/
def Step.dieDone (st : Step) (x : Nat) : Bool :=
  st.admitted && st.nFinal.contains x && !(Step.mayDispatch x st) &&
  ((List.range st.d.tokens).all fun r => (st.d.tokenBase + r) % 4 ≠ x || st.combined.contains r) &&
  st.slots.all fun e => e.1 % 4 ≠ x || !e.2.valid || st.batchRows e.1 = 0 || st.returned.contains e.1

/-- A Monsoon step's deadline has passed on an X-die (02 R68). -/
def State.stepMissed (s : State) (sl : Nat) : State :=
  match s.step? sl with
  | none => s
  | some st =>
    match s.missedDie st.deadline st.dieDone with
    | some x =>
      if st.complete then s
      else s.raiseStep st x (s.deadlineRecord (xUnit x uAdmitter) (s.xNow x) st.deadline st.equinox)
    | none => s

end Sys2Proof.Machine
end

