-- ==== Sys2Proof/Machine/Rings.lean ====
section
/-! DEFINITION. The command processor (14 R465 to R486): fetching the entries of a ring, their checks, what each starts,
and loops. -/

namespace Sys2Proof.Machine

open Sys2Proof

/-! ## Entries (14 R466, R472, R473) -/

/-- An entry as fetched, its counts shifted by the trip of a loop. -/
structure Entry where
  pos : Nat
  /-- The local address of its slot, and bytes 0 to 7. -/
  at_ : Nat
  head : Nat
  equinox : Nat
  deadline : Nat
  arg : Nat
deriving DecidableEq, Repr

def Entry.tag (e : Entry) : Nat := fld e.head 4 0
def Entry.mv (e : Entry) : Bool := bit e.head 9
def Entry.fence (e : Entry) : Bool := bit e.head 10
def Entry.fcast (e : Entry) : Bool := bit e.head 11
def Entry.param (e : Entry) : Nat := fld e.head 63 16
def Entry.kind (e : Entry) : Nat := fld e.param 7 6

/-- The type that bytes 0 to 7 name; `none` for a reserved TYPE or KIND. -/
def Entry.type (e : Entry) : Option EntryType := match e.tag with
  | 1 => some .kernel
  | 2 => some .dma
  | 3 => some (if e.fcast then .forecast else .monsoon)
  | 4 => some .ret
  | 5 => some .collective
  | 6 => some .waitSeason
  | 7 => some .waitSem
  | 8 => some .loopUntil
  | 9 => match e.kind with
    | 0 => some .signalSem
    | 1 => some .signalWord
    | 2 => some .signalTime
    | _ => none
  | _ => none

/-- SIZE, and the local address of the slot of a position. -/
def Ring.size (r : Ring) : Nat := 2 ^ r.log2
def Ring.slotAt (r : Ring) (pos : Nat) : Nat := r.base + pos % r.size * 32

/-- Ticks that the trip of a loop adds at a position (14 R484). -/
def Ring.shift (r : Ring) (pos : Nat) : Nat := match r.loop with
  | some l => if l.pos - l.body ≤ pos ∧ pos < l.pos then l.trip * l.period else 0
  | none => 0

/-- The entry in the 32 bytes of a slot. -/
def Ring.entry (r : Ring) (pos : Nat) (bs : Bytes) : Entry :=
  let eq := field bs 8 8
  { pos := pos, at_ := r.slotAt pos, head := field bs 0 8, equinox := if eq = 0 then 0 else eq + r.shift pos,
    deadline := if field bs 16 8 = 0 then 0 else field bs 16 8 + r.shift pos, arg := field bs 24 8 }

/-- An earlier entry holds back the fetch of later ones (14 R473, R484). -/
def Ring.blocked (r : Ring) : Bool := r.items.any fun i => match i.type with
  | .kernel => !i.armed
  | .monsoon => !i.armed
  | .forecast => !i.armed
  | .waitSeason => !i.complete
  | .waitSem => !i.complete
  | .loopUntil => !i.complete && i.pos ≤ r.fetched
  | _ => false

/-! ## Checks (14 R474) -/

/-- ENTRY_FORMAT. -/
def State.formatRecord (s : State) (e : Entry) (reason : Option Nat) : FaultRec :=
  let r := s.recordOpen 0x0806 cmdUnit (s.global e.at_)
  { r with
    d0 := BitVec.ofNat 64 e.pos, d1 := (reason.map (BitVec.ofNat 64)).getD r.d1, d2 := BitVec.ofNat 64 e.head,
    d3 := BitVec.ofNat 64 e.arg }

/-- ARG is a canonical global address of this package, a multiple of `align`. -/
def State.argOk (s : State) (a align : Nat) : Bool :=
  let w : Word := BitVec.ofNat 64 a
  canonical w && gPkg w = s.self && a % align = 0

/-- PARAM is one that R473 allows. -/
def Entry.paramOk (e : Entry) : Bool := match e.tag with
  | 1 => fld e.param 15 13 = 0 && fld e.param 47 29 = 0 && 1 ≤ fld e.param 28 16 && fld e.param 28 16 ≤ 4608
  | 4 => e.param % 32 = 0
  | 7 => fld e.param 15 6 = 0
  | 8 => 1 ≤ e.param && e.param ≤ 255
  | 9 => e.kind ≠ 3 && fld e.param 15 8 = 0
  | _ => e.param = 0

/-- ARG is one that R473 allows; a signal's word and a collective's descriptor lie in the partition's memory (R479, 13
R438). -/
def State.entryArgOk (s : State) (p : Nat) (e : Entry) : Bool := match e.tag with
  | 6 => e.arg = 0
  | 7 => e.arg = 0
  | 9 => if e.kind = 0 then e.arg = 0 else s.argOk e.arg 8 && s.owns p (loc e.arg) 8
  | 5 => s.argOk e.arg 64 && s.owns p (loc e.arg) 64
  | _ => s.argOk e.arg 64

/-- The type has a descriptor that the command processor reads. -/
def Entry.described (e : Entry) : Bool := e.tag = 1 || e.tag = 2 || e.tag = 8

/-- The descriptor of a KERNEL, DMA or LOOP_UNTIL entry (14 R475, R477, R483). -/
def State.entryDescOk (s : State) (p : Nat) (e : Entry) (d : Bytes) : Bool := match e.tag with
  | 1 => field d 0 8 % 32 = 0 && allZero (d.drop 16)
  | 2 => field d 0 8 % 64 = 0 && field d 8 8 % 64 = 0 && field d 16 8 % 64 = 0 && field d 16 8 ≤ 2 ^ 34 &&
      field d 24 1 < 2 && allZero (d.drop 25)
  | 8 => field d 0 8 % 8 = 0 && field d 0 8 < 2 ^ 48 && s.owns p (field d 0 8) 8 && field d 24 1 < 8 &&
      allZero ((d.drop 25).take 3) && 1 ≤ field d 28 4 && field d 28 4 < 65536 && allZero (d.drop 48)
  | _ => true

/-- The body of a LOOP_UNTIL is one that R482 allows; the TYPEs are read from the ring. -/
def State.bodyOk (s : State) (p : Nat) (e : Entry) : Bool :=
  let r := (s.partition p).ring
  let n := e.param
  decide (n < r.size) && decide (n ≤ e.pos) && (List.range n).all fun i =>
    let ty := fld (field (memRead s.mem (r.slotAt (e.pos - n + i)) 8) 0 8) 4 0
    ty ≠ 8 && ty ≠ 3 && ty ≠ 4

/-- Check 1 of R474 up to the descriptor: the reason of the first failure, `some none` where R474 gives none. -/
def State.entryFormat (s : State) (p : Nat) (e : Entry) : Option (Option Nat) :=
  if e.tag = 0 ∨ e.tag > 9 then some (some 1)
  else if fld e.head 15 12 ≠ 0 ∨ fld e.head 7 5 ≠ 0 then some (some 2)
  else if e.deadline = 0 then some (some 3)
  else if e.fcast ∧ e.tag ≠ 3 then some (some 4)
  else if !e.paramOk then some (some 5)
  else if !s.entryArgOk p e then some (some 6)
  else if e.tag = 1 ∧ fld e.param 12 0 + fld e.param 28 16 > (s.partition p).coreCount then some (some 7)
  else if e.tag = 6 ∧ e.equinox = 0 then some none
  else if e.tag = 8 ∧ !s.bodyOk p e then some (some 8)
  else none

/-- The entry requires MV (14 R486). -/
def Entry.needsMv (e : Entry) (d : Bytes) : Bool := (e.tag = 8 && bit (field d 24 1) 2) || (e.tag = 9 && e.kind = 2)

/-- Checks 2 to 4 of R474. -/
def State.entryCounts (s : State) (p : Nat) (e : Entry) (d : Bytes) : Option FaultRec :=
  let x := s.partition p
  if e.equinox ≠ 0 ∧ e.deadline ≤ e.equinox then some (s.recordOpen 0x0805 cmdUnit 0)
  else if x.calm ∧ ((e.mv ∧ !x.allowMv) ∨ (e.needsMv d ∧ !e.mv)) then
    some (s.recordOpen 0x0104 cmdUnit (s.global e.at_))
  else if x.calm ∧ e.equinox ≠ 0 ∧ s.now > e.equinox + s.window p then some (s.lateRecord cmdUnit s.now e.equinox)
  else none

/-- The checks of R474, with the descriptor that they read. -/
def State.entryCheck (s : State) (p : Nat) (e : Entry) : Try Bytes :=
  match s.entryFormat p e with
  | some reason => (.error (s.formatRecord e reason), s)
  | none =>
    tryThen (if e.described then s.cmdRead p (loc e.arg) 64 else (.ok [], s)) fun d s =>
      if !s.entryDescOk p e d then (.error (s.formatRecord e (some 6)), s)
      else match s.entryCounts p e d with
        | some r => (.error r, s)
        | none => (.ok d, s)

/-! ## Taking an entry -/

/-- The item of an entry. -/
def Entry.item (e : Entry) (t : EntryType) (late : Option Nat) (window : Nat) : Item where
  pos := e.pos
  type := t
  mv := e.mv
  equinox := e.equinox
  deadline := e.deadline
  param := BitVec.ofNat 48 e.param
  arg := BitVec.ofNat 64 e.arg
  window := window
  armed := false
  started := false
  complete := false
  written := false
  late := late
  left := 0
  doneAt := 0
  detail := 0
  slot := 0
  die := 0
  copyTo := 0
  fault := none
  buf := []

/-- The lateness at the K0 copy of work armed now (02 R61). -/
def State.lateNow (s : State) (equinox : Nat) : Option Nat :=
  if equinox ≠ 0 ∧ equinox ≤ s.now then some (s.now - equinox) else none

/-- The entry joins the ring's items; the next position is to be fetched. -/
def State.takeEntry (s : State) (p : Nat) (i : Item) : State :=
  s.updPartition p fun x => { x with ring := { x.ring with
    fetched := i.pos + 1, items := (x.ring.items.filter fun y => y.pos ≠ i.pos) ++ [i] } }

/-- The members of a KERNEL entry, in rank order. -/
def State.kernelCores (s : State) (p : Nat) (i : Item) : List Nat :=
  (List.range (fld i.param.toNat 28 16)).map fun n => (s.partition p).coreOf (fld i.param.toNat 12 0 + n)

/-- The launch that a KERNEL gives the member of a rank; its descriptor was read at fetch. -/
def Item.launch (i : Item) (p rank size : Nat) : Launch where
  part := p
  pos := i.pos
  entry := BitVec.ofNat 64 (field i.bufBytes 0 8)
  args := BitVec.ofNat 64 (field i.bufBytes 8 8)
  rank := rank
  size := size
  equinox := i.equinox
  deadline := i.deadline
  window := i.window

/-- A KERNEL that has been fetched is delivered to every member as its pending launch; it waits while one of them holds
another (14 R476). -/
def State.deliverLaunch (s : State) (p : Nat) (i : Item) : State :=
  let cs := s.kernelCores p i
  if cs.any fun c => (s.ctxCore p c).pendingLaunch.isSome then s
  else
    let s := s.updItem p i.pos fun i => { i with armed := true, left := cs.length }
    ((List.range cs.length).zip cs).foldl (fun s c => s.updCtx p c.2 fun k => { k with
      pendingLaunch := some (i.launch p c.1 cs.length) }) s

/-- A KERNEL passes its checks and is fetched, with the launch window of that moment (02 R81). -/
def State.fetchKernel (s : State) (p : Nat) (e : Entry) (d : Bytes) : State :=
  let i := { e.item .kernel none (s.window p) with buf := [(0, d)] }
  (s.takeEntry p i).deliverLaunch p i

/-! ## What an entry starts (14 R477 to R479) -/

/-- The work of an item starts: at its EQUINOX, or at fetch. -/
def State.startEntry (s : State) (p : Nat) (i : Item) : State :=
  let started (s : State) : State := s.updItem p i.pos fun i => { i with started := true }
  match i.type with
  | .dma =>
    match s.cmdRead p (loc i.arg.toNat) 64 with
    | (.error r, s) => s.raise p r
    | (.ok d, s) =>
      let src : Word := BitVec.ofNat 64 (field d 0 8)
      let dst : Word := BitVec.ofNat 64 (field d 8 8)
      let bad (g : Word) (op : Nat) : Option FaultRec :=
        if !canonical g ∨ !canonical (g + BitVec.ofNat 64 (field d 16 8 - 1)) then some (s.recordOpen 0x0504 cmdUnit g)
        else if s.offSystem g (field d 16 8) then some (s.fabricRecord 0x0506 cmdUnit g op 0)
        else none
      let s := started s
      if field d 16 8 = 0 then s.entryEnd p i.pos
      else match (bad src 1).or (bad dst 2) with
        | some r => s.raise p r
        | none => tryRaise p (s.copyStart p i.pos i.mv (bit (field d 24 1) 0) src.toNat dst.toNat (field d 16 8)) fun _ s =>
            s.entryEnd p i.pos
  | .ret => (started s).launchReturn p i
  | .waitSeason => (started s).finishItem p i.pos s.now none
  | .waitSem => (started s).semWait p (fld i.param.toNat 5 0) (.entry i.pos (fld i.param.toNat 47 16))
  | .signalSem =>
    let s := (started s).semAdd p (fld i.param.toNat 5 0) (fld i.param.toNat 47 16) cmdUnit
    s.finishItem p i.pos s.now none
  | .signalWord => tryRaise p ((started s).cmdWrite p (loc i.arg.toNat) (leBytes 4 (fld i.param.toNat 47 16))) fun _ s =>
      s.finishItem p i.pos s.now none
  | .signalTime => tryRaise p ((started s).cmdWrite p (loc i.arg.toNat) (leBytes 8 s.now)) fun _ s =>
      s.finishItem p i.pos s.now none
  | _ => started s

/-- The copy of the unit that holds an entry (02 R43): a RETURN's dispatcher, else the command processor. -/
def State.itemNow (s : State) (i : Item) : Nat := if i.type = .ret then s.xNow i.die else s.now

/-- The copy of the unit that holds an item has reached its EQUINOX. -/
def State.itemDue (s : State) (i : Item) : Bool := i.equinox ≤ s.itemNow i

/-- The part of a range of global addresses that lies on this package. -/
def State.ownRange (s : State) (g n : Nat) : List (Nat × Nat) := if s.isOwn g then [(loc g, n)] else []

/-- What the start of an item accesses lies in a core window that is held (15 R508): a DMA's descriptor and its ranges
here, a return record, a signal's word. -/
def State.startWaits (s : State) (p : Nat) (i : Item) : Bool :=
  let a := loc i.arg.toNat
  s.waitsFor p (match i.type with
    | .dma =>
      let d := memRead s.mem a 64
      (a, 64) :: (s.ownRange (field d 0 8) (field d 16 8) ++ s.ownRange (field d 8 8) (field d 16 8))
    | .ret => [(i.param.toNat, 32)]
    | .signalWord => [(a, 4)]
    | .signalTime => [(a, 8)]
    | _ => [])

/-- An item starts if its EQUINOX has come and its deadline has not passed (02 R61, R68), and nothing that it accesses is
held. -/
def State.startDue (s : State) (p pos : Nat) : State := match s.item? p pos with
  | none => s
  | some i =>
    if i.armed && !i.started && s.itemDue i && s.itemNow i ≤ i.deadline && !s.startWaits p i then s.startEntry p i else s

/-- An entry that the command processor itself arms at fetch. -/
def State.fetchLocal (s : State) (p : Nat) (e : Entry) (t : EntryType) : State :=
  (s.takeEntry p { e.item t (s.lateNow e.equinox) (s.window p) with armed := true }).startDue p e.pos

/-- A RETURN is armed at the dispatcher of an X-die (02 R61, R63): the one that SLOT of its record, as it stands now,
selects (07 R258; log entry 78). -/
def State.fetchReturn (s : State) (p : Nat) (e : Entry) : State :=
  let x := field (memRead s.mem (loc e.param) 1) 0 1 % 4
  let now := s.xNow x
  let late := if e.equinox ≠ 0 ∧ e.equinox ≤ now then some (now - e.equinox) else none
  if (s.partition p).calm ∧ late.getD 0 > s.window p then s.raise p (s.lateRecord (xUnit x uDispatcher) now e.equinox)
  else (s.takeEntry p { e.item .ret late (s.window p) with armed := true, die := x }).startDue p e.pos

/-- A LOOP_UNTIL closes its body (14 R482, R483). -/
def State.fetchLoop (s : State) (p : Nat) (e : Entry) (d : Bytes) : State :=
  let l : Loop := { pos := e.pos, body := e.param, trip := 0, word := field d 0 8, value := field d 8 8, mask := field d 16 8, op := field d 24 1 % 4, exitAt := bit (field d 24 1) 2, bound := field d 28 4, period := field d 32 8, exitCount := field d 40 8 }
  let s := s.takeEntry p { e.item .loopUntil (s.lateNow e.equinox) (s.window p) with armed := true }
  s.updPartition p fun x => { x with ring := { x.ring with loop := some l } }

/-- An entry that has passed its checks. -/
def State.fetchEntry (s : State) (p : Nat) (e : Entry) (t : EntryType) (d : Bytes) : State := match t with
  | .kernel => s.fetchKernel p e d
  | .monsoon => s.takeEntry p (e.item .monsoon none (s.window p))
  | .forecast => s.takeEntry p (e.item .forecast none (s.window p))
  | .collective =>
    (s.takeEntry p { e.item .collective none (s.window p) with armed := true }).armColl p e.pos e.arg (BitVec.ofNat 64 e.equinox)
      e.deadline e.mv (s.window p)
  | .ret => s.fetchReturn p e
  | .loopUntil => s.fetchLoop p e d
  | _ => s.fetchLocal p e t

/-- The next slot of a ring. -/
def State.nextSlot (s : State) (p : Nat) : Try Bytes :=
  s.cmdRead p ((s.partition p).ring.slotAt (s.partition p).ring.fetched) 32

/-- The PHASE of an entry is the one that its position expects. -/
def Ring.valid (r : Ring) (e : Entry) : Bool := bit e.head 8 = decide (r.phase e.pos = 1)

/-- The entry waits for earlier ones, or for the core window that holds its descriptor (14 R472, 15 R508). -/
def State.entryWaits (s : State) (p : Nat) (e : Entry) : Bool :=
  (e.fence && (s.partition p).ring.items.any fun i => i.pos < e.pos && !i.complete) ||
  ((e.described || e.tag = 5) && s.waitsFor p [(loc e.arg, 64)])

/-- A ring has something for the command processor to fetch now. -/
def State.ringReady (s : State) (p : Nat) : Bool :=
  let x := s.partition p
  let r := x.ring
  let e := r.entry r.fetched (memRead s.mem (r.slotAt r.fetched) 32)
  x.state = .active && r.awake && !r.blocked && !(r.valid e && s.entryWaits p e)

/-- It is a ring's turn: no ring that has something to fetch comes before it in the round of partition IDs, which goes on
after the ring served last (14 R471). -/
def State.ringTurn (s : State) (p : Nat) : Bool :=
  (((List.range 31).map fun i => (s.lastRing + 1 + i) % 32).takeWhile (· ≠ p)).all fun q => !s.ringReady q

/-- The ring of a partition is served. -/
def State.serveRing (s : State) (p : Nat) : State := { s with lastRing := p }

/-- The command processor fetches the next entry of a ring, if it is of the type of the row; an entry of a reserved
TYPE or KIND is every row's. -/
def State.fetchRow (s : State) (p : Nat) (t : EntryType) : State :=
  let x := s.partition p
  let r := x.ring
  if x.state ≠ .active ∨ !s.inService ∨ !r.awake ∨ r.blocked ∨ !s.ringTurn p then s
  else tryRaise p ((s.serveRing p).nextSlot p) fun bs s' =>
    let e := r.entry r.fetched bs
    if !r.valid e then s'.updPartition p fun x => { x with ring := { x.ring with awake := false } }
    else if s.entryWaits p e then s
    else match e.type with
      | some u => if u ≠ t then s else tryRaise p (s'.entryCheck p e) fun d s => s.fetchEntry p e u d
      | none => tryRaise p (s'.entryCheck p e) fun _ s => s

/-! ## The rows of the work types -/

/-- The KERNEL of a ring that has been fetched and waits for its members. -/
def Ring.waiting (r : Ring) : Option Item := r.items.find? fun i => i.type = .kernel && !i.armed

/-- A KERNEL that waits is delivered as soon as its members hold no pending launch; else the next entry is fetched. -/
def State.kernelRow (s : State) (p : Nat) : State := match (s.partition p).ring.waiting with
  | some i => if (s.partition p).state = .active ∧ s.moves then s.deliverLaunch p i else s
  | none => s.fetchRow p .kernel

/-- The row KERNEL (14 R476). -/
def execKernel (p : PartId) (s : State) : Host.Outcome State Fault Refusal := .next (s.kernelRow p.val)

/-- The row DMA (14 R477). -/
def execDma (p : PartId) (s : State) : Host.Outcome State Fault Refusal := .next (s.fetchRow p.val .dma)

/-- The row MONSOON (06 R204). -/
def execMonsoon (p : PartId) (s : State) : Host.Outcome State Fault Refusal := .next (s.fetchRow p.val .monsoon)

/-- The row FORECAST (08 R285). -/
def execForecast (p : PartId) (s : State) : Host.Outcome State Fault Refusal := .next (s.fetchRow p.val .forecast)

/-- The row RETURN (07 R257). -/
def execReturnEntry (p : PartId) (s : State) : Host.Outcome State Fault Refusal := .next (s.fetchRow p.val .ret)

/-- The row COLLECTIVE (13 R444). -/
def execCollective (p : PartId) (s : State) : Host.Outcome State Fault Refusal := .next (s.fetchRow p.val .collective)

/-- The row WAIT_SEASON (14 R478). -/
def execWaitSeason (p : PartId) (s : State) : Host.Outcome State Fault Refusal := .next (s.fetchRow p.val .waitSeason)

/-- The row WAIT_SEM (14 R478). -/
def execWaitSem (p : PartId) (s : State) : Host.Outcome State Fault Refusal := .next (s.fetchRow p.val .waitSem)

/-- The row LOOP_UNTIL (14 R482). -/
def execLoopUntil (p : PartId) (s : State) : Host.Outcome State Fault Refusal := .next (s.fetchRow p.val .loopUntil)

/-- The row SIGNAL_SEM (14 R479). -/
def execSignalSem (p : PartId) (s : State) : Host.Outcome State Fault Refusal := .next (s.fetchRow p.val .signalSem)

/-- The row SIGNAL_WORD (14 R479). -/
def execSignalWord (p : PartId) (s : State) : Host.Outcome State Fault Refusal := .next (s.fetchRow p.val .signalWord)

/-- The row SIGNAL_TIME (14 R479). -/
def execSignalTime (p : PartId) (s : State) : Host.Outcome State Fault Refusal := .next (s.fetchRow p.val .signalTime)

/-! ## Loops (14 R484, R485) -/

/-- The comparison of a loop. -/
def Loop.test (l : Loop) (w : Nat) : Bool :=
  let v := w &&& l.mask
  match l.op with
  | 0 => v = l.value
  | 1 => v ≠ l.value
  | 2 => l.value ≤ v
  | _ => v < l.value

/-- LOOP_BOUND. -/
def State.loopRecord (s : State) (p : Nat) (l : Loop) (i : Item) (w : Nat) : FaultRec :=
  s.record 0x0803 cmdUnit (s.global ((s.partition p).ring.slotAt l.pos)) l.pos (l.trip + 1) w i.arg.toNat

/-- The loop ends: its LOOP_UNTIL completes, and the entries after it may be fetched. -/
def State.endLoop (s : State) (p : Nat) (l : Loop) : State :=
  let s := s.updItem p l.pos fun i => { i with detail := BitVec.ofNat 32 (l.trip + 1) }
  let s := s.updPartition p fun x => { x with ring := { x.ring with loop := none, fetched := l.pos + 1 } }
  s.finishItem p l.pos s.now none

/-- The next trip: the body is fetched again with its counts shifted. -/
def State.nextTrip (s : State) (p : Nat) (l : Loop) : State :=
  s.updPartition p fun x => { x with ring := { x.ring with
    loop := some { l with trip := l.trip + 1 }, fetched := l.pos - l.body, awake := true
    items := (x.ring.items.filter fun i => i.pos < l.pos - l.body || l.pos ≤ i.pos).map fun i =>
      if i.pos = l.pos then { i with equinox := if i.equinox = 0 then 0 else i.equinox + l.period, deadline := i.deadline + l.period }
      else i } }

/-- LOOP_TEST: every earlier position has completed, and the loop's EQUINOX has been reached. -/
def State.loopTest (s : State) (p : Nat) : State :=
  let r := (s.partition p).ring
  match r.loop with
  | none => s
  | some l =>
    match s.item? p l.pos with
    | none => s
    | some i =>
      if r.fetched < l.pos ∨ (r.items.any fun y => y.pos < l.pos && !y.complete) ∨ s.now < i.equinox ∨ s.now > i.deadline ∨
          (s.partition p).state ≠ .active ∨ !s.moves then s
      else tryRaise p (s.cmdRead p l.word 8) fun bs s =>
        let w := leNat bs
        if l.test w ∨ (l.exitAt ∧ l.exitCount ≤ s.now) then s.endLoop p l
        else if l.trip + 1 = l.bound then s.raise p (s.loopRecord p l i w)
        else s.nextTrip p l

/-- The row LOOP_TEST (14 R484). -/
def execLoopTest (p : PartId) (s : State) : Host.Outcome State Fault Refusal := .next (s.loopTest p.val)

/-! ## Polling (14 R468) -/

/-- The command processor reads a ring's next slot, at a doorbell or at its poll. -/
def State.wakeRing (s : State) (p : Nat) : State :=
  if (s.partition p).state = .active then s.updPartition p fun x => { x with ring := { x.ring with awake := true } } else s

/-- The row RING_POLL (14 R468). -/
def execRingPoll (p : PartId) (s : State) : Host.Outcome State Fault Refusal := .next (s.wakeRing p.val)

end Sys2Proof.Machine
end

