-- ==== Sys2Proof/Machine/Stewards.lean ====
section
/-! DEFINITION. The steward cores (14 R464, R467, R468, R481, R487, R488): what their custom registers do, their
exceptions and their waits. -/

namespace Sys2Proof.Machine

open Sys2Proof

/-- An answer to a steward's CSR access. -/
def State.csrAnswer (s : State) (k : StewardId) (v : Word) : State := s.emit (.answer (.steward k) (some v))

/-- An access to a custom CSR that is not listed, or by a core with no partition: an illegal instruction (14 R487), whose
PC and encoding are the steward's own (log entry 2). With no partition there is no vector and nothing to fault. -/
def State.csrIllegal (s : State) (k num : Nat) : State :=
  if 0x800 ≤ num ∧ num < 0x900 then
    { s with free := s.free + 2 }.stewardTrap k 2 (Config.freeWord s.free) (Config.freeWord (s.free + 1))
  else s

/-- CMD_RESERVE (14 R467): a count outside 1 to 16 reserves nothing. -/
def State.cmdReserve (s : State) (k : StewardId) (m : Word) : State := match s.stewardPart k.val with
  | none => s.csrIllegal k.val 0x800
  | some p =>
    let r := (s.partition p).ring
    let n := m.toNat
    if 1 ≤ n ∧ n ≤ 16 ∧ r.reserved + n - r.consumer ≤ r.size then
      (s.updPartition p fun x => { x with ring := { x.ring with reserved := x.ring.reserved + n } }).csrAnswer k
        (BitVec.ofNat 64 r.reserved)
    else s.csrAnswer k (BitVec.allOnes 64)

/-- The row CMD_RESERVE (14 R467). -/
def execCmdReserve (k : StewardId) (m : Word) (s : State) : Host.Outcome State Fault Refusal := .next (s.cmdReserve k m)

/-- The row CMD_DOORBELL (14 R468). -/
def execCmdDoorbell (k : StewardId) (s : State) : Host.Outcome State Fault Refusal :=
  .next (match s.stewardPart k.val with
    | some p => s.wakeRing p
    | none => s.csrIllegal k.val 0x801)

/-- CMD_SEM_ADD (14 R481): an addition of bits 31 to 0. -/
def State.cmdSemAdd (s : State) (k : Nat) (v : Word) : State := match s.stewardPart k with
  | some p => s.semAdd p (s.steward k).semSel.toNat (v.toNat % 2 ^ 32) (stewardUnit k)
  | none => s.csrIllegal k 0x808

/-- The row CMD_SEM_ADD (14 R481). -/
def execCmdSemAdd (k : StewardId) (v : Word) (s : State) : Host.Outcome State Fault Refusal := .next (s.cmdSemAdd k.val v)

/-- CMD_SEM_TAKE (14 R481): a try-take, whose result the register then reads. -/
def State.cmdSemTake (s : State) (k : StewardId) (n : Word) : State := match s.stewardPart k.val with
  | some p =>
    let (ok, s) := s.semTry p (s.steward k.val).semSel.toNat n.toNat
    let v : Word := if ok then 1 else 0
    (s.updSteward k.val fun w => { w with semTake := v }).csrAnswer k v
  | none => s.csrIllegal k.val 0x809

/-- The row CMD_SEM_TAKE (14 R481). -/
def execCmdSemTake (k : StewardId) (n : Word) (s : State) : Host.Outcome State Fault Refusal := .next (s.cmdSemTake k n)

/-- The row STEWARD_EXCEPTION (14 R464). -/
def execStewardException (k : StewardId) (cause : BitVec 6) (pc tval : Word) (s : State) :
    Host.Outcome State Fault Refusal := .next (s.stewardTrap k.val cause pc tval)

/-- WFI: the wait ends by itself within 1,000,000 ticks, when exactly being free (14 R488). -/
def State.wfi (s : State) (k : Nat) : State := match s.stewardPart k with
  | none => s
  | some _ =>
    if (s.steward k).waiting.isSome then s
    else
      let (n, s) := s.draw
      s.updSteward k fun w => { w with waiting := some (s.now + 1 + n % 1000000), woken := false }

/-- The row WFI (14 R488). -/
def execWfi (k : StewardId) (s : State) : Host.Outcome State Fault Refusal := .next (s.wfi k.val)

/-- WFI_END: an event has come, CMD_WAKE_AT is reached, or the longest wait is over. -/
def State.wfiEnd (s : State) (k : Nat) : State :=
  let w := s.steward k
  match w.waiting with
  | none => s
  | some t =>
    if w.woken ∨ (w.wakeAt ≠ 0 ∧ w.wakeAt.toNat ≤ s.now) ∨ t ≤ s.now then
      s.updSteward k fun w => { w with waiting := none, woken := false }
    else s

/-- The row WFI_END (14 R488). -/
def execWfiEnd (k : StewardId) (s : State) : Host.Outcome State Fault Refusal := .next (s.wfiEnd k.val)

end Sys2Proof.Machine
end

