-- ==== Sys2Proof/Machine/Channels.lean ====
section
/-! DEFINITION. The host channels' events, firmware resets, mailbox posts, lock words and the BAR2 window (16 R524, R528 to
R534, R542, R548 to R551). -/

namespace Sys2Proof.Machine

open Sys2Proof

/-- The host's accesses do not reach the package: in OFF, while the host port has no clock, and in a warm start (18
R598, 19 R616). -/
def State.hostDrops (s : State) : Bool := s.mgmt.state = .off || s.mgmt.state = .warmStart || !s.mgmt.pcieClk

/-- A read by the host that a warm start answers with all ones (18 R598). -/
def State.hostOnes (s : State) (a : Agent) : Bool := s.mgmt.state = .warmStart && s.mgmt.pcieClk && match a with
  | .host => true
  | .channel _ => true
  | _ => false

/-- The agent is the host, and its access does not reach the package. -/
def State.dropsOf (s : State) (a : Agent) : Bool := s.hostDrops && match a with
  | .host => true
  | .channel _ => true
  | _ => false

/-! ## Doorbells, control and fetch (16 R528 to R532) -/

/-- RING_ERROR is set and signalled. -/
def State.ringError (s : State) (n : Nat) : State := (s.updChannel n fun c => { c with ringError := true }).signalErr n

/-- A write of CH_DOORBELL; a value beyond the ring is refused. -/
def State.doorbell (s : State) (n : Nat) (v : BitVec 32) : State :=
  let c := s.channel n
  if !c.open_ ∨ s.hostDrops then s
  else if (v - c.consumer).toNat > 2 ^ c.cmdLog2 then s.ringError n
  else (s.updChannel n fun c => { c with producer := v, hold := false }).retime n

/-- The row CH_DOORBELL (16 R530). -/
def execChDoorbell (n : ChanId) (v : BitVec 32) (s : State) : Host.Outcome State Fault Refusal := .next (s.doorbell n.val v)

/-- Sizes inside their ranges (16 R528). -/
def sizesOk (v : Word) : Bool :=
  4 ≤ fld v.toNat 15 8 && fld v.toNat 15 8 ≤ 16 && 6 ≤ fld v.toNat 23 16 && fld v.toNat 23 16 ≤ 16

/-- A write of CH_CONTROL (16 R529). -/
def State.chControl (s : State) (n : Nat) (v : Word) : State :=
  let c := s.channel n
  if !c.open_ ∨ s.hostDrops then s
  else if c.enabled then
    if v.getLsbD 0 then s
    else (s.updChannel n fun c => { c with control := c.control &&& 0xFFFF00 }).retime n
  else if !v.getLsbD 0 then (s.updChannel n fun c => { c with control := v &&& 0xFFFF00 }).retime n
  else if sizesOk v then (s.updChannel n fun c => { c with control := v &&& 0xFFFF01 }).afterRoom n
  else (s.updChannel n fun c => { c with control := v &&& 0xFFFF00 }).ringError n

/-- The row CH_CONTROL_ENABLE (16 R529). -/
def execChControlEnable (n : ChanId) (v : Word) (s : State) : Host.Outcome State Fault Refusal := .next (s.chControl n.val v)

/-- Firmware may fetch the channel's next entry: at most 8 ahead of the one that executes (16 R530, R531, R534). -/
def State.mayFetch (s : State) (n : Nat) : Bool :=
  let c := s.channel n
  c.open_ && !c.draining && c.enabled && c.consumer ≠ c.producer && !c.hold && s.fw.up && s.mgmt.pcieClk &&
  s.uncompleted n < 9 && s.cplRoom n 3

/-- The next entry is read and fetched: its 64 bytes as host memory gave them, or none when the read failed. -/
def State.takeRing (s : State) (n : Nat) (entry : Option Bytes) : State :=
  if !s.mayFetch n then s
  else
    let c := s.channel n
    let s := s.hostRead n (c.entryAddr c.consumer.toNat) 64
    let (bs, s) : Bytes × State := match entry with
      | some bs => (padTo 64 bs, s)
      | none => s.drawBytes 64
    let t : Taken := ⟨BitVec.ofNat 16 n, c.part, c.consumer, stampEntry n bs, entry.isNone, 0⟩
    let s := s.updChannel n fun c => { c with
      consumer := c.consumer + 1, fetched := c.fetched ++ [t], stall := 0, since := none, timedOut := false }
    (if entry.isNone then s.ringError n else s).retime n

/-- CHANNEL_FETCH, with what the host port has answered: a ring write that ended in a PCIe error sets RING_ERROR too. -/
def State.channelFetch (s : State) (n : Nat) (r : RingAnswer) : State :=
  let s := if r.writeError ∧ (s.channel n).open_ then s.ringError n else s
  s.takeRing n r.entry

/-- The row CHANNEL_FETCH (16 R530). -/
def execChannelFetch (n : ChanId) (answer : RingAnswer) (s : State) : Host.Outcome State Fault Refusal :=
  .next (s.channelFetch n.val answer)

/-- Nanoseconds that the timer of a channel shows. -/
def State.stalled (s : State) (n : Nat) : Nat :=
  let c := s.channel n
  c.stall + (match c.since with
    | some t => s.time - t
    | none => 0)

/-- CH_CONSUMER has not advanced for CH_TIMEOUT milliseconds. -/
def State.channelTimeout (s : State) (n : Nat) : State :=
  let c := s.channel n
  if !s.chanCounts n ∨ c.timedOut ∨ s.stalled n < c.timeout.toNat * 1000000 then s
  else (s.updChannel n fun c => { c with timeoutFlag := true, timedOut := true }).signalErr n

/-- The row CHANNEL_TIMEOUT (16 R532). -/
def execChannelTimeout (n : ChanId) (s : State) : Host.Outcome State Fault Refusal := .next (s.channelTimeout n.val)

/-! ## Sender resets and firmware resets (16 R533, R534, R551) -/

/-- A function level reset: every channel is reset as by its sender. -/
def State.flr (s : State) : State := (s.channels.map (·.1)).foldl (fun s n => s.senderReset n) s

/-- The row FUNCTION_LEVEL_RESET (16 R533). -/
def execFunctionLevelReset (s : State) : Host.Outcome State Fault Refusal := .next s.flr

/-- CHANNEL_DRAINED: the last fetched command has completed; the channel's lock words are free and its page has its reset
values. Channel 0 binds again, and WINDOW_BASE returns to 0. -/
def State.channelDrained (s : State) (n : Nat) : State :=
  if !(s.channel n).draining ∨ s.uncompleted n ≠ 0 then s
  else
    let s := s.updFw fun f => { f with locks := f.locks.filter fun e => e.2.1.toNat ≠ n }
    if n = 0 then (s.updChannel 0 fun _ => Channel.management).updFw fun f => { f with windowBase := 0 }
    else s.updChannel n fun _ => Channel.closed

/-- The row CHANNEL_DRAINED (16 R533). -/
def execChannelDrained (n : ChanId) (s : State) : Host.Outcome State Fault Refusal := .next (s.channelDrained n.val)

/-- The row FILINA_WATCHDOG (16 R534). -/
def execFilinaWatchdog (s : State) : Host.Outcome State Fault Refusal := .next s.firmwareDown

/-- Commands that a service holds for a sender test, oldest first. -/
def State.held (s : State) (mine : Taken → Bool) : List Taken :=
  ((s.ckpt.running.map fun e => e.2.cmd) ++
   (match s.fw.testing with
    | some (t, _) => [t]
    | none => []) ++ s.fw.taken).filter mine

/-- A channel after a restart: its generation, RESET, and ABORTED_BY_RESET for what had not committed. The slots of the
completions still owed stay kept from waiting notices (R531, R538). -/
def State.restartChannel (s : State) (n : Nat) (aborted : List Taken) : State :=
  let l := aborted ++ (s.channel n).fetched
  let s := (s.updChannel n fun c => { c with
    generation := c.generation + 1, reset := true, fetched := l, hold := true }).signalErr n
  let s := l.foldl (fun s t =>
    (s.updChannel n fun c => { c with fetched := c.fetched.tail }).finishCommand t ⟨.abortedByReset, none, none⟩) s
  s.afterRoom n

/-- A transaction of a checkpoint command. -/
def Xact.ofCkpt (x : Xact) : Bool := match x.owner with
  | .ckpt _ => true
  | .shard _ _ _ => true
  | _ => false

/-- FIRMWARE_RESTART: no command that a service held had committed, and each completes ABORTED_BY_RESET. -/
def State.restart (s : State) : State :=
  if s.fw.up ∨ !s.fw.loaded ∨ s.mgmt.warmEntered then s
  else
    let inner := s.held fun t => !t.fromHost
    let outer := s.held fun t => t.fromHost
    let s := if s.fw.testing.isSome then s.abortGens else s
    let s := s.updFw fun f => { f with up := true, resets := f.resets + 1, taken := [], testing := none }
    let s := { s with ckpt := { s.ckpt with running := [] } }
    let s := s.updFabric fun b => { b with xacts := b.xacts.filter fun x => !x.ofCkpt }
    let s := inner.foldl (fun s t => s.finishCommand t ⟨.abortedByReset, none, none⟩) s
    ((s.channels.filter fun e => e.2.open_).map (·.1)).foldl (fun s n =>
      s.restartChannel n (outer.filter fun t => t.sender.toNat = n)) s

/-- The row FIRMWARE_RESTART (16 R534). In a start the firmware comes up with its end (18 R597). -/
def execFirmwareRestart (s : State) : Host.Outcome State Fault Refusal :=
  .next (if s.starting then s else s.restart)

/-! ## Mailboxes (16 R542) -/

/-- The result of a steward's post: the service, the room, then the address; a block that cannot be read is refused as
its address is. -/
def State.postFrom (s : State) (k p m : Nat) (a : Nat) : Nat × State :=
  let sender := BitVec.ofNat 16 (stewardSender k)
  if !s.mbxUp.testBit m then (2, s)
  else if (Tab.get [] s.fw.mailboxes m).length ≥ 16 then (1, s)
  else if a % 64 ≠ 0 ∨ !s.owns p a 64 then (3, s)
  else match s.peek p a 64 with
    | (.ok bs, s) => s.mbxPost m sender p bs
    | (.error _, s) => (3, s)

/-- A steward's store to MBX_POST: MBX_RESULT, and a store access fault when the post is rejected or refused. The PC of
the store is the steward's: a free value (log entry 2). -/
def State.stewardPost (s : State) (k : StewardId) (m : Nat) (addr : Word) : State := match s.stewardPart k.val with
  | none => s
  | some p =>
    let (r, s) := s.postFrom k.val p m addr.toNat
    let s := s.updSteward k.val fun w => { w with mbxResult := BitVec.ofNat 2 r }
    if r = 0 then s.emit (.answer (.steward k) (some 0))
    else
      let pc := Config.freeWord s.free
      { s with free := s.free + 1 }.stewardTrap k.val 7 pc (BitVec.ofNat 64 (ctrlBase + 0x800000 + m * 8))

/-- The row MBX_POST (16 R542). -/
def execMbxPost (k : StewardId) (m : Fin 64) (addr : Word) (s : State) : Host.Outcome State Fault Refusal :=
  .next (s.stewardPost k m.val addr)

/-! ## Lock words (16 R548, R549) -/

/-- The pair by which an agent owns a lock word: its SENDER_ID and its partition. A page whose channel is not open acts
for no partition, which the model numbers 32 (log entry 56). -/
def State.lockParty (s : State) (a : Agent) : Option (BitVec 16 × Nat) := match agentSender a, a with
  | some o, .channel _ => some (o, (s.agentPart a).getD 32)
  | some o, _ => (s.agentPart a).map fun p => (o, p)
  | none, _ => none

/-- A read of a lock word. -/
def State.lockAcquire (s : State) (a : Agent) (w : Nat) : State :=
  if s.hostOnes a then s.emit (.answer a (some 0xFFFFFFFF)) else if s.dropsOf a then s else match s.lockParty a with
  | some (o, p) => let (v, s) := s.lockRead w o p; s.emit (.answer a (some (v.setWidth 64)))
  | none => s.emit (.answer a none)

/-- The row LOCK_ACQUIRE (16 R549). -/
def execLockAcquire (a : Agent) (w : Fin 256) (s : State) : Host.Outcome State Fault Refusal := .next (s.lockAcquire a w.val)

/-- A write of a lock word. -/
def State.lockRelease (s : State) (a : Agent) (w : Nat) (v : BitVec 32) : State :=
  if s.dropsOf a then s else match s.lockParty a with
  | some (o, p) => s.lockWrite w o p v
  | none => s

/-- The row LOCK_RELEASE (16 R549). -/
def execLockRelease (a : Agent) (w : Fin 256) (v : BitVec 32) (s : State) : Host.Outcome State Fault Refusal :=
  .next (s.lockRelease a w.val v)

/-! ## The window of BAR2 (16 R522, R524) -/

/-- The boot ROM takes the image from the host: BOOT_SEL 1, until it has been authenticated (18 R584). -/
def State.bootsFromHost (s : State) : Bool :=
  s.mgmt.state = .coldStart && s.mgmt.step ≤ 3 && s.mgmt.straps.extractLsb' 4 2 = 1

/-- Bytes of the image in the boot SRAM of K0. -/
def State.writeBoot (s : State) (off : Nat) : Bytes → State
  | [] => s
  | b :: rest => (s.updMgmt fun m => { m with bootSram := Tab.put m.bootSram off b }).writeBoot (off + 1) rest

/-- A host access through BAR2. A read that meets a poisoned block has EP set, and what it delivers from that block on is
not given (log entry 2). -/
def State.hostWindow (s : State) (off len : Nat) (w : Option Bytes) : State :=
  let a := s.fw.windowBase.toNat + off
  let n := (w.map List.length).getD len
  if s.mgmt.state = .off ∨ !s.mgmt.pcieClk then s
  else if s.mgmt.state = .warmStart then s.emit (.completion none false)
  else if s.bootsFromHost ∧ w.isSome ∧ off + n ≤ 0x2000000 then s.writeBoot off (w.getD [])
  else if n = 0 ∨ off + n > 0x1000000000 ∨ s.unmappedIn a n then s.emit (.completion none false)
  else match w with
    | some bs => (s.writeMem 0 a bs).2
    | none => match s.readUpTo 0 a n with
      | (bs, none, s) => s.emit (.completion (some bs) false)
      | (bs, some _, s) =>
        let (rest, s) := s.drawBytes (n - bs.length)
        s.emit (.completion (some (bs ++ rest)) true)

/-- The row HOST_WINDOW_ACCESS (16 R524). -/
def execHostWindowAccess (off : BitVec 36) (len : Nat) (wdata : Option Bytes) (s : State) :
    Host.Outcome State Fault Refusal := .next (s.hostWindow off.toNat len wdata)

end Sys2Proof.Machine
end

