-- ==== Sys2Proof/Machine/Links.lean ====
section
/-! DEFINITION. The commands of the ports (11): flits received and sent, credits, discovery, beacons, training and the
loss of lock. -/

namespace Sys2Proof.Machine

open Sys2Proof

/-! ## Whether a port carries anything -/

/-- Packets are received on the port (11 R380, R382). -/
def State.carries (s : State) (n : Nat) : Bool := s.moves && (s.port n).state = .up

/-- The port has framed its stream (11 R367, R382); one in MISMATCH has too. -/
def State.framed (s : State) (n : Nat) : Bool :=
  s.moves && ((s.port n).state = .up || (s.port n).state = .discovery || (s.port n).state = .mismatch)

/-! ## Counters -/

/-- Bad slots and uncorrectable codewords of a port also feed the Barometer (17 R552). -/
def State.noteLinkErrors (s : State) (n k : Nat) : State :=
  { s with baro := { s.baro with linkTotal := Tab.put s.baro.linkTotal n (Tab.get 0 s.baro.linkTotal n + k) } }

def State.countProto (s : State) (n : Nat) : State :=
  s.updPort n fun p => { p with protoErr := satAdd p.protoErr 1 }

/-- The most input buffers in use (12 R430). -/
def State.noteDepth (s : State) (n : Nat) : State :=
  let k : BitVec 16 := BitVec.ofNat 16 (s.buffersInUse n)
  s.noteAnem (fun i => s.anemPort i = n) fun a => { a with high := if a.high.toNat < k.toNat then k else a.high }

/-! ## A packet that arrives (11 R377, R378) -/

/-- Where a packet that has arrived goes: one whose epoch names no valid slot nowhere, and a teardown is flooded and not
routed (12 R415, R426). -/
def State.arrivalHop (s : State) (f : Flit) : Hop :=
  if (s.tableOf (flitEpoch f)).isNone then .noEpoch
  else if flitOp f = 0x21 then .here
  else s.nextHop (flitDst f) (flitEpoch f) (flitAddr f)

/-- A whole packet: delivered here, sent on, or discarded. Channels 6 and 7 carry nothing (12 R401, R423, R426). -/
def State.deliver (s : State) (n : Nat) (o : OpenPkt) : State :=
  let data := o.flits.flatMap flitBytes
  if o.vc ≥ 6 then (s.countProto n).freeBuffers n o.vc 1
  else match s.arrivalHop o.header with
  | .here =>
    if (pktOfFlit o.header).isSome ∨ (treeOfFlit o.header).isSome then
      s.updFabric fun b => { b with rx := b.rx ++ [(n, o.vc, o.header, data)] }
    else (s.countProto n).freeBuffers n o.vc 1
  | .out m => s.transmit n m o.header data
  | .noEpoch => (s.updFabric fun b => { b with epochDrop := satAdd b.epochDrop 1 }).freeBuffers n o.vc 1
  | .noPort => s.freeBuffers n o.vc 1

/-- The header of a packet that goes on leaves as soon as its output port lets it (11 R381). -/
def State.cutThrough (s : State) (f : Flit) (n : Nat) : Option Nat :=
  if dflitsOf f = 0 ∨ vcIn f ≥ 6 then none
  else match s.arrivalHop f with
    | .out m => if (s.port m).state = .up ∧ s.mayLeave m (creditNeed n m) (vcIn f) then some m else none
    | _ => none

/-- The open packet of a port that has not gone on yet does, with the flits that have come, if its output port lets it:
no data flit waits for the rest of its packet (11 R381). A stomped one that is held whole goes nowhere (11 R378). -/
def State.startCut (s : State) (n : Nat) : State :=
  match (s.port n).open_ with
  | none => s
  | some o =>
    match (if o.forward.isSome ∨ o.stomped then none else s.cutThrough o.header n) with
    | none => s
    | some m =>
      let q := Tab.get 0#16 (s.port m).pseqTx o.vc + 1
      let s := ((s.updPort m fun p => { p with pseqTx := Tab.put p.pseqTx o.vc q }).sendFlit m (withPseq o.header q.toNat)
        0).noteHeader m true o.header
      (o.flits.foldl (fun s f => s.sendFlit m f 1) s).updPort n fun p => { p with open_ := some { o with forward := some m } }

/-- A port may have become free: packets that wait for it leave, and packets that are arriving for it go on. -/
def State.freePort (s : State) (m fuel : Nat) : State :=
  let s := s.drainPort m fuel
  (s.ports.map (·.1)).foldl State.startCut s

/-- The open packet of a port ends: stomped, forwarded to its last flit, or whole. -/
def State.endPacket (s : State) (n : Nat) : State :=
  match (s.port n).open_ with
  | none => s
  | some o =>
    let s := s.updPort n fun p => { p with open_ := none }
    if o.stomped then
      let s := (s.updPort n fun p => { p with stompedIn := satAdd p.stompedIn 1 }).freeBuffers n o.vc 1
      match o.forward with
      | some m => s.freePort m 64
      | none => s
    else match o.forward with
      | some m => (s.freeBuffers n o.vc 1).freePort m 64
      | none => s.deliver n o

/-- A slot of the open packet that is not valid data: a stomped flit of zeros goes on in its place (11 R378). -/
def State.stompSlot (s : State) (n : Nat) (o : OpenPkt) : State :=
  let s := match o.forward with
    | some m => if m < 56 then (s.sendFlit m 0 2).updPort m fun p => { p with stompedOut := satAdd p.stompedOut 1 } else s
    | none => s
  s.updPort n fun p => { p with open_ := some { o with flits := o.flits ++ [0], stomped := true } }

/-- The packet has all its slots. -/
def State.endIfFull (s : State) (n : Nat) : State := match (s.port n).open_ with
  | some o => if o.expect ≤ o.flits.length then s.endPacket n else s
  | none => s

/-- The open packet ends short of its data, because a header flit arrived (11 R377). -/
def State.cutShort (s : State) (n : Nat) : Nat → State
  | 0 => s
  | fuel + 1 =>
    match (s.port n).open_ with
    | none => s
    | some o =>
      if o.expect ≤ o.flits.length then s.endPacket n else (s.stompSlot n o).cutShort n fuel

/-- A header flit: the open packet ends; a flit that 11 R379 refuses is discarded and counted. -/
def State.header (s : State) (n : Nat) (f : Flit) (bad : Bool) (f' : State → State) : State :=
  let s := s.cutShort n 16
  if badLinkWord f ∨ bad then s.countProto n else f' s

/-- Packets of a channel that were lost before count `q`: their buffers count as freed (11 R375). -/
def State.catchUp (s : State) (n vc : Nat) (q : BitVec 16) : State :=
  let miss := q - Tab.get 0 (s.port n).pseqRx vc
  if miss.toNat < 32768 then
    (s.freeBuffers n vc miss.toNat).updPort n fun p => { p with pseqRx := Tab.put p.pseqRx vc q }
  else s

/-- A PACKET header opens a packet. -/
def State.openPacket (s : State) (n : Nat) (f : Flit) : State :=
  let vc := vcIn f
  let q := BitVec.ofNat 16 (pseqIn f)
  let s := s.catchUp n vc (q - 1)
  let s := s.updPort n fun p => { p with pseqRx := Tab.put p.pseqRx vc q }
  let s := s.noteHeader n false f
  let s := s.updPort n fun p => { p with open_ := some ⟨f, vc, dflitsOf f, [], false, none⟩ }
  ((s.startCut n).noteDepth n).endIfFull n

/-- A flit of one kind on a framed port: it ends the open packet, and only a port that is UP gives it effect (11 R377,
R379, R382). -/
def State.rxKind (s : State) (n kind : Nat) (f : Flit) (bad : Bool) (f' : State → State) : State :=
  if s.framed n ∧ kindOf f = kind then s.header n f bad fun s => if s.carries n then f' s else s else s

/-- PACKET; a header flit of a reserved kind comes here too, and is discarded (11 R379). -/
def State.rxPacket (s : State) (n : Nat) (f : Flit) : State :=
  if kindOf f > 5 then (if s.framed n then s.header n f true id else s)
  else s.rxKind n 0 f false fun s => s.openPacket n f

/-- A data flit or a stomped flit while no packet is open (11 R377). -/
def State.noteOrphan (s : State) (n : Nat) : State := s.updPort n fun p => { p with orphan := satAdd p.orphan 1 }

/-- DATA_FLIT. -/
def State.rxData (s : State) (n : Nat) (f : Flit) : State :=
  if !s.framed n then s
  else match (s.port n).open_ with
    | none => s.noteOrphan n
    | some o =>
      let s := match o.forward with
        | some m => s.sendFlit m f 1
        | none => s
      (s.updPort n fun p => { p with open_ := some { o with flits := o.flits ++ [f] } }).endIfFull n

/-- STOMPED_FLIT. -/
def State.rxStomped (s : State) (n : Nat) : State :=
  if !s.framed n then s
  else match (s.port n).open_ with
    | none => s.noteOrphan n
    | some o => (s.stompSlot n o).endIfFull n

/-- BAD_SLOT. -/
def State.rxBad (s : State) (n : Nat) : State :=
  if !s.framed n then s
  else
    let s := (s.updPort n fun p => { p with crcDiscard := satAdd p.crcDiscard 1 }).noteLinkErrors n 1
    match (s.port n).open_ with
    | none => s
    | some o => (s.stompSlot n o).endIfFull n

/-- A received codeword: one that the decoder of the port's mode corrects is counted, and so is one that it cannot
(11 R365, R395). -/
def State.noteWord (s : State) (n : Nat) (c : LaneWord) : State := match rxWord (s.port n).quick c with
  | some 0 => s
  | some _ => s.updPort n fun p => { p with fecCorrected := satAdd p.fecCorrected 1 }
  | none => (s.updPort n fun p => { p with fecUncorr := satAdd p.fecUncorr 1 }).noteLinkErrors n 1

def State.noteFec (s : State) (n : Nat) (w : Slot) : State := w.words.foldl (fun s c => s.noteWord n c) s

/-- A slot of the class that the command names arrives (11 R369); a slot of another class is another command's. -/
def State.receive (s : State) (n : Nat) (w : Slot) (cls : Option Nat) (f : State → State) : State :=
  if slotClass (s.port n).quick w = cls then f (if s.framed n then s.noteFec n w else s) else s

/-- The row PACKET (11 R377). -/
def execPacket (n : PortId) (w : Slot) (s : State) : Host.Outcome State Fault Refusal :=
  .next (s.receive n.val w (some 0) fun s => s.rxPacket n.val w.flit)

/-- The row DATA_FLIT (11 R377). -/
def execDataFlit (n : PortId) (w : Slot) (s : State) : Host.Outcome State Fault Refusal :=
  .next (s.receive n.val w (some 1) fun s => s.rxData n.val w.flit)

/-- The row STOMPED_FLIT (11 R378). Its content is not looked at. -/
def execStompedFlit (n : PortId) (w : Slot) (s : State) : Host.Outcome State Fault Refusal :=
  .next (s.receive n.val w (some 2) fun s => s.rxStomped n.val)

/-- The row BAD_SLOT (11 R376). -/
def execBadSlot (n : PortId) (w : Slot) (s : State) : Host.Outcome State Fault Refusal :=
  .next (s.receive n.val w none fun s => s.rxBad n.val)

/-! ## IDLE and CREDIT (11 R370, R374, R375) -/

/-- The eight counts of an IDLE or CREDIT flit. -/
def countsOf (f : Flit) (vc : Nat) : BitVec 16 := BitVec.ofNat 16 (ffld f (4 + 2 * vc) 15 0)

/-- IDLE. -/
def State.rxIdle (s : State) (n : Nat) (f : Flit) : State :=
  s.rxKind n 1 f false fun s => (List.range 8).foldl (fun s vc => s.catchUp n vc (countsOf f vc)) s

/-- The IDLE flit of a port. -/
def State.idleFlit (s : State) (n : Nat) : Flit :=
  flitOf (leBytes 4 (linkWord 0 0 0 1) ++ (List.range 8).flatMap fun vc => leBytes 2 (Tab.get 0 (s.port n).pseqTx vc).toNat)

/-- A framed port that has nothing else to send sends IDLE, with SENT (11 R370, R371; log entry 43). A packet that waits
for credit is nothing to send. -/
def State.sendIdle (s : State) (n : Nat) : State :=
  if s.framed n ∧ !s.portBusy n then
    (s.sendFlit n (s.idleFlit n) 0).updPort n fun p => { p with idleSent := p.pseqTx }
  else s

/-- The slots that have left on a port, oldest first. -/
def State.slotsOut (s : State) (n : Nat) : List (Flit × Word32) := s.out.reverse.flatMap fun m => match m with
  | .flit p f check => if p.val = n then [(f, check)] else []
  | .packet p slots => if p.val = n then slots else []
  | _ => []

/-- The codewords on the lanes of a port that carry those slots under its FEC mode, one slot behind the other, with IDLE
after them to the end of the last codeword (11 R365, R371; log entry 139). -/
def State.linesOut (s : State) (n : Nat) : List LaneWord :=
  let f := s.idleFlit n
  lineWords (s.port n).quick (s.slotsOut n) (f, checkWord f 0)

/-- CREDIT: packets that wait for the port leave. -/
def State.rxCredit (s : State) (n : Nat) (f : Flit) : State :=
  s.rxKind n 2 f false fun s =>
    (s.updPort n fun p => { p with
      peerFreed := (List.range 8).foldl (fun t vc => Tab.put t vc (countsOf f vc)) p.peerFreed }).freePort n 4096

/-- The CREDIT flit of a port. -/
def State.creditFlit (s : State) (n : Nat) : Flit :=
  flitOf (leBytes 4 (linkWord 0 0 0 2) ++ (List.range 8).flatMap fun vc => leBytes 2 (Tab.get 0 (s.port n).freed vc).toNat)

/-- CREDIT_SEND: FREED has changed since the last CREDIT flit. -/
def State.txCredit (s : State) (n : Nat) : State :=
  let p := s.port n
  if s.carries n ∧ !s.portBusy n ∧ (List.range 8).any (fun vc => Tab.get 0 p.freed vc ≠ Tab.get 0 p.freedSent vc) then
    (s.sendFlit n (s.creditFlit n) 0).updPort n fun p => { p with freedSent := p.freed }
  else s

/-- The row IDLE (11 R375). -/
def execIdle (n : PortId) (w : Slot) (s : State) : Host.Outcome State Fault Refusal :=
  .next (s.receive n.val w (some 0) fun s => s.rxIdle n.val w.flit)

/-- The row CREDIT (11 R374). -/
def execCredit (n : PortId) (w : Slot) (s : State) : Host.Outcome State Fault Refusal :=
  .next (s.receive n.val w (some 0) fun s => s.rxCredit n.val w.flit)

/-- The row CREDIT_SEND (11 R374). -/
def execCreditSend (n : PortId) (s : State) : Host.Outcome State Fault Refusal := .next (s.txCredit n.val)

/-! ## MARKER (11 R367) -/

/-- Slots between two MARKER flits. -/
def markerSpacing : Nat := 16384

/-- Markers in a row, each 16,384 slots after the last, up to the three that frame a stream. -/
def nextMarker (seen slots : Nat) : Nat := if slots = markerSpacing then min 3 (seen + 1) else 1

/-- MARKER: it frames the stream, and it falls inside packets without ending them. -/
def State.rxMarker (s : State) (n : Nat) (f : Flit) (slots : Nat) : State :=
  if s.framed n ∧ kindOf f = 5 then
    if badLinkWord f then s.countProto n
    else s.updPort n fun p => { p with markersSeen := nextMarker p.markersSeen slots }
  else s

/-- The slot is a valid MARKER under the code of a FEC mode. -/
def markerUnder (quick : Bool) (w : Slot) : Bool :=
  slotClass quick w = some 0 && kindOf w.flit = 5 && !badLinkWord w.flit

/-- A MARKER on a port in TRAINING: the FEC mode that its training chooses decides what the slot is, so the markers in a
row are counted under either code (11 R365 to R367). -/
def State.trainMarker (s : State) (n : Nat) (w : Slot) (slots : Nat) : State :=
  s.updPort n fun p => { p with
    markersSeen := if markerUnder false w then nextMarker p.markersSeen slots else 0
    markersQuick := if markerUnder true w then nextMarker p.markersQuick slots else 0 }

/-- MARKER_SEND. -/
def State.txMarker (s : State) (n : Nat) : State :=
  if s.framed n ∨ (s.moves ∧ (s.port n).state = .training) then
    let f := flitOf (leBytes 4 (linkWord 0 0 0 5) ++ leBytes 2 (s.port n).markerSeq.toNat ++ List.replicate 58 0xA5)
    (s.sendFlit n f 0).updPort n fun p => { p with markerSeq := p.markerSeq + 1 }
  else s

/-- The row MARKER (11 R367). -/
def execMarker (n : PortId) (m : MarkerSlot) (s : State) : Host.Outcome State Fault Refusal :=
  .next (if s.moves ∧ (s.port n.val).state = .training then s.trainMarker n.val m.slot m.since
    else s.receive n.val m.slot (some 0) fun s => s.rxMarker n.val m.slot.flit m.since)

/-- The row MARKER_SEND (11 R367). -/
def execMarkerSend (n : PortId) (s : State) : Host.Outcome State Fault Refusal := .next (s.txMarker n.val)

/-! ## Training (11 R380 to R386, 18 R581) -/

/-- FAB_SYS_DIM takes effect at a training (11 R395). -/
def State.takeDims (s : State) : State := s.updFabric fun b => { b with dimInForce := b.sysDim }

/-- What a port was still sending on of arriving packets is discarded (11 R380). -/
def State.cutForward (s : State) (n : Nat) : State :=
  { s with ports := s.ports.map fun e => (e.1, match e.2.open_ with
      | some o => if o.forward = some n then { e.2 with open_ := some { o with forward := some 56 } } else e.2
      | none => e.2) }

/-- What a port holds of its link is lost (11 R363, R380): what waits to leave on it, and what is being forwarded to it.
Packets already delivered keep no buffer of the link. -/
def State.dropLink (s : State) (n : Nat) : State :=
  let s := s.cutForward n
  let lost := s.fabric.outQ.filter fun o => o.port = n
  let s := lost.foldl (fun s o => (s.swqStep o.header false).freeBuffers o.src o.vc 1) s
  s.updFabric fun b => { b with
    outQ := (b.outQ.filter fun o => o.port ≠ n).map fun o => if o.src = n then { o with src := 56 } else o
    rx := b.rx.map fun e => if e.1 = n then (56, e.2) else e }

/-- A port begins to train, and credits start from the division in force after it (11 R373, R374, R380). The exchanges
of the running interval stay in its mean (11 R393). -/
def State.train (s : State) (n : Nat) (k : TrainKind) : State :=
  let s := s.takeDims.dropLink n
  let t := s.time
  s.updPort n fun p => { p with
    state := .training, training := some k, trainStart := t, peer := none, open_ := none, division := p.creditCfg,
    pseqTx := [], pseqRx := [], freed := [], freedSent := [], idleSent := [], peerFreed := [], markersSeen := 0,
    markersQuick := 0, laneLock := 0
    beacon := { BeaconState.zero with exchanges := p.beacon.exchanges, delaySum := p.beacon.delaySum } }

/-- A port is DISABLED: it sends and accepts nothing, so that a packet which is arriving ends stomped, and what waits for
the port is lost (11 R363, R378). -/
def State.disablePort (s : State) (n : Nat) : State :=
  if (s.port n).enable then
    ((s.cutShort n 16).dropLink n).updPort n fun p => { p.setEnable false with open_ := none }
  else s

/-- LINK_FAILED: a port of a package in SERVICE is FAILED (11 R386). -/
def State.linkFailed (s : State) (n : Nat) : State :=
  let s := s.raiseMany s.livePartitions fun s =>
    { s.record 0x0505 ((30 + n / 7) * 256 + n % 7) 0 n (s.portReg n 0x08) (s.portReg n 0x10) with d3 := Config.freeWord s.free }
  s.halt 0x0C n

/-- A port enters FAILED (11 R383, R386, 18 R594). -/
def State.portFailed (s : State) (n : Nat) : State :=
  let s := s.updPort n fun p => { p with state := .failed, training := none, retrain := false }
  if s.inService then s.linkFailed n
  else if s.starting then s.halt 0x07 n
  else s

/-- The identity of a peer, as R385 compares it. -/
def PeerInfo.ident (p : PeerInfo) : BitVec 11 × BitVec 4 × BitVec 6 := (p.tray, p.slot, p.port)

/-- FAB_LANE of a lane with one loss of clock recovery more; LOCK_LOSSES saturates (11 R395). -/
def laneLoss (w : Word) : Word := if w.toNat % 256 = 255 then w else w + 1

/-- What the port was locked to is gone: a retrain in SERVICE must find the same peer (11 R386), and a time source on the
port is lost (02 R55). -/
def State.unlink (s : State) (n : Nat) (p : Port) : State :=
  let s := s.updPort n fun q => { q with oldPeer := if p.state = .up then p.peer.map PeerInfo.ident else q.oldPeer }
  s.loseParent n

/-- LOSE_LOCK: the port retrains, by a fast retrain first; what it held is lost. `lanes` are those that lost signal or
clock recovery. A fast retrain in SERVICE that loses lock again goes on: its 10 ms run from the first loss (11 R386). -/
def State.loseLock (s : State) (n : Nat) (lanes : BitVec 4) : State :=
  if !s.framed n then s
  else
    let p := s.port n
    let again : Bool := s.inService && p.state = .discovery && p.training = some .fast
    let s := (s.cutShort n 16).train n (if s.mgmt.state = .coldStart then .full else .fast)
    let s := s.updPort n fun q => { q with
      trainStart := if again then p.trainStart else q.trainStart
      lanes := (List.range 4).foldl (fun t l =>
        if lanes.getLsbD l then Tab.put t l (laneLoss (Tab.get 0 t l)) else t) q.lanes }
    s.unlink n p

/-- PEER_SIGNAL_DETECTED: an enabled port in DOWN begins to train. -/
def State.peerSignal (s : State) (n : Nat) : State :=
  if s.moves ∧ (s.port n).enable ∧ (s.port n).state = .down then
    s.train n (if s.mgmt.state = .coldStart ∨ !(s.port n).savedCoeff then .full else .fast)
  else s

/-- An end's request for Quick FEC (11 R366): `good` says that the bit error ratio of an L-port allows it. -/
def Port.request (p : Port) (n : Nat) (good optical : Bool) : Bool :=
  if portRole n = 2 ∨ p.fecMode = 1 then false
  else if p.fecMode = 2 then portRole n = 0 || !optical
  else portRole n = 0 || (!optical && good)

/-- FAB_LANE of the four lanes after training: BER_EXP, EYE_MV, and no loss yet (11 R395). -/
def laneWords (r : TrainReport) : Table Word :=
  (List.range 4).foldl (fun t l =>
    let e := r.lanes.getD l (0, 0)
    Tab.put t l (BitVec.ofNat 64 (e.1.toNat * 2 ^ 24 + e.2.toNat * 2 ^ 16))) []

/-- The FEC mode that a training ends in: a fast retrain keeps the saved one (11 R366, R384). -/
def Port.modeOf (p : Port) (n : Nat) (good peerQuick optical : Bool) : Bool :=
  if p.training = some .fast ∧ p.savedCoeff then p.savedQuick else p.request n good optical && peerQuick

/-- PORT_TRAINING_DONE, once the stream is framed under the mode that the training ends in (11 R365 to R367). -/
def State.trained (s : State) (n : Nat) (good peerQuick : Bool) (r : TrainReport) : State :=
  let quick := (s.port n).modeOf n good peerQuick r.optical
  if !s.moves ∨ (s.port n).state ≠ .training ∨
      (if quick then (s.port n).markersQuick else (s.port n).markersSeen) < 3 then s
  else s.updPort n fun p =>
    { p with
      state := .discovery, retrain := false, wantQuick := p.request n good r.optical, optical := r.optical, laneLock := 15
      quick := quick, markersSeen := 3
      creditInForce := r.division, lanes := laneWords r, coeff := r.coeff }

/-- A port has waited at least `t` ns since its training began. -/
def State.trainedFor (s : State) (n t : Nat) : Bool := (s.port n).trainStart + t ≤ s.time

/-- TRAINING_TIMEOUT: full training has not reached DISCOVERY in 2 s. In QUIESCED the port begins again (18 R581). -/
def State.fullTimeout (s : State) (n : Nat) : State :=
  let p := s.port n
  if s.moves ∧ p.state = .training ∧ p.training = some .full ∧ s.trainedFor n 2000000000 then
    if s.mgmt.state = .quiesced then (s.updPort n fun p => { p with retrain := false }).train n .fast else s.portFailed n
  else s

/-- FAST_RETRAIN_TIMEOUT: a fast retrain is not done in 10 ms. -/
def State.fastTimeout (s : State) (n : Nat) : State :=
  let p := s.port n
  if s.moves ∧ p.training = some .fast ∧ s.trainedFor n 10000000 ∧
      (p.state = .training ∨ (s.inService ∧ p.state = .discovery)) then
    if s.inService then s.portFailed n else s.train n .full
  else s

/-- FAB_PORT_RETRAIN: full training starts on an enabled port; RETRAIN reads 1 until it ends (11 R395). -/
def State.fullRetrain (s : State) (n : Nat) : State :=
  if s.moves ∧ (s.port n).enable then
    let p := s.port n
    (((s.cutShort n 16).train n .full).updPort n fun q => { q with retrain := true }).unlink n p
  else s

/-- The row LOSE_LOCK (11 R380). -/
def execLoseLock (l : LockLoss) (s : State) : Host.Outcome State Fault Refusal :=
  .next (s.loseLock l.port.val l.lanes)

/-- The row PEER_SIGNAL_DETECTED (11 R382). -/
def execPeerSignalDetected (n : PortId) (s : State) : Host.Outcome State Fault Refusal := .next (s.peerSignal n.val)

/-- The row PORT_TRAINING_DONE (11 R383). -/
def execPortTrainingDone (n : PortId) (good peerQuick : Bool) (r : TrainReport) (s : State) : Host.Outcome State Fault Refusal :=
  .next (s.trained n.val good peerQuick r)

/-- The row TRAINING_TIMEOUT (11 R383). -/
def execTrainingTimeout (n : PortId) (s : State) : Host.Outcome State Fault Refusal := .next (s.fullTimeout n.val)

/-- The row FAST_RETRAIN_TIMEOUT (11 R384). -/
def execFastRetrainTimeout (n : PortId) (s : State) : Host.Outcome State Fault Refusal := .next (s.fastTimeout n.val)

/-- The row FAB_PORT_RETRAIN (11 R395). -/
def execFabPortRetrain (n : PortId) (s : State) : Host.Outcome State Fault Refusal := .next (s.fullRetrain n.val)

/-! ## Discovery (11 R388 to R390) -/

/-- This package's slot, from its straps, and its tray ID with its VALID bit. -/
def State.ownSlot (s : State) : Nat := s.mgmt.straps.toNat % 16
def State.ownTray (s : State) : Nat := s.mgmt.tray.toNat % 2048
def State.trayValid (s : State) : Bool := s.mgmt.tray.getLsbD 15

/-- The DISCOVERY flit of a port. -/
def State.discoveryFlit (s : State) (n : Nat) : Flit :=
  let p := s.port n
  flitOf (leBytes 4 (linkWord 0 0 0 4) ++
    leBytes 2 (n + portRole n * 2 ^ 8 + p.wantQuick.toNat * 2 ^ 10 + p.optical.toNat * 2 ^ 11) ++
    leBytes 2 (s.ownTray + s.trayValid.toNat * 2 ^ 15) ++ leBytes 8 s.ownSlot ++ leBytes 8 (s.pkgReg 0))

/-- DISCOVERY_SEND. -/
def State.txDiscovery (s : State) (n : Nat) : State :=
  if s.framed n ∧ !s.portBusy n then s.sendFlit n (s.discoveryFlit n) 0 else s

/-- The peer that a DISCOVERY flit reports. -/
def peerOf (f : Flit) : PeerInfo where
  port := BitVec.ofNat 6 (ffld f 4 5 0)
  role := BitVec.ofNat 2 (ffld f 4 9 8)
  quickOk := bit (ffld f 4 15 0) 10
  optical := bit (ffld f 4 15 0) 11
  tray := BitVec.ofNat 11 (ffld f 6 10 0)
  trayValid := bit (ffld f 6 15 0) 15
  slot := BitVec.ofNat 4 (ffld f 8 3 0)

/-- A coordinate of a tray replaced. -/
def withCoord (tray dim c : Nat) : Nat :=
  let x := if dim = 0 then c else trayCoord tray 0
  let y := if dim = 1 then c else trayCoord tray 1
  let z := if dim = 2 then c else trayCoord tray 2
  x + 16 * y + 256 * z

/-- The tray that the wiring gives the peer of a port; `none` for an S-port. -/
def State.wiredTray (s : State) (n : Nat) : Option Nat := match portRole n with
  | 0 => some s.ownTray
  | 1 =>
    let (dim, plus, _) := lPort n
    let c := trayCoord s.ownTray dim
    let k := s.dimSize dim
    some (withCoord s.ownTray dim (if plus then (c + 1) % k else (c + k - 1) % k))
  | _ => none

/-- The peer passes every check that can be made (11 R389). -/
def State.wired (s : State) (n : Nat) (p : PeerInfo) : Bool :=
  let place := match portRole n with
    | 0 =>
      let (slot, link) := tPeer s.ownSlot n
      p.role = 0 && p.slot.toNat = slot && p.port.toNat = tPortTo slot s.ownSlot link
    | 1 =>
      let (dim, plus, k) := lPort n
      p.role = 1 && p.slot.toNat = s.ownSlot && p.port.toNat = lPortNo dim (!plus) k
    | _ => p.role = 2
  let tray : Bool := match s.wiredTray n with
    | some t => !(s.trayValid && p.trayValid) || p.tray.toNat = t
    | none => true
  place && tray

/-- A port finds the wrong peer (11 R389, R385, R386, 18 R590, R592): after a retrain in SERVICE it has FAILED. -/
def State.wrongPeer (s : State) (n : Nat) : State :=
  let again : Bool := s.inService && (s.port n).training.isSome
  let s := s.updPort n fun p => { p with state := if again then .failed else .mismatch, training := none, retrain := false }
  if s.inService then s.linkFailed n
  else if s.mgmt.state = .warmStart then s.halt 0x0A (4 + n * 256)
  else if s.mgmt.state = .coldStart ∧ s.mgmt.step = 8 then s.halt 0x08 (n + 1)
  else s

/-- A port enters UP (11 R386, R389): a retrain in SERVICE is counted, and no former peer is looked for any more. -/
def State.portUp (s : State) (n : Nat) : State :=
  let again : Bool := s.inService && (s.port n).training.isSome
  let s := s.updPort n fun p => { p with
    state := .up, training := none, oldPeer := none, retrains := satAdd p.retrains again.toNat }
  if again then
    { s with baro := { s.baro with retrainTotal := Tab.put s.baro.retrainTotal n (Tab.get 0 s.baro.retrainTotal n + 1) } }
  else s

/-- The peer is the one that a retrain in SERVICE or a warm start must find again (11 R385, R386). -/
def State.samePeer (s : State) (n : Nat) (p : PeerInfo) : Bool :=
  if s.mgmt.state = .warmStart then
    match Tab.get? s.mgmt.warm.peers n with
    | some q => q = p.ident
    | none => true
  else match (s.port n).oldPeer with
    | some q => !s.inService || q = p.ident
    | none => true

/-- DISCOVERY: the peer is recorded and checked. -/
def State.rxDiscovery (s : State) (n : Nat) (f : Flit) : State :=
  let bad := ffld f 4 15 12 ≠ 0 || ffld f 4 7 6 ≠ 0 || ffld f 6 14 11 ≠ 0
  if s.framed n ∧ kindOf f = 4 then
    s.header n f bad fun s =>
      let p := peerOf f
      let s := s.updPort n fun q => { q with peer := some p, peerIdent := BitVec.ofNat 64 (ffld f 16 63 0) }
      if (s.port n).state = .mismatch then s
      else if !s.wired n p ∨ !s.samePeer n p then s.wrongPeer n
      else if (s.port n).state = .discovery then s.portUp n
      else s
  else s

/-- The row DISCOVERY (11 R389). -/
def execDiscovery (n : PortId) (w : Slot) (s : State) : Host.Outcome State Fault Refusal :=
  .next (s.receive n.val w (some 0) fun s => s.rxDiscovery n.val w.flit)

/-- The row DISCOVERY_SEND (11 R388). -/
def execDiscoverySend (n : PortId) (s : State) : Host.Outcome State Fault Refusal := .next (s.txDiscovery n.val)

/-! ## What the ports do in a tick (11 R371, 12 R429, R430) -/

/-- Slots of 0.68 ns, and cycles of an X-die's 1.25 GHz, that begin in the tick that starts at `t` ns. -/
def slotsIn (t : Nat) : Nat := 25 * (t + 1) / 17 - 25 * t / 17
def xCycles (t : Nat) : Nat := 5 * (t + 1) / 4 - 5 * t / 4

/-- A packet that waits for its port holds too few credits. -/
def State.starved (s : State) (o : OutPkt) : Bool := (s.port o.port).credits o.vc < o.need

/-- Slots with a packet waiting and no credit, on a port that the Anemometer selects. -/
def State.stallSlots (s : State) (n : Nat) : State :=
  if s.carries n ∧ (s.fabric.outQ.any fun o => o.port = n && s.starved o) then
    s.noteAnem (s.anemSelects n) fun a => { a with stall := satAdd a.stall (slotsIn s.time) }
  else s

/-- Cycles for which the head of a switch core's queue waits for credit: X-die and virtual channel as one key. -/
def State.stallQueue (s : State) (key : Nat) : State :=
  match s.fabric.outQ.find? fun o => flitAddr o.header / 512 % 4 * 8 + o.vc = key with
  | some o => if s.starved o then s.updFabric fun b => { b with
      swqStall := Tab.put b.swqStall key (satAdd (Tab.get 0 b.swqStall key) (xCycles s.time)) } else s
  | none => s

/-- The ports in a tick: stalls are counted, and ports with nothing else to send send IDLE in each slot of the tick. -/
def State.linkTick (s : State) : State :=
  if !s.moves then s else
  let s := ((s.fabric.outQ.map (·.port)).eraseDups).foldl (fun s n => s.stallSlots n) s
  let s := ((s.fabric.outQ.map fun o => flitAddr o.header / 512 % 4 * 8 + o.vc).eraseDups).foldl (fun s k => s.stallQueue k) s
  (s.ports.map (·.1)).foldl (fun s n => (List.range (slotsIn s.time)).foldl (fun s _ => s.sendIdle n) s) s

/-! ## Beacons (11 R391 to R394) -/

/-- Ticks of a beacon interval. -/
def beaconInterval : Nat := 65536

/-- The BEACON flit of a port, sent at the present count and a fraction. -/
def State.beaconFlit (s : State) (n : Nat) (frac : Nat) : Flit :=
  let b := (s.port n).beacon
  let z := s.season
  let prio := if z.role ≠ 0 then z.inForce.1 else match z.parent with
    | some m => (s.port m.val).beacon.peerPriority
    | none => z.inForce.1
  flitOf (leBytes 4 (linkWord 0 0 0 3) ++ leBytes 1 (frac % 16 + b.lastRxAt % 16 * 16) ++ [prio] ++
    leBytes 2 (z.master.getD s.self).toNat ++ leBytes 8 s.now ++ leBytes 8 (b.lastRxTx / 16) ++
    leBytes 8 (b.lastRxAt / 16) ++ leBytes 1 (b.lastRxTx % 16) ++ leBytes 1 z.state.code ++ [z.hops] ++
    leBytes 1 z.role.toNat ++ leBytes 2 s.self.toNat)

/-- BEACON_SEND: on T-ports and L-ports in UP, not inside a packet. -/
def State.txBeacon (s : State) (n : Nat) (frac : Nat) : State :=
  if s.carries n ∧ portRole n ≠ 2 ∧ s.season.running ∧ !s.portBusy n then
    let at_ := s.now * 16 + frac % 16
    (s.sendFlit n (s.beaconFlit n frac) 0).updPort n fun p =>
      { p with beacon := { p.beacon with sent := at_ :: p.beacon.sent } }
  else s

/-- A beacon's four times: an exchange, when it echoes a beacon of this or the last interval (11 R393). Times are in
1/16 tick; the result is the delay and the offset of the peer, both halves rounded towards zero (02 R50; log entry
115). -/
def BeaconState.exchange (b : BeaconState) (t1 t2 t3 t4 : Nat) : Option (Int × Int) :=
  if b.sent.contains t1 then
    some ((((t2 : Int) - t1) + ((t4 : Int) - t3)).tdiv 2, (((t2 : Int) - t1) - ((t4 : Int) - t3)).tdiv 2)
  else none

/-- BEACON: an exchange, the election fields, and the choice of the source. -/
def State.rxBeacon (s : State) (n : Nat) (f : Flit) (rxFrac : Nat) : State :=
  let bad := ffld f 6 15 15 ≠ 0 || ffld f 33 7 3 ≠ 0 || ffld f 35 7 2 ≠ 0 || ffld f 36 15 15 ≠ 0
  s.rxKind n 3 f bad fun s =>
    if portRole n = 2 then s
    else
      let t1 := ffld f 16 63 0 * 16 + ffld f 32 3 0
      let t2 := ffld f 24 63 0 * 16 + ffld f 4 7 4
      let t3 := ffld f 8 63 0 * 16 + ffld f 4 3 0
      let t4 := s.now * 16 + rxFrac % 16
      let ex := (s.port n).beacon.exchange t1 t2 t3 t4
      let s := s.updPort n fun p => { p with beacon :=
        let b := { p.beacon with
          lastRxTx := t3, lastRxAt := t4, heard := true, peerPriority := BitVec.ofNat 8 (ffld f 5 7 0)
          peerMaster := BitVec.ofNat 15 (ffld f 6 14 0), peerHops := BitVec.ofNat 8 (ffld f 34 7 0)
          peerRole := BitVec.ofNat 2 (ffld f 35 1 0) }
        match ex with
        | some (d, _) => { b with exchanges := b.exchanges + 1, delaySum := b.delaySum + d, intervalExchange := true }
        | none => b }
      let s := s.elect
      match ex with
      | some (_, off) => if s.season.parent.map (·.val) = some n then s.measured (-off) else s
      | none => s

/-- BEACON_INTERVAL_END: a miss is counted, and the fourth in a row loses the time source (11 R394). -/
def State.endInterval (s : State) (n : Nat) : State :=
  if s.carries n ∧ portRole n ≠ 2 then
    let hit := (s.port n).beacon.intervalExchange
    let lim := (s.now - beaconInterval) * 16
    let s := s.updPort n fun p =>
      let miss := if hit then 0 else p.beacon.misses + 1
      { p with
        beaconMiss := if hit then p.beaconMiss else satAdd p.beaconMiss 1
        beacon := { p.beacon with
          misses := miss, intervalExchange := false, heard := p.beacon.heard && miss < 4
          sent := p.beacon.sent.filter fun t => lim ≤ t } }
    if !hit ∧ (s.port n).beacon.misses ≥ 4 then s.loseParent n else s
  else s

/-- The row BEACON (11 R393). -/
def execBeacon (n : PortId) (w : Slot) (rxFrac : BitVec 4) (s : State) : Host.Outcome State Fault Refusal :=
  .next (s.receive n.val w (some 0) fun s => s.rxBeacon n.val w.flit rxFrac.toNat)

/-- The row BEACON_SEND (11 R391). -/
def execBeaconSend (n : PortId) (txFrac : BitVec 4) (s : State) : Host.Outcome State Fault Refusal :=
  .next (s.txBeacon n.val txFrac.toNat)

/-- The row BEACON_INTERVAL_END (11 R394). -/
def execBeaconIntervalEnd (n : PortId) (s : State) : Host.Outcome State Fault Refusal := .next (s.endInterval n.val)

end Sys2Proof.Machine
end

