-- ==== Sys2Proof/Machine/Digest.lean ====
section
/-! DEFINITION. SHA-384, which 18 R585 and R586 name (log entry 117). -/

namespace Sys2Proof.Machine

open Sys2Proof

/-! ## The constants: fraction bits of roots of the first primes -/

/-- The largest number of `n` more bits, above those of `r`, whose power `k` does not exceed `x`. -/
def rootBits (k x : Nat) : Nat → Nat → Nat
  | 0, r => r
  | n + 1, r => rootBits k x n (if (r + 2 ^ n) ^ k ≤ x then r + 2 ^ n else r)

/-- The first 64 fraction bits of the root of order `k` of a number whose root lies below 8. -/
def rootFraction (k p : Nat) : Nat := rootBits k (p * 2 ^ (64 * k)) 67 0 % 2 ^ 64

/-- The 80 primes below 410. -/
def smallPrimes : List Nat := (List.range 410).filter fun n => 2 ≤ n && (List.range n).all fun d => d < 2 || n % d ≠ 0

/-- The round constants, from cube roots, and the initial value of SHA-384, from square roots of the ninth prime on. -/
def shaK : List Nat := smallPrimes.map (rootFraction 3)
def shaInit : List Nat := ((smallPrimes.drop 8).take 8).map (rootFraction 2)

/-! ## The compression -/

def rotr64 (x n : Nat) : Nat := (x >>> n) ||| (x <<< (64 - n)) % 2 ^ 64

/-- The message schedule, newest word first. -/
def shaSchedule : Nat → List Nat → List Nat
  | 0, w => w
  | k + 1, w =>
    let a := w.getD 1 0
    let b := w.getD 14 0
    let s1 := rotr64 a 19 ^^^ rotr64 a 61 ^^^ (a >>> 6)
    let s0 := rotr64 b 1 ^^^ rotr64 b 8 ^^^ (b >>> 7)
    shaSchedule k ((s1 + w.getD 6 0 + s0 + w.getD 15 0) % 2 ^ 64 :: w)

/-- One round, with its constant and its schedule word added. -/
def shaRound (v : List Nat) (x : Nat) : List Nat := match v with
  | [a, b, c, d, e, f, g, h] =>
    let t1 := h + (rotr64 e 14 ^^^ rotr64 e 18 ^^^ rotr64 e 41) + ((e &&& f) ^^^ ((2 ^ 64 - 1 - e) &&& g)) + x
    let t2 := (rotr64 a 28 ^^^ rotr64 a 34 ^^^ rotr64 a 39) + ((a &&& b) ^^^ (a &&& c) ^^^ (b &&& c))
    [(t1 + t2) % 2 ^ 64, a, b, c, (d + t1) % 2 ^ 64, e, f, g]
  | _ => v

/-- One block of 16 words. -/
def shaBlock (h w : List Nat) : List Nat :=
  let v := (List.zipWith (· + ·) shaK (shaSchedule 64 w.reverse).reverse).foldl shaRound h
  List.zipWith (fun a b => (a + b) % 2 ^ 64) h v

/-- Eight bytes as a word, most significant byte first, and back. -/
def beNat (b : Bytes) : Nat := b.foldl (fun acc x => acc * 256 + x.toNat) 0
def beBytes (n v : Nat) : Bytes := (leBytes n v).reverse

/-- The message with its padding. -/
def shaPad (m : Bytes) : Bytes := m ++ [0x80] ++ zeros ((239 - m.length % 128) % 128) ++ beBytes 16 (8 * m.length)

/-- The blocks of a padded message. -/
def shaBlocks : Nat → Bytes → List Nat → List Nat
  | 0, _, h => h
  | k + 1, m, h =>
    shaBlocks k (m.drop 128) (shaBlock h ((List.range 16).map fun i => beNat ((m.drop (8 * i)).take 8)))

/-- The SHA-384 of a byte string, 48 bytes. -/
def sha384 (m : Bytes) : Bytes :=
  let p := shaPad m
  ((shaBlocks (p.length / 128) p shaInit).take 6).flatMap (beBytes 8)

end Sys2Proof.Machine
end

