-- ==== Sys2Proof/Machine/Signature.lean ====
section
/-! DEFINITION. Whether an ECDSA P-384 signature verifies, which 18 R585 names (log entry 117). -/

namespace Sys2Proof.Machine

open Sys2Proof

/-! ## The field and the curve y^2 = x^3 - 3x + b -/

def curveP : Nat := 2 ^ 384 - 2 ^ 128 - 2 ^ 96 + 2 ^ 32 - 1
def curveB : Nat := 0xB3312FA7E23EE7E4988E056BE3F82D19181D9C6EFE8141120314088F5013875AC656398D8A2ED19D2A85C8EDD3EC2AEF
/-- The order of the base point. -/
def curveN : Nat := 0xFFFFFFFFFFFFFFFFFFFFFFFFFFFFFFFFFFFFFFFFFFFFFFFFC7634D81F4372DDF581A0DB248B0A77AECEC196ACCC52973

def fmul (a b : Nat) : Nat := a * b % curveP
def fsub (a b : Nat) : Nat := (a + curveP - b) % curveP

/-- b to the power whose bits below `k` are those of `e`, modulo `m`. -/
def powMod (m b e : Nat) : Nat → Nat
  | 0 => 1
  | k + 1 => let h := powMod m b (e / 2) k; if e % 2 = 1 then h * h % m * b % m else h * h % m

/-- A point (x / z^2, y / z^3); z is 0 at infinity. -/
structure CurvePoint where
  x : Nat
  y : Nat
  z : Nat
deriving DecidableEq, Repr

def curveBase : CurvePoint where
  x := 0xAA87CA22BE8B05378EB1C71EF320AD746E1D3B628BA79B9859F741E082542A385502F25DBF55296C3A545E3872760AB7
  y := 0x3617DE4A96262C6F5D9E98BF9292DC29F8F41DBD289A147CE9DA3113B5F0B8C00A60B1CE1D7E819D7A431D7C90EA0E5F
  z := 1

def CurvePoint.double (p : CurvePoint) : CurvePoint :=
  let yy := fmul p.y p.y
  let zz := fmul p.z p.z
  let s := fmul (4 * p.x) yy
  let m := fmul (3 * fsub p.x zz) (p.x + zz)
  let x := fsub (fmul m m) (2 * s % curveP)
  ⟨x, fsub (fmul m (fsub s x)) (fmul (8 * yy) yy), fmul (2 * p.y) p.z⟩

def CurvePoint.add (p q : CurvePoint) : CurvePoint :=
  if p.z = 0 then q
  else if q.z = 0 then p
  else
    let zp := fmul p.z p.z
    let zq := fmul q.z q.z
    let u := fmul p.x zq
    let s := fmul p.y (fmul zq q.z)
    let h := fsub (fmul q.x zp) u
    let r := fsub (fmul q.y (fmul zp p.z)) s
    if h = 0 then (if r = 0 then p.double else ⟨1, 1, 0⟩)
    else
      let hh := fmul h h
      let hhh := fmul hh h
      let v := fmul u hh
      let x := fsub (fsub (fmul r r) hhh) (2 * v % curveP)
      ⟨x, fsub (fmul r (fsub v x)) (fmul s hhh), fmul h (fmul p.z q.z)⟩

/-- `n` times a point, for the low `k` bits of `n`. -/
def CurvePoint.times (p : CurvePoint) (n : Nat) : Nat → CurvePoint
  | 0 => ⟨1, 1, 0⟩
  | k + 1 =>
    let d := (p.times (n / 2) k).double
    if n % 2 = 1 then d.add p else d

/-- A public key in the uncompressed form: a point of the curve (18 R585). -/
def curveKey (key : Bytes) : Option CurvePoint :=
  let x := beNat ((key.drop 1).take 48)
  let y := beNat ((key.drop 49).take 48)
  if key.length = 97 ∧ key.head? = some 4 ∧ x < curveP ∧ y < curveP ∧
    fmul y y = (fmul (fmul x x) x + fsub curveB (3 * x % curveP)) % curveP then some ⟨x, y, 1⟩
  else none

/-- Whether the signature, r then s, verifies over a message of which SHA-384 is taken, under a public key. -/
def signatureOk (key message signature : Bytes) : Bool :=
  let r := beNat (signature.take 48)
  let s := beNat ((signature.drop 48).take 48)
  match curveKey key with
  | none => false
  | some q =>
    if signature.length ≠ 96 ∨ r = 0 ∨ s = 0 ∨ curveN ≤ r ∨ curveN ≤ s then false
    else
      let w := powMod curveN s (curveN - 2) 384
      let e := beNat (sha384 message)
      let p := (curveBase.times (e * w % curveN) 384).add (q.times (r * w % curveN) 384)
      let zz := fmul p.z p.z
      p.z ≠ 0 && (p.x = fmul r zz || (r + curveN < curveP && p.x = fmul (r + curveN) zz))

end Sys2Proof.Machine
end

