-- ==== Sys2Proof/Machine/Starts.lean ====
section
/-! DEFINITION. OFF, cold starts, warm starts, their steps and their ends (18), and what each reset keeps. -/

namespace Sys2Proof.Machine

open Sys2Proof

/-! ## OFF (18 R578, R597) -/

/-- What outlives the loss of standby: the SSD, the fuses, and the model's own fields. -/
def State.standbyLost (s : State) : State :=
  { State.reset with
    pending := s.pending, part := s.part, out := s.out, time := s.time, free := s.free
    ckpt := { State.reset.ckpt with frost := s.ckpt.frost, frostKeep := s.ckpt.frostKeep, snowGen := s.ckpt.snowGen }
    mgmt := { Mgmt.reset with
      minSvn := s.mgmt.minSvn, keyHashes := s.mgmt.keyHashes, revoked := s.mgmt.revoked
      pins := s.mgmt.pins, straps := s.mgmt.pins } }

/-- PKG_MGMT_PWR keeps what it shows while the power controller does not run (19 R624). -/
def State.keepPwr (s : State) : State := let v := BitVec.ofNat 32 (s.mgmtReg 0x1C); s.updMgmt fun m => { m with pwrKept := v }

/-- The package enters OFF: the main domain and what firmware held are lost, the standby domain's registers stay. A
reference that was lost stays so until a start looks for it (19 R616); sensors keep their last reading. -/
def State.enterOff (s : State) : State :=
  let lost := s.standbyLost
  let s := s.keepPwr
  { lost with
    hbmStacks := s.hbmStacks.map fun e => (e.1, { StackState.zero with sensor := e.2.sensor })
    dieFail := s.dieFail, tap := s.tap
    season := { Season.reset with
      priority := s.season.priority, source := s.season.source, ppsBase := s.season.ppsBase,
      holdoverMax := s.season.holdoverMax }
    mgmt := { s.mgmt with
      state := .off, warmEntered := false, warmNoSpare := none
      mainRails := false, hbmRails := false, bootSram := [], hostCfg := [] }
    power := { Power.reset with temps := s.power.temps } }

/-- The boundary scan instruction is no longer in effect (19 R618). -/
def State.tapBypass (s : State) : State :=
  let keep : Bool := s.tap.instr = .idcode || s.tap.instr = .samplePreload
  { s with tap := { s.tap with instr := if keep then s.tap.instr else .bypass } }

/-- The row PWROK_LOW (18 R578, 19 R602). -/
def execPwrokLow (s : State) : Host.Outcome State Fault Refusal :=
  .next (if s.mgmt.standby then
    s.enterOff.tapBypass.updMgmt fun m => { m with pwrok := false, thermLatch := false, warm := WarmRecord.reset }
  else s)

/-- The row PWROK_HIGH (19 R601): the package waits for an edge of a reset input. -/
def execPwrokHigh (s : State) : Host.Outcome State Fault Refusal :=
  .next (if s.mgmt.standby then s.updMgmt fun m => { m with pwrok := true } else s)

/-- The row COLD_RESET_ASSERT (18 R578): COLD_RST_N has been low for 1 ms. -/
def execColdResetAssert (s : State) : Host.Outcome State Fault Refusal :=
  .next (if s.mgmt.standby then s.enterOff.updMgmt fun m => { m with coldRst := false } else s)

/-- The row VSTBY12_IN_RANGE (19 R601). The straps show the pins until a start latches them (18 R595). -/
def execVstby12InRange (s : State) : Host.Outcome State Fault Refusal :=
  .next (if s.mgmt.standby then s else s.updMgmt fun m => { m with standby := true, vio := true, straps := m.pins })

/-- VIO of the main domain, and no core rail, is powered for boundary scan (19 R618), unless the latch of THERMTRIP_N holds
the rails off (19 R621). -/
def State.scanPower (s : State) : Bool := s.mgmt.standby && s.mgmt.pwrok && !s.mgmt.coldRst && !s.mgmt.thermLatch

/-- The I/O rails of the main domain are powered: with its other rails, or for boundary scan alone (19 R601, R618). -/
def State.ioRails (s : State) : Bool := s.mgmt.mainRails || s.scanPower

/-- The row VSTBY12_LOW (19 R604). -/
def execVstby12Low (s : State) : Host.Outcome State Fault Refusal :=
  .next (if s.mgmt.standby then s.standbyLost else s)

/-! ## Rails (19 R605) -/

/-- The main-domain rails go off, and what the HBM and the SRAMs held is lost. -/
def State.railsOff (s : State) : State :=
  { s.updMgmt fun m => { m with mainRails := false, hbmRails := false } with
    mem := [], poison := [], upsets := [], writebacks := [], testRuns := [], openRows := [], rowErrors := [] }

/-- HALT_REFUSED with cause POWER. -/
def State.powerFail (s : State) (detail : Nat) : State := if s.mgmt.state = .off then s else (s.halt 0x0F detail).railsOff

/-- The steward cores of a control die stop. -/
def State.stopStewards (s : State) (die : Nat) : State :=
  { s with stewards := s.stewards.map fun e =>
      (e.1, if stewardDie e.1 = die then { e.2 with running := false, waiting := none } else e.2) }

/-- A control die that is hot stops its control cores (19 R621): its stewards, and on K0 those that run firmware. -/
def State.stopHot (s : State) (detail : Nat) : State :=
  if detail = 38 then (s.stopStewards 38).updFw fun f => { f with up := false, loaded := false }
  else if detail = 39 then s.stopStewards 39
  else s

/-- THERMTRIP_N is asserted (10 R353, 18 R594, 19 R621). With COLD_RST_N low the latch is set, and the package, in OFF, stays there.
With PWROK low nothing is driven. -/
def State.thermTrip (s : State) (detail : Nat) (own : Bool) : State :=
  if !s.mgmt.standby ∨ !s.mgmt.pwrok then s
  else if s.mgmt.thermLatch then s.stopHot detail
  else
    let s := if own then s.emit .thermtripN else s
    let s := if s.mgmt.coldRst then (s.halt 0x0E detail).railsOff else s
    (s.updMgmt fun m => { m with thermLatch := true }).stopHot detail

/-! ## Beginning a start (18 R578, R582, R588 to R590) -/

/-- A start begins at step 1. -/
def State.beginStart (s : State) (st : PkgState) : State :=
  s.updMgmt fun m => { m with state := st, step := 1, elapsedFrom := s.time, stepFrom := s.time, elapsedRuns := true }

/-- A reference that is absent as step 1 begins ends the start (19 R616). -/
def State.checkRefclks (s : State) : State :=
  if !s.mgmt.refclk0 then s.halt 0x10 0 else if !s.mgmt.refclk1 then s.halt 0x10 1 else s

/-- The lowest die whose sensor reads 105 °C or more, or else the lowest such stack, as DETAIL of THERMTRIP. -/
def State.hotUnit (s : State) : Option Nat :=
  (((s.power.temps.find? fun e => 420 ≤ e.2.toNat).map (·.1)).or
    ((s.hbmStacks.find? fun e => 420 ≤ e.2.sensor.toNat).map fun e => 0x80 + e.1))

/-- A SerDes reference that was lost may have come back since; no command says so (19 R616; log entry 66). -/
def State.lookForRefclks (s : State) : State :=
  if s.mgmt.refclk0 ∧ s.mgmt.refclk1 then s
  else
    let (n, s) := s.draw
    s.updMgmt fun m => { m with refclk0 := m.refclk0 || n.testBit 0, refclk1 := m.refclk1 || n.testBit 1 }

/-- COLD_START: a rising edge of COLD_RST_N latches the straps and releases the latch of THERMTRIP_N, which trips again
while a sensor still reads 105 °C (19 R621). -/
def State.coldStart (s : State) (slot : BitVec 4) (bootSel : BitVec 2) : State :=
  if !s.mgmt.standby ∨ s.mgmt.coldRst then s
  else
    let s := s.updMgmt fun m => { m with
      coldRst := true, straps := bootSel ++ slot, pins := bootSel ++ slot, warm := WarmRecord.reset, thermLatch := false }
    let s := s.tapBypass
    if !s.mgmt.pwrok then s
    else match s.hotUnit with
      | some d => s.thermTrip d true
      | none =>
        let s := s.lookForRefclks
        ({ s with dieOk := 0, dieFail := 0, selfId := none, power := Power.reset, hbmStacks := [] }.beginStart
          .coldStart).checkRefclks

/-- The row COLD_START (18 R578, R582). -/
def execColdStart (slot : BitVec 4) (bootSel : BitVec 2) (s : State) : Host.Outcome State Fault Refusal :=
  .next (s.coldStart slot bootSel)

/-- The peer that a port is UP with, or that it was UP with before it lost lock (11 R385). -/
def Port.lastPeer (p : Port) : Option (BitVec 11 × BitVec 4 × BitVec 6) :=
  if p.state = .up then p.peer.map PeerInfo.ident else p.oldPeer.or (p.peer.map PeerInfo.ident)

/-- The warm record as firmware writes it (18 R588). -/
def State.warmRecord (s : State) : WarmRecord where
  valid := true
  pkg := s.self
  sysDim := s.fabric.sysDim
  peers := s.ports.filterMap fun e => e.2.lastPeer.map fun p => (e.1, p)
  quick := s.ports.map fun e => (e.1, e.2.quick)
  training := s.hbmStacks.map fun e => (e.1, e.2.training)
  coeffs := s.ports.map fun e => (e.1, e.2.coeff)

/-- The warm entry steps (18 R589): fetching stops, a memory test is given up and the rows that it has tested stay
overwritten (16 R534), dirty lines are written back, soft repairs become hard ones, the
stacks enter self-refresh, the record is written. -/
def State.warmEntry (s : State) (noSpare : Option StackId) : State :=
  let s := s.firmwareDown.abortGens
  let s := (s.hubs.flatMap fun e => e.2.lines).foldl State.writeBackLine s
  let hubs : Table HubState := s.hubs.map fun e => (e.1, { e.2 with lines := [] })
  let s := { s with hubs := hubs }
  let s := (List.range 24).foldl (fun s i => s.updStack i fun x => { x with
    hardUsed := x.hardUsed + x.softUsed, softUsed := 0, selfRefresh := true }) s
  let r := s.warmRecord
  s.updMgmt fun m => { m with warm := r, warmEntered := true, warmNoSpare := noSpare }

/-- The row WARM_ENTRY (18 R578, R589): WARM_RST_N falls. COLD_RST_N governs while it is low. -/
def execWarmEntry (noSpare : Option StackId) (s : State) : Host.Outcome State Fault Refusal :=
  .next (if !s.mgmt.standby ∨ !s.mgmt.coldRst then s
    else if s.mgmt.state = .quiesced then (if s.mgmt.warmEntered then s else s.warmEntry noSpare)
    else s.updMgmt fun m => { m with warmIgnored := true })

/-- A port keeps its coefficients and its FEC mode through a warm start, as the warm record holds them (18 R588, R597). -/
def Port.warm (p : Port) (n : Nat) (r : WarmRecord) : Port :=
  let quick := Tab.get p.quick r.quick n
  { Port.zero n with
    fecMode := p.fecMode, quick := quick, savedCoeff := true, savedQuick := quick, optical := p.optical
    coeff := Tab.get p.coeff r.coeffs n }

/-- What a warm start loses (18 R597): the logic dies of the main domain are powered off (log entry 62). -/
def State.warmLose (s : State) : State :=
  { s with
    mem := s.mem.filter fun c => c.1 < llmBase
    poison := s.poison.filter fun b => b * 64 < llmBase
    writebacks := [], openRows := [], rowErrors := [], dieOk := 0
    cores := [], saved := [], steps := [], pairs := [], forecasts := [], fcRequests := 0, fcScored := 0
    xdies := [], pools := [], bpm := State.reset.bpm, groups := [], colls := [], collPast := []
    stewards := (s.stewards.filter fun e => e.2.part ≠ some 0).map fun e => (e.1, { Steward.unassigned with part := e.2.part })
    partitions := Tab.del s.partitions 0
    hubs := s.hubs.map fun e => (e.1, { HubState.zero with
      mode := e.2.mode, scrubPasses := e.2.scrubPasses, scrubNext := e.2.scrubNext })
    hbmStacks := s.hbmStacks.map fun e => (e.1, { e.2 with temp := 0, cap := 0xC8, refresh2x := false, training := 0 })
    ports := s.ports.map fun e => (e.1, e.2.warm e.1 s.mgmt.warm)
    fabric := { Fabric.reset with sysDim := s.fabric.sysDim, dimInForce := s.fabric.dimInForce, nextReq := s.fabric.nextReq }
    season := { s.season.setLock .unlocked with
      role := 0, hops := 0, parent := none, master := none, countSync := false, slew := 0, islands := [] }
    fw := { s.fw with up := false, loaded := false, locks := [] }
    power := { s.power with
      started := false, samples := [], n := 16, therm := [], overUs := 0, fastHold := 0, gating := false, droopAt := [] } }

/-- WARM_START: the later of the rising edge of WARM_RST_N and the end of the entry steps. Step 1 runs only with a valid
record (18 R590). -/
def State.warmStart (s : State) : State :=
  if !s.mgmt.warmEntered ∨ s.mgmt.state ≠ .quiesced then s
  else
    let noSpare := s.mgmt.warmNoSpare
    let s := (s.beginStart .warmStart).updMgmt fun m => { m with warmEntered := false, warmNoSpare := none }
    if !s.mgmt.warm.valid then s.halt 0x0A 1
    else match noSpare with
      | some st => s.halt 0x0A (2 + st.val * 256)
      | none => s.keepPwr.warmLose.checkRefclks

/-- The row WARM_START (18 R589, R590). -/
def execWarmStart (s : State) : Host.Outcome State Fault Refusal := .next s.warmStart

/-! ## Links in a start (11 R363, R383, R384, 18 R582, R592) -/

/-- Every expected port is enabled and trains; the others stay DISABLED. -/
def State.trainPorts (s : State) (k : TrainKind) : State :=
  let s := s.takeDims
  (List.range 56).foldl (fun s n =>
    if s.portExpected n then ((s.updPort n fun p => p.setEnable true).train n k).loseParent n
    else ((s.disablePort n).updPort n fun p => p.setEnable false).loseParent n) s

/-- FAB_SYS_DIM takes PKG_MGMT_DIM. -/
def State.copyDims (s : State) : State := let d := s.mgmt.dim; s.updFabric fun b => { b with sysDim := d }

/-- No expected port still trains. -/
def State.portsTrained (s : State) : Bool := (List.range 56).all fun n =>
  !s.portExpected n || (s.port n).state = .discovery || (s.port n).state = .up || (s.port n).state = .mismatch

/-- The first port in MISMATCH. -/
def State.mismatched (s : State) : Option Nat := (List.range 56).find? fun n => (s.port n).state = .mismatch

/-- Every tray check has been made and passed (11 R389, R390). -/
def State.traysChecked (s : State) : Bool := (List.range 56).all fun n =>
  !s.portExpected n || portRole n = 2 || match (s.port n).peer with
    | some p => p.trayValid && s.wired n p
    | none => false

/-- The package ID from the tray ID and the straps (11 R390). -/
def State.ownId (s : State) : PkgId := BitVec.ofNat 15 (s.ownTray * 16 + s.ownSlot)

/-- The tray check of the ports that are UP, made when the tray ID arrives (11 R389). -/
def State.recheckTrays (s : State) : State :=
  (List.range 56).foldl (fun s n => match (s.port n).peer with
    | some p => if (s.port n).state = .up ∧ !s.wired n p then s.wrongPeer n else s
    | none => s) s

/-- Step 8 begins: dimensions that were not copied before are taken now, and every port retrains; it waits for dimensions
that are not written (18 R592). -/
def State.beginAddress (s : State) : State :=
  let s := if s.fabric.sysDim.getLsbD 31 ∨ !s.mgmt.dim.getLsbD 31 then s else s.copyDims.trainPorts .full
  match s.mismatched with
  | some n => s.halt 0x08 (n + 1)
  | none => if s.trayValid ∧ s.fabric.sysDim.getLsbD 31 ∧ !s.inDims s.ownId then s.halt 0x08 0x100 else s

/-- The default routing table in one dimension: the direction with fewer hops, + when equal (12 R424). -/
def routeByte (own size c : Nat) : Nat :=
  if c ≥ size then 0
  else
    let up := (c + size - own) % size
    let down := (own + size - c) % size
    0xF0 + (if up = 0 then 0 else if up ≤ down then 1 else 2)
def State.routeWord (s : State) (dim first : Nat) : Word :=
  BitVec.ofNat 64 (((List.range 8).map fun i =>
    routeByte (trayCoord (pkgTray s.self) dim) (s.dimSize dim) (first + i) * 256 ^ i).sum)

/-- Firmware's default table, for epoch 0 (12 R424; log entry 63). -/
def State.loadDefaultRoutes (s : State) : State :=
  let t : RouteTable := ⟨true, 0, s.routeWord 0 0, s.routeWord 0 8, s.routeWord 1 0, s.routeWord 1 8, s.routeWord 2 0⟩
  s.updFabric fun b => { b with tables := Tab.put b.tables 0 t }

/-! ## The steps (18 R582) -/

/-- A step of a start begins. -/
def State.beginStep (s : State) (k : Nat) : State :=
  let cold : Bool := s.mgmt.state = .coldStart
  let s := s.updMgmt fun m => { m with step := k, stepFrom := s.time }
  match k, cold with
  | 2, true => s.updSeason fun z => { z with k0 := 0, running := true }
  | 6, true => (if s.mgmt.dim.getLsbD 31 then s.copyDims else s).trainPorts .full
  | 6, false =>
    let kept : Table StackState := s.hbmStacks.map fun e => (e.1, { e.2 with selfRefresh := false })
    let s := { s with hbmStacks := kept }
    s.updMgmt fun m => { m with warm := { m.warm with valid := false } }
  | 7, false => s.trainPorts .fast
  | 8, true => s.beginAddress
  | 9, _ => s.updSeason fun z => { z with inForce := (z.priority, z.source, z.ppsBase, z.holdoverMax) }
  | _, _ => s

/-- The number of the next step: a warm start skips step 8. -/
def State.nextStep (s : State) : State :=
  let k := s.mgmt.step
  s.beginStep (if s.mgmt.state = .warmStart ∧ k = 7 then 9 else k + 1)

/-- Step 1 ends: the rails are in regulation, and the power controller starts at 16 (19 R601, R608). -/
def State.endPower (s : State) : State :=
  ((s.updMgmt fun m => { m with mainRails := true, hbmRails := true }).updPower fun w => { w with
    started := true, n := 16, overUs := 0, fastHold := 0 }).nextStep

/-- The boot source (18 R584). -/
def State.bootSel (s : State) : Nat := (s.mgmt.straps.extractLsb' 4 2).toNat

/-- Step 2 ends. -/
def State.endBootRom (s : State) : State := if 2 ≤ s.bootSel then s.halt 0x04 s.bootSel else s.nextStep

/-- Fields of an image's header (18 R585). -/
def imgMagic (i : BootImage) : Nat := field i.bytes 0 4
def imgSvn (i : BootImage) : Nat := field i.bytes 4 4
def imgLen (i : BootImage) : Nat := field i.bytes 8 8
def imgDigest (i : BootImage) : Bytes := (i.bytes.drop 16).take 48
def imgKey (i : BootImage) : Bytes := (i.bytes.drop 64).take 97
def imgSig (i : BootImage) : Bytes := (i.bytes.drop 192).take 96
def imgBody (i : BootImage) : Bytes := (i.bytes.drop 4096).take (imgLen i)

/-- The magic is right, and the length is in its range and that of the bytes read. -/
def imgLengthOk (i : BootImage) : Bool :=
  imgMagic i = 0x464C4E41 && imgLen i ≤ 0x2000000 - 4096 && 4096 + imgLen i ≤ i.bytes.length

/-- The slot of the key that is fused and not revoked (18 R585). -/
def Mgmt.keySlot (m : Mgmt) (key : Bytes) : Option Nat :=
  let h := sha384 key
  (List.range 4).find? fun i => m.keyHashes.getD i [] = h && !m.revoked.getLsbD i

/-- The boot ROM's checks of an image: the slot of its key, or the cause and DETAIL of the first check that fails, in the
order of DETAIL (18 R585, R594; log entries 64 and 117). -/
def Mgmt.authenticate (m : Mgmt) (i : BootImage) : Except (Byte × Nat) Nat :=
  match m.keySlot (imgKey i) with
  | none => .error (0x02, 1)
  | some slot =>
    if !(signatureOk (imgKey i) (i.bytes.take 64) (imgSig i)) then .error (0x02, 2)
    else if sha384 (imgBody i) ≠ imgDigest i then .error (0x02, 3)
    else if !(imgLengthOk i) then .error (0x02, 4)
    else if imgSvn i < m.minSvn.toNat then .error (0x03, imgSvn i)
    else .ok slot

/-- Byte strings as a measurement, and a measurement register of the digest of one (18 R586). -/
def digestOf (b : Bytes) : BitVec 384 := BitVec.ofNat 384 (leNat (sha384 b))

/-- An accepted image runs: the measurement registers are set (18 R586). -/
def State.runImage (s : State) (i : BootImage) (slot : Nat) : State :=
  let ext := Config.measureExtend 0
  let config := Config.configDigest s.mgmt.straps (BitVec.ofNat 64 (s.pkgReg 0)) (BitVec.ofNat 64 (s.pkgReg 8)) slot s.mgmt.minSvn
  let s := s.updMgmt fun m => { m with
    svn := BitVec.ofNat 32 (imgSvn i)
    measure := [(1, ext Config.bootRomDigest), (2, ext (digestOf (i.bytes.take (4096 + (imgLen i))))), (3, ext config), (4, 0)] }
  (s.updFw fun f => { f with loaded := true }).nextStep

/-- The image that the host wrote into the boot SRAM (18 R584). -/
def State.hostImage (s : State) : Bytes :=
  let byte (i : Nat) : Byte := Tab.get 0 s.mgmt.bootSram i
  let n := leNat ((List.range 8).map fun i => byte (8 + i))
  (List.range (4096 + min n (0x2000000 - 4096))).map byte

/-- The images that the boot ROM tries, in order. -/
def State.bootImages (s : State) (image : BootImage) (second : Option BootImage) : List BootImage :=
  if s.bootSel = 0 then image :: second.toList else [⟨s.hostImage⟩]

/-- Step 3 ends (18 R584, R585): the first image that is accepted runs; when none is, the cause is that of the last one
tried (log entry 102). Under BOOT_SEL 0 nothing is decided while Boot Partition 1 is still to be read. -/
def State.endAuth (s : State) (image : BootImage) (second : Option BootImage) : State :=
  let tried := (s.bootImages image second).map fun i => (i, s.mgmt.authenticate i)
  match tried.findSome? fun e => e.2.toOption.map fun slot => (e.1, slot) with
  | some (i, slot) => s.runImage i slot
  | none => match tried.getLast? with
    | some (_, .error (code, detail)) => if s.bootSel = 0 ∧ second.isNone then s else s.halt code detail
    | _ => s

/-- Step 4 ends: the dies that passed run (01 R32, R36). -/
def State.endBist (s : State) (failed : List Nat) : State :=
  let s := { s with dieOk := BitVec.allOnes 40 }
  if failed.isEmpty then s.nextStep else (s.markDies failed).halt 0x01 (lowest failed)

/-- Step 5 ends with a stack that does not train (18 R590, R594). -/
def State.trainFail (s : State) (st : Nat) : State :=
  if s.mgmt.state = .warmStart then s.halt 0x0A (3 + st * 256) else s.halt 0x05 st

/-- Step 5 ends: the results of the training are not given (log entry 2); a warm start replays those of the warm record. -/
def State.endHbmTraining (s : State) : State :=
  if s.mgmt.state = .warmStart then
    (List.range 24).foldl (fun s i => let v := Tab.get 0 s.mgmt.warm.training i; s.updStack i fun x => { x with training := v }) s
  else
    (List.range 24).foldl (fun s i =>
      let v := Config.freeWord s.free
      { s with free := s.free + 1 }.updStack i fun x => { x with training := v }) s

/-- The memory test ends: repairs used and spare rows left of each stack. Those of a stack that the result does not name
are free (log entry 2). -/
def State.endMemTest (s : State) (repairs : List (StackId × Nat × Nat)) (bad : Option StackId) : State :=
  let s := (List.range 24).foldl (fun s i => match repairs.find? fun e => e.1.val = i with
    | some (_, used, left) => s.updStack i fun x => { x with
        hardUsed := BitVec.ofNat 16 used, softUsed := 0, sparesLeft := BitVec.ofNat 16 left, sparesAtStart := BitVec.ofNat 16 left }
    | none =>
      let (n, s) := s.draw
      s.updStack i fun x => { x with softUsed := 0, sparesLeft := BitVec.ofNat 16 n, sparesAtStart := BitVec.ofNat 16 n }) s
  match bad with
  | some st => s.halt 0x06 st.val
  | none => s.nextStep

/-- Step 8 ends when R390 holds: the package has its ID. -/
def State.endAddress (s : State) : State :=
  if s.trayValid ∧ s.fabric.sysDim.getLsbD 31 ∧ s.portsUp ∧ s.traysChecked ∧ s.inDims s.ownId then { s with selfId := some s.ownId }.nextStep else s

/-- The samples of the Barometer after the K0 copy has stepped back by `d`: as many ticks before now as they were (17 R552). -/
def Baro.stepBack (b : Baro) (d : Int) : Baro :=
  { b with samples := b.samples.map fun x => { x with at_ := x.at_ - d } }

/-- The Season lock step (18 R593): a follower's K0 copy steps to its source, the islands step to it, and the count-sync
check begins. -/
def State.lockStep (s : State) (offset : Int) (master : Bool) : State :=
  if s.season.countSync then s
  else
    let s := s.elect
    if master ≠ (s.season.role ≠ 0) ∨ (!master ∧ s.season.parent.isNone) then s
    else
      let s := s.updSeason fun z => { z with
        k0 := if master then z.k0 else z.k0 - BitVec.ofInt 64 offset
        slew := 0, lastSlew := 0, islands := [], countSync := true }
      (if master then s else { s with baro := s.baro.stepBack offset }).elect

/-- A start has succeeded (18 R580): firmware saves what training found, raises the fused minimum in a cold start, and
restarts in a warm one (R383, R585, R597). -/
def State.endStart (s : State) : State :=
  if s.season.state ≠ .locked ∨ !s.season.countSync ∨ !s.portsUp ∨ s.dieOk ≠ BitVec.allOnes 40 then s
  else
    let cold : Bool := s.mgmt.state = .coldStart
    let ms := s.elapsedMs
    let ports : Table Port := s.ports.map fun e =>
      if e.2.state = .up then (e.1, { e.2 with savedCoeff := true, savedQuick := e.2.quick }) else e
    let s := { s with ports := ports }
    let s := s.updMgmt fun m => { m with
      elapsed := BitVec.ofNat 32 ms, elapsedRuns := false, minSvn := if cold ∧ m.minSvn.toNat < m.svn.toNat then m.svn else m.minSvn }
    let s := s.loadDefaultRoutes.enterService
    if cold then s.updFw fun f => { f with up := true } else s.restart

/-- START_STEP_END: a result that the step in progress cannot have does not take place. -/
def State.stepEnd (s : State) (r : StepResult) : State :=
  if !s.starting then s
  else match s.mgmt.step, r with
    | 1, .ok => s.endPower
    | 2, .ok => s.endBootRom
    | 2, .bootRead nvme => if s.bootSel = 0 then s.halt 0x04 (0x10 + nvme.toNat) else s
    | 3, .bootRead nvme => if s.bootSel = 0 then s.halt 0x04 (0x10 + nvme.toNat) else s
    | 3, .auth image second => s.endAuth image second
    | 4, .ok => s.endBist []
    | 4, .bist dies modules => s.endBist (dies.map (·.val) ++ modules.flatMap ModuleRef.dies)
    | 5, .ok => s.endHbmTraining.nextStep
    | 5, .hbmTrain st => s.trainFail st.val
    | 6, .ok => if s.mgmt.state = .warmStart then s.nextStep else s
    | 6, .memTest repairs bad => if s.mgmt.state = .coldStart then s.endMemTest repairs bad else s
    | 7, .ok =>
      if (if s.mgmt.state = .warmStart then s.portsUp else s.portsTrained) then s.nextStep else s
    | 8, .ok => s.endAddress
    | 9, .season offset master => s.lockStep offset master
    | 9, .ok => s.endStart
    | _, _ => s

/-- The row START_STEP_END (18 R582). -/
def execStartStepEnd (r : StepResult) (s : State) : Host.Outcome State Fault Refusal := .next (s.stepEnd r)

/-- Nanoseconds since the step in progress began. -/
def State.inStepFor (s : State) (t : Nat) : Bool := s.mgmt.stepFrom + t ≤ s.time

/-- The row ADDRESS_ASSIGNMENT_TIMEOUT (18 R592). -/
def execAddressAssignmentTimeout (s : State) : Host.Outcome State Fault Refusal :=
  .next (if s.mgmt.state = .coldStart ∧ s.mgmt.step = 8 ∧ !s.trayValid ∧ s.inStepFor 120000000000 then s.halt 0x08 0x200
    else s)

/-- The row SEASON_LOCK_TIMEOUT (18 R593). -/
def execSeasonLockTimeout (s : State) : Host.Outcome State Fault Refusal :=
  .next (if s.starting ∧ s.mgmt.step = 9 ∧ s.season.state ≠ .locked ∧ s.inStepFor 30000000000 then
    s.halt 0x09 (s.seaReg 8 % 65536)
  else s)

/-! ## The management interface (18 R591, R596, 19 R624) -/

/-- The provisioned ID of the I3C target (18 R591). -/
def State.i3cId (s : State) : Nat := 0x0B3D * 2 ^ 33 + 0x40 * 2 ^ 16 + s.ownSlot * 2 ^ 12

/-- BCR and DCR (18 R591). -/
def bcr : Byte := 0
def dcr : Byte := 0

/-- What the target sends in ENTDAA: the provisioned ID in bits 63 to 16, BCR in 15 to 8, DCR in 7 to 0. -/
def State.entdaaWord (s : State) : Word := BitVec.ofNat 64 (s.i3cId * 65536 + bcr.toNat * 256 + dcr.toNat)

/-- The row ENTDAA (18 R591). -/
def execEntdaa (addr : BitVec 7) (s : State) : Host.Outcome State Fault Refusal :=
  .next (if s.mgmt.standby then
    (s.updMgmt fun m => { m with i3cAddr := some addr }).emit (.answer .bmc (some s.entdaaWord))
  else s)

/-- Writes of the tray ID and of the dimensions take effect now. -/
def State.mayAssign (s : State) : Bool :=
  s.mgmt.standby && (s.mgmt.state = .off || (s.mgmt.state = .coldStart && s.mgmt.step < 8))

/-- The row PKG_MGMT_TRAY (18 R596). -/
def execPkgMgmtTray (v : BitVec 32) (s : State) : Host.Outcome State Fault Refusal :=
  .next (if s.mayAssign then (s.updMgmt fun m => { m with tray := v &&& 0x87FF }).recheckTrays else s)

/-- The row PKG_MGMT_DIM (18 R596). -/
def execPkgMgmtDim (v : BitVec 32) (s : State) : Host.Outcome State Fault Refusal :=
  .next (if s.mayAssign then s.updMgmt fun m => { m with dim := v &&& 0x800037FF } else s)

/-- The row PKG_MGMT_PWR_CAP (19 R624). -/
def execPkgMgmtPwrCap (v : BitVec 32) (s : State) : Host.Outcome State Fault Refusal :=
  let w := v.toNat % 65536
  .next (if s.mgmt.standby ∧ 2000 ≤ w ∧ w ≤ 6000 then s.updMgmt fun m => { m with pwrCap := BitVec.ofNat 16 w } else s)

/-! ## Attestation (18 R587) -/

/-- Filina's answer to an SPDM request, and that of a mailbox that is busy. -/
def State.spdmAnswer (s : State) (name : String) (params : Bytes) : SpdmAnswer where
  request := some name
  version := (1, 3)
  asym := "TPM_ALG_ECDSA_ECC_NIST_P384"
  hash := "SHA-384"
  keyExchange := false
  slots := [0]
  measures := s.mgmt.measure.map (·.2)
  body := Config.spdmBody name params (s.mgmt.measure.map (·.2))
def SpdmAnswer.busy : SpdmAnswer := ⟨none, (1, 3), "", "", false, [], [], []⟩

/-- An SPDM request over DOE: Filina answers from step 4 on; before it the mailbox is busy. -/
def State.spdm (s : State) (name : String) (params : Bytes) : State :=
  if s.mgmt.state = .off ∨ !s.mgmt.pcieClk then s
  else if s.fw.up ∨ (s.starting ∧ s.fw.loaded) then s.emit (.spdm (s.spdmAnswer name params))
  else s.emit (.spdm SpdmAnswer.busy)

/-- The row GET_VERSION (18 R587). -/
def execGetVersion (s : State) : Host.Outcome State Fault Refusal := .next (s.spdm "GET_VERSION" [])

/-- The row GET_CAPABILITIES (18 R587). -/
def execGetCapabilities (s : State) : Host.Outcome State Fault Refusal := .next (s.spdm "GET_CAPABILITIES" [])

/-- The row NEGOTIATE_ALGORITHMS (18 R587). -/
def execNegotiateAlgorithms (req : Bytes) (s : State) : Host.Outcome State Fault Refusal :=
  .next (s.spdm "NEGOTIATE_ALGORITHMS" req)

/-- The row GET_DIGESTS (18 R587). -/
def execGetDigests (s : State) : Host.Outcome State Fault Refusal := .next (s.spdm "GET_DIGESTS" [])

/-- The row GET_CERTIFICATE (18 R587). -/
def execGetCertificate (slot : Nat) (off len : Nat) (s : State) : Host.Outcome State Fault Refusal :=
  .next (s.spdm "GET_CERTIFICATE" (leBytes 1 slot ++ leBytes 2 off ++ leBytes 2 len))

/-- The row CHALLENGE (18 R587). -/
def execChallenge (slot : Nat) (nonce : Bytes) (s : State) : Host.Outcome State Fault Refusal :=
  .next (s.spdm "CHALLENGE" (leBytes 1 slot ++ nonce))

/-- The row GET_MEASUREMENTS (18 R587). -/
def execGetMeasurements (index : Nat) (nonce : Bytes) (s : State) : Host.Outcome State Fault Refusal :=
  .next (s.spdm "GET_MEASUREMENTS" (leBytes 1 index ++ nonce))

end Sys2Proof.Machine
end

