-- ==== Sys2Proof/Machine/Tick.lean ====
section
/-! DEFINITION. One tick of 1 ns, which passes when no command waits (log entry 5): the Season copies advance and slew
(02 R44 to R46), and the core clocks run (03 R127, 19 R607). -/

namespace Sys2Proof.Machine

open Sys2Proof

/-- Ticks between two corrections by slewing (02 R46). -/
def slewPeriod : Nat := 4096

/-- A correction may be made: 4,096 ticks have passed since the last one, on a count that wraps. -/
def slewDue (now last : Nat) : Bool := slewPeriod ≤ (now + 2 ^ 64 - last) % 2 ^ 64

/-- How far the K0 copy advances in this tick, and what remains to be slewed: 1, or 2 or 0 when a correction is due. -/
def Season.advance (z : Season) : Nat × Season :=
  if z.slew = 0 ∨ !slewDue z.k0.toNat z.lastSlew then (1, z)
  else if z.slew > 0 then (2, { z with slew := z.slew - 1, lastSlew := z.k0.toNat })
  else (0, { z with slew := z.slew + 1, lastSlew := z.k0.toNat })

/-- An island's copy in a tick in which the K0 copy, at `now`, advances by `d`: the island owes the K0 copy's correction
as its own, and advances by 1, or by 2 or 0 for a drift that shows or for one correction (02 R45, R46). -/
def Island.advance (i : Island) (now d : Nat) : Island :=
  let i := { i with off := i.off + 1 - d, slew := i.slew + (d - 1) }
  if i.drift ≠ 0 then { i with off := i.off + i.drift.sign, drift := i.drift - i.drift.sign }
  else if i.slew = 0 ∨ !slewDue now i.lastSlew then i
  else { i with off := i.off + i.slew.sign, slew := i.slew - i.slew.sign, lastSlew := now }

/-- The clock step of a core's die: the power step, lowered by the die's thermal step (19 R607, R609). -/
def State.coreStep (s : State) (d : Nat) : Nat := min s.power.n (Tab.get 16 s.power.therm d)

/-- A core's clock stands still while it holds an armed launch and runs no kernel (02 R49). -/
def Core.clockStopped (k : Core) : Bool := k.armed.isSome && k.phase = .idle

/-- A steward's counters in this tick: 3.0 GHz, which no step of the package changes (14 R463, 19 R607; log entry 73). -/
def Steward.tick (w : Steward) : Steward := { w with cycle := w.cycle + 3, instret := w.instret + 3 }

/-- The cycles of a core in this tick: 1.25 GHz at step 16, in 1/64 cycle. -/
def Core.tick (k : Core) (n : Nat) : Core := if k.clockStopped then k else { k with cycle64 := k.cycle64 + 5 * n }

/-- The clocks of the package in one tick; the count wraps (02 R44). In HALT_REFUSED every clock of the main domain stands
still (19 R605). -/
def State.tick (s : State) : State :=
  if !s.ticks then { s with time := s.time + 1 }
  else
    let (d, z) := s.season.advance
    { s with
      time := s.time + 1
      season := { z with
        k0 := z.k0 + BitVec.ofNat 64 d
        islands := z.islands.map fun e => (e.1, e.2.advance z.k0.toNat d) }
      cores := s.cores.map fun e => (e.1, e.2.tick (s.coreStep (e.1 / 256)))
      stewards := s.stewards.map fun e => (e.1, e.2.tick) }

end Sys2Proof.Machine
end

