-- ==== Sys2Proof/Machine/Power.lean ====
section
/-! DEFINITION. Supplies, power limiting, heat, clocks and boundary scan (19), and the temperatures of the stacks (10
R349, R350). -/

namespace Sys2Proof.Machine

open Sys2Proof

/-! ## Supplies (19 R604) -/

/-- The row VIN48_UNDERVOLTAGE (19 R604). -/
def execVin48Undervoltage (s : State) : Host.Outcome State Fault Refusal := .next (s.powerFail 0x01)

/-- The row VIN48_OVERVOLTAGE (19 R604). -/
def execVin48Overvoltage (s : State) : Host.Outcome State Fault Refusal := .next (s.powerFail 0x02)

/-- The row INPUT_POWER_EXCESS (19 R604): above 7,000 W for 20 µs after the fast cut. -/
def execInputPowerExcess (s : State) : Host.Outcome State Fault Refusal :=
  .next (if s.power.fastHold = 0 then s else s.powerFail 0x03)

/-- The row RAIL_OUT_OF_REGULATION (19 R604). -/
def execRailOutOfRegulation (rail : Rail) (s : State) : Host.Outcome State Fault Refusal :=
  .next (match rail with
    | .die d => s.powerFail (0x10 + d.val)
    | .hbm st => s.powerFail (0x40 + st.val))

/-! ## Power limiting (19 R606 to R610) -/

/-- Some compute die runs below step 16. -/
def State.anySlow (s : State) : Bool := (List.range 18).any fun d => s.coreStep d < 16

/-- The 1 µs part of R608; the controller on K0 runs while its clock does (19 R605). -/
def State.powerSample (s : State) (watts : Nat) : State :=
  if !s.power.started ∨ !s.moves then s
  else
    let s := s.updPower fun w =>
      let w := { w with samples := (watts :: w.samples).take 1000000 }
      if 7000 < watts then { w with n := 8, fastHold := 1000 } else { w with fastHold := w.fastHold - 1 }
    if s.anySlow then s.updPower fun w => { w with throttle := satAdd w.throttle 1 } else s

/-- The row POWER_SAMPLE (19 R608). -/
def execPowerSample (watts : Nat) (s : State) : Host.Outcome State Fault Refusal := .next (s.powerSample watts)

/-- The cap (19 R606). -/
def State.powerCap (s : State) : Nat := min 6000 s.mgmt.pwrCap.toNat

/-- A whole number of watts is the average of the last `k` samples, to within one watt: how the controller rounds is not
given (19 R606; log entry 121). -/
def Power.averages (w : Power) (k p : Nat) : Bool :=
  let l := w.samples.take k
  p * l.length < l.sum + l.length && l.sum < (p + 1) * l.length || l.isEmpty

/-- The 100 µs part of R608, with the averages that the controller has formed of its samples: figures that are not their
averages do not occur. -/
def State.powerEval (s : State) (p100us p1s : Nat) : State :=
  if !s.power.started ∨ !s.moves ∨ !s.power.averages 100 p100us ∨ !s.power.averages 1000000 p1s then s
  else
    let cap := s.powerCap
    s.updPower fun w =>
      let excess := if cap < p100us then w.overUs + 100 else 0
      let n :=
        if cap < p1s ∨ 9000 ≤ excess then max 8 (w.n - 1)
        else if w.fastHold = 0 ∧ p1s + 50 ≤ cap ∧ p100us + 100 ≤ cap then min 16 (w.n + 1)
        else w.n
      { w with
        overUs := excess, n := n, gating := n = 8 && 10000 ≤ excess, p100us := p100us, p1s := p1s
        peak := BitVec.ofNat 16 (max w.peak.toNat (min p100us 65535)) }

/-- The row POWER_STEP_EVAL (19 R608). -/
def execPowerStepEval (p100us p1s : Nat) (s : State) : Host.Outcome State Fault Refusal := .next (s.powerEval p100us p1s)

/-- A droop detector trips: the first trip of a die in a 1 µs interval is a droop event (19 R610). -/
def State.droopTrip (s : State) (d : Nat) : State :=
  if !s.mgmt.mainRails ∨ !s.moves ∨ Tab.get? s.power.droopAt d = some (s.time / 1000) then s
  else
    let t := s.time / 1000
    { s.updPower fun w => { w with droop := satAdd w.droop 1, droopAt := Tab.put w.droopAt d t } with
      baro := { s.baro with droopTotal := s.baro.droopTotal + 1 } }

/-- The row DROOP_TRIP (19 R610). The stretched clock changes timing alone. -/
def execDroopTrip (d : Fin 18) (_row : Fin 16) (s : State) : Host.Outcome State Fault Refusal := .next (s.droopTrip d.val)

/-! ## Heat (19 R620, R621, 10 R349, R350) -/

/-- The row THERMTRIP (19 R621). -/
def execThermtrip (src : TripSource) (s : State) : Host.Outcome State Fault Refusal :=
  .next (match src with
    | .die d => s.thermTrip d.val true
    | .stack st => s.thermTrip (0x80 + st.val) true
    | .board => s.thermTrip 0xFF false)

/-- The hottest junction sensor of a die has been read, in 0.25 °C. -/
def State.junctionRead (s : State) (d t : Nat) : State :=
  if !s.mgmt.standby then s
  else
    let s := s.updPower fun w =>
      let step := Tab.get 16 w.therm d
      let new := if 400 ≤ t then max 8 (step - 1) else if t < 388 then min 16 (step + 1) else step
      { w with
        temps := Tab.put w.temps d (BitVec.ofNat 16 t)
        therm := if d < 18 ∧ w.started ∧ s.moves then Tab.put w.therm d new else w.therm }
    if 420 ≤ t then s.thermTrip d true else s

/-- The row JUNCTION_SENSOR_READ (19 R620, R621). -/
def execJunctionSensorRead (d : DieId) (t : BitVec 16) (s : State) : Host.Outcome State Fault Refusal :=
  .next (s.junctionRead d.val t.toNat)

/-- The cap of R349 at a temperature in whole °C, in 0.5 %; and the threshold of a cap's step. -/
def capAt (f : Nat) : Nat := if f < 85 then 0xC8 else if f < 95 then 0xC8 - 15 * (f - 85) else 0x32
def capThreshold (cap : Nat) : Nat := if cap = 0x32 then 95 else 85 + (0xC8 - cap) / 15

/-- A stack after a reading in 0.25 °C: the cap rises only once the temperature is 2 °C below the threshold of its step,
and refresh returns to 1× below 83 °C (10 R350). -/
def StackState.read (x : StackState) (t : Nat) : StackState :=
  let cap := capAt (t / 4)
  { x with
    temp := BitVec.ofNat 16 t
    sensor := BitVec.ofNat 16 t
    cap := if 420 ≤ t then x.cap
      else if cap ≤ x.cap.toNat ∨ t ≤ 4 * (capThreshold x.cap.toNat - 2) then BitVec.ofNat 8 cap
      else x.cap
    refresh2x := if 340 ≤ t then true else if t < 332 then false else x.refresh2x }

/-- A hub reads a stack's temperature, from step 1 of a start on (10 R349); at 105 °C it asserts THERMTRIP_N, and the
package stops (10 R353). A reading that comes while no hub runs says what the stack's sensor would show at the next start,
and no register shows it (19 R621; log entry 136). -/
def State.stackRead (s : State) (st t : Nat) : State :=
  if !s.power.started ∨ !s.moves then
    if s.mgmt.standby then s.updStack st fun x => { x with sensor := BitVec.ofNat 16 t } else s
  else
    let s := s.updStack st fun x => x.read t
    if 420 ≤ t then s.thermTrip (0x80 + st) true else s

/-- The row STACK_TEMPERATURE_READING (10 R349). -/
def execStackTemperatureReading (st : StackId) (t : BitVec 16) (s : State) : Host.Outcome State Fault Refusal :=
  .next (s.stackRead st.val t.toNat)

/-! ## Clocks and the host port (19 R613, R616) -/

/-- The loss of a SerDes reference. In OFF and in HALT_REFUSED it is what the next start finds (log entry 66). -/
def State.refclkLost (s : State) (which : Nat) : State :=
    let s := s.updMgmt fun m => if which = 0 then { m with refclk0 := false } else { m with refclk1 := false }
    if s.mgmt.state = .off ∨ s.mgmt.state = .haltRefused then s
    else
      let s := if which = 0 then s.updSeason fun z => { z.setLock .unlocked with parent := none } else s
      if s.starting then s.halt 0x10 which
      else
        let dies := (List.range 4).map (30 + 4 * which + ·)
        s.failDies dies 0x0B (lowest dies)

/-- The row REFCLK_LOSS (19 R616). -/
def execRefclkLoss (which : Fin 2) (s : State) : Host.Outcome State Fault Refusal := .next (s.refclkLost which.val)

/-- HOST_PERST_N low: every channel is reset, and the host port's configuration space (19 R613). The link itself trains
outside the model: an access that arrives says that it is up (log entry 122). -/
def State.hostPerst (s : State) : State := s.flr.updMgmt fun m => { m with hostCfg := [] }

/-- The row HOST_PERST_N (19 R613). -/
def execHostPerstN (s : State) : Host.Outcome State Fault Refusal := .next s.hostPerst

/-- The row PCIE_REFCLK_LOSS (19 R616): HOST_PERST_N is as low until the clock returns. -/
def execPcieRefclkLoss (s : State) : Host.Outcome State Fault Refusal :=
  .next (s.hostPerst.updMgmt fun m => { m with pcieClk := false })

/-- FLASH_PERST_N is high: the boot ROM reads an image from the flash port, or firmware has a Frost transfer running (18
R584, 19 R613; log entry 101). -/
def State.flashPerstN (s : State) : Bool :=
  (s.starting && s.bootSel = 0 && (s.mgmt.step = 2 || s.mgmt.step = 3)) ||
  (s.fw.up && s.ckpt.running.any fun e => e.2.tier = 1)

/-- The row PCIE_REFCLK_RETURN (19 R616). -/
def execPcieRefclkReturn (s : State) : Host.Outcome State Fault Refusal :=
  .next (s.updMgmt fun m => { m with pcieClk := true })

/-! ## Boundary scan (19 R617, R618) -/

/-- An instruction comes into effect, and its register shifts out a value. -/
def State.tapLoad (s : State) (i : TapInstr) (v : Nat) : State :=
  if !s.mgmt.standby then s
  else { s with tap := { s.tap with instr := i, out := BitVec.ofNat 32 v } }.emit (.tdo v)

/-- EXTEST, CLAMP and HIGHZ are in effect only while PWROK is high and COLD_RST_N low; else they act as BYPASS. -/
def State.tapGated (s : State) (i : TapInstr) (v : Nat) : State :=
  if s.mgmt.pwrok ∧ !s.mgmt.coldRst then s.tapLoad i v else s.tapLoad .bypass 0

/-- The cells capture the pins: a free value (log entry 68). -/
def State.tapCapture (s : State) (f : State → Nat → State) : State :=
  f { s with free := s.free + 1 } (Config.pinLevels s.free)

/-- The row BYPASS (19 R617). -/
def execBypass (s : State) : Host.Outcome State Fault Refusal := .next (s.tapLoad .bypass 0)

/-- The row IDCODE (19 R617). -/
def execIdcode (s : State) : Host.Outcome State Fault Refusal := .next (s.tapLoad .idcode 0x10040B3B)

/-- The row SAMPLE_PRELOAD (19 R617): the pins are sampled, and the cells take the value shifted in. -/
def execSamplePreload (v : Nat) (s : State) : Host.Outcome State Fault Refusal :=
  .next (s.tapCapture fun s p =>
    let s := s.tapLoad .samplePreload p
    if s.mgmt.standby then { s with tap := { s.tap with cells := v } } else s)

/-- The row EXTEST (19 R618). -/
def execExtest (s : State) : Host.Outcome State Fault Refusal := .next (s.tapCapture fun s p => s.tapGated .extest p)

/-- The row EXTEST_PULSE (19 R617, R618). -/
def execExtestPulse (s : State) : Host.Outcome State Fault Refusal :=
  .next (s.tapCapture fun s p => s.tapGated .extestPulse p)

/-- The row EXTEST_TRAIN (19 R617, R618). -/
def execExtestTrain (s : State) : Host.Outcome State Fault Refusal :=
  .next (s.tapCapture fun s p => s.tapGated .extestTrain p)

/-- The row CLAMP (19 R618): the pins hold what the cells hold, and the bypass register is between TDI and TDO. -/
def execClamp (s : State) : Host.Outcome State Fault Refusal := .next (s.tapGated .clamp 0)

/-- The row HIGHZ (19 R618). -/
def execHighz (s : State) : Host.Outcome State Fault Refusal := .next (s.tapGated .highz 0)

end Sys2Proof.Machine
end

