-- ==== Sys2Proof/Machine/Access.lean ====
section
/-! DEFINITION. Reads and writes of registers that have no row of their own (00 R7 to R9): device control space, the
channel pages (16 R528), the MSI-X table (16 R522), the steward CSRs (14 R487) and the management register file (18
R595). -/

namespace Sys2Proof.Machine

open Sys2Proof

/-! ## Reads (00 R9) -/

/-- The agent is the host acting through the page of channel `n`. -/
def ofPage (a : Agent) (n : ChanId) : Bool := a = .host || a = .channel n

/-- A steward's access to an address that it does not reach: an access fault (14 R462), whose PC is the steward's own (log
entry 2). Any other agent is refused. -/
def State.noReach (s : State) (a : Agent) (off : Nat) (cause : BitVec 6) : State := match a with
  | .steward k => s.stewardFault k.val cause (ctrlBase + off)
  | _ => s.emit (.answer a none)

/-- The agent's stores reach an offset: a steward's reach the Season block for reads alone (14 R462). -/
def storeReaches (a : Agent) (off : Nat) : Bool := reaches a off && match a, blockAt off with
  | .steward _, (.sea, _) => false
  | _, _ => true

/-- A read of 8 bytes of device control space. -/
def State.readCtrl (s : State) (a : Agent) (off : Nat) : State :=
  if !reaches a off then s.noReach a off 5
  else
    let (v, s) := s.regRead a (off / 8 * 8)
    s.emit (.answer a (some (BitVec.ofNat 64 v)))

/-- CH_STATUS (16 R528). -/
def Channel.statusWord (c : Channel) : Nat :=
  c.open_.toNat + c.enabled.toNat * 2 + c.draining.toNat * 4 + c.timeoutFlag.toNat * 8 + c.noticeLost.toNat * 16 +
  c.ringError.toNat * 32 + c.reset.toNat * 64

/-- CH_BINDING of channel `n` (16 R528); a page whose channel is not open has its reset value. -/
def Channel.bindingWord (c : Channel) (n : Nat) : Nat :=
  if !c.open_ then 0 else n + c.pasid.toNat * 2 ^ 16 + c.noPasid.toNat * 2 ^ 36 + c.part % 32 * 2 ^ 40

/-- The 8 bytes of a channel page at an offset that is a multiple of 8 (16 R528): a write-only register and an offset
that is not assigned read as zero, and so does a page whose channel is not open, apart from its reset values. A lock word
is read by 4 bytes alone (16 R548). -/
def State.pageReg (s : State) (n off : Nat) : Nat :=
  let c := s.channel n
  if 0x400 ≤ off ∧ off < 0x800 then 0xFFFFFFFF
  else match off with
  | 0x08 => c.producer.toNat
  | 0x10 => c.consumer.toNat
  | 0x18 => c.statusWord
  | 0x20 => c.generation.toNat
  | 0x28 => c.control.toNat
  | 0x30 => c.cmdBase.toNat
  | 0x38 => c.cplBase.toNat
  | 0x40 => c.cplConsumer.toNat
  | 0x48 => c.timeout.toNat
  | 0x50 => c.intr.toNat
  | 0x58 => c.bindingWord n
  | _ => 0

/-- CMD_RING (14 R487). -/
def Ring.word (r : Ring) : Nat := r.base % 2 ^ 48 + r.log2 % 16 * 2 ^ 56

/-- The Season copy of a steward's own K-die (14 R463). -/
def State.stewardTime (s : State) (k : Nat) : Nat := if stewardDie k = 38 then s.now else s.copyAt (dieIsland 39)

/-- The CSRs of the vector and floating-point state of RVA23U64 (14 R461), with RISC-V's numbers and fields (log entry
138): `fflags`, `frm`, `fcsr`, `vstart`, `vxsat`, `vxrm`, `vcsr`, `vl`, `vtype`, `vlenb`. -/
def Steward.profileCsr (w : Steward) (num : Nat) : Option Nat := match num with
  | 0x001 => some (w.fcsr.toNat % 32)
  | 0x002 => some (w.fcsr.toNat / 32)
  | 0x003 => some w.fcsr.toNat
  | 0x008 => some w.vstart.toNat
  | 0x009 => some (w.vcsr.toNat % 2)
  | 0x00A => some (w.vcsr.toNat / 2)
  | 0x00F => some w.vcsr.toNat
  | 0xC20 => some w.vl.toNat
  | 0xC21 => some w.vtype.toNat
  | 0xC22 => some Config.vlenb.toNat
  | _ => none

/-- A write of one of them; `vl`, `vtype` and `vlenb` are read-only. -/
def Steward.putProfileCsr (w : Steward) (num : Nat) (v : Word) : Steward := match num with
  | 0x001 => { w with fcsr := w.fcsr &&& 0xE0 ||| (v.setWidth 8 &&& 0x1F) }
  | 0x002 => { w with fcsr := w.fcsr &&& 0x1F ||| (v.setWidth 8 <<< 5) }
  | 0x003 => { w with fcsr := v.setWidth 8 }
  | 0x008 => { w with vstart := v }
  | 0x009 => { w with vcsr := w.vcsr &&& 6 ||| (v.setWidth 3 &&& 1) }
  | 0x00A => { w with vcsr := w.vcsr &&& 1 ||| (v.setWidth 3 <<< 1) }
  | 0x00F => { w with vcsr := v.setWidth 3 }
  | _ => w

/-- The value of a steward's CSR (14 R463, R487); `none` for a number that is not listed. The numbers of `cycle`, `time`
and `instret` are those of RISC-V (log entry 73). -/
def State.csrValue (s : State) (k num : Nat) : Option Nat :=
  let w := s.steward k
  let x := s.partition (w.part.getD 0)
  match num with
  | 0x800 => some x.ring.reserved
  | 0x801 => some 0
  | 0x802 => some x.ring.consumer
  | 0x803 => some x.ring.fetched
  | 0x804 => some x.ring.word
  | 0x805 => some (x.ring.cplBase % 2 ^ 48)
  | 0x806 => some w.semSel.toNat
  | 0x807 => some (Tab.get 0 x.sems w.semSel.toNat).toNat
  | 0x808 => some 0
  | 0x809 => some w.semTake.toNat
  | 0x80A => some w.wakeAt.toNat
  | 0x80B => some w.trapVec.toNat
  | 0x80C => some w.trapWord
  | 0x80D => some w.trapEpc.toNat
  | 0x80E => some w.trapTval.toNat
  | 0x80F => some w.trapScratch.toNat
  | 0xC00 => some w.cycle.toNat
  | 0xC01 => some (s.stewardTime k)
  | 0xC02 => some w.instret.toNat
  | _ => w.profileCsr num

/-- A steward that runs reads a CSR. -/
def State.csrRead (s : State) (k : StewardId) (num : Nat) : State :=
  if (s.stewardPart k.val).isNone then s.csrIllegal k.val num
  else match s.csrValue k.val num with
    | some v => s.csrAnswer k (BitVec.ofNat 64 v)
    | none => s.csrIllegal k.val num

/-- The 8 bytes of the MSI-X table and the pending bit array at an offset (16 R522). -/
def State.msixRead (s : State) (off : Nat) : Nat := leNat ((List.range 8).map fun i => Tab.get 0 s.fw.msix (off + i))

/-- A read of a register. The host reaches a page, control space and the MSI-X table; a warm start answers it with all
ones (18 R598). -/
def State.readReg (s : State) (a : Agent) (r : RegRef) : State :=
  if s.hostOnes a then s.emit (.answer a (some (BitVec.allOnes 64)))
  else if s.dropsOf a then s
  else match r with
  | .ctrl off => s.readCtrl a off.toNat
  | .chan n off => s.emit (.answer a
      (if ofPage a n then some (BitVec.ofNat 64 (s.pageReg n.val (off.toNat / 8 * 8))) else none))
  | .csr k num => if a = .steward k then s.csrRead k num.toNat else s.emit (.answer a none)
  | .mgmt off => s.emit (.answer a
      (if a = .bmc ∧ s.mgmt.standby then some (BitVec.ofNat 64 (s.mgmtReg off.toNat)) else none))
  | .cfg off => s.emit (.answer a
      (if a = .host ∧ !s.hostDrops then some ((Tab.get 0 s.mgmt.hostCfg (off.toNat / 4 * 4)).setWidth 64) else none))
  | .msix off => s.emit (.answer a
      (if a = .host then some (BitVec.ofNat 64 (s.msixRead (off.toNat / 8 * 8))) else none))

/-- What a register records in the cycle of a read is kept, also where the read is refused (00 R9). -/
def State.keepAt (s : State) (r : RegRef) (event : Nat) : State := match r with
  | .ctrl off => s.keepEvent (off.toNat / 8 * 8) event
  | _ => s

/-- The row RC_READ (00 R9): `event` is what the register counts in the cycle of the read. -/
def execRcRead (a : Agent) (r : RegRef) (event : Nat) (s : State) : Host.Outcome State Fault Refusal :=
  .next ((s.readReg a r).keepAt r event)

/-! ## W1C fields -/

/-- CH_STATUS: RESET, RING_ERROR, NOTICE_LOST and TIMEOUT (16 R528). -/
def Channel.clearStatus (c : Channel) (v : Word) : Channel :=
  { c with
    timeoutFlag := c.timeoutFlag && !v.getLsbD 3
    noticeLost := c.noticeLost && !v.getLsbD 4
    ringError := c.ringError && !v.getLsbD 5
    reset := c.reset && !v.getLsbD 6 }

/-- A write of a register that has W1C fields. -/
def State.clearBits (s : State) (a : Agent) (r : RegRef) (v : Word) : State := match r with
  | .chan n off =>
    if ofPage a n ∧ !s.hostDrops ∧ off = 0x18 ∧ (s.channel n.val).open_ then s.updChannel n.val fun c => c.clearStatus v else s
  | .mgmt off =>
    if a ≠ .bmc ∨ !s.mgmt.standby then s
    else if off = 0x00 then s.updMgmt fun m => { m with warmIgnored := m.warmIgnored && !v.getLsbD 4 }
    else if off = 0x04 then s.updMgmt fun m => { m with pending := m.pending && !v.getLsbD 31 }
    else s
  | .csr k num =>
    if a ≠ .steward k then s
    else if (s.stewardPart k.val).isNone ∨ 0x810 ≤ num.toNat then s.csrIllegal k.val num.toNat
    else if num = 0x80C then s.updSteward k.val fun w => { w with trapActive := w.trapActive && !v.getLsbD 63 }
    else s
  | _ => s

/-- The row W1C_WRITE (00 R9). -/
def execW1cWrite (a : Agent) (r : RegRef) (v : Word) (s : State) : Host.Outcome State Fault Refusal :=
  .next (s.clearBits a r v)

/-! ## Plain writes -/

/-- A write of 8 bytes of a channel page (16 R528, R529). A base that is not a multiple of 4 KiB, and a timeout outside 1
to 60,000, change nothing (log entry 71). -/
def State.pageWrite (s : State) (n off : Nat) (v : Word) : State :=
  let c := s.channel n
  if !c.open_ ∨ s.hostDrops then s
  else match off with
    | 0x00 => s.doorbell n (v.setWidth 32)
    | 0x28 => s.chControl n v
    | 0x30 => if c.enabled ∨ v.toNat % 4096 ≠ 0 then s else s.updChannel n fun c => { c with cmdBase := v }
    | 0x38 => if c.enabled ∨ v.toNat % 4096 ≠ 0 then s else s.updChannel n fun c => { c with cplBase := v }
    | 0x40 => (s.updChannel n fun c => { c with cplConsumer := v.setWidth 32 }).afterRoom n
    | 0x48 =>
      let t := v.toNat % 65536
      if t = 0 ∨ 60000 < t then s else s.updChannel n fun c => { c with timeout := BitVec.ofNat 16 t }
    | 0x50 => s.updChannel n fun c => { c with intr := v &&& 0x87FF87FF }
    | _ => s

/-- A write of a steward CSR (14 R487). -/
def State.csrWrite (s : State) (k num : Nat) (v : Word) : State :=
  if (s.stewardPart k).isNone then s.csrIllegal k num
  else match num with
    | 0x806 => s.updSteward k fun w => { w with semSel := v.setWidth 6 }
    | 0x80A => s.updSteward k fun w => { w with wakeAt := v }
    | 0x80B => s.updSteward k fun w => { w with trapVec := v }
    | 0x80D => s.updSteward k fun w => { w with trapEpc := v }
    | 0x80E => s.updSteward k fun w => { w with trapTval := v }
    | 0x80F => s.updSteward k fun w => { w with trapScratch := v }
    | _ => if 0x800 ≤ num ∧ num < 0x810 then s else if num < 0x800 then s.updSteward k fun w => w.putProfileCsr num v
      else s.csrIllegal k num

/-- Bytes of the MSI-X table and the pending bit array (16 R522, R523). -/
def State.msixWrite (s : State) (off : Nat) (v : Word) : State :=
  if off % 8 ≠ 0 ∨ off ≥ 0x8100 then s
  else (List.range 8).foldl (fun s i => s.updFw fun f => { f with
    msix := Tab.put f.msix (off + i) (BitVec.ofNat 8 (v.toNat / 256 ^ i)) }) s

/-- Firmware stores 8 bytes of a register of control space. The slice mode is set as R345 says, START = 1 starts a
generator, ENABLE = 0 disables a port, and RETRAIN = 1 starts a full training (10 R345, R358, 11 R363, R395). -/
def State.fwStore (s : State) (off : Nat) (v : Word) : State := match blockAt off with
  | (.mh m, o) =>
    if o = 0x10 then s.sliceModes v
    else if 0x1000 ≤ o ∧ o < 0x1600 ∧ o % 16 = 0 ∧ v.getLsbD 0 then (s.mhWrite m o v).startGen m ((o - 0x1000) / 16)
    else s.fwWrite off v
  | (.fab f, o) =>
    if 0x1000 ≤ o ∧ o < 0x1700 ∧ o % 0x100 = 0 then
      let n := 7 * f + (o - 0x1000) / 0x100
      let s := (if v.getLsbD 0 then s else s.disablePort n).fabWrite f o v
      if v.getLsbD 2 then s.fullRetrain n else s
    else s.fwWrite off v
  | _ => s.fwWrite off v

/-- A write of 8 bytes of a register. -/
def State.writeReg (s : State) (a : Agent) (r : RegRef) (v : Word) : State := match r with
  | .ctrl off =>
    if a = .firmware then (if s.fw.loaded ∧ off.toNat % 8 = 0 then s.fwStore off.toNat v else s)
    else if s.dropsOf a then s
    else if !storeReaches a off.toNat then s.noReach a off.toNat 7
    else s.ctrlWrite a off.toNat 8 v.toNat
  | .chan n off => if ofPage a n then s.pageWrite n.val off.toNat v else s
  | .csr k num => if a = .steward k then s.csrWrite k.val num.toNat v else s
  | .mgmt _ => s
  | .msix off => if a = .host ∧ !s.hostDrops then s.msixWrite off.toNat v else s
  | .cfg off => if a = .host ∧ !s.hostDrops ∧ off.toNat % 4 = 0 then
      s.updMgmt fun m => { m with hostCfg := Tab.put m.hostCfg off.toNat (v.setWidth 32) } else s

/-- The row REGISTER_WRITE (00 R9). -/
def execRegisterWrite (a : Agent) (r : RegRef) (v : Word) (s : State) : Host.Outcome State Fault Refusal :=
  .next (s.writeReg a r v)

end Sys2Proof.Machine
end

