-- ==== Sys2Proof/Machine/Placement.lean ====
section
/-! DEFINITION. Creating, placing and destroying partitions (15 R489 to R499, 16 R540), and the end of a teardown (15
R513 to R516). -/

namespace Sys2Proof.Machine

open Sys2Proof

/-! ## The create block (16 R545) -/

/-- A region word: SIZE in 3 GiB units, LLM_ALLOC, GUARD; and whether its reserved bits are zero. -/
structure RegionWord where
  size : Nat
  alloc : Nat
  detect : Bool
  clean : Bool
deriving DecidableEq, Repr

def regionWordOf (v : Nat) : RegionWord :=
  ⟨fld v 9 0, fld v 61 60, bit v 62, fld v 59 10 = 0 && !bit v 63⟩

/-- A range word: slice, MiB; and whether its reserved bits are zero. -/
structure RangeWord where
  slice : Nat
  mib : Nat
  clean : Bool
deriving DecidableEq, Repr

def rangeWordOf (v : Nat) : RangeWord := ⟨fld v 18 16, fld v 15 0, fld v 31 19 = 0⟩

structure CreateBlock where
  id : Nat
  flags : Nat
  blocks : Nat
  stewards : Nat
  nRegions : Nat
  nRanges : Nat
  log2 : Nat
  job : Nat
  window : Nat
  affinity : List Nat
  regions : List RegionWord
  ranges : List RangeWord
  clean : Bool
deriving DecidableEq, Repr

def CreateBlock.calm (c : CreateBlock) : Bool := bit c.flags 0
def CreateBlock.allowMv (c : CreateBlock) : Bool := bit c.flags 1
def CreateBlock.realtime (c : CreateBlock) : Bool := bit c.flags 2
def CreateBlock.lendable (c : CreateBlock) : Bool := bit c.flags 3
def CreateBlock.queue (c : CreateBlock) : Bool := bit c.flags 4

/-- The block as firmware reads it: as many region words and range words as its bytes 5 and 6 give. -/
def createBlockOf (b : Bytes) : CreateBlock where
  id := field b 0 1
  flags := field b 1 1
  blocks := field b 2 2
  stewards := field b 4 1
  nRegions := field b 5 1
  nRanges := field b 6 1
  log2 := field b 7 1
  job := field b 8 4
  window := field b 12 2
  affinity := ((List.range 8).map fun i => field b (16 + 8 * i) 8).filter (· ≠ 0)
  regions := (List.range (min (field b 5 1) 16)).map fun i => regionWordOf (field b (80 + 8 * i) 8)
  ranges := (List.range (min (field b 6 1) 8)).map fun i => rangeWordOf (field b (208 + 4 * i) 4)
  clean := fld (field b 1 1) 7 5 = 0 && field b 14 2 = 0 && allZero ((b.drop 240).take 16)

/-- A parameter of the second step of R494 is out of its range. -/
def State.badCreate (s : State) (c : CreateBlock) : Bool :=
  !c.clean || (c.allowMv && !c.calm) || (c.realtime && c.lendable) || (c.lendable && c.calm) ||
  c.blocks > 288 || (c.blocks = 0 && !c.realtime) || c.stewards > 20 ||
  c.nRegions = 0 || c.nRegions > 16 || c.nRanges > 8 || c.log2 < 6 || c.log2 > 16 ||
  (c.regions.any fun r => !r.clean || r.size = 0 || r.alloc = 3) ||
  (c.ranges.any fun r => !r.clean || r.mib = 0) ||
  c.affinity.any fun a => s.unmappedAt a

/-! ## Reserving resources (15 R491, R494 step 3) -/

/-- Steward cores with no partition, lowest first (15 R498). -/
def State.freeStewards (s : State) : List Nat := (List.range 20).filter fun k => (s.steward k).part.isNone

/-- Bases at which a region of a size overlaps no other. -/
def State.regionBases (s : State) (size : Nat) : List Nat :=
  if size = 0 ∨ size > s.hbmUnits then []
  else (List.range (s.hbmUnits - size + 1)).filter fun b =>
    s.regions.all fun e => b + size ≤ e.2.base || e.2.base + e.2.size ≤ b

/-- Unused entries of the region table (10 R328). -/
def State.regionSlots (s : State) : List Nat := (List.range 64).filter fun i => (Tab.get? s.regions i).isNone

/-- A region is reserved. Where it lies and which entry it takes is firmware's choice, which no rule fixes (log entry
52). -/
def State.reserveRegion (s : State) (size : Nat) (detect : Bool) (alloc : Nat) (owner : Option Nat) :
    Option Nat × State :=
  let (base, s) := s.pick (s.regionBases size)
  let (slot, s) := s.pick s.regionSlots
  match base, slot with
  | some b, some i => (some i, { s with regions := Tab.put s.regions i ⟨b, size, detect, BitVec.ofNat 2 alloc, owner⟩ })
  | _, _ => (none, s)

def State.reserveRegions (s : State) (p : Nat) : List RegionWord → Option (List Nat) × State
  | [] => (some [], s)
  | r :: l =>
    match s.reserveRegion r.size r.detect r.alloc (some p) with
    | (none, s) => (none, s)
    | (some i, s) =>
      match s.reserveRegions p l with
      | (some is, s) => (some (i :: is), s)
      | (none, s) => (none, s)

/-- MiB offsets of a slice's backed window at which a range overlaps none that is reserved (10 R340). -/
def State.rangeSpots (s : State) (taken : List (Nat × Nat × Nat)) (m n : Nat) : List Nat :=
  let used := (s.partitions.flatMap fun e => e.2.ranges) ++ taken
  (List.range 96).filter fun k =>
    let a := 0x100000 * k
    a + n ≤ llmBacked (s.hub m).mode.toNat && used.all fun e => e.1 ≠ m || a + n ≤ e.2.1 || e.2.1 + e.2.2 ≤ a

def State.reserveRanges (s : State) (taken : List (Nat × Nat × Nat)) :
    List RangeWord → Option (List (Nat × Nat × Nat)) × State
  | [] => (some taken, s)
  | r :: l =>
    let n := 0x100000 * r.mib
    let (spot, s) := s.pick (s.rangeSpots taken r.slice n)
    match spot with
    | none => (none, s)
    | some k => s.reserveRanges (taken ++ [(r.slice, 0x100000 * k, n)]) l

/-- Blocks whose images the save area holds: a real-time partition may come to claim any (15 R496; log entry 53). -/
def CreateBlock.saveBlocks (c : CreateBlock) : Nat := if c.realtime then 288 else c.blocks

/-- Units of 3 GiB of the save area (15 R496, 10 R329). -/
def CreateBlock.saveUnits (c : CreateBlock) : Nat := cdiv (c.saveBlocks * 16 * 0x140000) 0xB4000000

/-- What a CREATE reserves. -/
structure Reserved where
  stewards : List Nat
  regions : List Nat
  ranges : List (Nat × Nat × Nat)
  save : Nat
deriving DecidableEq, Repr

/-- LLM_ALLOC of a region of firmware, which no rule gives (log entry 52). -/
def State.freeAlloc (s : State) : Nat × State := let (n, s) := s.draw; (n % 3, s)

/-- The third step of R494. -/
def State.reserve (s : State) (c : CreateBlock) : Option Reserved × State :=
  if s.freeStewards.length < c.stewards then (none, s)
  else match s.reserveRegions c.id c.regions with
    | (none, s) => (none, s)
    | (some rs, s) => match s.reserveRanges [] c.ranges with
      | (none, s) => (none, s)
      | (some ls, s) => let (alloc, s) := s.freeAlloc; match s.reserveRegion c.saveUnits false alloc none with
        | (none, s) => (none, s)
        | (some i, s) => (some ⟨s.freeStewards.take c.stewards, rs, ls, i⟩, s)

/-! ## Blocks and promises (15 R495) -/

/-- Blocks that are home to no partition. -/
def State.freeBlocks (s : State) : List Nat := (List.range 288).filter fun b => (s.homeOf b).isNone

/-- Blocks that accepted DESTROYs free: the count AT and how many, earliest first. -/
def State.comingBlocks (s : State) : List (Nat × Nat) :=
  let l := s.partitions.filterMap fun e =>
    (e.2.destroyAt.filter fun d => d.1 ≠ 0).map fun d => (d.1, popcount e.2.home)
  l.mergeSort fun a b => a.1 ≤ b.1

/-- Promises take blocks that come by a count first, earliest first; what is left over of the need. -/
def promise (x : Nat) : Nat → List (Nat × Nat) → Nat × List (Nat × Nat)
  | need, [] => (need, [])
  | need, (at_, n) :: l =>
    if at_ > x then let (r, l) := promise x need l; (r, (at_, n) :: l)
    else
      let k := min need n
      let (r, l) := promise x (need - k) l
      (r, (at_, n - k) :: l)

/-- The DEFERRED partitions in the order of their promises: X, then the order of their CREATEs. -/
def State.deferredList (s : State) : List (Nat × Nat × Nat × Nat) :=
  let l := s.partitions.filterMap fun e =>
    if e.2.state = .deferred then e.2.deferral.map fun d => (d.1, d.2.2.2, d.2.1, e.1) else none
  l.mergeSort fun a b => a.1 < b.1 || (a.1 = b.1 && a.2.1 ≤ b.2.1)

/-- The order in which promises are followed through time: that of the list, but a DEFERRED partition whose accepted
DESTROY comes no later than its X holds its promise to that count, and gives it back before others are placed at it. -/
def State.promiseOrder (s : State) : List (Nat × Nat × Nat × Nat) :=
  let l := s.deferredList.map fun d => match (s.partition d.2.2.2).destroyAt with
    | some (t, _) => if t ≤ d.1 then (t, 0, d) else (d.1, 1, d)
    | none => (d.1, 1, d)
  (l.mergeSort fun a b => a.1 < b.1 || (a.1 = b.1 && a.2.1 ≤ b.2.1)).map (·.2.2)

/-- What the accepted DESTROY of a DEFERRED partition with X and a need gives back at its AT: the blocks promised to it,
`rest` of them free now, or, when it has been placed by then, its blocks. -/
def givenBack (x need : Nat) (at_ : Option Nat) (rest : Nat) (before after : List (Nat × Nat)) : List (Nat × Nat) :=
  match at_ with
  | none => []
  | some t =>
    if x < t then [(t, need)] else (t, rest) :: (before.zip after).map fun e => (max t e.1.1, e.1.2 - e.2.2)

/-- Blocks available now and blocks that come, after the promises. -/
def State.available (s : State) : Nat × List (Nat × Nat) :=
  s.promiseOrder.foldl (fun (acc : Nat × List (Nat × Nat)) d =>
    let (left, l) := promise d.1 d.2.2.1 acc.2
    let rest := min left acc.1
    let back := givenBack d.1 d.2.2.1 ((s.partition d.2.2.2).destroyAt.map (·.1)) rest acc.2 l
    (acc.1 - rest, (l ++ back).mergeSort fun a b => a.1 ≤ b.1)) (s.freeBlocks.length, s.comingBlocks)

/-- The earliest count at which enough blocks are available. -/
def earliest (need : Nat) : Nat → List (Nat × Nat) → Option Nat
  | _, [] => none
  | have_, (at_, n) :: l => if need ≤ have_ + n then some at_ else earliest need (have_ + n) l

/-! ## Placement (15 R497) -/

/-- The score of a block. -/
def blockScore (aff : List Nat) (b : Nat) : Nat :=
  if aff.any fun a => coreBase ≤ a && a < coreBase + 4608 * 0x200000 && blockOf ((a - coreBase) / 0x200000) = b then 2
  else if aff.any fun a => llmBase ≤ a && a < llmBase + 8 * 0x6000000 && (a - llmBase) / 0x6000000 = homeHub (b / 16) then 1
  else 0

/-- The blocks that a placement takes. -/
def State.placeBlocks (s : State) (aff : List Nat) (n : Nat) : List Nat :=
  let l := s.freeBlocks
  let of (k : Nat) : List Nat := l.filter fun b => blockScore aff b = k
  (of 2 ++ of 1 ++ of 0).take n

/-- A line of a slice's cache after whole blocks behind it were written: it holds what was written. -/
def LlmLine.fresh (l : LlmLine) (inside : Nat → Bool) : LlmLine :=
  (List.range 4).foldl (fun l i => if inside (l.granule * 4 + i) then
    { l with spoiled := l.spoiled &&& ~~~(1#4 <<< i), held := Tab.del l.held i } else l) l

/-- Bytes of memory are zeroed with fresh check bytes, in the slices' caches too. -/
def State.zeroRange (s : State) (a n : Nat) : State :=
  let inside (b : Nat) : Bool := a / 64 ≤ b && b * 64 < a + n
  { s with
    hubs := s.hubs.map fun e => (e.1, { e.2 with lines := e.2.lines.map fun l => l.fresh inside })
    mem := memClear s.mem a n
    poison := s.poison.filter fun b => !inside b
    upsets := s.upsets.filter fun e => !inside e.1
    writebacks := s.writebacks.filter fun e => !inside e.1
    testRuns := TestRun.wrote s.testRuns (a / 64) (cdiv n 64) }

/-- Where the image of a core's context lies. -/
def Partition.imageAt (x : Partition) (c : Nat) : Nat := x.save + x.rankOf c * 0x140000

/-- A context in which nothing has run. -/
def Core.fresh (p : Nat) : Core := { Core.zero with ctx := some p }

/-- A partition takes a block: each core is assigned to it, or, where a claimant holds the core, gets a fresh image, and
the block is lent from the start (15 R504, R518). -/
def State.occupyBlock (s : State) (p b : Nat) : State :=
  let s := match s.lendingMonth b with
    | some m => s.lendIn b m
    | none => s
  (List.range 16).foldl (fun s j =>
    let c := 16 * b + j
    if (s.core c).ctx.isNone && (s.core c).preempt = .live && (s.claimantOf b).isNone then s.assignCore c (some p) []
    else { s with saved := (p, c, { Core.fresh p with preempt := .saved }) :: s.saved }) s

/-- The blocks of a mask. -/
def blockMask (l : List Nat) : BitVec 288 := l.foldl (fun m b => m ||| (1#288 <<< b)) 0

/-- A steward is started (14 R461): its image is loaded, which extends measurement register 4 (18 R586), and it begins
at the image's entry point. Where the image comes from and lies, its entry point and its digest are not given, nor what
the steward's registers then hold: free values (log entry 2). -/
def State.startSteward (s : State) (k : Nat) : State :=
  let (bs, s) := s.drawBytes 48
  let s := s.updMgmt fun m => { m with
    measure := Tab.put m.measure 4 (Config.measureExtend (Tab.get 0 m.measure 4) (BitVec.ofNat 384 (leNat bs))) }
  let f := s.free
  { s with free := f + 128 }.updSteward k fun w => { w with
    running := true, pc := Config.freeWord f
    xregs := (List.range 31).map fun i => (i + 1, Config.freeWord (f + 1 + i))
    fregs := (List.range 32).map fun i => (i, Config.freeWord (f + 32 + i))
    vregs := (List.range 32).map fun i => (i, Config.freeNat (f + 64 + i) % 2 ^ (8 * Config.vlenb.toNat))
    vl := Config.freeWord (f + 96), vtype := Config.freeWord (f + 97), vstart := Config.freeWord (f + 98)
    vcsr := (Config.freeWord (f + 99)).setWidth 3, fcsr := (Config.freeWord (f + 100)).setWidth 8 }

/-- A partition's blocks are placed and it becomes ACTIVE; its stewards start. -/
def State.activate (s : State) (p : Nat) (aff : List Nat) (n : Nat) : State :=
  let l := s.placeBlocks aff n
  let s := l.foldl (fun s b => s.occupyBlock p b) s
  let s := s.updPartition p fun x => { x with state := .active, home := blockMask l, deferral := none }
  let s := (s.saved.filter fun e => e.1 = p).foldl (fun s e => s.zeroRange ((s.partition p).imageAt e.2.1) 0x130000) s
  (s.partition p).stewards.foldl (fun s k => s.startSteward k) s

/-! ## Rings and areas (16 R540) -/

/-- The rings, the fault area and the notice area of a partition, from the start of its first region. -/
def carve (start log2 : Nat) : Ring × Nat :=
  let n := 2 ^ log2 * 32
  let cpl := roundUp (start + n) 4096
  ({ Ring.empty with base := start, log2 := log2, cplBase := cpl }, roundUp (cpl + n) 4096)

/-- The partition as a CREATE makes it, without blocks. -/
def State.newPartition (s : State) (c : CreateBlock) (r : Reserved) (creator : BitVec 16) : Partition :=
  let start := ((r.regions.head?.bind (Tab.get? s.regions)).map Region.start).getD 0
  let (ring, fault) := carve start c.log2
  { Partition.absent with
    job := BitVec.ofNat 32 c.job, calm := c.calm, allowMv := c.allowMv, realtime := c.realtime, lendable := c.lendable
    stewards := r.stewards, regions := r.regions, ranges := r.ranges
    save := ((Tab.get? s.regions r.save).map Region.start).getD 0, saveRegion := some r.save
    faultArea := fault, creator := creator, ring := ring, secureThreshold := 192, secureArmed := true }

/-- What every accepted CREATE does: the partition holds what is reserved, and its areas read as empty. -/
def State.install (s : State) (c : CreateBlock) (r : Reserved) (creator : BitVec 16) : State :=
  let x := s.newPartition c r creator
  let s := s.setPartition c.id x
  let s := r.stewards.foldl (fun s k => s.updSteward k fun _ => { Steward.unassigned with part := some c.id }) s
  let s := s.updSeason fun z => { z with
    launchWindow := Tab.put z.launchWindow c.id (BitVec.ofNat 16 (max 16 c.window)) }
  (s.zeroRange x.ring.base (x.faultArea + 0x1400 - x.ring.base)).updFw fun f => { f with createCount := f.createCount + 1 }

/-- CREATE after its checks of parameters: the resources, then the blocks. -/
def State.createNow (s : State) (c : CreateBlock) (creator : BitVec 16) : Answer × State :=
  match s.reserve c with
  | (none, s') => (⟨.noResource, none, none⟩, { s with free := s'.free })
  | (some r, s') =>
    let r1 := ((r.regions.head?.bind (Tab.get? s'.regions)).map fun g => BitVec.ofNat 64 g.start)
    let (now, coming) := s.available
    if c.blocks ≤ now then
      (⟨.ok, none, r1⟩, (s'.install c r creator).activate c.id c.affinity c.blocks)
    else match earliest c.blocks now coming with
      | none => (⟨.refused, none, none⟩, { s with free := s'.free })
      | some x =>
        if !c.queue then (⟨.refused, none, none⟩, { s with free := s'.free })
        else
          let s' := s'.install c r creator
          (⟨.deferred, some (BitVec.ofNat 64 x), r1⟩,
            s'.updPartition c.id fun q => { q with
              state := .deferred, deferral := some (x, c.blocks, c.affinity, s'.fw.createCount) })

/-- CREATE (15 R494): the checks in their order. -/
def State.create (s : State) (t : Taken) (host : Option Bytes) : Answer × State :=
  match s.readPblock t host (t.long 24) 256 with
  | (.error st, s) => (⟨st, none, none⟩, s)
  | (.ok b, s) =>
    let c := createBlockOf b
    if c.id = 0 ∨ c.id > 31 ∨ c.job = 0 then (⟨.invalidArgument, none, none⟩, s)
    else if (s.partition c.id).state ≠ .absent ∨ !(s.partsOfJob (BitVec.ofNat 32 c.job)).isEmpty then
      (⟨.stateConflict, none, none⟩, s)
    else if s.badCreate c then (⟨.invalidArgument, none, none⟩, s)
    else s.createNow c t.sender

/-- The row CREATE (15 R494). -/
def execCreate (pblock : Option Bytes) (s : State) : Host.Outcome State Fault Refusal :=
  .next (s.command 0x10 ⟨.manager, [.service], [(24, 31)], none⟩ fun s t => s.create t pblock)

/-- A DEFERRED partition is placed at its X, in the order of the promises (15 R495). -/
def State.placeDeferred (s : State) (p : Nat) : State :=
  let x := s.partition p
  match x.state, x.deferral with
  | .deferred, some (at_, n, aff, _) =>
    if !s.fw.up ∨ s.now < at_ ∨ s.freeBlocks.length < n ∨ (s.deferredList.head?.map (·.2.2.2)) ≠ some p then s
    else (s.activate p aff n).notifyPartition p false ⟨1, BitVec.ofNat 64 p, x.job.setWidth 64, []⟩
  | _, _ => s

/-- The row DEFERRED_PLACEMENT (15 R495). -/
def execDeferredPlacement (p : PartId) (s : State) : Host.Outcome State Fault Refusal := .next (s.placeDeferred p.val)

/-! ## Destroying (15 R499) -/

/-- A core leaves a partition that is released. -/
def State.releaseCore (s : State) (p c : Nat) : State := if (s.core c).ctx = some p then s.settleCore c else s

/-- Commands that a draining channel had fetched do not run once their partition is destroyed (16 R533). -/
def State.dropDrained (s : State) (p : Nat) : State :=
  let gone (n : Nat) : Bool := (s.channel n).draining && (s.channel n).part = p
  let rest : Table Channel := s.channels.map fun e => if gone e.1 then (e.1, { e.2 with fetched := [] }) else e
  { s with channels := rest }.updFw fun f => { f with
    taken := f.taken.filter fun t => !(t.fromHost && gone t.sender.toNat) }

/-- Every resource of R491 and the ID are released. -/
def State.release (s : State) (p : Nat) : State :=
  let s := s.dropDrained p
  let x := s.partition p
  let s := { s with
    regions := s.regions.filter fun e => e.2.owner ≠ some p && some e.1 ≠ x.saveRegion
    saved := s.saved.filter fun e => e.1 ≠ p
    stewards := s.stewards.filter fun e => e.2.part ≠ some p
    partitions := Tab.del s.partitions p }
  let s := s.updSeason fun z => { z with resumeAt := z.resumeAt.filter fun e => !x.home.getLsbD e.1 }
  x.cores.foldl (fun s c => s.releaseCore p c) s

/-- A DESTROY acts: `at_` is the count that detail word 0 of the record holds. -/
def State.destroyNow (s : State) (p at_ : Nat) (sender : BitVec 16) : State :=
  match (s.partition p).state with
  | .active =>
    (s.updPartition p fun x => { x with destroyAt := some (at_, sender) }).raise p
      (s.record 0x0808 serviceUnit 0 at_ sender.toNat 0 0)
  | .teardown => s.updPartition p fun x => { x with destroyAt := some (at_, sender) }
  | .absent => s
  | _ => s.release p

/-- DESTROY: accepted, and carried out at once or at AT. Of two ATs the earlier counts. -/
def State.destroy (s : State) (t : Taken) : Answer × State :=
  let p := t.byte 24
  let at_ := t.long 32
  if p = 0 ∨ p > 31 then (⟨.invalidArgument, none, none⟩, s)
  else if (s.partition p).state = .absent then (⟨.stateConflict, none, none⟩, s)
  else if at_ = 0 ∨ at_ ≤ s.now then (⟨.ok, none, none⟩, s.destroyNow p 0 t.sender)
  else
    let d := match (s.partition p).destroyAt with
      | some (b, q) => if b ≤ at_ then (b, q) else (at_, t.sender)
      | none => (at_, t.sender)
    (⟨.ok, none, none⟩, s.updPartition p fun x => { x with destroyAt := some d })

/-- The row DESTROY (15 R499). -/
def execDestroy (s : State) : Host.Outcome State Fault Refusal :=
  .next (s.command 0x11 ⟨.manager, [.service], [(24, 24), (32, 39)], none⟩ fun s t => s.destroy t)

/-- An accepted DESTROY whose AT the K0 copy has reached acts. -/
def State.destroyDue (s : State) (p : Nat) : State :=
  match (s.partition p).destroyAt with
  | some (at_, sender) => if s.fw.up ∧ at_ ≤ s.now ∧ (s.partition p).state ≠ .teardown then s.destroyNow p at_ sender else s
  | none => s

/-- The row DESTROY_AT (15 R499). -/
def execDestroyAt (p : PartId) (s : State) : Host.Outcome State Fault Refusal := .next (s.destroyDue p.val)

/-! ## Fault records and the end of a teardown (15 R513 to R515) -/

/-- SCOPE of a fault code (15 R514): DIE_FAILED and LINK_FAILED, TARGET_DEAD and JOB_ABORTED, every other. -/
def faultScope (code : Nat) : Nat :=
  if code = 0x0A02 ∨ code = 0x0505 then 3 else if code = 0x0503 ∨ code = 0x0507 then 2 else 1

/-- The 64 bytes of a record in a slot (15 R514). -/
def recordBytes (p : Nat) (job : BitVec 32) (slot : Nat) (r : FaultRec) : Bytes :=
  leBytes 2 r.code.toNat ++ leBytes 1 (faultScope r.code.toNat + (if slot = 0 then 0 else 128)) ++ leBytes 1 p ++
  leBytes 4 job.toNat ++ leBytes 2 r.source.toNat ++ leBytes 2 (slot + 1) ++ zeros 4 ++ leBytes 8 r.season.toNat ++
  leBytes 8 r.addr.toNat ++ leBytes 8 r.d0.toNat ++ leBytes 8 r.d1.toNat ++ leBytes 8 r.d2.toNat ++ leBytes 8 r.d3.toNat

/-- The oldest unwritten record goes to its slot; the primary record goes out as PARTITION_FAULTED (15 R515, 16 R538).
Partition 0 has no fault area (log entry 54). -/
def State.writeRecord (s : State) (p : Nat) : State :=
  let x := s.partition p
  match x.records with
  | [] => s
  | r :: rest =>
    if !s.fw.up ∨ x.state = .absent then s
    else
      let slot := x.recordsWritten
      let bs := recordBytes p x.job slot r
      let s := s.updPartition p fun x => { x with records := rest, recordsWritten := slot + 1 }
      let s := if x.faultArea = 0 then s else s.poke p (x.faultArea + slot * 64) bs
      if slot = 0 then s.notifyPartition p true ⟨2, BitVec.ofNat 64 p, x.job.setWidth 64, bs⟩ else s

/-- The row FAULT_RECORD_WRITE (15 R515). -/
def execFaultRecordWrite (p : PartId) (s : State) : Host.Outcome State Fault Refusal := .next (s.writeRecord p.val)

/-- Step 5 of a teardown: every record is written, the partition becomes FAULTED, and a DESTROY that waits releases
it. -/
def State.endTeardown (s : State) (p : Nat) : State :=
  let x := s.partition p
  if x.state ≠ .teardown ∨ !x.records.isEmpty ∨ !s.fw.up then s
  else
    let s := s.updPartition p fun x => { x with state := .faulted }
    let s := { s with
      steps := s.steps.filter fun e => !(e.2.part = p && e.2.faulted)
      forecasts := s.forecasts.filter fun e => !(e.2.part = p && e.2.phase = 5) }
    match x.destroyAt with
    | some (at_, _) => if at_ ≤ s.now then s.release p else s
    | none => s

/-- The row TEARDOWN_COMPLETE (15 R513). -/
def execTeardownComplete (p : PartId) (s : State) : Host.Outcome State Fault Refusal := .next (s.endTeardown p.val)

end Sys2Proof.Machine
end

