-- ==== Sys2Proof/Machine/Checkpoints.lean ====
section
/-! DEFINITION. The Barometer, the checkpoint tiers and restores (17). -/

namespace Sys2Proof.Machine

open Sys2Proof

/-! ## Settings (17 R555, R564, R570) -/

/-- SECURE_SET: the threshold, and the partition is armed again. -/
def State.secureSet (s : State) (t : Taken) : Answer × State :=
  let p := t.byte 24
  let st := (s.partition p).state
  if p > 31 then (⟨.invalidArgument, none, none⟩, s)
  else if st ≠ .active ∧ st ≠ .deferred then (⟨.stateConflict, none, none⟩, s)
  else (⟨.ok, none, none⟩, s.updPartition p fun x => { x with
    secureThreshold := BitVec.ofNat 8 (t.byte 25), secureArmed := true })

/-- The row SECURE_SET (17 R555). -/
def execSecureSet (s : State) : Host.Outcome State Fault Refusal :=
  .next (s.command 0x60 ⟨.owner 24, [.service], [(24, 25)], some 24⟩ fun s t => s.secureSet t)

/-- A context has a kernel that runs, is armed or is pending. -/
def Core.hasKernel (k : Core) : Bool := k.cur.isSome || k.armed.isSome || k.pendingLaunch.isSome

/-- A kernel of a partition is running or pending, on a core or in a saved context. -/
def State.kernelBusy (s : State) (p : Nat) : Bool :=
  (s.cores.any fun e => e.2.ctx = some p && e.2.hasKernel) || s.saved.any fun e => e.1 = p && e.2.2.hasKernel

/-- A seed goes into every context of a partition as a key schedule (03 R120). -/
def State.loadSeed (s : State) (p : Nat) (seed : Bytes) : State :=
  let keys := keySchedule seed
  let set (k : Core) : Core := { k with keys := keys }
  let s := (s.partition p).cores.foldl (fun s c => if (s.core c).ctx = some p then s.updCore c set else s) s
  { s with saved := s.saved.map fun e => if e.1 = p then (e.1, e.2.1, set e.2.2) else e }

/-- SEED_LOAD. -/
def State.seedLoad (s : State) (t : Taken) (host : Option Bytes) : Answer × State :=
  let p := t.byte 24
  if p > 31 then (⟨.invalidArgument, none, none⟩, s)
  else match s.readPblock t host (t.long 32) 16 with
    | (.error st, s) => (⟨st, none, none⟩, s)
    | (.ok seed, s) =>
      if (s.partition p).state ≠ .active ∨ s.kernelBusy p then (⟨.stateConflict, none, none⟩, s)
      else
        let d := crc64 seed
        (⟨.ok, some d, none⟩, (s.loadSeed p seed).updPartition p fun x => { x with seedDigest := some d })

/-- The row SEED_LOAD (17 R572). -/
def execSeedLoad (pblock : Option Bytes) (s : State) : Host.Outcome State Fault Refusal :=
  .next (s.command 0x61 ⟨.owner 24, [.service], [(24, 24), (32, 39)], some 24⟩ fun s t => s.seedLoad t pblock)

/-- The store of a job, with its number. -/
def State.dewOf (s : State) (job : BitVec 32) : Option (Nat × DewStore) := s.ckpt.dew.find? fun e => e.2.job = job

/-- The shard size, and the bytes of a store (17 R565, R566). -/
def shardSize (imageMax : Nat) : Nat := cdiv imageMax (14 * 4096) * 4096
def storeBytes (h : Nat) : Nat := 32 * (4096 + h)

/-- A store is created: its region, and shard slots that hold nothing. Which region entry and which of the 8 stores it
becomes is firmware's choice (log entry 52). -/
def State.newStore (s : State) (job : BitVec 32) (imageMax base : Nat) : Answer × State :=
  let h := shardSize imageMax
  let size := cdiv (storeBytes h) 0xB4000000
  let fits := s.regions.all fun e => base + size ≤ e.2.base || e.2.base + e.2.size ≤ base
  let (slot, s1) := s.pick s.regionSlots
  let (no, s1) := s1.pick ((List.range 8).filter fun i => (Tab.get? s.ckpt.dew i).isNone)
  match slot, no with
  | some i, some n =>
    if !fits ∨ base + size > s.hbmUnits then (⟨.noResource, none, none⟩, s)
    else
      let (alloc, s) := s1.freeAlloc
      let at_ := base * regionUnit
      let s := { s with regions := Tab.put s.regions i ⟨base, size, false, BitVec.ofNat 2 alloc, none⟩ }
      let s := (List.range 32).foldl (fun s k => s.zeroRange (at_ + k * (4096 + h)) 64) s
      let store : DewStore := ⟨job, at_, imageMax, h, i, 0, 0⟩
      (⟨.ok, some (BitVec.ofNat 64 (storeBytes h)), none⟩, { s with ckpt := { s.ckpt with dew := Tab.put s.ckpt.dew n store } })
  | _, _ => (⟨.noResource, none, none⟩, s)

/-- DEW_SETUP. -/
def State.dewSetup (s : State) (t : Taken) : Answer × State :=
  let job := BitVec.ofNat 32 (t.word 24)
  let imageMax := t.long 32
  let base := t.long 40
  if imageMax % 4096 ≠ 0 ∨ base % regionUnit ≠ 0 ∨ base / regionUnit ≥ s.hbmUnits then (⟨.invalidArgument, none, none⟩, s)
  else if (s.dewOf job).isSome ∨ s.ckpt.dew.length ≥ 8 then (⟨.stateConflict, none, none⟩, s)
  else s.newStore job imageMax (base / regionUnit)

/-- The row DEW_SETUP (17 R564). -/
def execDewSetup (s : State) : Host.Outcome State Fault Refusal :=
  .next (s.command 0x62 ⟨.manager, [.service, .quiesced], [(24, 27), (32, 47)], none⟩ fun s t => s.dewSetup t)

/-- DEW_RELEASE. A JOB without a store is a state conflict (log entry 58). -/
def State.dewRelease (s : State) (t : Taken) : Answer × State :=
  let job := BitVec.ofNat 32 (t.word 24)
  match s.dewOf job with
  | none => (⟨.stateConflict, none, none⟩, s)
  | some (n, d) =>
    let busy := s.ckpt.running.any fun e => e.2.job = job
    if busy then (⟨.stateConflict, none, none⟩, s)
    else (⟨.ok, none, none⟩, { s with
      regions := Tab.del s.regions d.region, ckpt := { s.ckpt with dew := Tab.del s.ckpt.dew n } })

/-- The row DEW_RELEASE (17 R564). -/
def execDewRelease (s : State) : Host.Outcome State Fault Refusal :=
  .next (s.command 0x63 ⟨.manager, [.service, .quiesced], [(24, 27)], none⟩ fun s t => s.dewRelease t)

/-- The newest generation of a job on the SSD, 0 for none. -/
def Ckpt.frostNewest (c : Ckpt) (job : BitVec 32) : Nat :=
  ((c.frost.filter fun e => e.1 = job).map (·.2.1)).foldl max 0

/-- The newest `keep` generations of a job stay (17 R570). -/
def Ckpt.frostTrim (c : Ckpt) (job : BitVec 32) (keep : Nat) : Ckpt :=
  let gens := (((c.frost.filter fun e => e.1 = job).map (·.2.1)).mergeSort (· ≥ ·)).take keep
  { c with frost := c.frost.filter fun e => e.1 ≠ job || gens.contains e.2.1 }

/-- FROST_SETUP. -/
def State.frostSetup (s : State) (t : Taken) : Answer × State :=
  let keep := t.byte 28
  if keep < 2 ∨ keep > 16 then (⟨.invalidArgument, none, none⟩, s)
  else (⟨.ok, none, none⟩, { s with ckpt := { s.ckpt with frostKeep := Tab.put s.ckpt.frostKeep (t.word 24) keep } })

/-- The row FROST_SETUP (17 R570). -/
def execFrostSetup (s : State) : Host.Outcome State Fault Refusal :=
  .next (s.command 0x64 ⟨.manager, [.service, .quiesced], [(24, 28)], none⟩ fun s t => s.frostSetup t)

/-- The row CKPT_QUERY (17 R559). -/
def execCkptQuery (s : State) : Host.Outcome State Fault Refusal :=
  .next (s.command 0x67 ⟨.anyone, [.service, .quiesced], [(24, 27)], none⟩ fun s t =>
    let job := BitVec.ofNat 32 (t.word 24)
    let dew := ((s.dewOf job).map fun e => e.2.gen).getD 0
    (⟨.ok, some (BitVec.ofNat 64 dew), some (BitVec.ofNat 64 (s.ckpt.frostNewest job))⟩, s))

/-! ## Manifests and images (17 R560, R561) -/

/-- A range of a manifest. -/
structure CkptRange where
  addr : Nat
  len : Nat
  step : Nat
deriving DecidableEq, Repr

structure Manifest where
  job : BitVec 32
  count : Nat
  gen : Nat
  step : Nat
  seed : Nat
  bytes : Nat
  digest : Nat
  /-- The bytes that R560 gives as zero are zero. -/
  clean : Bool
  ranges : List CkptRange
deriving DecidableEq, Repr

/-- A manifest from its bytes: as many ranges as its header gives, at most 126. -/
def manifestOf (b : Bytes) : Manifest :=
  let idx := List.range (min (field b 4 4) 126)
  { job := BitVec.ofNat 32 (field b 0 4), count := field b 4 4, gen := field b 8 8, step := field b 16 8
    seed := field b 24 8, bytes := field b 40 8, digest := field b 48 8
    clean := allZero ((b.drop 34).take 6) && allZero ((b.drop 56).take 8) &&
      idx.all fun i => allZero ((b.drop (88 + 32 * i)).take 8)
    ranges := idx.map fun i => ⟨field b (64 + 32 * i) 8, field b (72 + 32 * i) 8, field b (80 + 32 * i) 8⟩ }

def Manifest.imageBytes (m : Manifest) : Nat := 4096 + (m.ranges.map (·.len)).sum

/-- Two ranges share a byte. -/
def overlaps : List CkptRange → Bool
  | [] => false
  | r :: l => (l.any fun q => r.addr < q.addr + q.len && q.addr < r.addr + r.len) || overlaps l

/-- The manifest breaks R560 or R561 for a partition. -/
def State.badManifest (s : State) (p : Nat) (m : Manifest) : Bool :=
  m.job ≠ (s.partition p).job || m.count = 0 || m.count > 126 || m.gen = 0 || !m.clean || overlaps m.ranges ||
  m.ranges.any fun r => r.addr % 64 ≠ 0 || r.len % 64 ≠ 0 || r.len < 64 || !s.owns p r.addr r.len

/-- The bytes of a manifest PBLOCK: the header tells how many. -/
def State.readManifest (s : State) (t : Taken) (host : Option Bytes) : Except Status Bytes × State :=
  match s.readPblock t host (t.long 32) 64 with
  | (.error st, s) => (.error st, s)
  | (.ok b, s) =>
    let n := field b 4 4
    if n = 0 ∨ n > 126 then (.error .invalidArgument, s)
    else s.readPblock t host (t.long 32) (64 + 32 * n)

/-- The newest generation that a tier holds for a job. -/
def State.newestGen (s : State) (tier : Nat) (job : BitVec 32) : Nat := match tier with
  | 0 => ((s.dewOf job).map fun e => e.2.gen).getD 0
  | 1 => s.ckpt.frostNewest job
  | _ => Tab.get 0 s.ckpt.snowGen job.toNat

/-- The tier is set up for a job; Snowpack needs nothing. -/
def State.tierReady (s : State) (tier : Nat) (job : BitVec 32) : Bool := match tier with
  | 0 => (s.dewOf job).isSome
  | 1 => (Tab.get? s.ckpt.frostKeep job.toNat).isSome
  | _ => true

/-- An image does not fit in a tier. -/
def State.tierFull (s : State) (tier : Nat) (job : BitVec 32) (n : Nat) : Bool := match tier with
  | 0 => ((s.dewOf job).map fun e => e.2.imageMax).getD 0 < n
  | 1 => Config.frostSpace < n
  | _ => false

/-- The checks of R561 on a manifest, in the order of R546; a write also checks GEN. -/
def State.ckptCheck (s : State) (t : Taken) (m : Manifest) (write : Bool) : Option Status :=
  let p := t.byte 24
  let tier := t.byte 25
  if p > 31 ∨ tier > 2 ∨ (tier < 2 ∧ t.long 40 ≠ 0) ∨ t.long 40 + m.imageBytes > 2 ^ 48 ∨ s.badManifest p m ∨
      (write ∧ m.gen ≤ s.newestGen tier m.job) then some .invalidArgument
  else if !s.tierReady tier m.job ∨ (s.partition p).state ≠ .active then some .stateConflict
  else if s.tierFull tier m.job m.imageBytes then some .noResource
  else none

/-! ## Faults of checkpoints (17 R563, R568, R573) -/

/-- A fault record of the checkpoint service; a stored STEP that is not known is a free value (log entry 2). -/
def State.ckptRecord (s : State) (code : Nat) (t : Taken) (m : Manifest) (stored : Option Nat) (reason : Nat) : FaultRec :=
  { s.recordOpen code ckptUnit (BitVec.ofNat 64 (t.long 32)) with
    d0 := BitVec.ofNat 64 m.gen
    d1 := (stored.map (BitVec.ofNat 64)).getD (Config.freeWord (s.free + 1))
    d2 := BitVec.ofNat 64 m.step
    d3 := BitVec.ofNat 64 reason }

/-- A checkpoint command ends in a fault of its partition: it completes FAULTED. -/
def State.ckptFault (s : State) (t : Taken) (r : FaultRec) : Option Answer × State :=
  (some ⟨.faulted, none, none⟩, s.raise (t.byte 24) r)

/-! ## Writing (17 R561 to R563, R567, R570, R571) -/

/-- The bytes of the ranges in entry order, as the partition's memory holds them; the first memory error. -/
def State.readRanges (s : State) (p : Nat) : List CkptRange → Except MemErr Bytes × State
  | [] => (.ok [], s)
  | r :: l => match s.peek p r.addr r.len with
    | (.error e, s) => (.error e, s)
    | (.ok b, s) => match s.readRanges p l with
      | (.error e, s) => (.error e, s)
      | (.ok rest, s) => (.ok (b ++ rest), s)

/-- The completed manifest in its 4,096 bytes (17 R560). A partition with no seed has the digest 0 (log entry 58). -/
def State.completeManifest (s : State) (p : Nat) (b : Bytes) (m : Manifest) (digest : Word) : Bytes :=
  padTo 4096 (b.take 24 ++ leBytes 8 (((s.partition p).seedDigest).getD 0).toNat ++ leBytes 2 s.self.toNat ++ zeros 6 ++
    leBytes 8 m.imageBytes ++ leBytes 8 digest.toNat ++ (padTo (64 + 32 * m.count) b).drop 56)

/-- USED of an image (17 R567). -/
def shardUsed (n : Nat) : Nat := cdiv n (14 * 4096) * 4096

/-- The data shards of an image: USED bytes each (17 R565; log entry 59). -/
def dataShards (image : Bytes) : List Bytes :=
  let u := shardUsed image.length
  (List.range 14).map fun j => padTo u ((image.drop (j * u)).take u)

/-- Sum of byte strings in GF(2^8), and the product by a constant (17 R565). -/
def xorBytes (a b : Bytes) : Bytes := a.zipWith (· ^^^ ·) b
def scaleBytes (c : Nat) (a : Bytes) : Bytes := a.map fun x => BitVec.ofNat 8 (gfMul rsPoly c x.toNat)

/-- g^j with g = 0x02. -/
def gPow (j : Nat) : Nat := gfPow rsPoly 2 j

/-- The parity shards p and q, from data shards with their numbers. -/
def parityP (u : Nat) (l : List (Nat × Bytes)) : Bytes := l.foldl (fun a e => xorBytes a e.2) (zeros u)
def parityQ (u : Nat) (l : List (Nat × Bytes)) : Bytes :=
  l.foldl (fun a e => xorBytes a (scaleBytes (gPow e.1) e.2)) (zeros u)

/-- The 16 shards of an image (17 R565). -/
def allShards (image : Bytes) : List Bytes :=
  let d := dataShards image
  let l := (List.range 14).zip d
  d ++ [parityP (shardUsed image.length) l, parityQ (shardUsed image.length) l]

/-- A shard header (17 R567). -/
def shardHeader (job : BitVec 32) (gen step : Nat) (src : PkgId) (k n : Nat) (shard : Bytes) (valid : Bool) : Bytes :=
  leBytes 4 job.toNat ++ zeros 4 ++ leBytes 8 gen ++ leBytes 8 step ++ leBytes 2 src.toNat ++ leBytes 1 k ++ zeros 5 ++
  leBytes 8 shard.length ++ leBytes 8 n ++ leBytes 8 (crc64 shard).toNat ++ zeros 7 ++ leBytes 1 valid.toNat

/-- The address of shard slot (h, s) of a store (17 R566). -/
def DewStore.slot (d : DewStore) (h src : Nat) : Nat := d.base + (16 * h + src) * (4096 + d.shard)

/-- The package of the tray that keeps shard k of this package's images (17 R566). -/
def State.shardHome (s : State) (k : Nat) : PkgId :=
  BitVec.ofNat 15 (s.self.toNat / 16 * 16 + (pkgSlot s.self + k) % 16)

/-- A WRITE of the checkpoint service. -/
def State.ckptWriteTo (s : State) (p : Nat) (dst : PkgId) (addr : Nat) (data : Bytes) : State :=
  s.newXact { op := 2, dst := dst, src := 0, srcUnit := BitVec.ofNat 16 ckptUnit, reqId := 0, job := 0,
              length := BitVec.ofNat 10 data.length, addr := BitVec.ofNat 48 addr } data (.ckpt p) p

/-- WRITEs of up to 512 bytes that carry a byte string. -/
def State.ckptSend (s : State) (p : Nat) (dst : PkgId) (addr : Nat) (data : Bytes) : State :=
  (List.range (cdiv data.length 512)).foldl (fun s i =>
    s.ckptWriteTo p dst (addr + 512 * i) ((data.drop (512 * i)).take 512)) s

/-- Shard k of an image goes to its package: VALID is cleared, the data written, the header written (17 R567). Shard 0
stays on this package. -/
def State.sendShard (s : State) (p : Nat) (d : DewStore) (m : Manifest) (n k : Nat) (shard : Bytes) : State :=
  let a := d.slot (m.gen % 2) (pkgSlot s.self)
  let head := shardHeader m.job m.gen m.step s.self k n shard
  if k = 0 then
    ((s.poke p a (head false)).poke p (a + 4096) shard).poke p a (head true)
  else
    let dst := s.shardHome k
    ((s.ckptWriteTo p dst a (head false)).ckptSend p dst (a + 4096) shard).ckptWriteTo p dst a (head true)

/-- The packets of a checkpoint that have not been acknowledged. -/
def State.ckptLeft (s : State) (p : Nat) : Nat := s.fabric.xacts.countP fun x => x.owner = .ckpt p

/-- An image is on its way to its tier. -/
def State.sendImage (s : State) (t : Taken) (m : Manifest) (image : Bytes) : State :=
  let p := t.byte 24
  let s : State := match t.byte 25, s.dewOf m.job with
    | 0, some (_, d) =>
      ((List.range 16).zip (allShards image)).foldl (fun (s : State) e => s.sendShard p d m image.length e.1 e.2) s
    | 2, _ => s.ckptSend p s.self (t.long 40) image
    | _, _ => s
  let left := s.ckptLeft p
  { s with ckpt := { s.ckpt with running := s.ckpt.running.map fun e => if e.1 = p then (e.1, { e.2 with left := left }) else e } }

/-- CKPT_WRITE: the checks, and the image as the ranges hold it at the issue (log entry 60). -/
def State.ckptWrite (s : State) (t : Taken) (host : Option Bytes) : Option Answer × State :=
  match s.readManifest t host with
  | (.error st, s) => (some ⟨st, none, none⟩, s)
  | (.ok b, s) =>
    let m := manifestOf b
    let p := t.byte 24
    match s.ckptCheck t m true with
    | some st => (some ⟨st, none, none⟩, s)
    | none => match s.readRanges p m.ranges with
      | (.error e, s) =>
        s.ckptFault t (s.memRecord e ckptUnit (s.global e.at_) (Config.freeNat (s.free + 4)))
      | (.ok data, s) =>
        let digest := crc64 data
        let head := s.completeManifest p b m digest
        let run : CkptRun := ⟨t, false, t.byte 25, m.job, m.gen, head ++ data, digest, 0, false, b, 0, []⟩
        (none, { s with ckpt := { s.ckpt with running := Tab.put s.ckpt.running p run } }.sendImage t m (head ++ data))

/-- The row CKPT_WRITE (17 R561). -/
def execCkptWrite (pblock : Option Bytes) (s : State) : Host.Outcome State Fault Refusal :=
  .next (s.commandThen 0x65 ⟨.owner 24, [.service], [(24, 25), (32, 47)], some 24⟩
    (fun s t => s.ckptWrite t pblock) fun s _ => s)

/-- A generation is complete on its tier. -/
def State.keepGen (s : State) (r : CkptRun) : State := match r.tier with
  | 0 => (match s.dewOf r.job with
    | some (n, d) =>
      { s with ckpt := { s.ckpt with dew := Tab.put s.ckpt.dew n { d with gen := r.gen, margin := 2 } } }
    | none => s)
  | 1 =>
    let c := { s.ckpt with frost := (r.job, r.gen, r.image) :: s.ckpt.frost }
    { s with ckpt := c.frostTrim r.job (Tab.get 16 c.frostKeep r.job.toNat) }.emit (.frost r.job r.gen)
  | _ => { s with ckpt := { s.ckpt with snowGen := Tab.put s.ckpt.snowGen r.job.toNat r.gen } }

/-- The checkpoint command of a partition is no longer running. -/
def State.endRun (s : State) (p : Nat) : State := { s with ckpt := { s.ckpt with running := Tab.del s.ckpt.running p } }

/-- The end of a checkpoint write: every packet acknowledged, or the flush of the SSD, which `mediaOk` says whether it
succeeded. -/
def State.ckptWriteEnd (s : State) (p : Nat) (mediaOk : Bool) : State :=
  match Tab.get? s.ckpt.running p with
  | none => s
  | some r =>
    if r.restore ∨ !s.fw.up then s
    else if r.failed then (s.endRun p).finishCommand r.cmd ⟨.faulted, none, none⟩
    else if r.left ≠ 0 then s
    else if r.tier = 1 ∧ !mediaOk then
      let s := s.endRun p
      (s.raise p (s.ckptRecord 0x0A04 r.cmd (manifestOf r.manifest) none 7)).finishCommand r.cmd ⟨.faulted, none, none⟩
    else ((s.keepGen r).endRun p).finishCommand r.cmd
      ⟨.ok, some (BitVec.ofNat 64 r.image.length), some r.digest⟩

/-- The row CKPT_WRITE_COMPLETE (17 R567, R570, R571). -/
def execCkptWriteComplete (p : PartId) (mediaOk : Bool) (s : State) : Host.Outcome State Fault Refusal :=
  .next (s.ckptWriteEnd p.val mediaOk)

/-! ## Restoring (17 R568, R573) -/

/-- What a stored shard holds: its data, when its header and its CRC make it available (17 R568). -/
def shardData (job : BitVec 32) (gen : Nat) (src : PkgId) (k : Nat) (b : Bytes) : Option Bytes :=
  let u := field b 32 8
  let d := (b.drop 64).take u
  if bit (field b 63 1) 0 ∧ field b 0 4 = job.toNat ∧ field b 8 8 = gen ∧ field b 24 2 = src.toNat ∧ field b 26 1 = k ∧
      d.length = u ∧ field b 48 8 = (crc64 d).toNat then some d
  else none

/-- The data shards from the first 14 of those available, in the order of R565; `none` with fewer. -/
def rebuild (l : List (Nat × Bytes)) : Option (List Bytes) :=
  if l.length < 14 then none
  else
    let u := ((l.head?).map fun e => e.2.length).getD 0
    let data := l.filter fun e => e.1 < 14
    let p := xorBytes (parityP u data) ((Tab.get? l 14).getD (zeros u))
    let q := xorBytes (parityQ u data) ((Tab.get? l 15).getD (zeros u))
    let put (k : Nat) (b : Bytes) (t : List (Nat × Bytes)) : List (Nat × Bytes) := Tab.put t k b
    let full := match (List.range 14).filter fun j => (Tab.get? l j).isNone with
      | [] => data
      | [a] => if (Tab.get? l 14).isSome then put a p data else put a (scaleBytes (gfInv rsPoly (gPow a)) q) data
      | a :: b :: _ =>
        let db := scaleBytes (gfInv rsPoly (gPow a ^^^ gPow b)) (xorBytes q (scaleBytes (gPow a) p))
        put a (xorBytes p db) (put b db data)
    some (full.map (·.2))

/-- The stored bytes of shard 0, which this package keeps. -/
def State.localShard (s : State) (p : Nat) (d : DewStore) (gen : Nat) : Option Bytes × State :=
  let a := d.slot (gen % 2) (pkgSlot s.self)
  match s.peek p a 64 with
  | (.error _, s) => (none, s)
  | (.ok h, s) =>
    if field h 32 8 > d.shard then (none, s)
    else match s.peek p (a + 4096) (field h 32 8) with
      | (.error _, s) => (none, s)
      | (.ok b, s) => (some (h ++ b), s)

/-- The shards of a generation that are available: shard 0 from memory, the others as their packages answered. -/
def State.shardsOf (s : State) (p : Nat) (d : DewStore) (m : Manifest) (stored : List (Nat × Option Bytes)) :
    List (Nat × Bytes) × List Bytes × State :=
  let (own, s) := s.localShard p d m.gen
  let raw := (List.range 16).filterMap fun k =>
    (if k = 0 then own else ((stored.find? fun e => e.1 = k).bind (·.2))).map fun b => (k, b)
  (raw.filterMap fun e => (shardData m.job m.gen s.self e.1 e.2).map fun b => (e.1, b), raw.map (·.2), s)

/-- A stored image as a restore finds it: the image and the shards rebuilt, or the fault code, the stored STEP if known
and the reason. -/
def State.storedImage (s : State) (t : Taken) (m : Manifest) (stored : List (Nat × Option Bytes)) :
    Except (Nat × Option Nat × Nat) (Bytes × Nat × Nat) × State :=
  match t.byte 25 with
  | 0 => (match s.dewOf m.job with
    | none => (.error (0x0A05, none, 6), s)
    | some (_, d) =>
      let (l, raw, s) := s.shardsOf (t.byte 24) d m stored
      let head := raw.find? fun b => (List.range 16).any fun k => (shardData m.job m.gen s.self k b).isSome
      match rebuild l with
      | none => (.error (0x0A05, head.map fun b => field b 16 8, 6 + l.length * 256), s)
      | some data =>
        let n := (head.map fun b => field b 40 8).getD 0
        (.ok (data.flatten.take n, (l.countP fun e => e.1 < 14), l.length), s))
  | 1 =>
    if stored.contains (0, none) then (.error (0x0A04, none, 7), s)
    else (match s.ckpt.frost.find? fun e => e.1 = m.job && e.2.1 = m.gen with
      | none => (.error (0x0A01, none, 1), s)
      | some e => (.ok (e.2.2, 14, 16), s))
  | _ => (match (stored.find? fun e => e.1 = 0).bind (·.2) with
    | none => (.error (0x0A04, none, 7), s)
    | some b => (.ok (b, 14, 16), s))

/-- Why a stored manifest does not suit the given one, if it does not. -/
def State.mismatch (s : State) (p : Nat) (given stored : Manifest) : Option Nat :=
  if stored.job ≠ given.job ∨ stored.gen ≠ given.gen then some 1
  else if stored.step ≠ given.step ∨ stored.ranges.any (fun r => r.step ≠ given.step) then some 2
  else if stored.seed ≠ (((s.partition p).seedDigest).getD 0).toNat then some 3
  else if stored.count ≠ given.count ∨ stored.ranges.map (·.len) ≠ given.ranges.map (·.len) then some 4
  else none

/-- The partition has armed work (17 R573). -/
def State.armedWork (s : State) (p : Nat) : Bool :=
  s.kernelBusy p || ((s.partition p).ring.items.any fun i => i.armed && !i.complete) ||
  (s.colls.any fun c => c.part = p && !c.complete) || (s.steps.any fun e => e.2.part = p && !e.2.complete) ||
  s.forecasts.any fun e => e.2.part = p

/-- The margin of a store after a restore of its newest generation has counted the available shards (17 R569; log entry
61). -/
def State.noteMargin (s : State) (m : Manifest) (available : Nat) : State := match s.dewOf m.job with
  | some (n, d) =>
    if d.gen = m.gen then
      { s with ckpt := { s.ckpt with dew := Tab.put s.ckpt.dew n { d with margin := BitVec.ofNat 2 (available - 14) } } }
    else s
  | none => s

/-- The READs of the shard headers that other packages keep (17 R568). -/
def State.readShards (s : State) (p : Nat) (d : DewStore) (gen : Nat) : State :=
  (List.range 15).foldl (fun s i =>
    s.newXact { op := 1, dst := s.shardHome (i + 1), src := 0, srcUnit := BitVec.ofNat 16 ckptUnit, reqId := 0, job := 0,
                length := 64, addr := BitVec.ofNat 48 (d.slot (gen % 2) (pkgSlot s.self)) } [] (.shard p (i + 1) 0) p) s

/-- READs of shards that are still out. -/
def State.shardsOut (s : State) (p : Nat) : Nat := s.fabric.xacts.countP fun x => match x.owner with
  | .shard q _ _ => q = p
  | _ => false

/-- The shards of other packages as their replies have brought them: header and data, in order of offset. -/
def CkptRun.shards (r : CkptRun) : List (Nat × Option Bytes) :=
  (List.range 15).map fun i =>
    let l := (r.replies.filter fun e => e.1 = i + 1).mergeSort fun a b => a.2.1 ≤ b.2.1
    (i + 1, if l.isEmpty then none else some (l.flatMap (·.2.2)))

/-- CKPT_RESTORE: the checks, and the stored generation; of Dew, the READs that fetch it. -/
def State.ckptRestore (s : State) (t : Taken) (host : Option Bytes) (stored : List (Nat × Option Bytes)) :
    Option Answer × State :=
  match s.readManifest t host with
  | (.error st, s) => (some ⟨st, none, none⟩, s)
  | (.ok b, s) =>
    let m := manifestOf b
    let p := t.byte 24
    match s.ckptCheck t m false with
    | some st => (some ⟨st, none, none⟩, s)
    | none =>
      if s.armedWork p then (some ⟨.stateConflict, none, none⟩, s)
      else match (if t.byte 25 = 0 then s.dewOf m.job else none) with
      | some (_, d) =>
        let run : CkptRun := ⟨t, true, 0, m.job, m.gen, [], 0, 0, false, b, 0, []⟩
        (none, { s with ckpt := { s.ckpt with running := Tab.put s.ckpt.running p run } }.readShards p d m.gen)
      | none =>
      match s.storedImage t m stored with
        | (.error (code, step, reason), s) => s.ckptFault t (s.ckptRecord code t m step reason)
        | (.ok (image, kept, _), s) =>
          let x := manifestOf image
          match s.mismatch p m x with
          | some reason => s.ckptFault t (s.ckptRecord 0x0A01 t m (some x.step) reason)
          | none =>
            let rebuilt := BitVec.ofNat 64 (14 - kept)
            let run : CkptRun := ⟨t, true, t.byte 25, m.job, m.gen, image, BitVec.ofNat 64 x.digest, 0, false, b, rebuilt, []⟩
            (none, { s with ckpt := { s.ckpt with running := Tab.put s.ckpt.running p run } })

/-- The row CKPT_RESTORE (17 R573). -/
def execCkptRestore (pblock : Option Bytes) (stored : List (Nat × Option Bytes)) (s : State) :
    Host.Outcome State Fault Refusal :=
  .next (s.commandThen 0x66 ⟨.owner 24, [.service], [(24, 25), (32, 47)], some 24⟩
    (fun s t => s.ckptRestore t pblock stored) fun s _ => s)

/-- Stored ranges are written to the given addresses. -/
def State.writeRanges (s : State) (p : Nat) (data : Bytes) : List CkptRange → State
  | [] => s
  | r :: l => (s.poke p r.addr (data.take r.len)).writeRanges p (data.drop r.len) l

/-- A restore ends in a fault of its partition. -/
def State.restoreFault (s : State) (p : Nat) (r : CkptRun) (f : FaultRec) : State :=
  (s.raise p f).finishCommand r.cmd ⟨.faulted, none, none⟩

/-- The image of a restore is written. After which range a mismatch of the digest is found is not given (log entry 2). -/
def State.writeImage (s : State) (p : Nat) (r : CkptRun) : State :=
  let m := manifestOf r.manifest
  let data := r.image.drop 4096
  if crc64 data = r.digest then (s.writeRanges p data m.ranges).finishCommand r.cmd ⟨.ok, some r.result, none⟩
  else
    let (n, s) := s.draw
    let s := s.writeRanges p data (m.ranges.take (n % (m.ranges.length + 1)))
    s.restoreFault p r (s.ckptRecord 0x0A04 r.cmd m (some (manifestOf r.image).step) 5)

/-- The shards of a Dew restore are all read: the image is rebuilt, compared and written (17 R568, R569, R573). -/
def State.restoreDew (s : State) (p : Nat) (r : CkptRun) : State :=
  let m := manifestOf r.manifest
  match s.storedImage r.cmd m r.shards with
  | (.error (code, step, reason), s) => (s.noteMargin m (reason / 256)).restoreFault p r (s.ckptRecord code r.cmd m step reason)
  | (.ok (image, kept, available), s) =>
    let s := s.noteMargin m available
    let x := manifestOf image
    match s.mismatch p m x with
    | some reason => s.restoreFault p r (s.ckptRecord 0x0A01 r.cmd m (some x.step) reason)
    | none => s.writeImage p { r with image := image, digest := BitVec.ofNat 64 x.digest, result := BitVec.ofNat 64 (14 - kept) }

/-- The end of a restore. -/
def State.ckptRestoreEnd (s : State) (p : Nat) : State :=
  match Tab.get? s.ckpt.running p with
  | none => s
  | some r =>
    if !r.restore ∨ !s.fw.up ∨ (!r.failed ∧ s.shardsOut p ≠ 0) then s
    else if r.failed then (s.endRun p).finishCommand r.cmd ⟨.faulted, none, none⟩
    else if r.tier = 0 then (s.endRun p).restoreDew p r
    else (s.endRun p).writeImage p r

/-- The row CKPT_RESTORE_COMPLETE (17 R573). -/
def execCkptRestoreComplete (p : PartId) (s : State) : Host.Outcome State Fault Refusal := .next (s.ckptRestoreEnd p.val)

/-! ## The Barometer (17 R552 to R558) -/

/-- A score: x = num / den against LOW and HIGH (17 R553). -/
def score (num den low high : Nat) : Nat :=
  if num ≤ low * den then 0
  else if high * den ≤ num then 255
  else 255 * (num - low * den) / ((high - low) * den)

/-- The newest sample that is at least 1,000,000,000 ticks old; before there is one, the counts since the start (log entry
67). -/
def Baro.windowBase (b : Baro) (now : Nat) : BaroSample :=
  (b.samples.find? fun x => x.at_ + 1000000000 ≤ (now : Int)).getD ⟨0, 0, 0, [], [], 0, 0, true⟩

/-- The ticks over which the counts since the base are taken: 1,000,000,000, or more after a gap in the updates, where a rate
is then the mean since the base (17 R552, log entry 67). -/
def Baro.windowTicks (b : Baro) (now : Nat) : Nat := max 1000000000 (now - (b.windowBase now).at_).toNat

/-- The samples of the window. -/
def Baro.recent (b : Baro) (now : Nat) : List BaroSample := b.samples.filter fun x => (now : Int) < x.at_ + 1000000000

/-- The scores, in the order of R556; the thermal margin of the stacks is one of the inputs (10 R353). -/
def State.baroScores (s : State) : List Nat :=
  let b := s.baro
  let base := b.windowBase s.now
  let rate (count low high : Nat) := score (1000000000 * count) (b.windowTicks s.now) low high
  let ecc := b.eccTotal - base.ecc + 16 * (b.poisonTotal - base.poisoned)
  let repair := ((List.range 24).map fun i =>
    let x := s.stack i
    score (100 * (x.sparesAtStart.toNat - x.sparesLeft.toNat)) x.sparesAtStart.toNat 25 90).foldl max 0
  let link := (((List.range 56).filter fun n => s.portExpected n).map fun n =>
    Tab.get 0 b.linkTotal n - Tab.get 0 base.link n + 10000 * (Tab.get 0 b.retrainTotal n - Tab.get 0 base.retrains n)).foldl max 0
  let hot := ((s.power.temps.map fun e => e.2.toNat) ++ ((List.range 24).map fun i => (s.stack i).temp.toNat)).foldl max 0
  let season :=
    if !s.locked || (b.recent s.now).any (fun x => !x.locked) then 255
    else score ((b.recent s.now).foldl (fun m x => max m x.seasonMax) b.seasonMax) 16 2 8
  [rate ecc 1000 50000, repair, rate link 10 10000, rate (b.droopTotal - base.droop) 1 100,
   score (hot - 300) 4 0 25, season]

/-- B from the scores. -/
def baroValue (l : List Nat) : Nat :=
  let m := l.foldl max 0
  min 255 (m + (l.sum - m) / 4)

/-- RESULT0 of a SECURE notice (17 R556). -/
def secureWord (b threshold : Nat) (scores : List Nat) : Word :=
  BitVec.ofNat 64 (b + threshold * 256 + (scores.mapIdx fun i x => x * 2 ^ (16 + 8 * i)).sum)

/-- A partition's SECURE notice, when B reaches its threshold while it is armed; and its arming again (17 R555). -/
def State.secureCheck (s : State) (b : Nat) (scores : List Nat) (p : Nat) : State :=
  let x := s.partition p
  let th := x.secureThreshold.toNat
  if x.state = .absent then s
  else if x.secureArmed ∧ th ≠ 0 ∧ th ≤ b then
    let r0 := secureWord b th scores
    let s := s.updPartition p fun x => { x with secureArmed := false }
    let s := (s.boundChannels p).foldl (fun s n => s.notify n ⟨3, r0, s.season.k0, []⟩) s
    s.noticeArea p 3 r0 s.season.k0
  else if b + 32 < th ∨ b = 0 then s.updPartition p fun x => { x with secureArmed := true }
  else s

/-- The K0 count of the last update. -/
def Baro.lastUpdate (b : Baro) : Int := ((b.samples.head?).map (·.at_)).getD 0

/-- BAROMETER_UPDATE: the K0 copy has come to a further multiple of 10,000,000 ticks since the last update. -/
def State.baroUpdate (s : State) : State :=
  if !s.fw.up ∨ !s.season.running ∨ (s.now : Int) / 10000000 ≤ s.baro.lastUpdate / 10000000 then s
  else
    let scores := s.baroScores
    let b := baroValue scores
    let x := s.baro
    let sample : BaroSample :=
      ⟨s.now, x.eccTotal, x.poisonTotal, x.linkTotal, x.retrainTotal, x.droopTotal, x.seasonMax, s.locked⟩
    let kept := x.recent s.now ++ (x.samples.find? fun y => y.at_ + 1000000000 ≤ (s.now : Int)).toList
    let s := { s with baro := { x with
      value := BitVec.ofNat 8 b, scores := scores.map (BitVec.ofNat 8), peak := BitVec.ofNat 8 (max x.peak.toNat b)
      samples := sample :: kept, seasonMax := s.season.offset.toInt.natAbs } }
    (s.partitions.map (·.1)).foldl (fun s p => s.secureCheck b scores p) s

/-- The row BAROMETER_UPDATE (17 R553). -/
def execBarometerUpdate (s : State) : Host.Outcome State Fault Refusal := .next s.baroUpdate

end Sys2Proof.Machine
end

