-- ==== Sys2Proof/Machine/Launches.lean ====
section
/-! DEFINITION. Launches, EQUINOX and DEADLINE at every unit that compares them with a Season copy (02 R59 to R70, 03
R123, 15 R509). -/

namespace Sys2Proof.Machine

open Sys2Proof

/-! ## Kernels -/

/-- What a core holds when a kernel starts (03 R123, 04 R133). -/
def Core.start (k : Core) (l : Launch) (late : Option Nat) : Core :=
  { k with
    s := ((Vector.replicate 32 0).set 1 l.args |>.set 2 (BitVec.ofNat 64 l.rank) |>.set 3 (BitVec.ofNat 64 l.size))
    v := Vector.replicate 32 0, p := 0, vm := Vector.replicate 8 0, pc := l.entry, fpflags := 0
    rank := BitVec.ofNat 16 l.rank, size := BitVec.ofNat 16 l.size
    phase := .running, cur := some l, late := late, mayVary := false, armed := none, stopRegs := [], semWait := none, tail := none
    icache := [], dcache := [], matrix := Matrix.zero }

/-- The armed kernel of a core starts when the core's copy has reached EQUINOX (02 R61, R62). -/
def State.launchStart (s : State) (c : Nat) : State :=
  let k := s.core c
  match k.armed with
  | none => s
  | some (l, late) =>
    if k.phase ≠ .idle ∨ k.preempt ≠ .live ∨ s.copyAt (coreIsland c) < l.equinox then s
    else (s.updItem l.part l.pos fun i => { i with started := true }).updCore c fun k => k.start l late

/-- The row LAUNCH_ARM (02 R61). -/
def execLaunchArm (c : CoreId) (s : State) : Host.Outcome State Fault Refusal := .next (s.armLaunch c.val)

/-- The row LAUNCH_START (02 R61). -/
def execLaunchStart (c : CoreId) (s : State) : Host.Outcome State Fault Refusal := .next (s.launchStart c.val)

/-! ## EQUINOX of other work (02 R59) -/

/-- The item of work held elsewhere has started. -/
def State.markStarted (s : State) (p pos : Nat) : State := s.updItem p pos fun i => { i with started := true }

/-- EQUINOX_REACHED: kernels start by LAUNCH_START alone. Nothing is compared while the clocks stand still (19 R605). -/
def State.equinoxReached (s : State) (w : WorkRef) : State :=
  if !s.moves then s else match w with
  | .kernel _ => s
  | .savedKernel _ _ => s
  | .step sl => match s.step? sl.val with
    | some st => if s.xCopies.any (st.equinox ≤ ·) then s.markStarted st.part st.pos else s
    | none => s
  | .forecast f => match s.fc? f.val with
    | some q => if s.xCopies.any (q.equinox ≤ ·) then s.markStarted q.part q.pos else s
    | none => s
  | .coll g e => s.startColl g e
  | .entry p pos => s.startDue p.val pos

/-- The row EQUINOX_REACHED (02 R59). -/
def execEquinoxReached (w : WorkRef) (s : State) : Host.Outcome State Fault Refusal := .next (s.equinoxReached w)

/-! ## Deadlines (02 R68, 15 R509) -/

/-- The running and the armed launch of a core; in a saved context, the pending one too. -/
def Core.work (k : Core) (saved : Bool) : List Launch :=
  k.cur.toList ++ (k.armed.map (·.1)).toList ++ (if saved then k.pendingLaunch.toList else [])

/-- A launch whose deadline has passed on a copy. -/
def missedLaunch (l : List Launch) (now : Nat) : Option Launch := l.find? fun x => now > x.deadline

/-- The core's word that issues at the same tick, if one waits to, raises a fault (03 R130). -/
def State.wordFault (s : State) (c : CoreId) (p : Nat) : Option State :=
  if s.pending.contains (.wideWordIssue c) then
    let t := s.wideWord c.val
    if (t.partition p).faults > (s.partition p).faults then some t else none
  else none

/-- A live core's comparison. A fault of the core at the same tick is posted in its place (03 R130). -/
def State.coreMissed (s : State) (c : CoreId) : State :=
  let now := s.copyAt (coreIsland c.val)
  match missedLaunch ((s.core c.val).work false) now with
  | some l =>
    (s.wordFault c l.part).getD (s.raise l.part (s.deadlineRecord (coreUnit c.val) now l.deadline l.equinox))
  | none => s

/-- The command processor's comparison for a saved core. -/
def State.savedMissed (s : State) (p c : Nat) : State :=
  match (s.savedCore p c).bind fun k => missedLaunch (k.work true) s.now with
  | some l => s.raise p (s.deadlineRecord cmdUnit s.now l.deadline l.equinox)
  | none => s

/-- The comparison for the entries that the command processor carries out itself, and for a RETURN at its dispatcher. -/
def State.entryMissed (s : State) (p pos : Nat) : State := match s.item? p pos with
  | none => s
  | some i =>
    let own : Bool := match i.type with
      | .kernel => !i.armed
      | .monsoon => false
      | .forecast => false
      | .collective => false
      | _ => true
    let unit := if i.type = .ret then xUnit i.die uDispatcher else cmdUnit
    if own ∧ !i.complete ∧ s.itemNow i > i.deadline then s.raise p (s.deadlineRecord unit (s.itemNow i) i.deadline i.equinox)
    else s

/-- DEADLINE_MISSED at the unit that holds the work, while its clock runs (19 R605). -/
def State.deadlineMissed (s : State) (w : WorkRef) : State :=
  if !s.moves then s else match w with
  | .kernel c => s.coreMissed c
  | .savedKernel p c => s.savedMissed p.val c.val
  | .step sl => s.stepMissed sl.val
  | .forecast f => s.fcMissed f.val
  | .coll g e => s.collMissed g e
  | .entry p pos => s.entryMissed p.val pos

/-- The row DEADLINE_MISSED (02 R68). -/
def execDeadlineMissed (w : WorkRef) (s : State) : Host.Outcome State Fault Refusal := .next (s.deadlineMissed w)

end Sys2Proof.Machine
end

