-- ==== Sys2Proof/Machine/PoolPorts.lean ====
section
/-! DEFINITION. The commands of the buffer pool manager (09): the port accesses of R309 and the moves of R319. -/

namespace Sys2Proof.Machine

open Sys2Proof

/-- A read of the allocation port of pool q; to any other agent the offset is unassigned and reads zero (00 R8). -/
def State.allocPort (s : State) (a : Agent) (q : Nat) : State :=
  match s.poolCaller a with
  | some p => let (v, s) := s.bpmAllocOp p q; s.emit (.answer a (some v))
  | none => s.emit (.answer a (some 0))

/-- A write of BPM_INCR or BPM_DECR. -/
def State.refPort (s : State) (a : Agent) (up : Bool) (g : Word) : State :=
  match s.poolCaller a with
  | some p => (s.bpmRefOp p up g).emit (.answer a (some 0))
  | none => s.emit (.answer a (some 0))

/-- A write of BPM_GRANT of pool q. -/
def State.grantPort (s : State) (a : Agent) (q : Nat) (v : Word) : State :=
  match s.poolCaller a with
  | some p => (s.bpmGrantOp p q v).emit (.answer a (some 0))
  | none => s.emit (.answer a (some 0))

/-- A pool's cache holds fewer than 128 indices and its ring is not empty. -/
def State.poolLow (s : State) (n : Nat) : Bool := match Tab.get? s.pools n with
  | some x => x.cache.length < 128 && x.ringLen ≠ 0 && s.moves
  | none => false

/-- A pool's cache holds more than 448 indices. -/
def State.poolFull (s : State) (n : Nat) : Bool := match Tab.get? s.pools n with
  | some x => x.cache.length > 448 && s.moves
  | none => false

/-- The row BPM_ALLOC (09 R310). -/
def execBpmAlloc (a : Agent) (q : Fin 8) (s : State) : Host.Outcome State Fault Refusal := .next (s.allocPort a q.val)

/-- The row BPM_INCR (09 R311). -/
def execBpmIncr (a : Agent) (addr : Word) (s : State) : Host.Outcome State Fault Refusal := .next (s.refPort a true addr)

/-- The row BPM_DECR (09 R312). -/
def execBpmDecr (a : Agent) (addr : Word) (s : State) : Host.Outcome State Fault Refusal := .next (s.refPort a false addr)

/-- The row BPM_GRANT (09 R313). -/
def execBpmGrant (a : Agent) (q : Fin 8) (mask : Word) (s : State) : Host.Outcome State Fault Refusal :=
  .next (s.grantPort a q.val mask)

/-- The row BPM_CACHE_REFILL (09 R319). -/
def execBpmCacheRefill (n : Fin 256) (s : State) : Host.Outcome State Fault Refusal :=
  .next (if s.poolLow n.val then s.poolRefill n.val else s)

/-- The row BPM_CACHE_WRITEBACK (09 R319). -/
def execBpmCacheWriteback (n : Fin 256) (s : State) : Host.Outcome State Fault Refusal :=
  .next (if s.poolFull n.val then s.poolWriteback n.val else s)

end Sys2Proof.Machine
end

