-- ==== Sys2Proof/Machine/Targets.lean ====
section
/-! DEFINITION. Requests from other packages at their target (12 R399, R401 to R415, R421, R422). -/

namespace Sys2Proof.Machine

open Sys2Proof

/-! ## Access -/

/-- The STATUS that refuses a read or write of a job before it reaches memory (12 R399, R404, R409): control space,
then unmapped, then ownership. -/
def State.accessRefused (s : State) (job : BitVec 32) (a n : Nat) : Option Nat :=
  match s.place a with
  | .ctrl _ => some 4
  | .unmapped => some 1
  | _ => if s.unmappedIn a n then some 1 else if s.jobOwns job a n then none else some 4

/-- An address of the dispatch, exchange or return port of a Monsoon block (06 R248, 07 R261). -/
def monPort (a : Nat) : Bool :=
  (List.range 4).any fun x => dispatchPort x ≤ a && a < monBase x + 0x28000

/-- A WRITE that a Monsoon unit originates (06, 12 R399). -/
def pktFromMonsoon (k : Pkt) : Bool := vcOf k.op.toNat k.srcUnit.toNat = 4

/-- The requester's read. -/
def State.serveRead (s : State) (k : Pkt) : State :=
  let a := k.addr.toNat
  match s.accessRefused k.job a k.length.toNat with
  | some st => s.reply k 0x80 st 0 []
  | none =>
    match s.readUpTo k.job a k.length.toNat with
    | (bs, none, s) => s.reply k 0x80 0 0 bs
    | (bs, some e, s) => s.reply k 0x80 e.status 0 (if e.status = 1 then [] else bs)

/-- The write of a request that names memory: the STATUS. -/
def State.landWrite (s : State) (k : Pkt) (data : Bytes) : Nat × State :=
  match s.accessRefused k.job k.addr.toNat k.length.toNat with
  | some st => (st, s)
  | none =>
    match s.writeMem k.job k.addr.toNat data with
    | (.ok _, s) => (0, s)
    | (.error e, s) => (e.status, s)

/-- The requester's write. -/
def State.serveWrite (s : State) (k : Pkt) (data : Bytes) : State :=
  let (st, s) := s.landWrite k data
  s.reply k 0x81 st 0 []

/-! ## The replay cache (12 R411, R412) -/

/-- The entry of a request: STATUS and ARG0. -/
def XDieState.replayed (d : XDieState) (src : PkgId) (id : BitVec 32) : Option (Byte × Word) :=
  (d.replay.find? fun e => e.1 = src ∧ e.2.1 = id).map fun e => (e.2.2.1, e.2.2.2.1)

/-- The cache can take an entry now: it has room, or its oldest entry is at least 200,000 ticks old. -/
def XDieState.replayRoom (d : XDieState) (now : Nat) : Bool :=
  d.replay.length < 16384 || match d.replay with
    | e :: _ => e.2.2.2.2 + 200000 ≤ now
    | [] => true

/-- An entry is created; the oldest goes when the cache is full, and the horizon follows it. -/
def XDieState.putReplay (d : XDieState) (src : PkgId) (id : BitVec 32) (status : Byte) (v : Word) (now : Nat) : XDieState :=
  let d := if d.replay.length < 16384 then d else match d.replay with
    | e :: rest => { d with replay := rest, horizon := max d.horizon e.2.2.2.2 }
    | [] => d
  { d with replay := d.replay ++ [(src, id, status, v, now)] }

/-- The engine of a target address on this package. -/
def pktEngine (k : Pkt) : Nat := engineOf k.addr.toNat

/-- A retry without an entry may be applied (12 R412). -/
def State.mayApply (s : State) (k : Pkt) : Bool :=
  k.retry = 0 || (k.locked && s.locked && (s.xdie (pktEngine k)).horizon + 1000 < k.origTime.toNat)

/-- Exactly once: `apply` gives the STATUS, the value of ARG0 and whether the request was applied. Only an applied
request gets an entry (12 R411). -/
def State.once (s : State) (k : Pkt) (op : Byte) (apply : State → Nat × Word × State) : State :=
  let d := s.xdie (pktEngine k)
  match d.replayed k.src k.reqId with
  | some (st, v) => s.reply k op st.toNat v []
  | none =>
    if !s.mayApply k then s.reply k op 5 0 []
    else if !d.replayRoom s.now then s.reply k op 6 0 []
    else
      match apply s with
      | (0, v, s) =>
        (s.updXdie (pktEngine k) fun d => d.putReplay k.src k.reqId 0 v s.now).reply k op 0 v []
      | (st, v, s) => s.reply k op st v []

/-- Device control space, which a request from another package does not reach (12 R399). -/
def State.ctrlAt (s : State) (a : Nat) : Bool := match s.place a with
  | .ctrl _ => true
  | _ => false

/-- An atomic at its target. -/
def State.serveAtomic (s : State) (k : Pkt) : State :=
  s.once k 0x82 fun s =>
    if s.ctrlAt k.addr.toNat then (4, 0, s)
    else match s.atomicAt k.job (k.op.toNat - 0x10) (8 * k.length.toNat) k.addr.toNat k.arg0 k.arg1 with
    | (.ok v, s) => (0, v, s)
    | (.error r, s) => (r.status, 0, s)

/-- A REDUCE_INTO at its target; a code that is not listed is denied (log entry 28). -/
def State.serveReduce (s : State) (k : Pkt) (data : Bytes) : State :=
  let op := k.arg0.toNat % 16
  let fmt := k.arg0.toNat / 16 % 16
  s.once k 0x81 fun s =>
    if !reduceListed op fmt ∨ s.ctrlAt k.addr.toNat then (4, 0, s)
    else match s.reduceAt k.job op fmt k.addr.toNat data with
      | (.ok _, s) => (0, 0, s)
      | (.error r, s) => (r.status, 0, s)

/-! ## Multicast (12 R421, R422) -/

/-- A copy that came over a lattice link is forwarded; one that came over a T-hop is not. -/
def State.mcastTargets (s : State) (k : Pkt) : List (PkgId × Nat) :=
  if pkgTray k.src = pkgTray s.self then []
  else match Tab.get? s.groups k.group.toNat with
    | none => []
    | some g => g.mcastTo s.self (g.trayOf k.src)

/-- The subtree of a copy that has an entry is complete. -/
def State.mcastDone (s : State) (k : Pkt) : Bool :=
  !(s.fabric.mcastIn.any fun m => m.k.src = k.src && m.k.reqId = k.reqId)

/-- The partition of this package that a forwarded copy acts for (12 R422); 32, which is none, where the job has no
partition here. -/
def State.jobPart (s : State) (job : BitVec 32) : Nat := (s.partsOfJob job).headD 32

/-- The copies that a member forwards. -/
def State.forwardCopies (s : State) (k : Pkt) (data : Bytes) : State :=
  (s.mcastTargets k).foldl (fun s t =>
    (s.newXact { k with op := 3, dst := t.1, height := BitVec.ofNat 4 t.2, retry := 0, combined := false } data
      (.mcast k.src k.reqId) (s.jobPart k.job)).updXact s.fabric.nextReq fun x => { x with k := { x.k with job := k.job } }) s

/-- WRITE_MCAST. A member whose own write is refused answers that STATUS at once, and forwards the copy all the same (log
entry 135). -/
def State.serveMcast (s : State) (k : Pkt) (data : Bytes) : State :=
  let d := s.xdie (pktEngine k)
  if (d.replayed k.src k.reqId).isSome then
    if s.mcastDone k then s.reply k 0x81 0 0 [] else s
  else if !d.replayRoom s.now then s.reply k 0x81 6 0 []
  else match s.landWrite k data with
    | (0, s) =>
      let s := s.updXdie (pktEngine k) fun d => d.putReplay k.src k.reqId 0 0 s.now
      let n := (s.mcastTargets k).length
      if n = 0 then s.reply k 0x81 0 0 []
      else (s.updFabric fun b => { b with mcastIn := b.mcastIn ++ [⟨k, n⟩] }).forwardCopies k data
    | (st, s) => (s.reply k 0x81 st 0 []).forwardCopies k data

/-! ## The commands -/

/-- A request that a command names leaves its buffer and is served, unless it is held (15 R508). -/
def State.takeRequest (s : State) (op : Byte) (k : Pkt) (data : Bytes) (serve : State → Bytes → State) : State :=
  if k.op ≠ op ∨ s.heldAt k.job k.addr.toNat then s
  else match s.heldRx k data with
    | some e => serve (s.takeRx e) (e.2.2.2.take k.length.toNat)
    | none => s

/-- The row READ (12 R401). -/
def execRead (k : Pkt) (s : State) : Host.Outcome State Fault Refusal :=
  .next (s.takeRequest 1 k [] fun s _ => s.serveRead k)

/-- The row WRITE (12 R401). A WRITE of a Monsoon unit to a Monsoon port is no WRITE to memory (12 R399): the rows of
chapters 06 and 07 take it. -/
def execWrite (k : Pkt) (data : Bytes) (s : State) : Host.Outcome State Fault Refusal :=
  .next (if pktFromMonsoon k ∧ monPort k.addr.toNat then s
    else s.takeRequest 2 k data fun s d => s.serveWrite k d)

/-- The row WRITE_MCAST (12 R421). -/
def execWriteMcast (k : Pkt) (data : Bytes) (s : State) : Host.Outcome State Fault Refusal :=
  .next (s.takeRequest 3 k data fun s d => s.serveMcast k d)

/-- The row REDUCE_INTO (12 R405). -/
def execReduceInto (k : Pkt) (data : Bytes) (s : State) : Host.Outcome State Fault Refusal :=
  .next (s.takeRequest 4 k data fun s d => s.serveReduce k d)

/-- The row ADD_INT (12 R403). -/
def execAddInt (k : Pkt) (s : State) : Host.Outcome State Fault Refusal :=
  .next (s.takeRequest 0x10 k [] fun s _ => s.serveAtomic k)

/-- The row ADD_FP32 (12 R403). -/
def execAddFp32 (k : Pkt) (s : State) : Host.Outcome State Fault Refusal :=
  .next (s.takeRequest 0x11 k [] fun s _ => s.serveAtomic k)

/-- The row ATOMIC_MIN (12 R403). -/
def execAtomicMin (k : Pkt) (s : State) : Host.Outcome State Fault Refusal :=
  .next (s.takeRequest 0x12 k [] fun s _ => s.serveAtomic k)

/-- The row ATOMIC_MAX (12 R403). -/
def execAtomicMax (k : Pkt) (s : State) : Host.Outcome State Fault Refusal :=
  .next (s.takeRequest 0x13 k [] fun s _ => s.serveAtomic k)

/-- The row SWAP (12 R403). -/
def execSwap (k : Pkt) (s : State) : Host.Outcome State Fault Refusal :=
  .next (s.takeRequest 0x14 k [] fun s _ => s.serveAtomic k)

/-- The row CAS (12 R403). -/
def execCas (k : Pkt) (s : State) : Host.Outcome State Fault Refusal :=
  .next (s.takeRequest 0x15 k [] fun s _ => s.serveAtomic k)

/-- The row FETCH_ADD (12 R403). -/
def execFetchAdd (k : Pkt) (s : State) : Host.Outcome State Fault Refusal :=
  .next (s.takeRequest 0x16 k [] fun s _ => s.serveAtomic k)

/-- PROBE: firmware answers while it runs (12 R414). It accesses nothing, so no core window holds it (15 R508). -/
def State.answerProbe (s : State) (k : Pkt) : State :=
  if !s.fw.up ∨ k.op ≠ 0x20 then s
  else match s.heldRx k [] with
    | some e => (s.takeRx e).reply k 0x81 0 0 []
    | none => s

/-- The row PROBE (12 R414). -/
def execProbe (k : Pkt) (s : State) : Host.Outcome State Fault Refusal := .next (s.answerProbe k)

/-- JOB_TEARDOWN: the first packet of a (JOB, ARG1) pair is flooded and tears down the job's partitions (12 R415). -/
def State.jobTeardown (s : State) (n : Nat) (k : Pkt) : State :=
  match (if s.operational then s.fabric.rx.find? fun e => e.1 = n && pktOfFlit e.2.2.1 = some k else none) with
  | none => s
  | some e =>
    let s := s.takeRx e
    if s.fabric.teardowns.contains (k.job, k.arg1) then s
    else
      let s := s.updFabric fun b => { b with teardowns := (k.job, k.arg1) :: b.teardowns }
      (s.sendTeardown k (some n)).abortJob k none

/-- The row JOB_TEARDOWN (12 R415). -/
def execJobTeardown (n : PortId) (k : Pkt) (s : State) : Host.Outcome State Fault Refusal :=
  .next (if k.op = 0x21 then s.jobTeardown n.val k else s)

end Sys2Proof.Machine
end

