-- ==== Sys2Proof/Machine/Schedule.lean ====
section
/-! DEFINITION. The cyclic schedule and pre-emption (15 R500 to R512, R518, R520). -/

namespace Sys2Proof.Machine

open Sys2Proof

/-! ## Images in the save area (15 R496) -/

/-- The bytes of a core's memories from an address, as (offset, byte). -/
def imageCells (m : List Host.Cell) (a : Nat) : List (Nat × Byte) :=
  (m.filter fun e => a ≤ e.1 && e.1 < a + 0x130000).map fun e => (e.1 - a, e.2)

/-- The bytes of an image are written at an address, with fresh check bytes. -/
def State.putImage (s : State) (a : Nat) (cells : List (Nat × Byte)) : State :=
  let s := s.zeroRange a 0x130000
  { s with mem := cells.foldl (fun m e => memSet m (a + e.1) e.2) s.mem }

/-! ## CLAIM (15 R503) -/

/-- The claim block (16 R545). -/
structure ClaimBlock where
  id : Nat
  months : Nat
  mask : BitVec 288
  list : List (Nat × Nat)
  clean : Bool
deriving DecidableEq, Repr

def claimBlockOf (b : Bytes) : ClaimBlock where
  id := field b 0 1
  months := field b 1 1
  mask := BitVec.ofNat 288 (field b 8 40)
  list := (List.range (min (field b 1 1) 64)).map fun i =>
    (fld (field b (48 + 8 * i) 8) 23 0, fld (field b (48 + 8 * i) 8) 47 24)
  clean := allZero ((b.drop 2).take 6) && field b 44 4 = 0 &&
    (List.range (min (field b 1 1) 64)).all fun i => fld (field b (48 + 8 * i) 8) 63 48 = 0

/-- The block's head gives the number of Months that follow it. -/
def State.readClaim (s : State) (t : Taken) (host : Option Bytes) : Except Status Bytes × State :=
  match s.readPblock t host (t.long 24) 48 with
  | (.error e, s) => (.error e, s)
  | (.ok h, s) => s.readPblock t host (t.long 24) (48 + 8 * min (field h 1 1) 64)

/-- The longest handover of R511 for a claim: one block, up to 16 blocks on one die, more (log entry 55). -/
def handoverMax (mask : BitVec 288) : Nat :=
  match maskBlocks mask with
  | [] => 0
  | [_] => 32000
  | b :: l => if l.length ≤ 15 && l.all fun x => x / 16 = b / 16 then 204000 else 307000

/-- Ticks from the end of one Month to the start of another, the Year taken cyclically; and whether the two leave at
least `lead` ticks between them on both sides. -/
def monthGap (year : Nat) (a b : Month) : Nat := (((b.startTick : Int) - a.endTick).emod year).toNat
def monthsApart (year lead : Nat) (a b : Month) : Bool :=
  lead ≤ monthGap year a b && lead ≤ monthGap year b a &&
  a.len * 64 + b.len * 64 + monthGap year a b + monthGap year b a = year

/-- The Month table after a claim: the Months of the other partitions keep their entries. -/
def State.nextMonths (s : State) (p : Nat) (l : List (Nat × Nat)) : List (Nat × Month) :=
  let keep := s.season.months.filter fun e => e.2.part ≠ p && (s.partition e.2.part).state ≠ .absent
  let free := (List.range (64 + l.length)).filter fun i => (Tab.get? keep i).isNone
  (free.zip l).foldl (fun t e => Tab.put t e.1 ⟨p, e.2.1, e.2.2⟩) keep

/-- The claimed blocks of the partition of a Month, with partition `p`'s as the claim gives them. -/
def State.claimOf (s : State) (p : Nat) (mask : BitVec 288) (m : Month) : BitVec 288 :=
  if m.part = p then mask else (s.partition m.part).claim

/-- A pair of Months of the new table is too close on common blocks. -/
def State.monthsClash (s : State) (p : Nat) (mask : BitVec 288) (t : List (Nat × Month)) : Bool :=
  t.any fun a => t.any fun b =>
    a.1 < b.1 && (s.claimOf p mask a.2 &&& s.claimOf p mask b.2) ≠ 0 &&
    !monthsApart s.yearLen s.season.handoverLead.toNat a.2 b.2

/-- The conditions of R503 that refuse a claim. -/
def State.claimRefused (s : State) (p : Nat) (mask : BitVec 288) (t : List (Nat × Month)) : Bool :=
  ((maskBlocks mask).any fun b => match s.homeOf b with
    | some q => !(s.partition q).lendable
    | none => false) ||
  s.monthsClash p mask t || s.season.handoverLead.toNat < handoverMax mask || t.length > 64

/-- A partition's claimed blocks change: its images move to their new ranks, cores that it no longer has are given up,
and cores that it gains get cleared images in which nothing has run (03 R124). They hold no job seed, even after a SEED_LOAD
(log entry 38). -/
def State.setClaim (s : State) (p : Nat) (mask : BitVec 288) : State :=
  let old := s.partition p
  let new := { old with claim := mask }
  let mine := s.saved.filter fun e => e.1 = p
  let keep := mine.filter fun e => new.hasCore e.2.1
  let imgs := keep.map fun e => (e.2.1, imageCells s.mem (old.imageAt e.2.1))
  let s := mine.foldl (fun s e => s.zeroRange (old.imageAt e.2.1) 0x130000) s
  let gained := new.cores.filter fun c => !old.hasCore c
  let others := s.saved.filter fun e => e.1 ≠ p
  let added : List (Nat × Nat × Core) := gained.map fun c => (p, c, { Core.fresh p with preempt := .saved })
  let s := { s with saved := added ++ keep ++ others }
  let s := s.setPartition p new
  let s := gained.foldl (fun s c => s.zeroRange (new.imageAt c) 0x130000) s
  let s := imgs.foldl (fun s e => s.putImage (new.imageAt e.1) e.2) s
  (old.cores.filter fun c => !new.hasCore c).foldl (fun s c => s.releaseCore p c) s

/-- CLAIM: parameters, then the state, then the conditions of R503. -/
def State.claim (s : State) (t : Taken) (host : Option Bytes) : Answer × State :=
  match s.readClaim t host with
  | (.error st, s) => (⟨st, none, none⟩, s)
  | (.ok b, s) =>
    let c := claimBlockOf b
    let x := s.partition c.id
    let badMonth := c.list.any fun e => e.2 = 0 || (s.yearLen ≠ 0 && (e.1 + e.2) * 64 > s.yearLen)
    if c.id > 31 ∨ c.months > 64 ∨ !c.clean ∨ badMonth then (⟨.invalidArgument, none, none⟩, s)
    else if s.tornSince t c.id then (⟨.faulted, none, none⟩, s)
    else if x.state ≠ .active ∨ !x.realtime ∨ s.season.commitAt.isSome ∨ s.yearLen = 0 then
      (⟨.stateConflict, none, none⟩, s)
    else
      let next := s.nextMonths c.id c.list
      if s.claimRefused c.id c.mask next then (⟨.refused, none, none⟩, s)
      else
        let at_ := s.yearStartAfter (s.now + 1000000)
        let s := (s.setClaim c.id c.mask).updSeason fun z => { z with monthsNext := next, monthsIdle := [], commitAt := some at_ }
        (⟨.ok, some (BitVec.ofNat 64 at_), none⟩, s)

/-- The row CLAIM (15 R503). -/
def execClaim (pblock : Option Bytes) (s : State) : Host.Outcome State Fault Refusal :=
  .next (s.command 0x12 ⟨.manager, [.service], [(24, 31)], none⟩ fun s t => s.claim t pblock)

/-! ## YEAR_SET and the commit (15 R500 to R502) -/

/-- YEAR_SET (16 R545). -/
def State.yearSet (s : State) (t : Taken) : Answer × State :=
  let k := t.byte 24
  if k ≠ 0 ∧ (k < 16 ∨ k > 30) then (⟨.invalidArgument, none, none⟩, s)
  else if !s.season.months.isEmpty ∨ s.season.commitAt.isSome then (⟨.stateConflict, none, none⟩, s)
  else
    let s := s.updSeason fun z => { z with
      yearLog2 := BitVec.ofNat 5 k, yearBase := BitVec.ofNat 64 (t.long 32), handoverLead := BitVec.ofNat 64 (t.long 40) }
    (⟨.ok, none, none⟩, s)

/-- The row YEAR_SET (15 R500). -/
def execYearSet (s : State) : Host.Outcome State Fault Refusal :=
  .next (s.command 0x13 ⟨.manager, [.service], [(24, 24), (32, 47)], none⟩ fun s t => s.yearSet t)

/-- The committed table takes effect (15 R502), while the clocks run (19 R605). -/
def State.scheduleStart (s : State) : State := match s.season.commitAt with
  | some t => if t ≤ s.now ∧ s.moves then s.updSeason fun z => { z with months := z.monthsNext, commitAt := none } else s
  | none => s

/-- The row SCHEDULE_TAKES_EFFECT (15 R502). -/
def execScheduleTakesEffect (s : State) : Host.Outcome State Fault Refusal := .next s.scheduleStart

/-! ## Handing over (15 R504, R505, R518) -/

/-- A core stops at its next word boundary, or, when no context is to be saved, takes the next context at once. -/
def State.stopCore (s : State) (c : Nat) : State :=
  let k := s.core c
  match k.preempt with
  | .live => match k.ctx with
    | some q =>
      if (s.partition q).state = .active then s.updCore c fun k => { k with preempt := .quiescing s.now }
      else s.settleCore c
    | none => s.settleCore c
  | _ => s

/-- The blocks of a claim that other partitions lend. -/
def State.lentTo (s : State) (p : Nat) : List Nat :=
  (maskBlocks (s.partition p).claim).filter fun b => (s.homeOf b).any (· ≠ p)

/-- MONTH_HANDOVER_START: the home partitions' cores stop, and SEA_RESUME_AT of each shows its planned return. -/
def State.handover (s : State) (m : Month) : State :=
  let s := (s.lentTo m.part).foldl (fun s b => s.lendIn b m) s
  (maskBlocks (s.partition m.part).claim).foldl (fun s b => (List.range 16).foldl (fun s j =>
    if (s.core (16 * b + j)).ctx = some m.part then s else s.stopCore (16 * b + j)) s) s

/-- The Month of an index, when it is being served or handed over and its claimant runs. -/
def State.monthDue (s : State) (i : Nat) : Option Month :=
  (Tab.get? s.season.months i).filter fun m => s.monthActive m && (s.partition m.part).state = .active && s.moves

/-- The row MONTH_HANDOVER_START (15 R504). -/
def execMonthHandoverStart (i : Fin 64) (s : State) : Host.Outcome State Fault Refusal :=
  .next (match s.monthDue i.val with
    | some m => s.handover m
    | none => s)

/-- The partitions whose Month of an index may have ended: the entry's, or any when the entry is gone. -/
def State.monthParts (s : State) (i : Nat) : List Nat := match Tab.get? s.season.months i with
  | some m => [m.part]
  | none => s.partitions.map (·.1)

/-- A partition is stopped on the claimed cores that it holds outside its Months. -/
def State.endMonth (s : State) (p : Nat) : State :=
  (maskBlocks (s.partition p).claim).foldl (fun s b => (List.range 16).foldl (fun s j =>
    let c := 16 * b + j
    if (s.core c).ctx = some p ∧ s.claimantOf b ≠ some p then s.stopCore c else s) s) s

/-- The row MONTH_END (15 R504). -/
def execMonthEnd (i : Fin 64) (s : State) : Host.Outcome State Fault Refusal :=
  .next (if s.moves then (s.monthParts i.val).foldl (fun s p => s.endMonth p) s else s)

/-! ## Quiescing (15 R506) -/

/-- A transaction of the context that a core holds. -/
def State.ofContext (s : State) (c : Nat) (x : Xact) : Bool := x.core? = some c && (s.core c).ctx = some x.part

/-- It has been sent, and no reply has ended it. -/
def Xact.outstanding (x : Xact) : Bool := x.state ≠ .queued && x.state ≠ .suspended

/-- QUIESCE_TIMEOUT: what is outstanding FAB_XACT_TIMEOUT ticks after the stop is suspended, and its probe forgotten. A
window of the switch core closes first. The lanes, and a word in issue, still run to their end (04 R152). -/
def State.quiesceTimeout (s : State) (c : Nat) : State :=
  match (s.core c).preempt with
  | .quiescing t =>
    let mine := s.fabric.xacts.filter fun x => s.ofContext c x && x.outstanding
    let open_ := mine.any fun x => x.state = .window
    if !s.moves ∨ s.now < t + s.fabric.timeout.toNat ∨ open_ then s
    else
      let ids := mine.map fun x => x.k.reqId
      let probes (x : Xact) : Bool := match x.owner with
        | .probe id => ids.contains id
        | _ => false
      let halt (x : Xact) : Xact := if ids.contains x.k.reqId then { x with state := .suspended } else x
      let s := s.updFabric fun b => { b with xacts := (b.xacts.filter fun x => !probes x).map halt }
      s.updCore c fun k =>
        if k.matrix.loadQ.isEmpty ∧ k.matrix.compQ.isEmpty ∧ k.tail.isNone then { k with preempt := .saving } else k
  | _ => s

/-- The row QUIESCE_TIMEOUT (15 R506). -/
def execQuiesceTimeout (c : CoreId) (s : State) : Host.Outcome State Fault Refusal := .next (s.quiesceTimeout c.val)

/-! ## Save and restore (15 R507 to R510, R512) -/

/-- A core that is stopped has come to rest: its lanes are empty and nothing that it sent is outstanding. -/
def State.atRest (s : State) (c : Nat) : Bool :=
  let k := s.core c
  (match k.preempt with
   | .quiescing _ => true
   | .saving => true
   | _ => false) &&
  k.matrix.loadQ.isEmpty && k.matrix.compQ.isEmpty && k.tail.isNone &&
  !s.fabric.xacts.any fun x => s.ofContext c x && x.outstanding

/-- A core's block is lent no more once each of its cores holds the home partition's context again (15 R518). -/
def State.clearHome (s : State) (c : Nat) : State := match s.homeOf (blockOf c) with
  | some q => if s.blockBack q (blockOf c) then s.updSeason fun z => { z with resumeAt := Tab.del z.resumeAt (blockOf c) } else s
  | none => s

/-- CONTEXT_SAVE_DONE: the core's memories lie in the image, its registers and the rest in the state block, the lines of its
caches among them (log entry 126), and the next context comes. -/
def State.saveDone (s : State) (c : Nat) : State :=
  let k := s.core c
  match k.ctx with
  | none => s
  | some p =>
    if !s.atRest c ∨ !s.moves then s
    else
      let cells := imageCells s.mem (winBase c)
      let s := s.putImage ((s.partition p).imageAt c) cells
      let s := { s with mem := memClear s.mem (winBase c) 0x130000
                        saved := (p, c, { k with preempt := .saved }) :: s.saved }
      (s.settleCore c).clearHome c

/-- The row CONTEXT_SAVE_DONE (15 R507). -/
def execContextSaveDone (c : CoreId) (s : State) : Host.Outcome State Fault Refusal := .next (s.saveDone c.val)

/-- The first poisoned block of an image: the restore's read meets it (10 R335, R336). -/
def State.badImage (s : State) (a : Nat) : Option Nat :=
  s.poison.find? fun b => a / 64 ≤ b && b * 64 < a + 0x130000

/-- Suspended transactions of a restored context go out as their next attempts, or are probed (15 R510). -/
def State.resumeXacts (s : State) (p c : Nat) : State :=
  (s.fabric.xacts.filter fun x => x.core? = some c && x.part = p && x.state = .suspended).foldl (fun s x => s.resumeXact x) s

/-- The context of a partition is live again on a core. -/
def State.restoreFrom (s : State) (p c : Nat) (k : Core) : State :=
  let a := (s.partition p).imageAt c
  match s.badImage a with
  | some b => s.raiseMem p (MemErr.hbm false (((s.partition p).saveRegion).getD 0) (b * 64) oldPoison) serviceUnit
      (s.global (b * 64)) (Config.freeNat s.free)
  | none =>
    let cells := imageCells s.mem a
    let s := s.putImage (winBase c) cells
    let s := { s with saved := s.saved.filter fun e => e.1 ≠ p ∨ e.2.1 ≠ c }
    let s := s.setCore c { k with ctx := some p, preempt := .live }
    (((s.resumeXacts p c).armLaunch c).clearHome c)

/-- CONTEXT_RESTORE_DONE: the core resumes at the saved PC, and a pending launch arms. -/
def State.restoreDone (s : State) (c : Nat) : State :=
  if (s.core c).preempt ≠ .restoring ∨ !s.moves then s
  else match s.incoming c with
    | none => s.assignCore c none []
    | some p =>
      if (s.partition p).state ≠ .active then (s.settleCore c).clearHome c
      else match s.savedCore p c with
        | some k => s.restoreFrom p c k
        | none => ((s.assignCore c (some p) []).armLaunch c).clearHome c

/-- The row CONTEXT_RESTORE_DONE (15 R510). -/
def execContextRestoreDone (c : CoreId) (s : State) : Host.Outcome State Fault Refusal := .next (s.restoreDone c.val)

/-! ## Accesses to core windows (15 R492, R508) -/

/-- The agent's accesses are not those of a job. -/
def jobless : Agent → Bool
  | .host => true
  | .bmc => true
  | .firmware => true
  | .channel _ => true
  | _ => false

/-- An access to a core window is held, answered by the live core or answered from the image; one that the job does not
own is refused, and one that a steward's partition does not own is an access fault (14 R462). -/
def State.windowAccess (s : State) (a : Agent) (addr len : Nat) (w : Option Bytes) : State :=
  let job := s.agentJob a
  let n := (w.map List.length).getD len
  match s.place addr with
  | .core c _ =>
    if !s.moves ∨ (s.coreHeld job c ∧ !jobless a) then s
    else match s.stewardBarred a addr n with
    | some k => s.stewardFault k.val (if w.isSome then 7 else 5) addr
    | none =>
    if !jobless a ∧ !s.jobOwns job addr n then s.emit (.bytes a none)
    else match w with
      | some bs => match s.writeMem job addr bs with
        | (.ok _, s) => s.emit (.bytes a (some []))
        | (.error e, s) => (s.emit (.bytes a none)).raiseAgent a e addr
      | none => match s.readMem job addr n with
        | (.ok bs, s) => s.emit (.bytes a (some bs))
        | (.error e, s) => (s.emit (.bytes a none)).raiseAgent a e addr
  | _ => s

/-- The row WINDOW_ACCESS (15 R508). -/
def execWindowAccess (a : Agent) (addr : BitVec 48) (len : Nat) (wdata : Option Bytes) (s : State) :
    Host.Outcome State Fault Refusal := .next (s.windowAccess a addr.toNat len wdata)

end Sys2Proof.Machine
end

