-- ==== Sys2Proof/Machine/Dispatch.lean ====
section
/-! DEFINITION. One arm for each constructor of `Instr`: a direct call of its meaning. -/

namespace Sys2Proof.Machine

open Sys2Proof

/-- The effect of a command on everything but the queue. -/
def exec (i : Instr) (s : State) : Host.Outcome State Fault Refusal :=
  match i with
  | .wideWordIssue c => Sys2Proof.Machine.execWideWordIssue c s
  | .matrixOpStart c lane => Sys2Proof.Machine.execMatrixOpStart c lane s
  | .matrixOpDone c lane => Sys2Proof.Machine.execMatrixOpDone c lane s
  | .loadDataReturn c ix => Sys2Proof.Machine.execLoadDataReturn c ix s
  | .storeAcknowledgement c ix => Sys2Proof.Machine.execStoreAcknowledgement c ix s
  | .dmaTagComplete c tag => Sys2Proof.Machine.execDmaTagComplete c tag s
  | .mbsendAnswer c => Sys2Proof.Machine.execMbsendAnswer c s
  | .kernelCompletion c => Sys2Proof.Machine.execKernelCompletion c s
  | .launchArm c => Sys2Proof.Machine.execLaunchArm c s
  | .launchStart c => Sys2Proof.Machine.execLaunchStart c s
  | .equinoxReached w => Sys2Proof.Machine.execEquinoxReached w s
  | .deadlineMissed w => Sys2Proof.Machine.execDeadlineMissed w s
  | .dieFailed f => Sys2Proof.Machine.execDieFailed f s
  | .controlDieFailed k => Sys2Proof.Machine.execControlDieFailed k s
  | .countSync meas => Sys2Proof.Machine.execCountSync meas s
  | .beaconIntervalEnd n => Sys2Proof.Machine.execBeaconIntervalEnd n s
  | .holdoverEnd => Sys2Proof.Machine.execHoldoverEnd s
  | .linkDelayRefresh => Sys2Proof.Machine.execLinkDelayRefresh s
  | .ppsEdge => Sys2Proof.Machine.execPpsEdge s
  | .timerefCountCheck edges => Sys2Proof.Machine.execTimerefCountCheck edges s
  | .monsoonStepArm p => Sys2Proof.Machine.execMonsoonStepArm p s
  | .routerInputPost c tag => Sys2Proof.Machine.execRouterInputPost c tag s
  | .scoringStart sl x => Sys2Proof.Machine.execScoringStart sl x s
  | .countRoundStart sl => Sys2Proof.Machine.execCountRoundStart sl s
  | .countPacket x k data => Sys2Proof.Machine.execCountPacket x k data s
  | .prefixPacket x k data => Sys2Proof.Machine.execPrefixPacket x k data s
  | .abortPacket x k data => Sys2Proof.Machine.execAbortPacket x k data s
  | .dispatchChoice sl x => Sys2Proof.Machine.execDispatchChoice sl x s
  | .dispatchPortWrite x k data => Sys2Proof.Machine.execDispatchPortWrite x k data s
  | .batchComplete sl slot => Sys2Proof.Machine.execBatchComplete sl slot s
  | .stepPairExpiry => Sys2Proof.Machine.execStepPairExpiry s
  | .returnStart sl slot => Sys2Proof.Machine.execReturnStart sl slot s
  | .returnRowSend sl slot => Sys2Proof.Machine.execReturnRowSend sl slot s
  | .returnPortWrite x k data => Sys2Proof.Machine.execReturnPortWrite x k data s
  | .tokenCombine sl row => Sys2Proof.Machine.execTokenCombine sl row s
  | .stepComplete sl => Sys2Proof.Machine.execStepComplete sl s
  | .stepCommitDone sl => Sys2Proof.Machine.execStepCommitDone sl s
  | .forecastArm p => Sys2Proof.Machine.execForecastArm p s
  | .forecastStart f => Sys2Proof.Machine.execForecastStart f s
  | .forecastSegment f x => Sys2Proof.Machine.execForecastSegment f x s
  | .forecastListAssembly f => Sys2Proof.Machine.execForecastListAssembly f s
  | .forecastComplete f => Sys2Proof.Machine.execForecastComplete f s
  | .bpmAlloc a q => Sys2Proof.Machine.execBpmAlloc a q s
  | .bpmIncr a addr => Sys2Proof.Machine.execBpmIncr a addr s
  | .bpmDecr a addr => Sys2Proof.Machine.execBpmDecr a addr s
  | .bpmGrant a q mask => Sys2Proof.Machine.execBpmGrant a q mask s
  | .bpmCacheRefill n => Sys2Proof.Machine.execBpmCacheRefill n s
  | .bpmCacheWriteback n => Sys2Proof.Machine.execBpmCacheWriteback n s
  | .hbmRead a addr u => Sys2Proof.Machine.execHbmRead a addr u s
  | .hbmWrite a addr data u => Sys2Proof.Machine.execHbmWrite a addr data u s
  | .correctionWriteback addr => Sys2Proof.Machine.execCorrectionWriteback addr s
  | .patrolScrub h u => Sys2Proof.Machine.execPatrolScrub h u s
  | .rowClose st pc bank => Sys2Proof.Machine.execRowClose st pc bank s
  | .stackTemperatureReading st t => Sys2Proof.Machine.execStackTemperatureReading st t s
  | .spprRepair st pc bank row => Sys2Proof.Machine.execSpprRepair st pc bank row s
  | .trafficGeneratorStart h ch => Sys2Proof.Machine.execTrafficGeneratorStart h ch s
  | .trafficGeneratorDone h ch errors firstRow => Sys2Proof.Machine.execTrafficGeneratorDone h ch errors firstRow s
  | .packet n w => Sys2Proof.Machine.execPacket n w s
  | .dataFlit n w => Sys2Proof.Machine.execDataFlit n w s
  | .stompedFlit n w => Sys2Proof.Machine.execStompedFlit n w s
  | .badSlot n w => Sys2Proof.Machine.execBadSlot n w s
  | .idle n w => Sys2Proof.Machine.execIdle n w s
  | .credit n w => Sys2Proof.Machine.execCredit n w s
  | .beacon n w rxFrac => Sys2Proof.Machine.execBeacon n w rxFrac s
  | .discovery n w => Sys2Proof.Machine.execDiscovery n w s
  | .marker n m => Sys2Proof.Machine.execMarker n m s
  | .creditSend n => Sys2Proof.Machine.execCreditSend n s
  | .beaconSend n txFrac => Sys2Proof.Machine.execBeaconSend n txFrac s
  | .discoverySend n => Sys2Proof.Machine.execDiscoverySend n s
  | .markerSend n => Sys2Proof.Machine.execMarkerSend n s
  | .loseLock l => Sys2Proof.Machine.execLoseLock l s
  | .portTrainingDone n good peerQuick r => Sys2Proof.Machine.execPortTrainingDone n good peerQuick r s
  | .trainingTimeout n => Sys2Proof.Machine.execTrainingTimeout n s
  | .fastRetrainTimeout n => Sys2Proof.Machine.execFastRetrainTimeout n s
  | .fabPortRetrain n => Sys2Proof.Machine.execFabPortRetrain n s
  | .requestSend reqId => Sys2Proof.Machine.execRequestSend reqId s
  | .read k => Sys2Proof.Machine.execRead k s
  | .write k data => Sys2Proof.Machine.execWrite k data s
  | .writeMcast k data => Sys2Proof.Machine.execWriteMcast k data s
  | .reduceInto k data => Sys2Proof.Machine.execReduceInto k data s
  | .addInt k => Sys2Proof.Machine.execAddInt k s
  | .addFp32 k => Sys2Proof.Machine.execAddFp32 k s
  | .atomicMin k => Sys2Proof.Machine.execAtomicMin k s
  | .atomicMax k => Sys2Proof.Machine.execAtomicMax k s
  | .swap k => Sys2Proof.Machine.execSwap k s
  | .cas k => Sys2Proof.Machine.execCas k s
  | .fetchAdd k => Sys2Proof.Machine.execFetchAdd k s
  | .probe k => Sys2Proof.Machine.execProbe k s
  | .jobTeardown n k => Sys2Proof.Machine.execJobTeardown n k s
  | .readReply k data => Sys2Proof.Machine.execReadReply k data s
  | .ack k => Sys2Proof.Machine.execAck k s
  | .atomicReply k => Sys2Proof.Machine.execAtomicReply k s
  | .attemptTimeout reqId => Sys2Proof.Machine.execAttemptTimeout reqId s
  | .busyResend reqId => Sys2Proof.Machine.execBusyResend reqId s
  | .probeTimeout reqId => Sys2Proof.Machine.execProbeTimeout reqId s
  | .combineWindowClose reqId => Sys2Proof.Machine.execCombineWindowClose reqId s
  | .routeEpochSwitch => Sys2Proof.Machine.execRouteEpochSwitch s
  | .routeEpochRetire => Sys2Proof.Machine.execRouteEpochRetire s
  | .collUp k data => Sys2Proof.Machine.execCollUp k data s
  | .collDown k data => Sys2Proof.Machine.execCollDown k data s
  | .collRoot k data => Sys2Proof.Machine.execCollRoot k data s
  | .collAbort k => Sys2Proof.Machine.execCollAbort k s
  | .collectiveComplete group equinox => Sys2Proof.Machine.execCollectiveComplete group equinox s
  | .collectiveCommitDone group equinox => Sys2Proof.Machine.execCollectiveCommitDone group equinox s
  | .kernel p => Sys2Proof.Machine.execKernel p s
  | .dma p => Sys2Proof.Machine.execDma p s
  | .monsoon p => Sys2Proof.Machine.execMonsoon p s
  | .forecast p => Sys2Proof.Machine.execForecast p s
  | .returnEntry p => Sys2Proof.Machine.execReturnEntry p s
  | .collective p => Sys2Proof.Machine.execCollective p s
  | .waitSeason p => Sys2Proof.Machine.execWaitSeason p s
  | .waitSem p => Sys2Proof.Machine.execWaitSem p s
  | .loopUntil p => Sys2Proof.Machine.execLoopUntil p s
  | .loopTest p => Sys2Proof.Machine.execLoopTest p s
  | .signalSem p => Sys2Proof.Machine.execSignalSem p s
  | .signalWord p => Sys2Proof.Machine.execSignalWord p s
  | .signalTime p => Sys2Proof.Machine.execSignalTime p s
  | .ringPoll p => Sys2Proof.Machine.execRingPoll p s
  | .cmdReserve k m => Sys2Proof.Machine.execCmdReserve k m s
  | .cmdDoorbell k => Sys2Proof.Machine.execCmdDoorbell k s
  | .cmdSemAdd k v => Sys2Proof.Machine.execCmdSemAdd k v s
  | .cmdSemTake k n => Sys2Proof.Machine.execCmdSemTake k n s
  | .stewardException k cause pc tval => Sys2Proof.Machine.execStewardException k cause pc tval s
  | .wfi k => Sys2Proof.Machine.execWfi k s
  | .wfiEnd k => Sys2Proof.Machine.execWfiEnd k s
  | .create pblock => Sys2Proof.Machine.execCreate pblock s
  | .destroy => Sys2Proof.Machine.execDestroy s
  | .destroyAt p => Sys2Proof.Machine.execDestroyAt p s
  | .deferredPlacement p => Sys2Proof.Machine.execDeferredPlacement p s
  | .claim pblock => Sys2Proof.Machine.execClaim pblock s
  | .yearSet => Sys2Proof.Machine.execYearSet s
  | .scheduleTakesEffect => Sys2Proof.Machine.execScheduleTakesEffect s
  | .monthHandoverStart ix => Sys2Proof.Machine.execMonthHandoverStart ix s
  | .monthEnd ix => Sys2Proof.Machine.execMonthEnd ix s
  | .quiesceTimeout c => Sys2Proof.Machine.execQuiesceTimeout c s
  | .contextSaveDone c => Sys2Proof.Machine.execContextSaveDone c s
  | .contextRestoreDone c => Sys2Proof.Machine.execContextRestoreDone c s
  | .windowAccess a addr len wdata => Sys2Proof.Machine.execWindowAccess a addr len wdata s
  | .faultRecordWrite p => Sys2Proof.Machine.execFaultRecordWrite p s
  | .teardownComplete p => Sys2Proof.Machine.execTeardownComplete p s
  | .chOpen => Sys2Proof.Machine.execChOpen s
  | .chClose => Sys2Proof.Machine.execChClose s
  | .windowMap => Sys2Proof.Machine.execWindowMap s
  | .pkgQuery => Sys2Proof.Machine.execPkgQuery s
  | .fwReset => Sys2Proof.Machine.execFwReset s
  | .poolCreate => Sys2Proof.Machine.execPoolCreate s
  | .poolDestroy => Sys2Proof.Machine.execPoolDestroy s
  | .groupDefine => Sys2Proof.Machine.execGroupDefine s
  | .groupDestroy => Sys2Proof.Machine.execGroupDestroy s
  | .seasonSet => Sys2Proof.Machine.execSeasonSet s
  | .wvSet => Sys2Proof.Machine.execWvSet s
  | .anemSelect => Sys2Proof.Machine.execAnemSelect s
  | .routeLoad pblock => Sys2Proof.Machine.execRouteLoad pblock s
  | .routeSwitch => Sys2Proof.Machine.execRouteSwitch s
  | .xactTimeoutSet => Sys2Proof.Machine.execXactTimeoutSet s
  | .quiesce => Sys2Proof.Machine.execQuiesce s
  | .resume => Sys2Proof.Machine.execResume s
  | .llmMode => Sys2Proof.Machine.execLlmMode s
  | .memTest => Sys2Proof.Machine.execMemTest s
  | .secureSet => Sys2Proof.Machine.execSecureSet s
  | .seedLoad pblock => Sys2Proof.Machine.execSeedLoad pblock s
  | .dewSetup => Sys2Proof.Machine.execDewSetup s
  | .dewRelease => Sys2Proof.Machine.execDewRelease s
  | .frostSetup => Sys2Proof.Machine.execFrostSetup s
  | .ckptWrite pblock => Sys2Proof.Machine.execCkptWrite pblock s
  | .ckptWriteComplete p mediaOk => Sys2Proof.Machine.execCkptWriteComplete p mediaOk s
  | .ckptRestore pblock stored => Sys2Proof.Machine.execCkptRestore pblock stored s
  | .ckptQuery => Sys2Proof.Machine.execCkptQuery s
  | .barometerUpdate => Sys2Proof.Machine.execBarometerUpdate s
  | .chDoorbell n v => Sys2Proof.Machine.execChDoorbell n v s
  | .chControlEnable n v => Sys2Proof.Machine.execChControlEnable n v s
  | .channelFetch n entry => Sys2Proof.Machine.execChannelFetch n entry s
  | .channelTimeout n => Sys2Proof.Machine.execChannelTimeout n s
  | .functionLevelReset => Sys2Proof.Machine.execFunctionLevelReset s
  | .channelDrained n => Sys2Proof.Machine.execChannelDrained n s
  | .filinaWatchdog => Sys2Proof.Machine.execFilinaWatchdog s
  | .firmwareRestart => Sys2Proof.Machine.execFirmwareRestart s
  | .commandServiceTake => Sys2Proof.Machine.execCommandServiceTake s
  | .mbxPost k m addr => Sys2Proof.Machine.execMbxPost k m addr s
  | .lockAcquire a w => Sys2Proof.Machine.execLockAcquire a w s
  | .lockRelease a w v => Sys2Proof.Machine.execLockRelease a w v s
  | .hostWindowAccess off len wdata => Sys2Proof.Machine.execHostWindowAccess off len wdata s
  | .getVersion => Sys2Proof.Machine.execGetVersion s
  | .getCapabilities => Sys2Proof.Machine.execGetCapabilities s
  | .negotiateAlgorithms req => Sys2Proof.Machine.execNegotiateAlgorithms req s
  | .getDigests => Sys2Proof.Machine.execGetDigests s
  | .getCertificate slot off len => Sys2Proof.Machine.execGetCertificate slot off len s
  | .challenge slot nonce => Sys2Proof.Machine.execChallenge slot nonce s
  | .getMeasurements index nonce => Sys2Proof.Machine.execGetMeasurements index nonce s
  | .pwrokLow => Sys2Proof.Machine.execPwrokLow s
  | .pwrokHigh => Sys2Proof.Machine.execPwrokHigh s
  | .coldResetAssert => Sys2Proof.Machine.execColdResetAssert s
  | .coldStart slot bootSel => Sys2Proof.Machine.execColdStart slot bootSel s
  | .warmEntry noSpare => Sys2Proof.Machine.execWarmEntry noSpare s
  | .warmStart => Sys2Proof.Machine.execWarmStart s
  | .startStepEnd r => Sys2Proof.Machine.execStartStepEnd r s
  | .addressAssignmentTimeout => Sys2Proof.Machine.execAddressAssignmentTimeout s
  | .seasonLockTimeout => Sys2Proof.Machine.execSeasonLockTimeout s
  | .entdaa addr => Sys2Proof.Machine.execEntdaa addr s
  | .pkgMgmtTray v => Sys2Proof.Machine.execPkgMgmtTray v s
  | .pkgMgmtDim v => Sys2Proof.Machine.execPkgMgmtDim v s
  | .pkgMgmtPwrCap v => Sys2Proof.Machine.execPkgMgmtPwrCap v s
  | .thermtrip src => Sys2Proof.Machine.execThermtrip src s
  | .hostPerstN => Sys2Proof.Machine.execHostPerstN s
  | .powerSample watts => Sys2Proof.Machine.execPowerSample watts s
  | .powerStepEval p100us p1s => Sys2Proof.Machine.execPowerStepEval p100us p1s s
  | .vin48Undervoltage => Sys2Proof.Machine.execVin48Undervoltage s
  | .vin48Overvoltage => Sys2Proof.Machine.execVin48Overvoltage s
  | .inputPowerExcess => Sys2Proof.Machine.execInputPowerExcess s
  | .railOutOfRegulation rail => Sys2Proof.Machine.execRailOutOfRegulation rail s
  | .vstby12Low => Sys2Proof.Machine.execVstby12Low s
  | .droopTrip d row => Sys2Proof.Machine.execDroopTrip d row s
  | .junctionSensorRead d t => Sys2Proof.Machine.execJunctionSensorRead d t s
  | .refclkLoss which => Sys2Proof.Machine.execRefclkLoss which s
  | .pcieRefclkLoss => Sys2Proof.Machine.execPcieRefclkLoss s
  | .bypass => Sys2Proof.Machine.execBypass s
  | .idcode => Sys2Proof.Machine.execIdcode s
  | .samplePreload v => Sys2Proof.Machine.execSamplePreload v s
  | .extest => Sys2Proof.Machine.execExtest s
  | .extestPulse => Sys2Proof.Machine.execExtestPulse s
  | .extestTrain => Sys2Proof.Machine.execExtestTrain s
  | .clamp => Sys2Proof.Machine.execClamp s
  | .highz => Sys2Proof.Machine.execHighz s
  | .rcRead a r event => Sys2Proof.Machine.execRcRead a r event s
  | .w1cWrite a r v => Sys2Proof.Machine.execW1cWrite a r v s
  | .registerWrite a r v => Sys2Proof.Machine.execRegisterWrite a r v s
  | .vstby12InRange => Sys2Proof.Machine.execVstby12InRange s
  | .peerSignalDetected n => Sys2Proof.Machine.execPeerSignalDetected n s
  | .ppsEdgeLate => Sys2Proof.Machine.execPpsEdgeLate s
  | .pcieRefclkReturn => Sys2Proof.Machine.execPcieRefclkReturn s
  | .hbmRefresh st pc bank => Sys2Proof.Machine.execHbmRefresh st pc bank s
  | .ckptRestoreComplete p => Sys2Proof.Machine.execCkptRestoreComplete p s

end Sys2Proof.Machine
end

