-- ==== Sys2Proof/Safety.lean ====
section
/-! DEFINITION. What counts as a safe state of the package, in the terms that claims use. -/

namespace Sys2Proof.Machine

open Sys2Proof

/-- The memory keeps its canonical form. -/
def State.memOk (s : State) : Prop := Memory.wf s.mem = true

/-- Two states agree on every byte of memory outside a range. -/
def sameOutside (m m' : List Host.Cell) (a n : Nat) : Prop :=
  ∀ x, x < a ∨ a + n ≤ x → memGet m' x = memGet m x

/-- Two states agree on every byte of memory. -/
def sameMem (m m' : List Host.Cell) : Prop := ∀ x, memGet m' x = memGet m x

/-- Core `c` issues word `w` next: it runs, it is inside no other word, its fetch gives the word and the state
`s1`, nothing in the word waits (03 R86, R89, R90), and the word carries no MV mark. -/
def State.canIssue (s : State) (c w : Nat) (s1 : State) : Prop :=
  (s.core c).phase = .running ∧ (s.core c).preempt = .live ∧ (s.core c).stopRegs = [] ∧ (s.core c).tail = none ∧
  s.fetchWord c = (.ok w, s1) ∧ s1.wordWaits c w = false ∧ wMv w = false

/-- The word holds one slot. -/
def onlySlot (w i : Nat) : Prop := ∀ j, j < 5 → (wValid w j = true ↔ j = i)

/-- The word holds one slot, which executes (03 R84, R85), and no STOP bit. -/
def Core.soleSlot (k : Core) (w i : Nat) : Prop := onlySlot w i ∧ wStop w = false ∧ k.executes w i = true

/-- The packet is a WRITE on the Monsoon channel to a port page of the X-die that starts at local address `lo` (06 R222,
R235, 07 R260). -/
def monPacket (k : Pkt) (lo : Nat) : Prop :=
  k.op = 2 ∧ vcOf k.op.toNat k.srcUnit.toNat = 4 ∧ lo ≤ k.addr.toNat ∧ k.addr.toNat < lo + 0x8000

/-- The command processor fetches from a partition's ring next: the partition is active and the package in service, the
ring has been woken, no earlier entry holds back the fetch, no KERNEL waits for its members, and it is the ring's turn
(14 R468, R471, R473, R476). -/
def State.mayFetchRing (s : State) (p : Nat) : Prop :=
  (s.partition p).state = .active ∧ s.inService = true ∧ (s.partition p).ring.awake = true ∧
  (s.partition p).ring.blocked = false ∧ (s.partition p).ring.waiting = none ∧ s.ringTurn p = true

/-- A service executes command `t` of an opcode next, and its checks pass: the command's own part starts from `v`, the
state without the command in the service's queue (16 R546, R547). -/
def State.runsNext (s : State) (op : Nat) (u : Rule) (t : Taken) (v : State) : Prop :=
  s.nextFor op = some t ∧ v = s.updFw (fun f => { f with taken := f.taken.erase t }) ∧ v.precheck u t = none

end Sys2Proof.Machine
end

