-- ==== Sys2Proof/WellFormed.lean ====
section
/-! DEFINITION. Which commands are well formed: operands that a type alone does not bound. An ill-formed command names
no event of the package. -/

namespace Sys2Proof

/-- A packet's data is as long as its header says, and at most 512 bytes (11 R371, 12 R400). -/
def packetOk (k : Pkt) (data : Bytes) : Bool := k.length.toNat ≤ 512 && data.length = k.length.toNat

/-- A tree packet's data, likewise; an EMPTY packet has none (13 R447). -/
def treePacketOk (k : TreePkt) (data : Bytes) : Bool :=
  k.length.toNat ≤ 512 && data.length = k.length.toNat && (!k.empty || data.isEmpty)

/-- A run of bytes that lies in one 64-byte block (10 R337). -/
def oneBlock (addr : BitVec 48) (data : Bytes) : Bool :=
  !data.isEmpty && addr.toNat % 64 + data.length ≤ 64

/-- An error pattern names each stored symbol at most once, with a changed value (10 R330). -/
def upsetOk (u : Upset) : Bool :=
  u.symbols.all (fun e => (e.1 < 64 || (70 ≤ e.1 && e.1 < 74)) && e.2 != 0) &&
  (u.symbols.map (·.1)).dedup.length = u.symbols.length && u.sramWord < 8

/-- An access of 1 to 512 bytes, with as many bytes written as its length says. -/
def accessOk (len : Nat) (wdata : Option Bytes) : Bool :=
  0 < len && len ≤ 512 && (match wdata with
    | some d => d.length = len
    | none => true)

/-- A parameter block that was read has its size (16 R545, 17 R565). -/
def blockOk (n : Nat) : Option Bytes → Bool
  | some b => b.length = n
  | none => true

/-- The well-formed commands. -/
def Instr.wellFormed : Instr → Bool
  | .countPacket _ k d => packetOk k d
  | .prefixPacket _ k d => packetOk k d
  | .abortPacket _ k d => packetOk k d
  | .dispatchPortWrite _ k d => packetOk k d
  | .returnPortWrite _ k d => packetOk k d
  | .write k d => packetOk k d
  | .writeMcast k d => packetOk k d
  | .reduceInto k d => packetOk k d
  | .readReply k d => packetOk k d
  | .collUp k d => treePacketOk k d
  | .collDown k d => treePacketOk k d
  | .collRoot k d => treePacketOk k d
  | .hbmRead _ _ u => upsetOk u
  | .hbmWrite _ a d u => oneBlock a d && upsetOk u
  | .patrolScrub _ u => upsetOk u
  | .windowAccess _ _ len w => accessOk len w
  | .hostWindowAccess _ len w => accessOk len w
  | .create b => blockOk 256 b
  | .routeLoad b => blockOk 40 b
  | .seedLoad b => blockOk 16 b
  | .channelFetch _ e => blockOk 64 e.entry
  | .countSync m => m.length ≤ 65536
  | .dieFailed f => !f.dies.isEmpty || !f.modules.isEmpty
  | .portTrainingDone _ _ _ r => r.lanes.length = 4
  | .lockAcquire a _ => (match a with
    | .core _ => true
    | .steward _ => true
    | .host => true
    | .channel _ => true
    | _ => false)
  | .wideWordIssue _ | .matrixOpDone _ _ | .loadDataReturn _ _ | .storeAcknowledgement _ _ | .dmaTagComplete _ _
  | .mbsendAnswer _ | .kernelCompletion _ | .launchArm _ | .launchStart _ | .equinoxReached _ | .deadlineMissed _
  | .controlDieFailed _ | .beaconIntervalEnd _ | .holdoverEnd | .linkDelayRefresh | .ppsEdge | .timerefCountCheck _
  | .monsoonStepArm _ | .routerInputPost _ _ | .scoringStart _ _ | .countRoundStart _ | .dispatchChoice _ _
  | .batchComplete _ _ | .stepPairExpiry | .returnStart _ _ | .returnRowSend _ _ | .tokenCombine _ _
  | .stepComplete _ | .stepCommitDone _ | .forecastArm _ | .forecastStart _ | .forecastSegment _ _
  | .forecastListAssembly _ | .forecastComplete _ | .bpmAlloc _ _ | .bpmIncr _ _ | .bpmDecr _ _ | .bpmGrant _ _ _
  | .bpmCacheRefill _ | .bpmCacheWriteback _ | .correctionWriteback _ | .rowClose _ _ _
  | .stackTemperatureReading _ _ | .spprRepair _ _ _ _ | .trafficGeneratorStart _ _ | .trafficGeneratorDone _ _ _ _
  | .packet _ _ | .dataFlit _ _ | .stompedFlit _ _ | .idle _ _ | .credit _ _ | .beacon _ _ _ | .discovery _ _
  | .marker _ _ | .creditSend _ | .beaconSend _ _ | .discoverySend _ | .markerSend _ | .loseLock _
  | .trainingTimeout _ | .fastRetrainTimeout _ | .fabPortRetrain _ | .requestSend _
  | .read _ | .addInt _ | .addFp32 _ | .atomicMin _ | .atomicMax _ | .swap _ | .cas _ | .fetchAdd _ | .probe _
  | .jobTeardown _ _ | .ack _ | .atomicReply _ | .attemptTimeout _ | .busyResend _ | .probeTimeout _
  | .combineWindowClose _ | .routeEpochSwitch | .routeEpochRetire | .collAbort _ | .collectiveComplete _ _
  | .collectiveCommitDone _ _ | .kernel _ | .dma _ | .monsoon _ | .forecast _ | .returnEntry _ | .collective _
  | .waitSeason _ | .waitSem _ | .loopUntil _ | .loopTest _ | .signalSem _ | .signalWord _ | .signalTime _
  | .ringPoll _ | .cmdReserve _ _ | .cmdDoorbell _ | .cmdSemAdd _ _ | .cmdSemTake _ _ | .stewardException _ _ _ _
  | .wfi _ | .wfiEnd _ | .destroy | .destroyAt _ | .deferredPlacement _ | .claim _ | .yearSet
  | .scheduleTakesEffect | .monthHandoverStart _ | .monthEnd _ | .quiesceTimeout _ | .contextSaveDone _
  | .contextRestoreDone _ | .faultRecordWrite _ | .teardownComplete _ | .chOpen | .chClose | .windowMap | .pkgQuery
  | .fwReset | .poolCreate | .poolDestroy | .groupDefine | .groupDestroy | .seasonSet | .wvSet | .anemSelect
  | .routeSwitch | .xactTimeoutSet | .quiesce | .resume | .llmMode | .memTest | .secureSet | .dewSetup
  | .dewRelease | .frostSetup | .ckptWrite _ | .ckptWriteComplete _ _ | .ckptRestore _ _ | .ckptQuery
  | .barometerUpdate | .chDoorbell _ _ | .chControlEnable _ _ | .channelTimeout _ | .functionLevelReset
  | .channelDrained _ | .filinaWatchdog | .firmwareRestart | .commandServiceTake | .mbxPost _ _ _
  | .lockRelease _ _ _ | .getVersion | .getCapabilities | .negotiateAlgorithms _ | .getDigests
  | .getCertificate _ _ _ | .challenge _ _ | .getMeasurements _ _ | .pwrokLow | .pwrokHigh | .coldResetAssert
  | .coldStart _ _ | .warmEntry _ | .warmStart | .startStepEnd _ | .addressAssignmentTimeout | .seasonLockTimeout
  | .entdaa _ | .pkgMgmtTray _ | .pkgMgmtDim _ | .pkgMgmtPwrCap _ | .thermtrip _ | .hostPerstN | .powerSample _
  | .powerStepEval _ _ | .vin48Undervoltage | .vin48Overvoltage | .inputPowerExcess | .railOutOfRegulation _
  | .vstby12Low | .droopTrip _ _ | .junctionSensorRead _ _ | .refclkLoss _ | .pcieRefclkLoss | .bypass | .idcode
  | .samplePreload _ | .extest | .extestPulse | .extestTrain | .clamp | .highz | .rcRead _ _ _ | .w1cWrite _ _ _
  | .registerWrite _ _ _ | .vstby12InRange | .peerSignalDetected _ | .ppsEdgeLate | .pcieRefclkReturn
  | .hbmRefresh _ _ _ | .ckptRestoreComplete _ | .matrixOpStart _ _ | .badSlot _ _ => true

end Sys2Proof
end

