-- ==== Sys2Proof/Certificates/Slice0/Obligations.lean ====
section
/-! DEFINITION. The statements about the package: what its commands do, where they complete, and what every command
keeps. -/

open Sys2Proof Sys2Proof.Machine

/-! ## The step and the queue -/

/-- A step takes the command at the front of the queue: it is the command's effect on the state with the queue's rest;
so every statement below about `exec` reaches a run. -/
def Obligations.StepRunsTheFrontCommand : Prop := ∀ (c : Instr) (rest : List Instr) (s : State), step { s with pending := c :: rest } = exec c { s with pending := rest }

/-- On an empty queue one tick of 1 ns passes (the model's choice, log entry 5): with Season running and no correction
to make, the K0 copy rises by one and wraps, every core whose clock runs counts 5 × n sixty-fourths of a cycle, every
steward counts three cycles and three instructions (14 R463, with the model's presumption of log entry 73), and
nothing else of the package changes (02 R44). Of the ports only what IDLE flits have said may move, and of the fabric
only the counts of stalls; what is sent is IDLE flits (11 R371, 12 R430). In OFF and in HALT_REFUSED every clock
stands still (19 R605). -/
def Obligations.IdleStepIsOneTick : Prop := ∀ s : State, s.pending = [] →
    (s.moves = false → step s = .next { s with time := s.time + 1 }) ∧
    (s.ticks = true → s.season.slew = 0 → ∃ t, step s = .next t ∧ t.season.k0 = s.season.k0 + 1 ∧ t.time = s.time + 1 ∧
      (∀ n, { t.port n with idleSent := (s.port n).idleSent } = s.port n) ∧
      { t.fabric with swqStall := s.fabric.swqStall, anem := s.fabric.anem } = s.fabric ∧
      t.stewards = s.stewards.map (fun e => (e.1, { e.2 with cycle := e.2.cycle + 3, instret := e.2.instret + 3 })) ∧
      t.cores = s.cores.map (fun e => (e.1, e.2.tick (s.coreStep (e.1 / 256)))) ∧
      { t.season with k0 := s.season.k0, islands := s.season.islands } = s.season ∧
      (∃ l, t.out = l ++ s.out ∧ ∀ m ∈ l, ∃ n f w, m = .flit n f w ∧ kindOf f = 1) ∧
      t = { s with time := s.time + 1, season := t.season, cores := t.cores, stewards := t.stewards, ports := t.ports,
                   fabric := t.fabric, out := t.out })

/-- Reset leaves the values that the manual states: FAB_XACT_TIMEOUT and FAB_MAX_TRANSIT 0x4E20, FAB_COMBINE 1 (12
R430), SEA_HOLDOVER_MAX 1,000 ms, PRIORITY 0x80 (02 R79), SEA_HANDOVER_LEAD 0x30D40 (15 R520), PKG_MGMT_PWR_CAP 0x1770
(18 R595), an empty region table (10 R358), no die known to be good, no package ID (01 R32), every port DISABLED (11
R395), every partition ABSENT (15 R519), and the package OFF (18 R579). -/
def Obligations.ResetHoldsTheStatedValues : Prop := State.reset.fabric.timeout = 0x4E20 ∧ State.reset.fabric.maxTransit = 0x4E20 ∧ State.reset.fabric.combine = true ∧
  State.reset.season.holdoverMax = 1000 ∧ State.reset.season.priority = 0x80 ∧
  State.reset.season.handoverLead = 0x30D40 ∧ State.reset.mgmt.pwrCap = 0x1770 ∧ State.reset.mgmt.state = .off ∧
  State.reset.regions = [] ∧ State.reset.dieOk = 0 ∧ State.reset.dieFail = 0 ∧ State.reset.selfId = none ∧
  (∀ n, (State.reset.port n).state = .disabled ∧ (State.reset.port n).creditCfg = creditReset n) ∧
  (∀ p, (State.reset.partition p).state = .absent) ∧ (∀ n, (State.reset.channel n).timeout = 0x32) ∧
  (∀ c, (State.reset.core c).rs 0 = 0 ∧ (State.reset.core c).rp 0 = true ∧ (State.reset.core c).rvm 0 = BitVec.allOnes 64) ∧
  State.reset.pending = []

/-! ## What every command keeps -/

/-- Every step keeps the memory's canonical form (the model's: log entry 3): addresses strictly rising and no byte
listed that an unlisted address would read as. -/
def Obligations.EveryStepKeepsTheMemoryCanonical : Prop := ∀ s t : State, Memory.wf s.mem = true → step s = .next t → Memory.wf t.mem = true

/-- Reset's memory has the canonical form. -/
def Obligations.ResetMemoryIsCanonical : Prop := Memory.wf State.reset.mem = true

/-- No command changes the queue of commands behind it, the ordering number of the part (the model's: log entry 1), or
the model's time (log entry 5): commands take effect in their order, and only a tick lets time pass. No command stops
the package: whatever the state, exec of every command answers a next state, which may be a fault record, a refusal
status or an unchanged state where the event's condition does not hold (log entry 7). -/
def Obligations.EveryCommandCompletesAndKeepsTheQueue : Prop :=
  (∀ (c : Instr) (s t : State), exec c s = .next t →
     t.pending = s.pending ∧ t.part = s.part ∧ t.time = s.time) ∧
  (∀ (c : Instr) (s : State), ∃ t, exec c s = .next t)

/-- What the package has sent stays sent, in its order (the model's record of it: log entry 10): a command puts
messages in front of those sent before, and never lowers the model's count of free values (log entry 2). -/
def Obligations.CommandsNeverRecallWhatWasSent : Prop := ∀ (c : Instr) (s t : State), exec c s = .next t → (∃ l, t.out = l ++ s.out) ∧ s.free ≤ t.free

/-! ## The compute core (03, 04) -/

/-- A wide word issues: at a running core whose word has been fetched and waits for nothing, an unmarked word whose
slots take effect without a fault gives the state that the slots leave in order, from the PC advanced by 32 bytes,
with the scalar registers that a STOP bit makes the core wait for. Where the M slot of the word holds back its D slot
(03 R88), or its C slot where that is an MBSEND, the slots before the D slot take effect now, and the rest of the word
waits, with the registers, the flags, the transfers and the Season copy as they were at issue. What STOP waits for is
log entry 85. The rest of a held word takes effect once the M slot has finished with what its D or C slot names (03
R88): its D and C slots read the registers as they were at issue, and the word is at its end. Completion: it concludes
that exec answers a next state, that of the effect above, for wideWordIssue. -/
def Obligations.WideWordTakesItsSlotsInOrder : Prop :=
  (∀ (c : CoreId) (s s1 s2 : State) (w : Nat),
     let r := s1.core c.val
     let s' := s1.updCore c.val fun k => { k with pc := k.pc + 32 }
     s.canIssue c.val w s1 → (s.core c.val).runs w 4 = false ∨ cOp (slotOf w 4) ≠ 0x19 →
     s'.slots c.val r w [0, 1, 2, 3, 4] = .ok s2 →
     ((∀ part, s'.slots c.val r w [0, 1, 2] = .ok part → part.tailWaits c.val r w = false) →
       exec (.wideWordIssue c) s = .next (s2.updCore c.val fun k => { k with
         tail := none
         stopRegs := if wStop w then ((List.range 5).filter fun i => r.executes w i).flatMap
             (fun i => slotWrites i (slotOf w i)) |>.filterMap fun x =>
               if k.pendingRegs.contains x then some (BitVec.ofNat 5 x) else none
           else [] })) ∧
     (∀ part, s'.slots c.val r w [0, 1, 2] = .ok part → part.tailWaits c.val r w = true →
       exec (.wideWordIssue c) s = .next (part.updCore c.val fun k =>
         { k with tail := some ⟨r.s, r.v, r.p, r.fpflags, r.status, r.dmas, r.cycle64, s1.copyAt (coreIsland c.val), w⟩ }))) ∧
  (∀ (c : CoreId) (s s2 : State) (t : WordTail),
     let r := { s.core c.val with
       s := t.s, v := t.v, p := t.p, fpflags := t.fpflags, status := t.status, dmas := t.dmas, cycle64 := t.cycle64
       pc := (s.core c.val).pc - 32 }
     (s.core c.val).phase = .running → (s.core c.val).tail = some t → (s.core c.val).drains = true →
     (s.tailWaits c.val r t.word = true → exec (.wideWordIssue c) s = .next s) ∧
     (s.tailWaits c.val r t.word = false → s.slots c.val r t.word [3, 4] = .ok s2 → ∃ stop,
       exec (.wideWordIssue c) s = .next (s2.updCore c.val fun k => { k with tail := none, stopRegs := stop })))

/-- S slot: a word that holds only an arithmetic operation that executes (0x01 to 0x1A, CLZ, POPC) writes its result
to s[RD] (nothing, where RD is s0), advances the PC by 32 and changes nothing else but the instruction cache of the
fetch. S slot: an aligned store to the core's own scratchpad or accumulator store, by an address that the core may
write, puts the low bytes of s[RB], least significant first, at the computed address, and changes no other byte of
memory. C slot, of a branch without a predicate or with one that holds: JMP moves the PC by IMM × 32 from the word's
own address, JAL does so and writes the next word's address to s31, JR takes an aligned address from s[RA], and HALT
leaves the core halting; nothing else changes. Completion: it concludes that exec answers a next state, that of the
effect above, for wideWordIssue. -/
def Obligations.ScalarAndBranchWordsHaveTheirFrame : Prop :=
  (∀ (c : CoreId) (s s1 : State) (w : Nat),
     s.canIssue c.val w s1 → (s1.core c.val).soleSlot w 0 → sListed (sOp (slotOf w 0)) = true → sMem (slotOf w 0) = false →
     sPset (sOp (slotOf w 0)) = false →
     exec (.wideWordIssue c) s = .next (s1.updCore c.val fun k => { ({ k with pc := k.pc + 32 } : Core).ws
       (sRd (slotOf w 0)) ((s1.core c.val).aluResult (slotOf w 0)) with tail := none, stopRegs := [] })) ∧
  (∀ (c : CoreId) (s s1 : State) (w off : Nat),
     s.canIssue c.val w s1 → (s1.core c.val).soleSlot w 0 → 0x28 ≤ sOp (slotOf w 0) → sOp (slotOf w 0) ≤ 0x2B →
     ((s1.core c.val).sAddr (slotOf w 0)).toNat % accessSize (sOp (slotOf w 0)) = 0 →
     (s1.updCore c.val fun k => { k with pc := k.pc + 32 }).addrFault c.val ((s1.core c.val).sAddr (slotOf w 0))
       (accessSize (sOp (slotOf w 0))) 2 = none →
     (s1.updCore c.val fun k => { k with pc := k.pc + 32 }).direct c.val ((s1.core c.val).sAddr (slotOf w 0)) = some off →
     off < 0x120000 → Memory.wf s1.mem = true →
     ∃ t, exec (.wideWordIssue c) s = .next t ∧
       memRead t.mem (gLocal ((s1.core c.val).sAddr (slotOf w 0))) (accessSize (sOp (slotOf w 0))) =
         leBytes (accessSize (sOp (slotOf w 0))) ((s1.core c.val).rs (sRb (slotOf w 0))).toNat ∧
       sameOutside s1.mem t.mem (gLocal ((s1.core c.val).sAddr (slotOf w 0))) (accessSize (sOp (slotOf w 0))) ∧
       t = { (s1.updCore c.val fun k => { k with pc := k.pc + 32, tail := none, stopRegs := [] }) with mem := t.mem }) ∧
  (∀ (c : CoreId) (s s1 : State) (w : Nat), s.canIssue c.val w s1 → (s1.core c.val).soleSlot w 4 →
     let b := slotOf w 4
     let rel : Word := (s1.core c.val).pc + sext64 16 (cImm b) * 32
     (cOp b = 0x01 → exec (.wideWordIssue c) s = .next (s1.updCore c.val fun k =>
       { k with pc := rel, tail := none, stopRegs := [] })) ∧
     (cOp b = 0x02 → exec (.wideWordIssue c) s = .next (s1.updCore c.val fun k =>
       { k.ws 31 ((s1.core c.val).pc + 32) with pc := rel, tail := none, stopRegs := [] })) ∧
     (cOp b = 0x03 → ((s1.core c.val).rs (cRa b)).toNat % 32 = 0 →
       exec (.wideWordIssue c) s = .next (s1.updCore c.val fun k =>
         { k with pc := (s1.core c.val).rs (cRa b), tail := none, stopRegs := [] })) ∧
     (cOp b = 0x04 → exec (.wideWordIssue c) s = .next (s1.updCore c.val fun k =>
       { k with pc := k.pc + 32, phase := .halting, tail := none, stopRegs := [] })))

/-- Predicates (03 R84, R85, R96): a slot whose predicate does not hold has no effect, so that a branch is not taken
and a word of no executing slot only advances the PC; a compare of the S slot writes its predicate and nothing else. V
slot: an operation that is listed, and has its key where it needs one, changes the core as its table row says and
nothing else: a lane operation writes each lane of v[VD] that the mask selects, keeps the others and joins the sticky
flags; one that needs an absent key raises KEY_ABSENT (03 R98 to R104, R120). D slot: an aligned VLD or VST within the
scratchpad moves 128 bytes; a DADD or a DDRAIN that its unit takes is the unit's, with the count of records in s[RC];
a transfer that passes the checks of 03 R105 starts under its tag, and one of length 0 other than a DATOM or DPOST is
complete at once (03 R105 to R107, 05 R188, R195). C slot: RSR reads the special registers of 03 R127, WSR clears the
bits of CORE_STATUS or CORE_FPFLAGS that it writes as one, and SREAD reads the core's Season copy; each advances the
PC and changes nothing else. CORE_CYCLE and SREAD in a Calm partition need MV (03 R111). Completion: it concludes that
exec answers a next state, that of the effect above, for wideWordIssue. -/
def Obligations.VectorDataAndControlSlotsTakeEffect : Prop :=
  (∀ (c : CoreId) (s s1 : State) (w : Nat), s.canIssue c.val w s1 →
     ((∀ i, i < 5 → (s1.core c.val).executes w i = false ∧
         (wValid w i = true → slotIllegal (s1.core c.val).matrix.ahead.stratus i (slotOf w i) = false)) →
       exec (.wideWordIssue c) s = .next (s1.updCore c.val fun k => { k with pc := k.pc + 32, tail := none, stopRegs := [] })) ∧
     (let b := slotOf w 0
      (s1.core c.val).soleSlot w 0 → sPset (sOp b) = true → sRd b % 8 ≠ 0 →
       exec (.wideWordIssue c) s = .next (s1.updCore c.val fun k =>
         { ({ k with pc := k.pc + 32 } : Core).wp (sRd b % 8) (cmpOp (sOp b) ((s1.core c.val).rs (sRa b))
             (if sOp b < 0x38 then (s1.core c.val).rs (sRb b) else sImm b)) with tail := none, stopRegs := [] }))) ∧
  (∀ (c : CoreId) (s s1 : State) (w : Nat), s.canIssue c.val w s1 → (s1.core c.val).soleSlot w 1 →
     let b := slotOf w 1
     let r := s1.core c.val
     vIllegal b = false →
     (∀ k, vSlot r { r with pc := r.pc + 32 } b = some k →
       exec (.wideWordIssue c) s = .next (s1.updCore c.val fun _ => { k with tail := none, stopRegs := [] })) ∧
     (0x01 ≤ vOp b → vOp b ≤ 0x08 → ∃ t, exec (.wideWordIssue c) s = .next t ∧ t.mem = s1.mem ∧
       (∀ j, j ≠ c.val → t.core j = s1.core j) ∧
       let x := mapLanes (vTy b) (r.rvm (vVm b)) (r.rv (vVd b)) fun i =>
         laneOp (vTy b) (vOp b) (lane (vTy b) (r.rv (vVa b)) i) (lane (vTy b) (r.rv (vVb b)) i) (lane (vTy b) (r.rv (vVc b)) i)
       (t.core c.val).rv (vVd b) = x.1 ∧ (t.core c.val).fpflags = r.fpflags ||| x.2 ∧ (t.core c.val).pc = r.pc + 32 ∧
       (∀ i, (t.core c.val).rs i = r.rs i) ∧ (∀ i, i < 32 → i ≠ vVd b → (t.core c.val).rv i = r.rv i)) ∧
     (∀ p, vSlot r { r with pc := r.pc + 32 } b = none → (s1.landStores c.val).coreOwner c.val = some p →
       exec (.wideWordIssue c) s = .next ((s1.landStores c.val).raise p
         ((s1.updCore c.val fun k => { k with pc := k.pc + 32 }).coreRecord c.val 0x0106 (some r.pc) r.pc 1 b)))) ∧
  (∀ (c : CoreId) (s s1 : State) (w : Nat), s.canIssue c.val w s1 → (s1.core c.val).soleSlot w 3 →
     let b := slotOf w 3
     let r := s1.core c.val
     let s' := s1.updCore c.val fun k => { k with pc := k.pc + 32 }
     let d := { r.dmaOf w with seq := r.nextAccess }
     let ends (t : State) : State := t.updCore c.val fun k => { k with tail := none, stopRegs := [] }
     (dOp b = 0x01 → (r.vAddr b).toNat % 128 = 0 → (r.vAddr b).toNat < 0x100000 →
       exec (.wideWordIssue c) s = .next (ends (s'.updCore c.val fun k =>
         k.wv (dRc b) (BitVec.ofNat 1024 (leNat (memRead s1.mem (spBase c.val + (r.vAddr b).toNat) 128)))))) ∧
     (dOp b = 0x02 → (r.vAddr b).toNat % 128 = 0 → (r.vAddr b).toNat < 0x100000 →
       exec (.wideWordIssue c) s = .next (ends { s' with
         mem := memWrite s1.mem (spBase c.val + (r.vAddr b).toNat) (leBytes 128 (r.rv (dRc b)).toNat) })) ∧
     (∀ t, dOp b = 0x18 → s'.dadd c.val (r.rs (dRa b)).toNat ((r.rs (dRb b)).toNat % 2 ^ 32) = (.ok (), t) →
       exec (.wideWordIssue c) s = .next (ends t)) ∧
     (∀ t n, dOp b = 0x1A → s'.ddrain c.val (r.rs (dRc b)).toNat (r.rs (dRb b)).toNat = (.ok n, t) →
       exec (.wideWordIssue c) s = .next (ends (t.updCore c.val fun k => k.ws (dRc b) (BitVec.ofNat 64 n)))) ∧
     (8 ≤ dOp b → dOp b ≤ 0x10 → dIllegal b = false → s'.unmarkedFloat c.val w d = false → s'.dmaFault c.val d = none →
       (d.len = 0 → dOp b ≠ 0x0D → dOp b ≠ 0x10 → exec (.wideWordIssue c) s = .next (ends s')) ∧
       (d.len ≠ 0 ∨ dOp b = 0x0D ∨ dOp b = 0x10 → exec (.wideWordIssue c) s = .next (ends (s'.dmaStart c.val d))))) ∧
  (∀ (c : CoreId) (s s1 : State) (w : Nat), s.canIssue c.val w s1 → (s1.core c.val).soleSlot w 4 →
     let b := slotOf w 4
     let x := s1.partition (s1.corePart c.val)
     let writes (f : Core → Core) : Prop := exec (.wideWordIssue c) s = .next (s1.updCore c.val fun k =>
       { f { k with pc := k.pc + 32 } with tail := none, stopRegs := [] })
     (cOp b = 0x28 →
       (cImm b % 4096 = 0 → writes fun k => k.ws (cRa b) (BitVec.ofNat 64 (s1.self.toNat * 2 ^ 16 + c.val))) ∧
       (cImm b % 4096 = 1 → writes fun k => k.ws (cRa b) (BitVec.ofNat 64
         (x.job.toNat * 2 ^ 32 + x.allowMv.toNat * 2 ^ 9 + x.calm.toNat * 2 ^ 8 + s1.corePart c.val))) ∧
       (cImm b % 4096 = 2 → writes fun k => k.ws (cRa b) (BitVec.ofNat 64 k.status.toNat)) ∧
       (cImm b % 4096 = 3 → writes fun k => k.ws (cRa b) (BitVec.ofNat 64 k.fpflags.toNat)) ∧
       (cImm b % 4096 = 4 → x.calm = false → writes fun k => k.ws (cRa b) (BitVec.ofNat 64 (k.cycle64 / 64))) ∧
       (cImm b % 4096 = 5 → writes fun k => k.ws (cRa b) (BitVec.ofNat 64 (k.dmas.map fun d => 2 ^ d.tag).sum)) ∧
       (cImm b % 4096 = 6 → writes fun k => k.ws (cRa b) (BitVec.ofNat 64 (k.size.toNat * 2 ^ 16 + k.rank.toNat))) ∧
       (cImm b % 4096 = 7 → writes fun k => k.ws (cRa b) (BitVec.ofNat 64 (!k.keys.isEmpty).toNat))) ∧
     (cOp b = 0x29 →
       (cImm b % 4096 = 2 → writes fun k => { k with status := k.status &&& ~~~((k.rs (cRa b)).setWidth 2) }) ∧
       (cImm b % 4096 = 3 → writes fun k => { k with fpflags := k.fpflags &&& ~~~((k.rs (cRa b)).setWidth 5) })) ∧
     (cOp b = 0x10 → x.calm = false →
       writes fun k => k.ws (cRa b) (BitVec.ofNat 64 (s1.copyAt (coreIsland c.val)))))

/-- In every slot, an operation code or form that the slot does not list raises ILLEGAL_WORD (03 R94): the word writes
no register, and the core's earlier stores within the package, but for those that a held window keeps waiting, have
taken effect (03 R128). The record names the word's address, the slot and the slot's bits. The matrix lanes: the head
of the load lane reads its operands when it is ready, and starts (log entry 22); the head of the compute lane reads
its operands and starts, an MMUL with its banks swapped; a running head writes its last results and leaves its lane;
its sticky flags join CORE_FPFLAGS, and an MFORM empties the unit and sets its form (04 R132, R135, R150). Completion:
it concludes that exec answers a next state, that of the effect above, for wideWordIssue, matrixOpStart, matrixOpDone.
-/
def Obligations.IllegalWordsAndMatrixLanes : Prop :=
  (∀ (c : CoreId) (s s1 : State) (w i p : Nat), i < 5 →
     s.canIssue c.val w s1 → onlySlot w i →
     slotIllegal (s1.core c.val).matrix.ahead.stratus i (slotOf w i) = true →
     (s1.landStores c.val).coreOwner c.val = some p →
     exec (.wideWordIssue c) s = .next ((s1.landStores c.val).raise p
       ((s1.updCore c.val fun k => { k with pc := k.pc + 32 }).coreRecord c.val 0x0101 (some (s1.core c.val).pc)
         (s1.core c.val).pc i (slotOf w i)))) ∧
  (∀ (c : CoreId) (s : State) (o : MatOp) (rest : List MatOp), (s.core c.val).drains = true →
     (∀ o', (s.core c.val).matrix.loadQ = o :: rest → (s.core c.val).matrix.loadReady = true →
       s.loadResult c.val o = .ok o' →
       exec (.matrixOpStart c .load) s = .next { s.updCore c.val fun k => { k with
         matrix := { k.matrix with loadQ := o' :: rest } } with free := s.free + 4096 }) ∧
     (∀ r m, (s.core c.val).matrix.compQ = o :: rest → (s.core c.val).matrix.compReady = true →
       m = (if o.code = 0x03 then (s.core c.val).matrix.swap o else (s.core c.val).matrix) →
       s.compResult c.val o m = .ok r →
       ∃ t, exec (.matrixOpStart c .compute) s = .next t ∧ t.mem = s.mem ∧ t.partitions = s.partitions ∧
         t.core c.val = { s.core c.val with matrix := { m with
           compQ := { o with running := true, entries := r.entries, bytes := r.bytes, flags := r.flags } :: rest } } ∧
         ∀ j, j ≠ c.val → t.core j = s.core j) ∧
     ((s.core c.val).matrix.loadQ = o :: rest → o.running = true →
       exec (.matrixOpDone c .load) s =
         .next (s.updCore c.val fun k => { k with matrix := { k.matrix.load o with loadQ := rest } })) ∧
     ((s.core c.val).matrix.compQ = o :: rest → o.running = true →
       ∃ t, exec (.matrixOpDone c .compute) s = .next t ∧
         t.mem = o.bytes.foldl (fun m e => memSet m e.1 e.2)
           (o.entries.foldl (fun m e => memWrite m e.1 (leBytes 4 (e.2.getLastD 0).toNat)) s.mem) ∧
         t.core c.val = { s.core c.val with
           matrix := (if o.code = 0x01 then { Machine.Matrix.zero with
               stratus := o.imm.getLsbD 0, seq := (s.core c.val).matrix.seq, loadQ := (s.core c.val).matrix.loadQ
               compQ := rest }
             else { (s.core c.val).matrix with compQ := rest })
           fpflags := (s.core c.val).fpflags ||| o.flags } ∧
         (∀ j, j ≠ c.val → t.core j = s.core j) ∧ t.partitions = s.partitions))

/-- Loads, stores and answers complete: an answered load writes its value, extended as its operation says, and no
other register; a store acknowledged from another package changes only the core's list of accesses; a transfer whose
parts are done frees its tag; and an MBSEND answer writes the result to its register and sets CORE_STATUS to it, as
the last MBSEND has it (03 R110, R127). A load and a store within the package meet memory: a load of last-level memory
scratchpad that reads without an error writes the bytes at its address, extended, and nothing else; a load of HBM does
too, and may put the line in the data cache; a store to either that writes without an error is the write, and the
access is done. Completion: it concludes that exec answers a next state, that of the effect above, for loadDataReturn,
storeAcknowledgement, dmaTagComplete, mbsendAnswer. -/
def Obligations.OutstandingAccessesMeetMemory : Prop :=
  (∀ (c : CoreId) (s : State) (i : Nat) (m : MemOp),
     (∀ v, (s.core c.val).mopReady? i false = some m → s.mopHeld c.val m = false → m.answer = some v →
       exec (.loadDataReturn c i) s = .next (s.updCore c.val fun k => (k.dropMop i).loaded m v.toNat)) ∧
     (∀ v, (s.core c.val).mopReady? i true = some m → s.mopHeld c.val m = false → m.answer = some v →
       exec (.storeAcknowledgement c i) s = .next (s.updCore c.val fun k => k.dropMop i)) ∧
     (∀ (tag : Fin 32) (d : Dma), (s.core c.val).dma? tag.val = some d → d.left = 0 → (s.core c.val).drains = true →
       (s.core c.val).dmaFirst d = true → d.pieces = [] → d.fault = none → d.op ≠ 0x0D →
       exec (.dmaTagComplete c tag) s = .next (s.updCore c.val fun k =>
         { k with dmas := k.dmas.filter fun x => x.tag ≠ d.tag })) ∧
     (∀ a rest, (s.core c.val).mb = a :: rest → (s.core c.val).drains = true →
       exec (.mbsendAnswer c) s = .next (s.updCore c.val fun k =>
         { (k.ws a.reg.toNat (a.result.setWidth 64)) with
           mb := rest, stopRegs := k.stopRegs.filter (· ≠ a.reg), status := a.result }))) ∧
  (∀ (c : CoreId) (s s1 : State) (i m' off : Nat) (r : Region) (m : MemOp),
     s.place (gLocal m.addr) = .llm m' off ∨ s.place (gLocal m.addr) = .hbm m' r → m.answer = none →
     s.mopHeld c.val m = false →
     (∀ bs, (s.core c.val).mopReady? i false = some m →
       (s.updCore c.val fun k => k.dropMop i).readBlock
         (s.partition ((s.updCore c.val fun k => k.dropMop i).corePart c.val)).job (gLocal m.addr / 64 * 64) noUpset =
           (.ok bs, s1) →
       (s.place (gLocal m.addr) = .llm m' off → exec (.loadDataReturn c i) s =
         .next (s1.updCore c.val fun k => k.loaded m (field bs (gLocal m.addr % 64) m.size))) ∧
       ∃ dc f, exec (.loadDataReturn c i) s = .next { (s1.updCore c.val fun k =>
         { k.loaded m (field bs (gLocal m.addr % 64) m.size) with dcache := dc }) with free := f }) ∧
     ((s.core c.val).mopReady? i true = some m →
       (s.updCore c.val fun k => k.dropMop i).writeMem
         (s.partition ((s.updCore c.val fun k => k.dropMop i).corePart c.val)).job (gLocal m.addr)
         (leBytes m.size m.data.toNat) = (.ok (), s1) →
       exec (.storeAcknowledgement c i) s = .next s1))

/-! ## Launches and deadlines (02, 03) -/

/-- A launch is armed at an idle core that holds its partition's context, with no lateness before its EQUINOX, and
with the lateness of one that the copy equals or has passed, unless the partition is Calm and it is later than the
window (02 R61 to R63); an armed launch whose EQUINOX the core's copy has reached starts its kernel: s1, s2 and s3
hold the argument address, the rank and the size, every other general register is zero, and the matrix unit and the
caches are empty. A launch of a Calm partition that is later than the launch window it was fetched with raises
LATE_LAUNCH and does not start. EQUINOX_REACHED marks work as started once a copy that compares it has reached its
EQUINOX; a kernel starts by LAUNCH_START alone, so the event of a kernel changes nothing. DEADLINE_MISSED raises the
fault for a running or armed kernel whose deadline lies before the core's copy, while the clocks of the main domain
run (19 R605), unless a word of the core that issues at the same tick raises a fault, which goes before it (03 R130;
the word that waits in the queue, log entry 97). A halting core whose stores, transfers and lanes have ended records
its completion no later than its deadline: the KERNEL's entry counts one core less, and the core becomes idle, its
loads and answers write no register any more (log entry 79), and it arms its pending launch (03 R125, 04 R152).
Completion: it concludes that exec answers a next state, that of the effect above, for kernelCompletion, launchArm,
launchStart, equinoxReached, deadlineMissed. -/
def Obligations.KernelsStartAndEnd : Prop :=
  (∀ (c : CoreId) (s : State) (l : Launch),
     ((s.core c.val).pendingLaunch = some l → (s.core c.val).phase = .idle → (s.core c.val).armed = none →
       (s.core c.val).preempt = .live → (s.core c.val).ctx = some l.part →
       (l.equinox = 0 ∨ s.copyAt (coreIsland c.val) < l.equinox) →
       exec (.launchArm c) s = .next (s.updCore c.val fun k =>
         { k with pendingLaunch := none, armed := some (l, none) })) ∧
     ((s.core c.val).pendingLaunch = some l → (s.core c.val).phase = .idle → (s.core c.val).armed = none →
       (s.core c.val).preempt = .live → (s.core c.val).ctx = some l.part →
       l.equinox ≠ 0 → l.equinox ≤ s.copyAt (coreIsland c.val) →
       ((s.partition l.part).calm = true → s.copyAt (coreIsland c.val) ≤ l.equinox + l.window) →
       exec (.launchArm c) s = .next (s.updCore c.val fun k =>
         { k with pendingLaunch := none, armed := some (l, some (s.copyAt (coreIsland c.val) - l.equinox)) })) ∧
     (∀ late, (s.core c.val).armed = some (l, late) → (s.core c.val).phase = .idle → (s.core c.val).preempt = .live →
       l.equinox ≤ s.copyAt (coreIsland c.val) →
       ∃ t, exec (.launchStart c) s = .next t ∧ (t.core c.val).phase = .running ∧ (t.core c.val).pc = l.entry ∧
         (t.core c.val).rs 1 = l.args ∧ (t.core c.val).rs 2 = BitVec.ofNat 64 l.rank ∧
         (t.core c.val).rs 3 = BitVec.ofNat 64 l.size ∧ (∀ i, 3 < i → (t.core c.val).rs i = 0) ∧
         (t.core c.val).matrix = Machine.Matrix.zero ∧ (t.core c.val).icache = [] ∧ (t.core c.val).dcache = [] ∧
         (∀ j, j ≠ c.val → t.core j = s.core j) ∧ t.mem = s.mem)) ∧
  (∀ (c : CoreId) (s : State) (l : Launch),
     (s.core c.val).pendingLaunch = some l → (s.core c.val).phase = .idle → (s.core c.val).armed = none →
     (s.core c.val).preempt = .live → (s.core c.val).ctx = some l.part → (s.partition l.part).calm = true →
     l.equinox ≠ 0 → l.equinox + l.window < s.copyAt (coreIsland c.val) →
     exec (.launchArm c) s = .next (s.raise l.part
       (s.lateRecord (coreUnit c.val) (s.copyAt (coreIsland c.val)) l.equinox))) ∧
  (∀ (s : State),
     (∀ (sl : Fin 8) (st : Step), s.step? sl.val = some st → (∃ x ∈ s.xCopies, st.equinox ≤ x) →
       exec (.equinoxReached (.step sl)) s = .next (s.updItem st.part st.pos fun i => { i with started := true })) ∧
     (∀ (f : Fin 16) (q : Fc), s.fc? f.val = some q → (∃ x ∈ s.xCopies, q.equinox ≤ x) →
       exec (.equinoxReached (.forecast f)) s = .next (s.updItem q.part q.pos fun i => { i with started := true })) ∧
     (∀ c : CoreId, exec (.equinoxReached (.kernel c)) s = .next s) ∧
     (∀ (c : CoreId) (l : Launch), (s.core c.val).cur = some l → l.deadline < s.copyAt (coreIsland c.val) →
       s.wordFault c l.part = none → s.moves = true →
       exec (.deadlineMissed (.kernel c)) s = .next (s.raise l.part (s.deadlineRecord (coreUnit c.val)
         (s.copyAt (coreIsland c.val)) l.deadline l.equinox))) ∧
     (∀ (c : CoreId) (l : Launch) (late : Option Nat), (s.core c.val).cur = none → (s.core c.val).armed = some (l, late) →
       l.deadline < s.copyAt (coreIsland c.val) → s.wordFault c l.part = none → s.moves = true →
       exec (.deadlineMissed (.kernel c)) s = .next (s.raise l.part (s.deadlineRecord (coreUnit c.val)
         (s.copyAt (coreIsland c.val)) l.deadline l.equinox)))) ∧
  (∀ (c : CoreId) (s : State) (l : Launch),
     (s.core c.val).cur = some l → (s.core c.val).phase = .halting → (s.core c.val).preempt = .live →
     (∀ m ∈ (s.core c.val).mops, m.store = false) → (s.core c.val).dmas = [] →
     (s.core c.val).matrix.loadQ = [] → (s.core c.val).matrix.compQ = [] → s.copyAt (coreIsland c.val) ≤ l.deadline →
     exec (.kernelCompletion c) s = .next (((((s.updItem l.part l.pos fun i => i.coreDone (s.copyAt (coreIsland c.val))
       (s.core c.val).late (s.core c.val).mayVary).completions l.part).updCore c.val fun k =>
         { k.forget with phase := .idle, cur := none, late := none, mayVary := false, stopRegs := [] })).armLaunch c.val))

/-- A failure of dies, or of die-to-die modules, which is one of both dies that each joins, halts the package:
HALT_REFUSED with cause 0x0B and the lowest failing die, or 0x0D and the control die where one is among them (the
lower of both: log entry 105); STATE_CHANGE is pending and ALERT_N is the last thing sent. The die registers show a
failed control die, and a failed K0 takes firmware with it (01 R32, R35, R37, R39). QUIESCED counts as service does
(log entry 75). Supplies: an input or a rail out of range takes the package to HALT_REFUSED with cause POWER and the
DETAIL of its source, the main rails go off and the memory is lost (that it then reads as zero is the model's choice,
log entry 3); in OFF it has no effect. Excess input power does so only while the fast cut holds. A junction or a stack
at 105 °C, or the board, trips the package: HALT_REFUSED with cause THERMTRIP and the sensor as DETAIL, the rails off,
memory lost (as zero: log entry 3), and the latch set; with COLD_RST_N low THERMTRIP_N is driven and the latch set,
and the package stays in OFF. A latched or unpowered package does not trip again; a hot K0 or K1 stops its control
cores: its stewards, and on K0 firmware. References: the loss of a SerDes reference halts a start with cause 0x10, and
in operation fails its four dies; in OFF and HALT_REFUSED it changes only what the next start finds (the model's: log
entry 66). The host's reference returns with no other effect. Completion: it concludes that exec answers a next state,
that of the effect above, for dieFailed, controlDieFailed, thermtrip, vin48Undervoltage, vin48Overvoltage,
inputPowerExcess, railOutOfRegulation, refclkLoss, pcieRefclkReturn. -/
def Obligations.FailuresHaltThePackage : Prop :=
  (∀ (s : State), s.operational = true →
     (∀ (dies : List DieId) (modules : List ModuleRef) (l : List Nat),
       l = (dies.map (·.val)).filter (· < 38) ++ modules.flatMap ModuleRef.dies → l ≠ [] →
       ∃ t, exec (.dieFailed ⟨dies, modules⟩) s = .next t ∧ t.mgmt.state = .haltRefused ∧ t.mgmt.pending = true ∧
         t.out.head? = some .alertN ∧
         ((∀ d ∈ l, d < 38) → t.mgmt.causeCode = 0x0B ∧ t.mgmt.causeDetail = BitVec.ofNat 16 (lowest l)) ∧
         ((∃ d ∈ l, 38 ≤ d) → t.mgmt.causeCode = 0x0D ∧ t.mgmt.causeDetail = BitVec.ofNat 16 (lowest (l.filter (38 ≤ ·))) ∧
           (38 ∈ l → t.fw.up = false))) ∧
     (∀ k : Fin 2, ∃ t, exec (.controlDieFailed k) s = .next t ∧ t.mgmt.state = .haltRefused ∧
       t.mgmt.causeCode = 0x0D ∧ t.mgmt.causeDetail = BitVec.ofNat 16 (38 + k.val) ∧ t.dieFail = s.dieFail ||| (1#40 <<< (38 + k.val)) ∧
       t.dieOk = s.dieOk &&& ~~~(1#40 <<< (38 + k.val)) ∧ t.partitions = s.partitions ∧ (k = 0 → t.fw.up = false))) ∧
  (∀ (s : State) (c : Instr) (detail : Nat) (d : DieId) (st : StackId),
     (c, detail) ∈ [(Instr.vin48Undervoltage, 1), (.vin48Overvoltage, 2), (.inputPowerExcess, 3),
       (.railOutOfRegulation (.die d), 0x10 + d.val), (.railOutOfRegulation (.hbm st), 0x40 + st.val)] →
     (s.mgmt.state ≠ .off → (c = .inputPowerExcess → s.power.fastHold ≠ 0) → ∃ t, exec c s = .next t ∧
       t.mgmt.state = .haltRefused ∧ t.mgmt.causeCode = 0x0F ∧ t.mgmt.causeDetail = BitVec.ofNat 16 detail ∧
       t.mgmt.pending = true ∧ t.mgmt.mainRails = false ∧ t.mem = []) ∧
     (s.mgmt.state = .off → exec c s = .next s)) ∧
  (∀ (s : State) (src : TripSource),
     let detail := match src with
       | .die d => d.val
       | .stack st => 0x80 + st.val
       | .board => 0xFF
     (s.mgmt.standby = true → s.mgmt.pwrok = true → s.mgmt.coldRst = true → s.mgmt.thermLatch = false →
       ∃ t, exec (.thermtrip src) s = .next t ∧ t.mgmt.state = .haltRefused ∧ t.mgmt.causeCode = 0x0E ∧
         t.mgmt.causeDetail = BitVec.ofNat 16 detail ∧ t.mgmt.thermLatch = true ∧ t.mgmt.mainRails = false ∧ t.mem = [] ∧
         (detail = 38 → t.fw.up = false) ∧
         ∀ k, detail = 38 ∨ detail = 39 → stewardDie k = detail → (t.steward k).running = false) ∧
     (s.mgmt.standby = true → s.mgmt.pwrok = true → s.mgmt.coldRst = false → s.mgmt.thermLatch = false →
       ∃ t, exec (.thermtrip src) s = .next t ∧ t.mgmt.thermLatch = true ∧ t.mgmt.state = s.mgmt.state ∧
         (src ≠ .board → t.out = .thermtripN :: s.out) ∧ (detail = 38 → t.fw.up = false)) ∧
     (s.mgmt.standby = true → s.mgmt.pwrok = true → s.mgmt.thermLatch = true → exec (.thermtrip src) s = .next
       (if detail = 38 then (s.stopStewards 38).updFw fun f => { f with up := false, loaded := false }
       else if detail = 39 then s.stopStewards 39 else s)) ∧
     (s.mgmt.standby = false ∨ s.mgmt.pwrok = false → exec (.thermtrip src) s = .next s)) ∧
  (∀ (s : State) (w : Fin 2),
     (s.mgmt.state = .haltRefused ∨ s.mgmt.state = .off → exec (.refclkLoss w) s = .next (s.updMgmt fun m =>
       if w = 0 then { m with refclk0 := false } else { m with refclk1 := false })) ∧
     (s.mgmt.state ≠ .haltRefused → s.mgmt.state ≠ .off → ∃ t, exec (.refclkLoss w) s = .next t ∧ t.mgmt.state = .haltRefused ∧
       t.mgmt.causeCode = (if s.starting then 0x10 else 0x0B) ∧
       (s.starting = true → t.mgmt.causeDetail = BitVec.ofNat 16 w.val ∧ t.dieFail = s.dieFail) ∧
       (s.starting = false → ∀ i, i < 40 → t.dieFail.getLsbD i =
         (s.dieFail.getLsbD i || decide (30 + 4 * w.val ≤ i ∧ i < 34 + 4 * w.val)))) ∧
     exec .pcieRefclkReturn s = .next { s with mgmt := { s.mgmt with pcieClk := true } })

/-! ## Dies and Season (01, 02, 19) -/

/-- While the clocks of the main domain run (19 R605): the count-sync word with every island in step changes nothing;
one that finds an island 1 to 4 ticks ahead slews it back and counts the slip, and its copy does not step (02 R45,
R48; log entry 70); a PPS edge away from the tray master's part of the work records its time (log entry 106); TIMEREF
counts 10,000 edges; SEA_LINK_DELAY takes the mean of the exchanges that a port has had, rounded towards zero (02 R50;
the rounding is the model's choice, log entry 115). The lock state: HOLDOVER whose time is over ends in UNLOCKED,
which SEA_LOCK_EVENTS counts, and with no partition present nothing else changes; a beacon interval with no exchange
on a port counts a miss, and one with an exchange none. Completion: it concludes that exec answers a next state, that
of the effect above, for countSync, beaconIntervalEnd, holdoverEnd, linkDelayRefresh, ppsEdge, timerefCountCheck,
ppsEdgeLate. -/
def Obligations.SeasonFollowsItsInputs : Prop :=
  (∀ (s : State),
     (s.season.countSync = true → s.moves = true → s.season.islands = [] → exec (.countSync []) s = .next s) ∧
     (∀ (m : Int) (i : IslandRef), s.season.countSync = true → s.moves = true → s.season.islands = [] →
       IslandRef.no i ≠ k0Island → 0 < m → m ≤ 4 →
       ∃ t, exec (.countSync [(i, m)]) s = .next t ∧
         t.season.islands = [(IslandRef.no i, { off := 0, drift := m, slew := -m, lastSlew := s.season.lastSlew })] ∧
         t.season.islandSlips = satAdd s.season.islandSlips 1 ∧ t.mgmt = s.mgmt ∧ t.season.k0 = s.season.k0) ∧
     (s.ticks = true → s.season.role ≠ 2 → s.season.refPresent = false → s.season.timerefOk = false →
       exec .ppsEdge s = .next (s.updSeason fun z =>
         { z with ppsEdges := (s.time :: z.ppsEdges).take 4, refPresent := false })) ∧
     (∀ a rest, s.ticks = true → s.season.ppsEdges = a :: rest → a + 1000002000 < s.time → s.season.refPresent = false →
       exec .ppsEdgeLate s = .next (s.updSeason fun z => { z with ppsEdges := [], refPresent := false })) ∧
     (∀ edges : Nat, s.ticks = true → s.season.refPresent = false → s.season.ppsEdges = [] →
       exec (.timerefCountCheck edges) s = .next (s.updSeason fun z =>
         { z with timerefOk := decide (edges = 10000), refPresent := false })) ∧
     (s.ticks = true → ∀ n, n < 56 → (s.port n).beacon.exchanges ≠ 0 →
       ∃ t, exec .linkDelayRefresh s = .next t ∧
         Tab.get 0 t.season.linkDelay n =
           BitVec.ofInt 32 ((s.port n).beacon.delaySum.tdiv (s.port n).beacon.exchanges) ∧
         (t.port n).beacon.exchanges = 0 ∧ (t.port n).beacon.delaySum = 0)) ∧
  (∀ (s : State),
     (s.holdoverOver = true → s.livePartitions = [] →
       exec .holdoverEnd s = .next (s.updSeason fun z => z.setLock .unlocked)) ∧
     (∀ n : PortId, s.carries n.val = true → portRole n.val ≠ 2 → (s.port n.val).beacon.intervalExchange = true →
       ∃ t, exec (.beaconIntervalEnd n) s = .next t ∧ (t.port n.val).beacon.misses = 0 ∧
         (t.port n.val).beacon.intervalExchange = false ∧ (t.port n.val).beaconMiss = (s.port n.val).beaconMiss ∧
         t.season = s.season) ∧
     (∀ n : PortId, s.carries n.val = true → portRole n.val ≠ 2 → (s.port n.val).beacon.intervalExchange = false →
       (s.port n.val).beacon.misses < 3 →
       ∃ t, exec (.beaconIntervalEnd n) s = .next t ∧
         (t.port n.val).beacon.misses = (s.port n.val).beacon.misses + 1 ∧
         (t.port n.val).beaconMiss = satAdd (s.port n.val).beaconMiss 1 ∧ t.season = s.season))

/-! ## Ports (11) -/

/-- Slots on a framed port with no packet in progress: each is classed by its check word, and what the FEC decoder of
the port's mode says of its codewords is counted. A data flit and a stomped flit are orphans. A bad slot is counted as
a discard. A header flit with a reserved kind or bit is counted in FAB_PROTO_ERR, and a header of a packet with data,
on a port that is UP, opens it, and the channel's PSEQ is the packet's (11 R369, R376, R377, R379). The data flits of
a packet in progress join it in their order until its last. Completion: it concludes that exec answers a next state,
that of the effect above, for packet, dataFlit, stompedFlit, badSlot. -/
def Obligations.ReceivedFlitsAreAccounted : Prop :=
  (∀ (n : PortId) (s : State) (w : Slot), s.framed n.val = true → (s.port n.val).open_ = none →
     let s' := s.noteFec n.val w
     let f := w.flit
     (slotClass (s.port n.val).quick w = some 1 →
       exec (.dataFlit n w) s = .next (s'.updPort n.val fun p => { p with orphan := satAdd p.orphan 1 })) ∧
     (slotClass (s.port n.val).quick w = some 2 →
       exec (.stompedFlit n w) s = .next (s'.updPort n.val fun p => { p with orphan := satAdd p.orphan 1 })) ∧
     (slotClass (s.port n.val).quick w = none →
       exec (.badSlot n w) s = .next ((s'.updPort n.val fun p =>
         { p with crcDiscard := satAdd p.crcDiscard 1 }).noteLinkErrors n.val 1)) ∧
     (slotClass (s.port n.val).quick w = some 0 → kindOf f = 0 ∨ kindOf f > 5 → badLinkWord f = true →
       exec (.packet n w) s = .next (s'.updPort n.val fun p => { p with protoErr := satAdd p.protoErr 1 })) ∧
     (slotClass (s.port n.val).quick w = some 0 → s.carries n.val = true → kindOf f = 0 → badLinkWord f = false → dflitsOf f ≠ 0 →
       ∃ t o, exec (.packet n w) s = .next t ∧ (t.port n.val).open_ = some o ∧ o.header = f ∧ o.vc = vcIn f ∧
         o.expect = dflitsOf f ∧ o.flits = [] ∧ o.stomped = false ∧
         Tab.get 0 (t.port n.val).pseqRx (vcIn f) = BitVec.ofNat 16 (pseqIn f))) ∧
  (∀ (n : PortId) (s : State) (w : Slot) (o : OpenPkt), s.framed n.val = true → (s.port n.val).open_ = some o →
     o.forward = none → o.flits.length + 1 < o.expect →
     (slotClass (s.port n.val).quick w = some 1 → exec (.dataFlit n w) s = .next ((s.noteFec n.val w).updPort n.val fun p => { p with
       open_ := some { o with flits := o.flits ++ [w.flit] } })) ∧
     (slotClass (s.port n.val).quick w = some 2 → exec (.stompedFlit n w) s = .next ((s.noteFec n.val w).updPort n.val fun p => { p with
       open_ := some { o with flits := o.flits ++ [0], stomped := true } })))

/-- Link flits: an IDLE flit brings the sender's packet counts, and packets that the receiver has not seen count as
freed; a CREDIT flit brings the buffers that the receiver has freed, with which packets that wait leave, a BEACON the
peer's Season fields, a DISCOVERY flit the peer's identity (which makes a port in DISCOVERY with the right peer UP,
and counts a retrain in SERVICE), and a slot marker counts towards the three in a row that frame a stream, each 16,384
slots after the last. Beside that and the decoder's counts nothing else of the package changes, but for what a beacon
does to the choice of the Season source (11 R367, R374, R375, R386, R389, R393). What a port sends of its own: a
CREDIT flit when a count of freed buffers has changed, a BEACON whose sending time is kept, a DISCOVERY flit, and a
slot marker whose number rises by one. Nothing else of the package changes. Training: a port that loses lock, is told
to retrain, or sees a signal while DOWN goes to TRAINING, forgets its peer, its packet in progress and its packet
counts, and takes the division of its own buffers from FAB_CREDIT_CFG; in TRAINING markers are counted under the code
of either FEC mode; training that ends, once three markers have framed the stream under the mode in which it ends,
makes it DISCOVERY in that mode, with the credits that the far receiver's division gives, which comes with the command
(the model's choice, log entry 20), and this receiver's own division stays in force (11 R365 to R367, R373, R374); in
SERVICE with no partition a training that times out refuses service with cause 0x0C. Completion: it concludes that
exec answers a next state, that of the effect above, for idle, credit, beacon, discovery, marker, creditSend,
beaconSend, discoverySend, markerSend, loseLock, portTrainingDone, trainingTimeout, fastRetrainTimeout,
fabPortRetrain, peerSignalDetected. -/
def Obligations.LinksAreKept : Prop :=
  (∀ (n : PortId) (s : State) (w : Slot), (s.port n.val).open_ = none → badLinkWord w.flit = false →
     slotClass (s.port n.val).quick w = some 0 →
     let s' := s.noteFec n.val w
     let f := w.flit
     (s.carries n.val = true → kindOf f = 1 →
       ∃ t, exec (.idle n w) s = .next t ∧ t = { s' with ports := t.ports } ∧ (∀ m, m ≠ n.val → t.port m = s'.port m) ∧
         { t.port n.val with pseqRx := (s'.port n.val).pseqRx, freed := (s'.port n.val).freed } = s'.port n.val ∧
         ∀ vc, vc < 8 → let miss := countsOf f vc - Tab.get 0 (s.port n.val).pseqRx vc
           (miss.toNat < 32768 → Tab.get 0 (t.port n.val).pseqRx vc = countsOf f vc ∧
             Tab.get 0 (t.port n.val).freed vc = Tab.get 0 (s.port n.val).freed vc + miss) ∧
           (32768 ≤ miss.toNat → Tab.get 0 (t.port n.val).pseqRx vc = Tab.get 0 (s.port n.val).pseqRx vc ∧
             Tab.get 0 (t.port n.val).freed vc = Tab.get 0 (s.port n.val).freed vc)) ∧
     (s.carries n.val = true → kindOf f = 2 →
       ∃ freed : Table (BitVec 16), (∀ vc, vc < 8 → Tab.get 0 freed vc = countsOf f vc) ∧
         exec (.credit n w) s = .next ((s'.updPort n.val fun p => { p with peerFreed := freed }).freePort n.val 4096)) ∧
     (s.carries n.val = true → kindOf f = 2 → (∀ o ∈ s.fabric.outQ, o.port ≠ n.val) → (∀ m, (s.port m).open_ = none) →
       ∃ t, exec (.credit n w) s = .next t ∧ t = { s' with ports := t.ports } ∧ (∀ m, m ≠ n.val → t.port m = s'.port m) ∧
         { t.port n.val with peerFreed := (s'.port n.val).peerFreed } = s'.port n.val ∧
         ∀ vc, vc < 8 → Tab.get 0 (t.port n.val).peerFreed vc = countsOf f vc) ∧
     (∀ rx : BitVec 4, s.carries n.val = true → portRole n.val ≠ 2 → kindOf f = 3 →
       ffld f 6 15 15 = 0 → ffld f 33 7 3 = 0 → ffld f 35 7 2 = 0 → ffld f 36 15 15 = 0 →
       ∃ t, exec (.beacon n w rx) s = .next t ∧ t = { s' with ports := t.ports, season := t.season, baro := t.baro } ∧
         (∀ m, m ≠ n.val → t.port m = s'.port m) ∧
         { t.port n.val with beacon := (s'.port n.val).beacon } = s'.port n.val ∧
         (s.selfId = none → s.season.parent = none → t.season = s.season) ∧ (t.port n.val).beacon.heard = true ∧
         (t.port n.val).beacon.peerPriority = BitVec.ofNat 8 (ffld f 5 7 0) ∧
         (t.port n.val).beacon.peerMaster = BitVec.ofNat 15 (ffld f 6 14 0) ∧
         (t.port n.val).beacon.peerHops = BitVec.ofNat 8 (ffld f 34 7 0) ∧
         (t.port n.val).beacon.peerRole = BitVec.ofNat 2 (ffld f 35 1 0)) ∧
     (s.moves = true → (s.port n.val).state = .discovery → kindOf f = 4 →
       ffld f 4 15 12 = 0 → ffld f 4 7 6 = 0 → ffld f 6 14 11 = 0 →
       s.wired n.val (peerOf f) = true → s.samePeer n.val (peerOf f) = true →
       let again : Bool := s.inService && (s.port n.val).training.isSome
       ∃ t, exec (.discovery n w) s = .next t ∧ t = { s' with ports := t.ports, baro := t.baro } ∧
         (again = false → t.baro = s'.baro) ∧ (∀ m, m ≠ n.val → t.port m = s'.port m) ∧
         t.port n.val = { s'.port n.val with
           peer := some (peerOf f), peerIdent := BitVec.ofNat 64 (ffld f 16 63 0), state := .up, training := none, oldPeer := none
           retrains := satAdd (s.port n.val).retrains again.toNat }) ∧
     (∀ slots : Nat, s.framed n.val = true → kindOf f = 5 →
       exec (.marker n ⟨w, slots⟩) s = .next (s'.updPort n.val fun p =>
         { p with markersSeen := if slots = 16384 then min 3 (p.markersSeen + 1) else 1 }))) ∧
  (∀ (n : PortId) (s : State), s.portBusy n.val = false →
     (s.carries n.val = true → (∃ vc, vc < 8 ∧ Tab.get 0 (s.port n.val).freed vc ≠ Tab.get 0 (s.port n.val).freedSent vc) →
       exec (.creditSend n) s = .next ((s.emit (.flit n (s.creditFlit n.val) (checkWord (s.creditFlit n.val) 0))).updPort
         n.val fun p => { p with freedSent := (s.port n.val).freed })) ∧
     (∀ fr : BitVec 4, s.carries n.val = true → portRole n.val ≠ 2 → s.season.running = true →
       exec (.beaconSend n fr) s = .next ((s.emit (.flit n (s.beaconFlit n.val fr.toNat)
         (checkWord (s.beaconFlit n.val fr.toNat) 0))).updPort n.val fun p =>
           { p with beacon := { p.beacon with sent := (s.now * 16 + fr.toNat) :: p.beacon.sent } })) ∧
     (s.framed n.val = true → exec (.discoverySend n) s =
       .next (s.emit (.flit n (s.discoveryFlit n.val) (checkWord (s.discoveryFlit n.val) 0)))) ∧
     (s.framed n.val = true ∨ (s.moves = true ∧ (s.port n.val).state = .training) →
       let f := flitOf (leBytes 4 5 ++ leBytes 2 (s.port n.val).markerSeq.toNat ++ List.replicate 58 0xA5)
       exec (.markerSend n) s = .next ((s.emit (.flit n f (checkWord f 0))).updPort n.val fun p =>
         { p with markerSeq := p.markerSeq + 1 }))) ∧
  (∀ (n : PortId) (s : State),
     (∀ lanes : BitVec 4, s.framed n.val = true →
       ∃ t, exec (.loseLock ⟨n, lanes⟩) s = .next t ∧ (t.port n.val).state = .training ∧ (t.port n.val).peer = none ∧
         (t.port n.val).open_ = none ∧ (t.port n.val).pseqTx = [] ∧ (t.port n.val).pseqRx = [] ∧
         (t.port n.val).division = (s.port n.val).creditCfg ∧
         (t.port n.val).training = some (if s.mgmt.state = .coldStart then .full else .fast)) ∧
     (s.moves = true → (s.port n.val).enable = true →
       ∃ t, exec (.fabPortRetrain n) s = .next t ∧ (t.port n.val).state = .training ∧
         (t.port n.val).training = some .full ∧ (t.port n.val).retrain = true ∧ (t.port n.val).peer = none ∧
         (t.port n.val).division = (s.port n.val).creditCfg) ∧
     (s.moves = true → (s.port n.val).enable = true → (s.port n.val).state = .down →
       ∃ t, exec (.peerSignalDetected n) s = .next t ∧ (t.port n.val).state = .training ∧
         (t.port n.val).division = (s.port n.val).creditCfg ∧
         (t.port n.val).training =
           some (if s.mgmt.state = .coldStart ∨ (s.port n.val).savedCoeff = false then .full else .fast)) ∧
     (∀ (w : Slot) (slots : Nat), s.moves = true → (s.port n.val).state = .training →
       let seen (quick : Bool) (k : Nat) : Nat :=
         if slotClass quick w = some 0 ∧ kindOf w.flit = 5 ∧ badLinkWord w.flit = false then
           (if slots = 16384 then min 3 (k + 1) else 1) else 0
       exec (.marker n ⟨w, slots⟩) s = .next (s.updPort n.val fun p =>
         { p with markersSeen := seen false p.markersSeen, markersQuick := seen true p.markersQuick })) ∧
     (∀ (good peerQuick : Bool) (r : TrainReport), s.moves = true → (s.port n.val).state = .training →
       let quick := (s.port n.val).modeOf n.val good peerQuick r.optical
       3 ≤ (if quick then (s.port n.val).markersQuick else (s.port n.val).markersSeen) →
       ∃ t, exec (.portTrainingDone n good peerQuick r) s = .next t ∧ (t.port n.val).state = .discovery ∧
         (t.port n.val).quick = quick ∧ (t.port n.val).division = (s.port n.val).division ∧
         (t.port n.val).retrain = false ∧ (t.port n.val).laneLock = 15 ∧
         (t.port n.val).creditInForce = r.division ∧ (∀ m, m ≠ n.val → t.port m = s.port m) ∧
         t.fabric = s.fabric) ∧
     ((s.port n.val).state = .training → (s.port n.val).training = some .full → s.trainedFor n.val 2000000000 = true →
       s.mgmt.state = .service → s.livePartitions = [] →
       ∃ t, exec (.trainingTimeout n) s = .next t ∧ t.mgmt.state = .haltRefused ∧ t.mgmt.causeCode = 0x0C ∧
         t.mgmt.causeDetail = BitVec.ofNat 16 n.val) ∧
     ((s.port n.val).state = .training → (s.port n.val).training = some .fast → s.trainedFor n.val 10000000 = true →
       s.mgmt.state = .warmStart →
       ∃ t, exec (.fastRetrainTimeout n) s = .next t ∧ (t.port n.val).state = .training ∧
         (t.port n.val).training = some .full))

/-! ## Monsoon (06, 07) -/

/-- Arming: the first Monsoon entry of an active partition's ring that is not armed takes the lowest free slot. With
descriptors that pass the checks, a new (GROUP, STEP) pair, a slot map whose pools hold the rows and, in a Calm
partition, no X-die late beyond the window it was fetched with, its step is in that slot, nothing of it having arrived
or been scored, and the early packets of its pair are applied. A pair that is known raises the duplicate fault, which
aborts go out for, and arms nothing (06 R204, R242, R244). Nothing happens while a core window that is to be read, for
the descriptor, the slot map or a batch, is held (15 R508). A post of router input rows that belongs to an armed step
of the core's partition, is of the right length, lies within TOKENS and repeats no row writes its rows at ROUTER_IN +
FIRST × ROW_BYTES, records that they have arrived and completes a part of its tag; any other post raises ROUTE_POST,
which MON_LAST_FAULT notes, and records nothing (06 R208, R209, R248). Scoring: when the rows of an X-die's quarter
have arrived, its EQUINOX has been reached and no other step or Forecast request goes first, the die reads the step's
expert table, the quarter's rows are scored, their candidates' entries checked, and the choices join the step;
SCORE_BUSY rises. Completion: it concludes that exec answers a next state, that of the effect above, for
monsoonStepArm, routerInputPost, scoringStart. -/
def Obligations.MonsoonStepsAreArmedAndScored : Prop :=
  (∀ (p : PartId) (s s1 s2 : State) (i : Item) (sl : Nat) (bs map : Bytes),
     (s.partition p.val).state = .active →
     ((s.partition p.val).ring.items.find? fun i => i.type = .monsoon && !i.armed) = some i →
     s.freeStep = some sl → s.pairRoom = true → s.moves = true →
     (s.waitsFor p.val [(gLocal i.arg, 192)] = true → exec (.monsoonStepArm p) s = .next s) ∧
     (s.waitsFor p.val [(gLocal i.arg, 192)] = false →
     s.unitRead p.val (xUnit 0 uAdmitter) (gLocal i.arg) 192 = (.ok bs, s1) → s1.stepDescOk bs = true →
     (s1.pairKnown (stepDescOf bs).group (stepDescOf bs).step = false →
       s.waitsFor p.val [(loc (stepDescOf bs).slotMap, 8192)] = true → exec (.monsoonStepArm p) s = .next s) ∧
     (s1.pairKnown (stepDescOf bs).group (stepDescOf bs).step = false →
       s1.unitRead p.val (xUnit 0 uAdmitter) (loc (stepDescOf bs).slotMap) 8192 = (.ok map, s2) →
       s2.badPool p.val (stepDescOf bs)
         ((List.range 256).map fun n => (n, slotEntryOf ((map.drop (n * 32)).take 32))) = none →
       s.waitsFor p.val [(loc (stepDescOf bs).slotMap, 8192)] = false →
       s.waitsFor p.val ([0, 1, 2, 3].flatMap (s2.newStep i p.val (stepDescOf bs)
         ((List.range 256).map fun n => (n, slotEntryOf ((map.drop (n * 32)).take 32)))).batchAreas) = true →
       exec (.monsoonStepArm p) s = .next s) ∧
     (s1.pairKnown (stepDescOf bs).group (stepDescOf bs).step = false →
       s1.unitRead p.val (xUnit 0 uAdmitter) (loc (stepDescOf bs).slotMap) 8192 = (.ok map, s2) →
       s2.badPool p.val (stepDescOf bs)
         ((List.range 256).map fun n => (n, slotEntryOf ((map.drop (n * 32)).take 32))) = none →
       s.waitsFor p.val [(loc (stepDescOf bs).slotMap, 8192)] = false →
       s.waitsFor p.val ([0, 1, 2, 3].flatMap (s2.newStep i p.val (stepDescOf bs)
         ((List.range 256).map fun n => (n, slotEntryOf ((map.drop (n * 32)).take 32)))).batchAreas) = false →
       ((s2.partition p.val).calm = false ∨ s2.lateDie i.equinox i.window = none) →
       exec (.monsoonStepArm p) s = .next (({ s2 with steps := Tab.put s2.steps sl (s2.newStep i p.val (stepDescOf bs)
         ((List.range 256).map fun n => (n, slotEntryOf ((map.drop (n * 32)).take 32)))) }.updItem p.val i.pos fun i =>
           { i with armed := true, slot := sl }).applyEarly sl 4096)) ∧
     (s1.pairKnown (stepDescOf bs).group (stepDescOf bs).step = true →
       ∃ r : FaultRec, r.code = 0x0311 ∧ r.d0 = i.arg ∧
         exec (.monsoonStepArm p) s = .next ((s1.raisePair p.val 0 (stepDescOf bs).group (stepDescOf bs).step
           (stepDescOf bs).digest r).applyEarly sl 4096)))) ∧
  (∀ (c : CoreId) (tag : Fin 32) (s : State) (d : Dma), (s.core c.val).dma? tag.val = some d → d.op = 0x10 →
     d.left ≠ 0 → d.fault = none → (s.core c.val).drains = true →
     (∀ sl st s1,
       s.steps.find? (fun e => !e.2.faulted && e.2.part = s.corePart c.val && e.2.desc = d.ga.toNat) = some (sl, st) →
       State.postRefused d (s.post c.val d).1 (s.post c.val d).2 st = false →
       s.waitsFor (s.corePart c.val)
         [(loc st.d.routerIn + (s.post c.val d).1 * st.d.rowBytes, (s.post c.val d).2 * st.d.rowBytes)] = false →
       s.writeMem (s.partition (s.corePart c.val)).job (loc st.d.routerIn + (s.post c.val d).1 * st.d.rowBytes)
         (memRead s.mem (spBase c.val + d.so.toNat + 64) ((s.post c.val d).2 * st.d.rowBytes)) = (.ok (), s1) →
       exec (.routerInputPost c tag) s = .next ((s1.updStep sl fun st =>
         { st with arrived := st.arrived ++ (List.range (s.post c.val d).2).map ((s.post c.val d).1 + ·) }).updCore c.val
           fun k => k.updDma tag.val Dma.partDone)) ∧
     (∀ sl st, s.steps.find? (fun e => !e.2.faulted && e.2.part = s.corePart c.val && e.2.desc = d.ga.toNat) = some (sl, st) →
       State.postRefused d (s.post c.val d).1 (s.post c.val d).2 st = true →
       let s' := s.noteMonFault 0 st.d.step 0x0307
       exec (.routerInputPost c tag) s = .next (s'.raise (s.corePart c.val)
         { s'.recordOpen 0x0307 (xUnit 0 uAdmitter) d.ga with d0 := d.word })) ∧
     (s.steps.find? (fun e => !e.2.faulted && e.2.part = s.corePart c.val && e.2.desc = d.ga.toNat) = none →
       let s' := s.draw.2.noteMonFault 0 (BitVec.ofNat 16 s.draw.1) 0x0307
       exec (.routerInputPost c tag) s = .next (s'.raise (s.corePart c.val)
         { s'.recordOpen 0x0307 (xUnit 0 uAdmitter) d.ga with d0 := d.word }))) ∧
  (∀ (sl : Fin 8) (x : XDie) (s s1 s2 s3 : State) (st : Step) (t : List ExpertEntry) (l : List (Nat × Cands)),
     s.step? sl.val = some st → s.mayScore x.val st = true → s.stageFirst st (s.mayScore x.val) = true →
     s.fcFirst x.val st.equinox st.seq = false → s.waitsFor st.part (st.d.scoreAreas x.val) = false →
     s.tableRead st x.val = (.ok t, s1) → let st' := { st with entries := Tab.put st.entries x.val t }
     s1.scoreQuarter st' x.val = (.ok l, s2) → s2.checkCands st' x.val l = (.ok (), s3) →
     exec (.scoringStart sl x) s = .next ((s3.draw.2.updXdie x.val fun d =>
       { d with scoreBusy := satAdd d.scoreBusy s3.draw.1 }).updStep sl.val fun _ =>
         st'.addQuarter s3.draw.2.self x.val l))

/-- The candidates of a row are the experts with the K + SPARES highest scores, each score the logit plus its bias,
the highest first, and of equal scores the lower expert first; a NaN ranks above every other score (the model's
choice, log entry 30), so that a NaN among the scores is picked and named; GATE_NONFINITE is raised exactly where the
logit, the score or the gate weight of one of them is not finite, and names the first such one. -/
def Obligations.SelectionTakesTheHighestScores : Prop := ∀ (s : State) (st : Step) (x row : Nat) (bias logits : List Nat) (l : Cands),
    let scores := logits.mapIdx fun e v => (fp32.add v (bias.getD e 0)).1
    let picked := topExperts scores (st.d.k + st.d.spares)
    let gates := gatesOf st.d.gate st.d.k (picked.map fun e => logits.getD e 0)
    let bad (c : Nat × BitVec 16) : Bool :=
      nonFinite fp32 (logits.getD c.1 0) || nonFinite fp32 (scores.getD c.1 0) || nonFinite bf16 c.2.toNat
    (∀ e, (picked.zip gates).find? bad = some e → s.selectRow st x bias row logits =
      .error (s.stepRecord st x uSelector 0x0304 (st.d.tokenBase + row) e.1)) ∧
    ((∀ e ∈ picked.zip gates, bad e = false) → ∃ l, s.selectRow st x bias row logits = .ok l) ∧
    (s.selectRow st x bias row logits = .ok l →
    l.length = min (st.d.k + st.d.spares) logits.length ∧ (l.map (·.1)).Nodup ∧
    (∀ c ∈ l, c.1 < logits.length ∧ nonFinite fp32 (logits.getD c.1 0) = false ∧
      nonFinite fp32 (scores.getD c.1 0) = false ∧ nonFinite bf16 c.2.toNat = false) ∧
    (l.Pairwise fun a b => scoreLe (scores.getD a.1 0) (scores.getD b.1 0) = true ∧
      (scoreLe (scores.getD b.1 0) (scores.getD a.1 0) = true → a.1 < b.1)) ∧
    (∀ c ∈ l, ∀ e, e < logits.length → e ∉ l.map (·.1) → scoreLe (scores.getD c.1 0) (scores.getD e 0) = true))

/-- A round's counts: one packet from each X-die to each member, and the step then waits for a prefix packet from
every host die of which it asked something; a step that asks for nothing ends its round at once. No other step may go
first (06 R222, R245). A packet of the exchange port for an armed step leaves its buffer and is acknowledged. A count
packet of another digest raises the divergence fault; one of the right digest whose records the slots accept joins the
step's counts, and once it is the last of its round the host die takes its buffers and answers with prefixes. A prefix
packet that the step waits for joins its prefixes, and the last one ends the round. An abort raises PEER_ABORT with
the code it brings. A packet of the exchange port whose pair is remembered is acknowledged and discarded; one whose
pair is neither armed nor remembered is kept in the early store and acknowledged while the store has fewer than 1,024
packets, and with a full store it gets no answer. Completion: it concludes that exec answers a next state, that of the
effect above, for countRoundStart, countPacket, prefixPacket, abortPacket. -/
def Obligations.CapacityRoundsExchange : Prop :=
  (∀ (sl : Fin 8) (s : State) (st : Step), s.step? sl.val = some st → st.scored.length = 4 → st.countsSent = false →
     st.admitted = false → s.stageFirst st Step.mayCount = true → s.waitsFor st.part st.d.resultAreas = false →
     let pairs := [0, 1, 2, 3].flatMap fun x => st.members.map fun m => (x, m)
     let sent := pairs.foldl (fun s e => s.sendCounts sl.val st e.1 e.2) s
     let wait := (pairs.filter fun e => st.asks e.2 e.1).map fun e => (st.round, e.2, e.1)
     let st' := { st with countsSent := true, prefixFrom := wait }
     (wait ≠ [] → exec (.countRoundStart sl) s = .next (sent.updStep sl.val fun _ => st')) ∧
     (wait = [] → exec (.countRoundStart sl) s = .next ((sent.updStep sl.val fun _ => st').endRound sl.val st'))) ∧
  (∀ (x : XDie) (k : Pkt) (data : Bytes) (s : State) (e : Nat × Nat × Flit × Bytes) (sl : Nat) (st : Step),
     s.operational = true → s.findRx k data = some e → monPacket k (exchangePort x.val) →
     let d := e.2.2.2.take k.length.toNat
     let round := fld (field d 0 8) 29 28
     let acked := (s.takeRx e).reply k 0x81 0 0 []
     (s.takeRx e).stepOf (BitVec.ofNat 12 (fld (field d 0 8) 27 16)) (BitVec.ofNat 16 (field d 0 2)) = some (sl, st) →
     fld (field data 0 8) 31 30 = fld (field d 0 8) 31 30 →
     (s.takeRx e).waitsFor st.part (st.batchAreas x.val ++ st.d.resultAreas) = false →
     (fld (field d 0 8) 31 30 = 0 → st.countFrom.contains (round, x.val, k.src) = false → st.members.contains k.src = true →
       (BitVec.ofNat 64 (field d 8 8) ≠ st.digest → exec (.countPacket x k data) s =
         .next (acked.raiseStep st x.val (acked.stepRecord st x.val uAdmitter 0x0305 k.src.toNat 0xFFFF))) ∧
       (∀ recs, BitVec.ofNat 64 (field d 8 8) = st.digest →
         recs = (if bit (field d 0 8) 32 then [] else countRecs round x.val k.src d) → recs.find? st.countBad = none →
         let st' := { st with countFrom := (round, x.val, k.src) :: st.countFrom, counts := st.counts ++ recs }
         exec (.countPacket x k data) s = .next (if st'.countsIn round x.val
           then (acked.updStep sl fun _ => st').hostRound sl x.val round else acked.updStep sl fun _ => st'))) ∧
     (fld (field d 0 8) 31 30 = 1 → st.prefixFrom.contains (round, k.src, x.val) = true →
       let st' := { st with
         prefixFrom := st.prefixFrom.erase (round, k.src, x.val)
         prefixes := st.prefixes ++ (List.range 64).map fun j => (round, k.src, 4 * j + x.val, field d (32 + 2 * j) 2) }
       exec (.prefixPacket x k data) s = .next (if st'.prefixFrom.isEmpty
         then (acked.updStep sl fun _ => st').endRound sl st' else acked.updStep sl fun _ => st')) ∧
     (fld (field d 0 8) 31 30 = 2 → st.complete = false →
       let s' := acked.updStep sl fun st => { st with abort := some (field d 16 2) }
       exec (.abortPacket x k data) s =
         .next (s'.raiseStep st x.val (s'.stepRecord st x.val uAdmitter 0x0306 k.src.toNat (field d 16 2))))) ∧
  (∀ (x : XDie) (k : Pkt) (data : Bytes) (s : State) (e : Nat × Nat × Flit × Bytes),
     s.operational = true → s.findRx k data = some e → monPacket k (exchangePort x.val) →
     fld (field data 0 8) 31 30 = 0 →
     let d := e.2.2.2.take k.length.toNat
     let u := s.takeRx e
     let group : BitVec 12 := BitVec.ofNat 12 (fld (field d 0 8) 27 16)
     let step : BitVec 16 := BitVec.ofNat 16 (field d 0 2)
     u.stepOf group step = none →
     (u.pairKnown group step = true → exec (.countPacket x k data) s = .next (u.reply k 0x81 0 0 [])) ∧
     (u.pairKnown group step = false →
       ((u.xdie x.val).early.any fun e => e.1.src = k.src && e.1.srcUnit = k.srcUnit && e.2 = d) = false →
       ((u.xdie x.val).early.length < 1024 → exec (.countPacket x k data) s = .next ((u.updXdie x.val fun y =>
         { y with early := y.early ++ [(k, d)], earlyHigh := max y.earlyHigh (y.early.length + 1) }).reply k 0x81 0 0 [])) ∧
       (1024 ≤ (u.xdie x.val).early.length → exec (.countPacket x k data) s = .next u)))

/-- The dispatcher: the next admitted choice of its die goes out as the packets of its row's encoded form, the first
of a destination to port page 0 and the following ones alternating, and is marked as sent. Writes to the dispatch and
return ports: the packet leaves its buffer; what the receiver or the combiner takes is acknowledged with OK, and what
it cannot take yet with BUSY; a chunk of a step that is not armed is acknowledged, and at the return port is discarded
or raises RETURN_INVALID with reason 1 (07 R264, R276; log entries 33, 34). A batch whose rows are all there, its slot
hosted and its round the last, with no other step to go first (06 R245), writes its record (rows, buffers, stride) and
adds 1 to the slot's semaphore. Completion: it concludes that exec answers a next state, that of the effect above, for
dispatchChoice, dispatchPortWrite, batchComplete, returnPortWrite. -/
def Obligations.RowsAreDispatchedAndReceived : Prop :=
  (∀ (sl : Fin 8) (x : XDie) (s s1 : State) (st : Step) (c : Choice) (r : Nat) (bs : Bytes),
     s.step? sl.val = some st → st.nextChoice s.self x.val = some c → c.state = .admitted r →
     s.stageFirst st (Step.mayDispatch x.val) = true →
     s.waitsFor st.part [(loc st.d.routerIn + c.row * st.d.rowBytes, st.d.rowBytes)] = false →
     s.unitRead st.part (xUnit x.val uDispatcher) (loc st.d.routerIn + c.row * st.d.rowBytes) st.d.rowBytes = (.ok bs, s1) →
     let n := Tab.get 0 st.sentTo (x.val * 65536 + c.pkg.toNat)
     let enc := encodeRow st.d.fmtIn.toNat st.d.width bs
     let sent := (rowPackets (st.dispatchHead s1.self c r enc.2.length) enc.1 enc.2).foldl (fun s d =>
       s.newXact (monWrite c.pkg (xUnit x.val uDispatcher) (dispatchPort (c.slot % 4) + n % 2 * 64) d) d
         (.monsoon sl.val) st.part) s1
     exec (.dispatchChoice sl x) s = .next ((sent.draw.2.updXdie x.val fun d => { d with
         choicesOut := satAdd d.choicesOut 1, dispatchStall := satAdd d.dispatchStall sent.draw.1 }).updStep sl.val
       fun st => { st with
         sentTo := Tab.put st.sentTo (x.val * 65536 + c.pkg.toNat) (n + 1)
         choices := st.choices.map fun y => if y.row = c.row ∧ y.rank = c.rank then { y with sent := true } else y })) ∧
  (∀ (x : XDie) (k : Pkt) (data : Bytes) (s : State) (e : Nat × Nat × Flit × Bytes), s.operational = true →
     s.findRx k data = some e →
     let h := chunkHead (e.2.2.2.take k.length.toNat)
     let u := s.takeRx e
     (monPacket k (dispatchPort x.val) →
       (u.stepOf h.group (tagStep h.tag) = none → exec (.dispatchPortWrite x k data) s = .next (u.reply k 0x81 0 0 [])) ∧
       (∀ sl st, u.stepOf h.group (tagStep h.tag) = some (sl, st) →
         u.waitsFor st.part ((u.batchRow st h.slot h.row).map fun a => (a, st.d.rowStride)).toList = false →
         (∀ t, u.onDispatch sl x.val st h = some t → exec (.dispatchPortWrite x k data) s = .next (t.reply k 0x81 0 0 [])) ∧
         (u.onDispatch sl x.val st h = none → exec (.dispatchPortWrite x k data) s = .next (u.reply k 0x81 6 0 [])))) ∧
     (monPacket k (returnPort x.val) →
       (u.stepOf h.group (tagStep h.tag) = none →
         exec (.returnPortWrite x k data) s = .next ((u.strayReturn x.val k h).reply k 0x81 0 0 [])) ∧
       (∀ sl st, u.stepOf h.group (tagStep h.tag) = some (sl, st) →
         u.waitsFor st.part
           [(st.d.stageAt (tagToken h.tag - st.d.tokenBase) (tagRank h.tag), st.d.sstride)] = false →
         (∀ t, u.onReturn sl x.val st h = some t → exec (.returnPortWrite x k data) s = .next (t.reply k 0x81 0 0 [])) ∧
         (u.onReturn sl x.val st h = none → exec (.returnPortWrite x k data) s = .next (u.reply k 0x81 6 0 []))))) ∧
  (∀ (sl : Fin 8) (slot : Fin 256) (s s1 : State) (st : Step), s.step? sl.val = some st →
     let e := Tab.get ⟨0, false, 0, 0, 0⟩ st.slots slot.val
     e.valid = true → st.nFinal.contains (slot.val % 4) = true → st.batchDone.contains slot.val = false →
     (∀ r, r < st.batchRows slot.val → st.rxRows.contains (slot.val, r) = true) →
     s.stageFirst st (Step.mayComplete (slot.val % 4)) = true → s.waitsFor st.part [(loc e.batch, 64)] = false →
     s.unitWrite st.part (xUnit (slot.val % 4) uReceiver) (loc e.batch) (leBytes 4 (st.batchRows slot.val) ++
       leBytes 4 (Tab.get [] st.buffers slot.val).length ++ leBytes 4 st.d.rowStride ++ zeros 52) = (.ok (), s1) →
     exec (.batchComplete sl slot) s = .next ((s1.updStep sl.val fun st =>
       { st with batchDone := slot.val :: st.batchDone }).semAdd st.part e.sem 1 (xUnit (slot.val % 4) uReceiver)))

/-- Returns: a launched return of a complete batch starts; its next row, with a tag of the step, is sent as the
packets of its encoded form to the token's source; a tag that the step refuses raises RETURN_TAG and sends nothing. A
row whose admitted choices have all been staged is combined into its stage row and, where STATUS is given, its status
byte is written. A step with every row combined and every hosted batch returned, no later than its deadline, is
complete: its pair is remembered with the tick, and it commits by copying each stage row to its output row, freeing
its slot, finishing its entry and, where COMBINE_SEM asks for it, adding 1 to that semaphore. The oldest pair is
forgotten after 1,000,000 ticks, while the clocks of the X-dies run. Completion: it concludes that exec answers a next
state, that of the effect above, for stepPairExpiry, returnStart, returnRowSend, tokenCombine, stepComplete,
stepCommitDone. -/
def Obligations.ResultsReturnAndCommit : Prop :=
  (∀ (sl : Fin 8) (slot : Fin 256) (s : State) (st : Step) (v : Nat × Nat × Nat × Nat), s.step? sl.val = some st →
     Tab.get? st.returns slot.val = some v →
     (st.batchDone.contains slot.val = true → Tab.get? st.returning slot.val = none →
       exec (.returnStart sl slot) s = .next ((s.updStep sl.val fun st =>
         { st with returning := Tab.put st.returning slot.val (0, 0) }).endReturn sl.val slot.val)) ∧
     (∀ row left at_ s1 tb, Tab.get? st.returning slot.val = some (row, left) → row < st.batchRows slot.val →
       s.stageFirst st (Step.mayDispatch (slot.val % 4)) = true → s.batchRow st slot.val row = some at_ →
       s.waitsFor st.part [(at_, 16), (v.2.1 + row * v.2.2.1, st.d.width * retSize v.2.2.2)] = false →
       s.unitRead st.part (xUnit (slot.val % 4) uDispatcher) at_ 16 = (.ok tb, s1) →
       let t : BitVec 128 := BitVec.ofNat 128 (leNat tb)
       let unit := xUnit (slot.val % 4) uDispatcher
       (st.badTag t = true → exec (.returnRowSend sl slot) s = .next (s1.raiseStep st (slot.val % 4)
         (s1.stepRecord st (slot.val % 4) uDispatcher 0x030B slot.val row))) ∧
       (∀ s2 bs, st.badTag t = false →
         s1.unitRead st.part unit (v.2.1 + row * v.2.2.1) (st.d.width * retSize v.2.2.2) = (.ok bs, s2) →
         let enc := encodeRow v.2.2.2 st.d.width bs
         let ps := rowPackets (st.returnHead t row slot.val v.2.2.2 enc.2.length) enc.1 enc.2
         exec (.returnRowSend sl slot) s = .next ((ps.foldl (fun s d => s.newXact (monWrite (tagSource t) unit
           (returnPort (tagToken t % 4)) d) d (.ret sl.val slot.val) st.part) s2).updStep sl.val fun st =>
             { st with returning := Tab.put st.returning slot.val (row + 1, left + ps.length) })))) ∧
  (∀ (sl : Fin 8) (row : Nat) (s s1 s2 s3 : State) (st : Step) (l : List (BitVec 16 × Bytes)), s.step? sl.val = some st →
     row < st.d.tokens → st.combined.contains row = false → st.ready row = true →
     s.stageFirst st (Step.mayCombine ((st.d.tokenBase + row) % 4)) = true →
     s.waitsFor st.part [(st.d.stageAt row 0, st.d.k * st.d.sstride),
       (loc st.d.status + row, (decide (st.d.status ≠ 0)).toNat)] = false →
     let unit := xUnit ((st.d.tokenBase + row) % 4) uCombiner
     tryList (fun (c : Choice) s => tryThen (s.unitRead st.part unit (st.d.stageAt row c.rank)
       (st.d.width * retSize st.d.retFmt.toNat)) fun bs s => (.ok (c.gate, bs), s)) (st.admittedOf row) s = (.ok l, s1) →
     s1.unitWrite st.part unit (st.d.stageAt row 0) (st.combineRow (s1.partition st.part).calm l) = (.ok (), s2) →
     (if st.d.status = 0 then (.ok (), s2)
       else s2.unitWrite st.part unit (loc st.d.status + row) [st.statusByte row]) = (.ok (), s3) →
     exec (.tokenCombine sl row) s = .next (s3.updStep sl.val fun st => { st with combined := row :: st.combined })) ∧
  (∀ (s : State),
     (∀ (sl : Fin 8) (st : Step), s.step? sl.val = some st → st.complete = false → st.finished = true →
       s.xNow 0 ≤ st.deadline →
       exec (.stepComplete sl) s = .next ((s.updStep sl.val fun st =>
         { st with complete := true, doneAt := s.xNow 0 }).rememberPair st.d.group st.d.step)) ∧
     (∀ (sl : Fin 8) (st : Step) (s1 : State) (l : List Unit), s.step? sl.val = some st → st.complete = true →
       s.stageFirst st (·.complete) = true →
       s.waitsFor st.part ((List.range st.d.tokens).flatMap fun i =>
         [(st.d.stageAt i 0, st.d.outBytes), (st.d.outRow i, st.d.outBytes)]) = false →
       tryList (fun i s =>
         tryThen (s.unitRead st.part (xUnit ((st.d.tokenBase + i) % 4) uCombiner) (st.d.stageAt i 0) st.d.outBytes)
           fun bs s => s.unitWrite st.part (xUnit ((st.d.tokenBase + i) % 4) uCombiner) (st.d.outRow i) bs)
         (List.range st.d.tokens) s = (.ok l, s1) →
       let t := { s1 with steps := Tab.del s1.steps sl.val }.finishItem st.part st.pos st.doneAt st.late
       exec (.stepCommitDone sl) s = .next (if st.d.combineSem.getLsbD 7
         then t.semAdd st.part (st.d.combineSem.toNat % 64) 1 (xUnit 0 uAdmitter) else t)) ∧
     (∀ g st t rest, s.pairs = (g, st, t) :: rest →
       exec .stepPairExpiry s = .next (if t + 1000000 ≤ s.now ∧ s.moves = true then { s with pairs := rest } else s)))

/-! ## Forecast (08) -/

/-- A Forecast request is armed in the lowest free slot when its descriptor passes the checks (a refused one raises
FORECAST_DESC with the descriptor's address and takes no slot); at its EQUINOX it reads its pins and starts; and when
its last list has been written no later than its deadline, its slot frees, FC_REQUESTS rises, its entry finishes and,
where SEM asks for it, that semaphore rises by 1. A late one is refused in Calm by the unit of the die that finds it
late. All while the X-dies' clocks run (19 R605). A segment: each row keeps its KSEG best candidates, the counters
rise by the candidates scored, and the segment is done. A list: its entries are written in rising order of block, then
its header; lists counts it, and the request's phase follows from what is left to score and to write. Of the requests
that may assemble, the one of the lowest EQUINOX and of these the first armed writes its list (08 R285, 06 R245).
Completion: it concludes that exec answers a next state, that of the effect above, for forecastArm, forecastStart,
forecastSegment, forecastListAssembly, forecastComplete. -/
def Obligations.ForecastRequestsRun : Prop :=
  (∀ (s s1 : State) (sl : Nat) (bs : Bytes),
     (∀ (p : PartId) (i : Item), (s.partition p.val).state = .active → s.moves = true →
       ((s.partition p.val).ring.items.find? fun i => i.type = .forecast && !i.armed) = some i →
       ((List.range 16).find? fun i => (Tab.get? s.forecasts i).isNone) = some sl →
       s.waitsFor p.val [(gLocal i.arg, 128)] = false →
       s.unitRead p.val (fcUnit 0) (gLocal i.arg) 128 = (.ok bs, s1) →
       (s1.fcDescOk bs = false → exec (.forecastArm p) s = .next (s1.raise p.val (s1.fcRecord 0 0x030D i.arg.toNat))) ∧
       (∀ x, s1.fcDescOk bs = true → (s1.partition p.val).calm = true → s1.lateDie i.equinox i.window = some x →
         exec (.forecastArm p) s = .next (s1.raise p.val (s1.lateRecord (fcUnit x) (s1.xNow x) i.equinox))) ∧
       (s1.fcDescOk bs = true → ((s1.partition p.val).calm = false ∨ s1.lateDie i.equinox i.window = none) →
         ∃ f : Fc, f.part = p.val ∧ f.pos = i.pos ∧ f.d = fcDescOf bs ∧ f.equinox = i.equinox ∧ f.deadline = i.deadline ∧
           f.phase = 1 ∧ f.scored = [] ∧ f.lists = 0 ∧
           exec (.forecastArm p) s = .next ({ s1 with forecasts := Tab.put s1.forecasts sl f }.updItem p.val i.pos
             fun i => { i with armed := true, slot := sl }))) ∧
     (∀ (n : Fin 16) (f : Fc), s.fc? n.val = some f → f.phase = 1 → f.equinox ≤ s.xNow 0 →
       s.waitsFor f.part [(loc f.d.pins, 4 * f.d.pinCount)] = false →
       s.unitRead f.part (fcUnit 0) (loc f.d.pins) (4 * f.d.pinCount) = (.ok bs, s1) →
       badPin f.d.nblk ((List.range f.d.pinCount).map fun i => field bs (4 * i) 4) = none →
       exec (.forecastStart n) s = .next ((s1.updItem f.part f.pos fun i => { i with started := true }).updFc n.val
         fun f => Fc.settle { f with
           phase := 2
           pinList := (List.range f.d.pinCount).map fun i => field bs (4 * i) 4 })) ∧
     (∀ (n : Fin 16) (f : Fc), s.fc? n.val = some f → f.phase = 4 →
       s.xNow 0 ≤ f.deadline →
       let t := { s with forecasts := Tab.del s.forecasts n.val, fcRequests := satAdd s.fcRequests 1 }.finishItem
         f.part f.pos (s.xNow 0) f.late
       exec (.forecastComplete n) s = .next (if f.d.sem.getLsbD 7
         then t.semAdd f.part (f.d.sem.toNat % 64) 1 (fcUnit 0) else t))) ∧
  (∀ (n : Fin 16) (s s1 s2 : State) (f : Fc), s.fc? n.val = some f →
     (∀ (x : XDie) h g rest pb sc, f.equinox ≤ s.xNow x.val → f.todo x.val = (h, g) :: rest → s.fcFirst x.val f.equinox f.seq = false →
       (∀ e ∈ s.steps, e.2.faulted = false → s.mayScore x.val e.2 = true →
         f.equinox < e.2.equinox ∨ (f.equinox = e.2.equinox ∧ f.seq ≤ e.2.seq)) →
       s.waitsFor f.part (f.segAreas h g) = false →
       s.unitRead f.part (fcUnit x.val) (loc f.d.probes + h * f.d.rows * 128) (f.d.rows * 128) = (.ok pb, s1) →
       tryList (fun b s => s.fcCand x.val f h ((List.range f.d.rows).map fun r =>
         fcVals f.d.fmt.toNat ((pb.drop (r * 128)).take 128)) b) (f.cands g) s1 = (.ok sc, s2) →
       ∃ t, exec (.forecastSegment n x) s = .next t ∧ t.mem = s2.mem ∧
         (t.xdie x.val).scoreBusy = satAdd (s2.xdie x.val).scoreBusy s2.draw.1 ∧
         t.fcScored = satAdd s2.fcScored (f.cands g).length ∧
         ∀ f', Tab.get? s2.forecasts n.val = some f' → ∃ q, Tab.get? t.forecasts n.val = some q ∧
           q.scored = (h, g) :: f'.scored ∧ q.kept = f'.kept ++ (List.range f.d.rows).flatMap (fun r =>
             (fcTop f.d.kseg ((f.cands g).zip (sc.map fun l => l.getD r 0))).map fun e => (h, r, e.1, BitVec.ofNat 32 e.2))) ∧
     (∀ h r l, f.mayAssemble = true → 0 < f.d.rows → h = f.lists / f.d.rows → r = f.lists % f.d.rows →
       (∀ e ∈ s.forecasts, e.2.mayAssemble = true → f.after e.2 = false) →
       s.waitsFor f.part (f.listAreas (loc f.d.out + (h * f.d.rows + r) * f.d.outStride) h r) = false →
       tryList (fun (e : Nat × Nat × Bool × Bool) s =>
         s.fcEntry f (loc f.d.out + (h * f.d.rows + r) * f.d.outStride) h e.1 e.2)
         ((List.range (f.selected h r).length).zip (f.selected h r)) s = (.ok l, s1) →
       s1.unitWrite f.part (fcUnit 0) (loc f.d.out + (h * f.d.rows + r) * f.d.outStride) (f.header h r) = (.ok (), s2) →
       exec (.forecastListAssembly n) s = .next (s2.updFc n.val fun f =>
         Fc.settle { f with lists := f.lists + 1 })))

/-! ## Buffer pools (09) -/

/-- Allocation for a core or steward core of an ACTIVE partition: the newest index of the cache leaves it once its
state bit is set and its count is 1, BPM_ALLOCS counts it, and the answer is the buffer's global address; an empty
pool answers 0x8000000000000001 and BPM_EMPTY counts it; a pool that does not exist raises POOL_UNDEFINED. Reference
counts, for the owner or a partition that holds the pool's grant: INCR and DECR of a count between 1 and the largest
change it by one; a DECR of 1 clears the buffer's bit and frees its index, where the cache has room; a count of 0,
another partition's pool and an address that begins no buffer raise their faults and change no count. GRANT sets the
pool's mask without the owner's own bit. The free ring: a cache of fewer than 128 indices takes up to 64 from the
ring's head, and one of more than 448 gives its 64 oldest to the ring's tail, while the X-dies' clocks run (19 R605);
the number of free buffers does not change. Their order in the cache is log entry 16. Completion: it concludes that
exec answers a next state, that of the effect above, for bpmAlloc, bpmIncr, bpmDecr, bpmGrant, bpmCacheRefill,
bpmCacheWriteback. -/
def Obligations.PoolsKeepTheirBuffers : Prop :=
  (∀ (a : Agent) (q : Fin 8) (s : State) (p : Nat), s.poolCaller a = some p →
     let n := p * 8 + q.val
     (∀ x i rest, Tab.get? s.pools n = some x → x.cache = i :: rest →
       ∀ s1, s.setBuffer n x i 1 = (true, s1) →
       let s2 := { s1.updPool n (fun x => { x with cache := rest, low := min x.low (x.freeCount - 1) }) with
         bpm := { s1.bpm with allocs := satAdd s1.bpm.allocs 1 } }
       exec (.bpmAlloc a q) s = .next (s2.emit (.answer a (some (s2.global (x.bufAddr i)))))) ∧
     (∀ x, Tab.get? s.pools n = some x → x.freeCount = 0 →
       exec (.bpmAlloc a q) s = .next (s.noteEmpty.emit (.answer a (some 0x8000000000000001)))) ∧
     (Tab.get? s.pools n = none →
       exec (.bpmAlloc a q) s = .next (({ s with free := s.free + 1 }.bpmAbsent p 0x0703 n
         (s.global (bpmBase + 0x20000 + q.val * 8)) 1).emit (.answer a (some (Config.freeWord s.free)))))) ∧
  (∀ (a : Agent) (s : State) (p : Nat) (g : Word), s.poolCaller a = some p →
     (∀ n x i s1 bs, s.bufferAt g = some (n, x, i) → s.metaRead n x (x.countAddr i) 2 = (some bs, s1) →
       (x.owner = p ∨ x.grant.getLsbD p = true) →
       (1 ≤ leNat bs → leNat bs < 0xFFFF →
         exec (.bpmIncr a g) s = .next ((s1.setBuffer n x i (leNat bs + 1)).2.emit (.answer a (some 0)))) ∧
       (1 < leNat bs → exec (.bpmDecr a g) s = .next ((s1.setBuffer n x i (leNat bs - 1)).2.emit (.answer a (some 0)))) ∧
       (∀ s2, leNat bs = 1 → s1.cacheFull n = false → s1.setBuffer n x i 0 = (true, s2) →
         exec (.bpmDecr a g) s = .next ((s2.poolFree n i).emit (.answer a (some 0)))) ∧
       (leNat bs = 0 →
         exec (.bpmIncr a g) s = .next ((s1.bpmFault p 0x0704 n g 0 2).emit (.answer a (some 0))) ∧
         exec (.bpmDecr a g) s = .next ((s1.bpmFault p 0x0701 n g 0 3).emit (.answer a (some 0))))) ∧
     (∀ n x i s1 bs, s.bufferAt g = some (n, x, i) → s.metaRead n x (x.countAddr i) 2 = (some bs, s1) →
       x.owner ≠ p → x.grant.getLsbD p = false →
       exec (.bpmDecr a g) s = .next ((s1.bpmFault p 0x0702 n g (leNat bs) 3).emit (.answer a (some 0)))) ∧
     (s.bufferAt g = none → exec (.bpmDecr a g) s = .next ((s.bpmNoPool p 0x0706 g 3).emit (.answer a (some 0)))) ∧
     (∀ (q : Fin 8) x (m : Word), Tab.get? s.pools (p * 8 + q.val) = some x →
       exec (.bpmGrant a q m) s = .next ((s.updPool (p * 8 + q.val) fun x =>
         { x with grant := m.setWidth 32 &&& ~~~(1#32 <<< p) }).emit (.answer a (some 0))))) ∧
  (∀ (n : Fin 256) (s : State) (x : Pool), Tab.get? s.pools n.val = some x → s.moves = true →
     (∀ s1 bs, x.cache.length < 128 → x.ringHead < x.ringTail →
       s.metaRead n.val x (x.ringAddr x.ringHead) (4 * min 64 x.ringLen) = (some bs, s1) → s1.pools = s.pools →
       ∃ t y, exec (.bpmCacheRefill n) s = .next t ∧ Tab.get? t.pools n.val = some y ∧ y.freeCount = x.freeCount ∧
         y.cache = (List.range (min 64 x.ringLen)).map (fun i => field bs (4 * i) 4) ++ x.cache ∧
         y.ringHead = x.ringHead + min 64 x.ringLen ∧ y.ringTail = x.ringTail) ∧
     (∀ s1, 448 < x.cache.length → x.ringHead ≤ x.ringTail →
       s.metaWrite n.val x (x.ringAddr x.ringTail)
         ((x.cache.drop (x.cache.length - 64)).reverse.flatMap (leBytes 4)) = (true, s1) → s1.pools = s.pools →
       ∃ t y, exec (.bpmCacheWriteback n) s = .next t ∧ Tab.get? t.pools n.val = some y ∧ y.freeCount = x.freeCount ∧
         y.cache = x.cache.take (x.cache.length - 64) ∧ y.ringTail = x.ringTail + 64 ∧ y.ringHead = x.ringHead))

/-! ## Memory hubs (10) -/

/-- GUARD_CORRECT: an error of one symbol in a stored position is corrected, and nothing of it remains in the bytes
delivered. -/
def Obligations.OneSymbolIsCorrected : Prop := ∀ (i : Nat) (v : Byte), rsStored i = true → v ≠ 0 →
    checkCorrect [(i, v)] = .corrected [(i, v), (i, v)] ∧ ∀ j, symbolAt [(i, v), (i, v)] j = 0

/-- GUARD_DETECT: an error of one data byte or check byte is found. -/
def Obligations.OneByteIsDetected : Prop := ∀ (i : Nat) (v : Byte), (i < 64 ∨ i = 70 ∨ i = 71) → v ≠ 0 → ∃ syn, checkDetect [(i, v)] = .bad syn

/-- Reads at a hub, while it has a clock, of what the reader may access. An HBM block that is not poisoned and whose
stored code word has no error answers its bytes; one whose code word is uncorrectable becomes poisoned, answers
nothing, and raises the fault in the context of a core that read it; a poisoned block answers nothing. An error that
was corrected is counted, and the corrected bytes are noted for write-back. A steward core that reads memory which its
partition does not own takes a read access fault (14 R462). Writes at a hub: a write of a whole 64-byte block puts its
bytes there and clears the block's poison and its stored errors; no other byte of memory changes. A steward core that
writes memory which its partition does not own takes a write access fault and writes nothing (14 R462). The hubs' own
work, while they have a clock: the bytes of a correction are written back, unless the slice's cache holds newer ones,
and in either case the block has no error left; a scrub read moves to the hub's next block, the next pass after its
last; a row idle for 200 ns closes (10 R348), and a refresh closes its bank; soft repair of a row with 16 corrections
or more takes a spare row of the stack; a traffic generator runs in the memory test and in QUIESCED, and a run that
writes leaves its pattern in the rows that it tested, with no block of them poisoned (10 R354; log entry 25).
Completion: it concludes that exec answers a next state, that of the effect above, for hbmRead, hbmWrite,
correctionWriteback, patrolScrub, rowClose, spprRepair, trafficGeneratorStart, trafficGeneratorDone, hbmRefresh. -/
def Obligations.HubsServeMemory : Prop :=
  (∀ (a : Agent) (addr : BitVec 48) (u : Upset) (s : State) (i : Nat) (r : Region),
     s.place addr.toNat = .hbm i r → s.place (addr.toNat / 64 * 64) = .hbm i r → s.moves = true →
     (∀ k, s.stewardBarred a (addr.toNat / 64 * 64) 64 = some k →
       exec (.hbmRead a addr u) s = .next (s.stewardFault k.val 5 addr.toNat)) ∧
     (s.stewardBarred a (addr.toNat / 64 * 64) 64 = none →
     (s.hub (hubOf (addr.toNat / 64 * 64))).line? (addr.toNat / 64 * 64 / 256) = none → r.llmAlloc = 0 →
     Tab.get [] s.upsets (addr.toNat / 64) = [] → u.onDie = 0 →
     (s.poison.contains (addr.toNat / 64) = false → u.symbols = [] →
       ∃ t, exec (.hbmRead a addr u) s = .next t ∧ t.mem = s.mem ∧ t.poison = s.poison ∧
         t.out = .bytes a (some (s.blockBytes addr.toNat)) :: s.out ∧ t.writebacks = s.writebacks) ∧
     (∀ d, s.poison.contains (addr.toNat / 64) = false → u.symbols ≠ [] → r.detect = false →
       checkCorrect u.symbols = .corrected d →
       ∃ t, exec (.hbmRead a addr u) s = .next t ∧ t.mem = s.mem ∧ t.poison = s.poison ∧
         t.out = .bytes a (some (applyErr d (s.blockBytes addr.toNat))) :: s.out ∧
         Tab.get? t.writebacks (addr.toNat / 64) = some (applyErr d (s.blockBytes addr.toNat)) ∧ t.baro.eccTotal = s.baro.eccTotal + 1) ∧
     (∀ d c p, a = .core c → s.coreOwner c.val = some p → s.poison.contains (addr.toNat / 64) = false → u.symbols ≠ [] →
       (if r.detect then checkDetect u.symbols else checkCorrect u.symbols) = .bad d →
       ∃ (t : State) (e : MemErr), exec (.hbmRead a addr u) s = .next ((t.emit (.bytes a none)).raiseMem p e (coreUnit c.val)
           ((t.emit (.bytes a none)).global addr.toNat) 1) ∧
         addr.toNat / 64 ∈ t.poison ∧ t.mem = s.mem ∧ e.code = if r.detect then 0x0402 else 0x0401) ∧
     (∀ c : ChanId, a = .channel c → s.poison.contains (addr.toNat / 64) = true → u.symbols = [] →
       ∃ t, exec (.hbmRead a addr u) s = .next t ∧ t.mem = s.mem ∧ t.poison = s.poison ∧
         t.out = .bytes a none :: s.out))) ∧
  (∀ (a : Agent) (addr : BitVec 48) (data : Bytes) (s : State) (i : Nat) (r : Region),
     s.place addr.toNat = .hbm i r → addr.toNat % 64 = 0 → data.length = 64 → Memory.wf s.mem = true → s.moves = true →
     (∀ k, s.stewardBarred a addr.toNat 64 = some k →
       exec (.hbmWrite a addr data noUpset) s = .next (s.stewardFault k.val 7 addr.toNat)) ∧
     (s.stewardBarred a addr.toNat 64 = none →
     (s.hub (hubOf addr.toNat)).line? (addr.toNat / 256) = none → r.llmAlloc = 0 →
     ∃ t, exec (.hbmWrite a addr data noUpset) s = .next t ∧ memRead t.mem addr.toNat 64 = data ∧
       sameOutside s.mem t.mem addr.toNat 64 ∧ addr.toNat / 64 ∉ t.poison ∧
       Tab.get? t.writebacks (addr.toNat / 64) = none ∧ t.out = .bytes a (some []) :: s.out)) ∧
  (∀ (s : State),
     (∀ (addr : BitVec 48) bs, s.moves = true → Tab.get? s.writebacks (addr.toNat / 64) = some bs →
       ∃ t, exec (.correctionWriteback addr) s = .next t ∧
         t.mem = (if s.dirtyAt addr.toNat then s.mem else memWrite s.mem (addr.toNat / 64 * 64) bs) ∧
         Tab.get? t.writebacks (addr.toNat / 64) = none ∧ Tab.get [] t.upsets (addr.toNat / 64) = [] ∧
         addr.toNat / 64 ∉ t.poison) ∧
     (∀ (h : HubId) (u : Upset), s.moves = true → (s.stack (stackOf (hubBlock h.val (s.hub h.val).scrubNext))).cap = 0xC8 →
       u.symbols = [] → u.onDie = 0 → s.regionAt (hubBlock h.val (s.hub h.val).scrubNext) = none →
       exec (.patrolScrub h u) s = .next (s.updHub h.val fun x =>
         if (s.hub h.val).scrubNext + 1 < s.hubBlocks then { x with scrubNext := (s.hub h.val).scrubNext + 1 }
         else { x with scrubNext := 0, scrubPasses := x.scrubPasses + 1 })) ∧
     (∀ (st : StackId) (pc : Fin 64) (bank : Nat),
       (∀ row last, Tab.get? s.openRows (bankKey st.val pc.val bank) = some (row, last) →
         exec (.rowClose st pc bank) s = .next (if last + 200 ≤ s.time ∧ s.moves = true
           then { s with openRows := Tab.del s.openRows (bankKey st.val pc.val bank) } else s)) ∧
       exec (.hbmRefresh st pc bank) s = .next { s with openRows := Tab.del s.openRows (bankKey st.val pc.val bank) }) ∧
     (∀ (st : StackId) (pc : Fin 64) (bank row : Nat), s.inService = true →
       16 ≤ Tab.get 0 s.rowErrors (rowKey st.val pc.val bank row) → (s.stack st.val).sparesLeft ≠ 0 →
       exec (.spprRepair st pc bank row) s = .next { s.updStack st.val (fun x =>
         { x with softUsed := x.softUsed + 1, sparesLeft := x.sparesLeft - 1 }) with
           rowErrors := Tab.del s.rowErrors (rowKey st.val pc.val bank row) }) ∧
     (∀ (h : HubId) (ch : Fin 96), s.mayTest = true →
       exec (.trafficGeneratorStart h ch) s = .next (s.updGen h.val ch.val fun g =>
         { g with ctrl := g.ctrl ||| 1, errors := 0, firstRow := 0, done := false, busy := true })) ∧
     (∀ (h : HubId) (ch : Fin 96) (e : BitVec 32) (f : BitVec 16), s.moves = true →
       (Tab.get TrafficGen.zero (s.hub h.val).gens ch.val).busy = true →
       fld (Tab.get TrafficGen.zero (s.hub h.val).gens ch.val).ctrl.toNat 7 6 = 1 →
       exec (.trafficGeneratorDone h ch e f) s = .next (s.updGen h.val ch.val fun g =>
         { g with ctrl := g.ctrl &&& ~~~1, errors := e, firstRow := f, done := true, busy := false })) ∧
     (∀ (h : HubId) (ch : Fin 96) (e : BitVec 32) (f : BitVec 16),
       let g := Tab.get TrafficGen.zero (s.hub h.val).gens ch.val
       let first := fld g.ctrl.toNat 31 16
       let count := fld g.ctrl.toNat 47 32
       s.moves = true → g.busy = true → fld g.ctrl.toNat 7 6 ≠ 1 → ∃ t, exec (.trafficGeneratorDone h ch e f) s = .next t ∧
         t.testRuns = ⟨h.val, ch.val, first, count, fld g.ctrl.toNat 5 3, s.free, []⟩ :: s.testRuns ∧
         (∀ b, inRun h.val ch.val first count (b * 64) = true → b ∉ t.poison ∧
           (fld g.ctrl.toNat 5 3 = 4 → t.blockBytes (b * 64) = List.replicate 64 0xFF)) ∧
         ∀ x, inRun h.val ch.val first count x = false → memGet t.mem x = memGet s.mem x))

/-! ## Transactions (12) -/

/-- A transaction header survives its encoding: the flit made of a header with a listed operation, at most 512 bytes
of data, STATUS 0 in a request and no REDUCE_INTO or WRITE_MCAST with COMP reads back as the same header. -/
def Obligations.PacketHeadersRoundTrip : Prop := ∀ k : Pkt, listedOp k.op.toNat = true → k.length.toNat ≤ 512 → (k.op.toNat < 0x80 → k.status = 0) →
    ((k.op = 3 ∨ k.op = 4) → k.comp = false) →
    pktOfFlit (pktToFlit k) = some k ∧ kindOf (pktToFlit k) = 0 ∧ pseqIn (pktToFlit k) = 0 ∧
      vcIn (pktToFlit k) = vcOf k.op.toNat k.srcUnit.toNat ∧ dflitsOf (pktToFlit k) = pktFlits k

/-- A tree packet's header survives its encoding. -/
def Obligations.TreeHeadersRoundTrip : Prop := ∀ k : TreePkt, 0x40 ≤ k.op.toNat → k.op.toNat ≤ 0x43 → k.length.toNat ≤ 512 → treeOfFlit (treeToFlit k) = some k

/-- A request in an input buffer, not held for a core, leaves its buffer and is served. A READ answers the bytes at
its address; a WRITE puts its data there and is acknowledged; an access to device control space, or to mapped memory
that partitions of its job do not own, gets ACCESS_DENIED (4), and one that reaches unmapped memory gets UNMAPPED (1),
with nothing read or written (12 R399, R404, R409). Atomics and reductions are applied once. The first attempt of an
atomic that the target may apply reads and writes its operand, answers the value that its operation returns and enters
the replay cache; a request that is in the cache is answered from it, with memory unchanged; a full cache answers BUSY
and applies nothing. One to device control space, or to mapped memory of another job, is denied (4), and one to
unmapped memory gets UNMAPPED (1), with nothing applied. REDUCE_INTO combines its data into the target element by
element and is acknowledged once; WRITE_MCAST at a member with nobody to forward to writes and is acknowledged, a
member with others to forward to writes, forwards and waits for them (12 R421, R422), and one whose own write is
refused answers so and forwards all the same (the model's choice, log entry 135); PROBE is answered while firmware
runs, whatever is held for a core (log entry 80); the first JOB_TEARDOWN of a (JOB, ARG1) pair is sent on and aborts
the job here, and a later one does nothing more. Completion: it concludes that exec answers a next state, that of the
effect above, for read, write, writeMcast, reduceInto, addInt, addFp32, atomicMin, atomicMax, swap, cas, fetchAdd,
probe, jobTeardown. -/
def Obligations.TargetsServeRequests : Prop :=
  (∀ (k : Pkt) (data : Bytes) (s : State) (e : Nat × Nat × Flit × Bytes), s.heldAt k.job k.addr.toNat = false →
     (∀ bs s1, k.op = 1 → s.heldRx k [] = some e → (s.takeRx e).accessRefused k.job k.addr.toNat k.length.toNat = none →
       (s.takeRx e).readUpTo k.job k.addr.toNat k.length.toNat = (bs, none, s1) →
       exec (.read k) s = .next (s1.reply k 0x80 0 0 bs)) ∧
     (∀ s1, k.op = 2 → pktFromMonsoon k = false → s.heldRx k data = some e →
       (s.takeRx e).accessRefused k.job k.addr.toNat k.length.toNat = none →
       (s.takeRx e).writeMem k.job k.addr.toNat (e.2.2.2.take k.length.toNat) = (.ok (), s1) →
       exec (.write k data) s = .next (s1.reply k 0x81 0 0 [])) ∧
     (let u := s.takeRx e
      let denied (st : Nat) : Prop :=
        (k.op = 1 → s.heldRx k [] = some e → exec (.read k) s = .next (u.reply k 0x80 st 0 [])) ∧
        (k.op = 2 → pktFromMonsoon k = false → s.heldRx k data = some e → exec (.write k data) s = .next (u.reply k 0x81 st 0 []))
      (∀ j, u.place k.addr.toNat = .ctrl j → denied 4) ∧
      (u.place k.addr.toNat = .unmapped → denied 1) ∧
      (u.ctrlAt k.addr.toNat = false → u.place k.addr.toNat ≠ .unmapped →
        (u.unmappedIn k.addr.toNat k.length.toNat = true → denied 1) ∧
        (u.unmappedIn k.addr.toNat k.length.toNat = false → u.jobOwns k.job k.addr.toNat k.length.toNat = false → denied 4)))) ∧
  (∀ (k : Pkt) (c : Instr) (s : State) (e : Nat × Nat × Flit × Bytes),
     (k.op, c) ∈ [(0x10, Instr.addInt k), (0x11, Instr.addFp32 k), (0x12, Instr.atomicMin k), (0x13, Instr.atomicMax k),
       (0x14, Instr.swap k), (0x15, Instr.cas k), (0x16, Instr.fetchAdd k)] →
     s.heldAt k.job k.addr.toNat = false → s.heldRx k [] = some e →
     let u := s.takeRx e
     let d := u.xdie (pktEngine k)
     (∀ v s1, d.replayed k.src k.reqId = none → u.mayApply k = true → d.replayRoom u.now = true →
       u.atomicAt k.job (k.op.toNat - 0x10) (8 * k.length.toNat) k.addr.toNat k.arg0 k.arg1 = (.ok v, s1) →
       exec c s = .next ((s1.updXdie (pktEngine k) fun d => d.putReplay k.src k.reqId 0 v s1.now).reply k 0x82 0 v [])) ∧
     (∀ st v, d.replayed k.src k.reqId = some (st, v) → exec c s = .next (u.reply k 0x82 st.toNat v [])) ∧
     (d.replayed k.src k.reqId = none → u.mayApply k = true → d.replayRoom u.now = false →
       exec c s = .next (u.reply k 0x82 6 0 [])) ∧
     (d.replayed k.src k.reqId = none → u.mayApply k = true → d.replayRoom u.now = true →
       (u.ctrlAt k.addr.toNat = true → exec c s = .next (u.reply k 0x82 4 0 [])) ∧
       (u.place k.addr.toNat = .unmapped → exec c s = .next (u.reply k 0x82 1 0 [])) ∧
       (let n := if k.op = 0x11 then 4 else k.length.toNat
        u.ctrlAt k.addr.toNat = false → u.place k.addr.toNat ≠ .unmapped → u.unmappedIn k.addr.toNat n = false →
         u.jobOwns k.job k.addr.toNat n = false → exec c s = .next (u.reply k 0x82 4 0 [])))) ∧
  (∀ (k : Pkt) (data : Bytes) (s s1 : State) (e : Nat × Nat × Flit × Bytes),
     let u := s.takeRx e
     let d := u.xdie (pktEngine k)
     (k.op = 4 → s.heldAt k.job k.addr.toNat = false → s.heldRx k data = some e → d.replayed k.src k.reqId = none →
       u.mayApply k = true → d.replayRoom u.now = true → reduceListed (k.arg0.toNat % 16) (k.arg0.toNat / 16 % 16) = true →
       u.reduceAt k.job (k.arg0.toNat % 16) (k.arg0.toNat / 16 % 16) k.addr.toNat (e.2.2.2.take k.length.toNat) =
         (.ok (), s1) →
       exec (.reduceInto k data) s =
         .next ((s1.updXdie (pktEngine k) fun d => d.putReplay k.src k.reqId 0 0 s1.now).reply k 0x81 0 0 [])) ∧
     (k.op = 3 → s.heldAt k.job k.addr.toNat = false → s.heldRx k data = some e → d.replayed k.src k.reqId = none →
       d.replayRoom u.now = true → u.accessRefused k.job k.addr.toNat k.length.toNat = none →
       u.writeMem k.job k.addr.toNat (e.2.2.2.take k.length.toNat) = (.ok (), s1) →
       (s1.updXdie (pktEngine k) fun d => d.putReplay k.src k.reqId 0 0 s1.now).mcastTargets k = [] →
       exec (.writeMcast k data) s =
         .next ((s1.updXdie (pktEngine k) fun d => d.putReplay k.src k.reqId 0 0 s1.now).reply k 0x81 0 0 [])) ∧
     (let w := s1.updXdie (pktEngine k) fun d => d.putReplay k.src k.reqId 0 0 s1.now
      k.op = 3 → s.heldAt k.job k.addr.toNat = false → s.heldRx k data = some e → d.replayed k.src k.reqId = none →
       d.replayRoom u.now = true → u.accessRefused k.job k.addr.toNat k.length.toNat = none →
       u.writeMem k.job k.addr.toNat (e.2.2.2.take k.length.toNat) = (.ok (), s1) → w.mcastTargets k ≠ [] →
       exec (.writeMcast k data) s = .next ((w.updFabric fun b =>
         { b with mcastIn := b.mcastIn ++ [⟨k, (w.mcastTargets k).length⟩] }).forwardCopies k (e.2.2.2.take k.length.toNat))) ∧
     (∀ st, k.op = 3 → s.heldAt k.job k.addr.toNat = false → s.heldRx k data = some e → d.replayed k.src k.reqId = none →
       d.replayRoom u.now = true → u.accessRefused k.job k.addr.toNat k.length.toNat = some st → st ≠ 0 →
       exec (.writeMcast k data) s = .next ((u.reply k 0x81 st 0 []).forwardCopies k (e.2.2.2.take k.length.toNat))) ∧
     (k.op = 0x20 → s.fw.up = true → s.heldRx k [] = some e →
       exec (.probe k) s = .next (u.reply k 0x81 0 0 [])) ∧
     (∀ n : PortId, k.op = 0x21 → s.operational = true →
       (s.fabric.rx.find? fun e => e.1 = n.val && pktOfFlit e.2.2.1 = some k) = some e →
       (u.fabric.teardowns.contains (k.job, k.arg1) = true → exec (.jobTeardown n k) s = .next u) ∧
       (u.fabric.teardowns.contains (k.job, k.arg1) = false → exec (.jobTeardown n k) s = .next
         (((u.updFabric fun b => { b with teardowns := (k.job, k.arg1) :: b.teardowns }).sendTeardown k
           (some n.val)).abortJob k none))))

/-- What an atomic leaves: with no operation refused, the operand's bytes are the new value of the table of R403, and
the value answered is the old one, or 0 for the additions without a fetch. -/
def Obligations.AtomicsComputeTheTable : Prop := ∀ (s s1 s2 : State) (job : BitVec 32) (op w a : Nat) (arg cmp : Word) (bs : Bytes), op ≤ 6 → op ≠ 1 →
    (w = 32 ∨ w = 64) → s.rmwRefused job a (w / 8) = none → a % (w / 8) = 0 →
    s.readMem job a (w / 8) = (.ok bs, s1) → bs.length = w / 8 →
    s1.writeMem job a (leBytes (w / 8) (atomicOp op w (leNat bs) arg.toNat cmp.toNat).1) = (.ok (), s2) →
    s.atomicAt job op w a arg cmp = (.ok (if op = 0 then 0 else BitVec.ofNat 64 (leNat bs)), s2) ∧
    (atomicOp op w (leNat bs) arg.toNat cmp.toNat).1 = (match op with
      | 0 => (leNat bs + arg.toNat) % 2 ^ w
      | 2 => if (BitVec.ofNat w (leNat bs)).toInt ≤ (BitVec.ofNat w arg.toNat).toInt then leNat bs else arg.toNat % 2 ^ w
      | 3 => if (BitVec.ofNat w arg.toNat).toInt ≤ (BitVec.ofNat w (leNat bs)).toInt then leNat bs else arg.toNat % 2 ^ w
      | 4 => arg.toNat % 2 ^ w
      | 5 => if leNat bs = cmp.toNat % 2 ^ w then arg.toNat % 2 ^ w else leNat bs
      | _ => (leNat bs + arg.toNat) % 2 ^ w)

/-- A queued transaction that is next in its unit's order on its blocks, whose issuer may start it and whose engine
has room is sent, or joins a combine window when it may be combined. Replies to a transaction that was sent to the
replying package: STATUS 0 completes it with ARG0 and the bytes returned, BUSY makes it wait, another STATUS fails it
with that STATUS's fault. A reply to no transaction, or from another package than the one that it was sent to, is
counted as late and changes nothing else but its buffer. One whose data are for a held core window waits in its buffer
(15 R508; log entry 80). An attempt that has had no reply for its time is sent again, FAB_RETRY counting it, until
four have been sent, and then firmware of the target is probed; so it is once 4 × FAB_XACT_TIMEOUT have passed since
the first send (log entry 134). A BUSY reply is answered by a new send after 1,000 ticks, while that time lasts. All
while the X-dies' clocks run (19 R605). A probe without a reply fails its transaction with TARGET_DEAD and tears down
the job everywhere; an undeliverable COLL_ABORT, or a read of a checkpoint shard, alone or combined with other such
reads, is dropped without a fault (13 R456, 17 R568). Completion: it concludes that exec answers a next state, that of
the effect above, for requestSend, readReply, ack, atomicReply, attemptTimeout, busyResend, probeTimeout. -/
def Obligations.TransactionsAreDriven : Prop :=
  (∀ (id : BitVec 32) (s : State) (x : Xact), s.xact? id = some x → x.state = .queued → s.operational = true →
     s.firstInOrder x = true → s.mayStart x = true → s.engineFree x = true →
     ((s.eligible x = false ∨ x.k.dst = s.self) → exec (.requestSend id) s = .next (s.sendAttempt x 0 true)) ∧
     (s.eligible x = true → x.k.dst ≠ s.self → exec (.requestSend id) s = .next (s.toWindow x))) ∧
  (∀ (k : Pkt) (data : Bytes) (c : Instr) (s : State) (e : Nat × Nat × Flit × Bytes),
     (k.op, data, c) ∈ [(0x80, data, Instr.readReply k data), (0x81, [], Instr.ack k), (0x82, [], Instr.atomicReply k)] →
     s.heldRx k data = some e →
     let u := s.takeRx e
     (s.replyHeld k.reqId = true → exec c s = .next s) ∧
     (s.replyHeld k.reqId = false →
     (∀ x, u.xact? k.reqId = some x → x.state = .sent → x.k.dst = k.src →
       (k.status = 0 → exec c s = .next (u.complete x k.arg0 (e.2.2.2.take k.length.toNat))) ∧
       (k.status = 6 → exec c s = .next (u.updXact k.reqId fun y =>
         { y with state := .busy, sentAt := u.now, lastStatus := 6 })) ∧
       (k.status.toNat ∉ [0, 2, 3, 6] →
         exec c s = .next (u.failXact { x with lastStatus := k.status } (statusFault k.status.toNat) k.status.toNat))) ∧
     (u.xact? k.reqId = none ∨ (∃ x, u.xact? k.reqId = some x ∧ x.k.dst ≠ k.src) →
       exec c s = .next (u.updFabric fun b => { b with lateReply := satAdd b.lateReply 1 })))) ∧
  (∀ (id : BitVec 32) (s : State) (x : Xact), s.xact? id = some x → s.moves = true →
     (x.state = .sent → x.isProbe = false → s.attemptsOver x = false → x.sentAt + s.attemptTime x ≤ s.now →
       (x.attempts < 4 → exec (.attemptTimeout id) s =
         .next ((s.updFabric fun b => { b with retries := satAdd b.retries 1 }).sendAttempt x x.attempts false)) ∧
       (4 ≤ x.attempts → exec (.attemptTimeout id) s = .next (s.probe x))) ∧
     (x.state = .sent → x.isProbe = false → x.k.op ≠ 3 → x.sentAt < x.first + 4 * s.fabric.timeout.toNat →
       x.first + 4 * s.fabric.timeout.toNat ≤ s.now → exec (.attemptTimeout id) s = .next (s.probe x)) ∧
     (x.state = .busy → x.sentAt + 1000 ≤ s.now → s.now < x.first + 4 * s.attemptTime x →
       exec (.busyResend id) s = .next (s.sendAttempt x (x.attempts - 1) false)) ∧
     (∀ orig y, x.owner = .probe orig → x.state = .sent → x.sentAt + s.fabric.timeout.toNat ≤ s.now →
       s.xact? orig = some y → s.unraised y = false →
       ∃ k : Pkt, k.op = 0x21 ∧ k.job = y.k.job ∧ k.arg0 = y.k.dst.setWidth 64 ∧ k.origTime = s.season.k0 ∧
         exec (.probeTimeout id) s = .next (((((s.dropXact id).failXact y 0x0503 y.lastStatus.toNat).updFabric fun b =>
           { b with teardowns := (y.k.job, k.arg1) :: b.teardowns }).sendTeardown k none).abortJob k (some y.part))) ∧
     (∀ orig y, x.owner = .probe orig → x.state = .sent → x.sentAt + s.fabric.timeout.toNat ≤ s.now →
       s.xact? orig = some y → y.undelivered = true →
       exec (.probeTimeout id) s = .next ((s.dropXact id).dropXact orig)) ∧
     (∀ orig y, x.owner = .probe orig → x.state = .sent → x.sentAt + s.fabric.timeout.toNat ≤ s.now →
       s.xact? orig = some y → y.undelivered = false → s.unraised y = true →
       exec (.probeTimeout id) s = .next ((s.dropXact id).failXact y 0x0503 y.lastStatus.toNat)))

/-- A combine window closes 64 ticks after it opened: its members and those that joined it wait for one combined
transaction, which is sent, and FAB_COMBINED counts them. Routing epochs: at FAB_EPOCH_AT the epoch becomes that of
the table slot not in use, once, and the slot left behind stays valid for twice the longest transit, after which it is
invalid; FAB_EPOCH_AT keeps what was written. Both while the clocks of the main domain run (19 R605). Completion: it
concludes that exec answers a next state, that of the effect above, for combineWindowClose, routeEpochSwitch,
routeEpochRetire. -/
def Obligations.WindowsCloseAndEpochsSwitch : Prop :=
  (∀ (id : BitVec 32) (s : State) (x : Xact), s.xact? id = some x → x.state = .window → x.sentAt + 64 ≤ s.now → s.moves = true →
     let members := bySource (s.fabric.xacts.filter fun y => y.k.reqId = id || y.state = .joined id)
     let joined := (members.map fun m => m.k.reqId).foldl (fun s i => s.updXact i fun y => { y with state := .joined id }) s
     ∃ (k : Pkt) (y : Xact), k.combined = true ∧ k.op = x.k.op ∧ k.addr = x.k.addr ∧ k.dst = x.k.dst ∧
       (k.mv = true ↔ ∃ m ∈ members, m.k.mv = true) ∧
       let t := (joined.newXact k [] (.combined (members.map fun m => (m.k.reqId, m.k.arg0))) x.part).updFabric fun b =>
         { b with combinedCnt := satAdd b.combinedCnt members.length }
       t.xact? joined.fabric.nextReq = some y ∧ exec (.combineWindowClose id) s = .next (t.sendAttempt y 0 true)) ∧
  (∀ (s : State), s.moves = true →
     (s.fabric.epochAt ≠ 0 → s.fabric.epochAt ≠ s.fabric.epochDone → s.fabric.epochAt.toNat ≤ s.now → s.fabric.retiring = none →
       ∃ t, exec .routeEpochSwitch s = .next t ∧
         t.fabric.epoch = (Tab.get RouteTable.invalid s.fabric.tables (1 - s.currentSlot)).epoch ∧
         t.fabric.epochDone = s.fabric.epochAt ∧ t.fabric.epochAt = s.fabric.epochAt ∧
         t.fabric.retiring = some (s.currentSlot, s.fabric.epochAt.toNat + 2 * s.fabric.maxTransit.toNat) ∧
         t.fabric.tables = s.fabric.tables ∧ t.ports = s.ports ∧ t.mem = s.mem) ∧
     (∀ j at_, s.fabric.retiring = some (j, at_) → at_ ≤ s.now →
       ∃ t, exec .routeEpochRetire s = .next t ∧ t.fabric.retiring = none ∧ t.fabric.epochAt = s.fabric.epochAt ∧
         (Tab.get RouteTable.invalid t.fabric.tables j).valid = false ∧ t.fabric.epoch = s.fabric.epoch))

/-! ## Collectives (13) -/

/-- Tree packets from an allowed sender. For an armed collective of the same digest, a packet whose arrival bit is
clear and whose input has a free chunk buffer joins the packets received, the collective goes on, and the packet is
acknowledged; one whose arrival bit is set is acknowledged and changes nothing more; one of another digest raises
COLL_MISMATCH; and with all eight buffers of its input in use it is answered BUSY. A packet of a collective that is
not armed here waits in the early store of its X-die and is acknowledged, or is answered BUSY when the store holds
1,024; one from a sender that R448 does not allow is answered ACCESS_DENIED. Completion: it concludes that exec
answers a next state, that of the effect above, for collUp, collDown, collRoot. -/
def Obligations.TreePacketsAreTaken : Prop :=
  (∀ (k : TreePkt) (data : Bytes) (i : Instr) (s : State) (e : Nat × Nat × Flit × Bytes) (c : Coll) (g : Group) (n : Nat),
     (k.op, i) ∈ [(0x40, Instr.collUp k data), (0x41, Instr.collDown k data), (0x42, Instr.collRoot k data)] →
     s.operational = true → s.findRxTree k data = some e →
     let u := s.takeRx e
     let d := e.2.2.2.take k.length.toNat
     u.treeAllowed k = true → u.coll? k.group k.equinox = some c → Tab.get? u.groups k.group.toNat = some g →
     c.inputOf g k = some n → c.complete = false →
     (c.arrived k n = true → exec i s = .next ((u.replyTree k 0).drainEarly k.group k.equinox 4096)) ∧
     (c.arrived k n = false → k.digest ≠ c.digest →
       exec i s = .next (((u.raiseColl c 0x0601 (treeDie k) k.src.toNat k.digest.toNat).replyTree k 0).drainEarly k.group
         k.equinox 4096)) ∧
     (c.arrived k n = false → k.digest = c.digest →
       let used := c.got.countP fun x => x.input = n && x.tree = k.tree.toNat && x.chunk % 4 = treeDie k && c.holds x
       (used < 8 → exec i s = .next (((((u.updColl c fun c => { c with
           got := c.got ++ [⟨k.tree.toNat, treeChunk k, treePart k, n, k, d⟩] }).collRun c.group c.equinox c.fuel).replyTree
             k 0).drainEarly k.group k.equinox 4096))) ∧
       (8 ≤ used → exec i s = .next (u.replyTree k 6)))) ∧
  (∀ (k : TreePkt) (data : Bytes) (s : State) (e : Nat × Nat × Flit × Bytes), k.op = 0x40 → s.operational = true →
     s.findRxTree k data = some e →
     let u := s.takeRx e
     let d := e.2.2.2.take k.length.toNat
     (u.treeAllowed k = false → exec (.collUp k data) s = .next (u.replyTree k 4)) ∧
     (u.treeAllowed k = true → u.coll? k.group k.equinox = none →
       (u.collPast.find? fun c => c.group = k.group && c.equinox = k.equinox) = none →
       ((u.xdie (treeDie k)).collEarly.any fun e => sameTree e.1 k) = false →
       ((u.xdie (treeDie k)).collEarly.length < 1024 →
         exec (.collUp k data) s = .next ((u.storeEarlyTree k d).replyTree k 0)) ∧
       (1024 ≤ (u.xdie (treeDie k)).collEarly.length → exec (.collUp k data) s = .next (u.replyTree k 6))))

/-- The first abort of an armed collective that is not complete faults it, at the X-die that its ADDR selects: one of
another digest raises COLL_MISMATCH (0x0601) against its sender, and is the one that is forwarded; one that brings
0x0601 raises COLL_MISMATCH against the member that it names, and one that brings another code raises
COLL_ABORT_RECEIVED (0x0603) with that code. One of a complete collective is passed on and faults nothing, and a later
one does nothing (13 R455, R456). A finished collective completes no later than its deadline: COLL_DONE rises on the
four X-dies; a member without a destination is done, one with a destination copies STAGE to DST and is then done: its
slot is freed, its entry finishes, and its semaphore rises where SEM asks for it. Completion: it concludes that exec
answers a next state, that of the effect above, for collAbort, collectiveComplete, collectiveCommitDone. -/
def Obligations.CollectivesEnd : Prop :=
  (∀ (k : TreePkt) (s : State) (e : Nat × Nat × Flit × Bytes) (c : Coll) (g : Group), k.op = 0x43 → s.operational = true →
     s.findRxTree k [] = some e →
     let u := s.takeRx e
     u.treeAllowed k = true → u.coll? k.group k.equinox = some c → Tab.get? u.groups k.group.toNat = some g →
     (c.aborted = true → exec (.collAbort k) s = .next ((u.replyTree k 0).drainEarly k.group k.equinox 4096)) ∧
     (c.aborted = false →
     (c.complete = true → exec (.collAbort k) s = .next (((((u.sendCollAborts c k.abortCode.toNat k.origin
       (some k.src)).updColl c fun c => { c with aborted := true })).replyTree k 0).drainEarly k.group k.equinox 4096)) ∧
     (c.complete = false → k.digest ≠ c.digest →
       let m := u.updColl c fun c => { c with abort := some (k.abortCode.toNat, k.origin, k.src) }
       exec (.collAbort k) s = .next (((m.raiseColl c 0x0601 (treeDie k) k.src.toNat k.digest.toNat).replyTree k
         0).drainEarly k.group k.equinox 4096)) ∧
     (c.complete = false → k.digest = c.digest →
       let m := u.updColl c fun c => { c with abort := some (k.abortCode.toNat, k.origin, k.src) }
       (k.abortCode = 0x0601 → exec (.collAbort k) s = .next (((m.raiseColl c 0x0601 (treeDie k) k.origin.toNat
         k.digest.toNat).replyTree k 0).drainEarly k.group k.equinox 4096)) ∧
       (k.abortCode ≠ 0x0601 → exec (.collAbort k) s = .next (((m.raiseColl c 0x0603 (treeDie k) k.origin.toNat
         k.abortCode.toNat).replyTree k 0).drainEarly k.group k.equinox 4096))))) ∧
  (∀ (group : BitVec 12) (equinox : Word) (s : State) (c : Coll), s.coll? group equinox = some c →
     (c.complete = false → c.finished = true → s.xNow 0 ≤ c.deadline →
       let c' := { c with complete := true, doneAt := s.xNow 0 }
       let t := (List.range 4).foldl (fun s x => s.updXdie x fun d => { d with collDone := satAdd d.collDone 1 })
         (s.updColl c' fun _ => c')
       exec (.collectiveComplete group equinox) s = .next (if c.hasDst then t else t.freeColl c')) ∧
     (∀ bs s1 s2, c.complete = true → s.waitsFor c.part [(c.stage, c.bytes), (c.dst, c.bytes)] = false → s.peek c.part c.stage c.bytes = (.ok bs, s1) →
       s1.writeMem (s1.partition c.part).job c.dst bs = (.ok (), s2) →
       exec (.collectiveCommitDone group equinox) s = .next (s2.freeColl c)))

/-! ## Rings (14) -/

/-- The command processor fetches the next entry of a ring whose turn it is: when the entry is valid, its fence is
met, its descriptor is in no held window and its checks are passed, it is taken and its work starts or is armed; each
type's row does so for the entries of its type. What stops a fetch: an entry whose fence is not met waits; an entry
whose PHASE is not the one expected puts the ring to sleep; an entry that fails a check raises that check's fault, and
the entry is not taken. A KERNEL's fetch keeps its descriptor and the launch window of that moment (02 R81). While a
member holds a pending launch it waits; with none holding one, every member of the rank range holds the launch with
its rank, the range's size, the descriptor's entry point and argument address, and the entry's counts and window. A
KERNEL that waits is its row's (14 R475, R476). Completion: it concludes that exec answers a next state, that of the
effect above, for kernel, dma, monsoon, forecast, returnEntry, collective, waitSeason, waitSem, loopUntil, signalSem,
signalWord, signalTime. -/
def Obligations.RingEntriesAreFetched : Prop :=
  (∀ (p : PartId) (s s1 s2 : State) (bs d : Bytes) (e : Entry) (t : EntryType) (i : Instr), s.mayFetchRing p.val →
     (t, i) ∈ [(EntryType.kernel, Instr.kernel p), (.dma, .dma p), (.monsoon, .monsoon p), (.forecast, .forecast p),
       (.ret, .returnEntry p), (.collective, .collective p), (.waitSeason, .waitSeason p), (.waitSem, .waitSem p),
       (.loopUntil, .loopUntil p), (.signalSem, .signalSem p), (.signalWord, .signalWord p),
       (.signalTime, .signalTime p)] →
     { s with lastRing := p.val }.nextSlot p.val = (.ok bs, s1) → e = (s.partition p.val).ring.entry (s.partition p.val).ring.fetched bs →
     (s.partition p.val).ring.valid e = true → e.type = some t →
     (e.fence = false ∨ ∀ i ∈ (s.partition p.val).ring.items, i.pos < e.pos → i.complete = true) →
     s.waitsFor p.val [(loc e.arg, 64)] = false →
     s1.entryCheck p.val e = (.ok d, s2) → exec i s = .next (match t with
       | .kernel => s2.fetchKernel p.val e d
       | .monsoon => s2.takeEntry p.val (e.item .monsoon none (s2.window p.val))
       | .forecast => s2.takeEntry p.val (e.item .forecast none (s2.window p.val))
       | .collective => (s2.takeEntry p.val { e.item .collective none (s2.window p.val) with armed := true }).armColl p.val e.pos e.arg
           (BitVec.ofNat 64 e.equinox) e.deadline e.mv (s2.window p.val)
       | .ret => s2.fetchReturn p.val e
       | .loopUntil => s2.fetchLoop p.val e d
       | _ => (s2.takeEntry p.val { e.item t (s2.lateNow e.equinox) (s2.window p.val) with armed := true }).startDue p.val e.pos)) ∧
  (∀ (p : PartId) (s s1 s2 : State) (bs : Bytes) (r : FaultRec), s.mayFetchRing p.val →
     { s with lastRing := p.val }.nextSlot p.val = (.ok bs, s1) →
     let e := (s.partition p.val).ring.entry (s.partition p.val).ring.fetched bs
     ((s.partition p.val).ring.valid e = false → exec (.kernel p) s = .next (s1.updPartition p.val fun x =>
       { x with ring := { x.ring with awake := false } })) ∧
     ((s.partition p.val).ring.valid e = true → e.fence = true →
       (∃ i ∈ (s.partition p.val).ring.items, i.pos < e.pos ∧ i.complete = false) → exec (.kernel p) s = .next s) ∧
     ((s.partition p.val).ring.valid e = true → e.fence = false → s.waitsFor p.val [(loc e.arg, 64)] = false → (e.type = some .kernel ∨ e.type = none) →
       s1.entryCheck p.val e = (.error r, s2) → exec (.kernel p) s = .next (s2.raise p.val r))) ∧
  (∀ (p : PartId) (s : State),
     (∀ (e : Entry) (d : Bytes), ∃ i : Item, s.fetchKernel p.val e d = (s.takeEntry p.val i).deliverLaunch p.val i ∧
       i.pos = e.pos ∧ i.param.toNat = e.param % 2 ^ 48 ∧ i.bufBytes = d ∧ i.equinox = e.equinox ∧ i.deadline = e.deadline ∧
       i.window = s.window p.val) ∧
     (∀ i : Item, (s.partition p.val).ring.waiting = some i → (s.partition p.val).state = .active → s.moves = true →
       exec (.kernel p) s = .next (s.deliverLaunch p.val i)) ∧
     (∀ i : Item, (∃ c ∈ s.kernelCores p.val i, (s.ctxCore p.val c).pendingLaunch.isSome = true) →
       s.deliverLaunch p.val i = s) ∧
     (∀ (i : Item) (c r : Nat), (s.kernelCores p.val i).Nodup →
       (∀ c ∈ s.kernelCores p.val i, (s.core c).ctx = some p.val ∧ (s.core c).pendingLaunch = none) →
       (s.kernelCores p.val i)[r]? = some c →
       ((s.deliverLaunch p.val i).core c).pendingLaunch = some {
         part := p.val, pos := i.pos, entry := BitVec.ofNat 64 (field i.bufBytes 0 8)
         args := BitVec.ofNat 64 (field i.bufBytes 8 8), rank := r, size := fld i.param.toNat 28 16, equinox := i.equinox
         deadline := i.deadline, window := i.window }))

/-- Signals and the waits that are met at once: SIGNAL_SEM adds its amount to its semaphore, SIGNAL_WORD and
SIGNAL_TIME write their word, WAIT_SEASON waits for nothing more than its count; each finishes its entry. A
semaphore's addition that fits in 32 bits raises it by the amount, for a partition in which nobody waits for it; one
that does not fit raises SEM_OVERFLOW and leaves it. LOOP_TEST, once every earlier entry has completed and the loop's
EQUINOX has been reached: the loop ends when its word passes the test or, where EXIT_AT is set, its exit count has
been reached, raises LOOP_BOUND when the last trip has been made, and else starts its next trip, its body to be
fetched again. RING_POLL wakes the ring of an active partition. Completion: it concludes that exec answers a next
state, that of the effect above, for loopTest, ringPoll. -/
def Obligations.SignalsSemaphoresAndLoops : Prop :=
  (∀ (p : Nat) (s s1 : State) (i : Item),
     let u := s.updItem p i.pos fun i => { i with started := true }
     (i.type = .signalSem → s.startEntry p i =
       (u.semAdd p (fld i.param.toNat 5 0) (fld i.param.toNat 47 16) cmdUnit).finishItem p i.pos
         (u.semAdd p (fld i.param.toNat 5 0) (fld i.param.toNat 47 16) cmdUnit).now none) ∧
     (i.type = .signalWord → u.cmdWrite p (loc i.arg.toNat) (leBytes 4 (fld i.param.toNat 47 16)) = (.ok (), s1) →
       s.startEntry p i = s1.finishItem p i.pos s1.now none) ∧
     (i.type = .signalTime → u.cmdWrite p (loc i.arg.toNat) (leBytes 8 u.now) = (.ok (), s1) →
       s.startEntry p i = s1.finishItem p i.pos s1.now none) ∧
     (i.type = .waitSeason → s.startEntry p i = u.finishItem p i.pos u.now none) ∧
     (i.type = .waitSem →
       s.startEntry p i = u.semWait p (fld i.param.toNat 5 0) (.entry i.pos (fld i.param.toNat 47 16)))) ∧
  (∀ (s : State) (p i a source : Nat),
     (a < 2 ^ 32 → ((s.partition p).sem i).toNat + a < 2 ^ 32 → (s.partition p).queue i = [] →
       ((s.semAdd p i a source).partition p).sem i = (s.partition p).sem i + BitVec.ofNat 32 a ∧
       ∀ j, j ≠ i → ((s.semAdd p i a source).partition p).sem j = (s.partition p).sem j) ∧
     (2 ^ 32 ≤ a ∨ 2 ^ 32 ≤ ((s.partition p).sem i).toNat + a →
       s.semAdd p i a source = s.raise p (s.recordOpen 0x0807 source 0))) ∧
  (∀ (p : PartId) (s s1 : State) (l : Loop) (i : Item) (bs : Bytes),
     ((s.partition p.val).state = .active →
       exec (.ringPoll p) s = .next (s.updPartition p.val fun x => { x with ring := { x.ring with awake := true } })) ∧
     ((s.partition p.val).state = .active → (s.partition p.val).ring.loop = some l → s.item? p.val l.pos = some i →
       l.pos ≤ (s.partition p.val).ring.fetched → (∀ y ∈ (s.partition p.val).ring.items, y.pos < l.pos → y.complete = true) →
       i.equinox ≤ s.now → s.now ≤ i.deadline → s.moves = true → s.cmdRead p.val l.word 8 = (.ok bs, s1) →
       (l.test (leNat bs) = true ∨ (l.exitAt = true ∧ l.exitCount ≤ s1.now) →
         exec (.loopTest p) s = .next (s1.endLoop p.val l)) ∧
       (l.test (leNat bs) = false → (l.exitAt = false ∨ s1.now < l.exitCount) → l.trip + 1 = l.bound →
         exec (.loopTest p) s = .next (s1.raise p.val (s1.loopRecord p.val l i (leNat bs)))) ∧
       (l.test (leNat bs) = false → (l.exitAt = false ∨ s1.now < l.exitCount) → l.trip + 1 ≠ l.bound →
         exec (.loopTest p) s = .next (s1.nextTrip p.val l))))

/-! ## Stewards (14) -/

/-- CMD_RESERVE of 1 to 16 entries for which the ring has room answers the first position reserved and moves the
reservation; without room, or with another count (the model's choice, log entry 46), it answers all ones and reserves
nothing. CMD_DOORBELL wakes the ring. CMD_SEM_ADD adds its low 32 bits to the selected semaphore. CMD_SEM_TAKE
answers, and CMD_SEM_TAKE then reads, whether the amount was taken. An exception of a running steward core with a trap
vector and no trap active is delivered: the PC, the value and the cause are saved, a trap is active and the core goes
on at the vector. With no vector, or inside a trap, it faults the partition instead and the steward's registers stay.
WFI makes a running steward core wait, no longer than 1,000,000 ticks; it goes on once an event has woken it, its wake
count has come or that time is over. Completion: it concludes that exec answers a next state, that of the effect
above, for cmdReserve, cmdDoorbell, cmdSemAdd, cmdSemTake, stewardException, wfi, wfiEnd. -/
def Obligations.StewardsWorkTheirRing : Prop :=
  (∀ (k : StewardId) (s : State) (p : Nat) (m : Word), s.stewardPart k.val = some p →
     let r := (s.partition p).ring
     (1 ≤ m.toNat → m.toNat ≤ 16 → r.reserved + m.toNat - r.consumer ≤ r.size →
       exec (.cmdReserve k m) s = .next ((s.updPartition p fun x => { x with ring := { x.ring with
         reserved := x.ring.reserved + m.toNat } }).emit (.answer (.steward k) (some (BitVec.ofNat 64 r.reserved))))) ∧
     ((m = 0 ∨ 16 < m.toNat ∨ r.size < r.reserved + m.toNat - r.consumer) →
       exec (.cmdReserve k m) s = .next (s.emit (.answer (.steward k) (some 0xFFFFFFFFFFFFFFFF)))) ∧
     exec (.cmdDoorbell k) s = .next (s.updPartition p fun x => { x with ring := { x.ring with awake := true } }) ∧
     exec (.cmdSemAdd k m) s =
       .next (s.semAdd p (s.steward k.val).semSel.toNat (m.toNat % 2 ^ 32) (stewardUnit k.val)) ∧
     (∀ ok s1, s.semTry p (s.steward k.val).semSel.toNat m.toNat = (ok, s1) →
       exec (.cmdSemTake k m) s = .next ((s1.updSteward k.val fun w => { w with semTake := if ok then 1 else 0 }).emit
         (.answer (.steward k) (some (if ok then 1 else 0)))))) ∧
  (∀ (k : StewardId) (s : State) (p : Nat) (cause : BitVec 6) (pc tval : Word), s.stewardPart k.val = some p →
     ((s.steward k.val).trapVec ≠ 0 → (s.steward k.val).trapActive = false →
       exec (.stewardException k cause pc tval) s = .next (s.updSteward k.val fun w => { w with
         trapEpc := pc, trapTval := tval, trapCause := cause, trapActive := true, pc := w.trapVec, waiting := none })) ∧
     ((s.steward k.val).trapVec = 0 ∨ (s.steward k.val).trapActive = true →
       ∃ r : FaultRec, r.code = 0x0108 ∧ r.d0 = pc ∧ r.d1 = cause.setWidth 64 ∧
         exec (.stewardException k cause pc tval) s = .next (s.raise p r))) ∧
  (∀ (k : StewardId) (s : State) (p : Nat),
     (s.stewardPart k.val = some p → (s.steward k.val).waiting = none →
       ∃ t w, exec (.wfi k) s = .next t ∧ (t.steward k.val).waiting = some w ∧ s.now < w ∧ w ≤ s.now + 1000000 ∧
         (t.steward k.val).woken = false ∧ t.mem = s.mem ∧ t.partitions = s.partitions) ∧
     (∀ t, (s.steward k.val).waiting = some t → ((s.steward k.val).woken = true ∨ t ≤ s.now ∨
         ((s.steward k.val).wakeAt ≠ 0 ∧ (s.steward k.val).wakeAt.toNat ≤ s.now)) →
       exec (.wfiEnd k) s = .next (s.updSteward k.val fun w => { w with waiting := none, woken := false })))

/-! ## Firmware commands (16) -/

/-- The table of firmware commands: the opcode, issuer, package states and PARAM bytes of each, and the order of the
checks. A command that a check refuses completes with that check's status and has no other effect. The order of the
checks of a command: the issuer's right, then the package state, then a partition that was torn down since the command
was taken, then the reserved bytes; that the third comes before the fourth is the model's choice (log entry 116). -/
def Obligations.FirmwareCommandsAreCheckedInOrder : Prop :=
  (∀ (pb : Option Bytes) (stored : List (Nat × Option Bytes)) (op : Nat) (u : Rule) (c : Instr) (s : State) (t : Taken)
     (st : Status),
     (op, u, c) ∈ [
       (0x01, ⟨.manager, [.service, .quiesced], [(24, 25), (28, 32)], some 32⟩, Instr.chOpen),
       (0x02, ⟨.closer, [.service, .quiesced], [(24, 25)], none⟩, .chClose),
       (0x03, ⟨.manager, [.service, .quiesced], [(32, 39)], none⟩, .windowMap),
       (0x04, ⟨.anyone, allStates, [], none⟩, .pkgQuery),
       (0x05, ⟨.manager, allStates, [], none⟩, .fwReset),
       (0x10, ⟨.manager, [.service], [(24, 31)], none⟩, .create pb),
       (0x11, ⟨.manager, [.service], [(24, 24), (32, 39)], none⟩, .destroy),
       (0x12, ⟨.manager, [.service], [(24, 31)], none⟩, .claim pb),
       (0x13, ⟨.manager, [.service], [(24, 24), (32, 47)], none⟩, .yearSet),
       (0x18, ⟨.manager, [.service], [(24, 26), (28, 47)], some 24⟩, .poolCreate),
       (0x19, ⟨.manager, [.service], [(24, 25)], some 24⟩, .poolDestroy),
       (0x20, ⟨.owner 26, [.service], [(24, 26), (32, 41)], some 26⟩, .groupDefine),
       (0x21, ⟨.owner 26, [.service], [(24, 26)], some 26⟩, .groupDestroy),
       (0x28, ⟨.manager, [.service, .quiesced], [(24, 24), (32, 55)], none⟩, .seasonSet),
       (0x29, ⟨.owner 24, [.service], [(24, 26), (32, 43)], some 24⟩, .wvSet),
       (0x2A, ⟨.manager, [.service, .quiesced], [(24, 31)], none⟩, .anemSelect),
       (0x30, ⟨.manager, [.service, .quiesced], [(24, 24), (32, 39)], none⟩, .routeLoad pb),
       (0x31, ⟨.manager, [.service], [(32, 39)], none⟩, .routeSwitch),
       (0x32, ⟨.manager, [.service, .quiesced], [(24, 27)], none⟩, .xactTimeoutSet),
       (0x38, ⟨.manager, [.service], [], none⟩, .quiesce),
       (0x39, ⟨.manager, [.quiesced], [], none⟩, .resume),
       (0x3A, ⟨.manager, [.quiesced], [(24, 25)], none⟩, .llmMode),
       (0x3B, ⟨.manager, [.quiesced], [(24, 25), (32, 39)], none⟩, .memTest),
       (0x60, ⟨.owner 24, [.service], [(24, 25)], some 24⟩, .secureSet),
       (0x61, ⟨.owner 24, [.service], [(24, 24), (32, 39)], some 24⟩, .seedLoad pb),
       (0x62, ⟨.manager, [.service, .quiesced], [(24, 27), (32, 47)], none⟩, .dewSetup),
       (0x63, ⟨.manager, [.service, .quiesced], [(24, 27)], none⟩, .dewRelease),
       (0x64, ⟨.manager, [.service, .quiesced], [(24, 28)], none⟩, .frostSetup),
       (0x65, ⟨.owner 24, [.service], [(24, 25), (32, 47)], some 24⟩, .ckptWrite pb),
       (0x66, ⟨.owner 24, [.service], [(24, 25), (32, 47)], some 24⟩, .ckptRestore pb stored),
       (0x67, ⟨.anyone, [.service, .quiesced], [(24, 27)], none⟩, .ckptQuery)] →
     s.nextFor op = some t → (op = 0x3B → s.fw.testing = none) →
     let v := s.updFw fun f => { f with taken := f.taken.erase t }
     v.precheck u t = some st → exec c s = .next (v.finishCommand t ⟨st, none, none⟩)) ∧
  (∀ (s : State) (u : Rule) (t : Taken),
     (u.issuer.allows t = false → s.precheck u t = some .denied) ∧
     (u.issuer.allows t = true → s.mgmt.state ∉ u.states → s.precheck u t = some .stateConflict) ∧
     (u.issuer.allows t = true → s.mgmt.state ∈ u.states → ∀ b, u.names = some b → s.tornSince t (t.byte b) = true →
       s.precheck u t = some .faulted) ∧
     (u.issuer.allows t = true → s.mgmt.state ∈ u.states → (∀ b, u.names = some b → s.tornSince t (t.byte b) = false) →
       s.precheck u t = if u.reservedOk t then none else some .invalidArgument) ∧
     (t.part = 0 → u.issuer.allows t = true) ∧ (t.part ≠ 0 → u.issuer = .manager → u.issuer.allows t = false))

/-- Channel commands, queries and resets: CH_OPEN binds a closed channel to an active or deferred partition and
answers its number; CH_CLOSE starts the sender reset after its completion; WINDOW_MAP sets the window's base;
PKG_QUERY answers the state and the failed dies; FW_RESET takes firmware down after its completion. Completion: it
concludes that exec answers a next state, that of the effect above, for chOpen, chClose, windowMap, pkgQuery, fwReset.
-/
def Obligations.ChannelCommandsTakeEffect : Prop := ∀ (s v : State) (t : Taken),
    (s.runsNext 0x01 ⟨.manager, [.service, .quiesced], [(24, 25), (28, 32)], some 32⟩ t v → 0 < t.half 24 →
      t.half 24 ≤ 1023 → fld (t.word 28) 30 20 = 0 → t.byte 32 ≤ 31 → (v.channel (t.half 24)).open_ = false →
      (v.channel (t.half 24)).draining = false → v.bindingUsed (bit (t.word 28) 31) (BitVec.ofNat 20 (t.word 28)) = false →
      ((v.partition (t.byte 32)).state = .active ∨ (v.partition (t.byte 32)).state = .deferred) →
      exec .chOpen s = .next ((v.updChannel (t.half 24) fun _ => { Channel.closed with open_ := true, part := t.byte 32, noPasid := bit (t.word 28) 31, pasid := BitVec.ofNat 20 (t.word 28) }).finishCommand t
          ⟨.ok, some (BitVec.ofNat 64 (t.half 24)), none⟩)) ∧
    (s.runsNext 0x02 ⟨.closer, [.service, .quiesced], [(24, 25)], none⟩ t v → 0 < t.half 24 → t.half 24 ≤ 1023 →
      (v.channel (t.half 24)).open_ = true → (v.channel (t.half 24)).draining = false →
      exec .chClose s = .next ((v.finishCommand t ⟨.ok, none, none⟩).senderReset (t.half 24))) ∧
    (s.runsNext 0x03 ⟨.manager, [.service, .quiesced], [(32, 39)], none⟩ t v → t.long 32 % 0x40000000 = 0 →
      t.long 32 + 0x1000000000 ≤ ctrlBase →
      exec .windowMap s = .next ((v.updFw fun f => { f with windowBase := BitVec.ofNat 48 (t.long 32) }).finishCommand t
        ⟨.ok, none, none⟩)) ∧
    (s.runsNext 0x04 ⟨.anyone, allStates, [], none⟩ t v →
      exec .pkgQuery s = .next (v.finishCommand t
        ⟨.ok, some (BitVec.ofNat 64 v.mgmt.state.code), some (v.dieFail.setWidth 64)⟩)) ∧
    (s.runsNext 0x05 ⟨.manager, allStates, [], none⟩ t v →
      exec .fwReset s = .next ((v.finishCommand t ⟨.ok, none, none⟩).updFw fun f => { f with up := false }))

/-- Pools and groups: POOL_CREATE of a pool that may be created makes it with every buffer free in its ring;
POOL_DESTROY removes it; GROUP_DEFINE of a list that may be defined writes the group; GROUP_DESTROY removes one that
nothing uses. Completion: it concludes that exec answers a next state, that of the effect above, for poolCreate,
poolDestroy, groupDefine, groupDestroy. -/
def Obligations.PoolAndGroupCommandsTakeEffect : Prop := ∀ (s v : State) (t : Taken),
    (∀ p q cls count base meta_, p = t.byte 24 → q = t.byte 25 → cls = t.byte 26 → count = t.word 28 → base = t.long 32 →
      meta_ = t.long 40 →
      s.runsNext 0x18 ⟨.manager, [.service], [(24, 26), (28, 47)], some 24⟩ t v → p ≤ 31 → q ≤ 7 → cls ≤ 2 →
      count % 512 = 0 → 512 ≤ count → count ≤ 67108864 → base % classSize cls = 0 → meta_ % 4096 = 0 →
      v.inRegion p base (count * classSize cls) false = true → v.inRegion p meta_ (metaBytes count) true = true →
      (v.partition p).state = .active → Tab.get? v.pools (p * 8 + q) = none →
      (v.pools.any fun e => base < e.2.base + e.2.count * e.2.bufSize && e.2.base < base + count * classSize cls) = false →
      let w := v.poke p meta_ ((List.range count).flatMap (fun i => leBytes 4 i) ++ zeros (metaBytes count - 4 * count))
      exec .poolCreate s = .next ({ w with pools := Tab.put w.pools (p * 8 + q) { owner := p, cls := cls, count := count, base := base, metaAddr := meta_, grant := 0, cache := [], ringHead := 0, ringTail := count, low := count } }.finishCommand t ⟨.ok, none, none⟩)) ∧
    (∀ x, s.runsNext 0x19 ⟨.manager, [.service], [(24, 25)], some 24⟩ t v → t.byte 24 ≤ 31 → t.byte 25 ≤ 7 →
      Tab.get? v.pools (t.byte 24 * 8 + t.byte 25) = some x →
      exec .poolDestroy s = .next ((v.destroyPool (t.byte 24 * 8 + t.byte 25) x).finishCommand t ⟨.ok, none, none⟩)) ∧
    (∀ v1 bs, s.runsNext 0x20 ⟨.owner 26, [.service], [(24, 26), (32, 41)], some 26⟩ t v → t.half 24 ≤ 4095 →
      t.byte 26 ≤ 31 → t.long 32 % 64 = 0 → 1 ≤ t.half 40 → t.half 40 ≤ 32768 →
      v.inRegion (t.byte 26) (t.long 32) (2 * t.half 40) false = true →
      v.peek (t.byte 26) (t.long 32) (2 * t.half 40) = (.ok bs, v1) → v1.badList (memberList bs (t.half 40)) = false →
      (v1.partition (t.byte 26)).state = .active → Tab.get? v1.groups (t.half 24) = none →
      let x := v1.groupOf (t.byte 26) (t.long 32) bs (memberList bs (t.half 40))
      v1.owns (t.byte 26) (t.long 32) (roundUp (2 * t.half 40) 64 + 2 * x.leaders.length) = true →
      exec .groupDefine s = .next ((v1.putGroup (t.half 24) (t.byte 26) x).finishCommand t ⟨.ok, none, none⟩)) ∧
    (∀ g, s.runsNext 0x21 ⟨.owner 26, [.service], [(24, 26)], some 26⟩ t v → t.half 24 ≤ 4095 → t.byte 26 ≤ 31 →
      Tab.get? v.groups (t.half 24) = some g → g.owner = t.byte 26 → v.groupArmed (t.half 24) = false →
      exec .groupDestroy s = .next ({ v with
        groups := Tab.del v.groups (t.half 24)
        collPast := v.collPast.filter fun c => c.group.toNat ≠ t.half 24 }.finishCommand t ⟨.ok, none, none⟩))

/-- Season, telemetry, routing and package states: SEASON_SET writes the registers of its mask and no other, WV_SET
sets a partition's sampling, and enables it only with a ring that the partition owns; ANEM_SELECT the selections,
ROUTE_LOAD a table slot that is free, ROUTE_SWITCH a count at least 1,000,000 ticks away, XACT_TIMEOUT_SET a timeout
between 1,000 and 40,000 ticks; QUIESCE leaves SERVICE when only partition 0 is there, and RESUME returns to it when
the expected ports are UP. Completion: it concludes that exec answers a next state, that of the effect above, for
seasonSet, wvSet, anemSelect, routeLoad, routeSwitch, xactTimeoutSet, quiesce, resume. -/
def Obligations.PackageCommandsTakeEffect : Prop := ∀ (s v : State) (t : Taken),
    (s.runsNext 0x28 ⟨.manager, [.service, .quiesced], [(24, 24), (32, 55)], none⟩ t v →
      (t.byte 24 ≤ 7 → exec .seasonSet s = .next ((v.updSeason fun z => { z with
        source := if bit (t.byte 24) 0 then bit (t.long 32) 0 else z.source
        priority := if bit (t.byte 24) 0 then BitVec.ofNat 8 (t.long 32 / 256) else z.priority
        ppsBase := if bit (t.byte 24) 1 then BitVec.ofNat 64 (t.long 40) else z.ppsBase
        holdoverMax := if bit (t.byte 24) 2 then BitVec.ofNat 64 (t.long 48) else z.holdoverMax }).finishCommand t
          ⟨.ok, none, none⟩)) ∧
      (7 < t.byte 24 → exec .seasonSet s = .next (v.finishCommand t ⟨.invalidArgument, none, none⟩))) ∧
    (s.runsNext 0x29 ⟨.owner 24, [.service], [(24, 26), (32, 43)], some 24⟩ t v → t.byte 24 ≤ 31 → t.byte 25 ≤ 31 →
      t.word 40 < 2 ^ 24 → (v.partition (t.byte 24)).state = .active →
      let entry (on : Bool) : Vane := { Vane.reset with
        n := BitVec.ofNat 5 (t.byte 25), on := on, base := BitVec.ofNat 64 (t.long 32), size := BitVec.ofNat 24 (t.word 40) }
      (t.byte 26 = 0 → exec .wvSet s = .next ((v.updFabric fun b =>
        { b with wv := Tab.put b.wv (t.byte 24) (entry false) }).finishCommand t ⟨.ok, none, none⟩)) ∧
      let ring : Bool := decide (6 ≤ t.byte 25 ∧ t.byte 25 ≤ 20 ∧ t.word 40 ≠ 0 ∧ gPkg (BitVec.ofNat 64 (t.long 32)) = v.self ∧
        gLocal (BitVec.ofNat 64 (t.long 32)) % 64 = 0) && canonical (BitVec.ofNat 64 (t.long 32)) &&
        v.owns (t.byte 24) (gLocal (BitVec.ofNat 64 (t.long 32))) (64 + t.word 40 * 128)
      (t.byte 26 = 1 → ring = true → exec .wvSet s = .next ((v.updFabric fun b =>
        { b with wv := Tab.put b.wv (t.byte 24) (entry true) }).finishCommand t ⟨.ok, none, none⟩)) ∧
      (t.byte 26 = 1 → ring = false → exec .wvSet s = .next (v.finishCommand t ⟨.invalidArgument, none, none⟩)) ∧
      (1 < t.byte 26 → exec .wvSet s = .next (v.finishCommand t ⟨.invalidArgument, none, none⟩))) ∧
    (s.runsNext 0x2A ⟨.manager, [.service, .quiesced], [(24, 31)], none⟩ t v →
      exec .anemSelect s = .next ((v.fabWrite 0 0xA000 (BitVec.ofNat 64 (t.long 24))).finishCommand t ⟨.ok, none, none⟩)) ∧
    (∀ pb b v1 j v2, s.runsNext 0x30 ⟨.manager, [.service, .quiesced], [(24, 24), (32, 39)], none⟩ t v → t.byte 24 ≤ 3 →
      v.readPblock t pb (t.long 32) 40 = (.ok b, v1) → v1.pick v1.freeTables = (some j, v2) →
      exec (.routeLoad pb) s = .next ((v2.updFabric fun x =>
        { x with tables := Tab.put x.tables j (routeOf (t.byte 24) b) }).finishCommand t ⟨.ok, none, none⟩)) ∧
    (s.runsNext 0x31 ⟨.manager, [.service], [(32, 39)], none⟩ t v → v.now + 1000000 ≤ t.long 32 →
      exec .routeSwitch s = .next ((v.updFabric fun b =>
        { b with epochAt := BitVec.ofNat 64 (t.long 32) }).finishCommand t ⟨.ok, none, none⟩)) ∧
    (s.runsNext 0x32 ⟨.manager, [.service, .quiesced], [(24, 27)], none⟩ t v →
      (1000 ≤ t.word 24 → t.word 24 ≤ 40000 → exec .xactTimeoutSet s = .next ((v.updFabric fun b =>
        { b with timeout := BitVec.ofNat 16 (t.word 24) }).finishCommand t ⟨.ok, none, none⟩)) ∧
      (t.word 24 < 1000 ∨ 40000 < t.word 24 →
        exec .xactTimeoutSet s = .next (v.finishCommand t ⟨.invalidArgument, none, none⟩))) ∧
    (s.runsNext 0x38 ⟨.manager, [.service], [], none⟩ t v →
      exec .quiesce s = .next (if v.busyPartition then v.finishCommand t ⟨.stateConflict, none, none⟩
        else (v.updMgmt fun m => { m with state := .quiesced }).finishCommand t ⟨.ok, none, none⟩)) ∧
    (s.runsNext 0x39 ⟨.manager, [.quiesced], [], none⟩ t v →
      exec .resume s = .next (if v.portsUp then v.enterService.finishCommand t ⟨.ok, none, none⟩
        else v.finishCommand t ⟨.stateConflict, none, none⟩))

/-- Slices and the memory test: LLM_MODE sets the mode of the slices that its mask names; MEM_TEST starts the
generators it names and completes, once they have all ended, with the sum of their mismatches. Completion: it
concludes that exec answers a next state, that of the effect above, for llmMode, memTest. -/
def Obligations.MemoryCommandsTakeEffect : Prop := ∀ (s v : State) (t : Taken),
    (s.runsNext 0x3A ⟨.manager, [.quiesced], [(24, 25)], none⟩ t v → t.byte 25 ≤ 2 →
      exec .llmMode s = .next ((((List.range 8).filter fun m => bit (t.byte 24) m).foldl (fun s m =>
        s.setSlice m (t.byte 25)) v).finishCommand t ⟨.ok, none, none⟩)) ∧
    (∀ ch, s.runsNext 0x3B ⟨.manager, [.quiesced], [(24, 25), (32, 39)], none⟩ t v → s.fw.testing = none → t.byte 24 ≤ 7 →
      t.byte 25 = ch → ch ≤ 95 → v.mayTest = true →
      ∃ w, exec .memTest s = .next w ∧ w.fw.testing = some (t, t.byte 24, [ch]) ∧
        (Tab.get TrafficGen.zero (w.hub (t.byte 24)).gens ch).busy = true ∧
        (Tab.get TrafficGen.zero (w.hub (t.byte 24)).gens ch).ctrl =
          (BitVec.ofNat 64 (t.long 32) &&& 0xFFFFFFFF00F8) ||| 1) ∧
    (∀ m l, s.fw.testing = some (t, m, l) → s.fw.up = true →
      (∀ ch ∈ l, (Tab.get TrafficGen.zero (s.hub m).gens ch).busy = false) →
      ∃ r1, exec .memTest s = .next ((s.updFw fun f => { f with testing := none }).finishCommand t
        ⟨.ok, some (BitVec.ofNat 64 ((l.map fun ch => (Tab.get TrafficGen.zero (s.hub m).gens ch).errors.toNat).sum)), r1⟩))

/-! ## Partitions and the schedule (15) -/

/-- CREATE of a partition that may be created, whose memory, stewards and blocks can be reserved and whose blocks are
free, installs and activates it and completes with OK; DESTROY of a running partition raises its teardown at once or
at the count given; DESTROY_AT acts when that count is reached. What firmware does for partitions on its own: the
first deferred partition is placed once its time has come and its blocks are free, and its creator is told; the fault
records of a partition are written in order to its fault area, the first one with a PARTITION_FAULTED notice that
holds its 64 bytes (of partition 0, which has no fault area, the notice alone: log entry 54); a teardown ends when
they are written, and the partition is FAULTED. Completion: it concludes that exec answers a next state, that of the
effect above, for create, destroy, destroyAt, deferredPlacement, faultRecordWrite, teardownComplete. -/
def Obligations.PartitionsAreMadeAndServed : Prop :=
  (∀ (s v v1 v2 : State) (t : Taken) (pb : Option Bytes) (b : Bytes) (r : Reserved),
     (s.runsNext 0x10 ⟨.manager, [.service], [(24, 31)], none⟩ t v → v.readPblock t pb (t.long 24) 256 = (.ok b, v1) →
       let c := createBlockOf b
       c.id ≠ 0 → c.id ≤ 31 → c.job ≠ 0 → (v1.partition c.id).state = .absent → v1.partsOfJob (BitVec.ofNat 32 c.job) = [] →
       v1.badCreate c = false → v1.reserve c = (some r, v2) → c.blocks ≤ v1.available.1 →
       exec (.create pb) s = .next (((v2.install c r t.sender).activate c.id c.affinity c.blocks).finishCommand t
         ⟨.ok, none, (r.regions.head?.bind (Tab.get? v2.regions)).map fun g => BitVec.ofNat 64 g.start⟩)) ∧
     (s.runsNext 0x11 ⟨.manager, [.service], [(24, 24), (32, 39)], none⟩ t v → 0 < t.byte 24 → t.byte 24 ≤ 31 →
       (v.partition (t.byte 24)).state = .active →
       (t.long 32 ≤ v.now → exec .destroy s = .next (((v.updPartition (t.byte 24) fun x =>
         { x with destroyAt := some (0, t.sender) }).raise (t.byte 24)
           (v.record 0x0808 serviceUnit 0 0 t.sender.toNat 0 0)).finishCommand t ⟨.ok, none, none⟩)) ∧
       (v.now < t.long 32 → (v.partition (t.byte 24)).destroyAt = none →
         exec .destroy s = .next ((v.updPartition (t.byte 24) fun x =>
           { x with destroyAt := some (t.long 32, t.sender) }).finishCommand t ⟨.ok, none, none⟩))) ∧
     (∀ (p : PartId) at_ sender, (s.partition p.val).destroyAt = some (at_, sender) → s.fw.up = true → at_ ≤ s.now →
       (s.partition p.val).state = .active →
       exec (.destroyAt p) s = .next ((s.updPartition p.val fun x => { x with destroyAt := some (at_, sender) }).raise p.val
         (s.record 0x0808 serviceUnit 0 at_ sender.toNat 0 0)))) ∧
  (∀ (p : PartId) (s : State), s.fw.up = true →
     (∀ at_ n aff o, (s.partition p.val).state = .deferred → (s.partition p.val).deferral = some (at_, n, aff, o) →
       at_ ≤ s.now → n ≤ s.freeBlocks.length → (s.deferredList.head?.map (·.2.2.2)) = some p.val →
       exec (.deferredPlacement p) s = .next ((s.activate p.val aff n).notifyPartition p.val false
         ⟨1, BitVec.ofNat 64 p.val, (s.partition p.val).job.setWidth 64, []⟩)) ∧
     (∀ r rest, (s.partition p.val).records = r :: rest → (s.partition p.val).state ≠ .absent →
       (s.partition p.val).recordsWritten ≠ 0 → (s.partition p.val).faultArea ≠ 0 →
       let n := (s.partition p.val).recordsWritten
       exec (.faultRecordWrite p) s = .next ((s.updPartition p.val fun x =>
         { x with records := rest, recordsWritten := n + 1 }).poke p.val ((s.partition p.val).faultArea + n * 64)
           (recordBytes p.val (s.partition p.val).job n r))) ∧
     (∀ r rest, (s.partition p.val).records = r :: rest → (s.partition p.val).state ≠ .absent →
       (s.partition p.val).recordsWritten = 0 →
       let bs := recordBytes p.val (s.partition p.val).job 0 r
       let u := s.updPartition p.val fun x => { x with records := rest, recordsWritten := 1 }
       exec (.faultRecordWrite p) s = .next ((if (s.partition p.val).faultArea = 0 then u
           else u.poke p.val (s.partition p.val).faultArea bs).notifyPartition p.val true
         ⟨2, BitVec.ofNat 64 p.val, (s.partition p.val).job.setWidth 64, bs⟩)) ∧
     ((s.partition p.val).state = .teardown → (s.partition p.val).records = [] → (s.partition p.val).destroyAt = none →
       ∃ t, exec (.teardownComplete p) s = .next t ∧ (t.partition p.val).state = .faulted ∧ t.mem = s.mem ∧
         t.cores = s.cores ∧ ∀ q, q ≠ p.val → t.partition q = s.partition q))

/-- The schedule: YEAR_SET with no Month and nothing to commit sets the Year; a CLAIM that nothing refuses gives the
partition its blocks at once (the model's choice, log entry 48) and the Months that take effect at the next Year that
starts at least 1,000,000 ticks later; then the committed Months take effect, while the clocks run (19 R605). Handing
over: at a Month's handover every core of the claimed blocks that another active partition's context holds is told to
stop, and the planned return of each block that is lent is the Month's end plus SEA_HANDOVER_LEAD; at its end the
cores that the claimant holds are told to stop, but those that it claims in another Month. SEA_RESUME_AT of a
partition reads 0 when all its blocks are back, the planned return of a block that alone is lent, and all ones once
that count has passed (15 R518). Quiescing: what a stopping core has outstanding FAB_XACT_TIMEOUT ticks after the stop
is suspended, with no combine window of it open, and the core is to be saved once its matrix lanes have drained (04
R152) and no word of it is left half done. Completion: it concludes that exec answers a next state, that of the effect
above, for claim, yearSet, scheduleTakesEffect, monthHandoverStart, monthEnd, quiesceTimeout. -/
def Obligations.SchedulesHandCoresOver : Prop :=
  (∀ (s v v1 : State) (t : Taken) (pb : Option Bytes) (b : Bytes),
     (s.runsNext 0x13 ⟨.manager, [.service], [(24, 24), (32, 47)], none⟩ t v →
       (t.byte 24 = 0 ∨ (16 ≤ t.byte 24 ∧ t.byte 24 ≤ 30)) → v.season.months = [] → v.season.commitAt = none →
       exec .yearSet s = .next ((v.updSeason fun z => { z with
         yearLog2 := BitVec.ofNat 5 (t.byte 24), yearBase := BitVec.ofNat 64 (t.long 32)
         handoverLead := BitVec.ofNat 64 (t.long 40) }).finishCommand t ⟨.ok, none, none⟩)) ∧
     (s.runsNext 0x12 ⟨.manager, [.service], [(24, 31)], none⟩ t v → v.readClaim t pb = (.ok b, v1) →
       let c := claimBlockOf b
       c.id ≤ 31 → c.months ≤ 64 → c.clean = true → v1.yearLen ≠ 0 →
       (∀ e ∈ c.list, e.2 ≠ 0 ∧ (e.1 + e.2) * 64 ≤ v1.yearLen) → v1.tornSince t c.id = false →
       (v1.partition c.id).state = .active → (v1.partition c.id).realtime = true → v1.season.commitAt = none →
       v1.claimRefused c.id c.mask (v1.nextMonths c.id c.list) = false →
       exec (.claim pb) s = .next (((v1.setClaim c.id c.mask).updSeason fun z => { z with
         monthsNext := v1.nextMonths c.id c.list, monthsIdle := []
         commitAt := some (v1.yearStartAfter (v1.now + 1000000)) }).finishCommand t
           ⟨.ok, some (BitVec.ofNat 64 (v1.yearStartAfter (v1.now + 1000000))), none⟩)) ∧
     (∀ at_, s.season.commitAt = some at_ → exec .scheduleTakesEffect s = .next (if at_ ≤ s.now ∧ s.moves = true
       then s.updSeason fun z => { z with months := z.monthsNext, commitAt := none } else s))) ∧
  (∀ (i : Fin 64) (s : State) (m : Month), s.moves = true →
     (∀ q, q < 32 → (∀ b ∈ maskBlocks (s.partition q).home, s.blockBack q b = true) → s.seaReg (0x600 + 8 * q) = 0) ∧
     (∀ q b w, q < 32 → ((maskBlocks (s.partition q).home).filter fun b => !s.blockBack q b) = [b] →
       Tab.get? s.season.resumeAt b = some w →
       s.seaReg (0x600 + 8 * q) = if w.toNat < s.now then 2 ^ 64 - 1 else w.toNat) ∧
     (Tab.get? s.season.months i.val = some m → s.monthActive m = true → (s.partition m.part).state = .active →
       exec (.monthHandoverStart i) s = .next (s.handover m) ∧
       (∀ b j q, (s.partition m.part).claim.getLsbD b = true → b < 288 → j < 16 → q ≠ m.part →
         (s.core (16 * b + j)).preempt = .live → (s.core (16 * b + j)).ctx = some q → (s.partition q).state = .active →
         ((s.handover m).core (16 * b + j)).preempt = .quiescing s.now) ∧
       ∀ b q, (s.partition m.part).claim.getLsbD b = true → b < 288 → s.homeOf b = some q → q ≠ m.part →
         Tab.get? (s.handover m).season.resumeAt b =
           some (BitVec.ofNat 64 (s.monthEndAt m + s.season.handoverLead.toNat))) ∧
     (Tab.get? s.season.months i.val = some m → exec (.monthEnd i) s = .next (s.endMonth m.part) ∧
       ∀ b j, (s.partition m.part).claim.getLsbD b = true → b < 288 → j < 16 → s.claimantOf b ≠ some m.part →
         (s.core (16 * b + j)).preempt = .live → (s.core (16 * b + j)).ctx = some m.part →
         (s.partition m.part).state = .active → ((s.endMonth m.part).core (16 * b + j)).preempt = .quiescing s.now)) ∧
  (∀ (c : CoreId) (s : State) (t0 : Nat), s.moves = true → (s.core c.val).preempt = .quiescing t0 → t0 + s.fabric.timeout.toNat ≤ s.now →
     (∀ x ∈ s.fabric.xacts, s.ofContext c.val x = true → x.outstanding = true → x.state ≠ .window) →
     ∃ t, exec (.quiesceTimeout c) s = .next t ∧ t.mem = s.mem ∧
       (t.core c.val).preempt = (if (s.core c.val).matrix.loadQ = [] ∧ (s.core c.val).matrix.compQ = [] ∧
         (s.core c.val).tail = none then .saving else .quiescing t0) ∧
       (∀ y ∈ s.fabric.xacts, s.ofContext c.val y = true → y.outstanding = true →
         { y with state := .suspended } ∈ t.fabric.xacts) ∧
       ∀ j, j ≠ c.val → t.core j = s.core j)

/-- Save and restore. A stopped core at rest is saved: its memories go to its image in the partition's save area and
its registers to the saved contexts (as data: the model's choice, log entry 49), and the core takes its next context.
A saved context whose partition is to run on the core returns as it was saved: the memories from the image, the
registers as they were. Completion: it concludes that exec answers a next state, that of the effect above, for
contextSaveDone, contextRestoreDone. -/
def Obligations.ContextsAreSavedAndRestored : Prop := ∀ (c : CoreId) (s : State) (p : Nat), s.moves = true →
    ((s.core c.val).ctx = some p → s.atRest c.val = true →
      let u := s.putImage ((s.partition p).imageAt c.val) (imageCells s.mem (winBase c.val))
      exec (.contextSaveDone c) s = .next (({ u with
        mem := memClear u.mem (winBase c.val) 0x130000
        saved := (p, c.val, { s.core c.val with preempt := .saved }) :: u.saved }.settleCore c.val).clearHome c.val)) ∧
    (∀ k, (s.core c.val).preempt = .restoring → s.incoming c.val = some p → (s.partition p).state = .active →
      s.savedCore p c.val = some k → s.badImage ((s.partition p).imageAt c.val) = none →
      let u := s.putImage (winBase c.val) (imageCells s.mem ((s.partition p).imageAt c.val))
      exec (.contextRestoreDone c) s = .next ((((({ u with
        saved := u.saved.filter fun e => e.1 ≠ p ∨ e.2.1 ≠ c.val }.setCore c.val
          { k with ctx := some p, preempt := .live }).resumeXacts p c.val).armLaunch c.val).clearHome c.val)))

/-- Putting an image back gives the memory that was taken: the bytes of the image's range are those of the cells, and
every byte outside the range is as before. -/
def Obligations.ImagesKeepTheirBytes : Prop := ∀ (s : State) (a b : Nat), Memory.wf s.mem = true →
    let t := s.putImage b (imageCells s.mem a)
    Memory.wf t.mem = true ∧ (∀ i, i < 0x130000 → memGet t.mem (b + i) = memGet s.mem (a + i)) ∧
    sameOutside s.mem t.mem b 0x130000

/-- An access to a core window of a partition that its agent owns, not held by a handover, reads or writes the memory
that serves it; a held access waits where it is and changes nothing (the model's choice of place, log entry 80); an
access that the agent's job does not own answers nothing, and a steward's is an access fault. The Barometer: at the
first update in an interval of 10,000,000 ticks its value is that of the present scores, its peak the larger of the
two, and its newest sample holds the present totals; of the older samples those of the last 1,000,000,000 ticks stay
and one more at most (the model's way to the rates of 17 R552, log entry 67). Then each partition's threshold is
looked at, in the order of the table: one that is armed and not 0, and that the value reaches, disarms the partition
and gives its notices (17 R555), and one of a partition that is absent changes nothing. Completion: it concludes that
exec answers a next state, that of the effect above, for windowAccess, barometerUpdate. -/
def Obligations.CoreWindowsAndBarometer : Prop :=
  (∀ (a : Agent) (addr : BitVec 48) (len : Nat) (s : State) (c off : Nat), s.place addr.toNat = .core c off →
     (jobless a = false → s.coreHeld (s.agentJob a) c = true → ∀ w, exec (.windowAccess a addr len w) s = .next s) ∧
     (s.moves = false → ∀ w, exec (.windowAccess a addr len w) s = .next s) ∧
     (∀ k, s.moves = true → s.coreHeld (s.agentJob a) c = false → s.stewardBarred a addr.toNat len = some k →
       exec (.windowAccess a addr len none) s = .next (s.stewardFault k.val 5 addr.toNat)) ∧
     (∀ k bs, s.moves = true → s.coreHeld (s.agentJob a) c = false → s.stewardBarred a addr.toNat bs.length = some k →
       exec (.windowAccess a addr len (some bs)) s = .next (s.stewardFault k.val 7 addr.toNat)) ∧
     (jobless a = false → s.moves = true → s.coreHeld (s.agentJob a) c = false →
       s.stewardBarred a addr.toNat len = none → s.jobOwns (s.agentJob a) addr.toNat len = false →
       exec (.windowAccess a addr len none) s = .next (s.emit (.bytes a none))) ∧
     (∀ bs s1, s.moves = true → s.stewardBarred a addr.toNat len = none →
       (jobless a = true ∨ (s.coreHeld (s.agentJob a) c = false ∧ s.jobOwns (s.agentJob a) addr.toNat len = true)) →
       s.readMem (s.agentJob a) addr.toNat len = (.ok bs, s1) →
       exec (.windowAccess a addr len none) s = .next (s1.emit (.bytes a (some bs)))) ∧
     (∀ bs s1, s.moves = true → s.stewardBarred a addr.toNat bs.length = none → (jobless a = true ∨
         (s.coreHeld (s.agentJob a) c = false ∧ s.jobOwns (s.agentJob a) addr.toNat bs.length = true)) →
       s.writeMem (s.agentJob a) addr.toNat bs = (.ok (), s1) →
       exec (.windowAccess a addr len (some bs)) s = .next (s1.emit (.bytes a (some []))))) ∧
  (∀ (s : State), s.fw.up = true → s.season.running = true → s.baro.lastUpdate / 10000000 < (s.now : Int) / 10000000 →
     ∃ t, t = { s with baro := t.baro } ∧ t.baro.value = BitVec.ofNat 8 (baroValue s.baroScores) ∧
       exec .barometerUpdate s = .next ((s.partitions.map (·.1)).foldl
         (fun u p => u.secureCheck (baroValue s.baroScores) s.baroScores p) t) ∧
       (∀ (u : State) p, (u.partition p).state = .absent → u.secureCheck (baroValue s.baroScores) s.baroScores p = u) ∧
       t.baro.peak = BitVec.ofNat 8 (max s.baro.peak.toNat (baroValue s.baroScores)) ∧
       t.baro.scores = s.baroScores.map (BitVec.ofNat 8) ∧
       (∃ rest, t.baro.samples = ⟨s.now, s.baro.eccTotal, s.baro.poisonTotal, s.baro.linkTotal, s.baro.retrainTotal,
           s.baro.droopTotal, s.baro.seasonMax, s.locked⟩ :: rest ∧ (∀ y ∈ rest, y ∈ s.baro.samples) ∧
         (∀ y ∈ s.baro.samples, (s.now : Int) < y.at_ + 1000000000 → y ∈ rest) ∧
         (rest.filter fun y => y.at_ + 1000000000 ≤ (s.now : Int)).length ≤ 1))

/-! ## Checkpoints and health (17) -/

/-- The settings of the checkpoint service: SECURE_SET arms a partition's threshold; SEED_LOAD loads the seed of a
partition with no kernel running and answers its digest; DEW_SETUP of a new job makes its store; DEW_RELEASE removes
one that nothing uses; FROST_SETUP keeps 2 to 16 generations; CKPT_QUERY answers the newest generations. A checkpoint
whose manifest and ranges can be read starts its image on the way, of what the ranges hold when the command issues
(the model's choice, log entry 60); it completes with its size and digest once every packet of it is acknowledged and
the medium has kept it. A restore from Frost whose stored image agrees with its manifest starts, one from a Dew store
sends its READs to the packages that keep the shards (log entry 61), and both complete by writing the ranges where the
image's digest is the one recorded. Completion: it concludes that exec answers a next state, that of the effect above,
for secureSet, seedLoad, dewSetup, dewRelease, frostSetup, ckptWrite, ckptWriteComplete, ckptRestore, ckptQuery,
ckptRestoreComplete. -/
def Obligations.CheckpointsAreKept : Prop :=
  (∀ (s v v1 : State) (t : Taken) (pb : Option Bytes) (seed : Bytes),
     (s.runsNext 0x60 ⟨.owner 24, [.service], [(24, 25)], some 24⟩ t v → t.byte 24 ≤ 31 →
       (v.partition (t.byte 24)).state = .active →
       exec .secureSet s = .next ((v.updPartition (t.byte 24) fun x =>
         { x with secureThreshold := BitVec.ofNat 8 (t.byte 25), secureArmed := true }).finishCommand t ⟨.ok, none, none⟩)) ∧
     (s.runsNext 0x61 ⟨.owner 24, [.service], [(24, 24), (32, 39)], some 24⟩ t v → t.byte 24 ≤ 31 →
       v.readPblock t pb (t.long 32) 16 = (.ok seed, v1) → (v1.partition (t.byte 24)).state = .active →
       v1.kernelBusy (t.byte 24) = false →
       exec (.seedLoad pb) s = .next (((v1.loadSeed (t.byte 24) seed).updPartition (t.byte 24) fun x =>
         { x with seedDigest := some (crc64 seed) }).finishCommand t ⟨.ok, some (crc64 seed), none⟩)) ∧
     (s.runsNext 0x62 ⟨.manager, [.service, .quiesced], [(24, 27), (32, 47)], none⟩ t v → t.long 32 % 4096 = 0 →
       t.long 40 % regionUnit = 0 → t.long 40 / regionUnit < v.hbmUnits → v.dewOf (BitVec.ofNat 32 (t.word 24)) = none →
       v.ckpt.dew.length < 8 → ∀ a w, v.newStore (BitVec.ofNat 32 (t.word 24)) (t.long 32) (t.long 40 / regionUnit) = (a, w) →
       exec .dewSetup s = .next (w.finishCommand t a)) ∧
     (∀ n d, s.runsNext 0x63 ⟨.manager, [.service, .quiesced], [(24, 27)], none⟩ t v →
       v.dewOf (BitVec.ofNat 32 (t.word 24)) = some (n, d) →
       (∀ e ∈ v.ckpt.running, e.2.job ≠ BitVec.ofNat 32 (t.word 24)) →
       exec .dewRelease s = .next ({ v with
         regions := Tab.del v.regions d.region, ckpt := { v.ckpt with dew := Tab.del v.ckpt.dew n } }.finishCommand t
           ⟨.ok, none, none⟩)) ∧
     (s.runsNext 0x64 ⟨.manager, [.service, .quiesced], [(24, 28)], none⟩ t v →
       (2 ≤ t.byte 28 → t.byte 28 ≤ 16 → exec .frostSetup s = .next ({ v with ckpt := { v.ckpt with
         frostKeep := Tab.put v.ckpt.frostKeep (t.word 24) (t.byte 28) } }.finishCommand t ⟨.ok, none, none⟩)) ∧
       (t.byte 28 < 2 ∨ 16 < t.byte 28 →
         exec .frostSetup s = .next (v.finishCommand t ⟨.invalidArgument, none, none⟩))) ∧
     (s.runsNext 0x67 ⟨.anyone, [.service, .quiesced], [(24, 27)], none⟩ t v →
       exec .ckptQuery s = .next (v.finishCommand t
         ⟨.ok, some (BitVec.ofNat 64 (((v.dewOf (BitVec.ofNat 32 (t.word 24))).map fun e => e.2.gen).getD 0)),
           some (BitVec.ofNat 64 (v.ckpt.frostNewest (BitVec.ofNat 32 (t.word 24))))⟩))) ∧
  (∀ (s v v1 v2 : State) (t : Taken) (pb : Option Bytes) (b data : Bytes),
     (s.runsNext 0x65 ⟨.owner 24, [.service], [(24, 25), (32, 47)], some 24⟩ t v → v.readManifest t pb = (.ok b, v1) →
       v1.ckptCheck t (manifestOf b) true = none → v1.readRanges (t.byte 24) (manifestOf b).ranges = (.ok data, v2) →
       let m := manifestOf b
       let image := v2.completeManifest (t.byte 24) b m (crc64 data) ++ data
       let run : CkptRun := ⟨t, false, t.byte 25, m.job, m.gen, image, crc64 data, 0, false, b, 0, []⟩
       exec (.ckptWrite pb) s = .next ({ v2 with
         ckpt := { v2.ckpt with running := Tab.put v2.ckpt.running (t.byte 24) run } }.sendImage t m image)) ∧
     (∀ (p : PartId) (r : CkptRun), Tab.get? s.ckpt.running p.val = some r → r.restore = false → s.fw.up = true →
       r.failed = false → r.left = 0 →
       exec (.ckptWriteComplete p true) s = .next (((s.keepGen r).endRun p.val).finishCommand r.cmd
         ⟨.ok, some (BitVec.ofNat 64 r.image.length), some r.digest⟩)) ∧
     (∀ stored image kept available, s.runsNext 0x66 ⟨.owner 24, [.service], [(24, 25), (32, 47)], some 24⟩ t v →
       v.readManifest t pb = (.ok b, v1) → v1.ckptCheck t (manifestOf b) false = none →
       v1.armedWork (t.byte 24) = false →
       v1.storedImage t (manifestOf b) stored = (.ok (image, kept, available), v2) → t.byte 25 ≠ 0 →
       v2.mismatch (t.byte 24) (manifestOf b) (manifestOf image) = none →
       let run : CkptRun := ⟨t, true, t.byte 25, (manifestOf b).job, (manifestOf b).gen, image,
         BitVec.ofNat 64 (manifestOf image).digest, 0, false, b, BitVec.ofNat 64 (14 - kept), []⟩
       exec (.ckptRestore pb stored) s = .next { v2 with
         ckpt := { v2.ckpt with running := Tab.put v2.ckpt.running (t.byte 24) run } }) ∧
     (∀ stored n d, s.runsNext 0x66 ⟨.owner 24, [.service], [(24, 25), (32, 47)], some 24⟩ t v →
       v.readManifest t pb = (.ok b, v1) → v1.ckptCheck t (manifestOf b) false = none →
       v1.armedWork (t.byte 24) = false → t.byte 25 = 0 → v1.dewOf (manifestOf b).job = some (n, d) →
       let run : CkptRun := ⟨t, true, 0, (manifestOf b).job, (manifestOf b).gen, [], 0, 0, false, b, 0, []⟩
       exec (.ckptRestore pb stored) s = .next ({ v1 with
         ckpt := { v1.ckpt with running := Tab.put v1.ckpt.running (t.byte 24) run } }.readShards (t.byte 24) d
           (manifestOf b).gen)) ∧
     (∀ (p : PartId) (r : CkptRun), Tab.get? s.ckpt.running p.val = some r → r.restore = true → s.fw.up = true →
       r.failed = false → s.shardsOut p.val ≠ 0 → exec (.ckptRestoreComplete p) s = .next s) ∧
     (∀ (p : PartId) (r : CkptRun) image kept available w, Tab.get? s.ckpt.running p.val = some r → r.restore = true →
       s.fw.up = true → r.failed = false → s.shardsOut p.val = 0 → r.tier = 0 →
       (s.endRun p.val).storedImage r.cmd (manifestOf r.manifest) r.shards = (.ok (image, kept, available), w) →
       (w.noteMargin (manifestOf r.manifest) available).mismatch p.val (manifestOf r.manifest) (manifestOf image) = none →
       crc64 (image.drop 4096) = BitVec.ofNat 64 (manifestOf image).digest →
       exec (.ckptRestoreComplete p) s = .next (((w.noteMargin (manifestOf r.manifest) available).writeRanges p.val
         (image.drop 4096) (manifestOf r.manifest).ranges).finishCommand r.cmd
           ⟨.ok, some (BitVec.ofNat 64 (14 - kept)), none⟩)) ∧
     (∀ (p : PartId) (r : CkptRun), Tab.get? s.ckpt.running p.val = some r → r.restore = true → s.fw.up = true →
       r.failed = false → s.shardsOut p.val = 0 → r.tier ≠ 0 → crc64 (r.image.drop 4096) = r.digest →
       exec (.ckptRestoreComplete p) s = .next (((s.endRun p.val).writeRanges p.val (r.image.drop 4096)
         (manifestOf r.manifest).ranges).finishCommand r.cmd ⟨.ok, some r.result, none⟩)))

/-! ## Channels, mailboxes, lock words and the host's window (16) -/

/-- A doorbell within the ring of an open channel moves its producer and releases a hold; one beyond the ring is
ignored and sets RING_ERROR. Firmware fetches a channel's next entry while R530, R531 and R534 allow it: it reads the
64 bytes of the entry under the channel's PASID, CH_CONSUMER rises by one and the entry, stamped with its sender,
waits behind those fetched before it; a read that failed sets RING_ERROR, and so does a ring write that failed. A
timer that has counted CH_TIMEOUT sets TIMEOUT once. Completion: it concludes that exec answers a next state, that of
the effect above, for chDoorbell, channelFetch, channelTimeout. -/
def Obligations.DoorbellsAndFetches : Prop :=
  (∀ (n : ChanId) (s : State) (v : BitVec 32), s.hostDrops = false → (s.channel n.val).open_ = true →
     ∃ t, exec (.chDoorbell n v) s = .next t ∧ t.mem = s.mem ∧ (∀ m, m ≠ n.val → t.channel m = s.channel m) ∧
       (t.channel n.val).consumer = (s.channel n.val).consumer ∧
       if (v - (s.channel n.val).consumer).toNat ≤ 2 ^ (s.channel n.val).cmdLog2 then
         (t.channel n.val).producer = v ∧ (t.channel n.val).hold = false
       else (t.channel n.val).producer = (s.channel n.val).producer ∧ (t.channel n.val).ringError = true) ∧
  (∀ (n : ChanId) (s : State),
     (∀ bs : Bytes, s.mayFetch n.val = true → ∃ t, exec (.channelFetch n ⟨some bs, false⟩) s = .next t ∧ t.mem = s.mem ∧
       t.out = .hostRead n (s.channel n.val).pasid? ((s.channel n.val).entryAddr (s.channel n.val).consumer.toNat) 64 :: s.out ∧
       (t.channel n.val).consumer = (s.channel n.val).consumer + 1 ∧ (t.channel n.val).producer = (s.channel n.val).producer ∧
       (t.channel n.val).fetched = (s.channel n.val).fetched ++ [⟨BitVec.ofNat 16 n.val, (s.channel n.val).part, (s.channel n.val).consumer, stampEntry n.val (padTo 64 bs), false, 0⟩]) ∧
     (s.mayFetch n.val = true → ∃ t x, exec (.channelFetch n ⟨none, false⟩) s = .next t ∧ (t.channel n.val).ringError = true ∧
       (t.channel n.val).consumer = (s.channel n.val).consumer + 1 ∧
       (t.channel n.val).fetched = (s.channel n.val).fetched ++ [x] ∧ x.readError = true) ∧
     (∀ e, s.mayFetch n.val = false → exec (.channelFetch n ⟨e, false⟩) s = .next s) ∧
     (∀ e, (s.channel n.val).open_ = true → ∃ t, exec (.channelFetch n ⟨e, true⟩) s = .next t ∧
       (t.channel n.val).ringError = true) ∧
     (s.chanCounts n.val = true → (s.channel n.val).timedOut = false →
       (s.channel n.val).timeout.toNat * 1000000 ≤ s.stalled n.val →
       exec (.channelTimeout n) s = .next ((s.updChannel n.val fun c =>
         { c with timeoutFlag := true, timedOut := true }).signalErr n.val)) ∧
     (s.stalled n.val < (s.channel n.val).timeout.toNat * 1000000 → exec (.channelTimeout n) s = .next s))

/-- CH_CONTROL of an open channel. While ENABLE is 1, its sizes, CH_CMD_BASE and CH_CPL_BASE keep their values. A
write of ENABLE = 1 with sizes in range enables the rings; with a size outside its range ENABLE stays 0 and RING_ERROR
is set. Clearing ENABLE stops fetching, and the commands already fetched stay, to run to completion. Completion: it
concludes that exec answers a next state, that of the effect above, for chControlEnable, registerWrite. -/
def Obligations.ChannelControlIsTaken : Prop := ∀ (n : ChanId) (s : State) (w : Word), s.hostDrops = false → (s.channel n.val).open_ = true →
    (∃ t, exec (.chControlEnable n w) s = .next t ∧ t.mem = s.mem ∧ (∀ m, m ≠ n.val → t.channel m = s.channel m) ∧
      (t.channel n.val).producer = (s.channel n.val).producer ∧ (t.channel n.val).fetched = (s.channel n.val).fetched ∧
      (t.channel n.val).control =
        (if (s.channel n.val).enabled then
          (if w.getLsbD 0 then (s.channel n.val).control else (s.channel n.val).control &&& 0xFFFF00)
        else if w.getLsbD 0 ∧ sizesOk w = true then w &&& 0xFFFF01 else w &&& 0xFFFF00) ∧
      ((s.channel n.val).enabled = false → w.getLsbD 0 = true → sizesOk w = false →
        (t.channel n.val).ringError = true ∧ (t.channel n.val).enabled = false) ∧
      (w.getLsbD 0 = false → t.mayFetch n.val = false)) ∧
    ((s.channel n.val).enabled = true → ∀ v, exec (.registerWrite .host (.chan n 0x30) v) s = .next s ∧
      exec (.registerWrite .host (.chan n 0x38) v) s = .next s)

/-- Sender resets (that they empty the host port's configuration space is the model's choice, log entry 122): a
function level reset, HOST_PERST_N and the loss of the host's reference discard the unfetched entries of every open
channel and drain it; a drained channel closes, its lock words are free and its page has its reset values, and channel
0 binds again with WINDOW_BASE 0. The host port's resets reset its configuration space too. Firmware resets: the
watchdog takes every service down and changes nothing else; the restart brings them up, counts itself, holds no
command any more (the model's reading, log entry 90), and every open channel has its CH_GENERATION one higher, RESET
set and its fetching held until a doorbell. Completion: it concludes that exec answers a next state, that of the
effect above, for functionLevelReset, channelDrained, filinaWatchdog, firmwareRestart, hostPerstN, pcieRefclkLoss. -/
def Obligations.ChannelsAndFirmwareReset : Prop :=
  (∀ (s : State),
     (∀ c ∈ [Instr.functionLevelReset, .hostPerstN, .pcieRefclkLoss], ∃ t : State, exec c s = .next t ∧ t.mem = s.mem ∧
       (∀ n, (s.channel n).open_ = true → (s.channel n).draining = false →
         (t.channel n).draining = true ∧ (t.channel n).producer = (s.channel n).consumer ∧ (t.channel n).notices = [] ∧
         (t.channel n).fetched = (s.channel n).fetched) ∧
       (∀ n, (s.channel n).open_ = false ∨ (s.channel n).draining = true → t.channel n = s.channel n)) ∧
     (∃ t : State, exec .pcieRefclkLoss s = .next t ∧ t.mgmt.pcieClk = false ∧ t.mgmt.hostCfg = []) ∧
     (∃ t : State, exec .hostPerstN s = .next t ∧ t.mgmt.pcieClk = s.mgmt.pcieClk ∧ t.mgmt.hostCfg = []) ∧
     (∀ n : ChanId, (s.channel n.val).draining = true → s.uncompleted n.val = 0 → ∃ t, exec (.channelDrained n) s = .next t ∧
       (t.channel n.val).draining = false ∧ (t.channel n.val).producer = 0 ∧ (t.channel n.val).fetched = [] ∧
       (t.channel n.val).open_ = decide (n.val = 0) ∧ (n.val = 0 → t.fw.windowBase = 0) ∧
       (∀ e ∈ t.fw.locks, e.2.1.toNat ≠ n.val) ∧ (∀ m, m ≠ n.val → t.channel m = s.channel m))) ∧
  (∀ (s : State),
     exec .filinaWatchdog s = .next { s with fw := { s.fw with up := false } } ∧
     (s.starting = false → s.fw.up = false → s.fw.loaded = true → s.mgmt.warmEntered = false →
       (s.channels.map (·.1)).Nodup → ∃ t, exec .firmwareRestart s = .next t ∧ t.fw.up = true ∧
         t.fw.resets = s.fw.resets + 1 ∧ t.fw.taken = [] ∧ t.fw.testing = none ∧ t.ckpt.running = [] ∧
         ∀ n, (s.channel n).open_ = true → (t.channel n).generation = (s.channel n).generation + 1 ∧
           (t.channel n).reset = true ∧ (t.channel n).fetched = [] ∧ (t.channel n).hold = true))

/-- The command service takes the next command in its round: the first of its ready senders behind the one it served
last, or the first of all. The checkpoint service takes from one of its own mailboxes that hold a command: which, and
which service goes first when both may take, is a free value. What a service does with a command that it takes: an
entry whose read failed completes FAULTED, an unlisted opcode UNSUPPORTED, and a listed command with a good reply
address joins the service's queue. A steward's post is checked in the order service, room, address: a good one puts
the 64 bytes, stamped with the sender, behind those of the mailbox with result 0; a rejected one changes no mailbox,
gives the result 2, 1 or 3 and is a store access fault. That a misaligned or foreign address is result 3 is the
model's choice (log entry 46). Completion: it concludes that exec answers a next state, that of the effect above, for
commandServiceTake, mbxPost. -/
def Obligations.ServicesTakeCommandsAndPosts : Prop :=
  (∀ (s : State), s.fw.up = true →
     let ckpt (w : State) : Prop := ∃ key t rest, key ∈ s.ckptKeys ∧ Tab.get [] s.fw.mailboxes key = t :: rest ∧
       w = ({ s with free := s.free + 1 }.updFw fun f => { f with mailboxes := Tab.put f.mailboxes key rest }).accept t
     (s.ckptKeys ≠ [] → (s.fw.mailboxes.map (·.1)).Nodup → (s.serviceIdle = false ∨ s.readyKeys = [] →
         ∃ w, exec .commandServiceTake s = .next w ∧ ckpt w) ∧
       (∀ k ks, s.serviceIdle = true → s.readyKeys = k :: ks →
         let key := ((k :: ks).find? fun j => s.fw.rr < j).getD k
         let v := { s with free := s.free + 1 }.updFw fun f => { f with rr := key }
         ∃ w, exec .commandServiceTake s = .next w ∧ (ckpt w ∨
           w = if key < 48 then v.takeMailbox key else v.takeChannel (key - 48)))) ∧
     (s.serviceIdle = false → s.ckptKeys = [] → exec .commandServiceTake s = .next { s with free := s.free + 1 }) ∧
     (s.serviceIdle = true → s.ckptKeys = [] → s.readyKeys = [] → exec .commandServiceTake s = .next { s with free := s.free + 1 }) ∧
     (∀ k ks, s.serviceIdle = true → s.ckptKeys = [] → s.readyKeys = k :: ks →
       let key := ((k :: ks).find? fun j => s.fw.rr < j).getD k
       let v := { s with free := s.free + 1 }.updFw fun f => { f with rr := key }
       (∀ t rest, key < 48 → Tab.get [] s.fw.mailboxes key = t :: rest →
         exec .commandServiceTake s = .next ((v.updFw fun f =>
           { f with mailboxes := Tab.put f.mailboxes key rest }).accept t)) ∧
       (∀ t rest, 48 ≤ key → (s.channel (key - 48)).fetched = t :: rest →
         exec .commandServiceTake s = .next ((v.updChannel (key - 48) fun c => { c with fetched := rest }).accept t)))) ∧
  (∀ (s : State) (t : Taken),
     let u := { t with active := s.activeMask }
     (t.readError = true → s.accept t = s.finishCommand u ⟨.faulted, none, none⟩) ∧
     (t.readError = false → s.badReply u = false → listedCommand t.op = false →
       s.accept t = s.finishCommand u ⟨.unsupported, none, none⟩) ∧
     (t.readError = false → s.badReply u = false → listedCommand t.op = true →
       (s.accept t).fw.taken = s.fw.taken ++ [u] ∧ (s.accept t).mem = s.mem)) ∧
  (∀ (k : StewardId) (m : Fin 64) (a : Word) (s : State) (p : Nat), s.stewardPart k.val = some p →
     (∀ bs v, s.mbxUp.testBit m.val = true → (Tab.get [] s.fw.mailboxes m.val).length < 16 → a.toNat % 64 = 0 →
       s.owns p a.toNat 64 = true → s.peek p a.toNat 64 = (.ok bs, v) → v.fw = s.fw →
       ∃ t, exec (.mbxPost k m a) s = .next t ∧ (t.steward k.val).mbxResult = 0 ∧ t.mem = v.mem ∧
         Tab.get [] t.fw.mailboxes m.val = Tab.get [] s.fw.mailboxes m.val ++
           [⟨BitVec.ofNat 16 (stewardSender k.val), p, 0, bs.take 2 ++ leBytes 2 (stewardSender k.val) ++ bs.drop 4, false, 0⟩]) ∧
     (∀ r : Nat, (r = 2 ∧ s.mbxUp.testBit m.val = false) ∨
         (r = 1 ∧ s.mbxUp.testBit m.val = true ∧ 16 ≤ (Tab.get [] s.fw.mailboxes m.val).length) ∨
         (r = 3 ∧ s.mbxUp.testBit m.val = true ∧ (Tab.get [] s.fw.mailboxes m.val).length < 16 ∧
           (a.toNat % 64 ≠ 0 ∨ s.owns p a.toNat 64 = false)) →
       let v := s.updSteward k.val fun w => { w with mbxResult := BitVec.ofNat 2 r }
       exec (.mbxPost k m a) s = .next ({ v with free := v.free + 1 }.stewardTrap k.val 7 (Config.freeWord v.free)
         (BitVec.ofNat 64 (0x1F0000000000 + 0x800000 + m.val * 8)))))

/-- A read of a lock word acquires it when it is free or the reader's, and answers 0; another owner's answers bit 31
and the owner's SENDER_ID. Only the owner frees it, by writing its own SENDER_ID. Completion: it concludes that exec
answers a next state, that of the effect above, for lockAcquire, lockRelease. -/
def Obligations.LockWordsHaveOneOwner : Prop := ∀ (a : Agent) (w : Fin 256) (s : State) (o : BitVec 16) (p : Nat), s.hostOnes a = false → s.dropsOf a = false →
    s.lockParty a = some (o, p) →
    (Tab.get? s.fw.locks w.val = none → ∃ t, exec (.lockAcquire a w) s = .next t ∧
      Tab.get? t.fw.locks w.val = some (o, p) ∧ t.out = .answer a (some 0) :: s.out ∧ t.mem = s.mem ∧
      ∀ x, x ≠ w.val → Tab.get? t.fw.locks x = Tab.get? s.fw.locks x) ∧
    (Tab.get? s.fw.locks w.val = some (o, p) →
      exec (.lockAcquire a w) s = .next (s.emit (.answer a (some 0))) ∧
      (∀ v : BitVec 32, v ≠ o.setWidth 32 → exec (.lockRelease a w v) s = .next s) ∧
      exec (.lockRelease a w (o.setWidth 32)) s = .next (s.updFw fun f => { f with locks := Tab.del f.locks w.val })) ∧
    (∀ o' q, Tab.get? s.fw.locks w.val = some (o', q) → (o' = o ∧ q = p) = False →
      exec (.lockAcquire a w) s = .next (s.emit (.answer a (some ((0x80000000 ||| o'.setWidth 32 : BitVec 32).setWidth 64)))) ∧
      ∀ v, exec (.lockRelease a w v) s = .next s) ∧
    (Tab.get? s.fw.locks w.val = none → ∀ v, exec (.lockRelease a w v) s = .next s)

/-- The host's window: an access of the host within BAR2, to memory that is there, writes the bytes or answers what is
read, at WINDOW_BASE plus its offset; one that reaches past the window or no memory ends in an error completion. While
the boot ROM takes its image from the host, writes to its first 32 MiB go to the boot SRAM. Filina answers each of the
seven requests, from step 4 of a start on, as SPDM 1.3 with P-384 and SHA-384 and without KEY_EXCHANGE, with a body
formed from the request and the measurements, which the manual leaves to the standard (the model's: log entry 51);
before it the mailbox is busy. Boundary scan, with standby power: BYPASS and IDCODE come into effect in every state,
and IDCODE shifts out 0x1004_0B3B; SAMPLE_PRELOAD loads the cells; the other instructions come into effect only while
PWROK is high and COLD_RST_N low, and act as BYPASS otherwise; all of them leave the rest of the package as it is, but
for what is shifted out and the free values that the pins give. Completion: it concludes that exec answers a next
state, that of the effect above, for hostWindowAccess, getVersion, getCapabilities, negotiateAlgorithms, getDigests,
getCertificate, challenge, getMeasurements, bypass, idcode, samplePreload, extest, extestPulse, extestTrain, clamp,
highz. -/
def Obligations.HostWindowAttestationAndScan : Prop :=
  (∀ (off : BitVec 36) (len : Nat) (s : State), s.mgmt.state ≠ .off → s.mgmt.state ≠ .warmStart → s.mgmt.pcieClk = true →
     let a := s.fw.windowBase.toNat + off.toNat
     (∀ bs : Bytes, bs ≠ [] → off.toNat + bs.length ≤ 0x1000000000 → s.unmappedIn a bs.length = false →
       s.bootsFromHost = false → exec (.hostWindowAccess off len (some bs)) s = .next (s.writeMem 0 a bs).2) ∧
     (∀ bs v, 0 < len → off.toNat + len ≤ 0x1000000000 → s.unmappedIn a len = false →
       s.readUpTo 0 a len = (bs, none, v) →
       exec (.hostWindowAccess off len none) s = .next (v.emit (.completion (some bs) false))) ∧
     (0x1000000000 < off.toNat + len ∨ s.unmappedIn a len = true →
       exec (.hostWindowAccess off len none) s = .next (s.emit (.completion none false))) ∧
     (∀ b : Byte, s.bootsFromHost = true → off.toNat < 0x2000000 → ∃ t, exec (.hostWindowAccess off len (some [b])) s = .next t ∧
       Tab.get? t.mgmt.bootSram off.toNat = some b ∧ t.mem = s.mem)) ∧
  (∀ (s : State) (c : Instr) (name : String) (ps req nonce : Bytes) (slot o l i : Nat),
     (c, name, ps) ∈ [(Instr.getVersion, "GET_VERSION", []), (.getCapabilities, "GET_CAPABILITIES", []),
       (.negotiateAlgorithms req, "NEGOTIATE_ALGORITHMS", req), (.getDigests, "GET_DIGESTS", []),
       (.getCertificate slot o l, "GET_CERTIFICATE", leBytes 1 slot ++ leBytes 2 o ++ leBytes 2 l),
       (.challenge slot nonce, "CHALLENGE", leBytes 1 slot ++ nonce),
       (.getMeasurements i nonce, "GET_MEASUREMENTS", leBytes 1 i ++ nonce)] →
     s.mgmt.state ≠ .off → s.mgmt.pcieClk = true →
     (s.fw.up = true ∨ (s.starting = true ∧ s.fw.loaded = true) →
       ∃ x : SpdmAnswer, exec c s = .next (s.emit (.spdm x)) ∧ x.request = some name ∧ x.version = (1, 3) ∧
         x.asym = "TPM_ALG_ECDSA_ECC_NIST_P384" ∧ x.hash = "SHA-384" ∧ x.keyExchange = false ∧ x.slots = [0] ∧
         x.measures = s.mgmt.measure.map (·.2) ∧ x.body = Config.spdmBody name ps (s.mgmt.measure.map (·.2))) ∧
     (s.fw.up = false → s.starting = false ∨ s.fw.loaded = false →
       ∃ x : SpdmAnswer, exec c s = .next (s.emit (.spdm x)) ∧ x.request = none)) ∧
  (∀ (s : State) (v : Nat), s.mgmt.standby = true →
     let gate : Bool := s.mgmt.pwrok && !s.mgmt.coldRst
     exec .bypass s = .next (({ s with tap := { s.tap with instr := .bypass, out := 0 } }).emit (.tdo 0)) ∧
     exec .idcode s = .next (({ s with tap := { s.tap with instr := .idcode, out := 0x10040B3B } }).emit (.tdo 0x10040B3B)) ∧
     (∃ t, exec (.samplePreload v) s = .next t ∧ t.tap.instr = .samplePreload ∧ t.tap.cells = v ∧
       t.out = .tdo (Config.pinLevels s.free) :: s.out ∧ { t with tap := s.tap, out := s.out, free := s.free } = s) ∧
     (∀ e ∈ [(Instr.extest, TapInstr.extest), (.extestPulse, .extestPulse), (.extestTrain, .extestTrain), (.clamp, .clamp),
         (.highz, .highz)], ∃ t, exec e.1 s = .next t ∧ t.tap.instr = (if gate then e.2 else .bypass) ∧
       t.tap.cells = s.tap.cells ∧ { t with tap := s.tap, out := s.out, free := s.free } = s))

/-! ## Supplies, power and heat (19, 10 R349) -/

/-- Sensors: a reading of a die is kept and moves its step down by one, to 8, at 100 °C and up by one, to 16, below 97
°C; a reading of a stack is kept and sets its bandwidth cap and its refresh rate; while no hub runs, MH_TEMP, cap and
refresh stay as they are (what the sensor then shows is kept apart: log entry 136). A reading below 105 °C halts
nothing. The power controller: more than 7,000 W in a microsecond cuts to step 8 and holds it for 1,000 µs; every 100
µs the step falls by one above the cap or after 9 ms of 100 µs averages above it, rises by one only 50 W and 100 W
below it with no hold, and stays between 8 and 16; issue is gated at step 8 after 10 ms. Its figures are the averages
of the samples within one watt (the model's rounding, log entry 121). It does nothing before step 1 of a start has
ended, nor while the clock of K0 is stopped (19 R605). A first droop of a die in a microsecond is counted. Completion:
it concludes that exec answers a next state, that of the effect above, for stackTemperatureReading, powerSample,
powerStepEval, droopTrip, junctionSensorRead. -/
def Obligations.PowerAndHeatAreLimited : Prop :=
  (∀ (s : State) (t : BitVec 16), t.toNat < 420 →
     (∀ d : DieId, s.mgmt.standby = true → ∃ u, exec (.junctionSensorRead d t) s = .next u ∧ u.mgmt = s.mgmt ∧
       Tab.get? u.power.temps d.val = some t ∧ u.power.n = s.power.n ∧
       (d.val < 18 → s.power.started = true → s.moves = true →
         let k := Tab.get 16 s.power.therm d.val
         Tab.get 16 u.power.therm d.val = if 400 ≤ t.toNat then max 8 (k - 1) else if t.toNat < 388 then min 16 (k + 1) else k)) ∧
     (∀ st : StackId, s.power.started = true → s.moves = true → ∃ u, exec (.stackTemperatureReading st t) s = .next u ∧
       u.mgmt = s.mgmt ∧ (u.stack st.val).temp = t ∧ (u.stack st.val).cap.toNat ≤ capAt (t.toNat / 4) ∧
       (340 ≤ t.toNat → (u.stack st.val).refresh2x = true) ∧ (t.toNat < 332 → (u.stack st.val).refresh2x = false) ∧
       (332 ≤ t.toNat → t.toNat < 340 → (u.stack st.val).refresh2x = (s.stack st.val).refresh2x) ∧
       (380 ≤ t.toNat → 0x32 ≤ (s.stack st.val).cap.toNat → (u.stack st.val).cap = 0x32) ∧
       (t.toNat < 332 → (u.stack st.val).cap = 0xC8)) ∧
     (∀ st : StackId, s.power.started = false ∨ s.moves = false → s.mgmt.standby = true →
       exec (.stackTemperatureReading st t) s = .next (s.updStack st.val fun x => { x with sensor := t }))) ∧
  (∀ (s : State),
     (s.power.started = false ∨ s.moves = false → ∀ w a b, exec (.powerSample w) s = .next s ∧
       exec (.powerStepEval a b) s = .next s) ∧
     (∀ w : Nat, s.power.started = true → s.moves = true → ∃ t, exec (.powerSample w) s = .next t ∧ t.mgmt = s.mgmt ∧ t.mem = s.mem ∧
       t.power.samples = (w :: s.power.samples).take 1000000 ∧
       (8 ≤ s.power.n → s.power.n ≤ 16 → 8 ≤ t.power.n ∧ t.power.n ≤ 16) ∧
       if 7000 < w then t.power.n = 8 ∧ t.power.fastHold = 1000
       else t.power.n = s.power.n ∧ t.power.fastHold = s.power.fastHold - 1) ∧
     (∀ a b : Nat, s.power.averages 100 a = false ∨ s.power.averages 1000000 b = false →
       exec (.powerStepEval a b) s = .next s) ∧
     (∀ a b : Nat, s.power.started = true → s.moves = true → s.power.averages 100 a = true →
       s.power.averages 1000000 b = true → ∃ t, exec (.powerStepEval a b) s = .next t ∧ t.mgmt = s.mgmt ∧
       t.power.p100us = a ∧ t.power.p1s = b ∧ t.power.fastHold = s.power.fastHold ∧ t.power.samples = s.power.samples ∧
       t.power.overUs = (if s.powerCap < a then s.power.overUs + 100 else 0) ∧
       t.power.gating = (decide (t.power.n = 8) && decide (10000 ≤ t.power.overUs)) ∧
       (8 ≤ s.power.n → s.power.n ≤ 16 → 8 ≤ t.power.n ∧ t.power.n ≤ 16) ∧
       (s.powerCap < b ∨ 9000 ≤ t.power.overUs → t.power.n = max 8 (s.power.n - 1)) ∧
       (b + 50 ≤ s.powerCap → a + 100 ≤ s.powerCap → s.power.fastHold = 0 → t.power.n = min 16 (s.power.n + 1)) ∧
       (b ≤ s.powerCap → t.power.overUs < 9000 →
         s.powerCap < b + 50 ∨ s.powerCap < a + 100 ∨ s.power.fastHold ≠ 0 → t.power.n = s.power.n)) ∧
     (∀ (d : Fin 18) (r : Fin 16), s.mgmt.mainRails = true → s.moves = true →
       (Tab.get? s.power.droopAt d.val ≠ some (s.time / 1000) → ∃ t, exec (.droopTrip d r) s = .next t ∧
         t.power.droop = satAdd s.power.droop 1 ∧ Tab.get? t.power.droopAt d.val = some (s.time / 1000) ∧ t.cores = s.cores) ∧
       (Tab.get? s.power.droopAt d.val = some (s.time / 1000) → exec (.droopTrip d r) s = .next s)))

/-! ## OFF and the starts (18) -/

/-- OFF: a fall of PWROK or of COLD_RST_N with standby power takes the package to OFF, where the main domain is lost
(that its memory then reads as zero is the model's choice, log entry 3) and the standby registers stay, PKG_MGMT_PWR
too; the loss of standby resets those, and standby power returns in OFF with the pins on PKG_MGMT_STRAPS. A cold
start: a rising edge of COLD_RST_N latches the straps, and with PWROK high, both references there and no sensor at 105
°C the package is in COLD_START at step 1. A missing reference halts it with cause 0x10; whether one that was lost is
back is a free value (log entry 66). A sensor at 105 °C trips the package again. The management interface: ENTDAA
gives the target its dynamic address and sends its provisioned ID, with BCR and DCR 0; PKG_MGMT_TRAY and PKG_MGMT_DIM
keep their defined bits, are taken in OFF and in a cold start before step 8, and have no effect at any other time;
PKG_MGMT_PWR_CAP takes 2,000 to 6,000 W. Completion: it concludes that exec answers a next state, that of the effect
above, for pwrokLow, pwrokHigh, coldResetAssert, coldStart, entdaa, pkgMgmtTray, pkgMgmtDim, pkgMgmtPwrCap,
vstby12Low, vstby12InRange. -/
def Obligations.OffAndColdStarts : Prop :=
  (∀ (s : State),
     (∀ c ∈ [Instr.pwrokLow, .coldResetAssert], s.mgmt.standby = true → ∃ t, exec c s = .next t ∧ t.mgmt.state = .off ∧
       t.mem = [] ∧ t.partitions = [] ∧ t.mgmt.tray = s.mgmt.tray ∧ t.mgmt.dim = s.mgmt.dim ∧
       t.mgmt.pwrCap = s.mgmt.pwrCap ∧ t.mgmt.minSvn = s.mgmt.minSvn ∧ t.mgmt.causeCode = s.mgmt.causeCode ∧
       t.mgmtReg 0x1C = s.mgmtReg 0x1C % 2 ^ 32 ∧ t.dieFail = s.dieFail ∧ t.ckpt.frost = s.ckpt.frost ∧ t.season.holdoverMax = s.season.holdoverMax ∧
       (c = .pwrokLow → t.mgmt.pwrok = false) ∧ (c = .coldResetAssert → t.mgmt.coldRst = false)) ∧
     (s.mgmt.standby = true → exec .pwrokHigh s = .next (s.updMgmt fun m => { m with pwrok := true })) ∧
     (s.mgmt.standby = true → ∃ t, exec .vstby12Low s = .next t ∧ t.mgmt.standby = false ∧ t.mgmt.state = .off ∧
       t.mgmt.tray = 0 ∧ t.mgmt.pwrCap = 0x1770 ∧ t.mgmt.minSvn = s.mgmt.minSvn ∧ t.ckpt.frost = s.ckpt.frost ∧ t.mem = []) ∧
     (s.mgmt.standby = false → exec .vstby12InRange s =
       .next (s.updMgmt fun m => { m with standby := true, vio := true, straps := m.pins }))) ∧
  (∀ (s : State) (slot : BitVec 4) (bs : BitVec 2), s.mgmt.standby = true → s.mgmt.coldRst = false →
     s.mgmt.pwrok = true →
     (∀ d, s.hotUnit = some d → ∃ t, exec (.coldStart slot bs) s = .next t ∧ t.mgmt.straps = bs ++ slot ∧
       t.mgmt.state = .haltRefused ∧ t.mgmt.causeCode = 0x0E ∧ t.mgmt.causeDetail = BitVec.ofNat 16 d ∧
       t.mgmt.thermLatch = true ∧ t.mgmt.mainRails = false) ∧
     (s.hotUnit = none → ∃ t, exec (.coldStart slot bs) s = .next t ∧ t.mgmt.straps = bs ++ slot ∧ t.mgmt.coldRst = true ∧ t.mgmt.step = 1 ∧
       t.mgmt.warm.valid = false ∧ t.dieOk = 0 ∧ t.dieFail = 0 ∧ t.selfId = none ∧ t.mgmt.tray = s.mgmt.tray ∧
       (s.mgmt.refclk0 = true → t.mgmt.refclk0 = true) ∧ (s.mgmt.refclk1 = true → t.mgmt.refclk1 = true) ∧
       (t.mgmt.refclk0 = true → t.mgmt.refclk1 = true → t.mgmt.state = .coldStart) ∧
       (t.mgmt.refclk0 = false → t.mgmt.state = .haltRefused ∧ t.mgmt.causeCode = 0x10 ∧ t.mgmt.causeDetail = 0) ∧
       (t.mgmt.refclk0 = true → t.mgmt.refclk1 = false →
         t.mgmt.state = .haltRefused ∧ t.mgmt.causeCode = 0x10 ∧ t.mgmt.causeDetail = 1))) ∧
  (∀ (s : State) (v : BitVec 32), s.mgmt.standby = true →
     (∀ a : BitVec 7, exec (.entdaa a) s = .next ((s.updMgmt fun m => { m with i3cAddr := some a }).emit
       (.answer .bmc (some (BitVec.ofNat 64 ((0x0B3D * 2 ^ 33 + 0x40 * 2 ^ 16 + s.ownSlot * 2 ^ 12) * 65536)))))) ∧
     (s.mgmt.state = .off ∨ (s.mgmt.state = .coldStart ∧ s.mgmt.step < 8) → (∃ t, exec (.pkgMgmtTray v) s = .next t ∧ t.mgmt.tray = v &&& 0x87FF ∧ t.mgmt.dim = s.mgmt.dim) ∧
       exec (.pkgMgmtDim v) s = .next (s.updMgmt fun m => { m with dim := v &&& 0x800037FF })) ∧
     (s.mgmt.state ≠ .off → s.mgmt.state ≠ .coldStart ∨ 8 ≤ s.mgmt.step →
       exec (.pkgMgmtTray v) s = .next s ∧ exec (.pkgMgmtDim v) s = .next s) ∧
     (exec (.pkgMgmtPwrCap v) s = .next (if 2000 ≤ v.toNat % 65536 ∧ v.toNat % 65536 ≤ 6000 then
       s.updMgmt fun m => { m with pwrCap := BitVec.ofNat 16 v.toNat } else s)))

/-- Warm starts: WARM_RST_N falling in QUIESCED makes the entry steps, after which firmware is down, no line of an LLM
is held, every stack is in self-refresh and the warm record is valid; in another state it is ignored and WARM_IGNORED
is set. Its rise then begins WARM_START with the HBM kept and the rest of the main domain lost (what that is, and what
lost memory reads as, are the model's choices: log entries 62 and 3), or halts with cause 0x0A when a stack had no
spare row. Completion: it concludes that exec answers a next state, that of the effect above, for warmEntry,
warmStart. -/
def Obligations.WarmStartsKeepTheHbm : Prop := ∀ (s : State),
    (∀ x : Option StackId, s.mgmt.standby = true → s.mgmt.coldRst = true →
      (s.mgmt.state = .quiesced → s.mgmt.warmEntered = false → ∃ t : State, exec (.warmEntry x) s = .next t ∧
        t.fw.up = false ∧ t.mgmt.state = .quiesced ∧ t.mgmt.warmEntered = true ∧ t.mgmt.warm.valid = true ∧
        (∀ m, (t.hub m).lines = []) ∧ (∀ i, i < 24 → (t.stack i).selfRefresh = true) ∧
        (∀ i, i < 24 → Tab.get 0 t.mgmt.warm.training i = (s.stack i).training) ∧
        (∀ n, (Tab.get? t.mgmt.warm.coeffs n).getD (Port.zero n).coeff = (s.port n).coeff) ∧ t.partitions = s.partitions) ∧
      (s.mgmt.state ≠ .quiesced →
        exec (.warmEntry x) s = .next { s with mgmt := { s.mgmt with warmIgnored := true } })) ∧
    (s.mgmt.warmEntered = true → s.mgmt.state = .quiesced → s.mgmt.warm.valid = true →
      ∃ t : State, exec .warmStart s = .next t ∧
      (∀ st, s.mgmt.warmNoSpare = some st → t.mgmt.state = .haltRefused ∧ t.mgmt.causeCode = 0x0A ∧
        t.mgmt.causeDetail = BitVec.ofNat 16 (2 + st.val * 256)) ∧
      (s.mgmt.warmNoSpare = none → s.mgmt.refclk0 = true → s.mgmt.refclk1 = true → t.mgmt.state = .warmStart ∧
        t.mgmt.step = 1 ∧ t.cores = [] ∧ t.pools = [] ∧ t.fabric.sysDim = s.fabric.sysDim ∧
        (∀ c, c ∈ t.mem ↔ c ∈ s.mem ∧ c.1 < llmBase))) ∧
    (s.mgmt.warmEntered = false ∨ s.mgmt.state ≠ .quiesced → exec .warmStart s = .next s)

/-- Steps of a cold start: each ends with its result, and the next begins: power and boot ROM, authentication with its
measurements (their contents: the model's, log entry 50), die BIST, HBM training, memory test, links and address
assignment. The image that runs has a key that is fused and not revoked, a signature that verifies (its byte forms:
log entry 117), the body of its digest and an SVN no less than the fused minimum; Boot Partition 1 is tried when 0 is
refused (the cause is then that of the last one tried: the model's, log entry 102), and nothing is decided while it is
still to be read. A result that fails halts the package with the step's cause. Steps of a warm start: HBM training is
replayed from the warm record, which a stack that fails, or its end, makes invalid; the stacks leave self-refresh, no
memory test runs, the ports retrain, and step 9 follows step 7. The ends of a start: it succeeds with Season locked,
the count-sync check begun, the expected ports UP and every die good, and a cold one then brings firmware up in
SERVICE; before that step 8 waits for the dimensions, and the steps 8 and 9 end the start with causes 0x08 and 0x09
when the tray ID or the lock has not come in 120 s and 30 s. Completion: it concludes that exec answers a next state,
that of the effect above, for memTest, startStepEnd, addressAssignmentTimeout, seasonLockTimeout. -/
def Obligations.StartStepsEnd : Prop :=
  (∀ (s : State), s.mgmt.state = .coldStart →
     (s.mgmt.step = 1 → ∃ t, exec (.startStepEnd .ok) s = .next t ∧ t.mgmt.step = 2 ∧ t.mgmt.mainRails = true ∧
       t.mgmt.hbmRails = true ∧ t.power.started = true ∧ t.power.n = 16 ∧ t.season.running = true ∧ t.season.k0 = 0) ∧
     (s.mgmt.step = 2 → ∃ t, exec (.startStepEnd .ok) s = .next t ∧
       if s.bootSel < 2 then t.mgmt.step = 3 ∧ t.mgmt.state = .coldStart
       else t.mgmt.state = .haltRefused ∧ t.mgmt.causeCode = 0x04 ∧ t.mgmt.causeDetail = BitVec.ofNat 16 s.bootSel) ∧
     (∀ (image : BootImage) (second : Option BootImage), s.mgmt.step = 3 →
       let first : BootImage := if s.bootSel = 0 then image else ⟨s.hostImage⟩
       let runs (i : BootImage) (slot : Nat) : Prop := ∃ t, exec (.startStepEnd (.auth image second)) s = .next t ∧
         t.mgmt.step = 4 ∧ t.fw.loaded = true ∧ t.mgmt.svn = BitVec.ofNat 32 (imgSvn i) ∧
         t.mgmt.measure = [(1, Config.measureExtend 0 Config.bootRomDigest),
           (2, Config.measureExtend 0 (digestOf (i.bytes.take (4096 + imgLen i)))),
           (3, Config.measureExtend 0 (Config.configDigest s.mgmt.straps (BitVec.ofNat 64 (s.pkgReg 0))
             (BitVec.ofNat 64 (s.pkgReg 8)) slot s.mgmt.minSvn)), (4, 0)]
       (∀ slot, s.mgmt.authenticate first = .ok slot → runs first slot) ∧
       (∀ e b slot, s.bootSel = 0 → s.mgmt.authenticate first = .error e → second = some b →
         s.mgmt.authenticate b = .ok slot → runs b slot) ∧
       (∀ code detail, (s.bootSel ≠ 0 ∧ s.mgmt.authenticate first = .error (code, detail)) ∨
           (s.bootSel = 0 ∧ ∃ e b, s.mgmt.authenticate first = .error e ∧ second = some b ∧
             s.mgmt.authenticate b = .error (code, detail)) →
         ∃ t, exec (.startStepEnd (.auth image second)) s = .next t ∧ t.mgmt.state = .haltRefused ∧
           t.mgmt.causeCode = code ∧ t.mgmt.causeDetail = BitVec.ofNat 16 detail ∧ t.fw.loaded = s.fw.loaded) ∧
       (∀ e, s.bootSel = 0 → s.mgmt.authenticate first = .error e → second = none →
         exec (.startStepEnd (.auth image second)) s = .next s)) ∧
     (∀ (i : BootImage) (slot : Nat), s.mgmt.authenticate i = .ok slot → slot < 4 ∧
       s.mgmt.keyHashes.getD slot [] = sha384 (imgKey i) ∧ s.mgmt.revoked.getLsbD slot = false ∧ signatureOk (imgKey i) (i.bytes.take 64) (imgSig i) = true ∧
       sha384 (imgBody i) = imgDigest i ∧ imgLengthOk i = true ∧ s.mgmt.minSvn.toNat ≤ imgSvn i) ∧
     (s.mgmt.step = 4 → (∃ t, exec (.startStepEnd .ok) s = .next t ∧ t.mgmt.step = 5 ∧ t.dieOk = BitVec.allOnes 40) ∧
       ∀ d : DieId, ∃ t, exec (.startStepEnd (.bist [d] [])) s = .next t ∧ t.mgmt.state = .haltRefused ∧
         t.mgmt.causeCode = 0x01 ∧ t.dieFail.getLsbD d.val = true ∧ t.dieOk.getLsbD d.val = false) ∧
     (s.mgmt.step = 5 → (∃ t, exec (.startStepEnd .ok) s = .next t ∧ t.mgmt.step = 6) ∧
       ∀ st : StackId, ∃ t, exec (.startStepEnd (.hbmTrain st)) s = .next t ∧ t.mgmt.state = .haltRefused ∧
         t.mgmt.causeCode = 0x05 ∧ t.mgmt.causeDetail = BitVec.ofNat 16 st.val) ∧
     (s.mgmt.step = 6 → ∀ repairs : List (StackId × Nat × Nat),
       (∃ t, exec (.startStepEnd (.memTest repairs none)) s = .next t ∧ t.mgmt.step = 7 ∧ ∀ st : StackId,
         (t.stack st.val).softUsed = 0 ∧ (t.stack st.val).sparesAtStart = (t.stack st.val).sparesLeft ∧
         ∀ x used left, (repairs.find? fun e => e.1.val = st.val) = some (x, used, left) →
           (t.stack st.val).hardUsed = BitVec.ofNat 16 used ∧ (t.stack st.val).sparesLeft = BitVec.ofNat 16 left) ∧
       ∀ st : StackId, ∃ t, exec (.startStepEnd (.memTest repairs (some st))) s = .next t ∧
         t.mgmt.state = .haltRefused ∧ t.mgmt.causeCode = 0x06 ∧ t.mgmt.causeDetail = BitVec.ofNat 16 st.val) ∧
     (s.mgmt.step = 7 → (s.portsTrained = false → exec (.startStepEnd .ok) s = .next s) ∧
       (s.portsTrained = true → ∃ t, exec (.startStepEnd .ok) s = .next t ∧ t.mgmt.step = 8 ∧
         (s.fabric.sysDim.getLsbD 31 = true → s.mismatched = none → s.trayValid = true → s.inDims s.ownId = true →
           t.mgmt.state = .coldStart) ∧
         ∀ n, s.fabric.sysDim.getLsbD 31 = true → s.mismatched = some n → t.mgmt.state = .haltRefused ∧
           t.mgmt.causeCode = 0x08 ∧ t.mgmt.causeDetail = BitVec.ofNat 16 (n + 1))) ∧
     (s.mgmt.step = 8 →
       let assigned : Bool := s.trayValid && s.fabric.sysDim.getLsbD 31 && s.portsUp && s.traysChecked && s.inDims s.ownId
       (assigned = true → ∃ t, exec (.startStepEnd .ok) s = .next t ∧ t.mgmt.step = 9 ∧ t.selfId = some s.ownId ∧
         t.mgmt.state = .coldStart) ∧
       (assigned = false → exec (.startStepEnd .ok) s = .next s))) ∧
  (∀ (s : State), s.mgmt.state = .warmStart →
     (s.mgmt.step = 5 → (∃ t, exec (.startStepEnd .ok) s = .next t ∧ t.mgmt.step = 6 ∧ t.mgmt.warm.valid = false ∧
         ∀ st : StackId, (t.stack st.val).training = Tab.get 0 s.mgmt.warm.training st.val ∧
           (t.stack st.val).selfRefresh = false) ∧
       ∀ st : StackId, ∃ t, exec (.startStepEnd (.hbmTrain st)) s = .next t ∧ t.mgmt.state = .haltRefused ∧
         t.mgmt.warm.valid = false ∧ t.mgmt.causeCode = 0x0A ∧ t.mgmt.causeDetail = BitVec.ofNat 16 (3 + st.val * 256)) ∧
     (s.mgmt.step = 6 → (∃ t, exec (.startStepEnd .ok) s = .next t ∧ t.mgmt.step = 7) ∧
       ∀ repairs bad, exec (.startStepEnd (.memTest repairs bad)) s = .next s) ∧
     (s.mgmt.step = 7 → (s.portsUp = true → ∃ t, exec (.startStepEnd .ok) s = .next t ∧ t.mgmt.step = 9) ∧
       (s.portsUp = false → exec (.startStepEnd .ok) s = .next s))) ∧
  (∀ (s : State),
     (s.mgmt.state = .coldStart → s.mgmt.step = 9 → s.season.state = .locked → s.season.countSync = true →
       s.portsUp = true → s.dieOk = BitVec.allOnes 40 → ∃ t, exec (.startStepEnd .ok) s = .next t ∧
         t.mgmt.state = .service ∧ t.fw.up = true ∧ (t.channel 0).open_ = true ∧ (t.partition 0).state ≠ .absent ∧
         s.mgmt.svn.toNat ≤ t.mgmt.minSvn.toNat ∧ s.mgmt.minSvn.toNat ≤ t.mgmt.minSvn.toNat) ∧
     (s.starting = true → s.mgmt.step = 8 → s.fabric.sysDim.getLsbD 31 = false → exec (.startStepEnd .ok) s = .next s) ∧
     (s.mgmt.state = .coldStart → s.mgmt.step = 8 → s.trayValid = false → s.inStepFor 120000000000 = true →
       ∃ t, exec .addressAssignmentTimeout s = .next t ∧ t.mgmt.state = .haltRefused ∧ t.mgmt.causeCode = 0x08 ∧
         t.mgmt.causeDetail = 0x200) ∧
     (s.starting = true → s.mgmt.step = 9 → s.season.state ≠ .locked → s.inStepFor 30000000000 = true →
       ∃ t, exec .seasonLockTimeout s = .next t ∧ t.mgmt.state = .haltRefused ∧ t.mgmt.causeCode = 0x09))

/-! ## Registers that have no row of their own (00 R9) -/

/-- A read of an RC register answers the value before the read, and the register then holds what was recorded in the
cycle of the read: PKG_PWR_DROOP and PKG_PWR_THROTTLE, and the counters of the hubs, the Monsoon units, the buffer
pools and the ports, for the host. A write of a register with W1C fields clears the flags whose bits are 1 and leaves
the others: CH_STATUS, and the PENDING and WARM_IGNORED flags of the management registers. Plain writes: the ring
bases of a channel whose rings are not in use, CH_TIMEOUT within its range, CH_INTR; a steward's own trap CSRs, and an
illegal instruction for a steward with no partition or an unlisted number; and a write by the host of a register that
is read-only, which has no effect. Completion: it concludes that exec answers a next state, that of the effect above,
for rcRead, w1cWrite, registerWrite. -/
def Obligations.RegisterAccessesTakeEffect : Prop :=
  (∀ (s : State) (event : Nat), s.mgmt.state = .service → s.mgmt.pcieClk = true → event < 2 ^ 48 →
     let clears (off : Nat) (field : State → BitVec 48) : Prop :=
       ∃ t, exec (.rcRead .host (.ctrl (BitVec.ofNat 24 off)) event) s = .next t ∧ field t = BitVec.ofNat 48 event ∧
         t.out = .answer .host (some ((field s).setWidth 64)) :: s.out ∧ t.mem = s.mem
     (∀ e ∈ [(0x410, Power.throttle), (0x418, Power.droop)], clears e.1 fun s => e.2 s.power) ∧
     (∃ t, exec (.rcRead .host (.ctrl 0x418) event) s = .next t ∧ t.power.throttle = s.power.throttle) ∧
     (∀ (m : Fin 8), ∀ e ∈ [(0x18, HubState.corrected), (0x20, HubState.uncorrectable), (0x28, HubState.detected),
         (0x30, HubState.onDie), (0x38, HubState.llmHits), (0x40, HubState.llmMisses)],
       clears (0x100000 + m.val * 0x40000 + e.1) fun s => e.2 (s.hub m.val)) ∧
     (∀ (x : Fin 4), ∀ e ∈ [(0x08, XDieState.choicesOut), (0x10, XDieState.rowsIn), (0x18, XDieState.dropped),
         (0x20, XDieState.deferred), (0x28, XDieState.scoreBusy), (0x30, XDieState.dispatchStall),
         (0x408, XDieState.collDone), (0x410, XDieState.collFaults), (0x418, XDieState.collBusy)],
       clears (0x300000 + x.val * 0x40000 + e.1) fun s => e.2 (s.xdie x.val)) ∧
     (∀ e ∈ [(0x00, Bpm.allocs), (0x08, Bpm.frees), (0x10, Bpm.empty)],
       clears (0x400000 + e.1) fun s => e.2 s.bpm) ∧
     (∀ (f : Fin 8) (p : Fin 7), ∀ e ∈ [(0x20, Port.fecCorrected), (0x28, Port.fecUncorr), (0x30, Port.crcDiscard),
         (0x38, Port.orphan), (0x40, Port.stompedIn), (0x48, Port.stompedOut), (0x50, Port.protoErr), (0x58, Port.retrains),
         (0x60, Port.beaconMiss)],
       clears (0x501000 + f.val * 0x40000 + p.val * 0x100 + e.1) fun s => e.2 (s.port (7 * f.val + p.val)))) ∧
  (∀ (s : State) (v : Word),
     (∀ n : ChanId, s.hostDrops = false → (s.channel n.val).open_ = true →
       ∃ t, exec (.w1cWrite .host (.chan n 0x18) v) s = .next t ∧ t.mem = s.mem ∧
         (t.channel n.val).reset = ((s.channel n.val).reset && !v.getLsbD 6) ∧
         (t.channel n.val).ringError = ((s.channel n.val).ringError && !v.getLsbD 5) ∧
         (t.channel n.val).noticeLost = ((s.channel n.val).noticeLost && !v.getLsbD 4) ∧
         (t.channel n.val).timeoutFlag = ((s.channel n.val).timeoutFlag && !v.getLsbD 3) ∧
         (t.channel n.val).producer = (s.channel n.val).producer ∧ (t.channel n.val).open_ = true) ∧
     (s.mgmt.standby = true →
       exec (.w1cWrite .bmc (.mgmt 4) v) s = .next (s.updMgmt fun m => { m with pending := m.pending && !v.getLsbD 31 }) ∧
       exec (.w1cWrite .bmc (.mgmt 0) v) s =
         .next (s.updMgmt fun m => { m with warmIgnored := m.warmIgnored && !v.getLsbD 4 }))) ∧
  (∀ (s : State) (v : Word),
     (∀ n : ChanId, s.hostDrops = false → (s.channel n.val).open_ = true →
       ((s.channel n.val).enabled = false → v.toNat % 4096 = 0 →
         exec (.registerWrite .host (.chan n 0x30) v) s = .next (s.updChannel n.val fun c => { c with cmdBase := v }) ∧
         exec (.registerWrite .host (.chan n 0x38) v) s = .next (s.updChannel n.val fun c => { c with cplBase := v })) ∧
       ((s.channel n.val).enabled = true → exec (.registerWrite .host (.chan n 0x30) v) s = .next s ∧
         exec (.registerWrite .host (.chan n 0x38) v) s = .next s) ∧
       exec (.registerWrite .host (.chan n 0x50) v) s = .next (s.updChannel n.val fun c => { c with intr := v &&& 0x87FF87FF }) ∧
       exec (.registerWrite .host (.chan n 0x10) v) s = .next s ∧
       (1 ≤ v.toNat → v.toNat ≤ 60000 → exec (.registerWrite .host (.chan n 0x48) v) s =
         .next (s.updChannel n.val fun c => { c with timeout := BitVec.ofNat 16 v.toNat }))) ∧
     (∀ (k : StewardId) (p : Nat), s.stewardPart k.val = some p →
       exec (.registerWrite (.steward k) (.csr k 0x80B) v) s = .next (s.updSteward k.val fun w => { w with trapVec := v }) ∧
       exec (.registerWrite (.steward k) (.csr k 0x80D) v) s = .next (s.updSteward k.val fun w => { w with trapEpc := v }) ∧
       exec (.registerWrite (.steward k) (.csr k 0x80A) v) s = .next (s.updSteward k.val fun w => { w with wakeAt := v })) ∧
     (∀ (k : StewardId) (num : BitVec 12), 0x800 ≤ num.toNat → num.toNat < 0x900 →
       s.stewardPart k.val = none ∨ 0x810 ≤ num.toNat →
       exec (.registerWrite (.steward k) (.csr k num) v) s = .next ({ s with free := s.free + 2 }.stewardTrap k.val 2
         (Config.freeWord s.free) (Config.freeWord (s.free + 1)))))
end

