-- ==== Sys2Proof/Laws/Memory.lean ====
section
/-! SUPPORT. Laws of the byte memory: what a byte reads as after a write, and that every operation keeps the canonical
form. -/

namespace Sys2Proof.Machine

open Sys2Proof

/-- Every listed address is at least `a`. -/
def Memory.above (m : List Host.Cell) (a : Nat) : Prop := ∀ c ∈ m, a ≤ c.1

theorem Memory.wf_nil : Memory.wf [] = true := rfl

/-- The canonical form, one cell at a time. -/
theorem Memory.wf_cons (c : Host.Cell) (m : List Host.Cell) :
    Memory.wf (c :: m) = true ↔ c.2 ≠ 0 ∧ Memory.above m (c.1 + 1) ∧ Memory.wf m = true := by
  induction m generalizing c with
  | nil => simp [Memory.wf, Memory.above]
  | cons d m ih =>
    have hd := ih d
    have unf : Memory.wf (c :: d :: m) = true ↔ c.2 ≠ 0 ∧ c.1 < d.1 ∧ Memory.wf (d :: m) = true := by
      simp only [Memory.wf, List.all_cons, List.tail_cons, List.zip_cons_cons, Bool.and_eq_true, bne_iff_ne, ne_eq,
        decide_eq_true_eq]
      tauto
    rw [unf]
    constructor
    · rintro ⟨h₁, h₂, h₃⟩
      refine ⟨h₁, ?_, h₃⟩
      intro e he
      rcases List.mem_cons.1 he with rfl | he
      · omega
      · have := (hd.1 h₃).2.1 e he
        omega
    · rintro ⟨h₁, h₂, h₃⟩
      exact ⟨h₁, by have := h₂ d (by simp); omega, h₃⟩

/-- Setting a byte keeps a lower bound of the addresses. -/
theorem Memory.above_memSet (m : List Host.Cell) (a : Nat) (b : Byte) (n : Nat) (h : Memory.above m n) (ha : n ≤ a) :
    Memory.above (memSet m a b) n := by
  induction m with
  | nil =>
    unfold memSet
    split
    · exact h
    · intro c hc
      simp only [List.mem_singleton] at hc
      subst hc
      exact ha
  | cons c m ih =>
    obtain ⟨i, d⟩ := c
    have hm : Memory.above m n := fun e he => h e (List.mem_cons_of_mem _ he)
    have hi : n ≤ i := h (i, d) (by simp)
    unfold memSet
    split
    · split
      · exact h
      · intro e he
        rcases List.mem_cons.1 he with rfl | he
        · exact ha
        · exact h e he
    · split
      · split
        · exact hm
        · intro e he
          rcases List.mem_cons.1 he with rfl | he
          · exact ha
          · exact hm e he
      · intro e he
        rcases List.mem_cons.1 he with rfl | he
        · exact hi
        · exact ih hm e he

theorem Memory.above_mono {m : List Host.Cell} {a b : Nat} (h : Memory.above m b) (hab : a ≤ b) : Memory.above m a :=
  fun c hc => Nat.le_trans hab (h c hc)

/-- Setting a byte keeps the canonical form. -/
theorem Memory.wf_memSet (m : List Host.Cell) (a : Nat) (b : Byte) (h : Memory.wf m = true) :
    Memory.wf (memSet m a b) = true := by
  induction m with
  | nil =>
    unfold memSet
    split
    · rfl
    · rename_i hb
      exact (Memory.wf_cons _ _).2 ⟨hb, (fun c hc => nomatch hc), rfl⟩
  | cons c m ih =>
    obtain ⟨i, d⟩ := c
    obtain ⟨h₁, h₂, h₃⟩ := (Memory.wf_cons _ _).1 h
    unfold memSet
    split
    · rename_i hai
      split
      · exact h
      · rename_i hb
        refine (Memory.wf_cons _ _).2 ⟨hb, ?_, h⟩
        intro e he
        rcases List.mem_cons.1 he with rfl | he
        · exact hai
        · have := h₂ e he
          simp only at this ⊢
          omega
    · split
      · rename_i hai
        subst hai
        split
        · exact h₃
        · rename_i hb
          exact (Memory.wf_cons _ _).2 ⟨hb, h₂, h₃⟩
      · exact (Memory.wf_cons _ _).2 ⟨h₁, Memory.above_memSet m a b (i + 1) h₂ (by omega), ih h₃⟩

/-- Writing a byte string keeps the canonical form. -/
theorem Memory.wf_memWrite (m : List Host.Cell) (a : Nat) (bs : Bytes) (h : Memory.wf m = true) :
    Memory.wf (memWrite m a bs) = true := by
  induction bs generalizing m a with
  | nil => exact h
  | cons b bs ih => exact ih _ _ (Memory.wf_memSet m a b h)

/-- Dropping cells keeps the canonical form. -/
theorem Memory.wf_filter (m : List Host.Cell) (f : Host.Cell → Bool) (h : Memory.wf m = true) :
    Memory.wf (m.filter f) = true := by
  induction m with
  | nil => rfl
  | cons c m ih =>
    obtain ⟨h₁, h₂, h₃⟩ := (Memory.wf_cons _ _).1 h
    rw [List.filter_cons]
    split
    · exact (Memory.wf_cons _ _).2 ⟨h₁, fun e he => h₂ e (List.mem_of_mem_filter he), ih h₃⟩
    · exact ih h₃

theorem Memory.wf_memClear (m : List Host.Cell) (a n : Nat) (h : Memory.wf m = true) :
    Memory.wf (memClear m a n) = true := Memory.wf_filter m _ h

/-- A fold of writes keeps the canonical form. -/
theorem Memory.wf_foldl {α : Type} (f : List Host.Cell → α → List Host.Cell) (l : List α) (m : List Host.Cell)
    (hf : ∀ m x, Memory.wf m = true → Memory.wf (f m x) = true) (h : Memory.wf m = true) :
    Memory.wf (l.foldl f m) = true := by
  induction l generalizing m with
  | nil => exact h
  | cons x l ih => exact ih _ (hf m x h)

/-- Below every listed address, memory reads as zero. -/
theorem memGet_above (m : List Host.Cell) (a n : Nat) (h : Memory.above m n) (ha : a < n) : memGet m a = 0 := by
  induction m with
  | nil => rfl
  | cons c m ih =>
    obtain ⟨i, d⟩ := c
    have : n ≤ i := h (i, d) (by simp)
    rw [memGet, if_neg (by omega)]
    exact ih fun e he => h e (List.mem_cons_of_mem _ he)

/-- A byte that has been set reads as it was set. -/
theorem memGet_memSet_self (m : List Host.Cell) (a : Nat) (b : Byte) (h : Memory.wf m = true) :
    memGet (memSet m a b) a = b := by
  induction m with
  | nil =>
    unfold memSet
    split
    · rename_i hb
      simp [memGet, hb]
    · simp [memGet]
  | cons c m ih =>
    obtain ⟨i, d⟩ := c
    obtain ⟨h₁, h₂, h₃⟩ := (Memory.wf_cons _ _).1 h
    unfold memSet
    split
    · rename_i hai
      split
      · rename_i hb
        rw [memGet, if_neg (by omega), memGet_above m a (i + 1) h₂ (by omega), hb]
      · simp [memGet]
    · split
      · rename_i hai
        subst hai
        split
        · rename_i hb
          rw [memGet_above m a (a + 1) h₂ (by omega), hb]
        · simp [memGet]
      · rename_i h' h''
        rw [memGet, if_neg (fun e => h'' e.symm)]
        exact ih h₃

/-- Setting one byte leaves every other byte alone. -/
theorem memGet_memSet_ne (m : List Host.Cell) (a x : Nat) (b : Byte) (hx : x ≠ a) (h : Memory.wf m = true) :
    memGet (memSet m a b) x = memGet m x := by
  induction m with
  | nil =>
    unfold memSet
    split
    · rfl
    · simp [memGet, Ne.symm hx]
  | cons c m ih =>
    obtain ⟨i, d⟩ := c
    obtain ⟨h₁, h₂, h₃⟩ := (Memory.wf_cons _ _).1 h
    unfold memSet
    split
    · split
      · rfl
      · rw [memGet, if_neg (Ne.symm hx)]
    · split
      · rename_i hai
        subst hai
        split
        · by_cases hi : a = x
          · exact absurd hi.symm hx
          · rw [memGet, if_neg hi]
        · simp [memGet, Ne.symm hx]
      · rw [memGet, memGet, ih h₃]

/-- A byte string written from `a` leaves every byte outside it alone. -/
theorem memGet_memWrite_outside (m : List Host.Cell) (a x : Nat) (bs : Bytes) (hx : x < a ∨ a + bs.length ≤ x)
    (h : Memory.wf m = true) : memGet (memWrite m a bs) x = memGet m x := by
  induction bs generalizing m a with
  | nil => rfl
  | cons b bs ih =>
    rw [memWrite, ih _ _ (by simp only [List.length_cons] at hx; omega) (Memory.wf_memSet m a b h)]
    exact memGet_memSet_ne m a x b (by simp only [List.length_cons] at hx; omega) h

/-- A byte string that has been written reads back. -/
theorem memRead_memWrite_self (m : List Host.Cell) (a : Nat) (bs : Bytes) (h : Memory.wf m = true) :
    memRead (memWrite m a bs) a bs.length = bs := by
  induction bs generalizing m a with
  | nil => rfl
  | cons b bs ih =>
    simp only [List.length_cons, memRead, memWrite]
    rw [ih _ _ (Memory.wf_memSet m a b h), memGet_memWrite_outside _ _ _ _ (by omega) (Memory.wf_memSet m a b h),
      memGet_memSet_self m a b h]

end Sys2Proof.Machine
end

