-- ==== Sys2Proof/Laws/Keeps.lean ====
section
/-! SUPPORT. What every command keeps: the queue, the part, the model's time, the canonical form of the memory, and what
has been sent; and the count of free values never falls. -/

namespace Sys2Proof.Machine

open Sys2Proof

/-- State `t` follows state `s` by operations of commands. -/
structure Keeps (s t : State) : Prop where
  pending : t.pending = s.pending
  part : t.part = s.part
  time : t.time = s.time
  mem : Memory.wf s.mem = true → Memory.wf t.mem = true
  out : ∃ l, t.out = l ++ s.out
  free : s.free ≤ t.free

theorem Keeps.refl (s : State) : Keeps s s := ⟨rfl, rfl, rfl, id, ⟨[], rfl⟩, Nat.le_refl _⟩

theorem Keeps.trans {s t u : State} (h : Keeps s t) (k : Keeps t u) : Keeps s u where
  pending := k.pending.trans h.pending
  part := k.part.trans h.part
  time := k.time.trans h.time
  mem := fun m => k.mem (h.mem m)
  out := by
    obtain ⟨l, hl⟩ := h.out
    obtain ⟨r, hr⟩ := k.out
    exact ⟨r ++ l, by rw [hr, hl, List.append_assoc]⟩
  free := Nat.le_trans h.free k.free

/-- An update that sets fields other than the queue, the part and the time, and may write memory, send one message and
draw free values. -/
theorem Keeps.mkAll {s0 s : State} {m o f}
    {x_poison x_upsets x_writebacks x_testRuns x_openRows x_rowErrors x_regions x_regionsIdle x_dieOk x_dieFail x_selfId x_season x_cores
      x_saved x_partitions x_stewards x_steps x_pairs x_forecasts x_fcRequests x_fcScored x_xdies x_pools x_bpm
      x_hubs x_hbmStacks x_ports x_fabric x_groups x_colls x_collPast x_channels x_lastRing x_fw x_baro x_ckpt x_mgmt x_power
      x_tap}
    (h : Keeps s0 s) (hm : Memory.wf s.mem = true → Memory.wf m = true) (ho : ∃ l, o = l ++ s.out) (hf : s.free ≤ f) :
    Keeps s0
    ⟨s.pending, s.part, m, x_poison, x_upsets, x_writebacks, x_testRuns, x_openRows, x_rowErrors, x_regions, x_regionsIdle, x_dieOk, x_dieFail,
      x_selfId, x_season, x_cores, x_saved, x_partitions, x_stewards, x_steps, x_pairs, x_forecasts, x_fcRequests,
      x_fcScored, x_xdies, x_pools, x_bpm, x_hubs, x_hbmStacks, x_ports, x_fabric, x_groups, x_colls, x_collPast,
      x_channels, x_lastRing, x_fw, x_baro, x_ckpt, x_mgmt, x_power, x_tap, o, s.time, f⟩ :=
  h.trans ⟨rfl, rfl, rfl, hm, ho, hf⟩

/-- An update that writes no memory and sends nothing. -/
theorem Keeps.mkSet {s0 s : State} {f}
    {x_poison x_upsets x_writebacks x_testRuns x_openRows x_rowErrors x_regions x_regionsIdle x_dieOk x_dieFail x_selfId x_season x_cores
      x_saved x_partitions x_stewards x_steps x_pairs x_forecasts x_fcRequests x_fcScored x_xdies x_pools x_bpm
      x_hubs x_hbmStacks x_ports x_fabric x_groups x_colls x_collPast x_channels x_lastRing x_fw x_baro x_ckpt x_mgmt x_power
      x_tap}
    (h : Keeps s0 s) (hf : s.free ≤ f) :
    Keeps s0
    ⟨s.pending, s.part, s.mem, x_poison, x_upsets, x_writebacks, x_testRuns, x_openRows, x_rowErrors, x_regions, x_regionsIdle, x_dieOk,
      x_dieFail, x_selfId, x_season, x_cores, x_saved, x_partitions, x_stewards, x_steps, x_pairs, x_forecasts,
      x_fcRequests, x_fcScored, x_xdies, x_pools, x_bpm, x_hubs, x_hbmStacks, x_ports, x_fabric, x_groups, x_colls,
      x_collPast, x_channels, x_lastRing, x_fw, x_baro, x_ckpt, x_mgmt, x_power, x_tap, s.out, s.time, f⟩ :=
  h.trans ⟨rfl, rfl, rfl, id, ⟨[], rfl⟩, hf⟩

/-- A fold of operations that keep what commands keep. -/
theorem Keeps.foldl {α : Type} {s0 s : State} (f : State → α → State) (l : List α)
    (hf : ∀ s a, Keeps s0 s → Keeps s0 (f s a)) (h : Keeps s0 s) : Keeps s0 (l.foldl f s) := by
  induction l generalizing s with
  | nil => exact h
  | cons a l ih => exact ih (hf s a h)

theorem Keeps.sndOfEq {α : Type} {s0 t : State} {p : α × State} {a : α} (e : p = (a, t)) (h : Keeps s0 p.2) :
    Keeps s0 t := by rw [e] at h; exact h

theorem Keeps.fstOfEq {α : Type} {s0 t : State} {p : State × α} {a : α} (e : p = (t, a)) (h : Keeps s0 p.1) :
    Keeps s0 t := by rw [e] at h; exact h

theorem Keeps.trdOfEq {α β : Type} {s0 t : State} {p : α × β × State} {a : α} {b : β} (e : p = (a, b, t))
    (h : Keeps s0 p.2.2) : Keeps s0 t := by rw [e] at h; exact h

/-- A fold that carries a value beside the state. -/
theorem Keeps.foldlSnd {α β : Type} {s0 : State} (f : β × State → α → β × State) (l : List α) (b : β × State)
    (hf : ∀ b a, Keeps s0 b.2 → Keeps s0 (f b a).2) (h : Keeps s0 b.2) : Keeps s0 (l.foldl f b).2 := by
  induction l generalizing b with
  | nil => exact h
  | cons a l ih => exact ih _ (hf b a h)

theorem Keeps.foldlFst {α β : Type} {s0 : State} (f : State × β → α → State × β) (l : List α) (b : State × β)
    (hf : ∀ b a, Keeps s0 b.1 → Keeps s0 (f b a).1) (h : Keeps s0 b.1) : Keeps s0 (l.foldl f b).1 := by
  induction l generalizing b with
  | nil => exact h
  | cons a l ih => exact ih _ (hf b a h)

end Sys2Proof.Machine
end

