-- ==== Sys2Proof/Laws/Tables.lean ====
section
/-! SUPPORT. Laws of tables by number: what an entry reads as after another has been set or removed. -/

namespace Sys2Proof.Machine

open Sys2Proof

theorem Tab.get?_put_self {α : Type} (t : List (Nat × α)) (k : Nat) (a : α) : Tab.get? (Tab.put t k a) k = some a := by
  induction t with
  | nil => simp [Tab.put, Tab.get?]
  | cons e t ih =>
    obtain ⟨i, b⟩ := e
    unfold Tab.put
    split
    · simp [Tab.get?]
    · split
      · simp [Tab.get?]
      · rename_i h
        simp only [Tab.get?, ih, if_neg (Ne.symm h)]

theorem Tab.get?_put_ne {α : Type} (t : List (Nat × α)) (k j : Nat) (a : α) (h : j ≠ k) :
    Tab.get? (Tab.put t k a) j = Tab.get? t j := by
  induction t with
  | nil => simp [Tab.put, Tab.get?, Ne.symm h]
  | cons e t ih =>
    obtain ⟨i, b⟩ := e
    unfold Tab.put
    split
    · simp [Tab.get?, Ne.symm h]
    · split
      · rename_i hk
        subst hk
        simp [Tab.get?, Ne.symm h]
      · simp only [Tab.get?, ih]

@[simp] theorem Tab.get_put_self {α : Type} (d : α) (t : List (Nat × α)) (k : Nat) (a : α) :
    Tab.get d (Tab.put t k a) k = a := by
  simp [Tab.get, Tab.get?_put_self]

theorem Tab.get_put_ne {α : Type} (d : α) (t : List (Nat × α)) (k j : Nat) (a : α) (h : j ≠ k) :
    Tab.get d (Tab.put t k a) j = Tab.get d t j := by
  simp [Tab.get, Tab.get?_put_ne t k j a h]

@[simp] theorem Tab.put_put {α : Type} (t : List (Nat × α)) (k : Nat) (a b : α) :
    Tab.put (Tab.put t k a) k b = Tab.put t k b := by
  induction t with
  | nil => simp [Tab.put]
  | cons e t ih =>
    obtain ⟨i, c⟩ := e
    by_cases h₁ : k < i
    · simp [Tab.put, h₁]
    · by_cases h₂ : k = i
      · simp [Tab.put, h₂]
      · simp only [Tab.put, if_neg h₁, if_neg h₂, ih]

theorem Tab.get?_del {α : Type} (t : List (Nat × α)) (k j : Nat) :
    Tab.get? (Tab.del t k) j = if j = k then none else Tab.get? t j := by
  induction t with
  | nil => simp [Tab.del, Tab.get?]
  | cons e t ih =>
    obtain ⟨i, b⟩ := e
    simp only [Tab.del, List.filter_cons] at ih ⊢
    by_cases hi : i = k
    · subst hi
      by_cases hj : i = j
      · subst hj
        simpa using ih
      · simp [ih, Tab.get?, hj]
    · by_cases hj : i = j
      · subst hj
        simp [Tab.get?, hi]
      · simp [Tab.get?, hi, hj, ih]

@[simp] theorem Tab.get?_nil {α : Type} (k : Nat) : Tab.get? ([] : List (Nat × α)) k = none := rfl

@[simp] theorem Tab.get_nil {α : Type} (d : α) (k : Nat) : Tab.get d [] k = d := rfl

end Sys2Proof.Machine
end

