-- ==== Sys2Proof/Laws/State.lean ====
section
/-! SUPPORT. What each update of the state does to each field, and what the readers of the tables give after it. -/

namespace Sys2Proof.Machine

open Sys2Proof

/-! ## Fields that an update leaves alone -/

@[simp] theorem State.setCore_pending (s : State) (c : Nat) (k : Core) : (s.setCore c k).pending = s.pending := rfl
@[simp] theorem State.setCore_part (s : State) (c : Nat) (k : Core) : (s.setCore c k).part = s.part := rfl
@[simp] theorem State.setCore_mem (s : State) (c : Nat) (k : Core) : (s.setCore c k).mem = s.mem := rfl
@[simp] theorem State.setCore_poison (s : State) (c : Nat) (k : Core) : (s.setCore c k).poison = s.poison := rfl
@[simp] theorem State.setCore_upsets (s : State) (c : Nat) (k : Core) : (s.setCore c k).upsets = s.upsets := rfl
@[simp] theorem State.setCore_writebacks (s : State) (c : Nat) (k : Core) : (s.setCore c k).writebacks = s.writebacks := rfl
@[simp] theorem State.setCore_testRuns (s : State) (c : Nat) (k : Core) : (s.setCore c k).testRuns = s.testRuns := rfl
@[simp] theorem State.setCore_openRows (s : State) (c : Nat) (k : Core) : (s.setCore c k).openRows = s.openRows := rfl
@[simp] theorem State.setCore_rowErrors (s : State) (c : Nat) (k : Core) : (s.setCore c k).rowErrors = s.rowErrors := rfl
@[simp] theorem State.setCore_regions (s : State) (c : Nat) (k : Core) : (s.setCore c k).regions = s.regions := rfl
@[simp] theorem State.setCore_regionsIdle (s : State) (c : Nat) (k : Core) : (s.setCore c k).regionsIdle = s.regionsIdle := rfl
@[simp] theorem State.setCore_dieOk (s : State) (c : Nat) (k : Core) : (s.setCore c k).dieOk = s.dieOk := rfl
@[simp] theorem State.setCore_dieFail (s : State) (c : Nat) (k : Core) : (s.setCore c k).dieFail = s.dieFail := rfl
@[simp] theorem State.setCore_selfId (s : State) (c : Nat) (k : Core) : (s.setCore c k).selfId = s.selfId := rfl
@[simp] theorem State.setCore_season (s : State) (c : Nat) (k : Core) : (s.setCore c k).season = s.season := rfl
@[simp] theorem State.setCore_saved (s : State) (c : Nat) (k : Core) : (s.setCore c k).saved = s.saved := rfl
@[simp] theorem State.setCore_partitions (s : State) (c : Nat) (k : Core) : (s.setCore c k).partitions = s.partitions := rfl
@[simp] theorem State.setCore_stewards (s : State) (c : Nat) (k : Core) : (s.setCore c k).stewards = s.stewards := rfl
@[simp] theorem State.setCore_steps (s : State) (c : Nat) (k : Core) : (s.setCore c k).steps = s.steps := rfl
@[simp] theorem State.setCore_pairs (s : State) (c : Nat) (k : Core) : (s.setCore c k).pairs = s.pairs := rfl
@[simp] theorem State.setCore_forecasts (s : State) (c : Nat) (k : Core) : (s.setCore c k).forecasts = s.forecasts := rfl
@[simp] theorem State.setCore_fcRequests (s : State) (c : Nat) (k : Core) : (s.setCore c k).fcRequests = s.fcRequests := rfl
@[simp] theorem State.setCore_fcScored (s : State) (c : Nat) (k : Core) : (s.setCore c k).fcScored = s.fcScored := rfl
@[simp] theorem State.setCore_xdies (s : State) (c : Nat) (k : Core) : (s.setCore c k).xdies = s.xdies := rfl
@[simp] theorem State.setCore_pools (s : State) (c : Nat) (k : Core) : (s.setCore c k).pools = s.pools := rfl
@[simp] theorem State.setCore_bpm (s : State) (c : Nat) (k : Core) : (s.setCore c k).bpm = s.bpm := rfl
@[simp] theorem State.setCore_hubs (s : State) (c : Nat) (k : Core) : (s.setCore c k).hubs = s.hubs := rfl
@[simp] theorem State.setCore_hbmStacks (s : State) (c : Nat) (k : Core) : (s.setCore c k).hbmStacks = s.hbmStacks := rfl
@[simp] theorem State.setCore_ports (s : State) (c : Nat) (k : Core) : (s.setCore c k).ports = s.ports := rfl
@[simp] theorem State.setCore_fabric (s : State) (c : Nat) (k : Core) : (s.setCore c k).fabric = s.fabric := rfl
@[simp] theorem State.setCore_groups (s : State) (c : Nat) (k : Core) : (s.setCore c k).groups = s.groups := rfl
@[simp] theorem State.setCore_colls (s : State) (c : Nat) (k : Core) : (s.setCore c k).colls = s.colls := rfl
@[simp] theorem State.setCore_collPast (s : State) (c : Nat) (k : Core) : (s.setCore c k).collPast = s.collPast := rfl
@[simp] theorem State.setCore_channels (s : State) (c : Nat) (k : Core) : (s.setCore c k).channels = s.channels := rfl
@[simp] theorem State.setCore_lastRing (s : State) (c : Nat) (k : Core) : (s.setCore c k).lastRing = s.lastRing := rfl
@[simp] theorem State.setCore_fw (s : State) (c : Nat) (k : Core) : (s.setCore c k).fw = s.fw := rfl
@[simp] theorem State.setCore_baro (s : State) (c : Nat) (k : Core) : (s.setCore c k).baro = s.baro := rfl
@[simp] theorem State.setCore_ckpt (s : State) (c : Nat) (k : Core) : (s.setCore c k).ckpt = s.ckpt := rfl
@[simp] theorem State.setCore_mgmt (s : State) (c : Nat) (k : Core) : (s.setCore c k).mgmt = s.mgmt := rfl
@[simp] theorem State.setCore_power (s : State) (c : Nat) (k : Core) : (s.setCore c k).power = s.power := rfl
@[simp] theorem State.setCore_tap (s : State) (c : Nat) (k : Core) : (s.setCore c k).tap = s.tap := rfl
@[simp] theorem State.setCore_out (s : State) (c : Nat) (k : Core) : (s.setCore c k).out = s.out := rfl
@[simp] theorem State.setCore_time (s : State) (c : Nat) (k : Core) : (s.setCore c k).time = s.time := rfl
@[simp] theorem State.setCore_free (s : State) (c : Nat) (k : Core) : (s.setCore c k).free = s.free := rfl

@[simp] theorem State.updCore_pending (s : State) (c : Nat) (f : Core → Core) : (s.updCore c f).pending = s.pending := rfl
@[simp] theorem State.updCore_part (s : State) (c : Nat) (f : Core → Core) : (s.updCore c f).part = s.part := rfl
@[simp] theorem State.updCore_mem (s : State) (c : Nat) (f : Core → Core) : (s.updCore c f).mem = s.mem := rfl
@[simp] theorem State.updCore_poison (s : State) (c : Nat) (f : Core → Core) : (s.updCore c f).poison = s.poison := rfl
@[simp] theorem State.updCore_upsets (s : State) (c : Nat) (f : Core → Core) : (s.updCore c f).upsets = s.upsets := rfl
@[simp] theorem State.updCore_writebacks (s : State) (c : Nat) (f : Core → Core) : (s.updCore c f).writebacks = s.writebacks := rfl
@[simp] theorem State.updCore_testRuns (s : State) (c : Nat) (f : Core → Core) : (s.updCore c f).testRuns = s.testRuns := rfl
@[simp] theorem State.updCore_openRows (s : State) (c : Nat) (f : Core → Core) : (s.updCore c f).openRows = s.openRows := rfl
@[simp] theorem State.updCore_rowErrors (s : State) (c : Nat) (f : Core → Core) : (s.updCore c f).rowErrors = s.rowErrors := rfl
@[simp] theorem State.updCore_regions (s : State) (c : Nat) (f : Core → Core) : (s.updCore c f).regions = s.regions := rfl
@[simp] theorem State.updCore_regionsIdle (s : State) (c : Nat) (f : Core → Core) : (s.updCore c f).regionsIdle = s.regionsIdle := rfl
@[simp] theorem State.updCore_dieOk (s : State) (c : Nat) (f : Core → Core) : (s.updCore c f).dieOk = s.dieOk := rfl
@[simp] theorem State.updCore_dieFail (s : State) (c : Nat) (f : Core → Core) : (s.updCore c f).dieFail = s.dieFail := rfl
@[simp] theorem State.updCore_selfId (s : State) (c : Nat) (f : Core → Core) : (s.updCore c f).selfId = s.selfId := rfl
@[simp] theorem State.updCore_season (s : State) (c : Nat) (f : Core → Core) : (s.updCore c f).season = s.season := rfl
@[simp] theorem State.updCore_saved (s : State) (c : Nat) (f : Core → Core) : (s.updCore c f).saved = s.saved := rfl
@[simp] theorem State.updCore_partitions (s : State) (c : Nat) (f : Core → Core) : (s.updCore c f).partitions = s.partitions := rfl
@[simp] theorem State.updCore_stewards (s : State) (c : Nat) (f : Core → Core) : (s.updCore c f).stewards = s.stewards := rfl
@[simp] theorem State.updCore_steps (s : State) (c : Nat) (f : Core → Core) : (s.updCore c f).steps = s.steps := rfl
@[simp] theorem State.updCore_pairs (s : State) (c : Nat) (f : Core → Core) : (s.updCore c f).pairs = s.pairs := rfl
@[simp] theorem State.updCore_forecasts (s : State) (c : Nat) (f : Core → Core) : (s.updCore c f).forecasts = s.forecasts := rfl
@[simp] theorem State.updCore_fcRequests (s : State) (c : Nat) (f : Core → Core) : (s.updCore c f).fcRequests = s.fcRequests := rfl
@[simp] theorem State.updCore_fcScored (s : State) (c : Nat) (f : Core → Core) : (s.updCore c f).fcScored = s.fcScored := rfl
@[simp] theorem State.updCore_xdies (s : State) (c : Nat) (f : Core → Core) : (s.updCore c f).xdies = s.xdies := rfl
@[simp] theorem State.updCore_pools (s : State) (c : Nat) (f : Core → Core) : (s.updCore c f).pools = s.pools := rfl
@[simp] theorem State.updCore_bpm (s : State) (c : Nat) (f : Core → Core) : (s.updCore c f).bpm = s.bpm := rfl
@[simp] theorem State.updCore_hubs (s : State) (c : Nat) (f : Core → Core) : (s.updCore c f).hubs = s.hubs := rfl
@[simp] theorem State.updCore_hbmStacks (s : State) (c : Nat) (f : Core → Core) : (s.updCore c f).hbmStacks = s.hbmStacks := rfl
@[simp] theorem State.updCore_ports (s : State) (c : Nat) (f : Core → Core) : (s.updCore c f).ports = s.ports := rfl
@[simp] theorem State.updCore_fabric (s : State) (c : Nat) (f : Core → Core) : (s.updCore c f).fabric = s.fabric := rfl
@[simp] theorem State.updCore_groups (s : State) (c : Nat) (f : Core → Core) : (s.updCore c f).groups = s.groups := rfl
@[simp] theorem State.updCore_colls (s : State) (c : Nat) (f : Core → Core) : (s.updCore c f).colls = s.colls := rfl
@[simp] theorem State.updCore_collPast (s : State) (c : Nat) (f : Core → Core) : (s.updCore c f).collPast = s.collPast := rfl
@[simp] theorem State.updCore_channels (s : State) (c : Nat) (f : Core → Core) : (s.updCore c f).channels = s.channels := rfl
@[simp] theorem State.updCore_lastRing (s : State) (c : Nat) (f : Core → Core) : (s.updCore c f).lastRing = s.lastRing := rfl
@[simp] theorem State.updCore_fw (s : State) (c : Nat) (f : Core → Core) : (s.updCore c f).fw = s.fw := rfl
@[simp] theorem State.updCore_baro (s : State) (c : Nat) (f : Core → Core) : (s.updCore c f).baro = s.baro := rfl
@[simp] theorem State.updCore_ckpt (s : State) (c : Nat) (f : Core → Core) : (s.updCore c f).ckpt = s.ckpt := rfl
@[simp] theorem State.updCore_mgmt (s : State) (c : Nat) (f : Core → Core) : (s.updCore c f).mgmt = s.mgmt := rfl
@[simp] theorem State.updCore_power (s : State) (c : Nat) (f : Core → Core) : (s.updCore c f).power = s.power := rfl
@[simp] theorem State.updCore_tap (s : State) (c : Nat) (f : Core → Core) : (s.updCore c f).tap = s.tap := rfl
@[simp] theorem State.updCore_out (s : State) (c : Nat) (f : Core → Core) : (s.updCore c f).out = s.out := rfl
@[simp] theorem State.updCore_time (s : State) (c : Nat) (f : Core → Core) : (s.updCore c f).time = s.time := rfl
@[simp] theorem State.updCore_free (s : State) (c : Nat) (f : Core → Core) : (s.updCore c f).free = s.free := rfl

@[simp] theorem State.setPartition_pending (s : State) (p : Nat) (x : Partition) : (s.setPartition p x).pending = s.pending := rfl
@[simp] theorem State.setPartition_part (s : State) (p : Nat) (x : Partition) : (s.setPartition p x).part = s.part := rfl
@[simp] theorem State.setPartition_mem (s : State) (p : Nat) (x : Partition) : (s.setPartition p x).mem = s.mem := rfl
@[simp] theorem State.setPartition_poison (s : State) (p : Nat) (x : Partition) : (s.setPartition p x).poison = s.poison := rfl
@[simp] theorem State.setPartition_upsets (s : State) (p : Nat) (x : Partition) : (s.setPartition p x).upsets = s.upsets := rfl
@[simp] theorem State.setPartition_writebacks (s : State) (p : Nat) (x : Partition) : (s.setPartition p x).writebacks = s.writebacks := rfl
@[simp] theorem State.setPartition_testRuns (s : State) (p : Nat) (x : Partition) : (s.setPartition p x).testRuns = s.testRuns := rfl
@[simp] theorem State.setPartition_openRows (s : State) (p : Nat) (x : Partition) : (s.setPartition p x).openRows = s.openRows := rfl
@[simp] theorem State.setPartition_rowErrors (s : State) (p : Nat) (x : Partition) : (s.setPartition p x).rowErrors = s.rowErrors := rfl
@[simp] theorem State.setPartition_regions (s : State) (p : Nat) (x : Partition) : (s.setPartition p x).regions = s.regions := rfl
@[simp] theorem State.setPartition_regionsIdle (s : State) (p : Nat) (x : Partition) : (s.setPartition p x).regionsIdle = s.regionsIdle := rfl
@[simp] theorem State.setPartition_dieOk (s : State) (p : Nat) (x : Partition) : (s.setPartition p x).dieOk = s.dieOk := rfl
@[simp] theorem State.setPartition_dieFail (s : State) (p : Nat) (x : Partition) : (s.setPartition p x).dieFail = s.dieFail := rfl
@[simp] theorem State.setPartition_selfId (s : State) (p : Nat) (x : Partition) : (s.setPartition p x).selfId = s.selfId := rfl
@[simp] theorem State.setPartition_season (s : State) (p : Nat) (x : Partition) : (s.setPartition p x).season = s.season := rfl
@[simp] theorem State.setPartition_cores (s : State) (p : Nat) (x : Partition) : (s.setPartition p x).cores = s.cores := rfl
@[simp] theorem State.setPartition_saved (s : State) (p : Nat) (x : Partition) : (s.setPartition p x).saved = s.saved := rfl
@[simp] theorem State.setPartition_stewards (s : State) (p : Nat) (x : Partition) : (s.setPartition p x).stewards = s.stewards := rfl
@[simp] theorem State.setPartition_steps (s : State) (p : Nat) (x : Partition) : (s.setPartition p x).steps = s.steps := rfl
@[simp] theorem State.setPartition_pairs (s : State) (p : Nat) (x : Partition) : (s.setPartition p x).pairs = s.pairs := rfl
@[simp] theorem State.setPartition_forecasts (s : State) (p : Nat) (x : Partition) : (s.setPartition p x).forecasts = s.forecasts := rfl
@[simp] theorem State.setPartition_fcRequests (s : State) (p : Nat) (x : Partition) : (s.setPartition p x).fcRequests = s.fcRequests := rfl
@[simp] theorem State.setPartition_fcScored (s : State) (p : Nat) (x : Partition) : (s.setPartition p x).fcScored = s.fcScored := rfl
@[simp] theorem State.setPartition_xdies (s : State) (p : Nat) (x : Partition) : (s.setPartition p x).xdies = s.xdies := rfl
@[simp] theorem State.setPartition_pools (s : State) (p : Nat) (x : Partition) : (s.setPartition p x).pools = s.pools := rfl
@[simp] theorem State.setPartition_bpm (s : State) (p : Nat) (x : Partition) : (s.setPartition p x).bpm = s.bpm := rfl
@[simp] theorem State.setPartition_hubs (s : State) (p : Nat) (x : Partition) : (s.setPartition p x).hubs = s.hubs := rfl
@[simp] theorem State.setPartition_hbmStacks (s : State) (p : Nat) (x : Partition) : (s.setPartition p x).hbmStacks = s.hbmStacks := rfl
@[simp] theorem State.setPartition_ports (s : State) (p : Nat) (x : Partition) : (s.setPartition p x).ports = s.ports := rfl
@[simp] theorem State.setPartition_fabric (s : State) (p : Nat) (x : Partition) : (s.setPartition p x).fabric = s.fabric := rfl
@[simp] theorem State.setPartition_groups (s : State) (p : Nat) (x : Partition) : (s.setPartition p x).groups = s.groups := rfl
@[simp] theorem State.setPartition_colls (s : State) (p : Nat) (x : Partition) : (s.setPartition p x).colls = s.colls := rfl
@[simp] theorem State.setPartition_collPast (s : State) (p : Nat) (x : Partition) : (s.setPartition p x).collPast = s.collPast := rfl
@[simp] theorem State.setPartition_channels (s : State) (p : Nat) (x : Partition) : (s.setPartition p x).channels = s.channels := rfl
@[simp] theorem State.setPartition_lastRing (s : State) (p : Nat) (x : Partition) : (s.setPartition p x).lastRing = s.lastRing := rfl
@[simp] theorem State.setPartition_fw (s : State) (p : Nat) (x : Partition) : (s.setPartition p x).fw = s.fw := rfl
@[simp] theorem State.setPartition_baro (s : State) (p : Nat) (x : Partition) : (s.setPartition p x).baro = s.baro := rfl
@[simp] theorem State.setPartition_ckpt (s : State) (p : Nat) (x : Partition) : (s.setPartition p x).ckpt = s.ckpt := rfl
@[simp] theorem State.setPartition_mgmt (s : State) (p : Nat) (x : Partition) : (s.setPartition p x).mgmt = s.mgmt := rfl
@[simp] theorem State.setPartition_power (s : State) (p : Nat) (x : Partition) : (s.setPartition p x).power = s.power := rfl
@[simp] theorem State.setPartition_tap (s : State) (p : Nat) (x : Partition) : (s.setPartition p x).tap = s.tap := rfl
@[simp] theorem State.setPartition_out (s : State) (p : Nat) (x : Partition) : (s.setPartition p x).out = s.out := rfl
@[simp] theorem State.setPartition_time (s : State) (p : Nat) (x : Partition) : (s.setPartition p x).time = s.time := rfl
@[simp] theorem State.setPartition_free (s : State) (p : Nat) (x : Partition) : (s.setPartition p x).free = s.free := rfl

@[simp] theorem State.updPartition_pending (s : State) (p : Nat) (f : Partition → Partition) : (s.updPartition p f).pending = s.pending := rfl
@[simp] theorem State.updPartition_part (s : State) (p : Nat) (f : Partition → Partition) : (s.updPartition p f).part = s.part := rfl
@[simp] theorem State.updPartition_mem (s : State) (p : Nat) (f : Partition → Partition) : (s.updPartition p f).mem = s.mem := rfl
@[simp] theorem State.updPartition_poison (s : State) (p : Nat) (f : Partition → Partition) : (s.updPartition p f).poison = s.poison := rfl
@[simp] theorem State.updPartition_upsets (s : State) (p : Nat) (f : Partition → Partition) : (s.updPartition p f).upsets = s.upsets := rfl
@[simp] theorem State.updPartition_writebacks (s : State) (p : Nat) (f : Partition → Partition) : (s.updPartition p f).writebacks = s.writebacks := rfl
@[simp] theorem State.updPartition_testRuns (s : State) (p : Nat) (f : Partition → Partition) : (s.updPartition p f).testRuns = s.testRuns := rfl
@[simp] theorem State.updPartition_openRows (s : State) (p : Nat) (f : Partition → Partition) : (s.updPartition p f).openRows = s.openRows := rfl
@[simp] theorem State.updPartition_rowErrors (s : State) (p : Nat) (f : Partition → Partition) : (s.updPartition p f).rowErrors = s.rowErrors := rfl
@[simp] theorem State.updPartition_regions (s : State) (p : Nat) (f : Partition → Partition) : (s.updPartition p f).regions = s.regions := rfl
@[simp] theorem State.updPartition_regionsIdle (s : State) (p : Nat) (f : Partition → Partition) : (s.updPartition p f).regionsIdle = s.regionsIdle := rfl
@[simp] theorem State.updPartition_dieOk (s : State) (p : Nat) (f : Partition → Partition) : (s.updPartition p f).dieOk = s.dieOk := rfl
@[simp] theorem State.updPartition_dieFail (s : State) (p : Nat) (f : Partition → Partition) : (s.updPartition p f).dieFail = s.dieFail := rfl
@[simp] theorem State.updPartition_selfId (s : State) (p : Nat) (f : Partition → Partition) : (s.updPartition p f).selfId = s.selfId := rfl
@[simp] theorem State.updPartition_season (s : State) (p : Nat) (f : Partition → Partition) : (s.updPartition p f).season = s.season := rfl
@[simp] theorem State.updPartition_cores (s : State) (p : Nat) (f : Partition → Partition) : (s.updPartition p f).cores = s.cores := rfl
@[simp] theorem State.updPartition_saved (s : State) (p : Nat) (f : Partition → Partition) : (s.updPartition p f).saved = s.saved := rfl
@[simp] theorem State.updPartition_stewards (s : State) (p : Nat) (f : Partition → Partition) : (s.updPartition p f).stewards = s.stewards := rfl
@[simp] theorem State.updPartition_steps (s : State) (p : Nat) (f : Partition → Partition) : (s.updPartition p f).steps = s.steps := rfl
@[simp] theorem State.updPartition_pairs (s : State) (p : Nat) (f : Partition → Partition) : (s.updPartition p f).pairs = s.pairs := rfl
@[simp] theorem State.updPartition_forecasts (s : State) (p : Nat) (f : Partition → Partition) : (s.updPartition p f).forecasts = s.forecasts := rfl
@[simp] theorem State.updPartition_fcRequests (s : State) (p : Nat) (f : Partition → Partition) : (s.updPartition p f).fcRequests = s.fcRequests := rfl
@[simp] theorem State.updPartition_fcScored (s : State) (p : Nat) (f : Partition → Partition) : (s.updPartition p f).fcScored = s.fcScored := rfl
@[simp] theorem State.updPartition_xdies (s : State) (p : Nat) (f : Partition → Partition) : (s.updPartition p f).xdies = s.xdies := rfl
@[simp] theorem State.updPartition_pools (s : State) (p : Nat) (f : Partition → Partition) : (s.updPartition p f).pools = s.pools := rfl
@[simp] theorem State.updPartition_bpm (s : State) (p : Nat) (f : Partition → Partition) : (s.updPartition p f).bpm = s.bpm := rfl
@[simp] theorem State.updPartition_hubs (s : State) (p : Nat) (f : Partition → Partition) : (s.updPartition p f).hubs = s.hubs := rfl
@[simp] theorem State.updPartition_hbmStacks (s : State) (p : Nat) (f : Partition → Partition) : (s.updPartition p f).hbmStacks = s.hbmStacks := rfl
@[simp] theorem State.updPartition_ports (s : State) (p : Nat) (f : Partition → Partition) : (s.updPartition p f).ports = s.ports := rfl
@[simp] theorem State.updPartition_fabric (s : State) (p : Nat) (f : Partition → Partition) : (s.updPartition p f).fabric = s.fabric := rfl
@[simp] theorem State.updPartition_groups (s : State) (p : Nat) (f : Partition → Partition) : (s.updPartition p f).groups = s.groups := rfl
@[simp] theorem State.updPartition_colls (s : State) (p : Nat) (f : Partition → Partition) : (s.updPartition p f).colls = s.colls := rfl
@[simp] theorem State.updPartition_collPast (s : State) (p : Nat) (f : Partition → Partition) : (s.updPartition p f).collPast = s.collPast := rfl
@[simp] theorem State.updPartition_channels (s : State) (p : Nat) (f : Partition → Partition) : (s.updPartition p f).channels = s.channels := rfl
@[simp] theorem State.updPartition_lastRing (s : State) (p : Nat) (f : Partition → Partition) : (s.updPartition p f).lastRing = s.lastRing := rfl
@[simp] theorem State.updPartition_fw (s : State) (p : Nat) (f : Partition → Partition) : (s.updPartition p f).fw = s.fw := rfl
@[simp] theorem State.updPartition_baro (s : State) (p : Nat) (f : Partition → Partition) : (s.updPartition p f).baro = s.baro := rfl
@[simp] theorem State.updPartition_ckpt (s : State) (p : Nat) (f : Partition → Partition) : (s.updPartition p f).ckpt = s.ckpt := rfl
@[simp] theorem State.updPartition_mgmt (s : State) (p : Nat) (f : Partition → Partition) : (s.updPartition p f).mgmt = s.mgmt := rfl
@[simp] theorem State.updPartition_power (s : State) (p : Nat) (f : Partition → Partition) : (s.updPartition p f).power = s.power := rfl
@[simp] theorem State.updPartition_tap (s : State) (p : Nat) (f : Partition → Partition) : (s.updPartition p f).tap = s.tap := rfl
@[simp] theorem State.updPartition_out (s : State) (p : Nat) (f : Partition → Partition) : (s.updPartition p f).out = s.out := rfl
@[simp] theorem State.updPartition_time (s : State) (p : Nat) (f : Partition → Partition) : (s.updPartition p f).time = s.time := rfl
@[simp] theorem State.updPartition_free (s : State) (p : Nat) (f : Partition → Partition) : (s.updPartition p f).free = s.free := rfl

@[simp] theorem State.updSteward_pending (s : State) (k : Nat) (f : Steward → Steward) : (s.updSteward k f).pending = s.pending := rfl
@[simp] theorem State.updSteward_part (s : State) (k : Nat) (f : Steward → Steward) : (s.updSteward k f).part = s.part := rfl
@[simp] theorem State.updSteward_mem (s : State) (k : Nat) (f : Steward → Steward) : (s.updSteward k f).mem = s.mem := rfl
@[simp] theorem State.updSteward_poison (s : State) (k : Nat) (f : Steward → Steward) : (s.updSteward k f).poison = s.poison := rfl
@[simp] theorem State.updSteward_upsets (s : State) (k : Nat) (f : Steward → Steward) : (s.updSteward k f).upsets = s.upsets := rfl
@[simp] theorem State.updSteward_writebacks (s : State) (k : Nat) (f : Steward → Steward) : (s.updSteward k f).writebacks = s.writebacks := rfl
@[simp] theorem State.updSteward_testRuns (s : State) (k : Nat) (f : Steward → Steward) : (s.updSteward k f).testRuns = s.testRuns := rfl
@[simp] theorem State.updSteward_openRows (s : State) (k : Nat) (f : Steward → Steward) : (s.updSteward k f).openRows = s.openRows := rfl
@[simp] theorem State.updSteward_rowErrors (s : State) (k : Nat) (f : Steward → Steward) : (s.updSteward k f).rowErrors = s.rowErrors := rfl
@[simp] theorem State.updSteward_regions (s : State) (k : Nat) (f : Steward → Steward) : (s.updSteward k f).regions = s.regions := rfl
@[simp] theorem State.updSteward_regionsIdle (s : State) (k : Nat) (f : Steward → Steward) : (s.updSteward k f).regionsIdle = s.regionsIdle := rfl
@[simp] theorem State.updSteward_dieOk (s : State) (k : Nat) (f : Steward → Steward) : (s.updSteward k f).dieOk = s.dieOk := rfl
@[simp] theorem State.updSteward_dieFail (s : State) (k : Nat) (f : Steward → Steward) : (s.updSteward k f).dieFail = s.dieFail := rfl
@[simp] theorem State.updSteward_selfId (s : State) (k : Nat) (f : Steward → Steward) : (s.updSteward k f).selfId = s.selfId := rfl
@[simp] theorem State.updSteward_season (s : State) (k : Nat) (f : Steward → Steward) : (s.updSteward k f).season = s.season := rfl
@[simp] theorem State.updSteward_cores (s : State) (k : Nat) (f : Steward → Steward) : (s.updSteward k f).cores = s.cores := rfl
@[simp] theorem State.updSteward_saved (s : State) (k : Nat) (f : Steward → Steward) : (s.updSteward k f).saved = s.saved := rfl
@[simp] theorem State.updSteward_partitions (s : State) (k : Nat) (f : Steward → Steward) : (s.updSteward k f).partitions = s.partitions := rfl
@[simp] theorem State.updSteward_steps (s : State) (k : Nat) (f : Steward → Steward) : (s.updSteward k f).steps = s.steps := rfl
@[simp] theorem State.updSteward_pairs (s : State) (k : Nat) (f : Steward → Steward) : (s.updSteward k f).pairs = s.pairs := rfl
@[simp] theorem State.updSteward_forecasts (s : State) (k : Nat) (f : Steward → Steward) : (s.updSteward k f).forecasts = s.forecasts := rfl
@[simp] theorem State.updSteward_fcRequests (s : State) (k : Nat) (f : Steward → Steward) : (s.updSteward k f).fcRequests = s.fcRequests := rfl
@[simp] theorem State.updSteward_fcScored (s : State) (k : Nat) (f : Steward → Steward) : (s.updSteward k f).fcScored = s.fcScored := rfl
@[simp] theorem State.updSteward_xdies (s : State) (k : Nat) (f : Steward → Steward) : (s.updSteward k f).xdies = s.xdies := rfl
@[simp] theorem State.updSteward_pools (s : State) (k : Nat) (f : Steward → Steward) : (s.updSteward k f).pools = s.pools := rfl
@[simp] theorem State.updSteward_bpm (s : State) (k : Nat) (f : Steward → Steward) : (s.updSteward k f).bpm = s.bpm := rfl
@[simp] theorem State.updSteward_hubs (s : State) (k : Nat) (f : Steward → Steward) : (s.updSteward k f).hubs = s.hubs := rfl
@[simp] theorem State.updSteward_hbmStacks (s : State) (k : Nat) (f : Steward → Steward) : (s.updSteward k f).hbmStacks = s.hbmStacks := rfl
@[simp] theorem State.updSteward_ports (s : State) (k : Nat) (f : Steward → Steward) : (s.updSteward k f).ports = s.ports := rfl
@[simp] theorem State.updSteward_fabric (s : State) (k : Nat) (f : Steward → Steward) : (s.updSteward k f).fabric = s.fabric := rfl
@[simp] theorem State.updSteward_groups (s : State) (k : Nat) (f : Steward → Steward) : (s.updSteward k f).groups = s.groups := rfl
@[simp] theorem State.updSteward_colls (s : State) (k : Nat) (f : Steward → Steward) : (s.updSteward k f).colls = s.colls := rfl
@[simp] theorem State.updSteward_collPast (s : State) (k : Nat) (f : Steward → Steward) : (s.updSteward k f).collPast = s.collPast := rfl
@[simp] theorem State.updSteward_channels (s : State) (k : Nat) (f : Steward → Steward) : (s.updSteward k f).channels = s.channels := rfl
@[simp] theorem State.updSteward_lastRing (s : State) (k : Nat) (f : Steward → Steward) : (s.updSteward k f).lastRing = s.lastRing := rfl
@[simp] theorem State.updSteward_fw (s : State) (k : Nat) (f : Steward → Steward) : (s.updSteward k f).fw = s.fw := rfl
@[simp] theorem State.updSteward_baro (s : State) (k : Nat) (f : Steward → Steward) : (s.updSteward k f).baro = s.baro := rfl
@[simp] theorem State.updSteward_ckpt (s : State) (k : Nat) (f : Steward → Steward) : (s.updSteward k f).ckpt = s.ckpt := rfl
@[simp] theorem State.updSteward_mgmt (s : State) (k : Nat) (f : Steward → Steward) : (s.updSteward k f).mgmt = s.mgmt := rfl
@[simp] theorem State.updSteward_power (s : State) (k : Nat) (f : Steward → Steward) : (s.updSteward k f).power = s.power := rfl
@[simp] theorem State.updSteward_tap (s : State) (k : Nat) (f : Steward → Steward) : (s.updSteward k f).tap = s.tap := rfl
@[simp] theorem State.updSteward_out (s : State) (k : Nat) (f : Steward → Steward) : (s.updSteward k f).out = s.out := rfl
@[simp] theorem State.updSteward_time (s : State) (k : Nat) (f : Steward → Steward) : (s.updSteward k f).time = s.time := rfl
@[simp] theorem State.updSteward_free (s : State) (k : Nat) (f : Steward → Steward) : (s.updSteward k f).free = s.free := rfl

@[simp] theorem State.updXdie_pending (s : State) (x : Nat) (f : XDieState → XDieState) : (s.updXdie x f).pending = s.pending := rfl
@[simp] theorem State.updXdie_part (s : State) (x : Nat) (f : XDieState → XDieState) : (s.updXdie x f).part = s.part := rfl
@[simp] theorem State.updXdie_mem (s : State) (x : Nat) (f : XDieState → XDieState) : (s.updXdie x f).mem = s.mem := rfl
@[simp] theorem State.updXdie_poison (s : State) (x : Nat) (f : XDieState → XDieState) : (s.updXdie x f).poison = s.poison := rfl
@[simp] theorem State.updXdie_upsets (s : State) (x : Nat) (f : XDieState → XDieState) : (s.updXdie x f).upsets = s.upsets := rfl
@[simp] theorem State.updXdie_writebacks (s : State) (x : Nat) (f : XDieState → XDieState) : (s.updXdie x f).writebacks = s.writebacks := rfl
@[simp] theorem State.updXdie_testRuns (s : State) (x : Nat) (f : XDieState → XDieState) : (s.updXdie x f).testRuns = s.testRuns := rfl
@[simp] theorem State.updXdie_openRows (s : State) (x : Nat) (f : XDieState → XDieState) : (s.updXdie x f).openRows = s.openRows := rfl
@[simp] theorem State.updXdie_rowErrors (s : State) (x : Nat) (f : XDieState → XDieState) : (s.updXdie x f).rowErrors = s.rowErrors := rfl
@[simp] theorem State.updXdie_regions (s : State) (x : Nat) (f : XDieState → XDieState) : (s.updXdie x f).regions = s.regions := rfl
@[simp] theorem State.updXdie_regionsIdle (s : State) (x : Nat) (f : XDieState → XDieState) : (s.updXdie x f).regionsIdle = s.regionsIdle := rfl
@[simp] theorem State.updXdie_dieOk (s : State) (x : Nat) (f : XDieState → XDieState) : (s.updXdie x f).dieOk = s.dieOk := rfl
@[simp] theorem State.updXdie_dieFail (s : State) (x : Nat) (f : XDieState → XDieState) : (s.updXdie x f).dieFail = s.dieFail := rfl
@[simp] theorem State.updXdie_selfId (s : State) (x : Nat) (f : XDieState → XDieState) : (s.updXdie x f).selfId = s.selfId := rfl
@[simp] theorem State.updXdie_season (s : State) (x : Nat) (f : XDieState → XDieState) : (s.updXdie x f).season = s.season := rfl
@[simp] theorem State.updXdie_cores (s : State) (x : Nat) (f : XDieState → XDieState) : (s.updXdie x f).cores = s.cores := rfl
@[simp] theorem State.updXdie_saved (s : State) (x : Nat) (f : XDieState → XDieState) : (s.updXdie x f).saved = s.saved := rfl
@[simp] theorem State.updXdie_partitions (s : State) (x : Nat) (f : XDieState → XDieState) : (s.updXdie x f).partitions = s.partitions := rfl
@[simp] theorem State.updXdie_stewards (s : State) (x : Nat) (f : XDieState → XDieState) : (s.updXdie x f).stewards = s.stewards := rfl
@[simp] theorem State.updXdie_steps (s : State) (x : Nat) (f : XDieState → XDieState) : (s.updXdie x f).steps = s.steps := rfl
@[simp] theorem State.updXdie_pairs (s : State) (x : Nat) (f : XDieState → XDieState) : (s.updXdie x f).pairs = s.pairs := rfl
@[simp] theorem State.updXdie_forecasts (s : State) (x : Nat) (f : XDieState → XDieState) : (s.updXdie x f).forecasts = s.forecasts := rfl
@[simp] theorem State.updXdie_fcRequests (s : State) (x : Nat) (f : XDieState → XDieState) : (s.updXdie x f).fcRequests = s.fcRequests := rfl
@[simp] theorem State.updXdie_fcScored (s : State) (x : Nat) (f : XDieState → XDieState) : (s.updXdie x f).fcScored = s.fcScored := rfl
@[simp] theorem State.updXdie_pools (s : State) (x : Nat) (f : XDieState → XDieState) : (s.updXdie x f).pools = s.pools := rfl
@[simp] theorem State.updXdie_bpm (s : State) (x : Nat) (f : XDieState → XDieState) : (s.updXdie x f).bpm = s.bpm := rfl
@[simp] theorem State.updXdie_hubs (s : State) (x : Nat) (f : XDieState → XDieState) : (s.updXdie x f).hubs = s.hubs := rfl
@[simp] theorem State.updXdie_hbmStacks (s : State) (x : Nat) (f : XDieState → XDieState) : (s.updXdie x f).hbmStacks = s.hbmStacks := rfl
@[simp] theorem State.updXdie_ports (s : State) (x : Nat) (f : XDieState → XDieState) : (s.updXdie x f).ports = s.ports := rfl
@[simp] theorem State.updXdie_fabric (s : State) (x : Nat) (f : XDieState → XDieState) : (s.updXdie x f).fabric = s.fabric := rfl
@[simp] theorem State.updXdie_groups (s : State) (x : Nat) (f : XDieState → XDieState) : (s.updXdie x f).groups = s.groups := rfl
@[simp] theorem State.updXdie_colls (s : State) (x : Nat) (f : XDieState → XDieState) : (s.updXdie x f).colls = s.colls := rfl
@[simp] theorem State.updXdie_collPast (s : State) (x : Nat) (f : XDieState → XDieState) : (s.updXdie x f).collPast = s.collPast := rfl
@[simp] theorem State.updXdie_channels (s : State) (x : Nat) (f : XDieState → XDieState) : (s.updXdie x f).channels = s.channels := rfl
@[simp] theorem State.updXdie_lastRing (s : State) (x : Nat) (f : XDieState → XDieState) : (s.updXdie x f).lastRing = s.lastRing := rfl
@[simp] theorem State.updXdie_fw (s : State) (x : Nat) (f : XDieState → XDieState) : (s.updXdie x f).fw = s.fw := rfl
@[simp] theorem State.updXdie_baro (s : State) (x : Nat) (f : XDieState → XDieState) : (s.updXdie x f).baro = s.baro := rfl
@[simp] theorem State.updXdie_ckpt (s : State) (x : Nat) (f : XDieState → XDieState) : (s.updXdie x f).ckpt = s.ckpt := rfl
@[simp] theorem State.updXdie_mgmt (s : State) (x : Nat) (f : XDieState → XDieState) : (s.updXdie x f).mgmt = s.mgmt := rfl
@[simp] theorem State.updXdie_power (s : State) (x : Nat) (f : XDieState → XDieState) : (s.updXdie x f).power = s.power := rfl
@[simp] theorem State.updXdie_tap (s : State) (x : Nat) (f : XDieState → XDieState) : (s.updXdie x f).tap = s.tap := rfl
@[simp] theorem State.updXdie_out (s : State) (x : Nat) (f : XDieState → XDieState) : (s.updXdie x f).out = s.out := rfl
@[simp] theorem State.updXdie_time (s : State) (x : Nat) (f : XDieState → XDieState) : (s.updXdie x f).time = s.time := rfl
@[simp] theorem State.updXdie_free (s : State) (x : Nat) (f : XDieState → XDieState) : (s.updXdie x f).free = s.free := rfl

@[simp] theorem State.updHub_pending (s : State) (m : Nat) (f : HubState → HubState) : (s.updHub m f).pending = s.pending := rfl
@[simp] theorem State.updHub_part (s : State) (m : Nat) (f : HubState → HubState) : (s.updHub m f).part = s.part := rfl
@[simp] theorem State.updHub_mem (s : State) (m : Nat) (f : HubState → HubState) : (s.updHub m f).mem = s.mem := rfl
@[simp] theorem State.updHub_poison (s : State) (m : Nat) (f : HubState → HubState) : (s.updHub m f).poison = s.poison := rfl
@[simp] theorem State.updHub_upsets (s : State) (m : Nat) (f : HubState → HubState) : (s.updHub m f).upsets = s.upsets := rfl
@[simp] theorem State.updHub_writebacks (s : State) (m : Nat) (f : HubState → HubState) : (s.updHub m f).writebacks = s.writebacks := rfl
@[simp] theorem State.updHub_testRuns (s : State) (m : Nat) (f : HubState → HubState) : (s.updHub m f).testRuns = s.testRuns := rfl
@[simp] theorem State.updHub_openRows (s : State) (m : Nat) (f : HubState → HubState) : (s.updHub m f).openRows = s.openRows := rfl
@[simp] theorem State.updHub_rowErrors (s : State) (m : Nat) (f : HubState → HubState) : (s.updHub m f).rowErrors = s.rowErrors := rfl
@[simp] theorem State.updHub_regions (s : State) (m : Nat) (f : HubState → HubState) : (s.updHub m f).regions = s.regions := rfl
@[simp] theorem State.updHub_regionsIdle (s : State) (m : Nat) (f : HubState → HubState) : (s.updHub m f).regionsIdle = s.regionsIdle := rfl
@[simp] theorem State.updHub_dieOk (s : State) (m : Nat) (f : HubState → HubState) : (s.updHub m f).dieOk = s.dieOk := rfl
@[simp] theorem State.updHub_dieFail (s : State) (m : Nat) (f : HubState → HubState) : (s.updHub m f).dieFail = s.dieFail := rfl
@[simp] theorem State.updHub_selfId (s : State) (m : Nat) (f : HubState → HubState) : (s.updHub m f).selfId = s.selfId := rfl
@[simp] theorem State.updHub_season (s : State) (m : Nat) (f : HubState → HubState) : (s.updHub m f).season = s.season := rfl
@[simp] theorem State.updHub_cores (s : State) (m : Nat) (f : HubState → HubState) : (s.updHub m f).cores = s.cores := rfl
@[simp] theorem State.updHub_saved (s : State) (m : Nat) (f : HubState → HubState) : (s.updHub m f).saved = s.saved := rfl
@[simp] theorem State.updHub_partitions (s : State) (m : Nat) (f : HubState → HubState) : (s.updHub m f).partitions = s.partitions := rfl
@[simp] theorem State.updHub_stewards (s : State) (m : Nat) (f : HubState → HubState) : (s.updHub m f).stewards = s.stewards := rfl
@[simp] theorem State.updHub_steps (s : State) (m : Nat) (f : HubState → HubState) : (s.updHub m f).steps = s.steps := rfl
@[simp] theorem State.updHub_pairs (s : State) (m : Nat) (f : HubState → HubState) : (s.updHub m f).pairs = s.pairs := rfl
@[simp] theorem State.updHub_forecasts (s : State) (m : Nat) (f : HubState → HubState) : (s.updHub m f).forecasts = s.forecasts := rfl
@[simp] theorem State.updHub_fcRequests (s : State) (m : Nat) (f : HubState → HubState) : (s.updHub m f).fcRequests = s.fcRequests := rfl
@[simp] theorem State.updHub_fcScored (s : State) (m : Nat) (f : HubState → HubState) : (s.updHub m f).fcScored = s.fcScored := rfl
@[simp] theorem State.updHub_xdies (s : State) (m : Nat) (f : HubState → HubState) : (s.updHub m f).xdies = s.xdies := rfl
@[simp] theorem State.updHub_pools (s : State) (m : Nat) (f : HubState → HubState) : (s.updHub m f).pools = s.pools := rfl
@[simp] theorem State.updHub_bpm (s : State) (m : Nat) (f : HubState → HubState) : (s.updHub m f).bpm = s.bpm := rfl
@[simp] theorem State.updHub_hbmStacks (s : State) (m : Nat) (f : HubState → HubState) : (s.updHub m f).hbmStacks = s.hbmStacks := rfl
@[simp] theorem State.updHub_ports (s : State) (m : Nat) (f : HubState → HubState) : (s.updHub m f).ports = s.ports := rfl
@[simp] theorem State.updHub_fabric (s : State) (m : Nat) (f : HubState → HubState) : (s.updHub m f).fabric = s.fabric := rfl
@[simp] theorem State.updHub_groups (s : State) (m : Nat) (f : HubState → HubState) : (s.updHub m f).groups = s.groups := rfl
@[simp] theorem State.updHub_colls (s : State) (m : Nat) (f : HubState → HubState) : (s.updHub m f).colls = s.colls := rfl
@[simp] theorem State.updHub_collPast (s : State) (m : Nat) (f : HubState → HubState) : (s.updHub m f).collPast = s.collPast := rfl
@[simp] theorem State.updHub_channels (s : State) (m : Nat) (f : HubState → HubState) : (s.updHub m f).channels = s.channels := rfl
@[simp] theorem State.updHub_lastRing (s : State) (m : Nat) (f : HubState → HubState) : (s.updHub m f).lastRing = s.lastRing := rfl
@[simp] theorem State.updHub_fw (s : State) (m : Nat) (f : HubState → HubState) : (s.updHub m f).fw = s.fw := rfl
@[simp] theorem State.updHub_baro (s : State) (m : Nat) (f : HubState → HubState) : (s.updHub m f).baro = s.baro := rfl
@[simp] theorem State.updHub_ckpt (s : State) (m : Nat) (f : HubState → HubState) : (s.updHub m f).ckpt = s.ckpt := rfl
@[simp] theorem State.updHub_mgmt (s : State) (m : Nat) (f : HubState → HubState) : (s.updHub m f).mgmt = s.mgmt := rfl
@[simp] theorem State.updHub_power (s : State) (m : Nat) (f : HubState → HubState) : (s.updHub m f).power = s.power := rfl
@[simp] theorem State.updHub_tap (s : State) (m : Nat) (f : HubState → HubState) : (s.updHub m f).tap = s.tap := rfl
@[simp] theorem State.updHub_out (s : State) (m : Nat) (f : HubState → HubState) : (s.updHub m f).out = s.out := rfl
@[simp] theorem State.updHub_time (s : State) (m : Nat) (f : HubState → HubState) : (s.updHub m f).time = s.time := rfl
@[simp] theorem State.updHub_free (s : State) (m : Nat) (f : HubState → HubState) : (s.updHub m f).free = s.free := rfl

@[simp] theorem State.updStack_pending (s : State) (i : Nat) (f : StackState → StackState) : (s.updStack i f).pending = s.pending := rfl
@[simp] theorem State.updStack_part (s : State) (i : Nat) (f : StackState → StackState) : (s.updStack i f).part = s.part := rfl
@[simp] theorem State.updStack_mem (s : State) (i : Nat) (f : StackState → StackState) : (s.updStack i f).mem = s.mem := rfl
@[simp] theorem State.updStack_poison (s : State) (i : Nat) (f : StackState → StackState) : (s.updStack i f).poison = s.poison := rfl
@[simp] theorem State.updStack_upsets (s : State) (i : Nat) (f : StackState → StackState) : (s.updStack i f).upsets = s.upsets := rfl
@[simp] theorem State.updStack_writebacks (s : State) (i : Nat) (f : StackState → StackState) : (s.updStack i f).writebacks = s.writebacks := rfl
@[simp] theorem State.updStack_testRuns (s : State) (i : Nat) (f : StackState → StackState) : (s.updStack i f).testRuns = s.testRuns := rfl
@[simp] theorem State.updStack_openRows (s : State) (i : Nat) (f : StackState → StackState) : (s.updStack i f).openRows = s.openRows := rfl
@[simp] theorem State.updStack_rowErrors (s : State) (i : Nat) (f : StackState → StackState) : (s.updStack i f).rowErrors = s.rowErrors := rfl
@[simp] theorem State.updStack_regions (s : State) (i : Nat) (f : StackState → StackState) : (s.updStack i f).regions = s.regions := rfl
@[simp] theorem State.updStack_regionsIdle (s : State) (i : Nat) (f : StackState → StackState) : (s.updStack i f).regionsIdle = s.regionsIdle := rfl
@[simp] theorem State.updStack_dieOk (s : State) (i : Nat) (f : StackState → StackState) : (s.updStack i f).dieOk = s.dieOk := rfl
@[simp] theorem State.updStack_dieFail (s : State) (i : Nat) (f : StackState → StackState) : (s.updStack i f).dieFail = s.dieFail := rfl
@[simp] theorem State.updStack_selfId (s : State) (i : Nat) (f : StackState → StackState) : (s.updStack i f).selfId = s.selfId := rfl
@[simp] theorem State.updStack_season (s : State) (i : Nat) (f : StackState → StackState) : (s.updStack i f).season = s.season := rfl
@[simp] theorem State.updStack_cores (s : State) (i : Nat) (f : StackState → StackState) : (s.updStack i f).cores = s.cores := rfl
@[simp] theorem State.updStack_saved (s : State) (i : Nat) (f : StackState → StackState) : (s.updStack i f).saved = s.saved := rfl
@[simp] theorem State.updStack_partitions (s : State) (i : Nat) (f : StackState → StackState) : (s.updStack i f).partitions = s.partitions := rfl
@[simp] theorem State.updStack_stewards (s : State) (i : Nat) (f : StackState → StackState) : (s.updStack i f).stewards = s.stewards := rfl
@[simp] theorem State.updStack_steps (s : State) (i : Nat) (f : StackState → StackState) : (s.updStack i f).steps = s.steps := rfl
@[simp] theorem State.updStack_pairs (s : State) (i : Nat) (f : StackState → StackState) : (s.updStack i f).pairs = s.pairs := rfl
@[simp] theorem State.updStack_forecasts (s : State) (i : Nat) (f : StackState → StackState) : (s.updStack i f).forecasts = s.forecasts := rfl
@[simp] theorem State.updStack_fcRequests (s : State) (i : Nat) (f : StackState → StackState) : (s.updStack i f).fcRequests = s.fcRequests := rfl
@[simp] theorem State.updStack_fcScored (s : State) (i : Nat) (f : StackState → StackState) : (s.updStack i f).fcScored = s.fcScored := rfl
@[simp] theorem State.updStack_xdies (s : State) (i : Nat) (f : StackState → StackState) : (s.updStack i f).xdies = s.xdies := rfl
@[simp] theorem State.updStack_pools (s : State) (i : Nat) (f : StackState → StackState) : (s.updStack i f).pools = s.pools := rfl
@[simp] theorem State.updStack_bpm (s : State) (i : Nat) (f : StackState → StackState) : (s.updStack i f).bpm = s.bpm := rfl
@[simp] theorem State.updStack_hubs (s : State) (i : Nat) (f : StackState → StackState) : (s.updStack i f).hubs = s.hubs := rfl
@[simp] theorem State.updStack_ports (s : State) (i : Nat) (f : StackState → StackState) : (s.updStack i f).ports = s.ports := rfl
@[simp] theorem State.updStack_fabric (s : State) (i : Nat) (f : StackState → StackState) : (s.updStack i f).fabric = s.fabric := rfl
@[simp] theorem State.updStack_groups (s : State) (i : Nat) (f : StackState → StackState) : (s.updStack i f).groups = s.groups := rfl
@[simp] theorem State.updStack_colls (s : State) (i : Nat) (f : StackState → StackState) : (s.updStack i f).colls = s.colls := rfl
@[simp] theorem State.updStack_collPast (s : State) (i : Nat) (f : StackState → StackState) : (s.updStack i f).collPast = s.collPast := rfl
@[simp] theorem State.updStack_channels (s : State) (i : Nat) (f : StackState → StackState) : (s.updStack i f).channels = s.channels := rfl
@[simp] theorem State.updStack_lastRing (s : State) (i : Nat) (f : StackState → StackState) : (s.updStack i f).lastRing = s.lastRing := rfl
@[simp] theorem State.updStack_fw (s : State) (i : Nat) (f : StackState → StackState) : (s.updStack i f).fw = s.fw := rfl
@[simp] theorem State.updStack_baro (s : State) (i : Nat) (f : StackState → StackState) : (s.updStack i f).baro = s.baro := rfl
@[simp] theorem State.updStack_ckpt (s : State) (i : Nat) (f : StackState → StackState) : (s.updStack i f).ckpt = s.ckpt := rfl
@[simp] theorem State.updStack_mgmt (s : State) (i : Nat) (f : StackState → StackState) : (s.updStack i f).mgmt = s.mgmt := rfl
@[simp] theorem State.updStack_power (s : State) (i : Nat) (f : StackState → StackState) : (s.updStack i f).power = s.power := rfl
@[simp] theorem State.updStack_tap (s : State) (i : Nat) (f : StackState → StackState) : (s.updStack i f).tap = s.tap := rfl
@[simp] theorem State.updStack_out (s : State) (i : Nat) (f : StackState → StackState) : (s.updStack i f).out = s.out := rfl
@[simp] theorem State.updStack_time (s : State) (i : Nat) (f : StackState → StackState) : (s.updStack i f).time = s.time := rfl
@[simp] theorem State.updStack_free (s : State) (i : Nat) (f : StackState → StackState) : (s.updStack i f).free = s.free := rfl

@[simp] theorem State.updPort_pending (s : State) (n : Nat) (f : Port → Port) : (s.updPort n f).pending = s.pending := rfl
@[simp] theorem State.updPort_part (s : State) (n : Nat) (f : Port → Port) : (s.updPort n f).part = s.part := rfl
@[simp] theorem State.updPort_mem (s : State) (n : Nat) (f : Port → Port) : (s.updPort n f).mem = s.mem := rfl
@[simp] theorem State.updPort_poison (s : State) (n : Nat) (f : Port → Port) : (s.updPort n f).poison = s.poison := rfl
@[simp] theorem State.updPort_upsets (s : State) (n : Nat) (f : Port → Port) : (s.updPort n f).upsets = s.upsets := rfl
@[simp] theorem State.updPort_writebacks (s : State) (n : Nat) (f : Port → Port) : (s.updPort n f).writebacks = s.writebacks := rfl
@[simp] theorem State.updPort_testRuns (s : State) (n : Nat) (f : Port → Port) : (s.updPort n f).testRuns = s.testRuns := rfl
@[simp] theorem State.updPort_openRows (s : State) (n : Nat) (f : Port → Port) : (s.updPort n f).openRows = s.openRows := rfl
@[simp] theorem State.updPort_rowErrors (s : State) (n : Nat) (f : Port → Port) : (s.updPort n f).rowErrors = s.rowErrors := rfl
@[simp] theorem State.updPort_regions (s : State) (n : Nat) (f : Port → Port) : (s.updPort n f).regions = s.regions := rfl
@[simp] theorem State.updPort_regionsIdle (s : State) (n : Nat) (f : Port → Port) : (s.updPort n f).regionsIdle = s.regionsIdle := rfl
@[simp] theorem State.updPort_dieOk (s : State) (n : Nat) (f : Port → Port) : (s.updPort n f).dieOk = s.dieOk := rfl
@[simp] theorem State.updPort_dieFail (s : State) (n : Nat) (f : Port → Port) : (s.updPort n f).dieFail = s.dieFail := rfl
@[simp] theorem State.updPort_selfId (s : State) (n : Nat) (f : Port → Port) : (s.updPort n f).selfId = s.selfId := rfl
@[simp] theorem State.updPort_season (s : State) (n : Nat) (f : Port → Port) : (s.updPort n f).season = s.season := rfl
@[simp] theorem State.updPort_cores (s : State) (n : Nat) (f : Port → Port) : (s.updPort n f).cores = s.cores := rfl
@[simp] theorem State.updPort_saved (s : State) (n : Nat) (f : Port → Port) : (s.updPort n f).saved = s.saved := rfl
@[simp] theorem State.updPort_partitions (s : State) (n : Nat) (f : Port → Port) : (s.updPort n f).partitions = s.partitions := rfl
@[simp] theorem State.updPort_stewards (s : State) (n : Nat) (f : Port → Port) : (s.updPort n f).stewards = s.stewards := rfl
@[simp] theorem State.updPort_steps (s : State) (n : Nat) (f : Port → Port) : (s.updPort n f).steps = s.steps := rfl
@[simp] theorem State.updPort_pairs (s : State) (n : Nat) (f : Port → Port) : (s.updPort n f).pairs = s.pairs := rfl
@[simp] theorem State.updPort_forecasts (s : State) (n : Nat) (f : Port → Port) : (s.updPort n f).forecasts = s.forecasts := rfl
@[simp] theorem State.updPort_fcRequests (s : State) (n : Nat) (f : Port → Port) : (s.updPort n f).fcRequests = s.fcRequests := rfl
@[simp] theorem State.updPort_fcScored (s : State) (n : Nat) (f : Port → Port) : (s.updPort n f).fcScored = s.fcScored := rfl
@[simp] theorem State.updPort_xdies (s : State) (n : Nat) (f : Port → Port) : (s.updPort n f).xdies = s.xdies := rfl
@[simp] theorem State.updPort_pools (s : State) (n : Nat) (f : Port → Port) : (s.updPort n f).pools = s.pools := rfl
@[simp] theorem State.updPort_bpm (s : State) (n : Nat) (f : Port → Port) : (s.updPort n f).bpm = s.bpm := rfl
@[simp] theorem State.updPort_hubs (s : State) (n : Nat) (f : Port → Port) : (s.updPort n f).hubs = s.hubs := rfl
@[simp] theorem State.updPort_hbmStacks (s : State) (n : Nat) (f : Port → Port) : (s.updPort n f).hbmStacks = s.hbmStacks := rfl
@[simp] theorem State.updPort_fabric (s : State) (n : Nat) (f : Port → Port) : (s.updPort n f).fabric = s.fabric := rfl
@[simp] theorem State.updPort_groups (s : State) (n : Nat) (f : Port → Port) : (s.updPort n f).groups = s.groups := rfl
@[simp] theorem State.updPort_colls (s : State) (n : Nat) (f : Port → Port) : (s.updPort n f).colls = s.colls := rfl
@[simp] theorem State.updPort_collPast (s : State) (n : Nat) (f : Port → Port) : (s.updPort n f).collPast = s.collPast := rfl
@[simp] theorem State.updPort_channels (s : State) (n : Nat) (f : Port → Port) : (s.updPort n f).channels = s.channels := rfl
@[simp] theorem State.updPort_lastRing (s : State) (n : Nat) (f : Port → Port) : (s.updPort n f).lastRing = s.lastRing := rfl
@[simp] theorem State.updPort_fw (s : State) (n : Nat) (f : Port → Port) : (s.updPort n f).fw = s.fw := rfl
@[simp] theorem State.updPort_baro (s : State) (n : Nat) (f : Port → Port) : (s.updPort n f).baro = s.baro := rfl
@[simp] theorem State.updPort_ckpt (s : State) (n : Nat) (f : Port → Port) : (s.updPort n f).ckpt = s.ckpt := rfl
@[simp] theorem State.updPort_mgmt (s : State) (n : Nat) (f : Port → Port) : (s.updPort n f).mgmt = s.mgmt := rfl
@[simp] theorem State.updPort_power (s : State) (n : Nat) (f : Port → Port) : (s.updPort n f).power = s.power := rfl
@[simp] theorem State.updPort_tap (s : State) (n : Nat) (f : Port → Port) : (s.updPort n f).tap = s.tap := rfl
@[simp] theorem State.updPort_out (s : State) (n : Nat) (f : Port → Port) : (s.updPort n f).out = s.out := rfl
@[simp] theorem State.updPort_time (s : State) (n : Nat) (f : Port → Port) : (s.updPort n f).time = s.time := rfl
@[simp] theorem State.updPort_free (s : State) (n : Nat) (f : Port → Port) : (s.updPort n f).free = s.free := rfl

@[simp] theorem State.updChannel_pending (s : State) (n : Nat) (f : Channel → Channel) : (s.updChannel n f).pending = s.pending := rfl
@[simp] theorem State.updChannel_part (s : State) (n : Nat) (f : Channel → Channel) : (s.updChannel n f).part = s.part := rfl
@[simp] theorem State.updChannel_mem (s : State) (n : Nat) (f : Channel → Channel) : (s.updChannel n f).mem = s.mem := rfl
@[simp] theorem State.updChannel_poison (s : State) (n : Nat) (f : Channel → Channel) : (s.updChannel n f).poison = s.poison := rfl
@[simp] theorem State.updChannel_upsets (s : State) (n : Nat) (f : Channel → Channel) : (s.updChannel n f).upsets = s.upsets := rfl
@[simp] theorem State.updChannel_writebacks (s : State) (n : Nat) (f : Channel → Channel) : (s.updChannel n f).writebacks = s.writebacks := rfl
@[simp] theorem State.updChannel_testRuns (s : State) (n : Nat) (f : Channel → Channel) : (s.updChannel n f).testRuns = s.testRuns := rfl
@[simp] theorem State.updChannel_openRows (s : State) (n : Nat) (f : Channel → Channel) : (s.updChannel n f).openRows = s.openRows := rfl
@[simp] theorem State.updChannel_rowErrors (s : State) (n : Nat) (f : Channel → Channel) : (s.updChannel n f).rowErrors = s.rowErrors := rfl
@[simp] theorem State.updChannel_regions (s : State) (n : Nat) (f : Channel → Channel) : (s.updChannel n f).regions = s.regions := rfl
@[simp] theorem State.updChannel_regionsIdle (s : State) (n : Nat) (f : Channel → Channel) : (s.updChannel n f).regionsIdle = s.regionsIdle := rfl
@[simp] theorem State.updChannel_dieOk (s : State) (n : Nat) (f : Channel → Channel) : (s.updChannel n f).dieOk = s.dieOk := rfl
@[simp] theorem State.updChannel_dieFail (s : State) (n : Nat) (f : Channel → Channel) : (s.updChannel n f).dieFail = s.dieFail := rfl
@[simp] theorem State.updChannel_selfId (s : State) (n : Nat) (f : Channel → Channel) : (s.updChannel n f).selfId = s.selfId := rfl
@[simp] theorem State.updChannel_season (s : State) (n : Nat) (f : Channel → Channel) : (s.updChannel n f).season = s.season := rfl
@[simp] theorem State.updChannel_cores (s : State) (n : Nat) (f : Channel → Channel) : (s.updChannel n f).cores = s.cores := rfl
@[simp] theorem State.updChannel_saved (s : State) (n : Nat) (f : Channel → Channel) : (s.updChannel n f).saved = s.saved := rfl
@[simp] theorem State.updChannel_partitions (s : State) (n : Nat) (f : Channel → Channel) : (s.updChannel n f).partitions = s.partitions := rfl
@[simp] theorem State.updChannel_stewards (s : State) (n : Nat) (f : Channel → Channel) : (s.updChannel n f).stewards = s.stewards := rfl
@[simp] theorem State.updChannel_steps (s : State) (n : Nat) (f : Channel → Channel) : (s.updChannel n f).steps = s.steps := rfl
@[simp] theorem State.updChannel_pairs (s : State) (n : Nat) (f : Channel → Channel) : (s.updChannel n f).pairs = s.pairs := rfl
@[simp] theorem State.updChannel_forecasts (s : State) (n : Nat) (f : Channel → Channel) : (s.updChannel n f).forecasts = s.forecasts := rfl
@[simp] theorem State.updChannel_fcRequests (s : State) (n : Nat) (f : Channel → Channel) : (s.updChannel n f).fcRequests = s.fcRequests := rfl
@[simp] theorem State.updChannel_fcScored (s : State) (n : Nat) (f : Channel → Channel) : (s.updChannel n f).fcScored = s.fcScored := rfl
@[simp] theorem State.updChannel_xdies (s : State) (n : Nat) (f : Channel → Channel) : (s.updChannel n f).xdies = s.xdies := rfl
@[simp] theorem State.updChannel_pools (s : State) (n : Nat) (f : Channel → Channel) : (s.updChannel n f).pools = s.pools := rfl
@[simp] theorem State.updChannel_bpm (s : State) (n : Nat) (f : Channel → Channel) : (s.updChannel n f).bpm = s.bpm := rfl
@[simp] theorem State.updChannel_hubs (s : State) (n : Nat) (f : Channel → Channel) : (s.updChannel n f).hubs = s.hubs := rfl
@[simp] theorem State.updChannel_hbmStacks (s : State) (n : Nat) (f : Channel → Channel) : (s.updChannel n f).hbmStacks = s.hbmStacks := rfl
@[simp] theorem State.updChannel_ports (s : State) (n : Nat) (f : Channel → Channel) : (s.updChannel n f).ports = s.ports := rfl
@[simp] theorem State.updChannel_fabric (s : State) (n : Nat) (f : Channel → Channel) : (s.updChannel n f).fabric = s.fabric := rfl
@[simp] theorem State.updChannel_groups (s : State) (n : Nat) (f : Channel → Channel) : (s.updChannel n f).groups = s.groups := rfl
@[simp] theorem State.updChannel_colls (s : State) (n : Nat) (f : Channel → Channel) : (s.updChannel n f).colls = s.colls := rfl
@[simp] theorem State.updChannel_collPast (s : State) (n : Nat) (f : Channel → Channel) : (s.updChannel n f).collPast = s.collPast := rfl
@[simp] theorem State.updChannel_lastRing (s : State) (n : Nat) (f : Channel → Channel) : (s.updChannel n f).lastRing = s.lastRing := rfl
@[simp] theorem State.updChannel_fw (s : State) (n : Nat) (f : Channel → Channel) : (s.updChannel n f).fw = s.fw := rfl
@[simp] theorem State.updChannel_baro (s : State) (n : Nat) (f : Channel → Channel) : (s.updChannel n f).baro = s.baro := rfl
@[simp] theorem State.updChannel_ckpt (s : State) (n : Nat) (f : Channel → Channel) : (s.updChannel n f).ckpt = s.ckpt := rfl
@[simp] theorem State.updChannel_mgmt (s : State) (n : Nat) (f : Channel → Channel) : (s.updChannel n f).mgmt = s.mgmt := rfl
@[simp] theorem State.updChannel_power (s : State) (n : Nat) (f : Channel → Channel) : (s.updChannel n f).power = s.power := rfl
@[simp] theorem State.updChannel_tap (s : State) (n : Nat) (f : Channel → Channel) : (s.updChannel n f).tap = s.tap := rfl
@[simp] theorem State.updChannel_out (s : State) (n : Nat) (f : Channel → Channel) : (s.updChannel n f).out = s.out := rfl
@[simp] theorem State.updChannel_time (s : State) (n : Nat) (f : Channel → Channel) : (s.updChannel n f).time = s.time := rfl
@[simp] theorem State.updChannel_free (s : State) (n : Nat) (f : Channel → Channel) : (s.updChannel n f).free = s.free := rfl

@[simp] theorem State.updSeason_pending (s : State) (f : Season → Season) : (s.updSeason f).pending = s.pending := rfl
@[simp] theorem State.updSeason_part (s : State) (f : Season → Season) : (s.updSeason f).part = s.part := rfl
@[simp] theorem State.updSeason_mem (s : State) (f : Season → Season) : (s.updSeason f).mem = s.mem := rfl
@[simp] theorem State.updSeason_poison (s : State) (f : Season → Season) : (s.updSeason f).poison = s.poison := rfl
@[simp] theorem State.updSeason_upsets (s : State) (f : Season → Season) : (s.updSeason f).upsets = s.upsets := rfl
@[simp] theorem State.updSeason_writebacks (s : State) (f : Season → Season) : (s.updSeason f).writebacks = s.writebacks := rfl
@[simp] theorem State.updSeason_testRuns (s : State) (f : Season → Season) : (s.updSeason f).testRuns = s.testRuns := rfl
@[simp] theorem State.updSeason_openRows (s : State) (f : Season → Season) : (s.updSeason f).openRows = s.openRows := rfl
@[simp] theorem State.updSeason_rowErrors (s : State) (f : Season → Season) : (s.updSeason f).rowErrors = s.rowErrors := rfl
@[simp] theorem State.updSeason_regions (s : State) (f : Season → Season) : (s.updSeason f).regions = s.regions := rfl
@[simp] theorem State.updSeason_regionsIdle (s : State) (f : Season → Season) : (s.updSeason f).regionsIdle = s.regionsIdle := rfl
@[simp] theorem State.updSeason_dieOk (s : State) (f : Season → Season) : (s.updSeason f).dieOk = s.dieOk := rfl
@[simp] theorem State.updSeason_dieFail (s : State) (f : Season → Season) : (s.updSeason f).dieFail = s.dieFail := rfl
@[simp] theorem State.updSeason_selfId (s : State) (f : Season → Season) : (s.updSeason f).selfId = s.selfId := rfl
@[simp] theorem State.updSeason_cores (s : State) (f : Season → Season) : (s.updSeason f).cores = s.cores := rfl
@[simp] theorem State.updSeason_saved (s : State) (f : Season → Season) : (s.updSeason f).saved = s.saved := rfl
@[simp] theorem State.updSeason_partitions (s : State) (f : Season → Season) : (s.updSeason f).partitions = s.partitions := rfl
@[simp] theorem State.updSeason_stewards (s : State) (f : Season → Season) : (s.updSeason f).stewards = s.stewards := rfl
@[simp] theorem State.updSeason_steps (s : State) (f : Season → Season) : (s.updSeason f).steps = s.steps := rfl
@[simp] theorem State.updSeason_pairs (s : State) (f : Season → Season) : (s.updSeason f).pairs = s.pairs := rfl
@[simp] theorem State.updSeason_forecasts (s : State) (f : Season → Season) : (s.updSeason f).forecasts = s.forecasts := rfl
@[simp] theorem State.updSeason_fcRequests (s : State) (f : Season → Season) : (s.updSeason f).fcRequests = s.fcRequests := rfl
@[simp] theorem State.updSeason_fcScored (s : State) (f : Season → Season) : (s.updSeason f).fcScored = s.fcScored := rfl
@[simp] theorem State.updSeason_xdies (s : State) (f : Season → Season) : (s.updSeason f).xdies = s.xdies := rfl
@[simp] theorem State.updSeason_pools (s : State) (f : Season → Season) : (s.updSeason f).pools = s.pools := rfl
@[simp] theorem State.updSeason_bpm (s : State) (f : Season → Season) : (s.updSeason f).bpm = s.bpm := rfl
@[simp] theorem State.updSeason_hubs (s : State) (f : Season → Season) : (s.updSeason f).hubs = s.hubs := rfl
@[simp] theorem State.updSeason_hbmStacks (s : State) (f : Season → Season) : (s.updSeason f).hbmStacks = s.hbmStacks := rfl
@[simp] theorem State.updSeason_ports (s : State) (f : Season → Season) : (s.updSeason f).ports = s.ports := rfl
@[simp] theorem State.updSeason_fabric (s : State) (f : Season → Season) : (s.updSeason f).fabric = s.fabric := rfl
@[simp] theorem State.updSeason_groups (s : State) (f : Season → Season) : (s.updSeason f).groups = s.groups := rfl
@[simp] theorem State.updSeason_colls (s : State) (f : Season → Season) : (s.updSeason f).colls = s.colls := rfl
@[simp] theorem State.updSeason_collPast (s : State) (f : Season → Season) : (s.updSeason f).collPast = s.collPast := rfl
@[simp] theorem State.updSeason_channels (s : State) (f : Season → Season) : (s.updSeason f).channels = s.channels := rfl
@[simp] theorem State.updSeason_lastRing (s : State) (f : Season → Season) : (s.updSeason f).lastRing = s.lastRing := rfl
@[simp] theorem State.updSeason_fw (s : State) (f : Season → Season) : (s.updSeason f).fw = s.fw := rfl
@[simp] theorem State.updSeason_baro (s : State) (f : Season → Season) : (s.updSeason f).baro = s.baro := rfl
@[simp] theorem State.updSeason_ckpt (s : State) (f : Season → Season) : (s.updSeason f).ckpt = s.ckpt := rfl
@[simp] theorem State.updSeason_mgmt (s : State) (f : Season → Season) : (s.updSeason f).mgmt = s.mgmt := rfl
@[simp] theorem State.updSeason_power (s : State) (f : Season → Season) : (s.updSeason f).power = s.power := rfl
@[simp] theorem State.updSeason_tap (s : State) (f : Season → Season) : (s.updSeason f).tap = s.tap := rfl
@[simp] theorem State.updSeason_out (s : State) (f : Season → Season) : (s.updSeason f).out = s.out := rfl
@[simp] theorem State.updSeason_time (s : State) (f : Season → Season) : (s.updSeason f).time = s.time := rfl
@[simp] theorem State.updSeason_free (s : State) (f : Season → Season) : (s.updSeason f).free = s.free := rfl

@[simp] theorem State.updFabric_pending (s : State) (f : Fabric → Fabric) : (s.updFabric f).pending = s.pending := rfl
@[simp] theorem State.updFabric_part (s : State) (f : Fabric → Fabric) : (s.updFabric f).part = s.part := rfl
@[simp] theorem State.updFabric_mem (s : State) (f : Fabric → Fabric) : (s.updFabric f).mem = s.mem := rfl
@[simp] theorem State.updFabric_poison (s : State) (f : Fabric → Fabric) : (s.updFabric f).poison = s.poison := rfl
@[simp] theorem State.updFabric_upsets (s : State) (f : Fabric → Fabric) : (s.updFabric f).upsets = s.upsets := rfl
@[simp] theorem State.updFabric_writebacks (s : State) (f : Fabric → Fabric) : (s.updFabric f).writebacks = s.writebacks := rfl
@[simp] theorem State.updFabric_testRuns (s : State) (f : Fabric → Fabric) : (s.updFabric f).testRuns = s.testRuns := rfl
@[simp] theorem State.updFabric_openRows (s : State) (f : Fabric → Fabric) : (s.updFabric f).openRows = s.openRows := rfl
@[simp] theorem State.updFabric_rowErrors (s : State) (f : Fabric → Fabric) : (s.updFabric f).rowErrors = s.rowErrors := rfl
@[simp] theorem State.updFabric_regions (s : State) (f : Fabric → Fabric) : (s.updFabric f).regions = s.regions := rfl
@[simp] theorem State.updFabric_regionsIdle (s : State) (f : Fabric → Fabric) : (s.updFabric f).regionsIdle = s.regionsIdle := rfl
@[simp] theorem State.updFabric_dieOk (s : State) (f : Fabric → Fabric) : (s.updFabric f).dieOk = s.dieOk := rfl
@[simp] theorem State.updFabric_dieFail (s : State) (f : Fabric → Fabric) : (s.updFabric f).dieFail = s.dieFail := rfl
@[simp] theorem State.updFabric_selfId (s : State) (f : Fabric → Fabric) : (s.updFabric f).selfId = s.selfId := rfl
@[simp] theorem State.updFabric_season (s : State) (f : Fabric → Fabric) : (s.updFabric f).season = s.season := rfl
@[simp] theorem State.updFabric_cores (s : State) (f : Fabric → Fabric) : (s.updFabric f).cores = s.cores := rfl
@[simp] theorem State.updFabric_saved (s : State) (f : Fabric → Fabric) : (s.updFabric f).saved = s.saved := rfl
@[simp] theorem State.updFabric_partitions (s : State) (f : Fabric → Fabric) : (s.updFabric f).partitions = s.partitions := rfl
@[simp] theorem State.updFabric_stewards (s : State) (f : Fabric → Fabric) : (s.updFabric f).stewards = s.stewards := rfl
@[simp] theorem State.updFabric_steps (s : State) (f : Fabric → Fabric) : (s.updFabric f).steps = s.steps := rfl
@[simp] theorem State.updFabric_pairs (s : State) (f : Fabric → Fabric) : (s.updFabric f).pairs = s.pairs := rfl
@[simp] theorem State.updFabric_forecasts (s : State) (f : Fabric → Fabric) : (s.updFabric f).forecasts = s.forecasts := rfl
@[simp] theorem State.updFabric_fcRequests (s : State) (f : Fabric → Fabric) : (s.updFabric f).fcRequests = s.fcRequests := rfl
@[simp] theorem State.updFabric_fcScored (s : State) (f : Fabric → Fabric) : (s.updFabric f).fcScored = s.fcScored := rfl
@[simp] theorem State.updFabric_xdies (s : State) (f : Fabric → Fabric) : (s.updFabric f).xdies = s.xdies := rfl
@[simp] theorem State.updFabric_pools (s : State) (f : Fabric → Fabric) : (s.updFabric f).pools = s.pools := rfl
@[simp] theorem State.updFabric_bpm (s : State) (f : Fabric → Fabric) : (s.updFabric f).bpm = s.bpm := rfl
@[simp] theorem State.updFabric_hubs (s : State) (f : Fabric → Fabric) : (s.updFabric f).hubs = s.hubs := rfl
@[simp] theorem State.updFabric_hbmStacks (s : State) (f : Fabric → Fabric) : (s.updFabric f).hbmStacks = s.hbmStacks := rfl
@[simp] theorem State.updFabric_ports (s : State) (f : Fabric → Fabric) : (s.updFabric f).ports = s.ports := rfl
@[simp] theorem State.updFabric_groups (s : State) (f : Fabric → Fabric) : (s.updFabric f).groups = s.groups := rfl
@[simp] theorem State.updFabric_colls (s : State) (f : Fabric → Fabric) : (s.updFabric f).colls = s.colls := rfl
@[simp] theorem State.updFabric_collPast (s : State) (f : Fabric → Fabric) : (s.updFabric f).collPast = s.collPast := rfl
@[simp] theorem State.updFabric_channels (s : State) (f : Fabric → Fabric) : (s.updFabric f).channels = s.channels := rfl
@[simp] theorem State.updFabric_lastRing (s : State) (f : Fabric → Fabric) : (s.updFabric f).lastRing = s.lastRing := rfl
@[simp] theorem State.updFabric_fw (s : State) (f : Fabric → Fabric) : (s.updFabric f).fw = s.fw := rfl
@[simp] theorem State.updFabric_baro (s : State) (f : Fabric → Fabric) : (s.updFabric f).baro = s.baro := rfl
@[simp] theorem State.updFabric_ckpt (s : State) (f : Fabric → Fabric) : (s.updFabric f).ckpt = s.ckpt := rfl
@[simp] theorem State.updFabric_mgmt (s : State) (f : Fabric → Fabric) : (s.updFabric f).mgmt = s.mgmt := rfl
@[simp] theorem State.updFabric_power (s : State) (f : Fabric → Fabric) : (s.updFabric f).power = s.power := rfl
@[simp] theorem State.updFabric_tap (s : State) (f : Fabric → Fabric) : (s.updFabric f).tap = s.tap := rfl
@[simp] theorem State.updFabric_out (s : State) (f : Fabric → Fabric) : (s.updFabric f).out = s.out := rfl
@[simp] theorem State.updFabric_time (s : State) (f : Fabric → Fabric) : (s.updFabric f).time = s.time := rfl
@[simp] theorem State.updFabric_free (s : State) (f : Fabric → Fabric) : (s.updFabric f).free = s.free := rfl

@[simp] theorem State.updMgmt_pending (s : State) (f : Mgmt → Mgmt) : (s.updMgmt f).pending = s.pending := rfl
@[simp] theorem State.updMgmt_part (s : State) (f : Mgmt → Mgmt) : (s.updMgmt f).part = s.part := rfl
@[simp] theorem State.updMgmt_mem (s : State) (f : Mgmt → Mgmt) : (s.updMgmt f).mem = s.mem := rfl
@[simp] theorem State.updMgmt_poison (s : State) (f : Mgmt → Mgmt) : (s.updMgmt f).poison = s.poison := rfl
@[simp] theorem State.updMgmt_upsets (s : State) (f : Mgmt → Mgmt) : (s.updMgmt f).upsets = s.upsets := rfl
@[simp] theorem State.updMgmt_writebacks (s : State) (f : Mgmt → Mgmt) : (s.updMgmt f).writebacks = s.writebacks := rfl
@[simp] theorem State.updMgmt_testRuns (s : State) (f : Mgmt → Mgmt) : (s.updMgmt f).testRuns = s.testRuns := rfl
@[simp] theorem State.updMgmt_openRows (s : State) (f : Mgmt → Mgmt) : (s.updMgmt f).openRows = s.openRows := rfl
@[simp] theorem State.updMgmt_rowErrors (s : State) (f : Mgmt → Mgmt) : (s.updMgmt f).rowErrors = s.rowErrors := rfl
@[simp] theorem State.updMgmt_regions (s : State) (f : Mgmt → Mgmt) : (s.updMgmt f).regions = s.regions := rfl
@[simp] theorem State.updMgmt_regionsIdle (s : State) (f : Mgmt → Mgmt) : (s.updMgmt f).regionsIdle = s.regionsIdle := rfl
@[simp] theorem State.updMgmt_dieOk (s : State) (f : Mgmt → Mgmt) : (s.updMgmt f).dieOk = s.dieOk := rfl
@[simp] theorem State.updMgmt_dieFail (s : State) (f : Mgmt → Mgmt) : (s.updMgmt f).dieFail = s.dieFail := rfl
@[simp] theorem State.updMgmt_selfId (s : State) (f : Mgmt → Mgmt) : (s.updMgmt f).selfId = s.selfId := rfl
@[simp] theorem State.updMgmt_season (s : State) (f : Mgmt → Mgmt) : (s.updMgmt f).season = s.season := rfl
@[simp] theorem State.updMgmt_cores (s : State) (f : Mgmt → Mgmt) : (s.updMgmt f).cores = s.cores := rfl
@[simp] theorem State.updMgmt_saved (s : State) (f : Mgmt → Mgmt) : (s.updMgmt f).saved = s.saved := rfl
@[simp] theorem State.updMgmt_partitions (s : State) (f : Mgmt → Mgmt) : (s.updMgmt f).partitions = s.partitions := rfl
@[simp] theorem State.updMgmt_stewards (s : State) (f : Mgmt → Mgmt) : (s.updMgmt f).stewards = s.stewards := rfl
@[simp] theorem State.updMgmt_steps (s : State) (f : Mgmt → Mgmt) : (s.updMgmt f).steps = s.steps := rfl
@[simp] theorem State.updMgmt_pairs (s : State) (f : Mgmt → Mgmt) : (s.updMgmt f).pairs = s.pairs := rfl
@[simp] theorem State.updMgmt_forecasts (s : State) (f : Mgmt → Mgmt) : (s.updMgmt f).forecasts = s.forecasts := rfl
@[simp] theorem State.updMgmt_fcRequests (s : State) (f : Mgmt → Mgmt) : (s.updMgmt f).fcRequests = s.fcRequests := rfl
@[simp] theorem State.updMgmt_fcScored (s : State) (f : Mgmt → Mgmt) : (s.updMgmt f).fcScored = s.fcScored := rfl
@[simp] theorem State.updMgmt_xdies (s : State) (f : Mgmt → Mgmt) : (s.updMgmt f).xdies = s.xdies := rfl
@[simp] theorem State.updMgmt_pools (s : State) (f : Mgmt → Mgmt) : (s.updMgmt f).pools = s.pools := rfl
@[simp] theorem State.updMgmt_bpm (s : State) (f : Mgmt → Mgmt) : (s.updMgmt f).bpm = s.bpm := rfl
@[simp] theorem State.updMgmt_hubs (s : State) (f : Mgmt → Mgmt) : (s.updMgmt f).hubs = s.hubs := rfl
@[simp] theorem State.updMgmt_hbmStacks (s : State) (f : Mgmt → Mgmt) : (s.updMgmt f).hbmStacks = s.hbmStacks := rfl
@[simp] theorem State.updMgmt_ports (s : State) (f : Mgmt → Mgmt) : (s.updMgmt f).ports = s.ports := rfl
@[simp] theorem State.updMgmt_fabric (s : State) (f : Mgmt → Mgmt) : (s.updMgmt f).fabric = s.fabric := rfl
@[simp] theorem State.updMgmt_groups (s : State) (f : Mgmt → Mgmt) : (s.updMgmt f).groups = s.groups := rfl
@[simp] theorem State.updMgmt_colls (s : State) (f : Mgmt → Mgmt) : (s.updMgmt f).colls = s.colls := rfl
@[simp] theorem State.updMgmt_collPast (s : State) (f : Mgmt → Mgmt) : (s.updMgmt f).collPast = s.collPast := rfl
@[simp] theorem State.updMgmt_channels (s : State) (f : Mgmt → Mgmt) : (s.updMgmt f).channels = s.channels := rfl
@[simp] theorem State.updMgmt_lastRing (s : State) (f : Mgmt → Mgmt) : (s.updMgmt f).lastRing = s.lastRing := rfl
@[simp] theorem State.updMgmt_fw (s : State) (f : Mgmt → Mgmt) : (s.updMgmt f).fw = s.fw := rfl
@[simp] theorem State.updMgmt_baro (s : State) (f : Mgmt → Mgmt) : (s.updMgmt f).baro = s.baro := rfl
@[simp] theorem State.updMgmt_ckpt (s : State) (f : Mgmt → Mgmt) : (s.updMgmt f).ckpt = s.ckpt := rfl
@[simp] theorem State.updMgmt_power (s : State) (f : Mgmt → Mgmt) : (s.updMgmt f).power = s.power := rfl
@[simp] theorem State.updMgmt_tap (s : State) (f : Mgmt → Mgmt) : (s.updMgmt f).tap = s.tap := rfl
@[simp] theorem State.updMgmt_out (s : State) (f : Mgmt → Mgmt) : (s.updMgmt f).out = s.out := rfl
@[simp] theorem State.updMgmt_time (s : State) (f : Mgmt → Mgmt) : (s.updMgmt f).time = s.time := rfl
@[simp] theorem State.updMgmt_free (s : State) (f : Mgmt → Mgmt) : (s.updMgmt f).free = s.free := rfl

@[simp] theorem State.updPower_pending (s : State) (f : Power → Power) : (s.updPower f).pending = s.pending := rfl
@[simp] theorem State.updPower_part (s : State) (f : Power → Power) : (s.updPower f).part = s.part := rfl
@[simp] theorem State.updPower_mem (s : State) (f : Power → Power) : (s.updPower f).mem = s.mem := rfl
@[simp] theorem State.updPower_poison (s : State) (f : Power → Power) : (s.updPower f).poison = s.poison := rfl
@[simp] theorem State.updPower_upsets (s : State) (f : Power → Power) : (s.updPower f).upsets = s.upsets := rfl
@[simp] theorem State.updPower_writebacks (s : State) (f : Power → Power) : (s.updPower f).writebacks = s.writebacks := rfl
@[simp] theorem State.updPower_testRuns (s : State) (f : Power → Power) : (s.updPower f).testRuns = s.testRuns := rfl
@[simp] theorem State.updPower_openRows (s : State) (f : Power → Power) : (s.updPower f).openRows = s.openRows := rfl
@[simp] theorem State.updPower_rowErrors (s : State) (f : Power → Power) : (s.updPower f).rowErrors = s.rowErrors := rfl
@[simp] theorem State.updPower_regions (s : State) (f : Power → Power) : (s.updPower f).regions = s.regions := rfl
@[simp] theorem State.updPower_regionsIdle (s : State) (f : Power → Power) : (s.updPower f).regionsIdle = s.regionsIdle := rfl
@[simp] theorem State.updPower_dieOk (s : State) (f : Power → Power) : (s.updPower f).dieOk = s.dieOk := rfl
@[simp] theorem State.updPower_dieFail (s : State) (f : Power → Power) : (s.updPower f).dieFail = s.dieFail := rfl
@[simp] theorem State.updPower_selfId (s : State) (f : Power → Power) : (s.updPower f).selfId = s.selfId := rfl
@[simp] theorem State.updPower_season (s : State) (f : Power → Power) : (s.updPower f).season = s.season := rfl
@[simp] theorem State.updPower_cores (s : State) (f : Power → Power) : (s.updPower f).cores = s.cores := rfl
@[simp] theorem State.updPower_saved (s : State) (f : Power → Power) : (s.updPower f).saved = s.saved := rfl
@[simp] theorem State.updPower_partitions (s : State) (f : Power → Power) : (s.updPower f).partitions = s.partitions := rfl
@[simp] theorem State.updPower_stewards (s : State) (f : Power → Power) : (s.updPower f).stewards = s.stewards := rfl
@[simp] theorem State.updPower_steps (s : State) (f : Power → Power) : (s.updPower f).steps = s.steps := rfl
@[simp] theorem State.updPower_pairs (s : State) (f : Power → Power) : (s.updPower f).pairs = s.pairs := rfl
@[simp] theorem State.updPower_forecasts (s : State) (f : Power → Power) : (s.updPower f).forecasts = s.forecasts := rfl
@[simp] theorem State.updPower_fcRequests (s : State) (f : Power → Power) : (s.updPower f).fcRequests = s.fcRequests := rfl
@[simp] theorem State.updPower_fcScored (s : State) (f : Power → Power) : (s.updPower f).fcScored = s.fcScored := rfl
@[simp] theorem State.updPower_xdies (s : State) (f : Power → Power) : (s.updPower f).xdies = s.xdies := rfl
@[simp] theorem State.updPower_pools (s : State) (f : Power → Power) : (s.updPower f).pools = s.pools := rfl
@[simp] theorem State.updPower_bpm (s : State) (f : Power → Power) : (s.updPower f).bpm = s.bpm := rfl
@[simp] theorem State.updPower_hubs (s : State) (f : Power → Power) : (s.updPower f).hubs = s.hubs := rfl
@[simp] theorem State.updPower_hbmStacks (s : State) (f : Power → Power) : (s.updPower f).hbmStacks = s.hbmStacks := rfl
@[simp] theorem State.updPower_ports (s : State) (f : Power → Power) : (s.updPower f).ports = s.ports := rfl
@[simp] theorem State.updPower_fabric (s : State) (f : Power → Power) : (s.updPower f).fabric = s.fabric := rfl
@[simp] theorem State.updPower_groups (s : State) (f : Power → Power) : (s.updPower f).groups = s.groups := rfl
@[simp] theorem State.updPower_colls (s : State) (f : Power → Power) : (s.updPower f).colls = s.colls := rfl
@[simp] theorem State.updPower_collPast (s : State) (f : Power → Power) : (s.updPower f).collPast = s.collPast := rfl
@[simp] theorem State.updPower_channels (s : State) (f : Power → Power) : (s.updPower f).channels = s.channels := rfl
@[simp] theorem State.updPower_lastRing (s : State) (f : Power → Power) : (s.updPower f).lastRing = s.lastRing := rfl
@[simp] theorem State.updPower_fw (s : State) (f : Power → Power) : (s.updPower f).fw = s.fw := rfl
@[simp] theorem State.updPower_baro (s : State) (f : Power → Power) : (s.updPower f).baro = s.baro := rfl
@[simp] theorem State.updPower_ckpt (s : State) (f : Power → Power) : (s.updPower f).ckpt = s.ckpt := rfl
@[simp] theorem State.updPower_mgmt (s : State) (f : Power → Power) : (s.updPower f).mgmt = s.mgmt := rfl
@[simp] theorem State.updPower_tap (s : State) (f : Power → Power) : (s.updPower f).tap = s.tap := rfl
@[simp] theorem State.updPower_out (s : State) (f : Power → Power) : (s.updPower f).out = s.out := rfl
@[simp] theorem State.updPower_time (s : State) (f : Power → Power) : (s.updPower f).time = s.time := rfl
@[simp] theorem State.updPower_free (s : State) (f : Power → Power) : (s.updPower f).free = s.free := rfl

@[simp] theorem State.updFw_pending (s : State) (f : Firmware → Firmware) : (s.updFw f).pending = s.pending := rfl
@[simp] theorem State.updFw_part (s : State) (f : Firmware → Firmware) : (s.updFw f).part = s.part := rfl
@[simp] theorem State.updFw_mem (s : State) (f : Firmware → Firmware) : (s.updFw f).mem = s.mem := rfl
@[simp] theorem State.updFw_poison (s : State) (f : Firmware → Firmware) : (s.updFw f).poison = s.poison := rfl
@[simp] theorem State.updFw_upsets (s : State) (f : Firmware → Firmware) : (s.updFw f).upsets = s.upsets := rfl
@[simp] theorem State.updFw_writebacks (s : State) (f : Firmware → Firmware) : (s.updFw f).writebacks = s.writebacks := rfl
@[simp] theorem State.updFw_testRuns (s : State) (f : Firmware → Firmware) : (s.updFw f).testRuns = s.testRuns := rfl
@[simp] theorem State.updFw_openRows (s : State) (f : Firmware → Firmware) : (s.updFw f).openRows = s.openRows := rfl
@[simp] theorem State.updFw_rowErrors (s : State) (f : Firmware → Firmware) : (s.updFw f).rowErrors = s.rowErrors := rfl
@[simp] theorem State.updFw_regions (s : State) (f : Firmware → Firmware) : (s.updFw f).regions = s.regions := rfl
@[simp] theorem State.updFw_regionsIdle (s : State) (f : Firmware → Firmware) : (s.updFw f).regionsIdle = s.regionsIdle := rfl
@[simp] theorem State.updFw_dieOk (s : State) (f : Firmware → Firmware) : (s.updFw f).dieOk = s.dieOk := rfl
@[simp] theorem State.updFw_dieFail (s : State) (f : Firmware → Firmware) : (s.updFw f).dieFail = s.dieFail := rfl
@[simp] theorem State.updFw_selfId (s : State) (f : Firmware → Firmware) : (s.updFw f).selfId = s.selfId := rfl
@[simp] theorem State.updFw_season (s : State) (f : Firmware → Firmware) : (s.updFw f).season = s.season := rfl
@[simp] theorem State.updFw_cores (s : State) (f : Firmware → Firmware) : (s.updFw f).cores = s.cores := rfl
@[simp] theorem State.updFw_saved (s : State) (f : Firmware → Firmware) : (s.updFw f).saved = s.saved := rfl
@[simp] theorem State.updFw_partitions (s : State) (f : Firmware → Firmware) : (s.updFw f).partitions = s.partitions := rfl
@[simp] theorem State.updFw_stewards (s : State) (f : Firmware → Firmware) : (s.updFw f).stewards = s.stewards := rfl
@[simp] theorem State.updFw_steps (s : State) (f : Firmware → Firmware) : (s.updFw f).steps = s.steps := rfl
@[simp] theorem State.updFw_pairs (s : State) (f : Firmware → Firmware) : (s.updFw f).pairs = s.pairs := rfl
@[simp] theorem State.updFw_forecasts (s : State) (f : Firmware → Firmware) : (s.updFw f).forecasts = s.forecasts := rfl
@[simp] theorem State.updFw_fcRequests (s : State) (f : Firmware → Firmware) : (s.updFw f).fcRequests = s.fcRequests := rfl
@[simp] theorem State.updFw_fcScored (s : State) (f : Firmware → Firmware) : (s.updFw f).fcScored = s.fcScored := rfl
@[simp] theorem State.updFw_xdies (s : State) (f : Firmware → Firmware) : (s.updFw f).xdies = s.xdies := rfl
@[simp] theorem State.updFw_pools (s : State) (f : Firmware → Firmware) : (s.updFw f).pools = s.pools := rfl
@[simp] theorem State.updFw_bpm (s : State) (f : Firmware → Firmware) : (s.updFw f).bpm = s.bpm := rfl
@[simp] theorem State.updFw_hubs (s : State) (f : Firmware → Firmware) : (s.updFw f).hubs = s.hubs := rfl
@[simp] theorem State.updFw_hbmStacks (s : State) (f : Firmware → Firmware) : (s.updFw f).hbmStacks = s.hbmStacks := rfl
@[simp] theorem State.updFw_ports (s : State) (f : Firmware → Firmware) : (s.updFw f).ports = s.ports := rfl
@[simp] theorem State.updFw_fabric (s : State) (f : Firmware → Firmware) : (s.updFw f).fabric = s.fabric := rfl
@[simp] theorem State.updFw_groups (s : State) (f : Firmware → Firmware) : (s.updFw f).groups = s.groups := rfl
@[simp] theorem State.updFw_colls (s : State) (f : Firmware → Firmware) : (s.updFw f).colls = s.colls := rfl
@[simp] theorem State.updFw_collPast (s : State) (f : Firmware → Firmware) : (s.updFw f).collPast = s.collPast := rfl
@[simp] theorem State.updFw_channels (s : State) (f : Firmware → Firmware) : (s.updFw f).channels = s.channels := rfl
@[simp] theorem State.updFw_lastRing (s : State) (f : Firmware → Firmware) : (s.updFw f).lastRing = s.lastRing := rfl
@[simp] theorem State.updFw_baro (s : State) (f : Firmware → Firmware) : (s.updFw f).baro = s.baro := rfl
@[simp] theorem State.updFw_ckpt (s : State) (f : Firmware → Firmware) : (s.updFw f).ckpt = s.ckpt := rfl
@[simp] theorem State.updFw_mgmt (s : State) (f : Firmware → Firmware) : (s.updFw f).mgmt = s.mgmt := rfl
@[simp] theorem State.updFw_power (s : State) (f : Firmware → Firmware) : (s.updFw f).power = s.power := rfl
@[simp] theorem State.updFw_tap (s : State) (f : Firmware → Firmware) : (s.updFw f).tap = s.tap := rfl
@[simp] theorem State.updFw_out (s : State) (f : Firmware → Firmware) : (s.updFw f).out = s.out := rfl
@[simp] theorem State.updFw_time (s : State) (f : Firmware → Firmware) : (s.updFw f).time = s.time := rfl
@[simp] theorem State.updFw_free (s : State) (f : Firmware → Firmware) : (s.updFw f).free = s.free := rfl

@[simp] theorem State.emit_pending (s : State) (m : OutMsg) : (s.emit m).pending = s.pending := rfl
@[simp] theorem State.emit_part (s : State) (m : OutMsg) : (s.emit m).part = s.part := rfl
@[simp] theorem State.emit_mem (s : State) (m : OutMsg) : (s.emit m).mem = s.mem := rfl
@[simp] theorem State.emit_poison (s : State) (m : OutMsg) : (s.emit m).poison = s.poison := rfl
@[simp] theorem State.emit_upsets (s : State) (m : OutMsg) : (s.emit m).upsets = s.upsets := rfl
@[simp] theorem State.emit_writebacks (s : State) (m : OutMsg) : (s.emit m).writebacks = s.writebacks := rfl
@[simp] theorem State.emit_testRuns (s : State) (m : OutMsg) : (s.emit m).testRuns = s.testRuns := rfl
@[simp] theorem State.emit_openRows (s : State) (m : OutMsg) : (s.emit m).openRows = s.openRows := rfl
@[simp] theorem State.emit_rowErrors (s : State) (m : OutMsg) : (s.emit m).rowErrors = s.rowErrors := rfl
@[simp] theorem State.emit_regions (s : State) (m : OutMsg) : (s.emit m).regions = s.regions := rfl
@[simp] theorem State.emit_regionsIdle (s : State) (m : OutMsg) : (s.emit m).regionsIdle = s.regionsIdle := rfl
@[simp] theorem State.emit_dieOk (s : State) (m : OutMsg) : (s.emit m).dieOk = s.dieOk := rfl
@[simp] theorem State.emit_dieFail (s : State) (m : OutMsg) : (s.emit m).dieFail = s.dieFail := rfl
@[simp] theorem State.emit_selfId (s : State) (m : OutMsg) : (s.emit m).selfId = s.selfId := rfl
@[simp] theorem State.emit_season (s : State) (m : OutMsg) : (s.emit m).season = s.season := rfl
@[simp] theorem State.emit_cores (s : State) (m : OutMsg) : (s.emit m).cores = s.cores := rfl
@[simp] theorem State.emit_saved (s : State) (m : OutMsg) : (s.emit m).saved = s.saved := rfl
@[simp] theorem State.emit_partitions (s : State) (m : OutMsg) : (s.emit m).partitions = s.partitions := rfl
@[simp] theorem State.emit_stewards (s : State) (m : OutMsg) : (s.emit m).stewards = s.stewards := rfl
@[simp] theorem State.emit_steps (s : State) (m : OutMsg) : (s.emit m).steps = s.steps := rfl
@[simp] theorem State.emit_pairs (s : State) (m : OutMsg) : (s.emit m).pairs = s.pairs := rfl
@[simp] theorem State.emit_forecasts (s : State) (m : OutMsg) : (s.emit m).forecasts = s.forecasts := rfl
@[simp] theorem State.emit_fcRequests (s : State) (m : OutMsg) : (s.emit m).fcRequests = s.fcRequests := rfl
@[simp] theorem State.emit_fcScored (s : State) (m : OutMsg) : (s.emit m).fcScored = s.fcScored := rfl
@[simp] theorem State.emit_xdies (s : State) (m : OutMsg) : (s.emit m).xdies = s.xdies := rfl
@[simp] theorem State.emit_pools (s : State) (m : OutMsg) : (s.emit m).pools = s.pools := rfl
@[simp] theorem State.emit_bpm (s : State) (m : OutMsg) : (s.emit m).bpm = s.bpm := rfl
@[simp] theorem State.emit_hubs (s : State) (m : OutMsg) : (s.emit m).hubs = s.hubs := rfl
@[simp] theorem State.emit_hbmStacks (s : State) (m : OutMsg) : (s.emit m).hbmStacks = s.hbmStacks := rfl
@[simp] theorem State.emit_ports (s : State) (m : OutMsg) : (s.emit m).ports = s.ports := rfl
@[simp] theorem State.emit_fabric (s : State) (m : OutMsg) : (s.emit m).fabric = s.fabric := rfl
@[simp] theorem State.emit_groups (s : State) (m : OutMsg) : (s.emit m).groups = s.groups := rfl
@[simp] theorem State.emit_colls (s : State) (m : OutMsg) : (s.emit m).colls = s.colls := rfl
@[simp] theorem State.emit_collPast (s : State) (m : OutMsg) : (s.emit m).collPast = s.collPast := rfl
@[simp] theorem State.emit_channels (s : State) (m : OutMsg) : (s.emit m).channels = s.channels := rfl
@[simp] theorem State.emit_lastRing (s : State) (m : OutMsg) : (s.emit m).lastRing = s.lastRing := rfl
@[simp] theorem State.emit_fw (s : State) (m : OutMsg) : (s.emit m).fw = s.fw := rfl
@[simp] theorem State.emit_baro (s : State) (m : OutMsg) : (s.emit m).baro = s.baro := rfl
@[simp] theorem State.emit_ckpt (s : State) (m : OutMsg) : (s.emit m).ckpt = s.ckpt := rfl
@[simp] theorem State.emit_mgmt (s : State) (m : OutMsg) : (s.emit m).mgmt = s.mgmt := rfl
@[simp] theorem State.emit_power (s : State) (m : OutMsg) : (s.emit m).power = s.power := rfl
@[simp] theorem State.emit_tap (s : State) (m : OutMsg) : (s.emit m).tap = s.tap := rfl
@[simp] theorem State.emit_time (s : State) (m : OutMsg) : (s.emit m).time = s.time := rfl
@[simp] theorem State.emit_free (s : State) (m : OutMsg) : (s.emit m).free = s.free := rfl

@[simp] theorem State.updStep_pending (s : State) (sl : Nat) (f : Step → Step) : (s.updStep sl f).pending = s.pending := by
  unfold State.updStep; split <;> rfl
@[simp] theorem State.updStep_part (s : State) (sl : Nat) (f : Step → Step) : (s.updStep sl f).part = s.part := by
  unfold State.updStep; split <;> rfl
@[simp] theorem State.updStep_mem (s : State) (sl : Nat) (f : Step → Step) : (s.updStep sl f).mem = s.mem := by
  unfold State.updStep; split <;> rfl
@[simp] theorem State.updStep_poison (s : State) (sl : Nat) (f : Step → Step) : (s.updStep sl f).poison = s.poison := by
  unfold State.updStep; split <;> rfl
@[simp] theorem State.updStep_upsets (s : State) (sl : Nat) (f : Step → Step) : (s.updStep sl f).upsets = s.upsets := by
  unfold State.updStep; split <;> rfl
@[simp] theorem State.updStep_writebacks (s : State) (sl : Nat) (f : Step → Step) : (s.updStep sl f).writebacks = s.writebacks := by
  unfold State.updStep; split <;> rfl
@[simp] theorem State.updStep_testRuns (s : State) (sl : Nat) (f : Step → Step) : (s.updStep sl f).testRuns = s.testRuns := by
  unfold State.updStep; split <;> rfl
@[simp] theorem State.updStep_openRows (s : State) (sl : Nat) (f : Step → Step) : (s.updStep sl f).openRows = s.openRows := by
  unfold State.updStep; split <;> rfl
@[simp] theorem State.updStep_rowErrors (s : State) (sl : Nat) (f : Step → Step) : (s.updStep sl f).rowErrors = s.rowErrors := by
  unfold State.updStep; split <;> rfl
@[simp] theorem State.updStep_regions (s : State) (sl : Nat) (f : Step → Step) : (s.updStep sl f).regions = s.regions := by
  unfold State.updStep; split <;> rfl
@[simp] theorem State.updStep_regionsIdle (s : State) (sl : Nat) (f : Step → Step) : (s.updStep sl f).regionsIdle = s.regionsIdle := by
  unfold State.updStep; split <;> rfl
@[simp] theorem State.updStep_dieOk (s : State) (sl : Nat) (f : Step → Step) : (s.updStep sl f).dieOk = s.dieOk := by
  unfold State.updStep; split <;> rfl
@[simp] theorem State.updStep_dieFail (s : State) (sl : Nat) (f : Step → Step) : (s.updStep sl f).dieFail = s.dieFail := by
  unfold State.updStep; split <;> rfl
@[simp] theorem State.updStep_selfId (s : State) (sl : Nat) (f : Step → Step) : (s.updStep sl f).selfId = s.selfId := by
  unfold State.updStep; split <;> rfl
@[simp] theorem State.updStep_season (s : State) (sl : Nat) (f : Step → Step) : (s.updStep sl f).season = s.season := by
  unfold State.updStep; split <;> rfl
@[simp] theorem State.updStep_cores (s : State) (sl : Nat) (f : Step → Step) : (s.updStep sl f).cores = s.cores := by
  unfold State.updStep; split <;> rfl
@[simp] theorem State.updStep_saved (s : State) (sl : Nat) (f : Step → Step) : (s.updStep sl f).saved = s.saved := by
  unfold State.updStep; split <;> rfl
@[simp] theorem State.updStep_partitions (s : State) (sl : Nat) (f : Step → Step) : (s.updStep sl f).partitions = s.partitions := by
  unfold State.updStep; split <;> rfl
@[simp] theorem State.updStep_stewards (s : State) (sl : Nat) (f : Step → Step) : (s.updStep sl f).stewards = s.stewards := by
  unfold State.updStep; split <;> rfl
@[simp] theorem State.updStep_pairs (s : State) (sl : Nat) (f : Step → Step) : (s.updStep sl f).pairs = s.pairs := by
  unfold State.updStep; split <;> rfl
@[simp] theorem State.updStep_forecasts (s : State) (sl : Nat) (f : Step → Step) : (s.updStep sl f).forecasts = s.forecasts := by
  unfold State.updStep; split <;> rfl
@[simp] theorem State.updStep_fcRequests (s : State) (sl : Nat) (f : Step → Step) : (s.updStep sl f).fcRequests = s.fcRequests := by
  unfold State.updStep; split <;> rfl
@[simp] theorem State.updStep_fcScored (s : State) (sl : Nat) (f : Step → Step) : (s.updStep sl f).fcScored = s.fcScored := by
  unfold State.updStep; split <;> rfl
@[simp] theorem State.updStep_xdies (s : State) (sl : Nat) (f : Step → Step) : (s.updStep sl f).xdies = s.xdies := by
  unfold State.updStep; split <;> rfl
@[simp] theorem State.updStep_pools (s : State) (sl : Nat) (f : Step → Step) : (s.updStep sl f).pools = s.pools := by
  unfold State.updStep; split <;> rfl
@[simp] theorem State.updStep_bpm (s : State) (sl : Nat) (f : Step → Step) : (s.updStep sl f).bpm = s.bpm := by
  unfold State.updStep; split <;> rfl
@[simp] theorem State.updStep_hubs (s : State) (sl : Nat) (f : Step → Step) : (s.updStep sl f).hubs = s.hubs := by
  unfold State.updStep; split <;> rfl
@[simp] theorem State.updStep_hbmStacks (s : State) (sl : Nat) (f : Step → Step) : (s.updStep sl f).hbmStacks = s.hbmStacks := by
  unfold State.updStep; split <;> rfl
@[simp] theorem State.updStep_ports (s : State) (sl : Nat) (f : Step → Step) : (s.updStep sl f).ports = s.ports := by
  unfold State.updStep; split <;> rfl
@[simp] theorem State.updStep_fabric (s : State) (sl : Nat) (f : Step → Step) : (s.updStep sl f).fabric = s.fabric := by
  unfold State.updStep; split <;> rfl
@[simp] theorem State.updStep_groups (s : State) (sl : Nat) (f : Step → Step) : (s.updStep sl f).groups = s.groups := by
  unfold State.updStep; split <;> rfl
@[simp] theorem State.updStep_colls (s : State) (sl : Nat) (f : Step → Step) : (s.updStep sl f).colls = s.colls := by
  unfold State.updStep; split <;> rfl
@[simp] theorem State.updStep_collPast (s : State) (sl : Nat) (f : Step → Step) : (s.updStep sl f).collPast = s.collPast := by
  unfold State.updStep; split <;> rfl
@[simp] theorem State.updStep_channels (s : State) (sl : Nat) (f : Step → Step) : (s.updStep sl f).channels = s.channels := by
  unfold State.updStep; split <;> rfl
@[simp] theorem State.updStep_lastRing (s : State) (sl : Nat) (f : Step → Step) : (s.updStep sl f).lastRing = s.lastRing := by
  unfold State.updStep; split <;> rfl
@[simp] theorem State.updStep_fw (s : State) (sl : Nat) (f : Step → Step) : (s.updStep sl f).fw = s.fw := by
  unfold State.updStep; split <;> rfl
@[simp] theorem State.updStep_baro (s : State) (sl : Nat) (f : Step → Step) : (s.updStep sl f).baro = s.baro := by
  unfold State.updStep; split <;> rfl
@[simp] theorem State.updStep_ckpt (s : State) (sl : Nat) (f : Step → Step) : (s.updStep sl f).ckpt = s.ckpt := by
  unfold State.updStep; split <;> rfl
@[simp] theorem State.updStep_mgmt (s : State) (sl : Nat) (f : Step → Step) : (s.updStep sl f).mgmt = s.mgmt := by
  unfold State.updStep; split <;> rfl
@[simp] theorem State.updStep_power (s : State) (sl : Nat) (f : Step → Step) : (s.updStep sl f).power = s.power := by
  unfold State.updStep; split <;> rfl
@[simp] theorem State.updStep_tap (s : State) (sl : Nat) (f : Step → Step) : (s.updStep sl f).tap = s.tap := by
  unfold State.updStep; split <;> rfl
@[simp] theorem State.updStep_out (s : State) (sl : Nat) (f : Step → Step) : (s.updStep sl f).out = s.out := by
  unfold State.updStep; split <;> rfl
@[simp] theorem State.updStep_time (s : State) (sl : Nat) (f : Step → Step) : (s.updStep sl f).time = s.time := by
  unfold State.updStep; split <;> rfl
@[simp] theorem State.updStep_free (s : State) (sl : Nat) (f : Step → Step) : (s.updStep sl f).free = s.free := by
  unfold State.updStep; split <;> rfl

@[simp] theorem State.updFc_pending (s : State) (i : Nat) (f : Fc → Fc) : (s.updFc i f).pending = s.pending := by
  unfold State.updFc; split <;> rfl
@[simp] theorem State.updFc_part (s : State) (i : Nat) (f : Fc → Fc) : (s.updFc i f).part = s.part := by
  unfold State.updFc; split <;> rfl
@[simp] theorem State.updFc_mem (s : State) (i : Nat) (f : Fc → Fc) : (s.updFc i f).mem = s.mem := by
  unfold State.updFc; split <;> rfl
@[simp] theorem State.updFc_poison (s : State) (i : Nat) (f : Fc → Fc) : (s.updFc i f).poison = s.poison := by
  unfold State.updFc; split <;> rfl
@[simp] theorem State.updFc_upsets (s : State) (i : Nat) (f : Fc → Fc) : (s.updFc i f).upsets = s.upsets := by
  unfold State.updFc; split <;> rfl
@[simp] theorem State.updFc_writebacks (s : State) (i : Nat) (f : Fc → Fc) : (s.updFc i f).writebacks = s.writebacks := by
  unfold State.updFc; split <;> rfl
@[simp] theorem State.updFc_testRuns (s : State) (i : Nat) (f : Fc → Fc) : (s.updFc i f).testRuns = s.testRuns := by
  unfold State.updFc; split <;> rfl
@[simp] theorem State.updFc_openRows (s : State) (i : Nat) (f : Fc → Fc) : (s.updFc i f).openRows = s.openRows := by
  unfold State.updFc; split <;> rfl
@[simp] theorem State.updFc_rowErrors (s : State) (i : Nat) (f : Fc → Fc) : (s.updFc i f).rowErrors = s.rowErrors := by
  unfold State.updFc; split <;> rfl
@[simp] theorem State.updFc_regions (s : State) (i : Nat) (f : Fc → Fc) : (s.updFc i f).regions = s.regions := by
  unfold State.updFc; split <;> rfl
@[simp] theorem State.updFc_regionsIdle (s : State) (i : Nat) (f : Fc → Fc) : (s.updFc i f).regionsIdle = s.regionsIdle := by
  unfold State.updFc; split <;> rfl
@[simp] theorem State.updFc_dieOk (s : State) (i : Nat) (f : Fc → Fc) : (s.updFc i f).dieOk = s.dieOk := by
  unfold State.updFc; split <;> rfl
@[simp] theorem State.updFc_dieFail (s : State) (i : Nat) (f : Fc → Fc) : (s.updFc i f).dieFail = s.dieFail := by
  unfold State.updFc; split <;> rfl
@[simp] theorem State.updFc_selfId (s : State) (i : Nat) (f : Fc → Fc) : (s.updFc i f).selfId = s.selfId := by
  unfold State.updFc; split <;> rfl
@[simp] theorem State.updFc_season (s : State) (i : Nat) (f : Fc → Fc) : (s.updFc i f).season = s.season := by
  unfold State.updFc; split <;> rfl
@[simp] theorem State.updFc_cores (s : State) (i : Nat) (f : Fc → Fc) : (s.updFc i f).cores = s.cores := by
  unfold State.updFc; split <;> rfl
@[simp] theorem State.updFc_saved (s : State) (i : Nat) (f : Fc → Fc) : (s.updFc i f).saved = s.saved := by
  unfold State.updFc; split <;> rfl
@[simp] theorem State.updFc_partitions (s : State) (i : Nat) (f : Fc → Fc) : (s.updFc i f).partitions = s.partitions := by
  unfold State.updFc; split <;> rfl
@[simp] theorem State.updFc_stewards (s : State) (i : Nat) (f : Fc → Fc) : (s.updFc i f).stewards = s.stewards := by
  unfold State.updFc; split <;> rfl
@[simp] theorem State.updFc_steps (s : State) (i : Nat) (f : Fc → Fc) : (s.updFc i f).steps = s.steps := by
  unfold State.updFc; split <;> rfl
@[simp] theorem State.updFc_pairs (s : State) (i : Nat) (f : Fc → Fc) : (s.updFc i f).pairs = s.pairs := by
  unfold State.updFc; split <;> rfl
@[simp] theorem State.updFc_fcRequests (s : State) (i : Nat) (f : Fc → Fc) : (s.updFc i f).fcRequests = s.fcRequests := by
  unfold State.updFc; split <;> rfl
@[simp] theorem State.updFc_fcScored (s : State) (i : Nat) (f : Fc → Fc) : (s.updFc i f).fcScored = s.fcScored := by
  unfold State.updFc; split <;> rfl
@[simp] theorem State.updFc_xdies (s : State) (i : Nat) (f : Fc → Fc) : (s.updFc i f).xdies = s.xdies := by
  unfold State.updFc; split <;> rfl
@[simp] theorem State.updFc_pools (s : State) (i : Nat) (f : Fc → Fc) : (s.updFc i f).pools = s.pools := by
  unfold State.updFc; split <;> rfl
@[simp] theorem State.updFc_bpm (s : State) (i : Nat) (f : Fc → Fc) : (s.updFc i f).bpm = s.bpm := by
  unfold State.updFc; split <;> rfl
@[simp] theorem State.updFc_hubs (s : State) (i : Nat) (f : Fc → Fc) : (s.updFc i f).hubs = s.hubs := by
  unfold State.updFc; split <;> rfl
@[simp] theorem State.updFc_hbmStacks (s : State) (i : Nat) (f : Fc → Fc) : (s.updFc i f).hbmStacks = s.hbmStacks := by
  unfold State.updFc; split <;> rfl
@[simp] theorem State.updFc_ports (s : State) (i : Nat) (f : Fc → Fc) : (s.updFc i f).ports = s.ports := by
  unfold State.updFc; split <;> rfl
@[simp] theorem State.updFc_fabric (s : State) (i : Nat) (f : Fc → Fc) : (s.updFc i f).fabric = s.fabric := by
  unfold State.updFc; split <;> rfl
@[simp] theorem State.updFc_groups (s : State) (i : Nat) (f : Fc → Fc) : (s.updFc i f).groups = s.groups := by
  unfold State.updFc; split <;> rfl
@[simp] theorem State.updFc_colls (s : State) (i : Nat) (f : Fc → Fc) : (s.updFc i f).colls = s.colls := by
  unfold State.updFc; split <;> rfl
@[simp] theorem State.updFc_collPast (s : State) (i : Nat) (f : Fc → Fc) : (s.updFc i f).collPast = s.collPast := by
  unfold State.updFc; split <;> rfl
@[simp] theorem State.updFc_channels (s : State) (i : Nat) (f : Fc → Fc) : (s.updFc i f).channels = s.channels := by
  unfold State.updFc; split <;> rfl
@[simp] theorem State.updFc_lastRing (s : State) (i : Nat) (f : Fc → Fc) : (s.updFc i f).lastRing = s.lastRing := by
  unfold State.updFc; split <;> rfl
@[simp] theorem State.updFc_fw (s : State) (i : Nat) (f : Fc → Fc) : (s.updFc i f).fw = s.fw := by
  unfold State.updFc; split <;> rfl
@[simp] theorem State.updFc_baro (s : State) (i : Nat) (f : Fc → Fc) : (s.updFc i f).baro = s.baro := by
  unfold State.updFc; split <;> rfl
@[simp] theorem State.updFc_ckpt (s : State) (i : Nat) (f : Fc → Fc) : (s.updFc i f).ckpt = s.ckpt := by
  unfold State.updFc; split <;> rfl
@[simp] theorem State.updFc_mgmt (s : State) (i : Nat) (f : Fc → Fc) : (s.updFc i f).mgmt = s.mgmt := by
  unfold State.updFc; split <;> rfl
@[simp] theorem State.updFc_power (s : State) (i : Nat) (f : Fc → Fc) : (s.updFc i f).power = s.power := by
  unfold State.updFc; split <;> rfl
@[simp] theorem State.updFc_tap (s : State) (i : Nat) (f : Fc → Fc) : (s.updFc i f).tap = s.tap := by
  unfold State.updFc; split <;> rfl
@[simp] theorem State.updFc_out (s : State) (i : Nat) (f : Fc → Fc) : (s.updFc i f).out = s.out := by
  unfold State.updFc; split <;> rfl
@[simp] theorem State.updFc_time (s : State) (i : Nat) (f : Fc → Fc) : (s.updFc i f).time = s.time := by
  unfold State.updFc; split <;> rfl
@[simp] theorem State.updFc_free (s : State) (i : Nat) (f : Fc → Fc) : (s.updFc i f).free = s.free := by
  unfold State.updFc; split <;> rfl

@[simp] theorem State.updPool_pending (s : State) (n : Nat) (f : Pool → Pool) : (s.updPool n f).pending = s.pending := by
  unfold State.updPool; split <;> rfl
@[simp] theorem State.updPool_part (s : State) (n : Nat) (f : Pool → Pool) : (s.updPool n f).part = s.part := by
  unfold State.updPool; split <;> rfl
@[simp] theorem State.updPool_mem (s : State) (n : Nat) (f : Pool → Pool) : (s.updPool n f).mem = s.mem := by
  unfold State.updPool; split <;> rfl
@[simp] theorem State.updPool_poison (s : State) (n : Nat) (f : Pool → Pool) : (s.updPool n f).poison = s.poison := by
  unfold State.updPool; split <;> rfl
@[simp] theorem State.updPool_upsets (s : State) (n : Nat) (f : Pool → Pool) : (s.updPool n f).upsets = s.upsets := by
  unfold State.updPool; split <;> rfl
@[simp] theorem State.updPool_writebacks (s : State) (n : Nat) (f : Pool → Pool) : (s.updPool n f).writebacks = s.writebacks := by
  unfold State.updPool; split <;> rfl
@[simp] theorem State.updPool_testRuns (s : State) (n : Nat) (f : Pool → Pool) : (s.updPool n f).testRuns = s.testRuns := by
  unfold State.updPool; split <;> rfl
@[simp] theorem State.updPool_openRows (s : State) (n : Nat) (f : Pool → Pool) : (s.updPool n f).openRows = s.openRows := by
  unfold State.updPool; split <;> rfl
@[simp] theorem State.updPool_rowErrors (s : State) (n : Nat) (f : Pool → Pool) : (s.updPool n f).rowErrors = s.rowErrors := by
  unfold State.updPool; split <;> rfl
@[simp] theorem State.updPool_regions (s : State) (n : Nat) (f : Pool → Pool) : (s.updPool n f).regions = s.regions := by
  unfold State.updPool; split <;> rfl
@[simp] theorem State.updPool_regionsIdle (s : State) (n : Nat) (f : Pool → Pool) : (s.updPool n f).regionsIdle = s.regionsIdle := by
  unfold State.updPool; split <;> rfl
@[simp] theorem State.updPool_dieOk (s : State) (n : Nat) (f : Pool → Pool) : (s.updPool n f).dieOk = s.dieOk := by
  unfold State.updPool; split <;> rfl
@[simp] theorem State.updPool_dieFail (s : State) (n : Nat) (f : Pool → Pool) : (s.updPool n f).dieFail = s.dieFail := by
  unfold State.updPool; split <;> rfl
@[simp] theorem State.updPool_selfId (s : State) (n : Nat) (f : Pool → Pool) : (s.updPool n f).selfId = s.selfId := by
  unfold State.updPool; split <;> rfl
@[simp] theorem State.updPool_season (s : State) (n : Nat) (f : Pool → Pool) : (s.updPool n f).season = s.season := by
  unfold State.updPool; split <;> rfl
@[simp] theorem State.updPool_cores (s : State) (n : Nat) (f : Pool → Pool) : (s.updPool n f).cores = s.cores := by
  unfold State.updPool; split <;> rfl
@[simp] theorem State.updPool_saved (s : State) (n : Nat) (f : Pool → Pool) : (s.updPool n f).saved = s.saved := by
  unfold State.updPool; split <;> rfl
@[simp] theorem State.updPool_partitions (s : State) (n : Nat) (f : Pool → Pool) : (s.updPool n f).partitions = s.partitions := by
  unfold State.updPool; split <;> rfl
@[simp] theorem State.updPool_stewards (s : State) (n : Nat) (f : Pool → Pool) : (s.updPool n f).stewards = s.stewards := by
  unfold State.updPool; split <;> rfl
@[simp] theorem State.updPool_steps (s : State) (n : Nat) (f : Pool → Pool) : (s.updPool n f).steps = s.steps := by
  unfold State.updPool; split <;> rfl
@[simp] theorem State.updPool_pairs (s : State) (n : Nat) (f : Pool → Pool) : (s.updPool n f).pairs = s.pairs := by
  unfold State.updPool; split <;> rfl
@[simp] theorem State.updPool_forecasts (s : State) (n : Nat) (f : Pool → Pool) : (s.updPool n f).forecasts = s.forecasts := by
  unfold State.updPool; split <;> rfl
@[simp] theorem State.updPool_fcRequests (s : State) (n : Nat) (f : Pool → Pool) : (s.updPool n f).fcRequests = s.fcRequests := by
  unfold State.updPool; split <;> rfl
@[simp] theorem State.updPool_fcScored (s : State) (n : Nat) (f : Pool → Pool) : (s.updPool n f).fcScored = s.fcScored := by
  unfold State.updPool; split <;> rfl
@[simp] theorem State.updPool_xdies (s : State) (n : Nat) (f : Pool → Pool) : (s.updPool n f).xdies = s.xdies := by
  unfold State.updPool; split <;> rfl
@[simp] theorem State.updPool_bpm (s : State) (n : Nat) (f : Pool → Pool) : (s.updPool n f).bpm = s.bpm := by
  unfold State.updPool; split <;> rfl
@[simp] theorem State.updPool_hubs (s : State) (n : Nat) (f : Pool → Pool) : (s.updPool n f).hubs = s.hubs := by
  unfold State.updPool; split <;> rfl
@[simp] theorem State.updPool_hbmStacks (s : State) (n : Nat) (f : Pool → Pool) : (s.updPool n f).hbmStacks = s.hbmStacks := by
  unfold State.updPool; split <;> rfl
@[simp] theorem State.updPool_ports (s : State) (n : Nat) (f : Pool → Pool) : (s.updPool n f).ports = s.ports := by
  unfold State.updPool; split <;> rfl
@[simp] theorem State.updPool_fabric (s : State) (n : Nat) (f : Pool → Pool) : (s.updPool n f).fabric = s.fabric := by
  unfold State.updPool; split <;> rfl
@[simp] theorem State.updPool_groups (s : State) (n : Nat) (f : Pool → Pool) : (s.updPool n f).groups = s.groups := by
  unfold State.updPool; split <;> rfl
@[simp] theorem State.updPool_colls (s : State) (n : Nat) (f : Pool → Pool) : (s.updPool n f).colls = s.colls := by
  unfold State.updPool; split <;> rfl
@[simp] theorem State.updPool_collPast (s : State) (n : Nat) (f : Pool → Pool) : (s.updPool n f).collPast = s.collPast := by
  unfold State.updPool; split <;> rfl
@[simp] theorem State.updPool_channels (s : State) (n : Nat) (f : Pool → Pool) : (s.updPool n f).channels = s.channels := by
  unfold State.updPool; split <;> rfl
@[simp] theorem State.updPool_lastRing (s : State) (n : Nat) (f : Pool → Pool) : (s.updPool n f).lastRing = s.lastRing := by
  unfold State.updPool; split <;> rfl
@[simp] theorem State.updPool_fw (s : State) (n : Nat) (f : Pool → Pool) : (s.updPool n f).fw = s.fw := by
  unfold State.updPool; split <;> rfl
@[simp] theorem State.updPool_baro (s : State) (n : Nat) (f : Pool → Pool) : (s.updPool n f).baro = s.baro := by
  unfold State.updPool; split <;> rfl
@[simp] theorem State.updPool_ckpt (s : State) (n : Nat) (f : Pool → Pool) : (s.updPool n f).ckpt = s.ckpt := by
  unfold State.updPool; split <;> rfl
@[simp] theorem State.updPool_mgmt (s : State) (n : Nat) (f : Pool → Pool) : (s.updPool n f).mgmt = s.mgmt := by
  unfold State.updPool; split <;> rfl
@[simp] theorem State.updPool_power (s : State) (n : Nat) (f : Pool → Pool) : (s.updPool n f).power = s.power := by
  unfold State.updPool; split <;> rfl
@[simp] theorem State.updPool_tap (s : State) (n : Nat) (f : Pool → Pool) : (s.updPool n f).tap = s.tap := by
  unfold State.updPool; split <;> rfl
@[simp] theorem State.updPool_out (s : State) (n : Nat) (f : Pool → Pool) : (s.updPool n f).out = s.out := by
  unfold State.updPool; split <;> rfl
@[simp] theorem State.updPool_time (s : State) (n : Nat) (f : Pool → Pool) : (s.updPool n f).time = s.time := by
  unfold State.updPool; split <;> rfl
@[simp] theorem State.updPool_free (s : State) (n : Nat) (f : Pool → Pool) : (s.updPool n f).free = s.free := by
  unfold State.updPool; split <;> rfl

/-! ## The field that an update sets -/

theorem State.setCore_cores (s : State) (c : Nat) (k : Core) : (s.setCore c k).cores = Tab.put s.cores c k := rfl
@[simp] theorem State.updSeason_season (s : State) (f : Season → Season) : (s.updSeason f).season = f s.season := rfl
@[simp] theorem State.updFabric_fabric (s : State) (f : Fabric → Fabric) : (s.updFabric f).fabric = f s.fabric := rfl
@[simp] theorem State.updMgmt_mgmt (s : State) (f : Mgmt → Mgmt) : (s.updMgmt f).mgmt = f s.mgmt := rfl
@[simp] theorem State.updPower_power (s : State) (f : Power → Power) : (s.updPower f).power = f s.power := rfl
@[simp] theorem State.updFw_fw (s : State) (f : Firmware → Firmware) : (s.updFw f).fw = f s.fw := rfl
@[simp] theorem State.emit_out (s : State) (m : OutMsg) : (s.emit m).out = m :: s.out := rfl

/-! ## Readers of a table that the update leaves alone -/

@[simp] theorem State.setCore_partition (s : State) (c : Nat) (k : Core) (i : Nat) : (s.setCore c k).partition i = s.partition i := rfl
@[simp] theorem State.setCore_steward (s : State) (c : Nat) (k : Core) (i : Nat) : (s.setCore c k).steward i = s.steward i := rfl
@[simp] theorem State.setCore_xdie (s : State) (c : Nat) (k : Core) (i : Nat) : (s.setCore c k).xdie i = s.xdie i := rfl
@[simp] theorem State.setCore_hub (s : State) (c : Nat) (k : Core) (i : Nat) : (s.setCore c k).hub i = s.hub i := rfl
@[simp] theorem State.setCore_stack (s : State) (c : Nat) (k : Core) (i : Nat) : (s.setCore c k).stack i = s.stack i := rfl
@[simp] theorem State.setCore_port (s : State) (c : Nat) (k : Core) (i : Nat) : (s.setCore c k).port i = s.port i := rfl
@[simp] theorem State.setCore_channel (s : State) (c : Nat) (k : Core) (i : Nat) : (s.setCore c k).channel i = s.channel i := rfl

@[simp] theorem State.updCore_partition (s : State) (c : Nat) (f : Core → Core) (i : Nat) : (s.updCore c f).partition i = s.partition i := rfl
@[simp] theorem State.updCore_steward (s : State) (c : Nat) (f : Core → Core) (i : Nat) : (s.updCore c f).steward i = s.steward i := rfl
@[simp] theorem State.updCore_xdie (s : State) (c : Nat) (f : Core → Core) (i : Nat) : (s.updCore c f).xdie i = s.xdie i := rfl
@[simp] theorem State.updCore_hub (s : State) (c : Nat) (f : Core → Core) (i : Nat) : (s.updCore c f).hub i = s.hub i := rfl
@[simp] theorem State.updCore_stack (s : State) (c : Nat) (f : Core → Core) (i : Nat) : (s.updCore c f).stack i = s.stack i := rfl
@[simp] theorem State.updCore_port (s : State) (c : Nat) (f : Core → Core) (i : Nat) : (s.updCore c f).port i = s.port i := rfl
@[simp] theorem State.updCore_channel (s : State) (c : Nat) (f : Core → Core) (i : Nat) : (s.updCore c f).channel i = s.channel i := rfl

@[simp] theorem State.setPartition_core (s : State) (p : Nat) (x : Partition) (i : Nat) : (s.setPartition p x).core i = s.core i := rfl
@[simp] theorem State.setPartition_steward (s : State) (p : Nat) (x : Partition) (i : Nat) : (s.setPartition p x).steward i = s.steward i := rfl
@[simp] theorem State.setPartition_xdie (s : State) (p : Nat) (x : Partition) (i : Nat) : (s.setPartition p x).xdie i = s.xdie i := rfl
@[simp] theorem State.setPartition_hub (s : State) (p : Nat) (x : Partition) (i : Nat) : (s.setPartition p x).hub i = s.hub i := rfl
@[simp] theorem State.setPartition_stack (s : State) (p : Nat) (x : Partition) (i : Nat) : (s.setPartition p x).stack i = s.stack i := rfl
@[simp] theorem State.setPartition_port (s : State) (p : Nat) (x : Partition) (i : Nat) : (s.setPartition p x).port i = s.port i := rfl
@[simp] theorem State.setPartition_channel (s : State) (p : Nat) (x : Partition) (i : Nat) : (s.setPartition p x).channel i = s.channel i := rfl

@[simp] theorem State.updPartition_core (s : State) (p : Nat) (f : Partition → Partition) (i : Nat) : (s.updPartition p f).core i = s.core i := rfl
@[simp] theorem State.updPartition_steward (s : State) (p : Nat) (f : Partition → Partition) (i : Nat) : (s.updPartition p f).steward i = s.steward i := rfl
@[simp] theorem State.updPartition_xdie (s : State) (p : Nat) (f : Partition → Partition) (i : Nat) : (s.updPartition p f).xdie i = s.xdie i := rfl
@[simp] theorem State.updPartition_hub (s : State) (p : Nat) (f : Partition → Partition) (i : Nat) : (s.updPartition p f).hub i = s.hub i := rfl
@[simp] theorem State.updPartition_stack (s : State) (p : Nat) (f : Partition → Partition) (i : Nat) : (s.updPartition p f).stack i = s.stack i := rfl
@[simp] theorem State.updPartition_port (s : State) (p : Nat) (f : Partition → Partition) (i : Nat) : (s.updPartition p f).port i = s.port i := rfl
@[simp] theorem State.updPartition_channel (s : State) (p : Nat) (f : Partition → Partition) (i : Nat) : (s.updPartition p f).channel i = s.channel i := rfl

@[simp] theorem State.updSteward_core (s : State) (k : Nat) (f : Steward → Steward) (i : Nat) : (s.updSteward k f).core i = s.core i := rfl
@[simp] theorem State.updSteward_partition (s : State) (k : Nat) (f : Steward → Steward) (i : Nat) : (s.updSteward k f).partition i = s.partition i := rfl
@[simp] theorem State.updSteward_xdie (s : State) (k : Nat) (f : Steward → Steward) (i : Nat) : (s.updSteward k f).xdie i = s.xdie i := rfl
@[simp] theorem State.updSteward_hub (s : State) (k : Nat) (f : Steward → Steward) (i : Nat) : (s.updSteward k f).hub i = s.hub i := rfl
@[simp] theorem State.updSteward_stack (s : State) (k : Nat) (f : Steward → Steward) (i : Nat) : (s.updSteward k f).stack i = s.stack i := rfl
@[simp] theorem State.updSteward_port (s : State) (k : Nat) (f : Steward → Steward) (i : Nat) : (s.updSteward k f).port i = s.port i := rfl
@[simp] theorem State.updSteward_channel (s : State) (k : Nat) (f : Steward → Steward) (i : Nat) : (s.updSteward k f).channel i = s.channel i := rfl

@[simp] theorem State.updXdie_core (s : State) (x : Nat) (f : XDieState → XDieState) (i : Nat) : (s.updXdie x f).core i = s.core i := rfl
@[simp] theorem State.updXdie_partition (s : State) (x : Nat) (f : XDieState → XDieState) (i : Nat) : (s.updXdie x f).partition i = s.partition i := rfl
@[simp] theorem State.updXdie_steward (s : State) (x : Nat) (f : XDieState → XDieState) (i : Nat) : (s.updXdie x f).steward i = s.steward i := rfl
@[simp] theorem State.updXdie_hub (s : State) (x : Nat) (f : XDieState → XDieState) (i : Nat) : (s.updXdie x f).hub i = s.hub i := rfl
@[simp] theorem State.updXdie_stack (s : State) (x : Nat) (f : XDieState → XDieState) (i : Nat) : (s.updXdie x f).stack i = s.stack i := rfl
@[simp] theorem State.updXdie_port (s : State) (x : Nat) (f : XDieState → XDieState) (i : Nat) : (s.updXdie x f).port i = s.port i := rfl
@[simp] theorem State.updXdie_channel (s : State) (x : Nat) (f : XDieState → XDieState) (i : Nat) : (s.updXdie x f).channel i = s.channel i := rfl

@[simp] theorem State.updHub_core (s : State) (m : Nat) (f : HubState → HubState) (i : Nat) : (s.updHub m f).core i = s.core i := rfl
@[simp] theorem State.updHub_partition (s : State) (m : Nat) (f : HubState → HubState) (i : Nat) : (s.updHub m f).partition i = s.partition i := rfl
@[simp] theorem State.updHub_steward (s : State) (m : Nat) (f : HubState → HubState) (i : Nat) : (s.updHub m f).steward i = s.steward i := rfl
@[simp] theorem State.updHub_xdie (s : State) (m : Nat) (f : HubState → HubState) (i : Nat) : (s.updHub m f).xdie i = s.xdie i := rfl
@[simp] theorem State.updHub_stack (s : State) (m : Nat) (f : HubState → HubState) (i : Nat) : (s.updHub m f).stack i = s.stack i := rfl
@[simp] theorem State.updHub_port (s : State) (m : Nat) (f : HubState → HubState) (i : Nat) : (s.updHub m f).port i = s.port i := rfl
@[simp] theorem State.updHub_channel (s : State) (m : Nat) (f : HubState → HubState) (i : Nat) : (s.updHub m f).channel i = s.channel i := rfl

@[simp] theorem State.updStack_core (s : State) (i : Nat) (f : StackState → StackState) (j : Nat) : (s.updStack i f).core j = s.core j := rfl
@[simp] theorem State.updStack_partition (s : State) (i : Nat) (f : StackState → StackState) (j : Nat) : (s.updStack i f).partition j = s.partition j := rfl
@[simp] theorem State.updStack_steward (s : State) (i : Nat) (f : StackState → StackState) (j : Nat) : (s.updStack i f).steward j = s.steward j := rfl
@[simp] theorem State.updStack_xdie (s : State) (i : Nat) (f : StackState → StackState) (j : Nat) : (s.updStack i f).xdie j = s.xdie j := rfl
@[simp] theorem State.updStack_hub (s : State) (i : Nat) (f : StackState → StackState) (j : Nat) : (s.updStack i f).hub j = s.hub j := rfl
@[simp] theorem State.updStack_port (s : State) (i : Nat) (f : StackState → StackState) (j : Nat) : (s.updStack i f).port j = s.port j := rfl
@[simp] theorem State.updStack_channel (s : State) (i : Nat) (f : StackState → StackState) (j : Nat) : (s.updStack i f).channel j = s.channel j := rfl

@[simp] theorem State.updPort_core (s : State) (n : Nat) (f : Port → Port) (i : Nat) : (s.updPort n f).core i = s.core i := rfl
@[simp] theorem State.updPort_partition (s : State) (n : Nat) (f : Port → Port) (i : Nat) : (s.updPort n f).partition i = s.partition i := rfl
@[simp] theorem State.updPort_steward (s : State) (n : Nat) (f : Port → Port) (i : Nat) : (s.updPort n f).steward i = s.steward i := rfl
@[simp] theorem State.updPort_xdie (s : State) (n : Nat) (f : Port → Port) (i : Nat) : (s.updPort n f).xdie i = s.xdie i := rfl
@[simp] theorem State.updPort_hub (s : State) (n : Nat) (f : Port → Port) (i : Nat) : (s.updPort n f).hub i = s.hub i := rfl
@[simp] theorem State.updPort_stack (s : State) (n : Nat) (f : Port → Port) (i : Nat) : (s.updPort n f).stack i = s.stack i := rfl
@[simp] theorem State.updPort_channel (s : State) (n : Nat) (f : Port → Port) (i : Nat) : (s.updPort n f).channel i = s.channel i := rfl

@[simp] theorem State.updChannel_core (s : State) (n : Nat) (f : Channel → Channel) (i : Nat) : (s.updChannel n f).core i = s.core i := rfl
@[simp] theorem State.updChannel_partition (s : State) (n : Nat) (f : Channel → Channel) (i : Nat) : (s.updChannel n f).partition i = s.partition i := rfl
@[simp] theorem State.updChannel_steward (s : State) (n : Nat) (f : Channel → Channel) (i : Nat) : (s.updChannel n f).steward i = s.steward i := rfl
@[simp] theorem State.updChannel_xdie (s : State) (n : Nat) (f : Channel → Channel) (i : Nat) : (s.updChannel n f).xdie i = s.xdie i := rfl
@[simp] theorem State.updChannel_hub (s : State) (n : Nat) (f : Channel → Channel) (i : Nat) : (s.updChannel n f).hub i = s.hub i := rfl
@[simp] theorem State.updChannel_stack (s : State) (n : Nat) (f : Channel → Channel) (i : Nat) : (s.updChannel n f).stack i = s.stack i := rfl
@[simp] theorem State.updChannel_port (s : State) (n : Nat) (f : Channel → Channel) (i : Nat) : (s.updChannel n f).port i = s.port i := rfl

@[simp] theorem State.updSeason_core (s : State) (f : Season → Season) (i : Nat) : (s.updSeason f).core i = s.core i := rfl
@[simp] theorem State.updSeason_partition (s : State) (f : Season → Season) (i : Nat) : (s.updSeason f).partition i = s.partition i := rfl
@[simp] theorem State.updSeason_steward (s : State) (f : Season → Season) (i : Nat) : (s.updSeason f).steward i = s.steward i := rfl
@[simp] theorem State.updSeason_xdie (s : State) (f : Season → Season) (i : Nat) : (s.updSeason f).xdie i = s.xdie i := rfl
@[simp] theorem State.updSeason_hub (s : State) (f : Season → Season) (i : Nat) : (s.updSeason f).hub i = s.hub i := rfl
@[simp] theorem State.updSeason_stack (s : State) (f : Season → Season) (i : Nat) : (s.updSeason f).stack i = s.stack i := rfl
@[simp] theorem State.updSeason_port (s : State) (f : Season → Season) (i : Nat) : (s.updSeason f).port i = s.port i := rfl
@[simp] theorem State.updSeason_channel (s : State) (f : Season → Season) (i : Nat) : (s.updSeason f).channel i = s.channel i := rfl

@[simp] theorem State.updFabric_core (s : State) (f : Fabric → Fabric) (i : Nat) : (s.updFabric f).core i = s.core i := rfl
@[simp] theorem State.updFabric_partition (s : State) (f : Fabric → Fabric) (i : Nat) : (s.updFabric f).partition i = s.partition i := rfl
@[simp] theorem State.updFabric_steward (s : State) (f : Fabric → Fabric) (i : Nat) : (s.updFabric f).steward i = s.steward i := rfl
@[simp] theorem State.updFabric_xdie (s : State) (f : Fabric → Fabric) (i : Nat) : (s.updFabric f).xdie i = s.xdie i := rfl
@[simp] theorem State.updFabric_hub (s : State) (f : Fabric → Fabric) (i : Nat) : (s.updFabric f).hub i = s.hub i := rfl
@[simp] theorem State.updFabric_stack (s : State) (f : Fabric → Fabric) (i : Nat) : (s.updFabric f).stack i = s.stack i := rfl
@[simp] theorem State.updFabric_port (s : State) (f : Fabric → Fabric) (i : Nat) : (s.updFabric f).port i = s.port i := rfl
@[simp] theorem State.updFabric_channel (s : State) (f : Fabric → Fabric) (i : Nat) : (s.updFabric f).channel i = s.channel i := rfl

@[simp] theorem State.updMgmt_core (s : State) (f : Mgmt → Mgmt) (i : Nat) : (s.updMgmt f).core i = s.core i := rfl
@[simp] theorem State.updMgmt_partition (s : State) (f : Mgmt → Mgmt) (i : Nat) : (s.updMgmt f).partition i = s.partition i := rfl
@[simp] theorem State.updMgmt_steward (s : State) (f : Mgmt → Mgmt) (i : Nat) : (s.updMgmt f).steward i = s.steward i := rfl
@[simp] theorem State.updMgmt_xdie (s : State) (f : Mgmt → Mgmt) (i : Nat) : (s.updMgmt f).xdie i = s.xdie i := rfl
@[simp] theorem State.updMgmt_hub (s : State) (f : Mgmt → Mgmt) (i : Nat) : (s.updMgmt f).hub i = s.hub i := rfl
@[simp] theorem State.updMgmt_stack (s : State) (f : Mgmt → Mgmt) (i : Nat) : (s.updMgmt f).stack i = s.stack i := rfl
@[simp] theorem State.updMgmt_port (s : State) (f : Mgmt → Mgmt) (i : Nat) : (s.updMgmt f).port i = s.port i := rfl
@[simp] theorem State.updMgmt_channel (s : State) (f : Mgmt → Mgmt) (i : Nat) : (s.updMgmt f).channel i = s.channel i := rfl

@[simp] theorem State.updPower_core (s : State) (f : Power → Power) (i : Nat) : (s.updPower f).core i = s.core i := rfl
@[simp] theorem State.updPower_partition (s : State) (f : Power → Power) (i : Nat) : (s.updPower f).partition i = s.partition i := rfl
@[simp] theorem State.updPower_steward (s : State) (f : Power → Power) (i : Nat) : (s.updPower f).steward i = s.steward i := rfl
@[simp] theorem State.updPower_xdie (s : State) (f : Power → Power) (i : Nat) : (s.updPower f).xdie i = s.xdie i := rfl
@[simp] theorem State.updPower_hub (s : State) (f : Power → Power) (i : Nat) : (s.updPower f).hub i = s.hub i := rfl
@[simp] theorem State.updPower_stack (s : State) (f : Power → Power) (i : Nat) : (s.updPower f).stack i = s.stack i := rfl
@[simp] theorem State.updPower_port (s : State) (f : Power → Power) (i : Nat) : (s.updPower f).port i = s.port i := rfl
@[simp] theorem State.updPower_channel (s : State) (f : Power → Power) (i : Nat) : (s.updPower f).channel i = s.channel i := rfl

@[simp] theorem State.updFw_core (s : State) (f : Firmware → Firmware) (i : Nat) : (s.updFw f).core i = s.core i := rfl
@[simp] theorem State.updFw_partition (s : State) (f : Firmware → Firmware) (i : Nat) : (s.updFw f).partition i = s.partition i := rfl
@[simp] theorem State.updFw_steward (s : State) (f : Firmware → Firmware) (i : Nat) : (s.updFw f).steward i = s.steward i := rfl
@[simp] theorem State.updFw_xdie (s : State) (f : Firmware → Firmware) (i : Nat) : (s.updFw f).xdie i = s.xdie i := rfl
@[simp] theorem State.updFw_hub (s : State) (f : Firmware → Firmware) (i : Nat) : (s.updFw f).hub i = s.hub i := rfl
@[simp] theorem State.updFw_stack (s : State) (f : Firmware → Firmware) (i : Nat) : (s.updFw f).stack i = s.stack i := rfl
@[simp] theorem State.updFw_port (s : State) (f : Firmware → Firmware) (i : Nat) : (s.updFw f).port i = s.port i := rfl
@[simp] theorem State.updFw_channel (s : State) (f : Firmware → Firmware) (i : Nat) : (s.updFw f).channel i = s.channel i := rfl

@[simp] theorem State.emit_core (s : State) (m : OutMsg) (i : Nat) : (s.emit m).core i = s.core i := rfl
@[simp] theorem State.emit_partition (s : State) (m : OutMsg) (i : Nat) : (s.emit m).partition i = s.partition i := rfl
@[simp] theorem State.emit_steward (s : State) (m : OutMsg) (i : Nat) : (s.emit m).steward i = s.steward i := rfl
@[simp] theorem State.emit_xdie (s : State) (m : OutMsg) (i : Nat) : (s.emit m).xdie i = s.xdie i := rfl
@[simp] theorem State.emit_hub (s : State) (m : OutMsg) (i : Nat) : (s.emit m).hub i = s.hub i := rfl
@[simp] theorem State.emit_stack (s : State) (m : OutMsg) (i : Nat) : (s.emit m).stack i = s.stack i := rfl
@[simp] theorem State.emit_port (s : State) (m : OutMsg) (i : Nat) : (s.emit m).port i = s.port i := rfl
@[simp] theorem State.emit_channel (s : State) (m : OutMsg) (i : Nat) : (s.emit m).channel i = s.channel i := rfl

/-! ## Readers of the table that the update sets -/

@[simp] theorem State.updCore_core_self (s : State) (c : Nat) (f : Core → Core) : (s.updCore c f).core c = f (s.core c) := by
  simp [State.updCore, State.core, State.setCore]
theorem State.updCore_core_ne (s : State) (c : Nat) (f : Core → Core) (j : Nat) (h : j ≠ c) : (s.updCore c f).core j = s.core j := by
  simp [State.updCore, State.core, State.setCore, Tab.get_put_ne _ _ _ _ _ h]
@[simp] theorem State.updPartition_partition_self (s : State) (p : Nat) (f : Partition → Partition) : (s.updPartition p f).partition p = f (s.partition p) := by
  simp [State.updPartition, State.partition, State.setPartition]
theorem State.updPartition_partition_ne (s : State) (p : Nat) (f : Partition → Partition) (j : Nat) (h : j ≠ p) : (s.updPartition p f).partition j = s.partition j := by
  simp [State.updPartition, State.partition, State.setPartition, Tab.get_put_ne _ _ _ _ _ h]
@[simp] theorem State.updSteward_steward_self (s : State) (k : Nat) (f : Steward → Steward) : (s.updSteward k f).steward k = f (s.steward k) := by
  simp [State.updSteward, State.steward]
theorem State.updSteward_steward_ne (s : State) (k : Nat) (f : Steward → Steward) (j : Nat) (h : j ≠ k) : (s.updSteward k f).steward j = s.steward j := by
  simp [State.updSteward, State.steward, Tab.get_put_ne _ _ _ _ _ h]
@[simp] theorem State.updXdie_xdie_self (s : State) (x : Nat) (f : XDieState → XDieState) : (s.updXdie x f).xdie x = f (s.xdie x) := by
  simp [State.updXdie, State.xdie]
theorem State.updXdie_xdie_ne (s : State) (x : Nat) (f : XDieState → XDieState) (j : Nat) (h : j ≠ x) : (s.updXdie x f).xdie j = s.xdie j := by
  simp [State.updXdie, State.xdie, Tab.get_put_ne _ _ _ _ _ h]
@[simp] theorem State.updHub_hub_self (s : State) (m : Nat) (f : HubState → HubState) : (s.updHub m f).hub m = f (s.hub m) := by
  simp [State.updHub, State.hub]
theorem State.updHub_hub_ne (s : State) (m : Nat) (f : HubState → HubState) (j : Nat) (h : j ≠ m) : (s.updHub m f).hub j = s.hub j := by
  simp [State.updHub, State.hub, Tab.get_put_ne _ _ _ _ _ h]
@[simp] theorem State.updStack_stack_self (s : State) (i : Nat) (f : StackState → StackState) : (s.updStack i f).stack i = f (s.stack i) := by
  simp [State.updStack, State.stack]
theorem State.updStack_stack_ne (s : State) (i : Nat) (f : StackState → StackState) (j : Nat) (h : j ≠ i) : (s.updStack i f).stack j = s.stack j := by
  simp [State.updStack, State.stack, Tab.get_put_ne _ _ _ _ _ h]
@[simp] theorem State.updPort_port_self (s : State) (n : Nat) (f : Port → Port) : (s.updPort n f).port n = f (s.port n) := by
  simp [State.updPort, State.port]
theorem State.updPort_port_ne (s : State) (n : Nat) (f : Port → Port) (j : Nat) (h : j ≠ n) : (s.updPort n f).port j = s.port j := by
  simp [State.updPort, State.port, Tab.get_put_ne _ _ _ _ _ h]
@[simp] theorem State.updChannel_channel_self (s : State) (n : Nat) (f : Channel → Channel) : (s.updChannel n f).channel n = f (s.channel n) := by
  simp [State.updChannel, State.channel]
theorem State.updChannel_channel_ne (s : State) (n : Nat) (f : Channel → Channel) (j : Nat) (h : j ≠ n) : (s.updChannel n f).channel j = s.channel j := by
  simp [State.updChannel, State.channel, Tab.get_put_ne _ _ _ _ _ h]
@[simp] theorem State.setCore_core_self (s : State) (c : Nat) (k : Core) : (s.setCore c k).core c = k := by
  simp [State.setCore, State.core]
theorem State.setCore_core_ne (s : State) (c : Nat) (k : Core) (j : Nat) (h : j ≠ c) : (s.setCore c k).core j = s.core j := by
  simp [State.setCore, State.core, Tab.get_put_ne _ _ _ _ _ h]
@[simp] theorem State.setPartition_partition_self (s : State) (p : Nat) (x : Partition) :
    (s.setPartition p x).partition p = x := by
  simp [State.setPartition, State.partition]

/-! ## Two updates of one entry -/

theorem State.updCore_updCore (s : State) (c : Nat) (f : Core → Core) (g : Core → Core) :
    (s.updCore c f).updCore c g = s.updCore c fun x => g (f x) := by
  simp [State.updCore, State.setCore, State.core]
theorem State.updPartition_updPartition (s : State) (p : Nat) (f : Partition → Partition) (g : Partition → Partition) :
    (s.updPartition p f).updPartition p g = s.updPartition p fun x => g (f x) := by
  simp [State.updPartition, State.setPartition, State.partition]
theorem State.updSteward_updSteward (s : State) (k : Nat) (f : Steward → Steward) (g : Steward → Steward) :
    (s.updSteward k f).updSteward k g = s.updSteward k fun x => g (f x) := by
  simp [State.updSteward, State.steward]
theorem State.updXdie_updXdie (s : State) (x : Nat) (f : XDieState → XDieState) (g : XDieState → XDieState) :
    (s.updXdie x f).updXdie x g = s.updXdie x fun x => g (f x) := by
  simp [State.updXdie, State.xdie]
theorem State.updHub_updHub (s : State) (m : Nat) (f : HubState → HubState) (g : HubState → HubState) :
    (s.updHub m f).updHub m g = s.updHub m fun x => g (f x) := by
  simp [State.updHub, State.hub]
theorem State.updStack_updStack (s : State) (i : Nat) (f : StackState → StackState) (g : StackState → StackState) :
    (s.updStack i f).updStack i g = s.updStack i fun x => g (f x) := by
  simp [State.updStack, State.stack]
theorem State.updPort_updPort (s : State) (n : Nat) (f : Port → Port) (g : Port → Port) :
    (s.updPort n f).updPort n g = s.updPort n fun x => g (f x) := by
  simp [State.updPort, State.port]
theorem State.updChannel_updChannel (s : State) (n : Nat) (f : Channel → Channel) (g : Channel → Channel) :
    (s.updChannel n f).updChannel n g = s.updChannel n fun x => g (f x) := by
  simp [State.updChannel, State.channel]

end Sys2Proof.Machine
end

