-- ==== Sys2Proof/Tests/Slice0.lean ====
section
/-! SUPPORT. Tests: the checks of well-formedness, single commands on small states, and a witness for the hypotheses of
each statement. Expected values are the manual's, by hand. -/

namespace Sys2Proof.Tests

open Sys2Proof Sys2Proof.Machine

set_option Elab.async false

/-! ## Small states -/

/-- A package in SERVICE at count 5,000,000, with one Steady partition, number 1, that owns core block 0, steward core 0
and the 3 GiB at local address 0. -/
def partOne : Partition := { Partition.absent with
  state := .active, job := 7, home := 1, stewards := [0], regions := [0], ring := { Ring.empty with log2 := 4 } }
def svc : State := { State.reset with
  regions := [(0, ⟨0, 1, false, 0, some 1⟩)]
  selfId := some 0
  dieOk := BitVec.allOnes 40
  season := { Season.reset with running := true, k0 := 5000000 }
  partitions := [(0, { Partition.absent with state := .active }), (1, partOne)]
  stewards := [(0, { Steward.unassigned with part := some 1, running := true })]
  channels := [(0, { Channel.closed with open_ := true, noPasid := true })]
  fw := { Firmware.reset with up := true, loaded := true }
  mgmt := { Mgmt.reset with
    state := .service, standby := true, pwrok := true, coldRst := true, mainRails := true, hbmRails := true }
  power := { Power.reset with started := true }
  time := 9000000000 }

/-- The same package with changes to core 0, to partition 1 and to port 0. -/
def svcCore (f : Core → Core) : State := svc.updCore 0 f
def svcPart (f : Partition → Partition) : State := svc.updPartition 1 f
def svcPort (n : Nat) (f : Port → Port) : State := svc.updPort n fun p => f { p with enable := true, state := .up }

/-- An access that answers, and the condition that a statement puts on its answer. -/
def okAnd {ε α σ : Type} (p : Except ε α × σ) (c : α → σ → Bool) : Bool := match p.1 with
  | .ok a => c a p.2
  | .error _ => false
theorem okAnd_spec {ε α σ : Type} {p : Except ε α × σ} {c : α → σ → Bool} (h : okAnd p c = true) :
    ∃ a t, p = (.ok a, t) ∧ c a t = true := by
  obtain ⟨e, t⟩ := p
  cases e with
  | error _ => simp [okAnd] at h
  | ok a => exact ⟨a, t, rfl, h⟩

/-! ## Well-formed commands: for each check an ill-formed command that it refuses, and one that passes -/

def pktRead : Pkt := { op := 1, dst := 0, src := 3, srcUnit := 0, reqId := 9, job := 7, length := 8, addr := 0x1000 }
def treeUp : TreePkt := { op := 0x40, dst := 0, src := 3, srcUnit := 0, reqId := 9, job := 7, addr := 0, digest := 1, equinox := 4, group := 2, tree := 0, length := 2 }

theorem test_wf_packet_length : (Instr.write { pktRead with op := 2 } [1, 2]).wellFormed = false ∧
    (Instr.write { pktRead with op := 2, length := 2 } [1, 2]).wellFormed = true ∧
    (Instr.countPacket 0 { pktRead with length := 513 } (List.replicate 513 0)).wellFormed = false := by decide +kernel
theorem test_wf_tree_packet : (Instr.collUp { treeUp with empty := true } [1, 2]).wellFormed = false ∧
    (Instr.collUp treeUp [1, 2]).wellFormed = true ∧ (Instr.collDown treeUp [1]).wellFormed = false := by decide
theorem test_wf_one_block : (Instr.hbmWrite .host 62 [1, 2, 3] {}).wellFormed = false ∧
    (Instr.hbmWrite .host 62 [1, 2] {}).wellFormed = true ∧ (Instr.hbmWrite .host 62 [] {}).wellFormed = false := by decide
theorem test_wf_upset : (Instr.hbmRead .host 0 { symbols := [(65, 1)] }).wellFormed = false ∧
    (Instr.hbmRead .host 0 { symbols := [(3, 1), (3, 2)] }).wellFormed = false ∧
    (Instr.patrolScrub 0 { sramWord := 8 }).wellFormed = false ∧
    (Instr.hbmRead .host 0 { symbols := [(3, 1)] }).wellFormed = true := by decide
theorem test_wf_access : (Instr.windowAccess .host 0 0 none).wellFormed = false ∧
    (Instr.windowAccess .host 0 2 (some [1])).wellFormed = false ∧
    (Instr.hostWindowAccess 0 513 none).wellFormed = false ∧ (Instr.windowAccess .host 0 2 none).wellFormed = true := by
  decide
theorem test_wf_blocks : (Instr.create (some [])).wellFormed = false ∧ (Instr.routeLoad (some [])).wellFormed = false ∧
    (Instr.seedLoad (some [])).wellFormed = false ∧ (Instr.channelFetch 0 ⟨some [], false⟩).wellFormed = false ∧
    (Instr.create none).wellFormed = true := by decide
theorem test_wf_training : (Instr.portTrainingDone 0 true true ⟨false, 0, [], 0⟩).wellFormed = false ∧
    (Instr.portTrainingDone 0 true true ⟨false, 0, List.replicate 4 (0, 0), 0⟩).wellFormed = true := by decide +kernel
theorem test_wf_dies_and_locks : (Instr.dieFailed ⟨[], []⟩).wellFormed = false ∧ (Instr.dieFailed ⟨[3], []⟩).wellFormed = true ∧
    (Instr.dieFailed ⟨[], [.bridge 2]⟩).wellFormed = true ∧
    (Instr.lockAcquire .bmc 0).wellFormed = false ∧ (Instr.lockAcquire .host 0).wellFormed = true ∧
    (Instr.countSync (List.replicate 65537 (.core 0, 0))).wellFormed = false := by decide +kernel

/-! ## The step -/

theorem test_step_idle : (match step svc with
    | .next t => (t.season.k0, t.time)
    | _ => (0, 0)) = (5000001, 9000000001) := by decide +kernel
theorem test_front_word : decodeTableWord 8 0x01 = none ∧ (svc.withFetchWord 8 0x01).pending = [] := by decide +kernel

/-! ## Witnesses: each hypothesis of a statement is met by a concrete state -/

theorem witness_idleStep : svc.pending = [] ∧ svc.ticks = true ∧ svc.season.slew = 0 ∧ State.reset.pending = [] ∧
    State.reset.moves = false := by decide +kernel
theorem witness_everyStepKeepsMemory : ∃ t, Memory.wf svc.mem = true ∧ step svc = .next t :=
  ⟨_, by decide +kernel, rfl⟩
theorem witness_everyCommand : ∃ t, exec .idcode svc = .next t := ⟨_, rfl⟩

/-- Core 0 runs at the start of partition 1's memory, with the words of one 64-byte line in its instruction cache. -/
def running (w : Nat) : State := svcCore fun k => { k with
  phase := .running, ctx := some 1, icache := [⟨0, leBytes 32 w⟩] }
/-- A word of one slot: slot `i` at bit `sh` with bits `b`. -/
def oneSlot (i sh b : Nat) : Nat := 2 ^ i + b * 2 ^ sh

/-- ADDI s5, s0, …: operation 0x11 in the S slot, RD 5. -/
def wordAdd : Nat := oneSlot 0 16 (0x11 * 2 ^ 40 + 5 * 2 ^ 35)
/-- Core 0 of `s` issues `w`, and the state after the fetch meets a condition. -/
def issues (s : State) (w : Nat) (f : State → Bool) : Bool :=
  ((s.core 0).phase = .running) && ((s.core 0).preempt = .live) && ((s.core 0).stopRegs = []) &&
  (s.core 0).tail.isNone &&
  okAnd (s.fetchWord 0) (fun v t => v = w && !t.wordWaits 0 w && f t) && !wMv w
theorem canIssue_of {s : State} {w : Nat} {f : State → Bool} (h : issues s w f = true) :
    ∃ s1, s.canIssue 0 w s1 ∧ f s1 = true := by
  simp only [issues, Bool.and_eq_true, decide_eq_true_eq, Option.isNone_iff_eq_none] at h
  obtain ⟨⟨⟨⟨⟨h1, h2⟩, h3⟩, h0⟩, h4⟩, h5⟩ := h
  obtain ⟨v, t, h6, h7⟩ := okAnd_spec h4
  simp only [Bool.and_eq_true, decide_eq_true_eq, Bool.not_eq_true'] at h7 h5
  exact ⟨t, ⟨h1, h2, h3, h0, h7.1.1 ▸ h6, h7.1.2, h5⟩, h7.2⟩
/-- The word holds slot `i` alone, which executes. -/
def sole (w i : Nat) (s : State) : Bool :=
  ((List.range 5).all fun j => wValid w j == (j == i)) && !wStop w && (s.core 0).executes w i
theorem sole_spec {w i : Nat} {s : State} (h : sole w i s = true) : (s.core 0).soleSlot w i := by
  simp only [sole, Bool.and_eq_true, List.all_eq_true, List.mem_range, beq_iff_eq, Bool.not_eq_true'] at h
  refine ⟨fun j hj => ?_, h.1.2, h.2⟩
  rw [h.1.1 j hj]
  simp
/-- A state issues a word of one slot, and meets a further condition. -/
theorem issuesSole {s : State} {w i : Nat} {f : State → Bool} (h : issues s w (fun t => sole w i t && f t) = true) :
    ∃ s1, s.canIssue 0 w s1 ∧ (s1.core 0).soleSlot w i ∧ f s1 = true := by
  obtain ⟨s1, h1, h2⟩ := canIssue_of h
  simp only [Bool.and_eq_true] at h2
  exact ⟨s1, h1, sole_spec h2.1, h2.2⟩

theorem witness_scalarArithmetic : (∃ s1, (running wordAdd).canIssue 0 wordAdd s1 ∧ (s1.core 0).soleSlot wordAdd 0 ∧ true = true) ∧
    sListed (sOp (slotOf wordAdd 0)) = true ∧ sMem (slotOf wordAdd 0) = false ∧ sPset (sOp (slotOf wordAdd 0)) = false :=
  ⟨issuesSole (f := fun _ => true) (by decide +kernel), by decide +kernel⟩
theorem witness_wideWord : ∃ s1, (running wordAdd).canIssue 0 wordAdd s1 ∧
    (((running wordAdd).core 0).runs wordAdd 4 = false ∨ cOp (slotOf wordAdd 4) ≠ 0x19) :=
  (canIssue_of (f := fun _ => true) (by decide +kernel)).imp fun _ h => ⟨h.1, by decide +kernel⟩

/-- MINIT of one row from scratchpad offset 0 beside a VST to that offset: the D slot waits for the M slot (03 R88). -/
def wordHeld : Nat := oneSlot 2 128 (0x06 * 2 ^ 40 + 2 * 2 ^ 26) + oneSlot 3 176 (0x01 * 2 ^ 40)
def runningHeld : State := (running wordHeld).updCore 0 fun k => k.ws 2 1
theorem witness_heldWord : (runningHeld.core 0).phase = .running ∧ (runningHeld.core 0).tail.isNone ∧
    okAnd (runningHeld.fetchWord 0) (fun v t => v = wordHeld && !t.wordWaits 0 wordHeld &&
      (t.core 0).runs wordHeld 2 && (t.core 0).runs wordHeld 3 &&
      (match (t.updCore 0 fun k => { k with pc := k.pc + 32 }).slots 0 (t.core 0) wordHeld [0, 1, 2] with
        | .ok part => part.tailWaits 0 (t.core 0) wordHeld
        | .error _ => false)) = true := by decide +kernel
/-- The word's tail is held until the M slot has written, and then takes effect. -/
def tailOf (s : State) : State := match exec (.wideWordIssue 0) s with
  | .next t => t
  | _ => s
def tailFree : State := (tailOf runningHeld).updCore 0 fun k => { k with matrix := Machine.Matrix.zero }
def tailRegs (s : State) (t : WordTail) : Core := { s.core 0 with
  s := t.s, v := t.v, p := t.p, fpflags := t.fpflags, status := t.status, dmas := t.dmas, cycle64 := t.cycle64
  pc := (s.core 0).pc - 32 }
theorem witness_heldWordsFinish : ((tailOf runningHeld).core 0).phase = .running ∧ ((tailOf runningHeld).core 0).drains = true ∧
    (match ((tailOf runningHeld).core 0).tail with
      | some t => (tailOf runningHeld).tailWaits 0 (tailRegs (tailOf runningHeld) t) t.word
      | none => false) = true ∧
    (match (tailFree.core 0).tail with
      | some t => !tailFree.tailWaits 0 (tailRegs tailFree t) t.word &&
          (match tailFree.slots 0 (tailRegs tailFree t) t.word [3, 4] with
            | .ok _ => true
            | .error _ => false)
      | none => false) = true := by decide +kernel
theorem test_held_word : (match exec (.wideWordIssue 0) runningHeld with
    | .next t => ((t.core 0).tail.isSome, (t.core 0).matrix.compQ.length, t.mem)
    | _ => (false, 0, [])) = (true, 1, []) := by decide +kernel

/-- ST8 of s5 at s1 + 0, s1 holding the start of the core's own window. -/
def wordStore : Nat := oneSlot 0 16 (0x28 * 2 ^ 40 + 1 * 2 ^ 30 + 5 * 2 ^ 25)
def storing : State := (running wordStore).updCore 0 fun k => (k.ws 1 0x180000000000).ws 5 0xAB
theorem witness_scalarStore : (storing.core 0).phase = .running ∧
    okAnd (storing.fetchWord 0) (fun v t => v = wordStore && !t.wordWaits 0 wordStore && Memory.wf t.mem &&
      (((t.core 0).sAddr (slotOf wordStore 0)).toNat % accessSize (sOp (slotOf wordStore 0)) = 0) &&
      ((t.updCore 0 fun k => { k with pc := k.pc + 32 }).addrFault 0 ((t.core 0).sAddr (slotOf wordStore 0)) 1 2).isNone &&
      ((t.updCore 0 fun k => { k with pc := k.pc + 32 }).direct 0 ((t.core 0).sAddr (slotOf wordStore 0)) = some 0) &&
      sole wordStore 0 t) = true := by decide +kernel
theorem test_store_byte : (match exec (.wideWordIssue 0) storing with
    | .next t => (t.mem, (t.core 0).pc)
    | _ => ([], 0)) = ([(0x180000000000, 0xAB)], 32) := by decide +kernel

/-- JMP + 2, JAL + 2, JR s1 and HALT. -/
def wordJmp : Nat := oneSlot 4 224 (0x01 * 2 ^ 26 + 2)
def wordJr : Nat := oneSlot 4 224 (0x03 * 2 ^ 26 + 1 * 2 ^ 21)
theorem witness_branches : (∃ s1, (running wordJmp).canIssue 0 wordJmp s1 ∧ (s1.core 0).soleSlot wordJmp 4 ∧ true = true) ∧
    cOp (slotOf wordJmp 4) = 1 ∧
    (∃ s1, (running wordJr).canIssue 0 wordJr s1 ∧ (s1.core 0).soleSlot wordJr 4 ∧
      decide (((s1.core 0).rs (cRa (slotOf wordJr 4))).toNat % 32 = 0) = true) ∧ cOp (slotOf wordJr 4) = 3 :=
  ⟨issuesSole (f := fun _ => true) (by decide +kernel), by decide +kernel, issuesSole (by decide +kernel), by decide +kernel⟩
theorem test_jmp : (match exec (.wideWordIssue 0) (running wordJmp) with
    | .next t => (t.core 0).pc
    | _ => 0) = 64 := by decide +kernel

/-- A word of no slot, a CMP of the S slot, a lane operation and one that needs a key, a VLD, a DGET of length 0, and the
reads and writes of special registers. -/
def wordPset : Nat := oneSlot 0 16 (0x30 * 2 ^ 40 + 1 * 2 ^ 35)
theorem witness_predicates : (∃ s1, (running 0).canIssue 0 0 s1 ∧ ((List.range 5).all fun i =>
      !(s1.core 0).executes 0 i && !wValid 0 i) = true) ∧
    (∃ s1, (running wordPset).canIssue 0 wordPset s1 ∧ (s1.core 0).soleSlot wordPset 0 ∧ true = true) ∧
    sPset (sOp (slotOf wordPset 0)) = true ∧ sRd (slotOf wordPset 0) % 8 ≠ 0 :=
  ⟨canIssue_of (by decide +kernel), issuesSole (f := fun _ => true) (by decide +kernel), by decide +kernel⟩
def wordLanes : Nat := oneSlot 1 64 (0x01 * 2 ^ 56)
def wordKey : Nat := oneSlot 1 64 (0x38 * 2 ^ 56)
theorem witness_vectorWords : (∃ s1, (running wordLanes).canIssue 0 wordLanes s1 ∧ (s1.core 0).soleSlot wordLanes 1 ∧
      (vSlot (s1.core 0) { s1.core 0 with pc := (s1.core 0).pc + 32 } (slotOf wordLanes 1)).isSome = true) ∧
    vOp (slotOf wordLanes 1) = 1 ∧ vIllegal (slotOf wordLanes 1) = false ∧
    (∃ s1, (running wordKey).canIssue 0 wordKey s1 ∧ (s1.core 0).soleSlot wordKey 1 ∧
      ((vSlot (s1.core 0) { s1.core 0 with pc := (s1.core 0).pc + 32 } (slotOf wordKey 1)).isNone &&
        (s1.landStores 0).coreOwner 0 == some 1) = true) ∧ vIllegal (slotOf wordKey 1) = false :=
  ⟨issuesSole (by decide +kernel), by decide +kernel, by decide +kernel, issuesSole (by decide +kernel), by decide +kernel⟩
def wordD (op : Nat) : Nat := oneSlot 3 176 (op * 2 ^ 40)
def dFits (op : Nat) (t : State) : Bool :=
  let d := { (t.core 0).dmaOf (wordD op) with seq := (t.core 0).nextAccess }
  let u := t.updCore 0 fun k => { k with pc := k.pc + 32 }
  !dIllegal (slotOf (wordD op) 3) && !u.unmarkedFloat 0 (wordD op) d && (u.dmaFault 0 d).isNone && d.len == 0
theorem witness_dataMovement : (∃ s1, (running (wordD 1)).canIssue 0 (wordD 1) s1 ∧ (s1.core 0).soleSlot (wordD 1) 3 ∧
      decide (((s1.core 0).vAddr (slotOf (wordD 1) 3)).toNat = 0) = true) ∧
    (∃ s1, (running (wordD 0x18)).canIssue 0 (wordD 0x18) s1 ∧ (s1.core 0).soleSlot (wordD 0x18) 3 ∧
      okAnd ((s1.updCore 0 fun k => { k with pc := k.pc + 32 }).dadd 0 0 0) (fun _ _ => true) = true) ∧
    (∃ s1, (running (wordD 0x1A)).canIssue 0 (wordD 0x1A) s1 ∧ (s1.core 0).soleSlot (wordD 0x1A) 3 ∧
      okAnd ((s1.updCore 0 fun k => { k with pc := k.pc + 32 }).ddrain 0 0 0) (fun _ _ => true) = true) ∧
    (∃ s1, (running (wordD 8)).canIssue 0 (wordD 8) s1 ∧ (s1.core 0).soleSlot (wordD 8) 3 ∧ dFits 8 s1 = true) :=
  ⟨issuesSole (by decide +kernel), issuesSole (by decide +kernel), issuesSole (by decide +kernel),
    issuesSole (by decide +kernel)⟩
def wordC (op ra imm : Nat) : Nat := oneSlot 4 224 (op * 2 ^ 26 + ra * 2 ^ 21 + imm)
theorem witness_specialRegisters : (∃ s1, (running (wordC 0x28 5 0)).canIssue 0 (wordC 0x28 5 0) s1 ∧
      (s1.core 0).soleSlot (wordC 0x28 5 0) 4 ∧ (!(s1.partition (s1.corePart 0)).calm) = true) ∧
    (∃ s1, (running (wordC 0x29 5 2)).canIssue 0 (wordC 0x29 5 2) s1 ∧ (s1.core 0).soleSlot (wordC 0x29 5 2) 4 ∧ true = true) ∧
    (∃ s1, (running (wordC 0x10 5 0)).canIssue 0 (wordC 0x10 5 0) s1 ∧ (s1.core 0).soleSlot (wordC 0x10 5 0) 4 ∧
      (!(s1.partition (s1.corePart 0)).calm) = true) ∧
    cOp (slotOf (wordC 0x28 5 7) 4) = 0x28 ∧ cImm (slotOf (wordC 0x28 5 7) 4) % 4096 = 7 ∧
    cOp (slotOf (wordC 0x29 5 3) 4) = 0x29 :=
  ⟨issuesSole (by decide +kernel), issuesSole (f := fun _ => true) (by decide +kernel), issuesSole (by decide +kernel),
    by decide +kernel⟩
theorem test_core_id : (match exec (.wideWordIssue 0) ((running (wordC 0x28 5 1))) with
    | .next t => (t.core 0).rs 5
    | _ => 0) = 0x700000001 := by decide +kernel

/-- An unlisted operation code in each slot. -/
def wordBad (i : Nat) : Nat := match i with
  | 0 => oneSlot 0 16 (0x7F * 2 ^ 40)
  | 1 => oneSlot 1 64 (0xFF * 2 ^ 56)
  | 2 => oneSlot 2 128 (0x7F * 2 ^ 40)
  | 3 => oneSlot 3 176 (0x7F * 2 ^ 40)
  | _ => oneSlot 4 224 (0x3F * 2 ^ 26)
def badIn (i : Nat) (t : State) : Bool := sole (wordBad i) i t &&
  slotIllegal (t.core 0).matrix.ahead.stratus i (slotOf (wordBad i) i) && (t.landStores 0).coreOwner 0 == some 1
theorem witness_illegalWord : ∀ i : Fin 5, ∃ s1, (running (wordBad i)).canIssue 0 (wordBad i) s1 ∧ badIn i s1 = true := fun i =>
  canIssue_of (by revert i; decide +kernel)

def matOp (op : Byte) (r : Bool) : MatOp :=
  { seq := 1, op := op, emask := 1, fmt := 1, imm := 0, a := 0, b := 0, c := 0, word := 0, slotBits := 0, running := r
    entries := [], bytes := [], flags := 0 }
def lanes (l c : List MatOp) : State := svcCore fun k => { k with ctx := some 1, matrix := { k.matrix with loadQ := l, compQ := c } }
theorem witness_matrixLanes :
    ((lanes [matOp 2 false] []).core 0).drains = true ∧ ((lanes [matOp 2 false] []).core 0).matrix.loadReady = true ∧
    (match (lanes [matOp 2 false] []).loadResult 0 (matOp 2 false) with
      | .ok _ => true
      | .error _ => false) = true ∧
    ((lanes [] [matOp 1 false]).core 0).matrix.compReady = true ∧ (matOp 1 false).code ≠ 3 ∧ (matOp 5 true).code ≠ 1 ∧
    (match (lanes [] [matOp 1 false]).compResult 0 (matOp 1 false) ((lanes [] [matOp 1 false]).core 0).matrix with
      | .ok _ => true
      | .error _ => false) = true := by decide +kernel

def memOp (store : Bool) (addr : Word) (a : Option Word) : MemOp := ⟨store, addr, 8, false, 4, 0x77, a, false, 0⟩
def dmaOp (op : Byte) (left : Nat) : Dma := ⟨3, op, 0x40, 0, 64, 0, 0, 0, false, [], left, none, none, 9, []⟩
def waitingCore : State := svcCore fun k => { k with
  ctx := some 1, mops := [memOp false 0 (some 9), memOp true 64 (some 0)], dmas := [dmaOp 1 0], mb := [⟨6, 1⟩] }
theorem witness_outstanding :
    ((waitingCore.core 0).mopReady? 0 false).isSome = true ∧ ((waitingCore.core 0).mopReady? 1 true).isSome = true ∧
    (((waitingCore.core 0).dma? 3).map (fun d => (d.left, d.op, d.pieces.isEmpty, d.fault.isNone))) = some (0, 1, true, true) ∧
    (waitingCore.core 0).dmaFirst (dmaOp 1 0) = true ∧ (waitingCore.core 0).mb = [⟨6, 1⟩] ∧ (waitingCore.core 0).drains = true := by decide +kernel

/-- The first 64 bytes of slice 0, which lie in its scratchpad. -/
def slicePad : State := { svc with hubs := [(0, { HubState.zero with mode := 2 })] }
def loadPad (store : Bool) : State :=
  slicePad.updCore 0 fun k => { k with ctx := some 1, mops := [memOp store 0x100000000000 none] }
theorem witness_localAccesses : (loadPad false).place (gLocal 0x100000000000) = .llm 0 0 ∧
    ((loadPad false).core 0).mopReady? 0 false = some (memOp false 0x100000000000 none) ∧
    okAnd (((loadPad false).updCore 0 fun k => k.dropMop 0).readBlock
      ((loadPad false).partition (((loadPad false).updCore 0 fun k => k.dropMop 0).corePart 0)).job
      (gLocal 0x100000000000 / 64 * 64) noUpset) (fun _ _ => true) = true ∧
    okAnd (((loadPad true).updCore 0 fun k => k.dropMop 0).writeMem
      ((loadPad true).partition (((loadPad true).updCore 0 fun k => k.dropMop 0).corePart 0)).job
      (gLocal 0x100000000000) (leBytes 8 0x77)) (fun _ _ => true) = true := by decide +kernel

def launch (eq dl : Nat) : Launch := ⟨1, 0, 0x80, 0x9000, 2, 16, eq, dl, 1000⟩
def launching (p : CorePhase) (pend : Option Launch) (arm : Option (Launch × Option Nat)) (cur : Option Launch) : State :=
  svcCore fun k => { k with ctx := some 1, phase := p, pendingLaunch := pend, armed := arm, cur := cur }
theorem witness_launches :
    ((launching .idle (some (launch 0 9)) none none).core 0).preempt = .live ∧
    ((launching .idle (some (launch 0 9)) none none).core 0).ctx = some (launch 0 9).part ∧
    (launch 5000001 9).equinox > (launching .idle none none none).copyAt (coreIsland 0) ∧
    ((launching .idle none (some (launch 5000000 9, none)) none).core 0).armed = some (launch 5000000 9, none) ∧
    (launch 5000000 9).equinox ≤ (launching .idle none none none).copyAt (coreIsland 0) := by decide +kernel
theorem test_launch_start : (match exec (.launchStart 0) (launching .idle none (some (launch 5000000 9, none)) none) with
    | .next t => ((t.core 0).pc, (t.core 0).rs 1, (t.core 0).rs 2, (t.core 0).rs 3, (t.core 0).rs 4)
    | _ => (0, 0, 0, 0, 1)) = (0x80, 0x9000, 2, 16, 0) := by decide +kernel
def calmLate : State := (launching .idle (some (launch 4998000 9)) none none).updPartition 1 fun x => { x with calm := true }
theorem witness_calmLate : (calmLate.core 0).pendingLaunch = some (launch 4998000 9) ∧
    (calmLate.partition 1).calm = true ∧ (launch 4998000 9).equinox ≠ 0 ∧
    (launch 4998000 9).equinox + (launch 4998000 9).window < calmLate.copyAt (coreIsland 0) := by decide +kernel
theorem witness_deadline : ((launching .running none none (some (launch 0 4))).core 0).cur = some (launch 0 4) ∧
    (launch 0 4).deadline < (launching .running none none (some (launch 0 4))).copyAt (coreIsland 0) ∧
    ((launching .running none none (some (launch 0 4))).wordFault 0 1).isNone := by decide +kernel
theorem witness_kernelCompletion : let s := launching .halting none none (some (launch 0 6000000))
    (s.core 0).phase = .halting ∧ (s.core 0).preempt = .live ∧ (s.core 0).mops = [] ∧ (s.core 0).dmas = [] ∧
    (s.core 0).mb = [] ∧ (s.core 0).matrix.loadQ = [] ∧ (s.core 0).matrix.compQ = [] ∧
    s.copyAt (coreIsland 0) ≤ (launch 0 6000000).deadline := by decide +kernel

theorem witness_dies : svc.operational = true ∧ (([3] : List DieId).map (·.val)).filter (· < 38) ++
    ([.bridge 2] : List ModuleRef).flatMap ModuleRef.dies ≠ [] := by decide +kernel
theorem test_die_failed : (match exec (.dieFailed ⟨[3, 7], []⟩) svc with
    | .next t => (t.mgmt.state, t.mgmt.causeCode, t.mgmt.causeDetail, t.dieFail)
    | _ => (.off, 0, 0, 0)) = (.haltRefused, 0x0B, 3, 0x88) := by decide +kernel
theorem witness_supply : svc.mgmt.state ≠ .off ∧ State.reset.mgmt.state = .off ∧
    ({ svc with power := { svc.power with fastHold := 4 } } : State).power.fastHold ≠ 0 := by decide +kernel
theorem witness_heat : svc.mgmt.standby = true ∧ svc.mgmt.pwrok = true ∧ svc.mgmt.coldRst = true ∧
    svc.mgmt.thermLatch = false ∧ (svc.updMgmt fun m => { m with thermLatch := true }).mgmt.thermLatch = true := by
  decide +kernel
theorem test_thermtrip : (match exec (.thermtrip (.stack 2)) svc with
    | .next t => (t.mgmt.state, t.mgmt.causeCode, t.mgmt.causeDetail, t.mgmt.mainRails)
    | _ => (.off, 0, 0, true)) = (.haltRefused, 0x0E, 0x82, false) := by decide +kernel
def coldAt (step : Nat) : State := svc.updMgmt fun m => { m with state := .coldStart, step := step }
theorem witness_refclk : svc.starting = false ∧ (coldAt 3).starting = true ∧ (coldAt 3).mgmt.state ≠ .off := by
  decide +kernel

def sea (f : Season → Season) : State := svc.updSeason f
theorem witness_seasonInputs :
    (sea fun z => { z with countSync := true }).season.islands = [] ∧ svc.moves = true ∧ svc.ticks = true ∧ IslandRef.no (.core 0) ≠ k0Island ∧
    svc.season.role ≠ 2 ∧ svc.season.refPresent = false ∧ svc.season.timerefOk = false ∧
    (let s := sea fun z => { z with ppsEdges := [1] }
     s.season.ppsEdges = [1] ∧ 1 + 1000002000 < s.time) ∧
    ((svcPort 0 fun p => { p with beacon := { p.beacon with exchanges := 2, delaySum := 64 } }).port 0).beacon.exchanges ≠ 0 := by
  decide +kernel
theorem witness_holdover :
    let s := { svc with partitions := [], season := { svc.season with state := .holdover, holdoverAt := 0, k0 := 2000000000 } }
    s.holdoverOver = true ∧ s.livePartitions = [] := by decide +kernel
theorem witness_beaconIntervals :
    (svcPort 0 id).carries 0 = true ∧ portRole 0 ≠ 2 ∧ ((svcPort 0 id).port 0).beacon.intervalExchange = false ∧
    ((svcPort 0 fun p => { p with beacon := { p.beacon with intervalExchange := true } }).port 0).beacon.intervalExchange = true ∧
    ((svcPort 0 id).port 0).beacon.misses < 3 := by decide +kernel

/-- A flit of a kind, with DFLITS, and the slot that brings a flit of a class. -/
def flitOf (k d : Nat) : Flit := BitVec.ofNat 512 (k + d * 16)
def slot (f : Flit) (cls : Nat) : Slot := ⟨f, checkWord f cls, [], false⟩
theorem slot_class (f : Flit) (cls : Fin 3) : slotClass false (slot f cls.val) = some cls.val := by
  show classOf f (crc32 (flitBytes f) ^^^ classK cls.val) = _
  unfold classOf
  rw [← BitVec.xor_assoc, BitVec.xor_self, BitVec.zero_xor]
  revert cls
  decide
theorem witness_slots : slotClass false (slot (flitOf 0 2) 0) = some 0 ∧ slotClass false (slot 0 1) = some 1 ∧
    slotClass false (slot 0 2) = some 2 ∧ slotClass false ⟨0, 0, [], true⟩ = none :=
  ⟨slot_class _ 0, slot_class _ 1, slot_class _ 2, rfl⟩
theorem witness_receivedFlits : (svcPort 0 id).framed 0 = true ∧ (svcPort 0 id).carries 0 = true ∧
    ((svcPort 0 id).port 0).open_ = none ∧ kindOf (flitOf 0 9) = 0 ∧
    badLinkWord (flitOf 0 9) = true ∧ badLinkWord (flitOf 0 2) = false ∧ dflitsOf (flitOf 0 2) ≠ 0 := by decide +kernel
def openPkt : OpenPkt := ⟨flitOf 0 4, 0, 4, [1], false, none⟩
theorem witness_dataFlits : ((svcPort 0 fun p => { p with open_ := some openPkt }).port 0).open_ = some openPkt ∧
    openPkt.forward = none ∧ openPkt.flits.length + 1 < openPkt.expect := by decide +kernel
theorem test_bad_slot : (match exec (.badSlot 0 ⟨0, 0, [], true⟩) (svcPort 0 id) with
    | .next t => ((t.port 0).crcDiscard, (t.port 0).orphan)
    | _ => (0, 1)) = (1, 0) := by decide +kernel

/-- A DISCOVERY flit of the host, on the host port. -/
def discFlit : Flit := BitVec.ofNat 512 (4 + 2 * 2 ^ 40)
theorem witness_linkFlitsTaken :
    (∀ vc, vc < 8 → countsOf (flitOf 1 0) vc = Tab.get 0 ((svcPort 0 id).port 0).pseqRx vc) ∧
    kindOf (flitOf 1 0) = 1 ∧ badLinkWord (flitOf 1 0) = false ∧ kindOf (flitOf 2 0) = 2 ∧ badLinkWord (flitOf 2 0) = false ∧
    svc.fabric.outQ = [] ∧ (svc.ports.all fun e => e.2.open_.isNone) = true ∧ kindOf (flitOf 3 0) = 3 ∧ ffld (flitOf 3 0) 6 15 15 = 0 ∧ ffld (flitOf 3 0) 33 7 3 = 0 ∧
    ffld (flitOf 3 0) 35 7 2 = 0 ∧ ffld (flitOf 3 0) 36 15 15 = 0 ∧ svc.season.parent = none ∧
    State.reset.selfId = none ∧ kindOf (flitOf 5 0) = 5 ∧ badLinkWord (flitOf 5 0) = false := by decide +kernel
def discovering : State := svcPort 48 fun p => { p with peer := some (peerOf discFlit) }
theorem witness_discovery : kindOf discFlit = 4 ∧ badLinkWord discFlit = false ∧ ffld discFlit 4 15 12 = 0 ∧
    ffld discFlit 4 7 6 = 0 ∧ ffld discFlit 6 14 11 = 0 ∧ discovering.wired 48 (peerOf discFlit) = true ∧
    discovering.samePeer 48 (peerOf discFlit) = true ∧
    ((svc.updPort 48 fun p => { p with state := .discovery }).port 48).state = .discovery ∧
    ((svc.updPort 48 fun p => { p with state := .discovery }).port 48).training = none := by decide +kernel

set_option maxRecDepth 10000 in
/-- What leaves on the lanes is a codeword in which the far end's decoder finds no error. -/
theorem test_line_words : (let f : Flit := BitVec.ofNat 512 (1 + 0xABCDEF * 2 ^ 64)
    (lineWords true [(f, checkWord f 0)] (f, checkWord f 0)).map (rxWord true)) = [some 0] := by decide +kernel
theorem witness_linkFlitsSent : (svcPort 0 id).portBusy 0 = false ∧ (svcPort 0 id).framed 0 = true ∧
    Tab.get 0 ((svcPort 0 fun p => { p with freed := [(2, 3)] }).port 0).freed 2 ≠
      Tab.get 0 ((svcPort 0 fun p => { p with freed := [(2, 3)] }).port 0).freedSent 2 := by decide +kernel
def trainingPort (k : TrainKind) : State := svc.updPort 0 fun p => { p with enable := true, state := .training, training := some k, markersSeen := 3 }
theorem witness_portsTrain : (svcPort 0 id).season.parent ≠ some 0 ∧ svc.moves = true ∧
    ((svc.updPort 0 fun p => { p with enable := true, state := .down }).port 0).state = .down ∧
    ((trainingPort .full).port 0).state = .training ∧ ((trainingPort .full).port 0).markersSeen = 3 ∧
    ((trainingPort .full).port 0).modeOf 0 true false false = false ∧
    ((trainingPort .full).port 0).modeOf 0 true true false = true ∧
    (((trainingPort .full).updPort 0 fun p => { p with markersQuick := 3 }).port 0).markersQuick = 3 ∧ (trainingPort .full).trainedFor 0 2000000000 = true ∧
    (trainingPort .fast).trainedFor 0 10000000 = true ∧
    ({ trainingPort .full with partitions := [] } : State).livePartitions = [] ∧
    ((trainingPort .fast).updMgmt fun m => { m with state := .warmStart }).mgmt.state = .warmStart := by decide +kernel

/-! Monsoon: a step of one token and one expert, K = 1, in BF16 rows of 64, whose group is this package alone. -/
def group0 : Group := ⟨1, 7, 0, 0, [0], 0, 1, 0, (none, none, none), (none, none, none), 0, 0, [0]⟩
def descAt (slotMap : Nat) : Bytes :=
  leBytes 2 5 ++ leBytes 2 0 ++ [1, 0, 0, 0] ++ leBytes 2 1 ++ leBytes 2 0 ++ leBytes 4 1 ++ leBytes 4 1 ++ leBytes 4 0 ++
  leBytes 8 0 ++ leBytes 8 0x1000 ++ leBytes 8 0x2000 ++ leBytes 8 0 ++ leBytes 8 0x3000 ++ leBytes 8 slotMap ++
  leBytes 8 0x8000 ++ leBytes 8 0x9000 ++ zeros 40 ++ leBytes 8 0xA000 ++ leBytes 8 0xB000 ++ leBytes 8 0xC000 ++
  leBytes 8 0 ++ leBytes 4 128 ++ zeros 28
def descBytes : Bytes := descAt 0x4000
def entry (t : EntryType) (arg : Word) : Item :=
  ⟨0, t, false, 0, 6000000, 0, arg, 1000, false, false, false, false, none, 0, 0, 0, 0, 0, 0, none, []⟩
def monState : State := { svcPart fun x => { x with ring := { x.ring with items := [entry .monsoon 0x100] } } with
  mem := memWrite [] 0x100 descBytes, groups := [(0, group0)] }
theorem leNat_blank {l : Bytes} (h : ∀ x ∈ l, x = 0) : leNat l = 0 := by
  induction l with
  | nil => rfl
  | cons x l ih => simp [leNat, h x (by simp), ih fun y hy => h y (by simp [hy])]
theorem blank_slot {l : Bytes} (h : l.all (fun x => x = 0) = true) (k : Nat) :
    (slotEntryOf ((l.drop k).take 32)).valid = false := by
  simp only [List.all_eq_true, decide_eq_true_eq] at h
  have : leNat ((((l.drop k).take 32).drop 0).take 2) = 0 := leNat_blank fun x hx =>
    h x (List.mem_of_mem_drop (List.mem_of_mem_take (List.mem_of_mem_drop (List.mem_of_mem_take hx))))
  simpa [slotEntryOf, field, bit] using congrArg (·.testBit 15) this
/-- The step's slot map in slice 0's scratchpad. -/
def arming : State := { svcPart (fun x => { x with ring := { x.ring with items := [entry .monsoon 0x100000002000] } }) with
  groups := [(0, group0)]
  mem := memWrite [] 0x100000002000 (descAt 0x100000000000), hubs := [(0, { HubState.zero with mode := 2 })] }
theorem witness_monsoonArm : (arming.partition 1).state = .active ∧
    ((arming.partition 1).ring.items.find? fun i => i.type = .monsoon && !i.armed) = some (entry .monsoon 0x100000002000) ∧
    arming.freeStep = some 0 ∧ arming.pairRoom = true ∧
    okAnd (arming.unitRead 1 (xUnit 0 uAdmitter) (gLocal 0x100000002000) 192) (fun bs s1 => s1.stepDescOk bs &&
      !s1.pairKnown (stepDescOf bs).group (stepDescOf bs).step &&
      okAnd (s1.unitRead 1 (xUnit 0 uAdmitter) (loc (stepDescOf bs).slotMap) 8192) (fun map s2 =>
        map.all (fun x => x = 0) && !(s2.partition 1).calm)) = true ∧
    okAnd ({ arming with pairs := [(0, 5, 1)] }.unitRead 1 (xUnit 0 uAdmitter) (gLocal 0x100000002000) 192) (fun bs s1 =>
      s1.pairKnown (stepDescOf bs).group (stepDescOf bs).step) = true := by decide +kernel

/-- The step, with slot 0 hosting expert 0 in pool 0, and changes to it. -/
def pool0 : Pool := ⟨1, 1, 512, 0x100000, 0x200000, 0, [4, 5], 0, 64, 510⟩
def monStep (f : Step → Step) : Step :=
  f (monState.newStep (entry .monsoon 0x100) 1 (stepDescOf descBytes) [(0, ⟨0, true, 0, 1, 0x10000⟩)])
def stepping (f : Step → Step) : State := { monState with steps := [(0, monStep f)], pools := [(8, pool0)] }
def postDma : Dma := { dmaOp 0x10 1 with ga := 0x100, len := 192 }
def posting (s : State) : State := { s.updCore 0 fun k => { k with ctx := some 1, dmas := [postDma] } with
  mem := memWrite s.mem (spBase 0) (leBytes 4 0 ++ leBytes 2 1) }
theorem witness_routerPost : ((posting (stepping id)).core 0).dma? 3 = some postDma ∧ postDma.op = 0x10 ∧
    postDma.left ≠ 0 ∧ postDma.fault = none ∧ ((posting (stepping id)).core 0).drains = true ∧
    ((posting (stepping id)).steps.find? fun e => !e.2.faulted && e.2.part = (posting (stepping id)).corePart 0 &&
      e.2.desc = postDma.ga.toNat) = some (0, monStep id) ∧
    State.postRefused postDma ((posting (stepping id)).post 0 postDma).1 ((posting (stepping id)).post 0 postDma).2
      (monStep id) = false ∧
    okAnd ((posting (stepping id)).writeMem 7 (loc (monStep id).d.routerIn) (zeros 128)) (fun _ _ => true) = true ∧
    State.postRefused postDma 1 1 (monStep id) = true ∧ (posting monState).steps = [] := by decide +kernel

/-- The expert table's entry of expert 0: valid, one replica, capacity 4, slot 0 of this package. -/
def scoring : State := { stepping fun st => { st with arrived := [0] } with
  mem := memWrite monState.mem 0x3000 (leBytes 4 (2 ^ 31 + 1 * 2 ^ 16 + 4)) }
theorem witness_scoring : scoring.step? 0 = some (monStep fun st => { st with arrived := [0] }) ∧
    scoring.mayScore 1 (monStep fun st => { st with arrived := [0] }) = true ∧
    scoring.stageFirst (monStep fun st => { st with arrived := [0] }) (scoring.mayScore 1) = true ∧
    scoring.fcFirst 1 0 0 = false ∧
    okAnd (scoring.tableRead (monStep id) 1) (fun t s1 =>
      okAnd (s1.scoreQuarter { monStep id with entries := [(1, t)] } 1) (fun l s2 =>
        okAnd (s2.checkCands { monStep id with entries := [(1, t)] } 1 l) (fun _ _ => true))) = true := by decide +kernel
theorem top_three {a b c : Nat} (h : scoreLe a b = false) (g : scoreLe a c = true) (k : scoreLe b c = true) :
    topExperts [a, b, c] 1 = [1] := by
  simp [topExperts, List.range, List.range.loop, List.mergeSort, List.MergeSort.Internal.splitInTwo, h, g, k]
/-- Three logits of FP32, the highest second; with a second one that is not finite the row is refused. -/
def threeLogits (b : Nat) : List Nat := [0x3F800000, b, 0xBF800000]
def scoresOf (l : List Nat) : List Nat := l.mapIdx fun e v => (fp32.add v (([] : List Nat).getD e 0)).1
theorem top_logits (b : Nat) (h : scoresOf (threeLogits b) = threeLogits b) (k : scoreLe 0x3F800000 b = false)
    (g : scoreLe b 0xBF800000 = true) : topExperts (scoresOf (threeLogits b)) 1 = [1] := by
  rw [h]; exact top_three k (by decide +kernel) g
theorem selectRow_eq {s : State} {st : Step} {x row : Nat} {bias logits ids : List Nat}
    (h : topExperts (logits.mapIdx fun e l => (fp32.add l (bias.getD e 0)).1) (st.d.k + st.d.spares) = ids) :
    s.selectRow st x bias row logits =
      (let scores := logits.mapIdx fun e l => (fp32.add l (bias.getD e 0)).1
      let l := ids.zip (gatesOf st.d.gate st.d.k (ids.map fun e => logits.getD e 0))
      match l.find? fun e => nonFinite fp32 (logits.getD e.1 0) || nonFinite fp32 (scores.getD e.1 0) ||
          nonFinite bf16 e.2.toNat with
      | some e => .error (s.stepRecord st x uSelector 0x0304 (st.d.tokenBase + row) e.1)
      | none => .ok l) := by subst h; rfl
/-- A row's answer: the candidates if it is accepted, else the fault's code. -/
def answered : Except FaultRec Cands → List Nat × Nat
  | .ok l => (l.map (·.1), 0)
  | .error r => ([], r.code.toNat)
theorem witness_selection : answered (svc.selectRow (monStep id) 1 [] 0 (threeLogits 0x40000000)) = ([1], 0) ∧
    answered (svc.selectRow (monStep id) 1 [] 0 (threeLogits 0x7F800000)) = ([], 0x0304) := by
  rw [selectRow_eq (ids := [1]) (logits := threeLogits 0x40000000) (bias := []) (st := monStep id)
      (top_logits 0x40000000 (by decide +kernel) (by decide +kernel) (by decide +kernel)),
    selectRow_eq (ids := [1]) (logits := threeLogits 0x7F800000) (bias := []) (st := monStep id)
      (top_logits 0x7F800000 (by decide +kernel) (by decide +kernel) (by decide +kernel))]
  decide +kernel
theorem witness_countRound : let s := stepping fun st => { st with scored := [0, 1, 2, 3] }
    (s.step? 0).map (fun st => (st.scored.length, st.countsSent, st.admitted, st.members)) = some (4, false, false, [0]) ∧
    (s.step? 0).map (fun st => s.stageFirst st Step.mayCount) = some true := by decide +kernel

/-- A WRITE of 64 bytes to a port page of X-die 0, in an input buffer. -/
def monWriteTo (lo : Nat) : Pkt := { op := 2, dst := 0, src := 0, srcUnit := 0x1A10, reqId := 4, job := 7, length := 64, addr := BitVec.ofNat 48 lo }
def received (s : State) (k : Pkt) (data : Bytes) : State := s.updFabric fun b => { b with rx := [(56, 0, pktToFlit k, data)] }
def exData (kind : Nat) (digest : Word) : Bytes :=
  leBytes 8 (5 + kind * 2 ^ 30) ++ leBytes 8 digest.toNat ++ leBytes 2 0x0305 ++ zeros 46
def exchanged (kind : Nat) (f : Step → Step) : State :=
  received (stepping f) (monWriteTo (exchangePort 0)) (exData kind (monStep id).digest)
theorem witness_exchange : (exchanged 0 id).operational = true ∧
    ((exchanged 0 id).findRx (monWriteTo (exchangePort 0)) (exData 0 (monStep id).digest)).isSome = true ∧
    (monWriteTo (exchangePort 0)).op = 2 ∧ vcOf 2 0x1A10 = 4 ∧ exchangePort 0 ≤ (monWriteTo (exchangePort 0)).addr.toNat ∧
    ((exchanged 0 id).stepOf 0 5).isSome = true ∧ fld (field (exData 1 0) 0 8) 31 30 = 1 ∧
    (monStep id).countFrom.contains (0, 0, (0 : PkgId)) = false ∧ (monStep id).members.contains 0 = true ∧
    BitVec.ofNat 64 (field (exData 0 (monStep id).digest) 8 8) = (monStep id).digest ∧
    BitVec.ofNat 64 (field (exData 0 1) 8 8) ≠ (monStep id).digest ∧
    (countRecs 0 0 0 (exData 0 (monStep id).digest)).find? (monStep id).countBad = none ∧
    ((exchanged 1 fun st => { st with prefixFrom := [(0, 0, 0)] }).step? 0).map (fun st => st.prefixFrom) =
      some [(0, 0, 0)] ∧ (monStep id).complete = false ∧ fld (field (exData 2 0) 0 8) 31 30 = 2 := by decide +kernel
theorem witness_earlyExchange : let s := received monState (monWriteTo (exchangePort 0)) (exData 0 0)
    (s.findRx (monWriteTo (exchangePort 0)) (exData 0 0)).isSome = true ∧ s.stepOf 0 5 = none ∧ s.pairKnown 0 5 = false ∧
    ({ s with pairs := [(0, 5, 1)] } : State).pairKnown 0 5 = true ∧ (s.xdie 0).early.length < 1024 ∧
    (let full := s.updXdie 0 fun d => { d with early := List.replicate 1024 (monWriteTo 0, [1]) }
     (full.xdie 0).early.length = 1024 ∧ ((full.xdie 0).early.any fun e => e.1.src = (monWriteTo (exchangePort 0)).src &&
       e.1.srcUnit = (monWriteTo (exchangePort 0)).srcUnit && e.2 = exData 0 0) = false ∧
     (full.findRx (monWriteTo (exchangePort 0)) (exData 0 0)).isSome = true) := by decide +kernel

def choice (st : ChoiceState) : Choice := ⟨0, 0, 0, 0x3F80, 0, 0, 0, 4, 0, false, st, false⟩
def dispatching : State := stepping fun st => { st with choices := [choice (.admitted 0)], admitted := true, arrived := [0] }
theorem witness_dispatch : let st := monStep fun st => { st with choices := [choice (.admitted 0)], admitted := true, arrived := [0] }
    dispatching.step? 0 = some st ∧ st.nextChoice 0 (st.d.dieOf 0) = some (choice (.admitted 0)) ∧
    dispatching.stageFirst st (Step.mayDispatch 0) = true ∧
    okAnd (dispatching.unitRead 1 (xUnit 0 uDispatcher) (loc st.d.routerIn) st.d.rowBytes) (fun _ _ => true) = true := by
  decide +kernel

/-- A chunk's head for slot 0, row 0, of the step. -/
def chunkTag : Nat := 5 * 2 ^ 23
def chunkData : Bytes := leBytes 16 chunkTag ++ leBytes 2 0 ++ [0, 0] ++ leBytes 2 0 ++ [1, 0] ++ leBytes 4 32 ++ leBytes 2 0 ++ zeros 34
theorem witness_portWrites :
    let s := received (stepping id) (monWriteTo (dispatchPort 0)) chunkData
    let r := received (stepping id) (monWriteTo (returnPort 0)) chunkData
    (s.findRx (monWriteTo (dispatchPort 0)) chunkData).isSome = true ∧ (chunkHead chunkData).group = 0 ∧
    tagStep (chunkHead chunkData).tag = 5 ∧ (s.stepOf 0 5).isSome = true ∧
    (s.onDispatch 0 0 (monStep id) (chunkHead chunkData)).isSome = true ∧
    (received monState (monWriteTo (dispatchPort 0)) chunkData).stepOf 0 5 = none ∧
    (r.findRx (monWriteTo (returnPort 0)) chunkData).isSome = true ∧
    (r.onReturn 0 0 (monStep id) (chunkHead chunkData)).isNone = true ∧
    (r.onReturn 0 0 { monStep id with complete := true } (chunkHead chunkData)).isSome = true := by decide +kernel

def batched (f : Step → Step) : State := stepping fun st => f { st with
  nFinal := [0], batchN := [(0, 1)], rxRows := [(0, 0)], buffers := [(0, [0x40000])] }
theorem witness_batch : ((batched id).step? 0).map (fun st => (st.nFinal.contains 0, st.batchDone, st.batchRows 0,
      st.rxRows.contains (0, 0), (Tab.get ⟨0, false, 0, 0, 0⟩ st.slots 0).valid)) = some (true, [], 1, true, true) ∧
    okAnd ((batched id).unitWrite 1 (xUnit 0 uReceiver) (loc 0x10000) (zeros 64)) (fun _ _ => true) = true := by
  decide +kernel
def returningState (g : Bytes) (r : Table (Nat × Nat)) : State :=
  let s := batched fun st => { st with batchDone := [0], returns := [(0, (0, 0x50000, 128, 0))], returning := r }
  { s with mem := memWrite s.mem 0x40000 g }
theorem witness_returns : let s := returningState (leBytes 16 chunkTag) [(0, (0, 0))]
    (((returningState [] []).step? 0).map fun st => (st.batchDone.contains 0, Tab.get? st.returning 0)) = some (true, none) ∧
    (s.step? 0).map (fun st => (Tab.get? st.returns 0, Tab.get? st.returning 0, st.batchRows 0)) =
      some (some (0, 0x50000, 128, 0), some (0, 0), 1) ∧
    (s.step? 0).map (fun st => (s.batchRow st 0 0, s.stageFirst st (Step.mayDispatch 0))) = some (some 0x40000, true) ∧
    (s.step? 0).map (fun st => (st.badTag (BitVec.ofNat 128 chunkTag), st.badTag 0)) = some (false, true) ∧
    okAnd (s.unitRead 1 (xUnit 0 uDispatcher) 0x40000 16) (fun bs s1 => bs = leBytes 16 chunkTag &&
      okAnd (s1.unitRead 1 (xUnit 0 uDispatcher) 0x50000 128) (fun _ _ => true)) = true := by decide +kernel
def combining : Step := monStep fun st => { st with
  choices := [choice (.admitted 0)], admitted := true, retRows := [(0, 0)] }
theorem witness_combine : 0 < combining.d.tokens ∧ combining.combined = [] ∧ combining.ready 0 = true ∧
    okAnd (tryList (fun (c : Choice) (s : State) => tryThen (s.unitRead combining.part (xUnit 0 uCombiner) (combining.d.stageAt 0 c.rank)
      (combining.d.width * retSize combining.d.retFmt.toNat)) fun bs s => (.ok (c.gate, bs), s)) (combining.admittedOf 0)
      (stepping fun _ => combining)) (fun l s1 =>
        okAnd (s1.unitWrite 1 (xUnit 0 uCombiner) (combining.d.stageAt 0 0) (combining.combineRow false l)) fun _ _ => true) =
      true ∧ combining.d.status = 0 ∧
    (stepping fun _ => combining).stageFirst combining (Step.mayCombine ((combining.d.tokenBase + 0) % 4)) = true := by
  decide +kernel
def finishedStep : Step := monStep fun st => { st with
  admitted := true, combined := [0], nFinal := [0, 1, 2, 3], returned := [0], batchN := [] }
theorem witness_stepComplete : finishedStep.finished = true ∧ finishedStep.complete = false ∧
    (stepping fun _ => finishedStep).step? 0 = some finishedStep ∧
    (stepping fun _ => finishedStep).xNow 0 ≤ finishedStep.deadline ∧
    okAnd (tryList (fun i (s : State) => tryThen (s.unitRead finishedStep.part (xUnit ((finishedStep.d.tokenBase + i) % 4) uCombiner)
        (finishedStep.d.stageAt i 0) finishedStep.d.outBytes) fun bs s =>
          s.unitWrite finishedStep.part (xUnit ((finishedStep.d.tokenBase + i) % 4) uCombiner) (finishedStep.d.outRow i) bs)
        (List.range finishedStep.d.tokens) (stepping fun _ => { finishedStep with complete := true })) (fun _ _ => true) =
      true ∧ (stepping fun _ => { finishedStep with complete := true }).stageFirst { finishedStep with complete := true }
        (·.complete) = true ∧ ({ svc with pairs := [(0, 5, 3)] } : State).pairs = [(0, 5, 3)] := by decide +kernel

/-! Forecast: a request of two blocks, one in the window, for one row of one head group. -/
def fcBytes (pins : Nat) : Bytes :=
  leBytes 4 2 ++ leBytes 4 64 ++ [64, 1, 1, 1, 1, 1, 2, 0] ++ leBytes 2 pins ++ zeros 2 ++ leBytes 4 64 ++ leBytes 2 1 ++
  zeros 6 ++ leBytes 8 0x1000 ++ leBytes 8 0x2000 ++ leBytes 8 0x3000 ++ leBytes 8 (pins * 0x5000) ++ leBytes 8 0x6000 ++
  leBytes 4 192 ++ zeros 52
def fcState : State := { svcPart fun x => { x with ring := { x.ring with items := [entry .forecast 0x100] } } with
  mem := memWrite [] 0x100 (fcBytes 0) }
theorem witness_forecastArm : (fcState.partition 1).state = .active ∧
    ((fcState.partition 1).ring.items.find? fun i => i.type = .forecast && !i.armed) = some (entry .forecast 0x100) ∧
    ((List.range 16).find? fun i => (Tab.get? fcState.forecasts i).isNone) = some 0 ∧
    okAnd (fcState.unitRead 1 (fcUnit 0) (gLocal 0x100) 128) (fun bs s1 => s1.fcDescOk bs && !(s1.partition 1).calm &&
      s1.lateDie 4998000 1000 = some 0) = true ∧
    okAnd ({ fcState with mem := [] }.unitRead 1 (fcUnit 0) (gLocal 0x100) 128) (fun bs s1 => !s1.fcDescOk bs) = true := by
  decide +kernel
def fcReq (pins : Nat) (phase : Nat) (scored : List (Nat × Nat)) (lists : Nat) : Fc :=
  { part := 1, pos := 0, desc := 0x100, d := fcDescOf (fcBytes pins), equinox := 0, deadline := 6000000, late := none,
    phase := phase, pinList := [], scored := scored, kept := [], hg := 0, lists := lists, seq := 0 }
def forecasting (f : Fc) : State := { fcState with
  forecasts := [(3, f)], mem := memWrite [] 0x1010 (leBytes 8 0x7000 ++ leBytes 2 1) }
theorem witness_forecastStart : let s := forecasting (fcReq 1 1 [] 0)
    s.fc? 3 = some (fcReq 1 1 [] 0) ∧ (fcReq 1 1 [] 0).equinox ≤ s.xNow 0 ∧
    okAnd (s.unitRead 1 (fcUnit 0) (loc 0x5000) 4) (fun bs _ =>
      (badPin 2 ((List.range 1).map fun i => field bs (4 * i) 4)).isNone) = true := by decide +kernel
/-- EQUINOX_REACHED of a step and of a Forecast request, whose EQUINOX an X-die's copy has reached. -/
theorem witness_equinox : (stepping id).step? 0 = some (monStep id) ∧
    (∃ x ∈ (stepping id).xCopies, (monStep id).equinox ≤ x) ∧
    (forecasting (fcReq 0 2 [] 0)).fc? 3 = some (fcReq 0 2 [] 0) ∧
    (∃ x ∈ (forecasting (fcReq 0 2 [] 0)).xCopies, (fcReq 0 2 [] 0).equinox ≤ x) := by decide +kernel
theorem test_equinox : (match exec (.equinoxReached (.step 0)) (stepping id),
      exec (.equinoxReached (.forecast 3)) (forecasting (fcReq 0 2 [] 0)) with
    | .next t, .next u => ((t.item? 1 0).map (·.started), (u.item? 1 0).map (·.started))
    | _, _ => (none, none)) = (some true, some true) := by decide +kernel
theorem witness_forecastSegment : let f := fcReq 0 2 [] 0
    (f.equinox ≤ (forecasting f).xNow 0 ∧ f.todo 0 = [(0, 0)] ∧ (forecasting f).fcFirst 0 f.equinox f.seq = false ∧ (forecasting f).steps = []) ∧
    okAnd ((forecasting f).unitRead f.part (fcUnit 0) (loc f.d.probes) 128) (fun pb s1 =>
      okAnd (tryList (fun b s => s.fcCand 0 f 0 ((List.range f.d.rows).map fun r =>
        fcVals f.d.fmt.toNat ((pb.drop (r * 128)).take 128)) b) (f.cands 0) s1) fun sc _ => sc.length = 1) = true := by
  decide +kernel
theorem witness_forecastList : let f := fcReq 0 2 [(0, 0)] 0
    (f.mayAssemble = true ∧ (∀ e ∈ (forecasting f).forecasts, e.2.mayAssemble = true → f.after e.2 = false) ∧ 0 < f.d.rows ∧ 0 < f.d.hgroups ∧ f.selected 0 0 = [(1, true, false)]) ∧
    okAnd (tryList (fun (e : Nat × Nat × Bool × Bool) (s : State) => s.fcEntry f (loc f.d.out) 0 e.1 e.2)
        [(0, (1, true, false))] (forecasting f)) (fun _ s1 =>
      okAnd (s1.unitWrite f.part (fcUnit 0) (loc f.d.out) (f.header 0 0)) fun _ _ => true) = true := by decide +kernel
theorem witness_forecastComplete : let f := fcReq 0 4 [(0, 0)] 1
    (forecasting f).fc? 3 = some f ∧ f.phase = 4 ∧
    (forecasting f).xNow 0 ≤ f.deadline := by decide +kernel

/-! Buffer pools: pool 0 of partition 1, whose buffer 4 is allocated once. -/
def pooled (f : Pool → Pool) (count : Nat) : State := { svc with
  pools := [(8, f pool0)], mem := memWrite [] (pool0.countAddr 4) (leBytes 2 count) }
def buf4 : Word := (pooled id 1).global (pool0.bufAddr 4)
theorem witness_bpmAlloc : (svcCore fun k => { k with ctx := some 1 }).poolCaller (.core 0) = some 1 ∧
    ((pooled id 0).setBuffer 8 pool0 4 1).1 = true ∧
    Tab.get? (pooled id 1).pools (1 * 8 + 0) = some pool0 ∧ pool0.cache = [4, 5] ∧
    ({ pool0 with cache := [], ringHead := 64 } : Pool).freeCount = 0 ∧ Tab.get? (pooled id 1).pools (1 * 8 + 3) = none := by decide +kernel
theorem witness_bpmCounts : (pooled id 1).poolCaller (.steward 0) = some 1 ∧
    (pooled id 1).bufferAt buf4 = some (8, pool0, 4) ∧ (pooled id 1).bufferAt (buf4 + 1) = none ∧ pool0.owner = 1 ∧
    ((pooled id 1).metaRead 8 pool0 (pool0.countAddr 4) 2).1 = some [1, 0] ∧
    ((pooled id 2).metaRead 8 pool0 (pool0.countAddr 4) 2).1 = some [2, 0] ∧
    ((pooled id 0).metaRead 8 pool0 (pool0.countAddr 4) 2).1 = some [0, 0] ∧
    ((pooled id 1).setBuffer 8 pool0 4 0).1 = true ∧ (pooled id 1).cacheFull 8 = false ∧
    (pooled (fun x => { x with owner := 2 }) 1).poolCaller (.steward 0) = some 1 ∧
    (pooled (fun x => { x with owner := 2 }) 1).bufferAt buf4 = some (8, { pool0 with owner := 2 }, 4) ∧
    ({ pool0 with owner := 2 } : Pool).grant.getLsbD 1 = false := by decide +kernel
theorem witness_bpmRing : pool0.cache.length < 128 ∧ pool0.ringHead < pool0.ringTail ∧
    (okAnd (match (pooled id 1).metaRead 8 pool0 (pool0.ringAddr pool0.ringHead) (4 * min 64 pool0.ringLen) with
      | (some bs, t) => (Except.ok bs, t)
      | (none, t) => (Except.error (), t)) fun _ t => t.pools = (pooled id 1).pools) = true ∧
    448 < ({ pool0 with cache := List.range 449 } : Pool).cache.length ∧
    ((pooled id 1).metaWrite 8 pool0 (pool0.ringAddr pool0.ringTail) (zeros 256)).1 = true := by decide +kernel
theorem test_bpm_alloc_counts : (match exec (.bpmAlloc (.steward 0) 0) (pooled id 1) with
    | .next t => (t.bpm.allocs, ((Tab.get? t.pools 8).map (·.cache)), memRead t.mem (pool0.countAddr 4) 2)
    | _ => (0, none, [])) = (1, some [5], [1, 0]) := by decide +kernel

/-! The hubs: local address 0x40 of region 0. -/
theorem crc_zeros (n : Nat) : crc16 (zeros n) = 0 := by
  induction n with
  | zero => rfl
  | succ n ih => exact ih
theorem witness_detected : ∃ d, checkDetect [(71, 1)] = .bad d := by
  have h : (List.range 64).map (symbolAt [(71, 1)]) = zeros 64 := by decide +kernel
  exact ⟨256, by
    simp only [checkDetect, h, show zeros 64 ++ zeros 6 = zeros 70 from List.replicate_append_replicate, crc_zeros]
    decide +kernel⟩
def held : State := { svc with poison := [2] }
theorem witness_hubReads : svc.place 0x40 = .hbm 0 ⟨0, 1, false, 0, some 1⟩ ∧
    svc.place (0x40 / 64 * 64) = svc.place 0x40 ∧ ((svc.hub (hubOf 0x40)).line? (0x40 / 256)) = none ∧
    Tab.get [] svc.upsets (0x40 / 64) = [] ∧ noUpset.onDie = 0 ∧ noUpset.symbols = [] ∧
    svc.poison.contains 1 = false ∧ held.poison.contains 2 = true ∧
    checkCorrect [(3, 0x55)] = .corrected [(3, 0x55), (3, 0x55)] ∧
    (svcCore fun k => { k with ctx := some 1 }).coreOwner 0 = some 1 := by
  decide +kernel
theorem test_hub_corrects : (match exec (.hbmRead .host 0x40 { symbols := [(3, 0x55)] }) svc with
    | .next t => (t.writebacks.map (·.1), t.baro.eccTotal, t.out.length)
    | _ => ([], 0, 0)) = ([1], 1, 1) := by decide +kernel
theorem witness_hubWrites : svc.place 0x80 = .hbm 0 ⟨0, 1, false, 0, some 1⟩ ∧ (zeros 64).length = 64 ∧
    Memory.wf svc.mem = true ∧ svc.moves = true ∧ svc.stewardBarred .host 0x80 64 = none ∧
    (svc.hub (hubOf 0x80)).line? (0x80 / 256) = none ∧ svc.stewardBarred (.steward 0) 0xC0000000 64 = some 0 := by decide +kernel
theorem test_hub_write : (match exec (.hbmWrite .host 0x80 (List.replicate 64 7) {}) svc with
    | .next t => (memRead t.mem 0x80 64 == List.replicate 64 7, t.out.length)
    | _ => (false, 0)) = (true, 1) := by decide +kernel
theorem test_steward_barred : (match exec (.hbmWrite (.steward 0) 0xC0000000 [1] {}) (svc.updSteward 0 fun w => { w with trapVec := 0x40 }) with
    | .next t => ((t.steward 0).trapCause, (t.steward 0).trapTval, (t.steward 0).pc, t.mem.length)
    | _ => (0, 0, 0, 1)) = (7, 0xC0000000, 0x40, 0) := by decide +kernel
def unregioned : State := ({ svc with regions := [] }).updStack 0 fun x => { x with cap := 0xC8 }
def marked : State := { svc with writebacks := [(1, List.replicate 64 9)], upsets := [(1, [(3, 0x55)])], rowErrors := [(rowKey 2 5 6 7, 16)] }
theorem witness_hubWork : Tab.get? marked.writebacks (0x40 / 64) = some (List.replicate 64 9) ∧ marked.moves = true ∧ marked.dirtyAt 0x40 = false ∧
    (let s := unregioned
     (s.stack (stackOf (hubBlock 0 (s.hub 0).scrubNext))).cap = 0xC8 ∧
     s.regionAt (hubBlock 0 (s.hub 0).scrubNext) = none) ∧
    marked.inService = true ∧ 16 ≤ Tab.get 0 marked.rowErrors (rowKey 2 5 6 7) ∧
    ((marked.updStack 2 fun x => { x with sparesLeft := 3 }).stack 2).sparesLeft ≠ 0 ∧ (svc.updMgmt fun m => { m with state := .quiesced }).mayTest = true ∧
    (let s := { svc with openRows := [(bankKey 2 5 6, (9, 0))] }
     Tab.get? s.openRows (bankKey 2 5 6) = some (9, 0) ∧ 0 + 200 ≤ s.time) ∧
    (let s := svc.updGen 1 2 fun g => { g with busy := true, ctrl := 0x41 }
     (Tab.get TrafficGen.zero (s.hub 1).gens 2).busy = true ∧
     fld (Tab.get TrafficGen.zero (s.hub 1).gens 2).ctrl.toNat 7 6 = 1) ∧
    (let s := svc.updGen 1 2 fun g => { g with busy := true, ctrl := 0x21 }
     (Tab.get TrafficGen.zero (s.hub 1).gens 2).busy = true ∧
     fld (Tab.get TrafficGen.zero (s.hub 1).gens 2).ctrl.toNat 7 6 ≠ 1) := by decide +kernel
theorem test_writeback : (match exec (.correctionWriteback 0x40) marked with
    | .next t => (memRead t.mem 0x40 64 == List.replicate 64 9, t.writebacks.length, t.upsets.length)
    | _ => (false, 1, 1)) = (true, 0, 0) := by decide +kernel
theorem test_scrub_wraps : (match exec (.patrolScrub 0 {}) (unregioned.updHub 0 fun h =>
        { h with scrubNext := svc.hubBlocks - 1 }) with
    | .next t => ((t.hub 0).scrubNext, (t.hub 0).scrubPasses)
    | _ => (1, 0)) = (0, 1) := by decide +kernel

/-! Packets at a target: each has arrived here in the input buffer of an own package's send. -/
theorem witness_headers : listedOp pktRead.op.toNat = true ∧ pktRead.length.toNat ≤ 512 ∧ pktRead.status = 0 ∧
    0x40 ≤ treeUp.op.toNat ∧ treeUp.op.toNat ≤ 0x43 ∧ treeUp.length.toNat ≤ 512 := by decide +kernel
/-- Byte 4 of the flit is OP, bytes 12 to 15 REQ_ID, bytes 22 and 23 LENGTH. -/
theorem test_packet_flit : let f := (pktToFlit { pktRead with length := 512 }).toNat
    (f / 2 ^ 32 % 256, f / 2 ^ 96 % 2 ^ 32, f / 2 ^ 176 % 2 ^ 16) = (1, 9, 512) := by decide +kernel
def taken (k : Pkt) (data : Bytes) : State :=
  (received svc k data).takeRx (56, 0, pktToFlit k, data)
def heldAs (k : Pkt) (data : Bytes) : Bool := (received svc k data).heldAt k.job k.addr.toNat = false &&
  (received svc k data).heldRx k data = some (56, 0, pktToFlit k, data)
theorem witness_reads : heldAs pktRead [] = true ∧ heldAs { pktRead with op := 2 } (zeros 8) = true ∧
    pktFromMonsoon { pktRead with op := 2 } = false ∧ (taken pktRead []).accessRefused 7 0x1000 8 = none ∧
    heldAs { pktRead with job := 6 } [] = true ∧
    (taken { pktRead with job := 6 } []).accessRefused 6 0x1000 8 = some 4 ∧
    (∃ bs s1, (taken pktRead []).readUpTo 7 0x1000 8 = (bs, none, s1)) ∧
    okAnd ((taken { pktRead with op := 2 } (zeros 8)).writeMem 7 0x1000 (zeros 8)) (fun _ _ => true) = true :=
  ⟨by decide +kernel, by decide +kernel, by decide +kernel, by decide +kernel, by decide +kernel, by decide +kernel,
    ⟨_, _, rfl⟩, by decide +kernel⟩
def pktAdd : Pkt := { pktRead with op := 0x16, arg0 := 5 }
def replayedState : State := (received svc pktAdd []).updXdie (pktEngine pktAdd) fun d => d.putReplay 3 9 0 4 1
theorem witness_atomics : heldAs pktAdd [] = true ∧ (taken pktAdd []).mayApply pktAdd = true ∧
    ((taken pktAdd []).xdie (pktEngine pktAdd)).replayed 3 9 = none ∧
    ((taken pktAdd []).xdie (pktEngine pktAdd)).replayRoom (taken pktAdd []).now = true ∧
    okAnd ((taken pktAdd []).atomicAt 7 6 64 0x1000 5 0) (fun v _ => v = 0) = true ∧
    (replayedState.xdie (pktEngine pktAdd)).replayed 3 9 = some (0, 4) := by decide +kernel
theorem test_cas : atomicOp 5 32 7 9 7 = (9, 7) ∧ atomicOp 5 32 8 9 7 = (8, 8) := by decide
def pktReduce : Pkt := { pktRead with op := 4, arg0 := 0x40 }
theorem witness_otherRequests : heldAs pktReduce (zeros 8) = true ∧ (taken pktReduce (zeros 8)).mayApply pktReduce = true ∧
    reduceListed (pktReduce.arg0.toNat % 16) (pktReduce.arg0.toNat / 16 % 16) = true ∧
    okAnd ((taken pktReduce (zeros 8)).reduceAt 7 0 4 0x1000 (zeros 8)) (fun _ _ => true) = true ∧
    ((taken pktReduce (zeros 8)).xdie (pktEngine pktReduce)).replayed 3 9 = none ∧
    heldAs { pktRead with op := 3 } (zeros 8) = true ∧ (taken { pktRead with op := 3 } (zeros 8)).mcastTargets
      { pktRead with op := 3 } = [] ∧ (received svc { pktRead with op := 0x20 } []).heldRx { pktRead with op := 0x20 } [] =
      some (56, 0, pktToFlit { pktRead with op := 0x20 }, []) ∧ svc.fw.up = true ∧
    (let k := { pktRead with op := 0x21 }
     let s := svc.updFabric fun b => { b with rx := [(4, 0, pktToFlit k, [])] }
     (s.fabric.rx.find? fun e => e.1 = 4 && pktOfFlit e.2.2.1 = some k).isSome = true ∧
     s.fabric.teardowns.contains (k.job, k.arg1) = false) := by decide +kernel
/-- A copy from package 19, of another tray, in a group whose member of this tray is package 1; and one that is denied. -/
def mcastState : State := { svc with groups := [(0, { group0 with mask := 2 })] }
def pktMcast (job : BitVec 32) : Pkt := { pktRead with op := 3, src := 19, job := job }
def mcastTaken (job : BitVec 32) : State :=
  (received mcastState (pktMcast job) (zeros 8)).takeRx (56, 0, pktToFlit (pktMcast job), zeros 8)
theorem witness_mcast : (mcastTaken 7).mcastTargets (pktMcast 7) = [(1, 0)] ∧
    (mcastTaken 7).accessRefused 7 0x1000 8 = none ∧ (mcastTaken 6).accessRefused 6 0x1000 8 = some 4 ∧
    (received mcastState (pktMcast 7) (zeros 8)).heldRx (pktMcast 7) (zeros 8) =
      some (56, 0, pktToFlit (pktMcast 7), zeros 8) ∧
    (received mcastState (pktMcast 6) (zeros 8)).heldRx (pktMcast 6) (zeros 8) =
      some (56, 0, pktToFlit (pktMcast 6), zeros 8) := by decide +kernel
theorem test_mcast_forwards : (match exec (.writeMcast (pktMcast 7) (zeros 8)) (received mcastState (pktMcast 7) (zeros 8)),
      exec (.writeMcast (pktMcast 6) (zeros 8)) (received mcastState (pktMcast 6) (zeros 8)) with
    | .next t, .next u => (t.fabric.xacts.map fun x => (x.k.dst, x.k.job), u.fabric.xacts.map fun x => (x.k.dst, x.k.job))
    | _, _ => ([], [])) = ([(1, 7)], [(1, 6)]) := by decide +kernel
theorem witness_atomicTable : svc.rmwRefused 7 0x1000 8 = none ∧ 0x1000 % (64 / 8) = 0 ∧
    okAnd (svc.readMem 7 0x1000 8) (fun bs s1 => bs.length = 8 &&
      okAnd (s1.writeMem 7 0x1000 (leBytes 8 (atomicOp 6 64 (leNat bs) 5 0).1)) fun _ _ => true) = true := by
  decide +kernel

/-- Transaction 4 of partition 1: a READ of package 3, in a state. -/
def xactOf (x : XState) (o : Owner) (attempts : Nat) : Xact :=
  ⟨{ pktRead with dst := 3, src := 0, reqId := 4 }, none, [], o, 1, x, 1000, 1000, attempts, 0⟩
def xacting (x : Xact) : State := svc.updFabric fun b => { b with xacts := [x] }
def entryRead : Owner := .entry 1 0 0x2000
theorem witness_requestSend : let x := xactOf .queued entryRead 0
    (xacting x).xact? 4 = some x ∧ (xacting x).operational = true ∧ (xacting x).firstInOrder x = true ∧
    (xacting x).mayStart x = true ∧ (xacting x).engineFree x = true ∧ (xacting x).eligible x = true ∧
    x.k.dst ≠ (xacting x).self ∧ ((xacting x).updFabric fun b => { b with combine := false }).eligible x = false := by
  decide +kernel
def replyOf (st : Byte) (src : PkgId) : Pkt := { pktRead with op := 0x80, src := src, reqId := 4, status := st }
def replying (k : Pkt) : State := (xacting (xactOf .sent entryRead 1)).updFabric fun b => { b with rx := [(56, 0, pktToFlit k, zeros 8)] }
def heldIn (s : State) (k : Pkt) (data : Bytes) : Bool := s.heldRx k data = some (56, 0, pktToFlit k, data)
theorem witness_replies : heldIn (replying (replyOf 0 3)) (replyOf 0 3) (zeros 8) = true ∧
    heldIn (replying (replyOf 6 3)) (replyOf 6 3) (zeros 8) = true ∧
    heldIn (replying (replyOf 4 3)) (replyOf 4 3) (zeros 8) = true := by decide +kernel
theorem witness_repliesOf :
    ((replying (replyOf 0 3)).takeRx (56, 0, pktToFlit (replyOf 0 3), zeros 8)).xact? 4 = some (xactOf .sent entryRead 1) ∧
    (xactOf .sent entryRead 1).k.dst = (replyOf 0 3).src ∧ (xactOf .sent entryRead 1).k.dst ≠ (replyOf 0 2).src ∧
    ((4 : Byte).toNat ∉ [0, 2, 3, 6]) := by decide +kernel
theorem test_late_reply : (match exec (.readReply { replyOf 0 2 with length := 8 } (zeros 8)) (replying (replyOf 0 2)) with
    | .next t => (t.fabric.lateReply, t.fabric.xacts.length, t.fabric.rx.length)
    | _ => (0, 0, 1)) = (1, 1, 0) := by decide +kernel
theorem witness_attempts : let s := xacting (xactOf .sent entryRead 1)
    let u := { s with season := { s.season with k0 := 30000 } }
    (xactOf .sent entryRead 1).isProbe = false ∧ 1000 + u.attemptTime (xactOf .sent entryRead 1) ≤ u.now ∧
    u.attemptsOver (xactOf .sent entryRead 1) = false ∧ 1000 + 4 * s.fabric.timeout.toNat ≤ s.now ∧ s.moves = true ∧ s.attemptsOver (xactOf .sent entryRead 1) = true ∧
    (let m : Xact := { xactOf (.joined 4) (.shard 1 0 0) 1 with k := { pktRead with reqId := 9 } }
     let v := svc.updFabric fun b => { b with xacts := [m] }
     v.unraised (xactOf .probing (.combined [(9, 0)]) 4) = true) ∧
    (1000 + 1000 ≤ s.now ∧ ({ svc with season := { svc.season with k0 := 3000 } }).now <
      (xactOf .busy entryRead 1).first + 4 * svc.fabric.timeout.toNat) ∧
    (let p := { xactOf .sent (.probe 7) 1 with k := { pktRead with op := 0x20, reqId := 4 } }
     let y := { xactOf .probing entryRead 4 with k := { pktRead with reqId := 7 } }
     let s := svc.updFabric fun b => { b with xacts := [p, y] }
     s.xact? 4 = some p ∧ s.xact? 7 = some y ∧ p.sentAt + s.fabric.timeout.toNat ≤ s.now) := by decide +kernel
theorem witness_combineWindow : let x := xactOf .window entryRead 0
    (xacting x).xact? 4 = some x ∧ x.sentAt + 64 ≤ (xacting x).now := by decide +kernel
theorem witness_epochs : (let s := svc.updFabric fun b => { b with epochAt := 4000000 }
      s.fabric.epochAt ≠ 0 ∧ s.fabric.epochAt ≠ s.fabric.epochDone ∧ s.fabric.epochAt.toNat ≤ s.now ∧ s.fabric.retiring = none) ∧
    (let s := svc.updFabric fun b => { b with retiring := some (0, 5000000) }
     s.fabric.retiring = some (0, 5000000) ∧ 5000000 ≤ s.now) := by decide +kernel

/-! A collective of group 2: this package, member 0, is the root of Southwind and package 1 is its child. -/
def group2 : Group := { group0 with members := [0, 1], nw := treeNbrs 0 2 0, sw := treeNbrs 1 2 0 }
def coll4 : Coll := { part := 1, pos := 0, desc := 0x100, group := 2, equinox := 4, deadline := 6000000, kind := 0, op := 0, fmt := 0, sem := 0, root := 0, self := 0, count := 64, src := 0x1000, dst := 0x2000, stage := 0x3000, calm := false, digest := 1, late := none, mv := false, started := [0, 1, 2, 3], got := [], upDone := [], downDone := [], rootDone := [], complete := false, doneAt := 0, buffers := 8, abort := none, aborted := false }
def upPkt : TreePkt := { treeUp with src := 1, tree := 1 }
def treeState (c : List Coll) (k : TreePkt) (data : Bytes) : State := { svc.updFabric (fun b => { b with rx := [(56, 0, treeToFlit k, data)] }) with
  groups := [(2, group2)], colls := c }
def treeTaken (c : List Coll) (k : TreePkt) (data : Bytes) : State :=
  (treeState c k data).takeRx (56, 0, treeToFlit k, data)
def part0 (i : Nat) : CollPart := ⟨1, 4 * i, 0, 0, upPkt, [1, 2]⟩
theorem witness_treePackets : (treeState [coll4] upPkt [1, 2]).operational = true ∧
    (treeState [coll4] upPkt [1, 2]).findRxTree upPkt [1, 2] = some (56, 0, treeToFlit upPkt, [1, 2]) ∧
    (treeTaken [coll4] upPkt [1, 2]).treeAllowed upPkt = true ∧
    (treeTaken [coll4] upPkt [1, 2]).coll? upPkt.group upPkt.equinox = some coll4 ∧
    coll4.inputOf group2 upPkt = some 0 ∧ coll4.arrived upPkt 0 = false ∧ upPkt.digest = coll4.digest ∧
    { coll4 with got := [part0 0] }.arrived upPkt 0 = true ∧
    { coll4 with got := (List.range 8).map fun i => part0 (i + 1) }.got.countP (fun x : CollPart => x.input = 0 && x.tree = 1 &&
      x.chunk % 4 = treeDie upPkt && coll4.holds x) = 8 ∧ { coll4 with digest := 5 }.digest ≠ upPkt.digest := by
  decide +kernel
theorem witness_earlyTree : (treeTaken [] upPkt [1, 2]).treeAllowed upPkt = true ∧
    (treeTaken [] upPkt [1, 2]).coll? upPkt.group upPkt.equinox = none ∧ (treeTaken [] upPkt [1, 2]).collPast = [] ∧
    ((treeTaken [] upPkt [1, 2]).xdie (treeDie upPkt)).collEarly = [] ∧
    (treeTaken [] treeUp [1, 2]).treeAllowed treeUp = false ∧
    (treeState [] treeUp [1, 2]).findRxTree treeUp [1, 2] = some (56, 0, treeToFlit treeUp, [1, 2]) := by decide +kernel
theorem test_early_tree_stored : (match exec (.collUp upPkt [1, 2]) (treeState [] upPkt [1, 2]) with
    | .next t => (t.xdie 0).collEarly.length
    | _ => 0) = 1 := by decide +kernel
def abortPkt : TreePkt := { upPkt with op := 0x43, length := 0, abortCode := 0x0602 }
theorem witness_collAbort : (treeState [coll4] abortPkt []).findRxTree abortPkt [] = some (56, 0, treeToFlit abortPkt, []) ∧
    (treeTaken [coll4] abortPkt []).treeAllowed abortPkt = true ∧ coll4.aborted = false ∧ abortPkt.abortCode ≠ 0x0601 ∧
    (treeTaken [coll4] abortPkt []).coll? abortPkt.group abortPkt.equinox = some coll4 := by decide +kernel
/-- An abort of another digest, one that brings 0x0601, and an early store that is full. -/
theorem witness_collAborts : { abortPkt with digest := 9 }.digest ≠ coll4.digest ∧ abortPkt.digest = coll4.digest ∧
    ({ abortPkt with abortCode := 0x0601 } : TreePkt).abortCode = 0x0601 ∧ { coll4 with complete := true }.complete = true ∧
    (let s := (treeTaken [] upPkt [1, 2]).updXdie (treeDie upPkt) fun d => { d with collEarly := List.replicate 1024 (abortPkt, []) }
     (s.xdie (treeDie upPkt)).collEarly.length = 1024 ∧
     ((s.xdie (treeDie upPkt)).collEarly.any fun e => sameTree e.1 upPkt) = false) := by decide +kernel
def doneColl : Coll := { coll4 with
  count := 2, upDone := [(0, 0), (1, 0), (1, 1), (0, 1)], downDone := [(0, 0), (1, 0), (1, 1), (0, 1)], rootDone := [(0, 0), (1, 0)] }
theorem witness_collEnds : doneColl.finished = true ∧ doneColl.complete = false ∧
    (treeState [doneColl] abortPkt []).xNow 0 ≤ doneColl.deadline ∧ doneColl.hasDst = true ∧
    { doneColl with kind := 1, root := 1 }.hasDst = false ∧
    okAnd ((treeState [{ doneColl with complete := true }] abortPkt []).peek 1 0x3000 doneColl.bytes) (fun bs s1 =>
      okAnd (s1.writeMem (s1.partition 1).job 0x2000 bs) fun _ _ => true) = true := by decide +kernel

/-! Rings: the next entry, at position 3 of a ring at local address 0x8000, with a descriptor at 0x100. -/
def slot32 (tag param eq arg : Nat) : Bytes := leBytes 8 (tag + 2 ^ 8 + param * 2 ^ 16) ++ leBytes 8 eq ++ leBytes 8 6000000 ++ leBytes 8 arg
def ringed (bs d : Bytes) : State := { svcPart fun x => { x with ring := { x.ring with
    base := 0x8000, fetched := 3, awake := true } } with
  mem := memWrite (memWrite [] 0x100 d) 0x8060 bs }
def fetches (bs d : Bytes) (t : EntryType) : Bool :=
  let s := ringed bs d
  let r := (s.partition 1).ring
  (s.partition 1).state = .active && s.inService && r.awake && !r.blocked && r.waiting.isNone && s.ringTurn 1 &&
  !s.waitsFor 1 [(loc (r.entry 3 bs).arg, 64)] &&
  okAnd ({ s with lastRing := 1 }.nextSlot 1) fun b s1 => b = bs && r.valid (r.entry 3 b) && (r.entry 3 b).type = some t &&
    !(r.entry 3 b).fence && okAnd (s1.entryCheck 1 (r.entry 3 b)) fun _ _ => true
def kernelDesc : Bytes := leBytes 8 0x80 ++ leBytes 8 0x9000 ++ zeros 48
def dmaDesc : Bytes := leBytes 8 0x1000 ++ leBytes 8 0x2000 ++ leBytes 8 64 ++ zeros 40
def loopDesc : Bytes := leBytes 8 0x1000 ++ leBytes 8 5 ++ leBytes 8 255 ++ leBytes 4 0 ++ leBytes 4 4 ++ zeros 32
theorem witness_ringTypes :
    fetches (slot32 1 0x10000 0 0x100) kernelDesc .kernel = true ∧ fetches (slot32 2 0 0 0x100) dmaDesc .dma = true ∧
    fetches (slot32 3 0 0 0x100) [] .monsoon = true ∧ fetches (slot32 (3 + 2 ^ 11) 0 0 0x100) [] .forecast = true ∧
    fetches (slot32 4 0 0 0x100) [] .ret = true ∧ fetches (slot32 5 0 0 0x100) [] .collective = true ∧
    fetches (slot32 6 0 5000001 0) [] .waitSeason = true ∧ fetches (slot32 7 3 0 0) [] .waitSem = true ∧
    fetches (slot32 8 2 0 0x100) loopDesc .loopUntil = true ∧ fetches (slot32 9 0x10003 0 0) [] .signalSem = true ∧
    fetches (slot32 9 0x10040 0 0x1000) [] .signalWord = true ∧ fetches (slot32 9 0x80 0 0x1000) [] .signalTime = true := by
  decide +kernel
theorem test_signal_sem : (match exec (.signalSem 1) (ringed (slot32 9 0x20003 0 0) []) with
    | .next t => ((t.partition 1).sem 3, (t.partition 1).ring.fetched)
    | _ => (0, 0)) = (2, 4) := by decide +kernel
/-- The ring of partition 1 waits for that of partition 3, whose turn it is. -/
theorem test_ring_turn : (let s := (ringed (slot32 9 0x20003 0 0) []).updPartition 3 fun _ => { partOne with
        job := 9, home := 2, regions := [], stewards := [], ring := { Ring.empty with log2 := 4, awake := true } }
    (s.ringTurn 1, ({ s with lastRing := 1 }).ringTurn 1, ({ s with lastRing := 1 }).ringTurn 3)) = (true, false, true) := by
  decide +kernel
theorem witness_ringStops : let s := ringed (slot32 9 0 0 0) []
    let t := ringed (slot32 0 0 0 0) []
    okAnd ((ringed (zeros 32) []).nextSlot 1) (fun b _ => !(s.partition 1).ring.valid ((s.partition 1).ring.entry 3 b)) = true ∧
    okAnd (t.nextSlot 1) (fun b s1 => ((t.partition 1).ring.entry 3 b).type.isNone &&
      match (s1.entryCheck 1 ((t.partition 1).ring.entry 3 b)).1 with
        | .error r => r.code ≠ 0
        | .ok _ => false) = true := by decide +kernel
theorem witness_kernelLaunch : let s := ringed [] []
    let e := (s.partition 1).ring.entry 3 (slot32 1 0x10000 0 0x100)
    s.kernelCores 1 (e.item .kernel none 64) = [0] ∧ (({ s.updCore 0 fun k => { k with ctx := some 1 } with mem := [] } : State).core 0).ctx = some 1 ∧
    (s.core 0).pendingLaunch = none := by decide +kernel
def kernelWaits : State := svcPart fun x => { x with ring := { x.ring with items := [{ entry .kernel 0 with param := 0x10000 }] } }
theorem witness_kernelWaits : (kernelWaits.partition 1).ring.waiting = some { entry .kernel 0 with param := 0x10000 } ∧
    (∃ c ∈ (svcCore fun k => { k with ctx := some 1, pendingLaunch := some (launch 0 9) }).kernelCores 1 { entry .kernel 0 with param := 0x10000 },
      ((svcCore fun k => { k with ctx := some 1, pendingLaunch := some (launch 0 9) }).ctxCore 1 c).pendingLaunch.isSome = true) := by
  decide +kernel
theorem test_waiting_kernel : (match exec (.kernel 1) (kernelWaits.updCore 0 fun k => { k with ctx := some 1 }) with
    | .next t => ((t.core 0).pendingLaunch.map (·.size), (t.partition 1).ring.waiting.isSome)
    | _ => (none, true)) = (some 1, false) := by decide +kernel
theorem witness_signals : (entry .signalSem 0).type = .signalSem ∧ (entry .waitSeason 0).type = .waitSeason ∧
    okAnd (svc.cmdWrite 1 0x1000 (leBytes 4 7)) (fun _ _ => true) = true ∧
    okAnd (svc.cmdWrite 1 0x1000 (leBytes 8 svc.now)) (fun _ _ => true) = true ∧
    ((svc.partition 1).sem 3).toNat + 5 < 2 ^ 32 ∧ (svc.partition 1).queue 3 = [] ∧
    (let s := svcPart fun x => { x with sems := [(3, 0xFFFFFFFF)] }
     2 ^ 32 ≤ ((s.partition 1).sem 3).toNat + 1) := by decide +kernel
def loop1 (trip : Nat) : Loop := ⟨5, 2, trip, 0x1000, 5, 255, 0, false, 4, 0, 0⟩
def looping (trip w : Nat) : State := { svcPart fun x => { x with ring := { x.ring with
    base := 0x8000, fetched := 6, loop := some (loop1 trip), items := [{ entry .loopUntil 0x100 with pos := 5 }] } } with
  mem := memWrite [] 0x1000 (leBytes 8 w) }
theorem witness_loops : (looping 1 5).item? 1 5 = some { entry .loopUntil 0x100 with pos := 5 } ∧
    okAnd ((looping 1 5).cmdRead 1 0x1000 8) (fun bs _ => (loop1 1).test (leNat bs)) = true ∧
    okAnd ((looping 1 4).cmdRead 1 0x1000 8) (fun bs _ => !(loop1 1).test (leNat bs)) = true ∧
    (loop1 3).trip + 1 = (loop1 3).bound ∧ (loop1 1).trip + 1 ≠ (loop1 1).bound ∧ (loop1 1).exitAt = false ∧
    { loop1 1 with exitAt := true, exitCount := 4000000 }.exitCount ≤ svc.now ∧
    svc.now < { loop1 1 with exitAt := true, exitCount := 6000000 }.exitCount ∧
    (entry .loopUntil 0x100).equinox ≤ svc.now ∧ svc.now ≤ (entry .loopUntil 0x100).deadline := by decide +kernel
theorem test_loop_exit : (match exec (.loopTest 1) ((looping 1 4).updPartition 1 fun x => { x with
      ring := { x.ring with loop := some { loop1 1 with exitAt := true, exitCount := 4000000 } } }) with
    | .next t => (t.partition 1).ring.loop.isNone
    | _ => false) = true := by decide +kernel
theorem test_loop_next : (match exec (.loopTest 1) (looping 1 4) with
    | .next t => ((t.partition 1).ring.fetched, (t.partition 1).ring.loop.map (·.trip))
    | _ => (0, none)) = (3, some 2) := by decide +kernel
theorem witness_stewards : svc.stewardPart 0 = some 1 ∧
    (svc.partition 1).ring.reserved + 16 - (svc.partition 1).ring.consumer ≤ (svc.partition 1).ring.size ∧
    (svc.partition 1).ring.size < 17 + (svc.partition 1).ring.reserved - (svc.partition 1).ring.consumer ∧
    ((svc.updSteward 0 fun w => { w with trapVec := 0x40 }).steward 0).trapVec ≠ 0 ∧ (svc.steward 0).trapVec = 0 ∧
    (svc.steward 0).trapActive = false ∧ (svc.steward 0).waiting = none ∧
    ((svc.updSteward 0 fun w => { w with waiting := some 5000000 }).steward 0).waiting = some 5000000 ∧
    5000000 ≤ svc.now := by decide +kernel

/-! Firmware's commands, each from the host, which manages the package: PARAM is bytes 24 to 63. -/
def command (op : Nat) (param : Bytes) : Taken := ⟨0, 0, 0, leBytes 2 op ++ zeros 22 ++ padTo 40 param, false, 0⟩
def asked (s : State) (t : Taken) : State := s.updFw fun f => { f with taken := [t] }
/-- The command is the next one of its service in `asked s t` and its checks pass, and the state from which its own part
starts meets a condition. -/
def runsAnd (s : State) (op : Nat) (u : Rule) (t : Taken) (c : State → Bool) : Bool :=
  let v := (asked s t).updFw fun f => { f with taken := f.taken.erase t }
  (asked s t).nextFor op = some t && v.precheck u t = none && c v
theorem runsAnd_spec {s : State} {op : Nat} {u : Rule} {t : Taken} {c : State → Bool} (h : runsAnd s op u t c = true) :
    ∃ v, (asked s t).runsNext op u t v ∧ c v = true := by
  simp only [runsAnd, Bool.and_eq_true, decide_eq_true_eq] at h
  exact ⟨_, ⟨h.1.1, rfl, h.1.2⟩, h.2⟩

def quietSvc : State := svc.updMgmt fun m => { m with state := .quiesced }
theorem witness_checks : (asked svc (command 0x38 [])).nextFor 0x38 = some (command 0x38 []) ∧
    quietSvc.precheck ⟨.manager, [.service], [], none⟩ (command 0x38 []) = some .stateConflict ∧
    Issuer.manager.allows (command 0x38 []) = true ∧ Issuer.manager.allows { command 0x38 [] with part := 1 } = false ∧
    quietSvc.mgmt.state ∉ [PkgState.service] ∧
    ({ svc with partitions := [] } : State).tornSince { command 0x29 [1] with active := 2 } 1 = true ∧
    svc.tornSince (command 0x29 [1]) 1 = false ∧
    svc.precheck ⟨.manager, [.service], [], none⟩ (command 0x38 [0, 1]) = some .invalidArgument := by decide +kernel
theorem witness_channelCommands :
    (runsAnd svc 0x01 ⟨.manager, [.service, .quiesced], [(24, 25), (28, 32)], some 32⟩ (command 0x01 [5, 0, 0, 0, 9, 0, 0, 0, 1])
      fun v => !(v.channel 5).open_ && !(v.channel 5).draining && !v.bindingUsed false 9 && (v.partition 1).state = .active) =
        true ∧
    (runsAnd (svc.updChannel 5 fun _ => { Channel.closed with open_ := true, part := 1, pasid := 9 }) 0x02
      ⟨.closer, [.service, .quiesced], [(24, 25)], none⟩ (command 0x02 [5, 0]) fun v =>
        (v.channel 5).open_ && !(v.channel 5).draining) = true ∧
    runsAnd svc 0x03 ⟨.manager, [.service, .quiesced], [(32, 39)], none⟩ (command 0x03 (zeros 8 ++ leBytes 8 0x40000000))
      (fun _ => true) = true ∧ 0x40000000 + 0x1000000000 ≤ ctrlBase ∧
    runsAnd svc 0x04 ⟨.anyone, allStates, [], none⟩ (command 0x04 []) (fun _ => true) = true ∧
    runsAnd svc 0x05 ⟨.manager, allStates, [], none⟩ (command 0x05 []) (fun _ => true) = true := by decide +kernel
theorem test_open_channel_zero : (match exec .chOpen (asked svc (command 0x01 (zeros 8 ++ [1]))) with
    | .next t => ((t.channel 0).part, t.fw.taken.length)
    | _ => (9, 9)) = (0, 0) := by decide +kernel
def listed : State := { svc with mem := memWrite [] 0x1000 [0, 0, 1, 0] }
theorem witness_poolsAndGroups :
    runsAnd svc 0x18 ⟨.manager, [.service], [(24, 26), (28, 47)], some 24⟩
      (command 0x18 ([1, 2, 0, 0] ++ leBytes 4 512 ++ leBytes 8 0x100000 ++ leBytes 8 0x400000)) (fun v =>
        v.inRegion 1 0x100000 (512 * classSize 0) false && v.inRegion 1 0x400000 (metaBytes 512) true &&
        (v.partition 1).state = .active && (Tab.get? v.pools 10).isNone && v.pools.isEmpty) = true ∧
    runsAnd (pooled id 1) 0x19 ⟨.manager, [.service], [(24, 25)], some 24⟩ (command 0x19 [1, 0]) (fun v =>
      Tab.get? v.pools 8 = some pool0) = true ∧
    runsAnd { svc with groups := [(2, group2)] } 0x21 ⟨.owner 26, [.service], [(24, 26)], some 26⟩ (command 0x21 [2, 0, 1])
      (fun v => Tab.get? v.groups 2 = some group2 && !v.groupArmed 2) = true := by decide +kernel
theorem witness_groupDefine :
    runsAnd listed 0x20 ⟨.owner 26, [.service], [(24, 26), (32, 41)], some 26⟩
      (command 0x20 ([2, 0, 1] ++ zeros 5 ++ leBytes 8 0x1000 ++ [2, 0])) (fun v =>
        v.inRegion 1 0x1000 4 false && okAnd (v.peek 1 0x1000 4) fun bs v1 => !v1.badList (memberList bs 2) &&
          (v1.partition 1).state = .active && (Tab.get? v1.groups 2).isNone &&
          v1.owns 1 0x1000 (roundUp 4 64 + 2 * (v1.groupOf 1 0x1000 bs (memberList bs 2)).leaders.length)) = true := by
  decide +kernel
theorem witness_packageCommands :
    runsAnd svc 0x28 ⟨.manager, [.service, .quiesced], [(24, 24), (32, 55)], none⟩ (command 0x28 [1]) (fun _ => true) = true ∧
    runsAnd svc 0x28 ⟨.manager, [.service, .quiesced], [(24, 24), (32, 55)], none⟩ (command 0x28 [8]) (fun _ => true) = true ∧
    runsAnd svc 0x29 ⟨.owner 24, [.service], [(24, 26), (32, 43)], some 24⟩ (command 0x29 [1, 0]) (fun v =>
      (v.partition 1).state = .active) = true ∧
    runsAnd svc 0x29 ⟨.owner 24, [.service], [(24, 26), (32, 43)], some 24⟩
      (command 0x29 ([1, 6, 1] ++ zeros 5 ++ leBytes 8 0x1000 ++ leBytes 4 2)) (fun v => gPkg 0x1000 = v.self &&
        gLocal 0x1000 % 64 = 0 && canonical 0x1000 && v.owns 1 (gLocal 0x1000) (64 + 2 * 128)) = true ∧
    runsAnd svc 0x29 ⟨.owner 24, [.service], [(24, 26), (32, 43)], some 24⟩ (command 0x29 [1, 5, 1]) (fun _ => true) = true ∧
    runsAnd svc 0x2A ⟨.manager, [.service, .quiesced], [(24, 31)], none⟩ (command 0x2A []) (fun _ => true) = true ∧
    runsAnd svc 0x31 ⟨.manager, [.service], [(32, 39)], none⟩ (command 0x31 (zeros 8 ++ leBytes 8 6000000)) (fun v =>
      v.now + 1000000 ≤ 6000000) = true ∧
    runsAnd svc 0x32 ⟨.manager, [.service, .quiesced], [(24, 27)], none⟩ (command 0x32 (leBytes 4 1000)) (fun _ => true) = true ∧
    runsAnd svc 0x38 ⟨.manager, [.service], [], none⟩ (command 0x38 []) (fun v => v.busyPartition) = true ∧
    runsAnd quietSvc 0x39 ⟨.manager, [.quiesced], [], none⟩ (command 0x39 []) (fun _ => true) = true := by decide +kernel
theorem test_timeout_bounds : (match exec .xactTimeoutSet (asked svc (command 0x32 (leBytes 4 40000))),
      exec .xactTimeoutSet (asked svc (command 0x32 (leBytes 4 40001))) with
    | .next t, .next u => (t.fabric.timeout, u.fabric.timeout)
    | _, _ => (0, 0)) = (40000, 20000) := by decide +kernel

/-- A value drawn from a list that is not empty. -/
theorem pick_some {α : Type} {s : State} {l : List α} (h : l ≠ []) : ∃ a, a ∈ l ∧ (s.pick l).1 = some a := by
  have h1 : 0 < l.length := List.length_pos_of_ne_nil h
  have h2 : s.draw.1 % max l.length 1 < l.length := by
    rw [Nat.max_eq_left h1]
    exact Nat.mod_lt _ h1
  exact ⟨l[s.draw.1 % max l.length 1], List.getElem_mem h2, by simp [State.pick, List.getElem?_eq_getElem h2]⟩
theorem witness_routeLoad : ∃ v, (asked svc (command 0x30 [1])).runsNext 0x30
      ⟨.manager, [.service, .quiesced], [(24, 24), (32, 39)], none⟩ (command 0x30 [1]) v ∧
    ∃ b v1 j v2, v.readPblock (command 0x30 [1]) (some (zeros 40)) ((command 0x30 [1]).long 32) 40 = (.ok b, v1) ∧
      v1.pick v1.freeTables = (some j, v2) := by
  obtain ⟨v, h, hc⟩ := runsAnd_spec (c := fun v => v.freeTables ≠ []) (show runsAnd svc 0x30
    ⟨.manager, [.service, .quiesced], [(24, 24), (32, 39)], none⟩ (command 0x30 [1]) _ = true by decide +kernel)
  let w := v.hostRead (command 0x30 [1]).sender.toNat (BitVec.ofNat 64 ((command 0x30 [1]).long 32)) 40
  have e : w.freeTables = v.freeTables := by
    show (if h : _ < 1024 then _ else v : State).freeTables = _
    split <;> rfl
  obtain ⟨j, -, hj⟩ := pick_some (s := w) (l := w.freeTables) (e ▸ of_decide_eq_true hc)
  refine ⟨v, h, padTo 40 (zeros 40), w, j, _, ?_, Prod.ext hj rfl⟩
  rw [State.readPblock, if_pos (by decide)]
theorem witness_memoryCommands :
    runsAnd quietSvc 0x3A ⟨.manager, [.quiesced], [(24, 25)], none⟩ (command 0x3A [3, 2]) (fun _ => true) = true ∧
    runsAnd quietSvc 0x3B ⟨.manager, [.quiesced], [(24, 25), (32, 39)], none⟩ (command 0x3B [1, 2]) (fun v => v.mayTest) = true ∧
    (let s := quietSvc.updFw fun f => { f with testing := some (command 0x3B [1, 2], 1, [2]) }
     s.fw.testing = some (command 0x3B [1, 2], 1, [2]) ∧ s.fw.up = true ∧
     (Tab.get TrafficGen.zero (s.hub 1).gens 2).busy = false) := by decide +kernel

/-! Partitions and the schedule. CREATE of partition 2: 1 core block, 1 region of 2 units. -/
def createBytes : Bytes :=
  [2, 0] ++ leBytes 2 1 ++ [0, 1, 0, 6] ++ leBytes 4 9 ++ zeros 68 ++ leBytes 8 2 ++ zeros 168
/-- Between its slots and its bases, whichever are chosen, a region of `n` units leaves room for one of 1 unit. -/
def roomAfter (s : State) (n : Nat) : Bool :=
  s.regionBases n ≠ [] && s.regionSlots ≠ [] && s.regionSlots.all fun i => (s.regionBases n).all fun b =>
    let t := { s with regions := Tab.put s.regions i ⟨b, n, false, 0, some 2⟩ }
    t.regionBases 1 ≠ [] && t.regionSlots ≠ []
theorem reserveRegion_some {s : State} {n al : Nat} {d : Bool} {o : Option Nat} (hb : s.regionBases n ≠ [])
    (hs : s.regionSlots ≠ []) : ∃ i b, i ∈ s.regionSlots ∧ b ∈ s.regionBases n ∧ s.reserveRegion n d al o =
      (some i, { s with free := s.free + 2, regions := Tab.put s.regions i ⟨b, n, d, BitVec.ofNat 2 al, o⟩ }) := by
  obtain ⟨b, hb, h1⟩ := pick_some hb
  obtain ⟨i, hi, h2⟩ := pick_some (s := s.draw.2) (l := s.regionSlots) hs
  have e1 : s.pick (s.regionBases n) = (some b, s.draw.2) := Prod.ext h1 rfl
  have e2 : s.draw.2.pick s.draw.2.regionSlots = (some i, s.draw.2.draw.2) := Prod.ext h2 rfl
  exact ⟨i, b, hi, hb, by simp only [State.reserveRegion, e1, e2]; rfl⟩
/-- Three units of memory are free. -/
def roomy : State := { svc with regions := [(0, ⟨3, 509, false, 0, some 1⟩)] }
theorem witness_create : ∃ v, (asked roomy (command 0x10 [])).runsNext 0x10 ⟨.manager, [.service], [(24, 31)], none⟩
      (command 0x10 []) v ∧ (v.partition 2).state = .absent ∧ v.partsOfJob 9 = [] ∧
    v.badCreate (createBlockOf createBytes) = false ∧ (createBlockOf createBytes).blocks ≤ v.available.1 ∧
    (createBlockOf createBytes).id = 2 ∧ (createBlockOf createBytes).job = 9 ∧
    ∃ r v2, v.reserve (createBlockOf createBytes) = (some r, v2) := by
  obtain ⟨v, h, hc⟩ := runsAnd_spec (c := fun v => (v.partition 2).state = .absent && v.partsOfJob 9 = [] &&
      !v.badCreate (createBlockOf createBytes) && (createBlockOf createBytes).blocks ≤ v.available.1 && roomAfter v 2)
    (show runsAnd roomy 0x10 ⟨.manager, [.service], [(24, 31)], none⟩ (command 0x10 []) _ = true by decide +kernel)
  simp only [Bool.and_eq_true, decide_eq_true_eq, Bool.not_eq_true', roomAfter, List.all_eq_true] at hc
  obtain ⟨⟨⟨⟨h1, h2⟩, h3⟩, h4⟩, ⟨hb, hs⟩, hr⟩ := hc
  refine ⟨v, h, h1, h2, h3, h4, by decide +kernel, by decide +kernel, ?_⟩
  have e : createBlockOf createBytes = ⟨2, 0, 1, 0, 1, 0, 6, 9, 0, [], [⟨2, 0, false, true⟩], [], true⟩ := by
    decide +kernel
  obtain ⟨i, b, hi, hb, e1⟩ := reserveRegion_some (al := 0) (d := false) (o := some 2) hb hs
  obtain ⟨h5, h6⟩ := hr i hi b hb
  obtain ⟨j, c, -, -, e2⟩ := reserveRegion_some (s := { v with
    free := v.free + 2 + 1, regions := Tab.put v.regions i ⟨b, 2, false, BitVec.ofNat 2 0, some 2⟩ })
    (al := Config.freeNat (v.free + 2) % 3) (d := false) (o := none) h5 h6
  rw [e]
  refine ⟨⟨v.freeStewards.take 0, [i], [], j⟩, ?_⟩
  simp only [State.reserve, Nat.not_lt_zero, if_false, State.reserveRegions, e1, State.reserveRanges, State.freeAlloc, State.draw]
  rw [show CreateBlock.saveUnits _ = 1 from by decide +kernel, e2]
  exact ⟨_, rfl⟩
theorem witness_destroy :
    runsAnd svc 0x11 ⟨.manager, [.service], [(24, 24), (32, 39)], none⟩ (command 0x11 [1]) (fun v =>
      (v.partition 1).state = .active && 0 ≤ v.now && (v.partition 1).destroyAt.isNone && v.now < 6000000) = true ∧
    (let s := svcPart fun x => { x with destroyAt := some (5000000, 0) }
     (s.partition 1).destroyAt = some (5000000, 0) ∧ s.fw.up = true ∧ 5000000 ≤ s.now ∧ (s.partition 1).state = .active) := by
  decide +kernel
def faultRec0 : FaultRec := svc.recordOpen 0x0807 0 0
theorem witness_firmwareServes :
    (let s := svcPart fun x => { x with state := .deferred, home := 0, deferral := some (5000000, 1, [], 1) }
     (s.partition 1).deferral = some (5000000, 1, [], 1) ∧ 5000000 ≤ s.now ∧ 1 ≤ s.freeBlocks.length ∧
     (s.deferredList.head?.map (·.2.2.2)) = some 1) ∧
    (let s := svcPart fun x => { x with faultArea := 0x9000, recordsWritten := 1 }
     (s.partition 1).recordsWritten ≠ 0 ∧ (s.partition 1).faultArea ≠ 0 ∧ (s.partition 1).state ≠ .absent) ∧
    (let s := svcPart fun x => { x with records := [faultRec0], faultArea := 0x9000 }
     (s.partition 1).records.length = 1 ∧ (s.partition 1).recordsWritten = 0) ∧
    (let s := svcPart fun x => { x with state := .teardown }
     (s.partition 1).state = .teardown ∧ (s.partition 1).records = [] ∧ (s.partition 1).destroyAt = none) := by
  decide +kernel
theorem test_first_record : (match exec (.faultRecordWrite 1) (svcPart fun x => { x with records := [faultRec0], faultArea := 0x9000 }) with
    | .next t => ((t.partition 1).records.length, (t.partition 1).recordsWritten, memRead t.mem 0x9000 2)
    | _ => (9, 9, [])) = (0, 1, [0x07, 0x08]) := by decide +kernel
theorem test_teardown_ends : (match exec (.teardownComplete 1) (svcPart fun x => { x with state := .teardown }) with
    | .next t => (t.partition 1).state
    | _ => .absent) = .faulted := by decide +kernel

/-! The schedule: a Year of 2^20 ticks, and Month 3 of partition 1, which claims block 4 of partition 2. -/
def realtime : State :=
  let s := ({ svcPart fun x => { x with realtime := true, home := 0, claim := 1#288 <<< 4 } with
    cores := [(64, { Core.fresh 2 with preempt := .live })] }).updSeason fun z => { z with
      yearLog2 := 20, handoverLead := 40000, months := [(3, ⟨1, 0, 8192⟩)], yearBase := 4980000 }
  s.setPartition 2 { partOne with job := 9, home := 1#288 <<< 4, lendable := true, stewards := [], regions := [] }
def claimBytes : Bytes := [1, 1] ++ zeros 6 ++ leBytes 40 16 ++ leBytes 8 (8192 * 2 ^ 24)
theorem witness_schedule :
    runsAnd svc 0x13 ⟨.manager, [.service], [(24, 24), (32, 47)], none⟩ (command 0x13 [20]) (fun v =>
      v.season.months = [] && v.season.commitAt.isNone) = true ∧
    runsAnd realtime 0x12 ⟨.manager, [.service], [(24, 31)], none⟩ (command 0x12 []) (fun v =>
      okAnd (v.readClaim (command 0x12 []) (some claimBytes)) fun b v1 =>
        let c := claimBlockOf b
        c.id = 1 && c.months = 1 && c.clean && v1.yearLen ≠ 0 &&
        (c.list.all fun e => e.2 ≠ 0 && (e.1 + e.2) * 64 ≤ v1.yearLen) && !v1.tornSince (command 0x12 []) 1 &&
        (v1.partition 1).state = .active && (v1.partition 1).realtime && v1.season.commitAt.isNone &&
        !v1.claimRefused 1 c.mask (v1.nextMonths 1 c.list)) = true ∧
    (svc.updSeason fun z => { z with commitAt := some 5000000 }).season.commitAt = some 5000000 := by decide +kernel
theorem witness_handover : Tab.get? realtime.season.months 3 = some ⟨1, 0, 8192⟩ ∧
    realtime.monthActive ⟨1, 0, 8192⟩ = true ∧ (realtime.partition 1).state = .active ∧
    (realtime.partition 1).claim = 1#288 <<< 4 ∧ (realtime.core (16 * 4 + 0)).preempt = .live ∧
    (realtime.core (16 * 4 + 0)).ctx = some 2 ∧ (realtime.partition 2).state = .active ∧
    (realtime.partition 1).claim.getLsbD 4 = true ∧ realtime.homeOf 4 = some 2 := by decide +kernel
/-- The Month is over, and its core still holds the claimant's context. -/
def monthOver : State := { realtime with cores := [(64, { Core.fresh 1 with preempt := .live })] }.updSeason fun z =>
  { z with months := [(3, ⟨1, 0, 1⟩)] }
theorem witness_monthEnd : Tab.get? monthOver.season.months 3 = some ⟨1, 0, 1⟩ ∧ monthOver.claimantOf 4 ≠ some 1 ∧
    (monthOver.core 64).ctx = some 1 ∧ (monthOver.core 64).preempt = .live ∧ (monthOver.partition 1).state = .active := by
  decide +kernel
theorem test_month_end : (match exec (.monthEnd 3) monthOver with
    | .next t => (t.core 64).preempt
    | _ => .live) = .quiescing 5000000 := by decide +kernel
theorem test_resume_at : (match exec (.monthHandoverStart 3) realtime with
    | .next t => Tab.get? t.season.resumeAt 4
    | _ => none) = some (BitVec.ofNat 64 (realtime.monthEndAt ⟨1, 0, 8192⟩ + 40000)) := by decide +kernel
/-- The state after the handover of Month 3: block 4 is not back with partition 2. -/
def lent : State := match exec (.monthHandoverStart 3) realtime with
  | .next t => t
  | _ => realtime
theorem witness_resumeAt : (maskBlocks (lent.partition 2).home).filter (fun b => !lent.blockBack 2 b) = [4] ∧
    (Tab.get? lent.season.resumeAt 4).isSome = true ∧
    (let s := { svc with cores := (List.range 16).map fun j => (j, { Core.fresh 1 with preempt := .live }) }
     (maskBlocks (s.partition 1).home).all (fun b => s.blockBack 1 b) = true) ∧
    lent.seaReg 0x610 = lent.monthEndAt ⟨1, 0, 8192⟩ + 40000 := by decide +kernel
theorem test_month_handover : (match exec (.monthHandoverStart 3) realtime with
    | .next t => (t.core 64).preempt
    | _ => .live) = .quiescing 5000000 := by decide +kernel
def stopping (p : Preempt) : State := svcCore fun k => { k with ctx := some 1, preempt := p }
def stoppingRead : State := (stopping (.quiescing 4000000)).updFabric fun b => { b with
  xacts := [xactOf .sent (.coreMem 0 0x1000 false) 1] }
theorem witness_quiescing : (stoppingRead.core 0).preempt = .quiescing 4000000 ∧
    4000000 + stoppingRead.fabric.timeout.toNat ≤ stoppingRead.now ∧
    (stoppingRead.core 0).matrix.loadQ = [] ∧ (stoppingRead.core 0).matrix.compQ = [] ∧ (stoppingRead.core 0).tail.isNone = true ∧
    (∀ x ∈ stoppingRead.fabric.xacts, stoppingRead.ofContext 0 x = true ∧ x.outstanding = true ∧ x.state ≠ .window) := by
  decide +kernel
theorem witness_contexts : ((stopping .saving).core 0).ctx = some 1 ∧ (stopping .saving).atRest 0 = true ∧
    (let s := { stopping .restoring with saved := [(1, 0, Core.fresh 1)] }
     (s.core 0).preempt = .restoring ∧ s.incoming 0 = some 1 ∧ (s.partition 1).state = .active ∧
     s.savedCore 1 0 = some (Core.fresh 1) ∧ s.badImage ((s.partition 1).imageAt 0) = none) := by decide +kernel
/-- Steps whose descriptor, whose slot map and whose batch lie in the window of a core that is being saved. -/
def heldStep (desc slotMap : Nat) (map : Bytes) : State := { (stopping .saving).updPartition 1 fun x => { x with
      ring := { x.ring with items := [entry .monsoon (BitVec.ofNat 64 desc)] } } with
  groups := [(0, group0)], pools := [(8, pool0)], hubs := [(0, { HubState.zero with mode := 2 })]
  mem := memWrite (memWrite [] 0x100000002000 (descAt slotMap)) 0x100000000000 map }
theorem witness_heldStep :
    (heldStep 0x180000000000 0 []).waitsFor 1 [(gLocal 0x180000000000, 192)] = true ∧
    (let s := heldStep 0x100000002000 0x180000000000 []
     s.waitsFor 1 [(gLocal 0x100000002000, 192)] = false ∧
     okAnd (s.unitRead 1 (xUnit 0 uAdmitter) (gLocal 0x100000002000) 192) (fun bs s1 => s1.stepDescOk bs &&
       !s1.pairKnown (stepDescOf bs).group (stepDescOf bs).step &&
       s.waitsFor 1 [(loc (stepDescOf bs).slotMap, 8192)]) = true) ∧
    (let s := heldStep 0x100000002000 0x100000000000 (leBytes 8 0x8000 ++ leBytes 8 0x180000000000)
     okAnd (s.unitRead 1 (xUnit 0 uAdmitter) (gLocal 0x100000002000) 192) (fun bs s1 =>
       !s.waitsFor 1 [(loc (stepDescOf bs).slotMap, 8192)] &&
       okAnd (s1.unitRead 1 (xUnit 0 uAdmitter) (loc (stepDescOf bs).slotMap) 8192) (fun map s2 =>
         let slots := [(0, slotEntryOf (map.take 32))]
         (map.drop 32).all (fun x => x = 0) && (slotEntryOf (map.take 32)).valid &&
         (s2.badPool 1 (stepDescOf bs) slots).isNone && s.waitsFor 1 ([0, 1, 2, 3].flatMap
           (s2.newStep (entry .monsoon 0x100000002000) 1 (stepDescOf bs) slots).batchAreas))) = true) := by decide +kernel
theorem witness_images : Memory.wf (memWrite [] (winBase 0) [1, 2]) = true := by decide +kernel

/-! Core windows, the Barometer and checkpoints. -/
def offClock : State := svc.updMgmt fun m => { m with state := .haltRefused }
theorem witness_windows : svc.place 0x180000000000 = .core 0 0 ∧ jobless (.remote 7) = false ∧
    (stopping .saving).coreHeld ((stopping .saving).agentJob (.remote 7)) 0 = true ∧
    svc.coreHeld (svc.agentJob (.remote 7)) 0 = false ∧ svc.jobOwns (svc.agentJob (.remote 7)) 0x180000000000 8 = true ∧
    svc.jobOwns (svc.agentJob (.remote 6)) 0x180000000000 8 = false ∧ jobless .host = true ∧
    svc.moves = true ∧ svc.stewardBarred (.remote 7) 0x180000000000 8 = none ∧ svc.place (winBase 80) = .core 80 0 ∧
    svc.stewardBarred (.steward 0) (winBase 80) 8 = some 0 ∧ svc.coreHeld (svc.agentJob (.steward 0)) 80 = false ∧
    offClock.moves = false ∧
    okAnd (svc.readMem 7 0x180000000000 8) (fun _ _ => true) = true ∧
    okAnd (svc.writeMem 7 0x180000000000 (zeros 8)) (fun _ _ => true) = true := by decide +kernel
theorem witness_barometer : let s := ({ svc with partitions := [] } : State).updSeason fun z => { z with k0 := 20000000 }
    s.fw.up = true ∧ s.season.running = true ∧ s.baro.lastUpdate / 10000000 < (s.now : Int) / 10000000 ∧
    (s.partition 3).state = .absent := by decide +kernel
def dewStore9 : DewStore := ⟨9, 0, 0, 0, 4, 0, 0⟩
def dewed : State := { svc with ckpt := { svc.ckpt with dew := [(0, dewStore9)] } }
theorem witness_ckptSettings :
    runsAnd svc 0x60 ⟨.owner 24, [.service], [(24, 25)], some 24⟩ (command 0x60 [1, 50]) (fun v =>
      (v.partition 1).state = .active) = true ∧
    runsAnd svc 0x61 ⟨.owner 24, [.service], [(24, 24), (32, 39)], some 24⟩ (command 0x61 [1]) (fun v =>
      okAnd (v.readPblock (command 0x61 [1]) (some (zeros 16)) ((command 0x61 [1]).long 32) 16) fun _ v1 =>
        (v1.partition 1).state = .active && !v1.kernelBusy 1) = true ∧
    runsAnd svc 0x62 ⟨.manager, [.service, .quiesced], [(24, 27), (32, 47)], none⟩ (command 0x62 (leBytes 4 9)) (fun v =>
      (v.dewOf 9).isNone && v.ckpt.dew.length < 8) = true ∧
    runsAnd dewed 0x63 ⟨.manager, [.service, .quiesced], [(24, 27)], none⟩ (command 0x63 (leBytes 4 9)) (fun v =>
      v.dewOf 9 = some (0, dewStore9) && v.ckpt.running.isEmpty) = true ∧
    runsAnd svc 0x64 ⟨.manager, [.service, .quiesced], [(24, 28)], none⟩ (command 0x64 (leBytes 4 9 ++ [2])) (fun _ => true) = true ∧
    runsAnd svc 0x67 ⟨.anyone, [.service, .quiesced], [(24, 27)], none⟩ (command 0x67 (leBytes 4 9)) (fun _ => true) = true := by
  decide +kernel
/-- A manifest of job 7, generation 1, for 64 bytes at 0x1000. -/
def manifestBytes : Bytes := leBytes 4 7 ++ leBytes 4 1 ++ leBytes 8 1 ++ zeros 48 ++ leBytes 8 0x1000 ++ leBytes 8 64 ++ zeros 16
def ckptRun (restore : Bool) : CkptRun := ⟨command 0x65 [1, 2], restore, 2, 7, 1, zeros 4096, crc64 [], 0, false, manifestBytes, 0, []⟩
theorem witness_checkpoints :
    runsAnd svc 0x65 ⟨.owner 24, [.service], [(24, 25), (32, 47)], some 24⟩ (command 0x65 [1, 2]) (fun v =>
      okAnd (v.readManifest (command 0x65 [1, 2]) (some manifestBytes)) fun b v1 =>
        v1.ckptCheck (command 0x65 [1, 2]) (manifestOf b) true = none &&
        okAnd (v1.readRanges 1 (manifestOf b).ranges) fun _ _ => true) = true ∧
    runsAnd svc 0x66 ⟨.owner 24, [.service], [(24, 25), (32, 47)], some 24⟩ (command 0x66 [1, 2]) (fun v =>
      okAnd (v.readManifest (command 0x66 [1, 2]) (some manifestBytes)) fun b v1 =>
        v1.ckptCheck (command 0x66 [1, 2]) (manifestOf b) false = none && !v1.armedWork 1 &&
        okAnd (v1.storedImage (command 0x66 [1, 2]) (manifestOf b) [(0, some manifestBytes)]) fun x v2 =>
          v2.mismatch 1 (manifestOf b) (manifestOf x.1) = none) = true ∧
    (let s := { svc with ckpt := { svc.ckpt with running := [(1, ckptRun false)] } }
     Tab.get? s.ckpt.running 1 = some (ckptRun false)) ∧ (ckptRun false).left = 0 ∧ (ckptRun true).failed = false := by
  decide +kernel
/-- A Dew store of job 7, and a restore from it that waits for a shard. -/
def dewed7 : State := { svc with ckpt := { svc.ckpt with
  dew := [(0, { dewStore9 with job := 7, imageMax := 0x100000 })], running := [] } }
theorem witness_dewRestore :
    runsAnd dewed7 0x66 ⟨.owner 24, [.service], [(24, 25), (32, 47)], some 24⟩ (command 0x66 [1, 0]) (fun v =>
      okAnd (v.readManifest (command 0x66 [1, 0]) (some manifestBytes)) fun b v1 =>
        v1.ckptCheck (command 0x66 [1, 0]) (manifestOf b) false = none && !v1.armedWork 1 &&
        (v1.dewOf (manifestOf b).job).isSome) = true ∧
    svc.shardsOut 1 = 0 ∧ (xacting (xactOf .sent (.shard 1 3 0) 1)).shardsOut 1 ≠ 0 ∧ (ckptRun true).tier = 2 := by
  decide +kernel
theorem witness_restoreEnds : crc64 ((ckptRun true).image.drop 4096) = (ckptRun true).digest :=
  congrArg crc64 (List.drop_replicate.trans rfl)

/-! Channels, mailboxes, lock words, BAR2, attestation and boundary scan. -/
def hosted : State := svc.updMgmt fun m => { m with pcieClk := true }
def chan (f : Channel → Channel) : State := hosted.updChannel 0 f
def ringing : State := chan fun c => { c with control := 1 + 6 * 2 ^ 8 + 6 * 2 ^ 16, producer := 2, cplBase := 0x10000 }
theorem witness_channels : hosted.hostDrops = false ∧ (svc.channel 0).open_ = true ∧ ringing.mayFetch 0 = true ∧
    svc.mayFetch 0 = false ∧ (svc.channel 0).enabled = false ∧ (ringing.channel 0).enabled = true ∧
    sizesOk (1 + 6 * 2 ^ 8 + 6 * 2 ^ 16) = true ∧ sizesOk 1 = false := by decide +kernel
theorem witness_channelTimer : let s := chan fun c => { c with control := 1 + 6 * 2 ^ 8 + 6 * 2 ^ 16, stall := 70000000000000, producer := 1, fetched := [command 4 []] }
    s.chanCounts 0 = true ∧ (s.channel 0).timedOut = false ∧ (s.channel 0).timeout.toNat * 1000000 ≤ s.stalled 0 ∧
    svc.stalled 0 < (svc.channel 0).timeout.toNat * 1000000 := by decide +kernel
theorem test_doorbell_overrun : (match exec (.chDoorbell 0 65) ringing with
    | .next t => ((t.channel 0).producer, (t.channel 0).ringError)
    | _ => (0, false)) = (2, true) := by decide +kernel
theorem witness_resets : (svc.channel 0).draining = false ∧ (chan fun c => { c with draining := true }).uncompleted 0 = 0 ∧
    (let s := svc.updFw fun f => { f with up := false }
     s.starting = false ∧ s.fw.up = false ∧ s.fw.loaded = true ∧ s.mgmt.warmEntered = false ∧
     (s.channels.map (·.1)).Nodup) := by decide +kernel
def mailed : State := svc.updFw fun f => { f with mailboxes := [(3, [command 4 []])] }
def fetchedCmd : State := chan fun c => { c with control := 1, fetched := [command 4 []] }
theorem witness_services : svc.ckptKeys = [] ∧ svc.serviceIdle = true ∧ svc.readyKeys = [] ∧ mailed.readyKeys = [3] ∧
    Tab.get [] mailed.fw.mailboxes 3 = [command 4 []] ∧ fetchedCmd.readyKeys = [48] ∧
    (fetchedCmd.channel (48 - 48)).fetched = [command 4 []] ∧ svc.badReply (command 4 []) = false ∧
    (let s := svc.updFw fun f => { f with mailboxes := [(35, [command 4 []])] }
     s.ckptKeys = [35] ∧ (s.fw.mailboxes.map (·.1)).Nodup ∧ s.readyKeys = []) ∧
    (let s := svc.updFw fun f => { f with mailboxes := [(3, [command 4 []]), (35, [command 4 []])] }
     s.ckptKeys = [35] ∧ s.readyKeys = [3]) ∧
    (svc.updFw fun f => { f with taken := [command 4 []] }).serviceIdle = false ∧
    listedCommand (command 4 []).op = true ∧ listedCommand (command 0x7F []).op = false := by decide +kernel
theorem witness_posts : svc.mbxUp.testBit 0 = true ∧ svc.mbxUp.testBit 60 = false ∧
    (Tab.get [] svc.fw.mailboxes 0).length < 16 ∧ svc.owns 1 0x1000 64 = true ∧ svc.owns 1 0x100000000000 64 = false ∧
    (svc.updFw fun f => { f with mailboxes := [(0, List.replicate 16 (command 4 []))] }).fw.mailboxes.length = 1 ∧
    okAnd (svc.peek 1 0x1000 64) (fun _ v => v.fw = svc.fw) = true := by decide +kernel
def locked : State := svc.updFw fun f => { f with locks := [(5, (0, 0))] }
theorem witness_locks : hosted.hostOnes .host = false ∧ hosted.dropsOf .host = false ∧ svc.lockParty .host = some (0, 0) ∧
    Tab.get? svc.fw.locks 5 = none ∧ Tab.get? locked.fw.locks 5 = some (0, 0) ∧
    svc.lockParty (.steward 0) = some (BitVec.ofNat 16 (stewardSender 0), 1) ∧
    (5 : BitVec 32) ≠ (0 : BitVec 16).setWidth 32 := by decide +kernel
theorem witness_hostWindow : hosted.mgmt.state ≠ .off ∧ hosted.mgmt.state ≠ .warmStart ∧ hosted.mgmt.pcieClk = true ∧
    hosted.bootsFromHost = false ∧ hosted.unmappedIn 0x1000 8 = false ∧
    (((hosted.updMgmt fun m => { m with state := .coldStart, step := 3, straps := 0x10 }).bootsFromHost) = true ∨
      ((hosted.updMgmt fun m => { m with state := .coldStart, step := 3, straps := 0x01 }).bootsFromHost) = true ∨
      ((hosted.updMgmt fun m => { m with state := .coldStart, step := 2, straps := 0x10 }).bootsFromHost) = true) ∧
    (hosted.updFw fun f => { f with windowBase := 0x300000000000 }).unmappedIn 0x300000000000 8 = true ∧
    (∃ bs v, hosted.readUpTo 0 0x1000 8 = (bs, none, v)) := by
  refine ⟨by decide +kernel, by decide +kernel, by decide +kernel, by decide +kernel, by decide +kernel, by decide +kernel,
    by decide +kernel, ⟨_, _, rfl⟩⟩
theorem witness_attestation : hosted.fw.up = true ∧ (hosted.updFw fun f => { f with up := false }).starting = false ∧
    svc.mgmt.standby = true := by decide +kernel
theorem witness_trips : (let s := (svc.updMgmt fun m => { m with coldRst := false, state := .off })
     s.mgmt.standby = true ∧ s.mgmt.pwrok = true ∧ s.mgmt.coldRst = false ∧ s.mgmt.thermLatch = false) ∧
    (let s := (svc.updMgmt fun m => { m with thermLatch := true })
     s.mgmt.standby = true ∧ s.mgmt.pwrok = true ∧ s.mgmt.thermLatch = true) ∧
    (svc.updMgmt fun m => { m with pwrok := false }).mgmt.pwrok = false := by decide +kernel
theorem test_idcode : (match exec .idcode svc with
    | .next t => t.tap.out
    | _ => 0) = 0x10040B3B := by decide +kernel

/-! Power, heat, starts and registers. -/
theorem witness_power : (0 : BitVec 16).toNat < 420 ∧ svc.mgmt.standby = true ∧ svc.power.started = true ∧
    svc.moves = true ∧ svc.mgmt.mainRails = true ∧ Tab.get? svc.power.droopAt 3 ≠ some (svc.time / 1000) ∧
    Tab.get? ({ svc with power := { svc.power with droopAt := [(3, svc.time / 1000)] } } : State).power.droopAt 3 =
      some (svc.time / 1000) := by decide +kernel
theorem witness_averages : svc.power.averages 100 0 = true ∧ svc.power.averages 1000000 5 = true ∧
    ({ svc.power with samples := [5000, 7000] } : Power).averages 100 6000 = true ∧
    ({ svc.power with samples := [5000, 7000] } : Power).averages 100 6001 = false := by decide +kernel
/-- Averages above the cap for 9 ms, those at the cap, and those that let the step rise. -/
def limited (excess hold : Nat) (w : List Nat) : State := { svc with
  power := { svc.power with samples := w, overUs := excess, fastHold := hold, n := 12 } }
theorem witness_powerEval : (limited 0 0 [5900]).powerCap = 6000 ∧ (limited 0 0 [5900]).power.averages 100 5900 = true ∧
    5900 + 50 ≤ 6000 ∧ 5900 + 100 ≤ 6000 ∧ (limited 8900 0 [6001]).power.averages 100 6001 = true ∧ 9000 ≤ 8900 + 100 ∧
    (limited 0 3 [5900]).power.fastHold ≠ 0 ∧ State.reset.power.started = false := by decide +kernel
theorem test_power_eval : (match exec (.powerStepEval 5900 5900) (limited 0 0 [5900]),
      exec (.powerStepEval 5900 5900) (limited 0 3 [5900]), exec (.powerStepEval 6001 6001) (limited 8900 0 [6001]),
      exec (.powerStepEval 5901 5901) (limited 0 0 [5901]) with
    | .next a, .next b, .next c, .next d => (a.power.n, b.power.n, c.power.n, d.power.n)
    | _, _, _, _ => (0, 0, 0, 0)) = (13, 12, 11, 12) := by decide +kernel
theorem test_power_cut : (match exec (.powerSample 7001) svc, exec (.powerSample 7000) svc with
    | .next t, .next u => (t.power.n, t.power.fastHold, u.power.n)
    | _, _ => (0, 0, 0)) = (8, 1000, svc.power.n) := by decide +kernel
def offState : State := svc.updMgmt fun m => { m with state := .off, coldRst := false, standby := true, pwrok := true }
theorem witness_refclkHalted : offClock.mgmt.state = .haltRefused ∧ offState.mgmt.state = .off := by decide +kernel
theorem witness_offAndCold : svc.mgmt.standby = true ∧ State.reset.mgmt.standby = false ∧ offState.mgmt.standby = true ∧
    offState.mgmt.coldRst = false ∧ offState.mgmt.pwrok = true ∧ offState.hotUnit = none ∧ offState.mgmt.state = .off ∧
    svc.mgmt.state = .service := by decide +kernel
theorem witness_hotStart :
    ({ offState with power := { offState.power with temps := [(3, 420)] } } : State).hotUnit = some 3 ∧
    (offState.updStack 5 fun x => { x with sensor := 420 }).hotUnit = some 0x85 := by decide +kernel
theorem witness_mgmtWrites : (coldAt 7).mgmt.step < 8 ∧ (coldAt 8).mgmt.state = .coldStart ∧ 8 ≤ (coldAt 8).mgmt.step ∧
    (coldAt 7).mgmt.standby = true := by decide +kernel
theorem test_late_tray : (match exec (.pkgMgmtTray 0x8001) (coldAt 7), exec (.pkgMgmtTray 0x8001) (coldAt 8) with
    | .next t, .next u => (t.mgmt.tray, u.mgmt.tray)
    | _, _ => (0, 1)) = (0x8001, 0) := by decide +kernel
theorem test_tray_reserved_bits : (match exec (.pkgMgmtTray 0xFFFFFFFF) offState with
    | .next t => t.mgmt.tray
    | _ => 0) = 0x87FF := by decide +kernel
def warm : State := quietSvc.updMgmt fun m => { m with
  warmEntered := true, warm := { m.warm with valid := true }, refclk0 := true, refclk1 := true }
theorem witness_warm : quietSvc.mgmt.state = .quiesced ∧ quietSvc.mgmt.warmEntered = false ∧ quietSvc.mgmt.standby = true ∧
    quietSvc.mgmt.pwrok = true ∧ quietSvc.mgmt.coldRst = true ∧ svc.mgmt.state ≠ .quiesced ∧
    warm.mgmt.warmEntered = true ∧ warm.mgmt.state = .quiesced ∧ warm.mgmt.warm.valid = true ∧
    warm.mgmt.warmNoSpare = none ∧ svc.mgmt.warmEntered = false := by decide +kernel
theorem witness_startSteps : (coldAt 1).mgmt.state = .coldStart ∧ (coldAt 1).mgmt.step = 1 ∧ (coldAt 5).mgmt.step = 5 ∧
    (let s := ({ coldAt 9 with ports := (List.range 56).map fun n => (n, { svc.port n with state := .up }) } : State).updSeason fun z => { z with state := .locked, countSync := true }
     s.season.state = .locked ∧ s.portsUp = true ∧ s.dieOk = BitVec.allOnes 40 ∧ s.starting = true) ∧
    ((coldAt 8).starting = true ∧ (coldAt 8).fabric.sysDim.getLsbD 31 = false) ∧
    (let s := { coldAt 8 with time := 2000000000000 }
     s.trayValid = false ∧ s.inStepFor 120000000000 = true) ∧
    (let s := { coldAt 9 with time := 2000000000000 }
     s.season.state ≠ .locked ∧ s.inStepFor 30000000000 = true) := by decide +kernel
/-- An image with no body, signed with a fused key. SHA-384 of no bytes is that of FIPS 180-4's examples. -/
def emptyDigest : Bytes := [0x38, 0xb0, 0x60, 0xa7, 0x51, 0xac, 0x96, 0x38, 0x4c, 0xd9, 0x32, 0x7e, 0xb1, 0xb1, 0xe3, 0x6a, 0x21,
  0xfd, 0xb7, 0x11, 0x14, 0xbe, 0x07, 0x43, 0x4c, 0x0c, 0xc7, 0xbf, 0x63, 0xf6, 0xe1, 0xda, 0x27, 0x4e, 0xde, 0xbf, 0xe7, 0x6f,
  0x65, 0xfb, 0xd5, 0x1a, 0xd2, 0xf1, 0x48, 0x98, 0xb9, 0x5b]
theorem test_sha384_empty : sha384 [] = emptyDigest := by decide +kernel
/-- A P-384 key, and signatures of the heads with SVN 9 and SVN 4 under it, worked out apart from the model. -/
def testKey : Bytes := 4 :: beBytes 48
    0xd5136d1655c65b914e665c9ed35e4e01d1d8da847736957a6a751ea4cf2f80a1380f08c2ae239bc498d1b1bb3fba744f ++ beBytes 48
    0xe746b1ce69a33ebe8e8a90604f1b2804397cf0410fed1beb08a12e00f8e7f3ec07a6774569844826d0370826f7f1f9f
def sig9 : Bytes := beBytes 48
    0x7c300149c7ccc12dbd372c9ae3ef369fe46d68c48dbdc16ab5677b43f1d32cb5247b21384372f4fed4948424923ce4ab ++ beBytes 48
    0xfcfcf6a4baad7bacfda567f052eff5c0d9019fb848cd7b337432dd951b6ee3c27d233694ed00bdaefa24593d824bfdf9
def sig4 : Bytes := beBytes 48
    0x94a1db339833b23fbe3cb84342a48938674f47d989a43345ed788f5b51d1d1739c97189dca53fbd60284cb41e504627a ++ beBytes 48
    0x69f9a8f549fd391dc67130ee7c6e1e3216684fac1b4e80a9531f169eb01594eb83b713e0aee46fca8de97bff4129c495
def image (svn : Nat) (sig : Bytes) : BootImage :=
  ⟨leBytes 4 0x464C4E41 ++ leBytes 4 svn ++ leBytes 8 0 ++ emptyDigest ++ testKey ++ zeros 31 ++ sig ++ zeros 3808⟩
def fused : Mgmt := { (coldAt 3).mgmt with keyHashes := [[], sha384 testKey, [], []], minSvn := 5 }
def verdict (r : Except (Byte × Nat) Nat) : Nat := match r with
  | .ok slot => slot
  | .error (code, detail) => 256 * code.toNat + detail
/-- Steps 6, 7 and 8 of a cold start: repairs, ports that are all UP, and a tray ID inside the dimensions. -/
def linked (step : Nat) : State := { coldAt step with
  ports := (List.range 56).map fun n => (n, { svc.port n with state := .up }) }
theorem witness_laterSteps : (coldAt 6).mgmt.step = 6 ∧ (linked 7).portsTrained = true ∧ (coldAt 7).portsTrained = false ∧
    (linked 7).mismatched = none ∧
    ((linked 7).updPort 3 fun p => { p with state := .mismatch }).mismatched = some 3 ∧
    ((linked 7).updPort 3 fun p => { p with state := .mismatch }).portsTrained = true := by decide +kernel
theorem test_memory_test : (match exec (.startStepEnd (.memTest [(2, 5, 9)] none)) (coldAt 6),
      exec (.startStepEnd (.memTest [] (some 7))) (coldAt 6) with
    | .next t, .next u => (t.mgmt.step, (t.stack 2).hardUsed, (t.stack 2).sparesLeft, u.mgmt.causeCode, u.mgmt.causeDetail)
    | _, _ => (0, 0, 0, 0, 0)) = (7, 5, 9, 6, 7) := by decide +kernel
theorem test_warm_training : (match exec (.startStepEnd .ok) ((coldAt 5).updMgmt fun m => { m with
      state := .warmStart, warm := { m.warm with valid := true, training := [(3, 77)] } }) with
    | .next t => (t.mgmt.step, t.mgmt.warm.valid, (t.stack 3).training)
    | _ => (0, true, 0)) = (6, false, 77) := by decide +kernel
theorem witness_authentication : verdict (fused.authenticate (image 9 sig9)) = 1 := by decide +kernel
theorem test_low_svn : verdict (fused.authenticate (image 4 sig4)) = 0x304 := by decide +kernel
theorem test_wrong_signature : verdict (fused.authenticate (image 9 sig4)) = 0x202 ∧
    verdict (({ fused with revoked := 2 } : Mgmt).authenticate (image 9 sig9)) = 0x201 := by decide +kernel
/-- Boot Partition 0 is refused and Boot Partition 1 is still to be read; then it is refused too. -/
theorem test_second_image : (match exec (.startStepEnd (.auth ⟨[]⟩ none)) { coldAt 3 with mgmt := fused },
      exec (.startStepEnd (.auth ⟨[]⟩ (some ⟨[]⟩))) { coldAt 3 with mgmt := fused } with
    | .next t, .next u => ((coldAt 3).bootSel, t.mgmt.state, u.mgmt.state, u.mgmt.causeCode, u.mgmt.causeDetail)
    | _, _ => (9, .off, .off, 0, 0)) = (0, .coldStart, .haltRefused, 2, 1) := by decide +kernel
theorem test_step_four_die : (match exec (.startStepEnd (.bist [6] [])) (coldAt 4) with
    | .next t => (t.mgmt.state, t.mgmt.causeCode, t.dieFail)
    | _ => (.off, 0, 0)) = (.haltRefused, 1, 0x40) := by decide +kernel
theorem witness_registers : hosted.mgmt.state = .service ∧ hosted.mgmt.pcieClk = true ∧ 5 < 2 ^ 48 ∧
    hosted.hostDrops = false ∧ (svc.channel 0).enabled = false ∧ (ringing.channel 0).enabled = true ∧
    svc.stewardPart 0 = some 1 := by decide +kernel
theorem witness_csrs : svc.stewardPart 5 = none ∧ (0x800 : BitVec 12).toNat < 0x900 ∧ 0x810 ≤ (0x8FF : BitVec 12).toNat := by
  decide +kernel
theorem test_read_clears : (match exec (.rcRead .host (.ctrl 0x501120) 3) (hosted.updPort 1 fun p => { p with fecCorrected := 9 }) with
    | .next t => ((t.port 1).fecCorrected, t.out)
    | _ => (0, [])) = (3, [.answer .host (some 9)]) := by decide +kernel
theorem test_status_w1c : (match exec (.w1cWrite .host (.chan 0 0x18) 0x20) (chan fun c => { c with
      ringError := true, noticeLost := true }) with
    | .next t => ((t.channel 0).ringError, (t.channel 0).noticeLost)
    | _ => (true, false)) = (false, true) := by decide +kernel


end Sys2Proof.Tests
end

/-! Proofs about the mailbox and firmware interface (16 R528 to R531, R548, R549): a host channel's CH_CONTROL, and
the lock words. -/

namespace Sys2Proof.Machine

section ChannelControl

/-! ## What firmware's work on a channel's completion ring leaves alone

Notices that go out, timers and interrupts change neither memory, nor another channel, nor what the host wrote in the
control register and the doorbell, nor the commands that were fetched. -/

/-- The fields of a channel that its notices, its timer and its interrupts do not touch. -/
def Channel.SameRing (c d : Channel) : Prop :=
  d.control = c.control ∧ d.producer = c.producer ∧ d.fetched = c.fetched

/-- From `s` to `t` the memory and every channel but `n` stay, and channel `n` keeps `SameRing`'s fields. -/
structure SameRings (n : Nat) (s t : State) : Prop where
  mem : t.mem = s.mem
  others : ∀ m, m ≠ n → t.channel m = s.channel m
  self : (s.channel n).SameRing (t.channel n)

theorem SameRings.refl (n : Nat) (s : State) : SameRings n s s := ⟨rfl, fun _ _ => rfl, rfl, rfl, rfl⟩

theorem SameRings.trans {n : Nat} {s t u : State} (h : SameRings n s t) (k : SameRings n t u) : SameRings n s u where
  mem := k.mem.trans h.mem
  others m hm := (k.others m hm).trans (h.others m hm)
  self := by
    obtain ⟨hc, hp, hf⟩ := h.self
    obtain ⟨kc, kp, kf⟩ := k.self
    exact ⟨kc.trans hc, kp.trans hp, kf.trans hf⟩

theorem SameRings.emit (n : Nat) (s : State) (m : OutMsg) : SameRings n s (s.emit m) :=
  ⟨rfl, fun _ _ => rfl, rfl, rfl, rfl⟩

theorem SameRings.updChannel (n : Nat) (s : State) (f : Channel → Channel)
    (hf : (s.channel n).SameRing (f (s.channel n))) : SameRings n s (s.updChannel n f) where
  mem := rfl
  others m hm := State.updChannel_channel_ne s n f m hm
  self := by rwa [State.updChannel_channel_self]

theorem SameRings.hostWrite (n : Nat) (s : State) (a : Word) (bs : Bytes) : SameRings n s (s.hostWrite n a bs) := by
  unfold State.hostWrite
  split
  · exact .emit n s _
  · exact .refl n s

theorem SameRings.signalCpl (n : Nat) (s : State) : SameRings n s (s.signalCpl n) := by
  simp only [State.signalCpl]
  split
  · exact .emit n s _
  · exact .refl n s

theorem SameRings.signalErr (n : Nat) (s : State) : SameRings n s (s.signalErr n) := by
  simp only [State.signalErr]
  split
  · exact .emit n s _
  · exact .refl n s

theorem SameRings.retime (n : Nat) (s : State) : SameRings n s (s.retime n) := by
  unfold State.retime
  exact .updChannel n s _ ⟨rfl, rfl, rfl⟩

theorem SameRings.writeNotice (n : Nat) (s : State) (x : Notice) : SameRings n s (s.writeNotice n x) := by
  refine .trans (.trans (.trans ?_ (.hostWrite n _ _ _)) (.updChannel n _ _ ⟨rfl, rfl, rfl⟩)) (.signalCpl n _)
  exact List.foldlRecOn (motive := SameRings n s) _ _ (.refl n s) fun t h i _ => h.trans (.hostWrite n t _ _)

theorem SameRings.flushNotices (n k : Nat) (s : State) : SameRings n s (s.flushNotices n k) := by
  induction k generalizing s with
  | zero => exact .refl n s
  | succ k ih =>
    simp only [State.flushNotices]
    split
    · exact .refl n s
    · split
      · exact .refl n s
      · exact .trans (.trans (.updChannel n s _ ⟨rfl, rfl, rfl⟩) (.writeNotice n _ _)) (ih _)

theorem SameRings.afterRoom (n : Nat) (s : State) : SameRings n s (s.afterRoom n) :=
  .trans (.flushNotices n 33 s) (.retime n _)

theorem SameRings.ringError (n : Nat) (s : State) : SameRings n s (s.ringError n) :=
  .trans (.updChannel n s _ ⟨rfl, rfl, rfl⟩) (.signalErr n _)

@[simp] theorem State.signalErr_channel (s : State) (n m : Nat) : (s.signalErr n).channel m = s.channel m := by
  simp only [State.signalErr]
  split <;> rfl

@[simp] theorem State.ringError_channel_self (s : State) (n : Nat) :
    (s.ringError n).channel n = { s.channel n with ringError := true } := by
  simp [State.ringError]

/-! ## CH_CONTROL (16 R529) -/

/-- What CH_CONTROL holds after a write of `w`. -/
def Channel.controlAfter (c : Channel) (w : Word) : Word :=
  if c.enabled then
    if w.getLsbD 0 then c.control else c.control &&& 0xFFFF00
  else if w.getLsbD 0 ∧ sizesOk w = true then w &&& 0xFFFF01 else w &&& 0xFFFF00

/-- The mask of the two sizes clears ENABLE. -/
theorem getLsbD_zero_and_sizeMask (w : Word) : (w &&& 0xFFFF00).getLsbD 0 = false := by simp

theorem Channel.controlAfter_clear (c : Channel) (w : Word) (hw : w.getLsbD 0 = false) :
    (c.controlAfter w).getLsbD 0 = false := by
  simp only [Channel.controlAfter, hw, Bool.false_eq_true, false_and, if_false]
  split <;> exact getLsbD_zero_and_sizeMask _

/-! The five writes that R529 tells apart, at an open channel that the host reaches. -/

section
variable {s : State} {n : Nat} {w : Word}

theorem State.chControl_kept (ho : (s.channel n).open_ = true) (hd : s.hostDrops = false)
    (he : (s.channel n).enabled = true) (hw : w.getLsbD 0 = true) : s.chControl n w = s := by
  simp only [State.chControl, ho, hd, he, hw, Bool.not_true, Bool.false_eq_true, or_self, if_false, if_true]

theorem State.chControl_stopped (ho : (s.channel n).open_ = true) (hd : s.hostDrops = false)
    (he : (s.channel n).enabled = true) (hw : w.getLsbD 0 = false) :
    s.chControl n w = (s.updChannel n fun c => { c with control := c.control &&& 0xFFFF00 }).retime n := by
  simp only [State.chControl, ho, hd, he, hw, Bool.not_true, Bool.false_eq_true, or_self, if_false, if_true]

theorem State.chControl_sized (ho : (s.channel n).open_ = true) (hd : s.hostDrops = false)
    (he : (s.channel n).enabled = false) (hw : w.getLsbD 0 = false) :
    s.chControl n w = (s.updChannel n fun c => { c with control := w &&& 0xFFFF00 }).retime n := by
  simp only [State.chControl, ho, hd, he, hw, Bool.not_true, Bool.not_false, Bool.false_eq_true, or_self, if_false,
    if_true]

theorem State.chControl_started (ho : (s.channel n).open_ = true) (hd : s.hostDrops = false)
    (he : (s.channel n).enabled = false) (hw : w.getLsbD 0 = true) (hs : sizesOk w = true) :
    s.chControl n w = (s.updChannel n fun c => { c with control := w &&& 0xFFFF01 }).afterRoom n := by
  simp only [State.chControl, ho, hd, he, hw, hs, Bool.not_true, Bool.false_eq_true, or_self, if_false, if_true]

theorem State.chControl_refused (ho : (s.channel n).open_ = true) (hd : s.hostDrops = false)
    (he : (s.channel n).enabled = false) (hw : w.getLsbD 0 = true) (hs : sizesOk w = false) :
    s.chControl n w = (s.updChannel n fun c => { c with control := w &&& 0xFFFF00 }).ringError n := by
  simp only [State.chControl, ho, hd, he, hw, hs, Bool.not_true, Bool.false_eq_true, or_self, if_false]

/-- A write of CH_CONTROL of an open channel sets the register as `controlAfter` says, and beyond that does only what
leaves the rings alone. -/
theorem State.chControl_sameRings (w : Word) (ho : (s.channel n).open_ = true) (hd : s.hostDrops = false) :
    SameRings n (s.updChannel n fun c => { c with control := (s.channel n).controlAfter w }) (s.chControl n w) := by
  unfold Channel.controlAfter
  split
  next he =>
    split
    next hw =>
      rw [State.chControl_kept ho hd he hw]
      refine ⟨rfl, fun m hm => (State.updChannel_channel_ne s n _ m hm).symm, ?_⟩
      simp only [Channel.SameRing, State.updChannel_channel_self, and_self]
    next hw =>
      rw [State.chControl_stopped ho hd he (Bool.eq_false_of_not_eq_true hw)]
      exact .retime n _
  next he =>
    have he := Bool.eq_false_of_not_eq_true he
    split
    next hw =>
      rw [State.chControl_started ho hd he hw.1 hw.2]
      exact .afterRoom n _
    next hw =>
      cases hb : w.getLsbD 0
      · rw [State.chControl_sized ho hd he hb]
        exact .retime n _
      · rw [State.chControl_refused ho hd he hb (Bool.eq_false_of_not_eq_true fun hs => hw ⟨hb, hs⟩)]
        exact .ringError n _

end

theorem State.mayFetch_of_disabled (s : State) (n : Nat) (h : (s.channel n).enabled = false) : s.mayFetch n = false := by
  simp [State.mayFetch, h]

/-- CH_CMD_BASE and CH_CPL_BASE keep their values while ENABLE is 1 (16 R529). -/
theorem State.pageWrite_base_enabled (s : State) (n off : Nat) (v : Word) (hoff : off = 0x30 ∨ off = 0x38)
    (he : (s.channel n).enabled = true) : s.pageWrite n off v = s := by
  rcases hoff with rfl | rfl <;> simp [State.pageWrite, he]

theorem exec_chControlEnable (n : ChanId) (w : Word) (s : State) :
    exec (.chControlEnable n w) s = .next (s.chControl n.val w) := rfl

theorem exec_registerWrite_host_chan (n : ChanId) (off : BitVec 12) (v : Word) (s : State) :
    exec (.registerWrite .host (.chan n off) v) s = .next (s.pageWrite n.val off.toNat v) := rfl

end ChannelControl

section LockWords

/-! ## Lock words (16 R548, R549) -/

theorem State.lockRead_free (s : State) (w : Nat) (o : BitVec 16) (p : Nat) (h : Tab.get? s.fw.locks w = none) :
    s.lockRead w o p = (0, s.updFw fun f => { f with locks := Tab.put f.locks w (o, p) }) := by
  simp [State.lockRead, h]

theorem State.lockRead_own (s : State) (w : Nat) (o : BitVec 16) (p : Nat) (h : Tab.get? s.fw.locks w = some (o, p)) :
    s.lockRead w o p = (0, s) := by
  simp [State.lockRead, h]

theorem State.lockRead_other (s : State) (w : Nat) (o o' : BitVec 16) (p q : Nat)
    (h : Tab.get? s.fw.locks w = some (o', q)) (hne : ¬ (o' = o ∧ q = p)) :
    s.lockRead w o p = (0x80000000 ||| o'.setWidth 32, s) := by
  simp only [State.lockRead, h, if_neg hne]

theorem State.lockWrite_free (s : State) (w : Nat) (o : BitVec 16) (p : Nat) (v : BitVec 32)
    (h : Tab.get? s.fw.locks w = none) : s.lockWrite w o p v = s := by
  simp only [State.lockWrite, h]

theorem State.lockWrite_own (s : State) (w : Nat) (o : BitVec 16) (p : Nat)
    (h : Tab.get? s.fw.locks w = some (o, p)) :
    s.lockWrite w o p (o.setWidth 32) = s.updFw fun f => { f with locks := Tab.del f.locks w } := by
  simp [State.lockWrite, h]

/-- A write by another party than the owner, or of another value than the owner's SENDER_ID, frees nothing. -/
theorem State.lockWrite_kept (s : State) (w : Nat) (o o' : BitVec 16) (p q : Nat) (v : BitVec 32)
    (h : Tab.get? s.fw.locks w = some (o', q)) (hne : ¬ (o' = o ∧ q = p ∧ v = o.setWidth 32)) :
    s.lockWrite w o p v = s := by
  simp only [State.lockWrite, h, if_neg hne]

theorem exec_lockAcquire (a : Agent) (w : Fin 256) (s : State) (o : BitVec 16) (p : Nat) (h1 : s.hostOnes a = false)
    (hd : s.dropsOf a = false) (hp : s.lockParty a = some (o, p)) :
    exec (.lockAcquire a w) s =
      .next ((s.lockRead w.val o p).2.emit (.answer a (some ((s.lockRead w.val o p).1.setWidth 64)))) := by
  simp [exec, execLockAcquire, State.lockAcquire, h1, hd, hp]

theorem exec_lockRelease (a : Agent) (w : Fin 256) (v : BitVec 32) (s : State) (o : BitVec 16) (p : Nat)
    (hd : s.dropsOf a = false) (hp : s.lockParty a = some (o, p)) :
    exec (.lockRelease a w v) s = .next (s.lockWrite w.val o p v) := by
  simp [exec, execLockRelease, State.lockRelease, hd, hp]

end LockWords

/-! ## The obligations -/

/-- Settles O51: the write is a change of the control register followed by what leaves the rings alone. -/
theorem channelControlIsTaken : Obligations.ChannelControlIsTaken := by
  intro n s w hd ho
  have hring := State.chControl_sameRings w ho hd
  obtain ⟨hcontrol, hproducer, hfetched⟩ := hring.self
  rw [State.updChannel_channel_self] at hcontrol hproducer hfetched
  refine ⟨⟨_, exec_chControlEnable n w s, hring.mem, ?others, hproducer, hfetched, hcontrol, ?refused, ?stopped⟩, ?bases⟩
  case others =>
    intro m hm
    rw [hring.others m hm, State.updChannel_channel_ne _ _ _ _ hm]
  case refused =>
    intro he hw hs
    rw [State.chControl_refused ho hd he hw hs]
    simp [Channel.enabled]
  case stopped =>
    intro hw
    refine State.mayFetch_of_disabled _ _ ?_
    rw [Channel.enabled, hcontrol]
    exact Channel.controlAfter_clear _ w hw
  case bases =>
    intro he v
    simp only [exec_registerWrite_host_chan]
    exact ⟨congrArg _ (s.pageWrite_base_enabled n.val _ v (.inl rfl) he),
      congrArg _ (s.pageWrite_base_enabled n.val _ v (.inr rfl) he)⟩

/-- Settles O54: by the cases of the word's owner: none, the party itself, another. -/
theorem lockWordsHaveOneOwner : Obligations.LockWordsHaveOneOwner := by
  intro a w s o p h1 hd hp
  have hread := exec_lockAcquire a w s o p h1 hd hp
  have hwrite v := exec_lockRelease a w v s o p hd hp
  refine ⟨?acquired, ?own, ?other, ?free⟩
  case acquired =>
    intro hfree
    rw [s.lockRead_free w.val o p hfree] at hread
    refine ⟨_, hread, ?_, rfl, rfl, fun x hx => ?_⟩
    · exact Tab.get?_put_self _ _ _
    · exact Tab.get?_put_ne _ _ _ _ hx
  case own =>
    intro hown
    rw [s.lockRead_own w.val o p hown] at hread
    refine ⟨hread, fun v hv => ?_, ?_⟩
    · rw [hwrite, s.lockWrite_kept w.val o o p p v hown fun h => hv h.2.2]
    · rw [hwrite, s.lockWrite_own w.val o p hown]
  case other =>
    intro o' q hother hne
    have hne : ¬ (o' = o ∧ q = p) := of_eq_false hne
    rw [s.lockRead_other w.val o o' p q hother hne] at hread
    refine ⟨hread, fun v => ?_⟩
    rw [hwrite, s.lockWrite_kept w.val o o' p q v hother fun h => hne ⟨h.1, h.2.1⟩]
  case free =>
    intro hfree v
    rw [hwrite, s.lockWrite_free w.val o p v hfree]

end Sys2Proof.Machine

/-! ## What every command keeps (O4, O6, O7)

`Keeps s0 s` (Laws) says that state `s` follows state `s0` by operations of commands. Each operation of the model has
one lemma here: from a state that follows `s0` it leads to a state that follows `s0`. So the proofs follow the
operations' own definitions, and `exec_completes` reads them off for each command. -/

section WhatEveryCommandKeeps

namespace Sys2Proof.Machine

open Sys2Proof

variable {s0 s : State}

theorem Keeps.ite {c : Prop} [Decidable c] {t u : State} (ht : Keeps s0 t) (hu : Keeps s0 u) :
    Keeps s0 (if c then t else u) := by
  split
  · exact ht
  · exact hu

/-- The state that an operation answers, if it answers one, follows `s0`. -/
def KeepsOk {ε : Type} (s0 : State) (o : Except ε State) : Prop := ∀ t, o = .ok t → Keeps s0 t

theorem KeepsOk.ok {ε : Type} (h : Keeps s0 s) : KeepsOk s0 (.ok s : Except ε State) := fun _ e =>
  Except.ok.inj e ▸ h

theorem KeepsOk.error {ε : Type} {f : ε} : KeepsOk s0 (.error f) := fun _ e => nomatch e

theorem KeepsOk.ite {ε : Type} {c : Prop} [Decidable c] {o o' : Except ε State} (h : KeepsOk s0 o)
    (h' : KeepsOk s0 o') : KeepsOk s0 (if c then o else o') := by
  split
  · exact h
  · exact h'

/-- The state of an operation that may not apply follows `s0`. -/
def KeepsSome (s0 : State) (o : Option State) : Prop := ∀ t, o = some t → Keeps s0 t

theorem KeepsSome.some (h : Keeps s0 s) : KeepsSome s0 (some s) := fun _ e => Option.some.inj e ▸ h

theorem KeepsSome.none : KeepsSome s0 none := fun _ e => nomatch e

theorem KeepsSome.ite {c : Prop} [Decidable c] {o o' : Option State} (h : KeepsSome s0 o) (h' : KeepsSome s0 o') :
    KeepsSome s0 (if c then o else o') := by
  split
  · exact h
  · exact h'

theorem KeepsSome.getD {o : Option State} {d : State} (h : KeepsSome s0 o) (hd : Keeps s0 d) : Keeps s0 (o.getD d) := by
  cases o with
  | none => exact hd
  | some t => exact h t rfl

theorem KeepsSome.findSome {α : Type} {f : α → Option State} {l : List α} (hf : ∀ a, KeepsSome s0 (f a)) :
    KeepsSome s0 (l.findSome? f) := fun t e =>
  have ⟨a, _, ha⟩ := List.exists_of_findSome?_eq_some e
  hf a t ha

/-- A command answers a next state, and that state follows `s0`. -/
def Completes (s0 : State) (o : Host.Outcome State Fault Refusal) : Prop := ∃ t, o = .next t ∧ Keeps s0 t

theorem Completes.next (h : Keeps s0 s) : Completes s0 (.next s) := ⟨s, rfl, h⟩

theorem Keeps.setCore {c : ℕ} {k : Core} (h : Keeps s0 s) : Keeps s0 (s.setCore c k) := by
  unfold State.setCore
  exact h.mkSet le_rfl

theorem Keeps.updCore {c : ℕ} {f : Core → Core} (h : Keeps s0 s) : Keeps s0 (s.updCore c f) := by
  unfold State.updCore
  exact h.setCore

theorem Keeps.setPartition {p : ℕ} {x : Partition} (h : Keeps s0 s) : Keeps s0 (s.setPartition p x) := by
  unfold State.setPartition
  exact h.mkSet le_rfl

theorem Keeps.updPartition {p : ℕ} {f : Partition → Partition} (h : Keeps s0 s) : Keeps s0 (s.updPartition p f) := by
  unfold State.updPartition
  exact h.setPartition

theorem Keeps.updSteward {k : ℕ} {f : Steward → Steward} (h : Keeps s0 s) : Keeps s0 (s.updSteward k f) := by
  unfold State.updSteward
  exact h.mkSet le_rfl

theorem Keeps.updXdie {x : ℕ} {f : XDieState → XDieState} (h : Keeps s0 s) : Keeps s0 (s.updXdie x f) := by
  unfold State.updXdie
  exact h.mkSet le_rfl

theorem Keeps.updHub {m : ℕ} {f : HubState → HubState} (h : Keeps s0 s) : Keeps s0 (s.updHub m f) := by
  unfold State.updHub
  exact h.mkSet le_rfl

theorem Keeps.updStack {i : ℕ} {f : StackState → StackState} (h : Keeps s0 s) : Keeps s0 (s.updStack i f) := by
  unfold State.updStack
  exact h.mkSet le_rfl

theorem Keeps.updPort {n : ℕ} {f : Port → Port} (h : Keeps s0 s) : Keeps s0 (s.updPort n f) := by
  unfold State.updPort
  exact h.mkSet le_rfl

theorem Keeps.updChannel {n : ℕ} {f : Channel → Channel} (h : Keeps s0 s) : Keeps s0 (s.updChannel n f) := by
  unfold State.updChannel
  exact h.mkSet le_rfl

theorem Keeps.updStep {sl : ℕ} {f : Step → Step} (h : Keeps s0 s) : Keeps s0 (s.updStep sl f) := by
  unfold State.updStep
  split
  · exact h.mkSet le_rfl
  · exact h

theorem Keeps.updFc {i : ℕ} {f : Fc → Fc} (h : Keeps s0 s) : Keeps s0 (s.updFc i f) := by
  unfold State.updFc
  split
  · exact h.mkSet le_rfl
  · exact h

theorem Keeps.updPool {n : ℕ} {f : Pool → Pool} (h : Keeps s0 s) : Keeps s0 (s.updPool n f) := by
  unfold State.updPool
  split
  · exact h.mkSet le_rfl
  · exact h

theorem Keeps.updSeason {f : Season → Season} (h : Keeps s0 s) : Keeps s0 (s.updSeason f) := by
  unfold State.updSeason
  exact h.mkSet le_rfl

theorem Keeps.updFabric {f : Fabric → Fabric} (h : Keeps s0 s) : Keeps s0 (s.updFabric f) := by
  unfold State.updFabric
  exact h.mkSet le_rfl

theorem Keeps.updMgmt {f : Mgmt → Mgmt} (h : Keeps s0 s) : Keeps s0 (s.updMgmt f) := by
  unfold State.updMgmt
  exact h.mkSet le_rfl

theorem Keeps.updPower {f : Power → Power} (h : Keeps s0 s) : Keeps s0 (s.updPower f) := by
  unfold State.updPower
  exact h.mkSet le_rfl

theorem Keeps.updFw {f : Firmware → Firmware} (h : Keeps s0 s) : Keeps s0 (s.updFw f) := by
  unfold State.updFw
  exact h.mkSet le_rfl

theorem Keeps.emit {m : OutMsg} (h : Keeps s0 s) : Keeps s0 (s.emit m) := by
  unfold State.emit
  exact h.mkAll id ⟨[_], rfl⟩ le_rfl

theorem Keeps.draw (h : Keeps s0 s) : Keeps s0 (s.draw).2 := by
  unfold State.draw
  exact h.mkSet (Nat.le_add_right _ _)

theorem Keeps.pick {α : Type} {l : List α} (h : Keeps s0 s) : Keeps s0 (s.pick l).2 := by
  unfold State.pick
  exact h.mkSet (Nat.le_add_right _ _)

theorem Keeps.drawBytes {n : ℕ} (h : Keeps s0 s) : Keeps s0 (s.drawBytes n).2 := by
  unfold State.drawBytes
  exact h.mkSet (Nat.le_add_right _ _)

theorem Keeps.updCtx {p c : ℕ} {f : Core → Core} (h : Keeps s0 s) : Keeps s0 (s.updCtx p c f) := by
  unfold State.updCtx
  exact h.updCore.ite (h.mkSet le_rfl)

theorem Keeps.noteCorrected {a : ℕ} {bs : Bytes} (h : Keeps s0 s) : Keeps s0 (s.noteCorrected a bs) := by
  unfold State.noteCorrected
  exact h.updHub.mkSet le_rfl

theorem Keeps.poisonBlock {a : ℕ} (h : Keeps s0 s) : Keeps s0 (s.poisonBlock a) := by
  unfold State.poisonBlock
  exact h.mkSet le_rfl

theorem Keeps.notePoisoned {detect : Bool} {a : ℕ} (h : Keeps s0 s) : Keeps s0 (s.notePoisoned detect a) := by
  unfold State.notePoisoned
  exact h.poisonBlock.updHub

theorem Keeps.openRow {a : ℕ} (h : Keeps s0 s) : Keeps s0 (s.openRow a) := by
  unfold State.openRow
  exact h.mkSet le_rfl

theorem Keeps.hbmBlock {region : ℕ} {r : Region} {a : ℕ} (h : Keeps s0 s) : Keeps s0 (s.hbmBlock region r a).2 := by
  unfold State.hbmBlock
  dsimp only
  split
  · exact h.openRow
  · split
    · exact h.openRow
    · exact h.openRow.noteCorrected
    · exact h.openRow.notePoisoned

theorem Keeps.writeBackLine {l : LlmLine} (h : Keeps s0 s) : Keeps s0 (s.writeBackLine l) := by
  unfold State.writeBackLine
  exact Keeps.foldl _ _ (fun s a h => by
      split
      · dsimp only
        split
        · split
          · exact ((h.openRow.mkAll (Memory.wf_memWrite _ _ _) ⟨[], rfl⟩ le_rfl).poisonBlock).updHub
          · exact ((h.openRow.mkSet le_rfl).poisonBlock).updHub
        · split
          · exact h.openRow.mkAll (Memory.wf_memWrite _ _ _) ⟨[], rfl⟩ le_rfl
          · exact h.openRow.mkSet le_rfl
      · exact h) h

theorem Keeps.allocLine {m : ℕ} {l : LlmLine} (h : Keeps s0 s) : Keeps s0 (s.allocLine m l) := by
  unfold State.allocLine
  dsimp only
  split
  · exact h
  · split
    · exact h.updHub
    · split
      · exact h.writeBackLine.updHub
      · exact h

theorem Keeps.fillRead {region : ℕ} {r : Region} {g : ℕ} (h : Keeps s0 s) : Keeps s0 (s.fillRead region r g).2 := by
  unfold State.fillRead
  exact Keeps.foldlSnd _ _ _ (fun b a h => by
      split
      · exact h
      · split
        · next e1 =>
            exact Keeps.sndOfEq e1 h.hbmBlock
        · next e1 =>
            exact Keeps.sndOfEq e1 h.hbmBlock) h

theorem Keeps.fill {region : ℕ} {r : Region} {g : ℕ} (h : Keeps s0 s) : Keeps s0 (s.fill region r g).2 := by
  unfold State.fill
  split
  · next e =>
      exact Keeps.sndOfEq e h.fillRead
  · next e =>
      exact (Keeps.sndOfEq e h.fillRead).allocLine

theorem Keeps.spoilWord {bs : Bytes} {w : ℕ} (h : Keeps s0 s) : Keeps s0 (s.spoilWord bs w).2 := by
  unfold State.spoilWord
  exact h.mkSet (Nat.le_add_right _ _)

theorem Keeps.hubMiss {region : ℕ} {r : Region} {a : ℕ} (h : Keeps s0 s) : Keeps s0 (s.hubMiss region r a).2 := by
  unfold State.hubMiss
  dsimp only
  split
  · split
    · next e =>
        exact Keeps.sndOfEq e h.updHub.fill
    · next e =>
        exact Keeps.sndOfEq e h.updHub.fill
  · exact h.updHub.hbmBlock

theorem Keeps.noteSram {m last : ℕ} (h : Keeps s0 s) : Keeps s0 (s.noteSram m last) := by
  unfold State.noteSram
  exact h.updHub.mkSet le_rfl

theorem Keeps.hubHit {region : ℕ} {r : Region} {a : ℕ} {u : Upset} {l : LlmLine} (h : Keeps s0 s) :
    Keeps s0 (s.hubHit region r a u l).2 := by
  unfold State.hubHit
  dsimp only
  split
  · split
    · dsimp only
      exact h.updHub.spoilWord
    · dsimp only
      exact h.updHub
  · split
    · exact h.updHub.noteSram
    · split
      · dsimp only
        exact h.updHub.spoilWord.updHub
      · exact h.writeBackLine.updHub.hubMiss

theorem Keeps.hubRead {region : ℕ} {r : Region} {a : ℕ} {u : Upset} (h : Keeps s0 s) :
    Keeps s0 (s.hubRead region r a u).2 := by
  unfold State.hubRead
  split
  · exact h.hubMiss
  · exact h.hubHit

theorem Keeps.sramRead {m off : ℕ} {u : Upset} (h : Keeps s0 s) : Keeps s0 (s.sramRead m off u).2 := by
  unfold State.sramRead
  dsimp only
  split
  · exact h
  · split
    · exact h
    · split
      · exact h.noteSram
      · exact h.poisonBlock.updHub.mkSet (Nat.le_add_right _ _)

theorem Keeps.readBlock {job : BitVec 32} {a : ℕ} {u : Upset} (h : Keeps s0 s) : Keeps s0 (s.readBlock job a u).2 := by
  unfold State.readBlock
  split
  · split
    · next e1 =>
        exact Keeps.sndOfEq e1 h.hubRead
    · next e1 =>
        exact Keeps.sndOfEq e1 h.hubRead
  · exact h.sramRead
  · split
    · split
      · next e2 =>
          exact Keeps.sndOfEq e2 h.hubRead
      · next e2 =>
          exact Keeps.sndOfEq e2 h.hubRead
    · exact h
  · exact h

theorem Keeps.readBlocks {job : BitVec 32} {a n : ℕ} (h : Keeps s0 s) : Keeps s0 (s.readBlocks job a n).2.2 := by
  induction n generalizing s a with
  | zero => exact h
  | succ n ih =>
    unfold State.readBlocks
    split
    · next e => exact Keeps.sndOfEq e h.readBlock
    · next e => exact ih (Keeps.sndOfEq e h.readBlock)

theorem Keeps.readUpTo {job : BitVec 32} {a n : ℕ} (h : Keeps s0 s) : Keeps s0 (s.readUpTo job a n).2.2 := by
  unfold State.readUpTo
  split
  · exact h
  · dsimp only
    exact h.readBlocks

theorem Keeps.readMem {job : BitVec 32} {a n : ℕ} (h : Keeps s0 s) : Keeps s0 (s.readMem job a n).2 := by
  unfold State.readMem
  split
  · next e =>
      exact Keeps.trdOfEq e h.readUpTo
  · next e =>
      exact Keeps.trdOfEq e h.readUpTo

theorem Keeps.freshBlock {b : ℕ} (h : Keeps s0 s) : Keeps s0 (s.freshBlock b) := by
  unfold State.freshBlock
  exact h.mkSet le_rfl

theorem Keeps.dirtyLine {a : ℕ} {whole : Bool} (h : Keeps s0 s) : Keeps s0 (s.dirtyLine a whole) := by
  unfold State.dirtyLine
  split
  · exact h.updHub
  · exact h.openRow

theorem Keeps.cacheWrite {region : ℕ} {r : Region} {a : ℕ} (h : Keeps s0 s) : Keeps s0 (s.cacheWrite region r a).2 := by
  unfold State.cacheWrite
  dsimp only
  split
  · dsimp only
    exact h.updHub
  · split
    · split
      · next e1 =>
          exact (Keeps.sndOfEq e1 h.updHub.fill).dirtyLine
      · next e1 =>
          exact (Keeps.sndOfEq e1 h.updHub.fill).openRow
    · exact h.updHub.openRow

theorem Keeps.putBlock {b : ℕ} {bs : Bytes} (h : Keeps s0 s) : Keeps s0 (s.putBlock b bs) := by
  unfold State.putBlock
  exact h.freshBlock.mkAll (Memory.wf_memWrite _ _ _) ⟨[], rfl⟩ le_rfl

theorem Keeps.mergeBlock {b : ℕ} {old bs : Bytes} (h : Keeps s0 s) : Keeps s0 (s.mergeBlock b old bs) := by
  unfold State.mergeBlock
  exact h.freshBlock.mkAll (fun m => Memory.wf_memWrite _ _ _ (Memory.wf_memWrite _ _ _ m)) ⟨[], rfl⟩ le_rfl

theorem Keeps.writeHbm {i : ℕ} {r : Region} {b : ℕ} {bs : Bytes} {u : Upset} (h : Keeps s0 s) :
    Keeps s0 (s.writeHbm i r b bs u).2 := by
  unfold State.writeHbm
  split
  · exact h.putBlock.cacheWrite
  · split
    · split
      · next e1 =>
          exact Keeps.sndOfEq e1 h.hubHit
      · next e1 =>
          exact ((Keeps.sndOfEq e1 h.hubHit).mergeBlock).dirtyLine
    · split
      · next e1 =>
          exact Keeps.sndOfEq e1 h.hbmBlock
      · next e1 =>
          exact ((Keeps.sndOfEq e1 h.hbmBlock).mergeBlock).cacheWrite

theorem Keeps.writeBlockMeeting {job : BitVec 32} {a : ℕ} {bs : Bytes} {u : Upset} (h : Keeps s0 s) :
    Keeps s0 (s.writeBlockMeeting job a bs u).2 := by
  unfold State.writeBlockMeeting
  split
  · split
    · next e1 =>
        exact Keeps.sndOfEq e1 h.writeHbm
    · next e1 =>
        exact Keeps.sndOfEq e1 h.writeHbm
  · split
    · exact h.putBlock
    · split
      · next e1 =>
          exact Keeps.sndOfEq e1 h.sramRead
      · next e1 =>
          exact (Keeps.sndOfEq e1 h.sramRead).putBlock
  · split
    · exact h
    · split
      · split
        · next e2 =>
            exact Keeps.sndOfEq e2 h.writeHbm
        · next e2 =>
            exact Keeps.sndOfEq e2 h.writeHbm
      · exact h.mkAll (Memory.wf_memWrite _ _ _) ⟨[], rfl⟩ le_rfl
  · exact h

theorem Keeps.writeBlock {job : BitVec 32} {a : ℕ} {bs : Bytes} (h : Keeps s0 s) : Keeps s0 (s.writeBlock job a bs).2 :=
    by
  unfold State.writeBlock
  exact h.writeBlockMeeting

theorem Keeps.writeBlocks {job : BitVec 32} {a : ℕ} {bs : Bytes} {n : ℕ} (h : Keeps s0 s) :
    Keeps s0 (s.writeBlocks job a bs n).2 := by
  induction n generalizing s a bs with
  | zero => exact h
  | succ n ih =>
    unfold State.writeBlocks
    dsimp only
    split
    · exact h
    · split
      · next e => exact Keeps.sndOfEq e h.writeBlock
      · next e => exact ih (Keeps.sndOfEq e h.writeBlock)

theorem Keeps.writeMem {job : BitVec 32} {a : ℕ} {bs : Bytes} (h : Keeps s0 s) : Keeps s0 (s.writeMem job a bs).2 := by
  unfold State.writeMem
  exact h.writeBlocks

theorem Keeps.pokeBlocks {job : BitVec 32} {a : ℕ} {bs : Bytes} {n : ℕ} (h : Keeps s0 s) :
    Keeps s0 (s.pokeBlocks job a bs n) := by
  induction n generalizing s a bs with
  | zero => exact h
  | succ n ih =>
    unfold State.pokeBlocks
    dsimp only
    split
    · exact h
    · exact ih h.writeBlock

theorem Keeps.poke {p a : ℕ} {bs : Bytes} (h : Keeps s0 s) : Keeps s0 (s.poke p a bs) := by
  unfold State.poke
  exact h.pokeBlocks

theorem Keeps.peek {p a n : ℕ} (h : Keeps s0 s) : Keeps s0 (s.peek p a n).2 := by
  unfold State.peek
  exact h.readMem

theorem Keeps.sendOn {n vc : ℕ} {header : Flit} {data : Bytes} (h : Keeps s0 s) : Keeps s0 (s.sendOn n vc header data)
    := by
  unfold State.sendOn
  dsimp only
  split
  · exact h.updPort.emit
  · exact h.updPort

theorem Keeps.sendFlit {n : ℕ} {f : Flit} {cls : ℕ} (h : Keeps s0 s) : Keeps s0 (s.sendFlit n f cls) := by
  unfold State.sendFlit
  split
  · exact h.emit
  · exact h

theorem Keeps.noteAnem {sel : ℕ → Bool} {f : Anem → Anem} (h : Keeps s0 s) : Keeps s0 (s.noteAnem sel f) := by
  unfold State.noteAnem
  exact h.updFabric

theorem Keeps.wvNote {p n : ℕ} {sent : Bool} {f : Flit} (h : Keeps s0 s) : Keeps s0 (s.wvNote p n sent f) := by
  unfold State.wvNote
  dsimp only
  split
  · exact h
  · split
    · exact h.updFabric
    · split
      · next e =>
          exact Keeps.sndOfEq e h.updFabric.peek
      · next e =>
          exact ((Keeps.sndOfEq e h.updFabric.peek).poke).ite (((Keeps.sndOfEq e h.updFabric.peek).poke).poke)

theorem Keeps.noteHeader {n : ℕ} {sent : Bool} {f : Flit} (h : Keeps s0 s) : Keeps s0 (s.noteHeader n sent f) := by
  unfold State.noteHeader
  exact Keeps.foldl _ _ (fun _ _ h => h.wvNote) h.noteAnem

theorem Keeps.freeBuffers {n vc k : ℕ} (h : Keeps s0 s) : Keeps s0 (s.freeBuffers n vc k) := by
  unfold State.freeBuffers
  exact h.updPort.ite h

theorem Keeps.swqStep {header : Flit} {up : Bool} (h : Keeps s0 s) : Keeps s0 (s.swqStep header up) := by
  unfold State.swqStep
  exact h.updFabric

theorem Keeps.transmit {src n : ℕ} {header : Flit} {data : Bytes} (h : Keeps s0 s) :
    Keeps s0 (s.transmit src n header data) := by
  unfold State.transmit
  exact h.freeBuffers.ite (h.sendOn.noteHeader.freeBuffers.ite h.updFabric.swqStep)

theorem Keeps.drainPort {n fuel : ℕ} (h : Keeps s0 s) : Keeps s0 (s.drainPort n fuel) := by
  induction fuel generalizing s with
  | zero => exact h
  | succ n ih =>
    unfold State.drainPort
    split
    · exact h
    · exact ih h.updFabric.swqStep.sendOn.noteHeader.freeBuffers

theorem Keeps.inject {header : Flit} {data : Bytes} (h : Keeps s0 s) : Keeps s0 (s.inject header data) := by
  unfold State.inject
  split
  · exact h.mkSet le_rfl
  · exact h.transmit
  · exact h.updFabric
  · exact h

theorem Keeps.newXact {k : Pkt} {data : Bytes} {owner : Owner} {part : ℕ} (h : Keeps s0 s) :
    Keeps s0 (s.newXact k data owner part) := by
  unfold State.newXact
  exact h.updFabric

theorem Keeps.newTree {k : TreePkt} {data : Bytes} {owner : Owner} {part : ℕ} (h : Keeps s0 s) :
    Keeps s0 (s.newTree k data owner part) := by
  unfold State.newTree
  exact h.updFabric

theorem Keeps.updXact {id : BitVec 32} {f : Xact → Xact} (h : Keeps s0 s) : Keeps s0 (s.updXact id f) := by
  unfold State.updXact
  exact h.updFabric

theorem Keeps.dropXact {id : BitVec 32} (h : Keeps s0 s) : Keeps s0 (s.dropXact id) := by
  unfold State.dropXact
  exact h.updFabric

theorem Keeps.reply {k : Pkt} {op : Byte} {status : ℕ} {arg0 : Word} {data : Bytes} (h : Keeps s0 s) :
    Keeps s0 (s.reply k op status arg0 data) := by
  unfold State.reply
  exact h.updFabric.inject

theorem Keeps.takeRx {e : ℕ × ℕ × Flit × Bytes} (h : Keeps s0 s) : Keeps s0 (s.takeRx e) := by
  unfold State.takeRx
  exact (h.mkSet le_rfl).freeBuffers

theorem Keeps.lendIn {b : ℕ} {m : Month} (h : Keeps s0 s) : Keeps s0 (s.lendIn b m) := by
  unfold State.lendIn
  exact h.updSeason

theorem Keeps.assignCore {c : ℕ} {p : Option ℕ} {keys : List (BitVec 128)} (h : Keeps s0 s) :
    Keeps s0 (s.assignCore c p keys) := by
  unfold State.assignCore
  exact (h.mkAll (Memory.wf_memClear _ _ _) ⟨[], rfl⟩ le_rfl).setCore

theorem Keeps.settleCore {c : ℕ} (h : Keeps s0 s) : Keeps s0 (s.settleCore c) := by
  unfold State.settleCore
  split
  · exact h.updCore.ite h.updCore
  · exact h.assignCore

theorem Keeps.haltMatOp {op : MatOp} (h : Keeps s0 s) : Keeps s0 (s.haltMatOp op) := by
  unfold State.haltMatOp
  exact Keeps.foldl _ _ (fun _ _ h => (h.mkSet (Nat.le_add_right _ _)).ite
      ((h.mkSet (Nat.le_add_right _ _)).mkAll (Memory.wf_memSet _ _ _) ⟨[], rfl⟩ le_rfl))
      (Keeps.foldl _ _ (fun s a h => by
      split
      · next e =>
          split
          · exact (Keeps.sndOfEq e h.draw).ite
              ((Keeps.sndOfEq e h.draw).mkAll (Memory.wf_memWrite _ _ _) ⟨[], rfl⟩ le_rfl)
          · exact Keeps.sndOfEq e h.draw) h)

theorem Keeps.haltCore {c : ℕ} (h : Keeps s0 s) : Keeps s0 (s.haltCore c) := by
  unfold State.haltCore
  exact ((Keeps.foldl _ _ (fun _ _ h => h.haltMatOp) h).updCore).mkSet (Nat.le_add_right _ _)

theorem Keeps.discardDrift {c : ℕ} (h : Keeps s0 s) : Keeps s0 (s.discardDrift c) := by
  unfold State.discardDrift
  exact h.updCore.mkAll (Memory.wf_memClear _ _ _) ⟨[], rfl⟩ le_rfl

theorem Keeps.sendPairAborts {sl p : ℕ} {group : BitVec 12} {step : BitVec 16} {round : ℕ} {digest : Word}
    {members : List PkgId} {code : ℕ} (h : Keeps s0 s) :
    Keeps s0 (s.sendPairAborts sl p group step round digest members code) := by
  unfold State.sendPairAborts
  exact Keeps.foldl _ _ (fun _ _ h => h.newXact) h

theorem Keeps.sendStepAborts {sl : ℕ} {st : Step} {code : ℕ} (h : Keeps s0 s) : Keeps s0 (s.sendStepAborts sl st code)
    := by
  unfold State.sendStepAborts
  exact h.sendPairAborts

theorem Keeps.rememberPair {group : BitVec 12} {step : BitVec 16} (h : Keeps s0 s) :
    Keeps s0 (s.rememberPair group step) := by
  unfold State.rememberPair
  exact Keeps.foldl _ _ (fun _ _ h => h.updXdie) (h.mkSet le_rfl)

theorem Keeps.sendCollAborts {c : Coll} {code : ℕ} {origin : PkgId} {but : Option PkgId} (h : Keeps s0 s) :
    Keeps s0 (s.sendCollAborts c code origin but) := by
  unfold State.sendCollAborts
  split
  · exact h
  · exact Keeps.foldl _ _ (fun _ _ h => h.ite h.newTree) h

theorem Keeps.noteCollFault {group : BitVec 12} {code : ℕ} (h : Keeps s0 s) : Keeps s0 (s.noteCollFault group code) :=
    by
  unfold State.noteCollFault
  exact Keeps.foldl _ _ (fun _ _ h => h.updXdie) h

theorem Keeps.noteMonFault {x : ℕ} {step : BitVec 16} {code : ℕ} (h : Keeps s0 s) :
    Keeps s0 (s.noteMonFault x step code) := by
  unfold State.noteMonFault
  exact h.updXdie

theorem Keeps.teardownCores {p : ℕ} (h : Keeps s0 s) : Keeps s0 (s.teardownCores p) := by
  unfold State.teardownCores
  exact Keeps.foldl _ _ (fun _ _ h => h.updSteward)
      (Keeps.foldl _ _ (fun _ _ h => (h.haltCore.discardDrift.settleCore.ite h.haltCore.discardDrift).ite
      (h.settleCore.ite h)) (h.mkSet le_rfl))

theorem Keeps.haltCopy {p src dst n : ℕ} (h : Keeps s0 s) : Keeps s0 (s.haltCopy p src dst n) := by
  unfold State.haltCopy
  exact Keeps.foldl _ _ (fun s a h => by
      split
      · next e =>
          split
          · exact Keeps.sndOfEq e h.draw
          · split
            · next e1 =>
                exact (Keeps.sndOfEq e1 ((Keeps.sndOfEq e h.draw).peek)).poke
            · next e1 =>
                exact Keeps.sndOfEq e1 ((Keeps.sndOfEq e h.draw).peek)) h

theorem Keeps.endColl {p code : ℕ} {c : Coll} (h : Keeps s0 s) : Keeps s0 (s.endColl p code c) := by
  unfold State.endColl
  dsimp only
  split
  · split
    · exact h.noteCollFault
    · split
      · exact h.sendCollAborts.noteCollFault
      · exact h.sendCollAborts.noteCollFault
  · split
    · split
      · exact h
      · split
        · exact h.sendCollAborts
        · exact h.sendCollAborts
    · split
      · exact h.haltCopy
      · split
        · exact h.sendCollAborts.haltCopy
        · exact h.sendCollAborts.haltCopy

theorem Keeps.dropRows {sl : ℕ} (h : Keeps s0 s) : Keeps s0 (s.dropRows sl) := by
  unfold State.dropRows
  exact Keeps.foldl _ _ (fun _ _ h => h.updXdie) h

theorem Keeps.endStep {p code sl : ℕ} {st : Step} (h : Keeps s0 s) : Keeps s0 (s.endStep p code sl st) := by
  unfold State.endStep
  exact (((((Keeps.foldl _ _ (fun _ _ h => h.haltCopy) h).ite h).sendStepAborts).rememberPair).dropRows).updStep

theorem Keeps.teardownWork {p code : ℕ} (h : Keeps s0 s) : Keeps s0 (s.teardownWork p code) := by
  unfold State.teardownWork
  exact (Keeps.foldl _ _ (fun _ _ h => h.endColl)
      ((Keeps.foldl _ _ (fun _ _ h => h.endStep.ite h) h.updFabric).mkSet le_rfl)).mkSet le_rfl

theorem Keeps.teardownRest {p : ℕ} (h : Keeps s0 s) : Keeps s0 (s.teardownRest p).1 := by
  unfold State.teardownRest
  exact ((((h.mkSet (Nat.le_add_right _ _)).mkSet le_rfl).updPartition).updFw).mkSet le_rfl

theorem Keeps.raiseOne {p : ℕ} {r : FaultRec} (h : Keeps s0 s) : Keeps s0 (s.raiseOne p r).1 := by
  unfold State.raiseOne
  split
  · exact h
  · dsimp only
    exact h.updPartition
  · dsimp only
    exact h.updPartition
  · exact h.updPartition.teardownCores.teardownWork.teardownRest
  · exact h.updPartition.teardownCores.teardownWork.teardownRest

theorem Keeps.raiseAll {n : ℕ} {l : List (ℕ × FaultRec)} (h : Keeps s0 s) : Keeps s0 (State.raiseAll n l s) := by
  induction n generalizing s l with
  | zero => exact h
  | succ n ih =>
    cases l with
    | nil => exact h
    | cons e l => exact ih h.raiseOne

theorem Keeps.raise {p : ℕ} {r : FaultRec} (h : Keeps s0 s) : Keeps s0 (s.raise p r) := by
  unfold State.raise
  exact (h.mkSet (Nat.le_add_right _ _)).raiseAll

/-- The next step of a sequence keeps what its own state keeps. -/
theorem Keeps.tryThen {α β : Type} {r : Try α} {f : α → State → Try β} (h : Keeps s0 r.2)
 (hf : ∀ a s, Keeps s0 s → Keeps s0 (f a s).2) : Keeps s0 (Machine.tryThen r f).2 := by
  unfold Machine.tryThen
  split
  · exact h
  · exact hf _ _ h

theorem Keeps.tryList {α β : Type} {f : α → State → Try β} {l : List α} (h : Keeps s0 s)
 (hf : ∀ a s, Keeps s0 s → Keeps s0 (f a s).2) : Keeps s0 (Machine.tryList f l s).2 := by
  induction l generalizing s with
  | nil => exact h
  | cons a l ih =>
    unfold Machine.tryList
    split
    · next e => exact Keeps.sndOfEq e (hf a s h)
    · next e =>
      have := Keeps.sndOfEq e (hf a s h)
      split
      · next e' => exact Keeps.sndOfEq e' (ih this)
      · next e' => exact Keeps.sndOfEq e' (ih this)

theorem Keeps.tryRaise {α : Type} {p : ℕ} {r : Try α} {f : α → State → State} (h : Keeps s0 r.2)
 (hf : ∀ a s, Keeps s0 s → Keeps s0 (f a s)) : Keeps s0 (Machine.tryRaise p r f) := by
  unfold Machine.tryRaise
  split
  · exact h.raise
  · exact hf _ _ h

theorem Keeps.raiseMany {l : List ℕ} {f : State → FaultRec} (h : Keeps s0 s) : Keeps s0 (s.raiseMany l f) := by
  unfold State.raiseMany
  exact Keeps.foldl _ _ (fun _ _ h => h.raise) h

theorem Keeps.raiseMem {p : ℕ} {e : MemErr} {unit : ℕ} {addr : Word} {kind : ℕ} (h : Keeps s0 s) :
    Keeps s0 (s.raiseMem p e unit addr kind) := by
  unfold State.raiseMem
  exact h.raise

theorem Keeps.unitRead {p unit a n : ℕ} (h : Keeps s0 s) : Keeps s0 (s.unitRead p unit a n).2 := by
  unfold State.unitRead
  split
  · next e =>
      exact Keeps.sndOfEq e h.peek
  · next e =>
      exact Keeps.sndOfEq e h.peek

theorem Keeps.unitWrite {p unit a : ℕ} {bs : Bytes} (h : Keeps s0 s) : Keeps s0 (s.unitWrite p unit a bs).2 := by
  unfold State.unitWrite
  split
  · next e =>
      exact Keeps.sndOfEq e h.writeMem
  · next e =>
      exact Keeps.sndOfEq e h.writeMem

theorem Keeps.wakeStewards {p : ℕ} (h : Keeps s0 s) : Keeps s0 (s.wakeStewards p) := by
  unfold State.wakeStewards
  exact Keeps.foldl _ _ (fun _ _ h => h.updSteward) h

theorem Keeps.updItem {p pos : ℕ} {f : Item → Item} (h : Keeps s0 s) : Keeps s0 (s.updItem p pos f) := by
  unfold State.updItem
  exact h.updPartition

theorem Keeps.writeCompletion {p : ℕ} {i : Item} (h : Keeps s0 s) : Keeps s0 (s.writeCompletion p i) := by
  unfold State.writeCompletion
  dsimp only
  split
  · next e =>
      exact ((Keeps.sndOfEq e h.writeMem).updItem).wakeStewards
  · next e =>
      exact (Keeps.sndOfEq e h.writeMem).raiseMem

theorem Keeps.completions {p : ℕ} (h : Keeps s0 s) : Keeps s0 (s.completions p) := by
  unfold State.completions
  exact (Keeps.foldl _ _ (fun _ _ h => h.writeCompletion.ite h) h).updPartition

theorem Keeps.finishItem {p pos doneAt : ℕ} {late : Option ℕ} (h : Keeps s0 s) :
    Keeps s0 (s.finishItem p pos doneAt late) := by
  unfold State.finishItem
  exact h.updItem.completions

theorem Keeps.endReturn {sl slot : ℕ} (h : Keeps s0 s) : Keeps s0 (s.endReturn sl slot) := by
  unfold State.endReturn
  split
  · exact h
  · split
    · exact h.ite h.updStep.finishItem
    · exact h

theorem Keeps.serveWaiter {p : ℕ} {x2 : Waiter} (h : Keeps s0 s) : Keeps s0 (s.serveWaiter p x2) := by
  unfold State.serveWaiter
  split
  · exact h.updCtx
  · exact h.finishItem

theorem Keeps.serveQueue {p i n : ℕ} (h : Keeps s0 s) : Keeps s0 (s.serveQueue p i n) := by
  induction n generalizing s with
  | zero => exact h
  | succ n ih =>
    unfold State.serveQueue
    dsimp only
    split
    · exact h
    · split
      · exact h.updPartition.serveWaiter
      · split
        · exact ih h.updPartition.serveWaiter.wakeStewards
        · exact h

theorem Keeps.semAdd {p i a source : ℕ} (h : Keeps s0 s) : Keeps s0 (s.semAdd p i a source) := by
  unfold State.semAdd
  exact h.raise.ite h.updPartition.wakeStewards.serveQueue

theorem Keeps.semWait {p i : ℕ} {w : Waiter} (h : Keeps s0 s) : Keeps s0 (s.semWait p i w) := by
  unfold State.semWait
  exact h.updPartition.serveQueue

theorem Keeps.semTry {p i n : ℕ} (h : Keeps s0 s) : Keeps s0 (s.semTry p i n).2 := by
  unfold State.semTry
  dsimp only
  split
  · exact h.updPartition.wakeStewards
  · exact h

theorem Keeps.noteBpmFault {n code : ℕ} (h : Keeps s0 s) : Keeps s0 (s.noteBpmFault n code) := by
  unfold State.noteBpmFault
  exact h.mkSet le_rfl

theorem Keeps.bpmRaise {p code unit n : ℕ} {addr : Word} {count op : ℕ} (h : Keeps s0 s) :
    Keeps s0 (s.bpmRaise p code unit n addr count op) := by
  unfold State.bpmRaise
  exact h.noteBpmFault.raise

theorem Keeps.bpmFault {p code n : ℕ} {addr : Word} {count op : ℕ} (h : Keeps s0 s) :
    Keeps s0 (s.bpmFault p code n addr count op) := by
  unfold State.bpmFault
  exact h.bpmRaise

theorem Keeps.bpmAbsent {p code n : ℕ} {addr : Word} {op : ℕ} (h : Keeps s0 s) : Keeps s0 (s.bpmAbsent p code n addr op)
    := by
  unfold State.bpmAbsent
  exact h.bpmRaise

theorem Keeps.bpmNoPool {p code : ℕ} {addr : Word} {op : ℕ} (h : Keeps s0 s) : Keeps s0 (s.bpmNoPool p code addr op) :=
    by
  unfold State.bpmNoPool
  exact h.bpmRaise

theorem Keeps.metaRead {n : ℕ} {x : Pool} {a len : ℕ} (h : Keeps s0 s) : Keeps s0 (s.metaRead n x a len).2 := by
  unfold State.metaRead
  split
  · next e =>
      exact Keeps.sndOfEq e h.peek
  · next e =>
      exact (Keeps.sndOfEq e h.peek).raiseMem

theorem Keeps.metaWrite {n : ℕ} {x : Pool} {a : ℕ} {bs : Bytes} (h : Keeps s0 s) : Keeps s0 (s.metaWrite n x a bs).2 :=
    by
  unfold State.metaWrite
  split
  · next e =>
      exact Keeps.sndOfEq e h.writeMem
  · next e =>
      exact (Keeps.sndOfEq e h.writeMem).raiseMem

theorem Keeps.poolRefill {n : ℕ} (h : Keeps s0 s) : Keeps s0 (s.poolRefill n) := by
  unfold State.poolRefill
  split
  · exact h
  · dsimp only
    split
    · next e1 =>
        exact Keeps.sndOfEq e1 h.metaRead
    · next e1 =>
        exact (Keeps.sndOfEq e1 h.metaRead).updPool

theorem Keeps.poolWriteback {n : ℕ} (h : Keeps s0 s) : Keeps s0 (s.poolWriteback n) := by
  unfold State.poolWriteback
  split
  · exact h
  · dsimp only
    split
    · next e1 =>
        exact Keeps.sndOfEq e1 h.metaWrite
    · next e1 =>
        exact (Keeps.sndOfEq e1 h.metaWrite).updPool

theorem Keeps.setBuffer {n : ℕ} {x : Pool} {i count : ℕ} (h : Keeps s0 s) : Keeps s0 (s.setBuffer n x i count).2 := by
  unfold State.setBuffer
  split
  · next e =>
      exact Keeps.sndOfEq e h.metaRead
  · next e =>
      split
      · next e1 =>
          dsimp only
          split
          · next e2 =>
              exact (Keeps.sndOfEq e2 ((Keeps.sndOfEq e1 ((Keeps.sndOfEq e h.metaRead).metaRead)).metaWrite)).metaWrite
          · next e2 =>
              exact Keeps.sndOfEq e2 ((Keeps.sndOfEq e1 ((Keeps.sndOfEq e h.metaRead).metaRead)).metaWrite)
      · next e1 =>
          exact Keeps.sndOfEq e1 ((Keeps.sndOfEq e h.metaRead).metaRead)

theorem Keeps.poolTake {n : ℕ} (h : Keeps s0 s) : Keeps s0 (s.poolTake n).2 := by
  unfold State.poolTake
  split
  · exact h
  · dsimp only
    split
    · exact h.poolRefill.ite h
    · split
      · exact h.poolRefill.ite h
      · split
        · next e => exact Keeps.sndOfEq e (h.poolRefill.ite h).setBuffer
        · next e => exact (Keeps.sndOfEq e (h.poolRefill.ite h).setBuffer).updPool.mkSet le_rfl

theorem Keeps.noteEmpty (h : Keeps s0 s) : Keeps s0 s.noteEmpty := by
  unfold State.noteEmpty
  exact h.mkSet le_rfl

theorem Keeps.bpmAllocOp {p q : ℕ} (h : Keeps s0 s) : Keeps s0 (s.bpmAllocOp p q).2 := by
  unfold State.bpmAllocOp
  dsimp only
  split
  · exact (h.mkSet (Nat.le_add_right _ _)).bpmAbsent
  · split
    · next e1 =>
        exact Keeps.sndOfEq e1 h.poolTake
    · next e1 =>
        split
        · exact (Keeps.sndOfEq e1 h.poolTake).noteEmpty
        · exact (Keeps.sndOfEq e1 h.poolTake).mkSet (Nat.le_add_right _ _)

theorem Keeps.poolFree {n i : ℕ} (h : Keeps s0 s) : Keeps s0 (s.poolFree n i) := by
  unfold State.poolFree
  exact h.updPool.mkSet le_rfl

theorem Keeps.lastRelease {n : ℕ} {x : Pool} {i : ℕ} (h : Keeps s0 s) : Keeps s0 (s.lastRelease n x i) := by
  unfold State.lastRelease
  dsimp only
  split
  · split
    · exact h.poolWriteback
    · split
      · next e1 =>
          exact (Keeps.sndOfEq e1 h.poolWriteback.setBuffer).poolFree
      · next e1 =>
          exact Keeps.sndOfEq e1 h.poolWriteback.setBuffer
  · split
    · next e =>
        exact (Keeps.sndOfEq e h.setBuffer).poolFree
    · next e =>
        exact Keeps.sndOfEq e h.setBuffer

theorem Keeps.bpmRefOp {p : ℕ} {up : Bool} {g : Word} (h : Keeps s0 s) : Keeps s0 (s.bpmRefOp p up g) := by
  unfold State.bpmRefOp
  dsimp only
  split
  · exact h.bpmNoPool
  · split
    · next e1 =>
        exact Keeps.sndOfEq e1 h.metaRead
    · next e1 =>
        exact ((Keeps.sndOfEq e1 h.metaRead).bpmFault).ite
            (((Keeps.sndOfEq e1 h.metaRead).bpmFault).ite
            ((((Keeps.sndOfEq e1 h.metaRead).bpmFault).ite ((Keeps.sndOfEq e1 h.metaRead).setBuffer)).ite
            (((Keeps.sndOfEq e1 h.metaRead).lastRelease).ite ((Keeps.sndOfEq e1 h.metaRead).setBuffer))))

theorem Keeps.bpmGrantOp {p q : ℕ} {v : Word} (h : Keeps s0 s) : Keeps s0 (s.bpmGrantOp p q v) := by
  unfold State.bpmGrantOp
  dsimp only
  split
  · exact h.bpmAbsent
  · exact h.updPool

theorem Keeps.poolTakeMany {n k : ℕ} (h : Keeps s0 s) : Keeps s0 (s.poolTakeMany n k).2 := by
  induction k generalizing s with
  | zero => exact h
  | succ k ih =>
    unfold State.poolTakeMany
    split
    · next e => exact Keeps.sndOfEq e h.poolTake
    · next e => exact ih (Keeps.sndOfEq e h.poolTake)

theorem Keeps.lockRead {w : ℕ} {sender : BitVec 16} {p : ℕ} (h : Keeps s0 s) : Keeps s0 (s.lockRead w sender p).2 := by
  unfold State.lockRead
  split
  · dsimp only
    exact h.updFw
  · split
    · exact h
    · exact h

theorem Keeps.lockWrite {w : ℕ} {sender : BitVec 16} {p : ℕ} {v : Word32} (h : Keeps s0 s) :
    Keeps s0 (s.lockWrite w sender p v) := by
  unfold State.lockWrite
  split
  · exact h.updFw.ite h
  · exact h

theorem Keeps.stewardTrap {k : ℕ} {cause : BitVec 6} {pc tval : Word} (h : Keeps s0 s) :
    Keeps s0 (s.stewardTrap k cause pc tval) := by
  unfold State.stewardTrap
  split
  · exact h
  · exact h.updSteward.ite h.raise

theorem Keeps.stewardFault {k : ℕ} {cause : BitVec 6} {addr : ℕ} (h : Keeps s0 s) :
    Keeps s0 (s.stewardFault k cause addr) := by
  unfold State.stewardFault
  exact (h.mkSet (Nat.le_add_right _ _)).stewardTrap

theorem Keeps.upsetStack {addr : ℕ} {u : Upset} (h : Keeps s0 s) : Keeps s0 (s.upsetStack addr u) := by
  unfold State.upsetStack
  exact (h.ite (h.mkSet le_rfl)).ite (((h.ite (h.mkSet le_rfl)).updHub).mkSet le_rfl)

theorem Keeps.upset {addr : ℕ} {u : Upset} (h : Keeps s0 s) : Keeps s0 (s.upset addr u) := by
  unfold State.upset
  exact h.upsetStack

theorem Keeps.raiseAgent {a : Agent} {e : MemErr} {addr : ℕ} (h : Keeps s0 s) : Keeps s0 (s.raiseAgent a e addr) := by
  unfold State.raiseAgent
  cases a <;> dsimp only
  case remote | host | channel => exact h
  all_goals
    split
    · exact h.raiseMem
    · exact h

theorem Keeps.hubReadFor {a : Agent} {addr : ℕ} {u : Upset} (h : Keeps s0 s) : Keeps s0 (s.hubReadFor a addr u) := by
  unfold State.hubReadFor
  split
  · exact h
  · split
    · exact h.stewardFault
    · dsimp only
      split
      · next e1 =>
          exact ((Keeps.sndOfEq e1 h.upset.readBlock).updHub).emit
      · next e1 =>
          exact ((Keeps.sndOfEq e1 h.upset.readBlock).emit).raiseAgent

theorem Keeps.hubWriteFor {a : Agent} {addr : ℕ} {data : Bytes} {u : Upset} (h : Keeps s0 s) :
    Keeps s0 (s.hubWriteFor a addr data u) := by
  unfold State.hubWriteFor
  split
  · exact h
  · split
    · exact h.stewardFault
    · dsimp only
      split
      · next e1 =>
          exact (Keeps.sndOfEq e1 h.upset.writeBlockMeeting).emit
      · next e1 =>
          exact ((Keeps.sndOfEq e1 h.upset.writeBlockMeeting).emit).raiseAgent

theorem Keeps.holdLine {a : ℕ} (h : Keeps s0 s) : Keeps s0 (s.holdLine a) := by
  unfold State.holdLine
  split
  · exact h
  · exact h.updHub

theorem Keeps.writeBack {addr : ℕ} (h : Keeps s0 s) : Keeps s0 (s.writeBack addr) := by
  unfold State.writeBack
  dsimp only
  split
  · exact h
  · exact h.openRow.freshBlock.ite (h.openRow.holdLine.freshBlock.mkAll (Memory.wf_memWrite _ _ _) ⟨[], rfl⟩ le_rfl)

theorem Keeps.scrub {m : ℕ} {u : Upset} (h : Keeps s0 s) : Keeps s0 (s.scrub m u) := by
  unfold State.scrub
  dsimp only
  split
  · exact h
  · split
    · exact h.upsetStack.hbmBlock.updHub
    · exact h.upsetStack.updHub

theorem Keeps.closeRow {st pc bank : ℕ} (h : Keeps s0 s) : Keeps s0 (s.closeRow st pc bank) := by
  unfold State.closeRow
  exact h.mkSet le_rfl

theorem Keeps.softRepair {st pc bank row : ℕ} (h : Keeps s0 s) : Keeps s0 (s.softRepair st pc bank row) := by
  unfold State.softRepair
  exact h.ite (h.updStack.mkSet le_rfl)

theorem Keeps.updGen {m ch : ℕ} {f : TrafficGen → TrafficGen} (h : Keeps s0 s) : Keeps s0 (s.updGen m ch f) := by
  unfold State.updGen
  exact h.updHub

theorem Keeps.startGen {m ch : ℕ} (h : Keeps s0 s) : Keeps s0 (s.startGen m ch) := by
  unfold State.startGen
  exact h.ite h.updGen

theorem Keeps.testRows {m ch : ℕ} {ctrl : Word} {count : ℕ} (h : Keeps s0 s) : Keeps s0 (s.testRows m ch ctrl count) :=
    by
  unfold State.testRows
  exact h.ite (h.updHub.mkAll (Memory.wf_filter _ _) ⟨[], rfl⟩ (Nat.le_add_right _ _))

theorem Keeps.endGen {m ch : ℕ} {errors : BitVec 32} {firstRow : BitVec 16} (h : Keeps s0 s) :
    Keeps s0 (s.endGen m ch errors firstRow) := by
  unfold State.endGen
  exact h.ite h.updGen.testRows

theorem Keeps.abortGen {m ch : ℕ} (h : Keeps s0 s) : Keeps s0 (s.abortGen m ch) := by
  unfold State.abortGen
  exact h.ite (((h.mkSet (Nat.le_add_right _ _)).updGen).testRows)

theorem Keeps.abortGens (h : Keeps s0 s) : Keeps s0 s.abortGens := by
  unfold State.abortGens
  exact Keeps.foldl _ _ (fun _ _ h => h.abortGen) h

theorem Keeps.measured {off : ℤ} (h : Keeps s0 s) : Keeps s0 (s.measured off) := by
  unfold State.measured
  exact h.ite ((h.mkSet le_rfl).updSeason)

theorem Keeps.loseSource (h : Keeps s0 s) : Keeps s0 s.loseSource := by
  unfold State.loseSource
  exact h.updSeason

theorem Keeps.becomeMaster {role : BitVec 2} (h : Keeps s0 s) : Keeps s0 (s.becomeMaster role) := by
  unfold State.becomeMaster
  exact h.updSeason

theorem Keeps.follow {n hops : ℕ} {x3 : n < 56} (h : Keeps s0 s) : Keeps s0 (s.follow n hops x3) := by
  unfold State.follow
  exact h.updSeason

theorem Keeps.noSource (h : Keeps s0 s) : Keeps s0 s.noSource := by
  unfold State.noSource
  exact h.loseSource.updSeason

theorem Keeps.electTray (h : Keeps s0 s) : Keeps s0 s.electTray := by
  unfold State.electTray
  dsimp only
  split
  · split
    · exact h.becomeMaster
    · split
      · exact h.follow
      · exact h
  · exact h.becomeMaster.ite h.noSource

theorem Keeps.electSystem (h : Keeps s0 s) : Keeps s0 s.electSystem := by
  unfold State.electSystem
  dsimp only
  split
  · exact h.becomeMaster
  · split
    · exact h.becomeMaster
    · split
      · split
        · exact h.follow
        · exact h
      · exact h

theorem Keeps.elect (h : Keeps s0 s) : Keeps s0 s.elect := by
  unfold State.elect
  exact h.ite (h.electTray.ite h.electSystem)

theorem Keeps.loseParent {n : ℕ} (h : Keeps s0 s) : Keeps s0 (s.loseParent n) := by
  unfold State.loseParent
  exact h.loseSource.elect.ite h

theorem Keeps.setRc {off n : ℕ} (h : Keeps s0 s) : KeepsSome s0 (s.setRc off n) := by
  unfold State.setRc
  extract_lets c
  split
  · split
    · exact .some (h.mkSet le_rfl)
    · exact .some h.updPower
    · exact .some h.updPower
    · exact .some h.updPower
    · exact .none
  · split
    · exact .some h.updSeason
    · exact .some h.updSeason
    · exact .none
  · split
    · exact .some h.updHub
    · exact .some h.updHub
    · exact .some h.updHub
    · exact .some h.updHub
    · exact .some h.updHub
    · exact .some h.updHub
    · exact .none
  · split
    · exact .some h.updXdie
    · exact .some h.updXdie
    · exact .some h.updXdie
    · exact .some h.updXdie
    · exact .some h.updXdie
    · exact .some h.updXdie
    · exact KeepsSome.ite (.some (h.mkSet le_rfl)) .none
    · exact KeepsSome.ite (.some (h.mkSet le_rfl)) .none
    · exact .some h.updXdie
    · exact .some h.updXdie
    · exact .some h.updXdie
    · exact .none
  · split
    · exact .some (h.mkSet le_rfl)
    · exact .some (h.mkSet le_rfl)
    · exact .some (h.mkSet le_rfl)
    · exact .none
  · split
    · dsimp only
      split
      · exact .some h.updPort
      · exact .some h.updPort
      · exact .some h.updPort
      · exact .some h.updPort
      · exact .some h.updPort
      · exact .some h.updPort
      · exact .some h.updPort
      · exact .some h.updPort
      · exact .some h.updPort
      · exact .none
    · split
      · dsimp only
        split
        · exact .some h.noteAnem
        · exact .some h.noteAnem
        · exact .some h.noteAnem
        · exact .none
      · refine .ite (.some h.updFabric) ?_
        split
        · exact .some h.updFabric
        · exact .some h.updFabric
        · exact .some h.updFabric
        · exact .some h.updFabric
        · exact .some h.updFabric
        · exact .some h.updFabric
        · exact .none
  · exact .none

theorem Keeps.afterRead {off : ℕ} (h : Keeps s0 s) : Keeps s0 (s.afterRead off) := by
  unfold State.afterRead
  split
  · exact h.noteAnem.ite (h.updFabric.ite h)
  · exact h.mkSet (Nat.le_add_right _ _)
  · exact h

theorem Keeps.regRead {a : Agent} {off : ℕ} (h : Keeps s0 s) : Keeps s0 (s.regRead a off).2 := by
  unfold State.regRead
  split
  · exact h
  · exact h.setRc.getD h.afterRead

theorem Keeps.keepEvent {off n : ℕ} (h : Keeps s0 s) : Keeps s0 (s.keepEvent off n) := by
  unfold State.keepEvent
  split
  · exact h
  · exact h.setRc.getD h

theorem Keeps.ctrlRead {a : Agent} {off size : ℕ} (h : Keeps s0 s) : Keeps s0 (s.ctrlRead a off size).2 := by
  unfold State.ctrlRead
  split
  · split
    · split
      · split
        · next e2 =>
            exact Keeps.sndOfEq e2 h.lockRead
      · exact h
    · exact h
  · split
    · split
      · split
        · split
          · next e4 =>
              exact Keeps.sndOfEq e4 h.bpmAllocOp
        · exact h
      · exact h
    · exact h
    · split
      · next e2 =>
          exact Keeps.sndOfEq e2 h.regRead

theorem Keeps.ctrlWrite {a : Agent} {off size v : ℕ} (h : Keeps s0 s) : Keeps s0 (s.ctrlWrite a off size v) := by
  unfold State.ctrlWrite
  split
  · split
    · split
      · exact h.lockWrite
      · exact h
    · exact h
  · split
    · exact h
    · split
      · split
        · exact h
        · split
          · exact h
          · exact h.bpmRefOp
          · exact h.bpmRefOp
          · exact h.bpmGrantOp
      · exact h

theorem Keeps.fabWrite {f off : ℕ} {v : Word} (h : Keeps s0 s) : Keeps s0 (s.fabWrite f off v) := by
  unfold State.fabWrite
  dsimp only
  split
  · exact h.updFabric
  · split
    · split
      · exact h.updPort.ite h.updPort.loseParent
      · exact h.updPort.ite h
      · exact h
    · split
      · exact h.updFabric
      · split
        · exact h.updFabric
        · split
          · exact h.ite h.updFabric
          · exact h.updFabric
          · exact h.updFabric
          · exact h.ite h.updFabric
          · exact h.updFabric
          · exact h.updFabric
          · exact h

theorem Keeps.dropStores {i : ℕ} (h : Keeps s0 s) : Keeps s0 (s.dropStores i) := by
  unfold State.dropStores
  exact h.mkSet le_rfl

theorem Keeps.mhWrite {m off : ℕ} {v : Word} (h : Keeps s0 s) : Keeps s0 (s.mhWrite m off v) := by
  unfold State.mhWrite
  exact ((h.dropStores.mkSet le_rfl).ite (h.ite ((h.ite h.dropStores).mkSet le_rfl))).ite (h.updHub.ite h)

theorem Keeps.seaWrite {off : ℕ} {v : Word} (h : Keeps s0 s) : Keeps s0 (s.seaWrite off v) := by
  unfold State.seaWrite
  dsimp only
  split
  · exact h.updSeason
  · split
    · exact h.updSeason
    · split
      · exact h.updSeason
      · exact h.updSeason
      · exact h.updSeason
      · exact h.updSeason.updSeason.ite h.updSeason.updSeason
      · exact h.updSeason
      · exact h.updSeason
      · exact h

theorem Keeps.fwWrite {off : ℕ} {v : Word} (h : Keeps s0 s) : Keeps s0 (s.fwWrite off v) := by
  unfold State.fwWrite
  split
  · exact h.seaWrite
  · exact h.mhWrite
  · exact h.fabWrite
  · exact h

theorem Keeps.resultWord {r : Option Word} (h : Keeps s0 s) : Keeps s0 (s.resultWord r).2 := by
  cases r with
  | none => exact h.mkSet (Nat.le_add_right _ _)
  | some w => exact h

theorem Keeps.retime {n : ℕ} (h : Keeps s0 s) : Keeps s0 (s.retime n) := by
  unfold State.retime
  exact h.updChannel

theorem Keeps.hostWrite {n : ℕ} {a : Word} {bs : Bytes} (h : Keeps s0 s) : Keeps s0 (s.hostWrite n a bs) := by
  unfold State.hostWrite
  split
  · exact h.emit
  · exact h

theorem Keeps.hostRead {n : ℕ} {a : Word} {len : ℕ} (h : Keeps s0 s) : Keeps s0 (s.hostRead n a len) := by
  unfold State.hostRead
  split
  · exact h.emit
  · exact h

theorem Keeps.signalCpl {n : ℕ} (h : Keeps s0 s) : Keeps s0 (s.signalCpl n) := by
  unfold State.signalCpl
  exact h.emit.ite h

theorem Keeps.signalErr {n : ℕ} (h : Keeps s0 s) : Keeps s0 (s.signalErr n) := by
  unfold State.signalErr
  exact h.emit.ite h

theorem Keeps.writeNotice {n : ℕ} {x : Notice} (h : Keeps s0 s) : Keeps s0 (s.writeNotice n x) := by
  unfold State.writeNotice
  exact (((Keeps.foldl _ _ (fun _ _ h => h.hostWrite) h).hostWrite).updChannel).signalCpl

theorem Keeps.flushNotices {n k : ℕ} (h : Keeps s0 s) : Keeps s0 (s.flushNotices n k) := by
  induction k generalizing s with
  | zero => exact h
  | succ k ih =>
    unfold State.flushNotices
    dsimp only
    split
    · exact h
    · exact Keeps.ite h (ih h.updChannel.writeNotice)

theorem Keeps.afterRoom {n : ℕ} (h : Keeps s0 s) : Keeps s0 (s.afterRoom n) := by
  unfold State.afterRoom
  exact h.flushNotices.retime

theorem Keeps.notify {n : ℕ} {x : Notice} (h : Keeps s0 s) : Keeps s0 (s.notify n x) := by
  unfold State.notify
  exact h.ite (h.updChannel.ite h.updChannel.afterRoom)

theorem Keeps.notifyPartition {p : ℕ} {bound : Bool} {x : Notice} (h : Keeps s0 s) :
    Keeps s0 (s.notifyPartition p bound x) := by
  unfold State.notifyPartition
  exact Keeps.foldl _ _ (fun _ _ h => h.notify) h

theorem Keeps.noticeArea {p code : ℕ} {r0 r1 : Word} (h : Keeps s0 s) : Keeps s0 (s.noticeArea p code r0 r1) := by
  unfold State.noticeArea
  exact h.ite h.updPartition.poke.wakeStewards

theorem Keeps.completeHost {t : Taken} {st : Status} {r0 r1 : Word} (h : Keeps s0 s) :
    Keeps s0 (s.completeHost t st r0 r1) := by
  unfold State.completeHost
  exact h.ite h.hostWrite.updChannel.signalCpl.afterRoom

theorem Keeps.completeInternal {t : Taken} {st : Status} {r0 r1 : Word} (h : Keeps s0 s) :
    Keeps s0 (s.completeInternal t st r0 r1) := by
  unfold State.completeInternal
  exact ((h.ite h.poke).semAdd).ite (h.ite h.poke)

theorem Keeps.finishCommand {t : Taken} {a : Answer} (h : Keeps s0 s) : Keeps s0 (s.finishCommand t a) := by
  unfold State.finishCommand
  split
  · next e =>
      split
      · next e1 =>
          exact ((Keeps.sndOfEq e1 ((Keeps.sndOfEq e h.resultWord).resultWord)).completeHost).ite
              ((Keeps.sndOfEq e1 ((Keeps.sndOfEq e h.resultWord).resultWord)).completeInternal)

theorem Keeps.readPblock {t : Taken} {host : Option Bytes} {a n : ℕ} (h : Keeps s0 s) :
    Keeps s0 (s.readPblock t host a n).2 := by
  unfold State.readPblock
  split
  · dsimp only
    split
    · exact h.hostRead
    · exact h.hostRead
  · split
    · exact h
    · split
      · next e =>
          exact Keeps.sndOfEq e h.peek
      · next e =>
          exact Keeps.sndOfEq e h.peek

/-- A command keeps what its own part, and what comes after its completion, keep. -/
theorem Keeps.commandThen {op : ℕ} {u : Rule} {body : State → Taken → Option Answer × State}
    {after : State → Taken → State} (h : Keeps s0 s) (hb : ∀ s t, Keeps s0 s → Keeps s0 (body s t).2)
 (ha : ∀ s t, Keeps s0 s → Keeps s0 (after s t)) : Keeps s0 (s.commandThen op u body after) := by
  unfold State.commandThen
  split
  · exact h
  · dsimp only
    split
    · exact h.updFw.finishCommand
    · split
      · next e => exact Keeps.sndOfEq e (hb _ _ h.updFw)
      · next e =>
        have hs := Keeps.sndOfEq e (hb _ _ h.updFw)
        exact Keeps.ite (ha _ _ hs.finishCommand) hs.finishCommand

theorem Keeps.command {op : ℕ} {u : Rule} {body : State → Taken → Answer × State} (h : Keeps s0 s)
 (hb : ∀ s t, Keeps s0 s → Keeps s0 (body s t).2) : Keeps s0 (s.command op u body) :=
  h.commandThen hb fun _ _ h => h

theorem Keeps.accept {t : Taken} (h : Keeps s0 s) : Keeps s0 (s.accept t) := by
  unfold State.accept
  exact h.finishCommand.ite (h.raise.ite (h.finishCommand.ite h.updFw))

theorem Keeps.takeMailbox {m : ℕ} (h : Keeps s0 s) : Keeps s0 (s.takeMailbox m) := by
  unfold State.takeMailbox
  split
  · exact h
  · exact h.updFw.accept

theorem Keeps.takeChannel {n : ℕ} (h : Keeps s0 s) : Keeps s0 (s.takeChannel n) := by
  unfold State.takeChannel
  split
  · exact h
  · exact h.updChannel.accept

theorem Keeps.serviceTake (h : Keeps s0 s) : Keeps s0 s.serviceTake := by
  unfold State.serviceTake
  split
  · exact h
  · dsimp only
    split
    · exact h.draw
    · exact h.draw.takeMailbox
    · exact h.draw.takeMailbox.ite (h.draw.updFw.takeMailbox.ite h.draw.updFw.takeChannel)

theorem Keeps.chOpen {t : Taken} (h : Keeps s0 s) : Keeps s0 (s.chOpen t).2 := by
  unfold State.chOpen
  dsimp only
  split
  · exact h
  · split
    · exact h
    · dsimp only
      exact h.updChannel

theorem Keeps.senderReset {n : ℕ} (h : Keeps s0 s) : Keeps s0 (s.senderReset n) := by
  unfold State.senderReset
  exact h.ite h.updChannel.retime

theorem Keeps.chClose {t : Taken} (h : Keeps s0 s) : Keeps s0 (s.chClose t).2 := by
  unfold State.chClose
  dsimp only
  split
  · exact h
  · split
    · exact h
    · exact h

theorem Keeps.execChClose (h : Keeps s0 s) : Completes s0 (execChClose s) := by
  unfold Machine.execChClose
  exact .next (h.commandThen (fun x0 x1 h => by
      split
      · next e =>
          exact Keeps.sndOfEq e h.chClose) (fun _ _ h => h.senderReset))

theorem Keeps.windowMap {t : Taken} (h : Keeps s0 s) : Keeps s0 (s.windowMap t).2 := by
  unfold State.windowMap
  dsimp only
  split
  · exact h
  · dsimp only
    exact h.updFw

theorem Keeps.firmwareDown (h : Keeps s0 s) : Keeps s0 s.firmwareDown := by
  unfold State.firmwareDown
  exact h.updFw

theorem Keeps.execQuiesce (h : Keeps s0 s) : Completes s0 (execQuiesce s) := by
  unfold Machine.execQuiesce
  exact .next (h.command (fun x0 x1 h => by
      split
      · exact h
      · dsimp only
        exact h.updMgmt))

theorem Keeps.enterService (h : Keeps s0 s) : Keeps s0 s.enterService := by
  unfold State.enterService
  exact (((h.ite h.updChannel).updPartition).ite (h.ite h.updChannel)).updMgmt

theorem Keeps.execResume (h : Keeps s0 s) : Completes s0 (execResume s) := by
  unfold Machine.execResume
  exact .next (h.command (fun x0 x1 h => by
      split
      · exact h.enterService
      · exact h))

theorem Keeps.poolCreate {t : Taken} (h : Keeps s0 s) : Keeps s0 (s.poolCreate t).2 := by
  unfold State.poolCreate
  dsimp only
  split
  · exact h
  · split
    · exact h
    · exact h.poke.mkSet le_rfl

theorem Keeps.destroyPool {n : ℕ} {x : Pool} (h : Keeps s0 s) : Keeps s0 (s.destroyPool n x) := by
  unfold State.destroyPool
  exact Keeps.foldl _ _ (fun _ _ h => h.raise) (h.mkSet le_rfl)

theorem Keeps.poolDestroy {t : Taken} (h : Keeps s0 s) : Keeps s0 (s.poolDestroy t).2 := by
  unfold State.poolDestroy
  dsimp only
  split
  · exact h
  · split
    · exact h
    · exact h.destroyPool

theorem Keeps.putGroup {g p : ℕ} {x : Group} (h : Keeps s0 s) : Keeps s0 (s.putGroup g p x) := by
  unfold State.putGroup
  exact h.poke.mkSet le_rfl

theorem Keeps.groupDefineList {g p list n : ℕ} (h : Keeps s0 s) : Keeps s0 (s.groupDefineList g p list n).2 := by
  unfold State.groupDefineList
  split
  · next e =>
      exact Keeps.sndOfEq e h.peek
  · next e =>
      dsimp only
      split
      · exact Keeps.sndOfEq e h.peek
      · split
        · exact Keeps.sndOfEq e h.peek
        · split
          · exact Keeps.sndOfEq e h.peek
          · exact (Keeps.sndOfEq e h.peek).putGroup

theorem Keeps.groupDefine {t : Taken} (h : Keeps s0 s) : Keeps s0 (s.groupDefine t).2 := by
  unfold State.groupDefine
  dsimp only
  split
  · exact h
  · exact h.groupDefineList

theorem Keeps.groupDestroy {t : Taken} (h : Keeps s0 s) : Keeps s0 (s.groupDestroy t).2 := by
  unfold State.groupDestroy
  dsimp only
  split
  · exact h
  · split
    · exact h
    · exact h.mkSet le_rfl

theorem Keeps.seasonSet {t : Taken} (h : Keeps s0 s) : Keeps s0 (s.seasonSet t).2 := by
  unfold State.seasonSet
  dsimp only
  split
  · exact h
  · exact ((((h.seaWrite.ite h).seaWrite).ite (h.seaWrite.ite h)).seaWrite).ite
      (((h.seaWrite.ite h).seaWrite).ite (h.seaWrite.ite h))

theorem Keeps.wvSet {t : Taken} (h : Keeps s0 s) : Keeps s0 (s.wvSet t).2 := by
  unfold State.wvSet
  dsimp only
  split
  · exact h
  · split
    · exact h
    · dsimp only
      exact h.updFabric

theorem Keeps.execAnemSelect (h : Keeps s0 s) : Completes s0 (execAnemSelect s) := by
  unfold Machine.execAnemSelect
  exact .next (h.command (fun _ _ h => by
      dsimp only
      exact h.fabWrite))

theorem Keeps.routeLoad {t : Taken} {host : Option Bytes} (h : Keeps s0 s) : Keeps s0 (s.routeLoad t host).2 := by
  unfold State.routeLoad
  dsimp only
  split
  · exact h
  · split
    · next e =>
        exact Keeps.sndOfEq e h.readPblock
    · next e =>
        split
        · dsimp only
          exact (Keeps.sndOfEq e h.readPblock).pick
        · dsimp only
          exact ((Keeps.sndOfEq e h.readPblock).pick).updFabric

theorem Keeps.execRouteSwitch (h : Keeps s0 s) : Completes s0 (execRouteSwitch s) := by
  unfold Machine.execRouteSwitch
  exact .next (h.command (fun x0 x1 h => by
      split
      · exact h
      · dsimp only
        exact h.updFabric))

theorem Keeps.execXactTimeoutSet (h : Keeps s0 s) : Completes s0 (execXactTimeoutSet s) := by
  unfold Machine.execXactTimeoutSet
  exact .next (h.command (fun x0 x1 h => by
      split
      · exact h
      · dsimp only
        exact h.updFabric))

theorem Keeps.loseRange {a n : ℕ} (h : Keeps s0 s) : Keeps s0 (s.loseRange a n) := by
  unfold State.loseRange
  exact h.mkAll (Memory.wf_memClear _ _ _) ⟨[], rfl⟩ le_rfl

theorem Keeps.setSlice {m mode : ℕ} (h : Keeps s0 s) : Keeps s0 (s.setSlice m mode) := by
  unfold State.setSlice
  exact ((Keeps.foldl _ _ (fun _ _ h => h.writeBackLine) h).updHub).loseRange

theorem Keeps.sliceModes {v : Word} (h : Keeps s0 s) : Keeps s0 (s.sliceModes v) := by
  unfold State.sliceModes
  exact h.ite (Keeps.foldl _ _ (fun _ _ h => h.setSlice) h)

theorem Keeps.execLlmMode (h : Keeps s0 s) : Completes s0 (execLlmMode s) := by
  unfold Machine.execLlmMode
  exact .next (h.command (fun x0 x1 h => by
      split
      · exact h
      · exact Keeps.foldl _ _ (fun _ _ h => h.setSlice) h))

theorem Keeps.memTest {t : Taken} (h : Keeps s0 s) : Keeps s0 (s.memTest t).2 := by
  unfold State.memTest
  dsimp only
  split
  · exact h
  · dsimp only
    exact (Keeps.foldl _ _ (fun _ _ h => h.updGen.startGen) h).updFw

theorem Keeps.memTestEnd {t : Taken} {m : ℕ} {l : List ℕ} (h : Keeps s0 s) : Keeps s0 (s.memTestEnd t m l) := by
  unfold State.memTestEnd
  exact h.ite h.updFw.finishCommand

theorem Keeps.execMemTest (h : Keeps s0 s) : Completes s0 (execMemTest s) := by
  unfold Machine.execMemTest
  split
  · exact .next (h.memTestEnd.ite h)
  · exact .next (h.commandThen (fun _ _ h => h.memTest) (fun _ _ h => h))

theorem Keeps.atomicAt {job : BitVec 32} {op w a : ℕ} {arg cmp : Word} (h : Keeps s0 s) :
    Keeps s0 (s.atomicAt job op w a arg cmp).2 := by
  unfold State.atomicAt
  dsimp only
  split
  · exact h
  · split
    · split
      · exact h
      · split
        · next e2 =>
            exact Keeps.sndOfEq e2 h.readMem
        · next e2 =>
            split
            · next e3 =>
                exact Keeps.sndOfEq e3 ((Keeps.sndOfEq e2 h.readMem).writeMem)
            · next e3 =>
                exact Keeps.sndOfEq e3 ((Keeps.sndOfEq e2 h.readMem).writeMem)
    · split
      · exact h
      · split
        · next e1 =>
            exact Keeps.sndOfEq e1 h.readMem
        · next e1 =>
            split
            · next e2 =>
                exact Keeps.sndOfEq e2 ((Keeps.sndOfEq e1 h.readMem).writeMem)
            · next e2 =>
                exact Keeps.sndOfEq e2 ((Keeps.sndOfEq e1 h.readMem).writeMem)

theorem Keeps.reduceAt {job : BitVec 32} {op fmt a : ℕ} {data : Bytes} (h : Keeps s0 s) :
    Keeps s0 (s.reduceAt job op fmt a data).2 := by
  unfold State.reduceAt
  split
  · exact h
  · split
    · next e1 =>
        exact Keeps.sndOfEq e1 h.readMem
    · next e1 =>
        split
        · next e2 =>
            exact Keeps.sndOfEq e2 ((Keeps.sndOfEq e1 h.readMem).writeMem)
        · next e2 =>
            exact Keeps.sndOfEq e2 ((Keeps.sndOfEq e1 h.readMem).writeMem)

theorem Keeps.dmaRun {c : ℕ} {d : Dma} {op : ℕ} {comp : Bool} {g : Word} {off n : ℕ} (h : Keeps s0 s) :
    Keeps s0 (s.dmaRun c d op comp g off n).1 := by
  unfold State.dmaRun
  split
  · exact h
  · exact h.newXact

theorem Keeps.dmaRange {c : ℕ} {d : Dma} {op : ℕ} {comp : Bool} {g : Word} {off n : ℕ} (h : Keeps s0 s) :
    Keeps s0 (s.dmaRange c d op comp g off n).1 := by
  unfold State.dmaRange
  exact Keeps.foldlFst _ _ _ (fun _ _ h => h.dmaRun) h

theorem Keeps.gather {c : ℕ} {d : Dma} {n i : ℕ} (h : Keeps s0 s) : Keeps s0 (s.gather c d n i).1 := by
  induction n generalizing s d i with
  | zero => exact h
  | succ n ih =>
    unfold State.gather
    dsimp only
    split
    · exact ih h
    · split
      · exact h
      · split
        · exact h
        · exact ih h.dmaRange

theorem Keeps.putTiles {c : ℕ} {d : Dma} {x3 x4 : ℕ} (h : Keeps s0 s) : Keeps s0 (s.putTiles c d x3 x4).1 := by
  induction x3 generalizing s c d x4 with
  | zero =>
    exact h
  | succ x3 ih =>
    unfold State.putTiles
    split
    · exact h
    · dsimp only
      split
      · exact h
      · split
        · exact h
        · exact ih h.dmaRange

theorem Keeps.mcastRange {c : ℕ} {d : Dma} (h : Keeps s0 s) : Keeps s0 (s.mcastRange c d).1 := by
  unfold State.mcastRange
  split
  · exact h
  · exact Keeps.foldlFst _ _ _ (fun _ _ h => Keeps.foldlFst _ _ _ (fun _ _ h => h.newXact) h) h

theorem Keeps.datomIssue {c : ℕ} {d : Dma} (h : Keeps s0 s) : Keeps s0 (s.datomIssue c d).1 := by
  unfold State.datomIssue
  split
  · exact h
  · exact h.newXact

theorem Keeps.dmaStart {c : ℕ} {d : Dma} (h : Keeps s0 s) : Keeps s0 (s.dmaStart c d) := by
  unfold State.dmaStart
  dsimp only
  refine Keeps.mkSet (Keeps.updCore ?_) (Nat.le_add_right _ _)
  split
  · exact h.dmaRange
  · split
    · exact h.putTiles
    · exact h.dmaRange
  · exact h.gather
  · exact h.mcastRange
  · exact h.dmaRange
  · exact h.datomIssue
  · exact h

theorem Keeps.landData {c p tag off : ℕ} {bs : Bytes} {gather : Bool} (h : Keeps s0 s) :
    Keeps s0 (s.landData c p tag off bs gather) := by
  unfold State.landData
  exact (h.mkAll (Memory.wf_memWrite _ _ _) ⟨[], rfl⟩ le_rfl).ite (Keeps.foldl _ _ (fun s a h => by
      dsimp only
      split
      · exact h.draw.updCtx.ite (h.draw.updCtx.mkAll (Memory.wf_memWrite _ _ _) ⟨[], rfl⟩ le_rfl)
      · exact h.updCtx.ite (h.updCtx.mkAll (Memory.wf_memWrite _ _ _) ⟨[], rfl⟩ le_rfl)) h)

theorem Keeps.get {c : ℕ} {d : Dma} {job : BitVec 32} {a off n unit : ℕ} (h : Keeps s0 s) :
    Keeps s0 (State.piece.get c d s job a off n unit).2 := by
  unfold State.piece.get
  split
  next e =>
    have hr := Keeps.trdOfEq e h.readUpTo
    dsimp only
    split
    · exact hr.landData
    · exact hr.landData

theorem Keeps.piece {c : ℕ} {d : Dma} {e : ℕ × ℕ × ℕ} (h : Keeps s0 s) : Keeps s0 (s.piece c d e).2 := by
  unfold State.piece
  dsimp only
  split
  · exact h.get
  · exact h.get
  · split
    · next e => exact Keeps.sndOfEq e h.reduceAt
    · next e => exact Keeps.sndOfEq e h.reduceAt
  · split
    · next e => exact Keeps.sndOfEq e h.writeMem
    · next e => exact Keeps.sndOfEq e h.writeMem

theorem Keeps.piecesGo {c : ℕ} {d : Dma} {x3 : List (ℕ × ℕ × ℕ)} (h : Keeps s0 s) : Keeps s0 (s.piecesGo c d x3).2 := by
  induction x3 generalizing s c d with
  | nil =>
    exact h
  | cons a' x3 ih =>
    unfold State.piecesGo
    split
    · next e =>
        exact Keeps.sndOfEq e h.piece
    · next e =>
        exact ih (Keeps.sndOfEq e h.piece)

theorem Keeps.dmaEnd {c : ℕ} {d : Dma} (h : Keeps s0 s) : Keeps s0 (s.dmaEnd c d).2 := by
  unfold State.dmaEnd
  dsimp only
  split
  · next e =>
      exact Keeps.sndOfEq e h.piecesGo
  · next e =>
      split
      · exact Keeps.sndOfEq e h.piecesGo
      · split
        · split
          · dsimp only
            exact (Keeps.sndOfEq e h.piecesGo).updCore
          · split
            · next e4 =>
                dsimp only
                exact (Keeps.sndOfEq e4 ((Keeps.sndOfEq e h.piecesGo).atomicAt)).updCore
            · next e4 =>
                exact Keeps.sndOfEq e4 ((Keeps.sndOfEq e h.piecesGo).atomicAt)
        · dsimp only
          exact (Keeps.sndOfEq e h.piecesGo).updCore

theorem Keeps.putDrift {c set way : ℕ} {e : DriftEntry} (h : Keeps s0 s) : Keeps s0 (s.putDrift c set way e) := by
  unfold State.putDrift
  exact h.mkAll (Memory.wf_memWrite _ _ _) ⟨[], rfl⟩ le_rfl

theorem Keeps.freeDrift {c set way : ℕ} (h : Keeps s0 s) : Keeps s0 (s.freeDrift c set way) := by
  unfold State.freeDrift
  exact h.putDrift

theorem Keeps.updDrift {c : ℕ} {f : Drift → Drift} (h : Keeps s0 s) : Keeps s0 (s.updDrift c f) := by
  unfold State.updDrift
  exact h.updCore

theorem Keeps.driftSpill {c set : ℕ} (h : Keeps s0 s) : Keeps s0 (s.driftSpill c set).2 := by
  unfold State.driftSpill
  dsimp only
  split
  · exact h
  · split
    · exact h
    · split
      · next e2 =>
          exact Keeps.sndOfEq e2 (((Keeps.foldl _ _ (fun _ _ h => h.freeDrift) h).updDrift).writeMem)
      · next e2 =>
          exact Keeps.sndOfEq e2 (((Keeps.foldl _ _ (fun _ _ h => h.freeDrift) h).updDrift).writeMem)

theorem Keeps.dadd {c k x : ℕ} (h : Keeps s0 s) : Keeps s0 (s.dadd c k x).2 := by
  unfold State.dadd
  dsimp only
  split
  · exact h
  · split
    · exact h.updDrift.putDrift
    · split
      · exact h.updDrift.putDrift
      · split
        · exact h
        · next e2 =>
            split
            · exact (Keeps.sndOfEq e2 h.updDrift.driftSpill).putDrift
            · exact Keeps.sndOfEq e2 h.updDrift.driftSpill

theorem Keeps.batchBytes {c : ℕ} {b : Batch} (h : Keeps s0 s) : Keeps s0 (s.batchBytes c b).2 := by
  unfold State.batchBytes
  exact h.readMem

theorem Keeps.readBatches {c : ℕ} {x2 : List Batch} (h : Keeps s0 s) : Keeps s0 (s.readBatches c x2).2 := by
  induction x2 generalizing s c with
  | nil =>
    exact h
  | cons a' x2 ih =>
    unfold State.readBatches
    split
    · next e =>
        exact Keeps.sndOfEq e h.batchBytes
    · next e =>
        split
        · next e1 =>
            exact Keeps.sndOfEq e1 (ih (Keeps.sndOfEq e h.batchBytes))
        · next e1 =>
            exact Keeps.sndOfEq e1 (ih (Keeps.sndOfEq e h.batchBytes))

theorem Keeps.ddrain {c n off : ℕ} (h : Keeps s0 s) : Keeps s0 (s.ddrain c n off).2 := by
  unfold State.ddrain
  dsimp only
  split
  · next e =>
      exact Keeps.sndOfEq e h.readBatches
  · next e =>
      split
      · exact Keeps.sndOfEq e h.readBatches
      · split
        · exact Keeps.sndOfEq e h.readBatches
        · dsimp only
          exact (Keeps.foldl _ _ (fun _ _ h => h.freeDrift)
              ((Keeps.sndOfEq e h.readBatches).mkAll (Memory.wf_memWrite _ _ _) ⟨[], rfl⟩ le_rfl)).updDrift

theorem Keeps.raiseRead {c : ℕ} {o : MatOp} {f : ReadFault} (h : Keeps s0 s) : Keeps s0 (s.raiseRead c o f) := by
  unfold State.raiseRead
  split
  · exact h.raise
  · exact h

theorem Keeps.loadStart {c : ℕ} {o : MatOp} (h : Keeps s0 s) : Keeps s0 (s.loadStart c o) := by
  unfold State.loadStart
  split
  · exact h.raiseRead
  · exact h.updCore.mkSet (Nat.le_add_right _ _)

theorem Keeps.loadDone {c : ℕ} {o : MatOp} (h : Keeps s0 s) : Keeps s0 (s.loadDone c o) := by
  unfold State.loadDone
  exact h.updCore

theorem Keeps.compStart {c : ℕ} {o : MatOp} (h : Keeps s0 s) : Keeps s0 (s.compStart c o) := by
  unfold State.compStart
  dsimp only
  split
  · exact h.raiseRead
  · exact h.updCore.mkSet (Nat.le_add_right _ _)

theorem Keeps.compDone {c : ℕ} {o : MatOp} (h : Keeps s0 s) : Keeps s0 (s.compDone c o) := by
  unfold State.compDone
  dsimp only
  refine (h.mkAll (fun m => ?_) ⟨[], rfl⟩ le_rfl).updCore
  exact Memory.wf_foldl _ _ _ (fun _ _ => Memory.wf_memSet _ _ _)
      (Memory.wf_foldl _ _ _ (fun _ _ => Memory.wf_memWrite _ _ _) m)

theorem Keeps.raiseCore {c : ℕ} {r : FaultRec} (h : Keeps s0 s) : Keeps s0 (s.raiseCore c r) := by
  unfold State.raiseCore
  split
  · exact h.raise
  · exact h

theorem Keeps.cacheFill {l : List CacheLine} {sets : ℕ} {x : CacheLine} (h : Keeps s0 s) :
    Keeps s0 (s.cacheFill l sets x).2 := by
  unfold State.cacheFill
  dsimp only
  split
  · exact h
  · split
    · next e =>
        exact Keeps.sndOfEq e h.pick
    · next e =>
        exact Keeps.sndOfEq e h.pick

theorem Keeps.fetchWord {c : ℕ} (h : Keeps s0 s) : Keeps s0 (s.fetchWord c).2 := by
  unfold State.fetchWord
  dsimp only
  split
  · exact h.mkSet (Nat.le_add_right _ _)
  · split
    · exact h
    · split
      · next e1 =>
          exact Keeps.sndOfEq e1 h.readBlock
      · next e1 =>
          dsimp only
          exact ((Keeps.sndOfEq e1 h.readBlock).cacheFill).updCore

theorem Keeps.sSlot {c : ℕ} {r : Core} {w : ℕ} (h : Keeps s0 s) : KeepsOk s0 (s.sSlot c r w) := by
  unfold State.sSlot
  dsimp only
  split
  · exact .ok h.updCore
  · split
    · exact .ok h.updCore
    · split
      · exact .error
      · split
        · exact .error
        · split
          · split
            · exact .error
            · split
              · split
                · exact .ok h
                · exact .ok (h.mkAll (Memory.wf_memWrite _ _ _) ⟨[], rfl⟩ le_rfl)
              · exact .ok h.updCore
          · split
            · exact .ok h.updCore
            · split
              · exact .ok h.updCore
              · exact .ok h.updCore.newXact

theorem Keeps.vSlotStep {c : ℕ} {r : Core} {w : ℕ} (h : Keeps s0 s) : KeepsOk s0 (s.vSlotStep c r w) := by
  unfold State.vSlotStep
  split
  · exact .ok h.setCore
  · exact .error

theorem Keeps.mSlot {c : ℕ} {r : Core} {w : ℕ} (h : Keeps s0 s) : KeepsOk s0 (s.mSlot c r w) := by
  unfold State.mSlot
  dsimp only
  split
  · exact .error
  · exact .ok h.updCore

theorem Keeps.dSlot {c : ℕ} {r : Core} {w : ℕ} (h : Keeps s0 s) : KeepsOk s0 (s.dSlot c r w) := by
  unfold State.dSlot
  extract_lets b d
  refine KeepsOk.ite .error ?_
  split
  · exact .ite .error (.ite .error (.ok h.updCore))
  · exact .ite .error (.ite .error (.ok (h.mkAll (Memory.wf_memWrite _ _ _) ⟨[], rfl⟩ le_rfl)))
  · split
    · next e => exact .ok (Keeps.sndOfEq e h.dadd)
    · exact .error
  · split
    · next e => exact .ok (Keeps.sndOfEq e h.ddrain).updCore
    · exact .error
  · split
    · exact .error
    · exact .ite (.ok h) (.ok h.dmaStart)

theorem Keeps.mbxPost {m : ℕ} {sender : BitVec 16} {p : ℕ} {entry : Bytes} (h : Keeps s0 s) :
    Keeps s0 (s.mbxPost m sender p entry).2 := by
  unfold State.mbxPost
  dsimp only
  split
  · exact h
  · split
    · exact h
    · dsimp only
      exact h.updFw

theorem Keeps.cSlot {c : ℕ} {r : Core} {w : ℕ} (h : Keeps s0 s) : KeepsOk s0 (s.cSlot c r w) := by
  unfold State.cSlot
  dsimp only
  split
  · exact .error
  · split
    · exact .ok h.updCore
    · exact .ok h.updCore
    · split
      · exact .error
      · exact .ok h.updCore
    · exact .ok h.updCore
    · exact .ok h.updCore
    · exact .ok h.updCore
    · exact .ok h.semAdd
    · exact .ok h.updCore
    · split
      · exact .error
      · exact .ok h.mbxPost.updCore
    · exact .ok h.updCore
    · exact .ok h.updCore
    · exact .ok h

theorem Keeps.slot {c : ℕ} {r : Core} {w i : ℕ} (h : Keeps s0 s) : KeepsOk s0 (s.slot c r w i) := by
  unfold State.slot
  split
  · exact h.sSlot
  · exact h.vSlotStep
  · exact h.mSlot
  · exact h.dSlot
  · exact h.cSlot

theorem Keeps.localStore {c : ℕ} {m : MemOp} (h : Keeps s0 s) : Keeps s0 (s.localStore c m) := by
  unfold State.localStore
  dsimp only
  split
  · split
    · exact h.ctrlWrite
    · exact h
  · split
    · next e =>
        exact (Keeps.sndOfEq e h.writeMem).raiseCore
    · next e =>
        exact Keeps.sndOfEq e h.writeMem

theorem Keeps.landStores {c : ℕ} (h : Keeps s0 s) : Keeps s0 (s.landStores c) := by
  unfold State.landStores
  exact Keeps.foldl _ _ (fun _ _ h => h.localStore) h.updCore

theorem Keeps.issueFault {c : ℕ} {r : FaultRec} (h : Keeps s0 s) : Keeps s0 (s.issueFault c r) := by
  unfold State.issueFault
  exact h.landStores.raiseCore

theorem Keeps.slots {c : ℕ} {r : Core} {w : ℕ} {l : List ℕ} (h : Keeps s0 s) : KeepsOk s0 (s.slots c r w l) := by
  induction l generalizing s with
  | nil => exact .ok h
  | cons i l ih =>
    unfold State.slots
    dsimp only
    refine .ite .error ?_
    split
    · exact .error
    · split
      · split
        · exact .error
        · next e => exact ih (h.slot _ e)
      · exact ih h

theorem Keeps.wordSlots {c : ℕ} {r : Core} {w : ℕ} {l : List ℕ} (h : Keeps s0 s) : KeepsOk s0 (s.wordSlots c r w l) :=
    by
  unfold State.wordSlots
  split
  · exact .error
  · exact h.updCore.slots

theorem Keeps.wordStop {c : ℕ} {r : Core} {w : ℕ} (h : Keeps s0 s) : Keeps s0 (s.wordStop c r w) := by
  unfold State.wordStop
  exact h.updCore

theorem Keeps.issueWord {c w : ℕ} (h : Keeps s0 s) : Keeps s0 (s.issueWord c w) := by
  unfold State.issueWord
  dsimp only
  split
  · exact h.issueFault
  · next e =>
      split
      · exact h.issueFault
      · next e1 =>
          exact ((h.wordSlots _ e1).updCore).ite ((h.wordSlots _ e).wordStop)

theorem Keeps.finishWord {c : ℕ} {t : WordTail} (h : Keeps s0 s) : Keeps s0 (s.finishWord c t) := by
  unfold State.finishWord
  dsimp only
  split
  · exact h
  · split
    · exact h.issueFault
    · next e =>
        exact (h.slots _ e).wordStop

theorem Keeps.joinSem {c w : ℕ} (h : Keeps s0 s) : Keeps s0 (s.joinSem c w) := by
  unfold State.joinSem
  exact h.updCore.semWait

theorem Keeps.wideWord {c : ℕ} (h : Keeps s0 s) : Keeps s0 (s.wideWord c) := by
  unfold State.wideWord
  dsimp only
  split
  · exact h
  · split
    · exact h.finishWord
    · split
      · exact h
      · split
        · next e =>
            exact (Keeps.sndOfEq e h.fetchWord).issueFault
        · next e =>
            split
            · exact h
            · split
              · split
                · exact (((Keeps.sndOfEq e h.fetchWord).joinSem).issueWord).ite ((Keeps.sndOfEq e h.fetchWord).joinSem)
                · exact h
                · exact (Keeps.sndOfEq e h.fetchWord).issueWord
              · exact (Keeps.sndOfEq e h.fetchWord).issueWord

theorem Keeps.laneStart {c : ℕ} {l : Lane} (h : Keeps s0 s) : Keeps s0 (s.laneStart c l) := by
  unfold State.laneStart
  dsimp only
  split
  · exact h
  · split
    · split
      · exact h.loadStart.ite h
      · exact h
    · split
      · exact h.compStart.ite h
      · exact h

theorem Keeps.laneDone {c : ℕ} {l : Lane} (h : Keeps s0 s) : Keeps s0 (s.laneDone c l) := by
  unfold State.laneDone
  dsimp only
  split
  · exact h
  · split
    · split
      · exact h.loadDone.ite h
      · exact h
    · split
      · exact h.compDone.ite h
      · exact h

theorem Keeps.localLoad {c : ℕ} {m : MemOp} (h : Keeps s0 s) : Keeps s0 (s.localLoad c m) := by
  unfold State.localLoad
  dsimp only
  split
  · split
    · exact h.ctrlRead.updCore
    · exact h
  · split
    · next e =>
        exact (Keeps.sndOfEq e h.readBlock).raiseCore
    · next e =>
        split
        · split
          · dsimp only
            exact ((Keeps.sndOfEq e h.readBlock).updCore).updCore
          · exact (((Keeps.sndOfEq e h.readBlock).updCore).cacheFill).updCore
        · exact (Keeps.sndOfEq e h.readBlock).updCore

theorem Keeps.loadReturn {c i : ℕ} (h : Keeps s0 s) : Keeps s0 (s.loadReturn c i) := by
  unfold State.loadReturn
  split
  · exact h
  · split
    · exact h
    · dsimp only
      split
      · exact h.updCore.updCore
      · exact h.updCore.localLoad

theorem Keeps.storeAck {c i : ℕ} (h : Keeps s0 s) : Keeps s0 (s.storeAck c i) := by
  unfold State.storeAck
  split
  · exact h
  · exact h.ite (h.updCore.ite h.updCore.localStore)

theorem Keeps.tagComplete {c tag : ℕ} (h : Keeps s0 s) : Keeps s0 (s.tagComplete c tag) := by
  unfold State.tagComplete
  split
  · exact h
  · split
    · exact h
    · split
      · next e1 =>
          exact Keeps.sndOfEq e1 h.dmaEnd
      · next e1 =>
          exact (Keeps.sndOfEq e1 h.dmaEnd).raiseCore

theorem Keeps.mbAnswer {c : ℕ} (h : Keeps s0 s) : Keeps s0 (s.mbAnswer c) := by
  unfold State.mbAnswer
  split
  · exact h
  · exact h.ite h.updCore

theorem Keeps.armLaunch {c : ℕ} (h : Keeps s0 s) : Keeps s0 (s.armLaunch c) := by
  unfold State.armLaunch
  dsimp only
  split
  · exact h
  · exact h.ite (h.raise.ite h.updCore)

theorem Keeps.kernelEnd {c : ℕ} (h : Keeps s0 s) : Keeps s0 (s.kernelEnd c) := by
  unfold State.kernelEnd
  dsimp only
  split
  · exact h
  · exact h.ite h.updItem.completions.updCore.armLaunch

theorem Keeps.cmdRead {p a n : ℕ} (h : Keeps s0 s) : Keeps s0 (s.cmdRead p a n).2 := by
  unfold State.cmdRead
  split
  · next e =>
      exact Keeps.sndOfEq e h.peek
  · next e =>
      exact Keeps.sndOfEq e h.peek

theorem Keeps.cmdWrite {p a : ℕ} {bs : Bytes} (h : Keeps s0 s) : Keeps s0 (s.cmdWrite p a bs).2 := by
  unfold State.cmdWrite
  split
  · next e =>
      exact Keeps.sndOfEq e h.writeMem
  · next e =>
      exact Keeps.sndOfEq e h.writeMem

theorem Keeps.copyOut {p pos : ℕ} {comp mv : Bool} {dst : ℕ} {bs : Bytes} (h : Keeps s0 s) :
    Keeps s0 (s.copyOut p pos comp mv dst bs).2 := by
  unfold State.copyOut
  split
  · exact h.cmdWrite
  · exact h.newXact.updItem

theorem Keeps.copyBytes {p pos : ℕ} {comp mv : Bool} {dst : ℕ} {bs : Bytes} (h : Keeps s0 s) :
    Keeps s0 (s.copyBytes p pos comp mv dst bs).2 := by
  unfold State.copyBytes
  exact (h.tryList (fun _ _ h => h.copyOut)).tryThen (fun _ _ h => h)

theorem Keeps.copyRun {p pos : ℕ} {mv : Bool} {src dst n : ℕ} (h : Keeps s0 s) :
    Keeps s0 (s.copyRun p pos mv src dst n).2 := by
  unfold State.copyRun
  split
  · exact h.cmdRead.tryThen (fun _ _ h => h.copyOut)
  · exact h.newXact.updItem

theorem Keeps.copyTiles {p pos : ℕ} {mv : Bool} {dst : ℕ} {bs : Bytes} {x6 x7 : ℕ} (h : Keeps s0 s) :
    Keeps s0 (s.copyTiles p pos mv dst bs x6 x7).2 := by
  induction x6 generalizing s p pos mv dst bs x7 with
  | zero =>
    exact h
  | succ x6 ih =>
    unfold State.copyTiles
    split
    · exact h
    · dsimp only
      split
      · exact h
      · split
        · exact h.updItem
        · exact h.copyBytes.tryThen (fun _ _ h => ih h)

theorem Keeps.copyStart {p pos : ℕ} {mv comp : Bool} {src dst n : ℕ} (h : Keeps s0 s) :
    Keeps s0 (s.copyStart p pos mv comp src dst n).2 := by
  unfold State.copyStart
  dsimp only
  split
  · exact (h.updItem.tryList (fun _ _ h => h.copyRun)).tryThen (fun _ _ h => h)
  · split
    · exact h.updItem.cmdRead.tryThen (fun _ _ h => h.copyTiles)
    · exact (Keeps.foldl _ _ (fun _ _ h => h.newXact) h.updItem).updItem

theorem Keeps.entryEnd {p pos : ℕ} (h : Keeps s0 s) : Keeps s0 (s.entryEnd p pos) := by
  unfold State.entryEnd
  dsimp only
  split
  · exact h
  · split
    · exact h
    · split
      · split
        · exact h
        · split
          · exact h
          · split
            · exact h.raise
            · exact h.finishItem.ite h
      · exact h.updItem.copyTiles.tryRaise (fun x0 x1 h => by
      split
      · exact h
      · split
        · exact h
        · split
          · exact h.raise
          · exact h.finishItem.ite h)

theorem Keeps.entryPart {p pos : ℕ} (h : Keeps s0 s) : Keeps s0 (s.entryPart p pos) := by
  unfold State.entryPart
  exact h.updItem.entryEnd

theorem Keeps.entryStore {x : Xact} {p pos dst : ℕ} {data : Bytes} (h : Keeps s0 s) :
    Keeps s0 (s.entryStore x p pos dst data) := by
  unfold State.entryStore
  exact h.updItem.entryPart.ite (h.copyOut.tryRaise (fun _ _ h => h.entryPart))

theorem Keeps.stopAll (h : Keeps s0 s) : Keeps s0 s.stopAll := by
  unfold State.stopAll
  exact (Keeps.foldl _ _ (fun _ _ h => h.haltCore) h).mkSet le_rfl

theorem Keeps.halt {code : Byte} {detail : ℕ} (h : Keeps s0 s) : Keeps s0 (s.halt code detail) := by
  unfold State.halt
  exact ((h.stopAll.updFw.ite h.stopAll).updMgmt).emit

theorem Keeps.markDies {dies : List ℕ} (h : Keeps s0 s) : Keeps s0 (s.markDies dies) := by
  unfold State.markDies
  exact h.mkSet le_rfl

theorem Keeps.failDies {dies : List ℕ} {code : Byte} {detail : ℕ} (h : Keeps s0 s) :
    Keeps s0 (s.failDies dies code detail) := by
  unfold State.failDies
  exact h.markDies.raiseMany.halt

theorem Keeps.failControl {d : ℕ} (h : Keeps s0 s) : Keeps s0 (s.failControl d) := by
  unfold State.failControl
  exact h.markDies.halt.updFw.ite h.markDies.halt

theorem Keeps.failAny {l : List ℕ} (h : Keeps s0 s) : Keeps s0 (s.failAny l) := by
  unfold State.failAny
  split
  · exact h.failDies
  · exact h.markDies.failControl

theorem Keeps.syncCheck {meas : List (ℕ × ℤ)} (h : Keeps s0 s) : Keeps s0 (s.syncCheck meas) := by
  unfold State.syncCheck
  exact h.updSeason.failAny.ite h.updSeason.updSeason

theorem Keeps.checkRef (h : Keeps s0 s) : Keeps s0 s.checkRef := by
  unfold State.checkRef
  exact (h.updSeason.loseSource.elect.ite h.updSeason).ite (h.updSeason.elect.ite h.updSeason)

theorem Keeps.pps (h : Keeps s0 s) : Keeps s0 s.pps := by
  unfold State.pps
  exact h.updSeason.checkRef.measured.ite h.updSeason.checkRef

theorem Keeps.execPpsEdgeLate (h : Keeps s0 s) : Completes s0 (execPpsEdgeLate s) := by
  unfold Machine.execPpsEdgeLate
  split
  · exact .next (h.updSeason.checkRef.ite h)
  · exact .next h

theorem Keeps.endHoldover (h : Keeps s0 s) : Keeps s0 s.endHoldover := by
  unfold State.endHoldover
  exact h.updSeason.raiseMany

theorem Keeps.refreshDelays (h : Keeps s0 s) : Keeps s0 s.refreshDelays := by
  unfold State.refreshDelays
  exact Keeps.foldl _ _ (fun _ _ h => h.ite h.updSeason.updPort) h

theorem Keeps.failXact {x : Xact} {code status : ℕ} (h : Keeps s0 s) : Keeps s0 (s.failXact x code status) := by
  unfold State.failXact
  split
  · exact Keeps.foldl _ _ (fun _ _ h => h.dropXact.ite h.dropXact.raise) h.dropXact
  · exact h.dropXact.ite h.dropXact.raise

theorem Keeps.dmaData {x : Xact} {c tag off : ℕ} {data : Bytes} (h : Keeps s0 s) : Keeps s0 (s.dmaData x c tag off data)
    := by
  unfold State.dmaData
  exact h.landData

theorem Keeps.mcastPart {src : PkgId} {id : BitVec 32} (h : Keeps s0 s) : Keeps s0 (s.mcastPart src id) := by
  unfold State.mcastPart
  split
  · exact h
  · exact h.updFabric.reply.ite h.updFabric

theorem Keeps.shardReply {x : Xact} {p k off : ℕ} {data : Bytes} (h : Keeps s0 s) :
    Keeps s0 (s.shardReply x p k off data) := by
  unfold State.shardReply
  split
  · exact h
  · exact (h.mkSet le_rfl).ite (Keeps.foldl _ _ (fun _ _ h => h.newXact) (h.mkSet le_rfl))

theorem Keeps.finish {x : Xact} {v : Word} {data : Bytes} (h : Keeps s0 s) : Keeps s0 (s.finish x v data) := by
  unfold State.finish
  split
  · exact h.updCtx
  · exact (h.dmaData.ite h).updCtx
  · exact h.updCtx
  · exact h.entryStore.ite h.entryPart
  · exact h.updStep.endReturn
  · exact h.mcastPart
  · exact h.mkSet le_rfl
  · exact h.shardReply
  · split
    · exact h.failXact
    · exact h
  · exact h

theorem Keeps.answerMembers {op w : ℕ} {v : Word} {data : Bytes} {x5 : List (BitVec 32 × Word)} (h : Keeps s0 s) : Keeps
    s0 (s.answerMembers op w v data x5) := by
  induction x5 generalizing s op w v data with
  | nil =>
    exact h
  | cons a' x5 ih =>
    unfold State.answerMembers
    dsimp only
    split
    · exact ih h.dropXact.finish
    · exact ih h

theorem Keeps.complete {x : Xact} {v : Word} {data : Bytes} (h : Keeps s0 s) : Keeps s0 (s.complete x v data) := by
  unfold State.complete
  dsimp only
  split
  · exact h.dropXact.answerMembers
  · exact h.dropXact.finish

theorem Keeps.partTo {x : Xact} {data : Bytes} (h : Keeps s0 s) : Keeps s0 (s.partTo x data) := by
  unfold State.partTo
  split
  · exact h.dmaData
  · exact h.updItem.ite (h.ite (h.copyOut.tryRaise (fun _ _ h => h)))
  · exact h

theorem Keeps.deliverPart {x : Xact} {data : Bytes} (h : Keeps s0 s) : Keeps s0 (s.deliverPart x data) := by
  unfold State.deliverPart
  split
  · exact Keeps.foldl _ _ (fun _ _ h => h.partTo) h
  · exact h.partTo

theorem Keeps.onReply {k : Pkt} {data : Bytes} (h : Keeps s0 s) : Keeps s0 (s.onReply k data) := by
  unfold State.onReply
  dsimp only
  split
  · exact h.updFabric
  · split
    · exact h.updFabric
    · split
      · exact h.complete
      · exact h.updXact
      · exact (h.deliverPart.ite h).failXact

theorem Keeps.injectFor {x : Xact} {header : Flit} {data : Bytes} (h : Keeps s0 s) :
    Keeps s0 (s.injectFor x header data) := by
  unfold State.injectFor
  split
  · exact h.inject.ite h.transmit
  · exact h.inject

theorem Keeps.sendAttempt {x : Xact} {retry : ℕ} {first : Bool} (h : Keeps s0 s) :
    Keeps s0 (s.sendAttempt x retry first) := by
  unfold State.sendAttempt
  dsimp only
  split
  · exact h.updXact.inject
  · exact h.updXact.injectFor

theorem Keeps.toWindow {x : Xact} (h : Keeps s0 s) : Keeps s0 (s.toWindow x) := by
  unfold State.toWindow
  exact h.updXact

theorem Keeps.probe {x : Xact} (h : Keeps s0 s) : Keeps s0 (s.probe x) := by
  unfold State.probe
  dsimp only
  split
  · exact h.updXact.newXact.sendAttempt
  · exact h.updXact.newXact

theorem Keeps.resend {x : Xact} (h : Keeps s0 s) : Keeps s0 (s.resend x) := by
  unfold State.resend
  exact h.updFabric.sendAttempt

theorem Keeps.resumeXact {x : Xact} (h : Keeps s0 s) : Keeps s0 (s.resumeXact x) := by
  unfold State.resumeXact
  exact h.ite (h.resend.ite h.probe)

theorem Keeps.requestSend {id : BitVec 32} (h : Keeps s0 s) : Keeps s0 (s.requestSend id) := by
  unfold State.requestSend
  split
  · exact h
  · exact h.ite (h.resumeXact.ite (h.ite (h.toWindow.ite h.sendAttempt)))

theorem Keeps.closeWindow {id : BitVec 32} (h : Keeps s0 s) : Keeps s0 (s.closeWindow id) := by
  unfold State.closeWindow
  split
  · exact h
  · split
    · exact h
    · dsimp only
      split
      · exact (((Keeps.foldl _ _ (fun _ _ h => h.updXact) h).newXact).updFabric).sendAttempt
      · exact ((Keeps.foldl _ _ (fun _ _ h => h.updXact) h).newXact).updFabric

theorem Keeps.attemptTimeout {id : BitVec 32} (h : Keeps s0 s) : Keeps s0 (s.attemptTimeout id) := by
  unfold State.attemptTimeout
  split
  · exact h
  · exact h.ite (h.probe.ite (h.ite (h.resend.ite h.probe)))

theorem Keeps.busyResend {id : BitVec 32} (h : Keeps s0 s) : Keeps s0 (s.busyResend id) := by
  unfold State.busyResend
  split
  · exact h
  · exact h.ite (h.probe.ite h.sendAttempt)

theorem Keeps.sendTeardown {k : Pkt} {but : Option ℕ} (h : Keeps s0 s) : Keeps s0 (s.sendTeardown k but) := by
  unfold State.sendTeardown
  exact Keeps.foldl _ _ (fun _ _ h => h.transmit) h

theorem Keeps.abortJob {k : Pkt} {but : Option ℕ} (h : Keeps s0 s) : Keeps s0 (s.abortJob k but) := by
  unfold State.abortJob
  exact h.raiseMany

theorem Keeps.probeTimeout {id : BitVec 32} (h : Keeps s0 s) : Keeps s0 (s.probeTimeout id) := by
  unfold State.probeTimeout
  split
  · exact h
  · split
    · split
      · exact h
      · split
        · exact h.dropXact
        · exact h.dropXact.dropXact.ite (h.dropXact.failXact.ite h.dropXact.failXact.updFabric.sendTeardown.abortJob)
    · exact h

theorem Keeps.takeReply {op : Byte} {k : Pkt} {data : Bytes} (h : Keeps s0 s) : Keeps s0 (s.takeReply op k data) := by
  unfold State.takeReply
  split
  · exact h
  · split
    · exact h.takeRx.onReply
    · exact h

theorem Keeps.switchEpoch (h : Keeps s0 s) : Keeps s0 s.switchEpoch := by
  unfold State.switchEpoch
  exact h.ite h.updFabric

theorem Keeps.retireEpoch (h : Keeps s0 s) : Keeps s0 s.retireEpoch := by
  unfold State.retireEpoch
  split
  · exact h
  · exact h.ite h.updFabric

theorem Keeps.raiseColl {c : Coll} {code x who w3 : ℕ} (h : Keeps s0 s) : Keeps s0 (s.raiseColl c code x who w3) := by
  unfold State.raiseColl
  exact h.raise

theorem Keeps.collMem {c : Coll} {x : ℕ} {e : MemErr} (h : Keeps s0 s) : Keeps s0 (s.collMem c x e) := by
  unfold State.collMem
  exact h.raiseMem

theorem Keeps.sendEmpty {c : Coll} {dst : PkgId} {op : Byte} {tree : ℕ} (h : Keeps s0 s) :
    Keeps s0 (s.sendEmpty c dst op tree) := by
  unfold State.sendEmpty
  exact h.newTree

theorem Keeps.sendChunk {c : Coll} {dst : PkgId} {op : Byte} {tree ch : ℕ} {sp : Bool} {b m : ℕ} {bs : Bytes}
    (h : Keeps s0 s) : Keeps s0 (s.sendChunk c dst op tree ch sp b m bs) := by
  unfold State.sendChunk
  exact Keeps.foldl _ _ (fun _ _ h => h.newTree) h

theorem Keeps.sendPartial {c : Coll} {dst : PkgId} {tree ch : ℕ} {l : List CollElem} (h : Keeps s0 s) :
    Keeps s0 (s.sendPartial c dst tree ch l) := by
  unfold State.sendPartial
  exact h.sendChunk.ite h.sendChunk

theorem Keeps.updColl {c : Coll} {f : Coll → Coll} (h : Keeps s0 s) : Keeps s0 (s.updColl c f) := by
  unfold State.updColl
  exact h.mkSet le_rfl

theorem Keeps.readChunk {c : Coll} {ch : ℕ} (h : Keeps s0 s) : Keeps s0 (s.readChunk c ch).2 := by
  unfold State.readChunk
  exact h.peek

theorem Keeps.stageChunk {c : Coll} {ch : ℕ} {bs : Bytes} (h : Keeps s0 s) : Keeps s0 (s.stageChunk c ch bs).2 := by
  unfold State.stageChunk
  exact h.writeMem

theorem Keeps.passDown {c : Coll} {g : Group} {tree ch : ℕ} {data : Option Bytes} (h : Keeps s0 s) :
    Keeps s0 (s.passDown c g tree ch data) := by
  unfold State.passDown
  dsimp only
  split
  · split
    · split
      · next e1 =>
          exact (Keeps.sndOfEq e1 h.stageChunk).collMem
      · next e1 =>
          exact Keeps.foldl _ _ (fun _ _ h => h.sendChunk) ((Keeps.sndOfEq e1 h.stageChunk).updColl)
    · exact Keeps.foldl _ _ (fun _ _ h => h.sendChunk) h.updColl
  · exact Keeps.foldl _ _ (fun _ _ h => h.sendEmpty) h.updColl

theorem Keeps.stageRoot {c : Coll} {tree ch : ℕ} {bs : Bytes} (h : Keeps s0 s) : Keeps s0 (s.stageRoot c tree ch bs) :=
    by
  unfold State.stageRoot
  split
  · next e =>
      exact (Keeps.sndOfEq e h.stageChunk).collMem
  · next e =>
      exact (Keeps.sndOfEq e h.stageChunk).updColl

theorem Keeps.passUp {c : Coll} {g : Group} {tree ch : ℕ} (h : Keeps s0 s) : Keeps s0 (s.passUp c g tree ch) := by
  unfold State.passUp
  dsimp only
  split
  · split
    · exact h.updColl.sendEmpty
    · exact h.updColl
  · split
    · next e =>
        exact (Keeps.sndOfEq e h.readChunk).collMem
    · next e =>
        split
        · exact ((Keeps.sndOfEq e h.readChunk).updColl).sendPartial
        · exact (((Keeps.sndOfEq e h.readChunk).updColl).passDown).ite
            ((((Keeps.sndOfEq e h.readChunk).updColl).stageRoot).ite
            (((Keeps.sndOfEq e h.readChunk).updColl).sendChunk))

theorem Keeps.downSource {c : Coll} {g : Group} {tree ch : ℕ} (h : Keeps s0 s) : Keeps s0 (s.downSource c g tree ch).2
    := by
  unfold State.downSource
  split
  · split
    · exact h
    · exact h
  · split
    · exact h
    · split
      · exact h
      · split
        · exact h
        · split
          · split
            · next e1 =>
                exact (Keeps.sndOfEq e1 h.readChunk).collMem
            · next e1 =>
                exact Keeps.sndOfEq e1 h.readChunk
          · split
            · exact h
            · exact h

theorem Keeps.collAct {c : Coll} {g : Group} (h : Keeps s0 s) : KeepsSome s0 (s.collAct c g) := by
  unfold State.collAct
  dsimp only
  split
  · exact .some h.passUp
  · split
    · exact .some h.stageRoot
    · refine KeepsSome.findSome fun e => ?_
      split
      · exact .none
      · split
        · next e => exact .some (Keeps.sndOfEq e h.downSource).passDown
        · next e =>
          split
          · exact .some (Keeps.sndOfEq e h.downSource)
          · exact .none

theorem Keeps.collRun {group : BitVec 12} {equinox : Word} {n : ℕ} (h : Keeps s0 s) :
    Keeps s0 (s.collRun group equinox n) := by
  induction n generalizing s with
  | zero => exact h
  | succ n ih =>
    unfold State.collRun
    split
    · split
      · exact h
      · split
        · next e => exact ih (h.collAct _ e)
        · exact h
    · exact h

theorem Keeps.replyTree {k : TreePkt} {status : ℕ} (h : Keeps s0 s) : Keeps s0 (s.replyTree k status) := by
  unfold State.replyTree
  exact (h.updXdie.ite h).reply

theorem Keeps.collAccept {c : Coll} {input : ℕ} {k : TreePkt} {data : Bytes} (h : Keeps s0 s) :
    KeepsSome s0 (s.collAccept c input k data) := by
  unfold State.collAccept
  split
  · exact .some h
  · split
    · exact .some h.raiseColl
    · split
      · exact .none
      · exact .some h.updColl.collRun

theorem Keeps.collAborted {c : Coll} {k : TreePkt} (h : Keeps s0 s) : Keeps s0 (s.collAborted c k) := by
  unfold State.collAborted
  exact h.ite (h.updColl.raiseColl.ite (h.sendCollAborts.updColl.ite (h.updColl.raiseColl.ite h.updColl.raiseColl)))

theorem Keeps.storeEarlyTree {k : TreePkt} {data : Bytes} (h : Keeps s0 s) : Keeps s0 (s.storeEarlyTree k data) := by
  unfold State.storeEarlyTree
  exact h.updXdie

theorem Keeps.applyTree {c : Coll} {g : Group} {k : TreePkt} {data : Bytes} (h : Keeps s0 s) :
    KeepsSome s0 (s.applyTree c g k data) := by
  unfold State.applyTree
  split
  · exact .some h.collAborted
  · split
    · exact h.collAccept
    · exact .some (h.ite h.raiseColl)

theorem Keeps.drainEarly {group : BitVec 12} {equinox : Word} {n : ℕ} (h : Keeps s0 s) :
    Keeps s0 (s.drainEarly group equinox n) := by
  induction n generalizing s with
  | zero => exact h
  | succ n ih =>
    unfold State.drainEarly
    split
    · dsimp only
      split
      · next e =>
        exact ih (KeepsSome.findSome (fun x => KeepsSome.findSome fun e => h.updXdie.applyTree) _ e)
      · exact h
    · exact h

theorem Keeps.treeUnarmed {k : TreePkt} {data : Bytes} (h : Keeps s0 s) : Keeps s0 (s.treeUnarmed k data) := by
  unfold State.treeUnarmed
  split
  · exact (((h.ite h.sendCollAborts).mkSet le_rfl).replyTree).ite h.replyTree
  · exact h.replyTree.ite (h.replyTree.ite h.storeEarlyTree.replyTree)

theorem Keeps.onTree {k : TreePkt} {data : Bytes} (h : Keeps s0 s) : Keeps s0 (s.onTree k data) := by
  unfold State.onTree
  split
  · exact h.replyTree
  · split
    · split
      · next e => exact (h.applyTree _ e).replyTree.drainEarly
      · exact h.replyTree
    · exact h.treeUnarmed

theorem Keeps.takeTree {op : Byte} {k : TreePkt} {data : Bytes} (h : Keeps s0 s) : Keeps s0 (s.takeTree op k data) := by
  unfold State.takeTree
  split
  · exact h
  · split
    · exact h.takeRx.onTree
    · exact h

theorem Keeps.armColl {p pos desc : ℕ} {equinox : Word} {deadline : ℕ} {mv : Bool} {window : ℕ} (h : Keeps s0 s) :
    Keeps s0 (s.armColl p pos desc equinox deadline mv window) := by
  unfold State.armColl
  split
  · next e => exact (Keeps.sndOfEq e h.peek).draw.noteCollFault.raiseMem
  · next bs _ e =>
    have hs := Keeps.sndOfEq e h.peek
    have bad := Keeps.foldl (fun s (x : ℕ) => s.raise p (s.collRecord 0x0604 x desc (BitVec.ofNat 12 (field bs 4 2))
      (field bs 0 1 % 16) 0 equinox 0)) [0, 1, 2, 3] (fun _ _ h => h.raise) (hs.noteCollFault
        (group := BitVec.ofNat 12 (field bs 4 2)) (code := 0x0604))
    extract_lets group fail bad'
    split
    · exact bad
    · extract_lets c used
      refine Keeps.ite bad (Keeps.ite hs.noteCollFault.raise (Keeps.ite hs.noteCollFault.raise ?_))
      split
      · exact hs.noteCollFault.raise
      · exact (hs.mkSet le_rfl).drainEarly

theorem Keeps.sendRoots {c : Coll} {g : Group} {dies : List ℕ} (h : Keeps s0 s) : Keeps s0 (s.sendRoots c g dies) := by
  unfold State.sendRoots
  exact Keeps.foldl _ _ (fun s a h => by
      dsimp only
      split
      · exact h
      · split
        · next e =>
            exact (Keeps.sndOfEq e h.readChunk).collMem
        · next e =>
            exact (Keeps.sndOfEq e h.readChunk).sendChunk) h

theorem Keeps.startColl {group : BitVec 12} {equinox : Word} (h : Keeps s0 s) : Keeps s0 (s.startColl group equinox) :=
    by
  unfold State.startColl
  split
  · exact h.collRun.ite (((h.updColl.sendRoots.ite h.updColl).collRun).drainEarly)
  · exact h

theorem Keeps.collMissed {group : BitVec 12} {equinox : Word} (h : Keeps s0 s) : Keeps s0 (s.collMissed group equinox)
    := by
  unfold State.collMissed
  split
  · exact h
  · split
    · exact h.ite h.raise
    · exact h

theorem Keeps.freeColl {c : Coll} (h : Keeps s0 s) : Keeps s0 (s.freeColl c) := by
  unfold State.freeColl
  exact ((((h.mkSet le_rfl).updItem).finishItem).semAdd).ite (((h.mkSet le_rfl).updItem).finishItem)

theorem Keeps.completeColl {group : BitVec 12} {equinox : Word} (h : Keeps s0 s) :
    Keeps s0 (s.completeColl group equinox) := by
  unfold State.completeColl
  split
  · exact h
  · exact h.ite ((Keeps.foldl _ _ (fun _ _ h => h.updXdie) h.updColl).ite
      ((Keeps.foldl _ _ (fun _ _ h => h.updXdie) h.updColl).freeColl))

theorem Keeps.commitColl {group : BitVec 12} {equinox : Word} (h : Keeps s0 s) : Keeps s0 (s.commitColl group equinox)
    := by
  unfold State.commitColl
  split
  · exact h
  · split
    · exact h
    · split
      · next e2 =>
          exact (Keeps.sndOfEq e2 h.peek).collMem
      · next e2 =>
          split
          · next e3 =>
              exact (Keeps.sndOfEq e3 ((Keeps.sndOfEq e2 h.peek).writeMem)).collMem
          · next e3 =>
              exact (Keeps.sndOfEq e3 ((Keeps.sndOfEq e2 h.peek).writeMem)).freeColl

theorem Keeps.raiseStep {st : Step} {x : ℕ} {r : FaultRec} (h : Keeps s0 s) : Keeps s0 (s.raiseStep st x r) := by
  unfold State.raiseStep
  exact h.noteMonFault.raise

theorem Keeps.stepEnd {α : Type} {st : Step} {x : ℕ} {r : Try α} {f : α → State → State} (h : Keeps s0 r.2)
 (hf : ∀ a s, Keeps s0 s → Keeps s0 (f a s)) : Keeps s0 (Machine.stepEnd st x r f) := by
  unfold Machine.stepEnd
  split
  · exact h.raiseStep
  · exact hf _ _ h

theorem Keeps.unitsEnd {α : Type} {st : Step} {r : Try α} {f : α → State → State} (h : Keeps s0 r.2)
 (hf : ∀ a s, Keeps s0 s → Keeps s0 (f a s)) : Keeps s0 (Machine.unitsEnd st r f) := by
  unfold Machine.unitsEnd
  split
  · exact h.raiseStep
  · exact hf _ _ h

theorem Keeps.raisePair {p x : ℕ} {group : BitVec 12} {step : BitVec 16} {digest : Word} {r : FaultRec} (h : Keeps s0 s)
    : Keeps s0 (s.raisePair p x group step digest r) := by
  unfold State.raisePair
  dsimp only
  split
  · exact h.noteMonFault.raise.ite h.noteMonFault.raise.rememberPair
  · exact h.noteMonFault.raise.sendPairAborts.ite h.noteMonFault.raise.sendPairAborts.rememberPair

theorem Keeps.armStep {p sl : ℕ} {i : Item} (h : Keeps s0 s) : Keeps s0 (s.armStep p sl i) := by
  unfold State.armStep
  dsimp only
  split
  · exact h
  · split
    · next e =>
        exact (((Keeps.sndOfEq e h.unitRead).draw).noteMonFault).raise
    · next e =>
        split
        · exact (Keeps.sndOfEq e h.unitRead).raisePair
        · split
          · exact (Keeps.sndOfEq e h.unitRead).raisePair
          · split
            · exact h
            · split
              · next e1 =>
                  exact (Keeps.sndOfEq e1 ((Keeps.sndOfEq e h.unitRead).unitRead)).raisePair
              · next e1 =>
                  split
                  · exact (Keeps.sndOfEq e1 ((Keeps.sndOfEq e h.unitRead).unitRead)).raisePair
                  · split
                    · exact h
                    · split
                      · exact (Keeps.sndOfEq e1 ((Keeps.sndOfEq e h.unitRead).unitRead)).raisePair
                      · exact ((Keeps.sndOfEq e1 ((Keeps.sndOfEq e h.unitRead).unitRead)).mkSet le_rfl).updItem

theorem Keeps.routerPost {c tag : ℕ} (h : Keeps s0 s) : Keeps s0 (s.routerPost c tag) := by
  unfold State.routerPost
  split
  · exact h
  · split
    · exact h
    · dsimp only
      split
      · exact h.draw.noteMonFault.raise
      · split
        · exact h.noteMonFault.raise
        · split
          · exact h
          · split
            · next e2 =>
                exact (Keeps.sndOfEq e2 h.writeMem).raise
            · next e2 =>
                exact ((Keeps.sndOfEq e2 h.writeMem).updStep).updCore

theorem Keeps.tableRead {st : Step} {x : ℕ} (h : Keeps s0 s) : Keeps s0 (s.tableRead st x).2 := by
  unfold State.tableRead
  exact h.unitRead.tryThen (fun _ _ h => h)

theorem Keeps.scoreQuarter {st : Step} {x : ℕ} (h : Keeps s0 s) : Keeps s0 (s.scoreQuarter st x).2 := by
  unfold State.scoreQuarter
  dsimp only
  split
  · exact h
  · exact h.unitRead.tryThen (fun x0 x1 h => by
      split
      · exact h.tryThen (fun x0 x1 h => h.tryList (fun x0 x1 h => h.unitRead.tryThen (fun x0 x1 h => by
      split
      · exact h
      · exact h)))
      · exact h.unitRead.tryThen (fun x0 x1 h => h.tryList (fun x0 x1 h => h.unitRead.tryThen (fun x0 x1 h => by
      split
      · exact h
      · exact h))))

theorem Keeps.checkCands {st : Step} {x : ℕ} {l : List (ℕ × Cands)} (h : Keeps s0 s) : Keeps s0 (s.checkCands st x l).2
    := by
  unfold State.checkCands
  dsimp only
  split
  · exact h
  · exact h

theorem Keeps.scoringStart {sl x : ℕ} (h : Keeps s0 s) : Keeps s0 (s.scoringStart sl x) := by
  unfold State.scoringStart
  split
  · exact h
  · exact h.ite ((h.tableRead.tryThen (fun _ _ h => h.scoreQuarter.tryThen
      (fun _ _ h => h.checkCands.tryThen (fun _ _ h => h)))).stepEnd
      (fun _ _ h => ((h.mkSet (Nat.le_add_right _ _)).updXdie).updStep))

theorem Keeps.sendCounts {sl : ℕ} {st : Step} {x : ℕ} {m : PkgId} (h : Keeps s0 s) : Keeps s0 (s.sendCounts sl st x m)
    := by
  unfold State.sendCounts
  exact h.newXact

theorem Keeps.countFates {st : Step} {new : List Choice} (h : Keeps s0 s) : Keeps s0 (s.countFates st new) := by
  unfold State.countFates
  exact Keeps.foldl _ _ (fun _ _ h => h.updXdie.ite (h.updXdie.ite h)) h

theorem Keeps.writeResults {st : Step} (h : Keeps s0 s) : Keeps s0 (s.writeResults st) := by
  unfold State.writeResults
  exact ((h.tryList (fun _ _ h => h.unitWrite.tryThen (fun _ _ h => h.unitWrite))).tryThen
      (fun _ _ h => h.unitWrite)).unitsEnd (fun _ _ h => h.semAdd.ite h)

theorem Keeps.endRound {sl : ℕ} {st : Step} (h : Keeps s0 s) : Keeps s0 (s.endRound sl st) := by
  unfold State.endRound
  split
  · exact h.raiseStep
  · exact h.countFates.updStep.writeResults.ite h.countFates.updStep

theorem Keeps.countRound {sl : ℕ} (h : Keeps s0 s) : Keeps s0 (s.countRound sl) := by
  unfold State.countRound
  split
  · exact h
  · exact h.ite ((((Keeps.foldl _ _ (fun _ _ h => h.sendCounts) h).updStep).endRound).ite
      ((Keeps.foldl _ _ (fun _ _ h => h.sendCounts) h).updStep))

theorem Keeps.takeBuffers {sl x round slot : ℕ} (h : Keeps s0 s) : Keeps s0 (s.takeBuffers sl x round slot).2 := by
  unfold State.takeBuffers
  split
  · exact h
  · dsimp only
    split
    · split
      · exact h
      · exact h
    · split
      · exact h.updStep
      · split
        · exact h.noteEmpty.ite h
        · split
          · exact h.poolTakeMany
          · exact h.poolTakeMany.updStep.unitWrite

theorem Keeps.sendPrefix {sl : ℕ} {st : Step} {x round : ℕ} {m : PkgId} (h : Keeps s0 s) :
    Keeps s0 (s.sendPrefix sl st x round m) := by
  unfold State.sendPrefix
  exact h.newXact

theorem Keeps.hostRound {sl x round : ℕ} (h : Keeps s0 s) : Keeps s0 (s.hostRound sl x round) := by
  unfold State.hostRound
  split
  · exact h
  · exact (h.tryList (fun _ _ h => h.takeBuffers)).stepEnd
      (fun _ _ h => ((Keeps.foldl _ _ (fun _ _ h => h.sendPrefix) h).updStep).ite
      (Keeps.foldl _ _ (fun _ _ h => h.sendPrefix) h))

theorem Keeps.onCounts {sl x : ℕ} {st : Step} {m : PkgId} {data : Bytes} (h : Keeps s0 s) :
    Keeps s0 (s.onCounts sl x st m data) := by
  unfold State.onCounts
  dsimp only
  split
  · exact h
  · split
    · exact h.raiseStep
    · split
      · exact h.raiseStep
      · exact h.updStep.hostRound.ite h.updStep

theorem Keeps.onPrefix {sl x : ℕ} {st : Step} {m : PkgId} {data : Bytes} (h : Keeps s0 s) :
    Keeps s0 (s.onPrefix sl x st m data) := by
  unfold State.onPrefix
  exact h.ite (h.updStep.endRound.ite h.updStep)

theorem Keeps.onAbort {sl x : ℕ} {st : Step} {m : PkgId} {data : Bytes} (h : Keeps s0 s) :
    Keeps s0 (s.onAbort sl x st m data) := by
  unfold State.onAbort
  exact h.ite h.updStep.raiseStep

theorem Keeps.onExchange {sl x : ℕ} {st : Step} {m : PkgId} {data : Bytes} (h : Keeps s0 s) :
    Keeps s0 (s.onExchange sl x st m data) := by
  unfold State.onExchange
  split
  · exact h.onCounts
  · exact h.onPrefix
  · exact h.onAbort
  · exact h

theorem Keeps.applyEarly {sl x2 : ℕ} (h : Keeps s0 s) : Keeps s0 (s.applyEarly sl x2) := by
  induction x2 generalizing s sl with
  | zero =>
    exact h
  | succ x2 ih =>
    unfold State.applyEarly
    split
    · exact h
    · dsimp only
      split
      · exact h
      · exact ih h.updXdie.onExchange

theorem Keeps.takeExchange {x kind : ℕ} {k : Pkt} {data : Bytes} (h : Keeps s0 s) :
    Keeps s0 (s.takeExchange x kind k data) := by
  unfold State.takeExchange
  dsimp only
  split
  · exact h
  · split
    · exact h.ite h.takeRx.reply.onExchange
    · exact h.takeRx.reply.ite (h.takeRx.reply.ite (h.takeRx.ite h.takeRx.updXdie.reply))

theorem Keeps.monsoonArm {p : ℕ} (h : Keeps s0 s) : Keeps s0 (s.monsoonArm p) := by
  unfold State.monsoonArm
  dsimp only
  split
  · exact h.armStep.applyEarly.ite h
  · exact h

theorem Keeps.expirePair (h : Keeps s0 s) : Keeps s0 s.expirePair := by
  unfold State.expirePair
  split
  · exact (h.mkSet le_rfl).ite h
  · exact h

theorem Keeps.armFc {p sl : ℕ} {i : Item} (h : Keeps s0 s) : Keeps s0 (s.armFc p sl i) := by
  unfold State.armFc
  split
  · exact h
  · split
    · next e =>
        exact (Keeps.sndOfEq e h.unitRead).raise
    · next e =>
        dsimp only
        split
        · exact (Keeps.sndOfEq e h.unitRead).raise
        · split
          · exact (Keeps.sndOfEq e h.unitRead).raise
          · exact ((Keeps.sndOfEq e h.unitRead).mkSet le_rfl).updItem

theorem Keeps.forecastArm {p : ℕ} (h : Keeps s0 s) : Keeps s0 (s.forecastArm p) := by
  unfold State.forecastArm
  dsimp only
  split
  · exact h.armFc
  · exact h

theorem Keeps.forecastStart {sl : ℕ} (h : Keeps s0 s) : Keeps s0 (s.forecastStart sl) := by
  unfold State.forecastStart
  split
  · exact h
  · split
    · exact h
    · split
      · next e1 =>
          exact (Keeps.sndOfEq e1 h.unitRead).raise
      · next e1 =>
          dsimp only
          split
          · exact (Keeps.sndOfEq e1 h.unitRead).raise
          · exact ((Keeps.sndOfEq e1 h.unitRead).updItem).updFc

theorem Keeps.fcCand {x : ℕ} {f : Fc} {x3 : ℕ} {probes : List (List Val)} {b : ℕ} (h : Keeps s0 s) :
    Keeps s0 (s.fcCand x f x3 probes b).2 := by
  unfold State.fcCand
  exact h.unitRead.tryThen (fun x0 x1 h => by
      dsimp only
      split
      · exact h
      · exact h)

theorem Keeps.forecastSegment {sl x : ℕ} (h : Keeps s0 s) : Keeps s0 (s.forecastSegment sl x) := by
  unfold State.forecastSegment
  split
  · exact h
  · split
    · exact h
    · exact h.ite (h.ite ((h.unitRead.tryThen (fun _ _ h => h.tryList (fun _ _ h => h.fcCand))).tryRaise
        (fun _ _ h => (((h.mkSet (Nat.le_add_right _ _)).updXdie).mkSet le_rfl).updFc)))

theorem Keeps.fcEntry {f : Fc} {at_ x3 i : ℕ} {e : ℕ × Bool × Bool} (h : Keeps s0 s) :
    Keeps s0 (s.fcEntry f at_ x3 i e).2 := by
  unfold State.fcEntry
  exact h.unitRead.tryThen (fun x0 x1 h => by
      split
      · exact h
      · exact h.unitWrite.tryThen (fun _ _ h => h.unitWrite))

theorem Keeps.forecastList {sl : ℕ} (h : Keeps s0 s) : Keeps s0 (s.forecastList sl) := by
  unfold State.forecastList
  split
  · exact h
  · exact h.ite (((h.tryList (fun _ _ h => h.fcEntry)).tryThen (fun _ _ h => h.unitWrite)).tryRaise
      (fun _ _ h => h.updFc))

theorem Keeps.forecastComplete {sl : ℕ} (h : Keeps s0 s) : Keeps s0 (s.forecastComplete sl) := by
  unfold State.forecastComplete
  split
  · exact h
  · exact h.ite ((((h.mkSet le_rfl).finishItem).semAdd).ite ((h.mkSet le_rfl).finishItem))

theorem Keeps.fcMissed {sl : ℕ} (h : Keeps s0 s) : Keeps s0 (s.fcMissed sl) := by
  unfold State.fcMissed
  split
  · exact h
  · split
    · exact h.ite h.raise
    · exact h

theorem Keeps.dispatchChoice {sl x : ℕ} (h : Keeps s0 s) : Keeps s0 (s.dispatchChoice sl x) := by
  unfold State.dispatchChoice
  split
  · exact h
  · split
    · exact h
    · exact h.ite (h.unitRead.stepEnd (fun _ _ h =>
        (((Keeps.foldl _ _ (fun _ _ h => h.newXact) h).mkSet (Nat.le_add_right _ _)).updXdie).updStep))

theorem Keeps.rowIn {sl x slot row : ℕ} (h : Keeps s0 s) : Keeps s0 (s.rowIn sl x slot row) := by
  unfold State.rowIn
  exact h.updXdie.updStep

theorem Keeps.placeDense {sl x : ℕ} {st : Step} {x4 : ChunkHead} {at_ : ℕ} (h : Keeps s0 s) :
    Keeps s0 (s.placeDense sl x st x4 at_) := by
  unfold State.placeDense
  exact h.ite ((h.unitWrite.tryThen (fun _ _ h => h.unitWrite)).stepEnd (fun _ _ h => h.updStep.rowIn.ite h.updStep))

theorem Keeps.takeMon {k : Pkt} {data : Bytes} {lo : ℕ} {t : State} {c : ChunkHead} (h : Keeps s0 s)
    (e : s.takeMon k data lo = some (t, c)) : Keeps s0 t := by
  unfold State.takeMon at e
  dsimp only at e
  split at e
  · cases e
  · cases e
    exact h.takeRx

theorem Keeps.batchComplete {sl slot : ℕ} (h : Keeps s0 s) : Keeps s0 (s.batchComplete sl slot) := by
  unfold State.batchComplete
  split
  · exact h
  · exact h.ite (h.unitWrite.stepEnd (fun _ _ h => h.updStep.semAdd))

theorem Keeps.launchReturn {p : ℕ} {i : Item} (h : Keeps s0 s) : Keeps s0 (s.launchReturn p i) := by
  unfold State.launchReturn
  dsimp only
  split
  · next e =>
      exact ((Keeps.sndOfEq e h.draw.unitRead).noteMonFault).raise
  · next e =>
      split
      · exact ((Keeps.sndOfEq e h.draw.unitRead).noteMonFault).raise
      · exact (((Keeps.sndOfEq e h.draw.unitRead).noteMonFault).raise).ite
          (((Keeps.sndOfEq e h.draw.unitRead).updStep).updItem)

theorem Keeps.returnStart {sl slot : ℕ} (h : Keeps s0 s) : Keeps s0 (s.returnStart sl slot) := by
  unfold State.returnStart
  split
  · exact h
  · exact h.ite h.updStep.endReturn

theorem Keeps.returnRow {sl slot : ℕ} (h : Keeps s0 s) : Keeps s0 (s.returnRow sl slot) := by
  unfold State.returnRow
  split
  · exact h
  · split
    · dsimp only
      split
      · exact h
      · exact h.ite ((h.unitRead.tryThen (fun x0 x1 h => by
      split
      · exact h
      · exact h.unitRead.tryThen (fun _ _ h => h))).stepEnd
          (fun _ _ h => (Keeps.foldl _ _ (fun _ _ h => h.newXact) h).updStep))
    · exact h

theorem Keeps.returnInvalid {st : Step} {x : ℕ} {t : BitVec 128} {reason : ℕ} (h : Keeps s0 s) :
    Keeps s0 (s.returnInvalid st x t reason) := by
  unfold State.returnInvalid
  exact h.raiseStep

theorem Keeps.resultIn {sl row rank : ℕ} (h : Keeps s0 s) : Keeps s0 (s.resultIn sl row rank) := by
  unfold State.resultIn
  exact h.updStep

theorem Keeps.strayReturn {x : ℕ} {k : Pkt} {x3 : ChunkHead} (h : Keeps s0 s) : Keeps s0 (s.strayReturn x k x3) := by
  unfold State.strayReturn
  dsimp only
  split
  · exact h
  · split
    · exact h.noteMonFault
    · exact h.raisePair

theorem Keeps.tokenCombine {sl row : ℕ} (h : Keeps s0 s) : Keeps s0 (s.tokenCombine sl row) := by
  unfold State.tokenCombine
  split
  · exact h
  · exact h.ite (((h.tryList (fun _ _ h => h.unitRead.tryThen (fun _ _ h => h))).tryThen
      (fun x0 x1 h => h.unitWrite.tryThen (fun x0 x1 h => by
      split
      · exact h
      · exact h.unitWrite))).stepEnd (fun _ _ h => h.updStep))

theorem Keeps.stepComplete {sl : ℕ} (h : Keeps s0 s) : Keeps s0 (s.stepComplete sl) := by
  unfold State.stepComplete
  split
  · exact h
  · exact h.ite h.updStep.rememberPair

theorem Keeps.stepCommit {sl : ℕ} (h : Keeps s0 s) : Keeps s0 (s.stepCommit sl) := by
  unfold State.stepCommit
  split
  · exact h
  · exact h.ite ((h.tryList (fun _ _ h => h.unitRead.tryThen (fun _ _ h => h.unitWrite))).unitsEnd
      (fun _ _ h => (((h.mkSet le_rfl).finishItem).semAdd).ite ((h.mkSet le_rfl).finishItem)))

theorem Keeps.stepMissed {sl : ℕ} (h : Keeps s0 s) : Keeps s0 (s.stepMissed sl) := by
  unfold State.stepMissed
  split
  · exact h
  · split
    · exact h.ite h.raiseStep
    · exact h

theorem Keeps.entryCheck {p : ℕ} {e : Entry} (h : Keeps s0 s) : Keeps s0 (s.entryCheck p e).2 := by
  unfold State.entryCheck
  split
  · exact h
  · split
    · exact h.cmdRead.tryThen (fun x0 x1 h => by
      split
      · exact h
      · split
        · exact h
        · exact h)
    · exact h.tryThen (fun x0 x1 h => by
      split
      · exact h
      · split
        · exact h
        · exact h)

theorem Keeps.takeEntry {p : ℕ} {i : Item} (h : Keeps s0 s) : Keeps s0 (s.takeEntry p i) := by
  unfold State.takeEntry
  exact h.updPartition

theorem Keeps.deliverLaunch {p : ℕ} {i : Item} (h : Keeps s0 s) : Keeps s0 (s.deliverLaunch p i) := by
  unfold State.deliverLaunch
  exact h.ite (Keeps.foldl _ _ (fun _ _ h => h.updCtx) h.updItem)

theorem Keeps.fetchKernel {p : ℕ} {e : Entry} {d : Bytes} (h : Keeps s0 s) : Keeps s0 (s.fetchKernel p e d) := by
  unfold State.fetchKernel
  exact h.takeEntry.deliverLaunch

theorem Keeps.startEntry {p : ℕ} {i : Item} (h : Keeps s0 s) : Keeps s0 (s.startEntry p i) := by
  unfold State.startEntry
  dsimp only
  split
  · split
    · next e1 =>
        exact (Keeps.sndOfEq e1 h.cmdRead).raise
    · next e1 =>
        split
        · exact ((Keeps.sndOfEq e1 h.cmdRead).updItem).entryEnd
        · split
          · exact ((Keeps.sndOfEq e1 h.cmdRead).updItem).raise
          · exact (((Keeps.sndOfEq e1 h.cmdRead).updItem).copyStart).tryRaise (fun _ _ h => h.entryEnd)
  · exact h.updItem.launchReturn
  · exact h.updItem.finishItem
  · exact h.updItem.semWait
  · exact h.updItem.semAdd.finishItem
  · exact h.updItem.cmdWrite.tryRaise (fun _ _ h => h.finishItem)
  · exact h.updItem.cmdWrite.tryRaise (fun _ _ h => h.finishItem)
  · exact h.updItem

theorem Keeps.startDue {p pos : ℕ} (h : Keeps s0 s) : Keeps s0 (s.startDue p pos) := by
  unfold State.startDue
  split
  · exact h
  · exact h.startEntry.ite h

theorem Keeps.fetchLocal {p : ℕ} {e : Entry} {t : EntryType} (h : Keeps s0 s) : Keeps s0 (s.fetchLocal p e t) := by
  unfold State.fetchLocal
  exact h.takeEntry.startDue

theorem Keeps.fetchReturn {p : ℕ} {e : Entry} (h : Keeps s0 s) : Keeps s0 (s.fetchReturn p e) := by
  unfold State.fetchReturn
  exact h.raise.ite h.takeEntry.startDue

theorem Keeps.fetchLoop {p : ℕ} {e : Entry} {d : Bytes} (h : Keeps s0 s) : Keeps s0 (s.fetchLoop p e d) := by
  unfold State.fetchLoop
  exact h.takeEntry.updPartition

theorem Keeps.fetchEntry {p : ℕ} {e : Entry} {t : EntryType} {d : Bytes} (h : Keeps s0 s) :
    Keeps s0 (s.fetchEntry p e t d) := by
  unfold State.fetchEntry
  split
  · exact h.fetchKernel
  · exact h.takeEntry
  · exact h.takeEntry
  · exact h.takeEntry.armColl
  · exact h.fetchReturn
  · exact h.fetchLoop
  · exact h.fetchLocal

theorem Keeps.nextSlot {p : ℕ} (h : Keeps s0 s) : Keeps s0 (s.nextSlot p).2 := by
  unfold State.nextSlot
  exact h.cmdRead

theorem Keeps.serveRing {p : ℕ} (h : Keeps s0 s) : Keeps s0 (s.serveRing p) := by
  unfold State.serveRing
  exact h.mkSet le_rfl

theorem Keeps.endLoop {p : ℕ} {l : Loop} (h : Keeps s0 s) : Keeps s0 (s.endLoop p l) := by
  unfold State.endLoop
  exact h.updItem.updPartition.finishItem

theorem Keeps.nextTrip {p : ℕ} {l : Loop} (h : Keeps s0 s) : Keeps s0 (s.nextTrip p l) := by
  unfold State.nextTrip
  exact h.updPartition

theorem Keeps.loopTest {p : ℕ} (h : Keeps s0 s) : Keeps s0 (s.loopTest p) := by
  unfold State.loopTest
  dsimp only
  split
  · exact h
  · split
    · exact h
    · exact h.ite (h.cmdRead.tryRaise (fun _ _ h => h.endLoop.ite (h.raise.ite h.nextTrip)))

theorem Keeps.wakeRing {p : ℕ} (h : Keeps s0 s) : Keeps s0 (s.wakeRing p) := by
  unfold State.wakeRing
  exact h.updPartition.ite h

theorem Keeps.csrAnswer {k : StewardId} {v : Word} (h : Keeps s0 s) : Keeps s0 (s.csrAnswer k v) := by
  unfold State.csrAnswer
  exact h.emit

theorem Keeps.csrIllegal {k num : ℕ} (h : Keeps s0 s) : Keeps s0 (s.csrIllegal k num) := by
  unfold State.csrIllegal
  exact ((h.mkSet (Nat.le_add_right _ _)).stewardTrap).ite h

theorem Keeps.cmdReserve {k : StewardId} {m : Word} (h : Keeps s0 s) : Keeps s0 (s.cmdReserve k m) := by
  unfold State.cmdReserve
  split
  · exact h.csrIllegal
  · exact h.updPartition.csrAnswer.ite h.csrAnswer

theorem Keeps.execCmdDoorbell {k : StewardId} (h : Keeps s0 s) : Completes s0 (execCmdDoorbell k s) := by
  unfold Machine.execCmdDoorbell
  split
  · exact .next h.wakeRing
  · exact .next h.csrIllegal

theorem Keeps.cmdSemAdd {k : ℕ} {v : Word} (h : Keeps s0 s) : Keeps s0 (s.cmdSemAdd k v) := by
  unfold State.cmdSemAdd
  split
  · exact h.semAdd
  · exact h.csrIllegal

theorem Keeps.cmdSemTake {k : StewardId} {n : Word} (h : Keeps s0 s) : Keeps s0 (s.cmdSemTake k n) := by
  unfold State.cmdSemTake
  split
  · split
    · next e1 =>
        exact ((Keeps.sndOfEq e1 h.semTry).updSteward).csrAnswer
  · exact h.csrIllegal

theorem Keeps.wfi {k : ℕ} (h : Keeps s0 s) : Keeps s0 (s.wfi k) := by
  unfold State.wfi
  split
  · exact h
  · exact h.ite ((h.mkSet (Nat.le_add_right _ _)).updSteward)

theorem Keeps.wfiEnd {k : ℕ} (h : Keeps s0 s) : Keeps s0 (s.wfiEnd k) := by
  unfold State.wfiEnd
  dsimp only
  split
  · exact h
  · exact h.updSteward.ite h

theorem Keeps.ringError {n : ℕ} (h : Keeps s0 s) : Keeps s0 (s.ringError n) := by
  unfold State.ringError
  exact h.updChannel.signalErr

theorem Keeps.doorbell {n : ℕ} {v : BitVec 32} (h : Keeps s0 s) : Keeps s0 (s.doorbell n v) := by
  unfold State.doorbell
  exact h.ite (h.ringError.ite h.updChannel.retime)

theorem Keeps.chControl {n : ℕ} {v : Word} (h : Keeps s0 s) : Keeps s0 (s.chControl n v) := by
  unfold State.chControl
  exact h.ite ((h.ite h.updChannel.retime).ite
      (h.updChannel.retime.ite (h.updChannel.afterRoom.ite h.updChannel.ringError)))

theorem Keeps.takeRing {n : ℕ} {entry : Option Bytes} (h : Keeps s0 s) : Keeps s0 (s.takeRing n entry) := by
  unfold State.takeRing
  split
  · exact h
  · dsimp only
    split
    · split
      · exact h.hostRead.updChannel.ringError.retime
      · exact h.hostRead.drawBytes.updChannel.ringError.retime
    · split
      · exact h.hostRead.updChannel.retime
      · exact h.hostRead.drawBytes.updChannel.retime

theorem Keeps.channelFetch {n : ℕ} {r : RingAnswer} (h : Keeps s0 s) : Keeps s0 (s.channelFetch n r) := by
  unfold State.channelFetch
  exact (h.ringError.ite h).takeRing

theorem Keeps.channelTimeout {n : ℕ} (h : Keeps s0 s) : Keeps s0 (s.channelTimeout n) := by
  unfold State.channelTimeout
  exact h.ite h.updChannel.signalErr

theorem Keeps.flr (h : Keeps s0 s) : Keeps s0 s.flr := by
  unfold State.flr
  exact Keeps.foldl _ _ (fun _ _ h => h.senderReset) h

theorem Keeps.channelDrained {n : ℕ} (h : Keeps s0 s) : Keeps s0 (s.channelDrained n) := by
  unfold State.channelDrained
  exact h.ite (h.updFw.updChannel.updFw.ite h.updFw.updChannel)

theorem Keeps.restartChannel {n : ℕ} {aborted : List Taken} (h : Keeps s0 s) : Keeps s0 (s.restartChannel n aborted) :=
    by
  unfold State.restartChannel
  exact (Keeps.foldl _ _ (fun _ _ h => h.updChannel.finishCommand) h.updChannel.signalErr).afterRoom

theorem Keeps.restart (h : Keeps s0 s) : Keeps s0 s.restart := by
  unfold State.restart
  exact h.ite (Keeps.foldl _ _ (fun _ _ h => h.restartChannel)
      (Keeps.foldl _ _ (fun _ _ h => h.finishCommand) ((((h.abortGens.ite h).updFw).mkSet le_rfl).updFabric)))

theorem Keeps.postFrom {k p m a : ℕ} (h : Keeps s0 s) : Keeps s0 (s.postFrom k p m a).2 := by
  unfold State.postFrom
  dsimp only
  split
  · exact h
  · split
    · exact h
    · split
      · exact h
      · split
        · next e =>
            exact (Keeps.sndOfEq e h.peek).mbxPost
        · next e =>
            exact Keeps.sndOfEq e h.peek

theorem Keeps.stewardPost {k : StewardId} {m : ℕ} {addr : Word} (h : Keeps s0 s) : Keeps s0 (s.stewardPost k m addr) :=
    by
  unfold State.stewardPost
  split
  · exact h
  · split
    · next e1 =>
        exact (((Keeps.sndOfEq e1 h.postFrom).updSteward).emit).ite
            ((((Keeps.sndOfEq e1 h.postFrom).updSteward).mkSet (Nat.le_add_right _ _)).stewardTrap)

theorem Keeps.lockAcquire {a : Agent} {w : ℕ} (h : Keeps s0 s) : Keeps s0 (s.lockAcquire a w) := by
  unfold State.lockAcquire
  split
  · exact h.emit
  · split
    · exact h
    · split
      · split
        · next e1 =>
            exact (Keeps.sndOfEq e1 h.lockRead).emit
      · exact h.emit

theorem Keeps.lockRelease {a : Agent} {w : ℕ} {v : BitVec 32} (h : Keeps s0 s) : Keeps s0 (s.lockRelease a w v) := by
  unfold State.lockRelease
  split
  · exact h
  · split
    · exact h.lockWrite
    · exact h

theorem Keeps.writeBoot {off : ℕ} {x2 : Bytes} (h : Keeps s0 s) : Keeps s0 (s.writeBoot off x2) := by
  induction x2 generalizing s off with
  | nil =>
    exact h
  | cons a' x2 ih =>
    unfold State.writeBoot
    exact ih h.updMgmt

theorem Keeps.hostWindow {off len : ℕ} {w : Option Bytes} (h : Keeps s0 s) : Keeps s0 (s.hostWindow off len w) := by
  unfold State.hostWindow
  dsimp only
  split
  · exact h
  · split
    · exact h.emit
    · split
      · exact h.writeBoot
      · split
        · exact h.emit
        · split
          · exact h.writeMem
          · split
            · next e =>
                exact (Keeps.trdOfEq e h.readUpTo).emit
            · next e =>
                exact ((Keeps.trdOfEq e h.readUpTo).drawBytes).emit

theorem Keeps.noteLinkErrors {n k : ℕ} (h : Keeps s0 s) : Keeps s0 (s.noteLinkErrors n k) := by
  unfold State.noteLinkErrors
  exact h.mkSet le_rfl

theorem Keeps.countProto {n : ℕ} (h : Keeps s0 s) : Keeps s0 (s.countProto n) := by
  unfold State.countProto
  exact h.updPort

theorem Keeps.noteDepth {n : ℕ} (h : Keeps s0 s) : Keeps s0 (s.noteDepth n) := by
  unfold State.noteDepth
  exact h.noteAnem

theorem Keeps.deliver {n : ℕ} {o : OpenPkt} (h : Keeps s0 s) : Keeps s0 (s.deliver n o) := by
  unfold State.deliver
  dsimp only
  split
  · exact h.countProto.freeBuffers
  · split
    · exact h.updFabric.ite h.countProto.freeBuffers
    · exact h.transmit
    · exact h.updFabric.freeBuffers
    · exact h.freeBuffers

theorem Keeps.startCut {n : ℕ} (h : Keeps s0 s) : Keeps s0 (s.startCut n) := by
  unfold State.startCut
  split
  · exact h
  · split
    · exact h
    · exact (Keeps.foldl _ _ (fun _ _ h => h.sendFlit) h.updPort.sendFlit.noteHeader).updPort

theorem Keeps.freePort {m fuel : ℕ} (h : Keeps s0 s) : Keeps s0 (s.freePort m fuel) := by
  unfold State.freePort
  exact Keeps.foldl _ _ (fun _ _ h => h.startCut) h.drainPort

theorem Keeps.endPacket {n : ℕ} (h : Keeps s0 s) : Keeps s0 (s.endPacket n) := by
  unfold State.endPacket
  split
  · exact h
  · dsimp only
    split
    · split
      · exact h.updPort.updPort.freeBuffers.freePort
      · exact h.updPort.updPort.freeBuffers
    · split
      · exact h.updPort.freeBuffers.freePort
      · exact h.updPort.deliver

theorem Keeps.stompSlot {n : ℕ} {o : OpenPkt} (h : Keeps s0 s) : Keeps s0 (s.stompSlot n o) := by
  unfold State.stompSlot
  dsimp only
  split
  · exact (h.sendFlit.updPort.ite h).updPort
  · exact h.updPort

theorem Keeps.endIfFull {n : ℕ} (h : Keeps s0 s) : Keeps s0 (s.endIfFull n) := by
  unfold State.endIfFull
  split
  · exact h.endPacket.ite h
  · exact h

theorem Keeps.cutShort {n x2 : ℕ} (h : Keeps s0 s) : Keeps s0 (s.cutShort n x2) := by
  induction x2 generalizing s n with
  | zero =>
    exact h
  | succ x2 ih =>
    unfold State.cutShort
    split
    · exact h
    · exact h.endPacket.ite (ih h.stompSlot)

theorem Keeps.header {n : ℕ} {f : Flit} {bad : Bool} {f' : State → State} (h : Keeps s0 s)
 (hf : ∀ s, Keeps s0 s → Keeps s0 (f' s)) : Keeps s0 (s.header n f bad f') := by
  unfold State.header
  exact Keeps.ite h.cutShort.countProto (hf _ h.cutShort)

theorem Keeps.catchUp {n vc : ℕ} {q : BitVec 16} (h : Keeps s0 s) : Keeps s0 (s.catchUp n vc q) := by
  unfold State.catchUp
  exact h.freeBuffers.updPort.ite h

theorem Keeps.openPacket {n : ℕ} {f : Flit} (h : Keeps s0 s) : Keeps s0 (s.openPacket n f) := by
  unfold State.openPacket
  exact h.catchUp.updPort.noteHeader.updPort.startCut.noteDepth.endIfFull

theorem Keeps.rxKind {n kind : ℕ} {f : Flit} {bad : Bool} {f' : State → State} (h : Keeps s0 s)
 (hf : ∀ s, Keeps s0 s → Keeps s0 (f' s)) : Keeps s0 (s.rxKind n kind f bad f') := by
  unfold State.rxKind
  exact Keeps.ite (h.header fun _ h => (hf _ h).ite h) h

theorem Keeps.noteOrphan {n : ℕ} (h : Keeps s0 s) : Keeps s0 (s.noteOrphan n) := by
  unfold State.noteOrphan
  exact h.updPort

theorem Keeps.rxData {n : ℕ} {f : Flit} (h : Keeps s0 s) : Keeps s0 (s.rxData n f) := by
  unfold State.rxData
  split
  · exact h
  · split
    · exact h.noteOrphan
    · dsimp only
      split
      · exact h.sendFlit.updPort.endIfFull
      · exact h.updPort.endIfFull

theorem Keeps.rxStomped {n : ℕ} (h : Keeps s0 s) : Keeps s0 (s.rxStomped n) := by
  unfold State.rxStomped
  split
  · exact h
  · split
    · exact h.noteOrphan
    · exact h.stompSlot.endIfFull

theorem Keeps.rxBad {n : ℕ} (h : Keeps s0 s) : Keeps s0 (s.rxBad n) := by
  unfold State.rxBad
  split
  · exact h
  · dsimp only
    split
    · exact h.updPort.noteLinkErrors
    · exact h.updPort.noteLinkErrors.stompSlot.endIfFull

theorem Keeps.noteWord {n : ℕ} {c : LaneWord} (h : Keeps s0 s) : Keeps s0 (s.noteWord n c) := by
  unfold State.noteWord
  split
  · exact h
  · exact h.updPort
  · exact h.updPort.noteLinkErrors

theorem Keeps.noteFec {n : ℕ} {w : Slot} (h : Keeps s0 s) : Keeps s0 (s.noteFec n w) := by
  unfold State.noteFec
  exact Keeps.foldl _ _ (fun _ _ h => h.noteWord) h

theorem Keeps.receive {n : ℕ} {w : Slot} {cls : Option ℕ} {f : State → State} (h : Keeps s0 s)
 (hf : ∀ s, Keeps s0 s → Keeps s0 (f s)) : Keeps s0 (s.receive n w cls f) := by
  unfold State.receive
  exact Keeps.ite (hf _ (h.noteFec.ite h)) h

theorem Keeps.rxIdle {n : ℕ} {f : Flit} (h : Keeps s0 s) : Keeps s0 (s.rxIdle n f) := by
  unfold State.rxIdle
  exact h.rxKind (fun _ h => Keeps.foldl _ _ (fun _ _ h => h.catchUp) h)

theorem Keeps.sendIdle {n : ℕ} (h : Keeps s0 s) : Keeps s0 (s.sendIdle n) := by
  unfold State.sendIdle
  exact h.sendFlit.updPort.ite h

theorem Keeps.rxCredit {n : ℕ} {f : Flit} (h : Keeps s0 s) : Keeps s0 (s.rxCredit n f) := by
  unfold State.rxCredit
  exact h.rxKind (fun _ h => h.updPort.freePort)

theorem Keeps.txCredit {n : ℕ} (h : Keeps s0 s) : Keeps s0 (s.txCredit n) := by
  unfold State.txCredit
  exact h.sendFlit.updPort.ite h

theorem Keeps.rxMarker {n : ℕ} {f : Flit} {slots : ℕ} (h : Keeps s0 s) : Keeps s0 (s.rxMarker n f slots) := by
  unfold State.rxMarker
  exact (h.countProto.ite h.updPort).ite h

theorem Keeps.trainMarker {n : ℕ} {w : Slot} {slots : ℕ} (h : Keeps s0 s) : Keeps s0 (s.trainMarker n w slots) := by
  unfold State.trainMarker
  exact h.updPort

theorem Keeps.txMarker {n : ℕ} (h : Keeps s0 s) : Keeps s0 (s.txMarker n) := by
  unfold State.txMarker
  exact h.sendFlit.updPort.ite h

theorem Keeps.takeDims (h : Keeps s0 s) : Keeps s0 s.takeDims := by
  unfold State.takeDims
  exact h.updFabric

theorem Keeps.cutForward {n : ℕ} (h : Keeps s0 s) : Keeps s0 (s.cutForward n) := by
  unfold State.cutForward
  exact h.mkSet le_rfl

theorem Keeps.dropLink {n : ℕ} (h : Keeps s0 s) : Keeps s0 (s.dropLink n) := by
  unfold State.dropLink
  exact (Keeps.foldl _ _ (fun _ _ h => h.swqStep.freeBuffers) h.cutForward).updFabric

theorem Keeps.train {n : ℕ} {k : TrainKind} (h : Keeps s0 s) : Keeps s0 (s.train n k) := by
  unfold State.train
  exact h.takeDims.dropLink.updPort

theorem Keeps.disablePort {n : ℕ} (h : Keeps s0 s) : Keeps s0 (s.disablePort n) := by
  unfold State.disablePort
  exact h.cutShort.dropLink.updPort.ite h

theorem Keeps.linkFailed {n : ℕ} (h : Keeps s0 s) : Keeps s0 (s.linkFailed n) := by
  unfold State.linkFailed
  exact h.raiseMany.halt

theorem Keeps.portFailed {n : ℕ} (h : Keeps s0 s) : Keeps s0 (s.portFailed n) := by
  unfold State.portFailed
  exact h.updPort.linkFailed.ite (h.updPort.halt.ite h.updPort)

theorem Keeps.unlink {n : ℕ} {p : Port} (h : Keeps s0 s) : Keeps s0 (s.unlink n p) := by
  unfold State.unlink
  exact h.updPort.loseParent

theorem Keeps.loseLock {n : ℕ} {lanes : BitVec 4} (h : Keeps s0 s) : Keeps s0 (s.loseLock n lanes) := by
  unfold State.loseLock
  exact h.ite h.cutShort.train.updPort.unlink

theorem Keeps.peerSignal {n : ℕ} (h : Keeps s0 s) : Keeps s0 (s.peerSignal n) := by
  unfold State.peerSignal
  exact h.train.ite h

theorem Keeps.trained {n : ℕ} {good peerQuick : Bool} {r : TrainReport} (h : Keeps s0 s) :
    Keeps s0 (s.trained n good peerQuick r) := by
  unfold State.trained
  exact h.ite h.updPort

theorem Keeps.fullTimeout {n : ℕ} (h : Keeps s0 s) : Keeps s0 (s.fullTimeout n) := by
  unfold State.fullTimeout
  exact (h.updPort.train.ite h.portFailed).ite h

theorem Keeps.fastTimeout {n : ℕ} (h : Keeps s0 s) : Keeps s0 (s.fastTimeout n) := by
  unfold State.fastTimeout
  exact (h.portFailed.ite h.train).ite h

theorem Keeps.fullRetrain {n : ℕ} (h : Keeps s0 s) : Keeps s0 (s.fullRetrain n) := by
  unfold State.fullRetrain
  exact h.cutShort.train.updPort.unlink.ite h

theorem Keeps.txDiscovery {n : ℕ} (h : Keeps s0 s) : Keeps s0 (s.txDiscovery n) := by
  unfold State.txDiscovery
  exact h.sendFlit.ite h

theorem Keeps.wrongPeer {n : ℕ} (h : Keeps s0 s) : Keeps s0 (s.wrongPeer n) := by
  unfold State.wrongPeer
  exact h.updPort.linkFailed.ite (h.updPort.halt.ite (h.updPort.halt.ite h.updPort))

theorem Keeps.portUp {n : ℕ} (h : Keeps s0 s) : Keeps s0 (s.portUp n) := by
  unfold State.portUp
  exact (h.updPort.mkSet le_rfl).ite h.updPort

theorem Keeps.rxDiscovery {n : ℕ} {f : Flit} (h : Keeps s0 s) : Keeps s0 (s.rxDiscovery n f) := by
  unfold State.rxDiscovery
  exact (h.header (fun _ h => h.updPort.ite (h.updPort.wrongPeer.ite (h.updPort.portUp.ite h.updPort)))).ite h

theorem Keeps.stallSlots {n : ℕ} (h : Keeps s0 s) : Keeps s0 (s.stallSlots n) := by
  unfold State.stallSlots
  exact h.noteAnem.ite h

theorem Keeps.stallQueue {key : ℕ} (h : Keeps s0 s) : Keeps s0 (s.stallQueue key) := by
  unfold State.stallQueue
  split
  · exact h.updFabric.ite h
  · exact h

theorem Keeps.linkTick (h : Keeps s0 s) : Keeps s0 s.linkTick := by
  unfold State.linkTick
  exact h.ite (Keeps.foldl _ _ (fun _ _ h => Keeps.foldl _ _ (fun _ _ h => h.sendIdle) h)
      (Keeps.foldl _ _ (fun _ _ h => h.stallQueue) (Keeps.foldl _ _ (fun _ _ h => h.stallSlots) h)))

theorem Keeps.txBeacon {n frac : ℕ} (h : Keeps s0 s) : Keeps s0 (s.txBeacon n frac) := by
  unfold State.txBeacon
  exact h.sendFlit.updPort.ite h

theorem Keeps.rxBeacon {n : ℕ} {f : Flit} {rxFrac : ℕ} (h : Keeps s0 s) : Keeps s0 (s.rxBeacon n f rxFrac) := by
  unfold State.rxBeacon
  exact h.rxKind (fun x0 h => by
      split
      · exact h
      · dsimp only
        split
        · exact h.updPort.elect.measured.ite h.updPort.elect
        · exact h.updPort.elect)

theorem Keeps.endInterval {n : ℕ} (h : Keeps s0 s) : Keeps s0 (s.endInterval n) := by
  unfold State.endInterval
  exact (h.updPort.loseParent.ite h.updPort).ite h

theorem Keeps.standbyLost (h : Keeps s0 s) : Keeps s0 s.standbyLost := by
  unfold State.standbyLost
  exact h.mkAll (fun _ => Memory.wf_nil) ⟨[], rfl⟩ le_rfl

theorem Keeps.keepPwr (h : Keeps s0 s) : Keeps s0 s.keepPwr := by
  unfold State.keepPwr
  exact h.updMgmt

theorem Keeps.enterOff (h : Keeps s0 s) : Keeps s0 s.enterOff := by
  unfold State.enterOff
  exact h.standbyLost.mkSet le_rfl

theorem Keeps.tapBypass (h : Keeps s0 s) : Keeps s0 s.tapBypass := by
  unfold State.tapBypass
  exact h.mkSet le_rfl

theorem Keeps.railsOff (h : Keeps s0 s) : Keeps s0 s.railsOff := by
  unfold State.railsOff
  exact h.updMgmt.mkAll (fun _ => Memory.wf_nil) ⟨[], rfl⟩ le_rfl

theorem Keeps.powerFail {detail : ℕ} (h : Keeps s0 s) : Keeps s0 (s.powerFail detail) := by
  unfold State.powerFail
  exact h.ite h.halt.railsOff

theorem Keeps.stopStewards {die : ℕ} (h : Keeps s0 s) : Keeps s0 (s.stopStewards die) := by
  unfold State.stopStewards
  exact h.mkSet le_rfl

theorem Keeps.stopHot {detail : ℕ} (h : Keeps s0 s) : Keeps s0 (s.stopHot detail) := by
  unfold State.stopHot
  exact h.stopStewards.updFw.ite (h.stopStewards.ite h)

theorem Keeps.thermTrip {detail : ℕ} {own : Bool} (h : Keeps s0 s) : Keeps s0 (s.thermTrip detail own) := by
  unfold State.thermTrip
  exact h.ite (h.stopHot.ite ((((((h.emit.ite h).halt).railsOff).ite (h.emit.ite h)).updMgmt).stopHot))

theorem Keeps.beginStart {st : PkgState} (h : Keeps s0 s) : Keeps s0 (s.beginStart st) := by
  unfold State.beginStart
  exact h.updMgmt

theorem Keeps.checkRefclks (h : Keeps s0 s) : Keeps s0 s.checkRefclks := by
  unfold State.checkRefclks
  exact h.halt.ite (h.halt.ite h)

theorem Keeps.lookForRefclks (h : Keeps s0 s) : Keeps s0 s.lookForRefclks := by
  unfold State.lookForRefclks
  exact h.ite ((h.mkSet (Nat.le_add_right _ _)).updMgmt)

theorem Keeps.coldStart {slot : BitVec 4} {bootSel : BitVec 2} (h : Keeps s0 s) : Keeps s0 (s.coldStart slot bootSel) :=
    by
  unfold State.coldStart
  split
  · exact h
  · dsimp only
    split
    · exact h.updMgmt.tapBypass
    · split
      · exact h.updMgmt.tapBypass.thermTrip
      · exact ((h.updMgmt.tapBypass.lookForRefclks.mkSet le_rfl).beginStart).checkRefclks

theorem Keeps.warmEntry {noSpare : Option StackId} (h : Keeps s0 s) : Keeps s0 (s.warmEntry noSpare) := by
  unfold State.warmEntry
  exact (Keeps.foldl _ _ (fun _ _ h => h.updStack)
      ((Keeps.foldl _ _ (fun _ _ h => h.writeBackLine) h.firmwareDown.abortGens).mkSet le_rfl)).updMgmt

theorem Keeps.warmLose (h : Keeps s0 s) : Keeps s0 s.warmLose := by
  unfold State.warmLose
  exact h.mkAll (Memory.wf_filter _ _) ⟨[], rfl⟩ le_rfl

theorem Keeps.warmStart (h : Keeps s0 s) : Keeps s0 s.warmStart := by
  unfold State.warmStart
  split
  · exact h
  · dsimp only
    split
    · exact h.beginStart.updMgmt.halt
    · split
      · exact h.beginStart.updMgmt.halt
      · exact h.beginStart.updMgmt.keepPwr.warmLose.checkRefclks

theorem Keeps.trainPorts {k : TrainKind} (h : Keeps s0 s) : Keeps s0 (s.trainPorts k) := by
  unfold State.trainPorts
  exact Keeps.foldl _ _ (fun _ _ h => h.updPort.train.loseParent.ite h.disablePort.updPort.loseParent) h.takeDims

theorem Keeps.copyDims (h : Keeps s0 s) : Keeps s0 s.copyDims := by
  unfold State.copyDims
  exact h.updFabric

theorem Keeps.recheckTrays (h : Keeps s0 s) : Keeps s0 s.recheckTrays := by
  unfold State.recheckTrays
  exact Keeps.foldl _ _ (fun s a h => by
      split
      · exact h.wrongPeer.ite h
      · exact h) h

theorem Keeps.beginAddress (h : Keeps s0 s) : Keeps s0 s.beginAddress := by
  unfold State.beginAddress
  dsimp only
  split
  · exact (h.ite h.copyDims.trainPorts).halt
  · exact ((h.ite h.copyDims.trainPorts).halt).ite (h.ite h.copyDims.trainPorts)

theorem Keeps.loadDefaultRoutes (h : Keeps s0 s) : Keeps s0 s.loadDefaultRoutes := by
  unfold State.loadDefaultRoutes
  exact h.updFabric

theorem Keeps.beginStep {k : ℕ} (h : Keeps s0 s) : Keeps s0 (s.beginStep k) := by
  unfold State.beginStep
  dsimp only
  split
  · exact h.updMgmt.updSeason
  · exact (h.updMgmt.copyDims.ite h.updMgmt).trainPorts
  · exact (h.updMgmt.mkSet le_rfl).updMgmt
  · exact h.updMgmt.trainPorts
  · exact h.updMgmt.beginAddress
  · exact h.updMgmt.updSeason
  · exact h.updMgmt

theorem Keeps.nextStep (h : Keeps s0 s) : Keeps s0 s.nextStep := by
  unfold State.nextStep
  exact h.beginStep

theorem Keeps.endPower (h : Keeps s0 s) : Keeps s0 s.endPower := by
  unfold State.endPower
  exact h.updMgmt.updPower.nextStep

theorem Keeps.endBootRom (h : Keeps s0 s) : Keeps s0 s.endBootRom := by
  unfold State.endBootRom
  exact h.halt.ite h.nextStep

theorem Keeps.runImage {i : BootImage} {slot : ℕ} (h : Keeps s0 s) : Keeps s0 (s.runImage i slot) := by
  unfold State.runImage
  exact h.updMgmt.updFw.nextStep

theorem Keeps.endAuth {image : BootImage} {second : Option BootImage} (h : Keeps s0 s) :
    Keeps s0 (s.endAuth image second) := by
  unfold State.endAuth
  dsimp only
  split
  · exact h.runImage
  · split
    · exact h.ite h.halt
    · exact h

theorem Keeps.endBist {failed : List ℕ} (h : Keeps s0 s) : Keeps s0 (s.endBist failed) := by
  unfold State.endBist
  exact ((h.mkSet le_rfl).nextStep).ite (((h.mkSet le_rfl).markDies).halt)

theorem Keeps.trainFail {st : ℕ} (h : Keeps s0 s) : Keeps s0 (s.trainFail st) := by
  unfold State.trainFail
  exact h.halt.ite h.halt

theorem Keeps.endHbmTraining (h : Keeps s0 s) : Keeps s0 s.endHbmTraining := by
  unfold State.endHbmTraining
  exact (Keeps.foldl _ _ (fun _ _ h => h.updStack) h).ite
      (Keeps.foldl _ _ (fun _ _ h => (h.mkSet (Nat.le_add_right _ _)).updStack) h)

theorem Keeps.endMemTest {repairs : List (StackId × ℕ × ℕ)} {bad : Option StackId} (h : Keeps s0 s) :
    Keeps s0 (s.endMemTest repairs bad) := by
  unfold State.endMemTest
  dsimp only
  split
  · exact (Keeps.foldl _ _ (fun s a h => by
      split
      · exact h.updStack
      · exact h.draw.updStack) h).halt
  · exact (Keeps.foldl _ _ (fun s a h => by
      split
      · exact h.updStack
      · exact h.draw.updStack) h).nextStep

theorem Keeps.endAddress (h : Keeps s0 s) : Keeps s0 s.endAddress := by
  unfold State.endAddress
  exact ((h.mkSet le_rfl).nextStep).ite h

theorem Keeps.lockStep {offset : ℤ} {master : Bool} (h : Keeps s0 s) : Keeps s0 (s.lockStep offset master) := by
  unfold State.lockStep
  exact h.ite (h.elect.ite ((h.elect.updSeason.ite (h.elect.updSeason.mkSet le_rfl)).elect))

theorem Keeps.endStart (h : Keeps s0 s) : Keeps s0 s.endStart := by
  unfold State.endStart
  exact h.ite ((((((h.mkSet le_rfl).updMgmt).loadDefaultRoutes).enterService).updFw).ite
      (((((h.mkSet le_rfl).updMgmt).loadDefaultRoutes).enterService).restart))

theorem Keeps.spdm {name : String} {params : Bytes} (h : Keeps s0 s) : Keeps s0 (s.spdm name params) := by
  unfold State.spdm
  exact h.ite (h.emit.ite h.emit)

theorem Keeps.execRailOutOfRegulation {rail : Rail} (h : Keeps s0 s) : Completes s0 (execRailOutOfRegulation rail s) :=
    by
  unfold Machine.execRailOutOfRegulation
  split
  · exact .next h.powerFail
  · exact .next h.powerFail

theorem Keeps.powerSample {watts : ℕ} (h : Keeps s0 s) : Keeps s0 (s.powerSample watts) := by
  unfold State.powerSample
  exact h.ite (h.updPower.updPower.ite h.updPower)

theorem Keeps.powerEval {p100us p1s : ℕ} (h : Keeps s0 s) : Keeps s0 (s.powerEval p100us p1s) := by
  unfold State.powerEval
  exact h.ite h.updPower

theorem Keeps.droopTrip {d : ℕ} (h : Keeps s0 s) : Keeps s0 (s.droopTrip d) := by
  unfold State.droopTrip
  exact h.ite (h.updPower.mkSet le_rfl)

theorem Keeps.execThermtrip {src : TripSource} (h : Keeps s0 s) : Completes s0 (execThermtrip src s) := by
  unfold Machine.execThermtrip
  split
  · exact .next h.thermTrip
  · exact .next h.thermTrip
  · exact .next h.thermTrip

theorem Keeps.junctionRead {d t : ℕ} (h : Keeps s0 s) : Keeps s0 (s.junctionRead d t) := by
  unfold State.junctionRead
  exact h.ite (h.updPower.thermTrip.ite h.updPower)

theorem Keeps.stackRead {st t : ℕ} (h : Keeps s0 s) : Keeps s0 (s.stackRead st t) := by
  unfold State.stackRead
  exact (h.updStack.ite h).ite (h.updStack.thermTrip.ite h.updStack)

theorem Keeps.refclkLost {which : ℕ} (h : Keeps s0 s) : Keeps s0 (s.refclkLost which) := by
  unfold State.refclkLost
  exact h.updMgmt.ite (((h.updMgmt.updSeason.ite h.updMgmt).halt).ite ((h.updMgmt.updSeason.ite h.updMgmt).failDies))

theorem Keeps.hostPerst (h : Keeps s0 s) : Keeps s0 s.hostPerst := by
  unfold State.hostPerst
  exact h.flr.updMgmt

theorem Keeps.tapLoad {i : TapInstr} {v : ℕ} (h : Keeps s0 s) : Keeps s0 (s.tapLoad i v) := by
  unfold State.tapLoad
  exact h.ite ((h.mkSet le_rfl).emit)

theorem Keeps.tapGated {i : TapInstr} {v : ℕ} (h : Keeps s0 s) : Keeps s0 (s.tapGated i v) := by
  unfold State.tapGated
  exact h.tapLoad.ite h.tapLoad

theorem Keeps.noReach {a : Agent} {off : ℕ} {cause : BitVec 6} (h : Keeps s0 s) : Keeps s0 (s.noReach a off cause) := by
  unfold State.noReach
  split
  · exact h.stewardFault
  · exact h.emit

theorem Keeps.readCtrl {a : Agent} {off : ℕ} (h : Keeps s0 s) : Keeps s0 (s.readCtrl a off) := by
  unfold State.readCtrl
  split
  · exact h.noReach
  · split
    · next e =>
        exact (Keeps.sndOfEq e h.regRead).emit

theorem Keeps.csrRead {k : StewardId} {num : ℕ} (h : Keeps s0 s) : Keeps s0 (s.csrRead k num) := by
  unfold State.csrRead
  split
  · exact h.csrIllegal
  · split
    · exact h.csrAnswer
    · exact h.csrIllegal

theorem Keeps.readReg {a : Agent} {r : RegRef} (h : Keeps s0 s) : Keeps s0 (s.readReg a r) := by
  unfold State.readReg
  split
  · exact h.emit
  · split
    · exact h
    · split
      · exact h.readCtrl
      · exact h.emit
      · exact h.csrRead.ite h.emit
      · exact h.emit
      · exact h.emit
      · exact h.emit

theorem Keeps.keepAt {r : RegRef} {event : ℕ} (h : Keeps s0 s) : Keeps s0 (s.keepAt r event) := by
  unfold State.keepAt
  split
  · exact h.keepEvent
  · exact h

theorem Keeps.clearBits {a : Agent} {r : RegRef} {v : Word} (h : Keeps s0 s) : Keeps s0 (s.clearBits a r v) := by
  unfold State.clearBits
  split
  · exact h.updChannel.ite h
  · exact h.ite (h.updMgmt.ite (h.updMgmt.ite h))
  · exact h.ite (h.csrIllegal.ite (h.updSteward.ite h))
  · exact h

theorem Keeps.pageWrite {n off : ℕ} {v : Word} (h : Keeps s0 s) : Keeps s0 (s.pageWrite n off v) := by
  unfold State.pageWrite
  dsimp only
  split
  · exact h
  · split
    · exact h.doorbell
    · exact h.chControl
    · exact h.ite h.updChannel
    · exact h.ite h.updChannel
    · exact h.updChannel.afterRoom
    · exact h.ite h.updChannel
    · exact h.updChannel
    · exact h

theorem Keeps.csrWrite {k num : ℕ} {v : Word} (h : Keeps s0 s) : Keeps s0 (s.csrWrite k num v) := by
  unfold State.csrWrite
  split
  · exact h.csrIllegal
  · split
    · exact h.updSteward
    · exact h.updSteward
    · exact h.updSteward
    · exact h.updSteward
    · exact h.updSteward
    · exact h.updSteward
    · exact h.ite (h.updSteward.ite h.csrIllegal)

theorem Keeps.msixWrite {off : ℕ} {v : Word} (h : Keeps s0 s) : Keeps s0 (s.msixWrite off v) := by
  unfold State.msixWrite
  exact h.ite (Keeps.foldl _ _ (fun _ _ h => h.updFw) h)

theorem Keeps.fwStore {off : ℕ} {v : Word} (h : Keeps s0 s) : Keeps s0 (s.fwStore off v) := by
  unfold State.fwStore
  split
  · exact h.sliceModes.ite (h.mhWrite.startGen.ite h.fwWrite)
  · exact ((((h.ite h.disablePort).fabWrite).fullRetrain).ite ((h.ite h.disablePort).fabWrite)).ite h.fwWrite
  · exact h.fwWrite

theorem Keeps.writeReg {a : Agent} {r : RegRef} {v : Word} (h : Keeps s0 s) : Keeps s0 (s.writeReg a r v) := by
  unfold State.writeReg
  split
  · exact (h.fwStore.ite h).ite (h.ite (h.noReach.ite h.ctrlWrite))
  · exact h.pageWrite.ite h
  · exact h.csrWrite.ite h
  · exact h
  · exact h.msixWrite.ite h
  · exact h.updMgmt.ite h

theorem Keeps.reserveRegion {size : ℕ} {detect : Bool} {alloc : ℕ} {owner : Option ℕ} (h : Keeps s0 s) :
    Keeps s0 (s.reserveRegion size detect alloc owner).2 := by
  unfold State.reserveRegion
  split
  · next e =>
      split
      · next e1 =>
          split
          · exact (Keeps.sndOfEq e1 ((Keeps.sndOfEq e h.pick).pick)).mkSet le_rfl
          · exact Keeps.sndOfEq e1 ((Keeps.sndOfEq e h.pick).pick)

theorem Keeps.reserveRegions {p : ℕ} {x2 : List RegionWord} (h : Keeps s0 s) : Keeps s0 (s.reserveRegions p x2).2 := by
  induction x2 generalizing s p with
  | nil =>
    exact h
  | cons a' x2 ih =>
    unfold State.reserveRegions
    split
    · next e =>
        exact Keeps.sndOfEq e h.reserveRegion
    · next e =>
        split
        · next e1 =>
            exact Keeps.sndOfEq e1 (ih (Keeps.sndOfEq e h.reserveRegion))
        · next e1 =>
            exact Keeps.sndOfEq e1 (ih (Keeps.sndOfEq e h.reserveRegion))

theorem Keeps.reserveRanges {taken : List (ℕ × ℕ × ℕ)} {x2 : List RangeWord} (h : Keeps s0 s) :
    Keeps s0 (s.reserveRanges taken x2).2 := by
  induction x2 generalizing s taken with
  | nil =>
    exact h
  | cons a' x2 ih =>
    unfold State.reserveRanges
    dsimp only
    split
    · dsimp only
      exact h.pick
    · exact ih h.pick

theorem Keeps.freeAlloc (h : Keeps s0 s) : Keeps s0 (s.freeAlloc).2 := by
  unfold State.freeAlloc
  exact h.mkSet (Nat.le_add_right _ _)

theorem Keeps.zeroRange {a n : ℕ} (h : Keeps s0 s) : Keeps s0 (s.zeroRange a n) := by
  unfold State.zeroRange
  exact h.mkAll (Memory.wf_memClear _ _ _) ⟨[], rfl⟩ le_rfl

theorem Keeps.occupyBlock {p b : ℕ} (h : Keeps s0 s) : Keeps s0 (s.occupyBlock p b) := by
  unfold State.occupyBlock
  dsimp only
  split
  · exact Keeps.foldl _ _ (fun _ _ h => h.assignCore.ite (h.mkSet le_rfl)) h.lendIn
  · exact Keeps.foldl _ _ (fun _ _ h => h.assignCore.ite (h.mkSet le_rfl)) h

theorem Keeps.startSteward {k : ℕ} (h : Keeps s0 s) : Keeps s0 (s.startSteward k) := by
  unfold State.startSteward
  exact (((h.mkSet (Nat.le_add_right _ _)).updMgmt).mkSet (Nat.le_add_right _ _)).updSteward

theorem Keeps.activate {p : ℕ} {aff : List ℕ} {n : ℕ} (h : Keeps s0 s) : Keeps s0 (s.activate p aff n) := by
  unfold State.activate
  exact Keeps.foldl _ _ (fun _ _ h => h.startSteward)
      (Keeps.foldl _ _ (fun _ _ h => h.zeroRange) ((Keeps.foldl _ _ (fun _ _ h => h.occupyBlock) h).updPartition))

theorem Keeps.install {c : CreateBlock} {r : Reserved} {creator : BitVec 16} (h : Keeps s0 s) :
    Keeps s0 (s.install c r creator) := by
  unfold State.install
  exact (((Keeps.foldl _ _ (fun _ _ h => h.updSteward) h.setPartition).updSeason).zeroRange).updFw

theorem Keeps.placeDeferred {p : ℕ} (h : Keeps s0 s) : Keeps s0 (s.placeDeferred p) := by
  unfold State.placeDeferred
  dsimp only
  split
  · exact h.ite h.activate.notifyPartition
  · exact h

theorem Keeps.releaseCore {p c : ℕ} (h : Keeps s0 s) : Keeps s0 (s.releaseCore p c) := by
  unfold State.releaseCore
  exact h.settleCore.ite h

theorem Keeps.dropDrained {p : ℕ} (h : Keeps s0 s) : Keeps s0 (s.dropDrained p) := by
  unfold State.dropDrained
  exact (h.mkSet le_rfl).updFw

theorem Keeps.release {p : ℕ} (h : Keeps s0 s) : Keeps s0 (s.release p) := by
  unfold State.release
  exact Keeps.foldl _ _ (fun _ _ h => h.releaseCore) ((h.dropDrained.mkSet le_rfl).updSeason)

theorem Keeps.destroyNow {p at_ : ℕ} {sender : BitVec 16} (h : Keeps s0 s) : Keeps s0 (s.destroyNow p at_ sender) := by
  unfold State.destroyNow
  split
  · exact h.updPartition.raise
  · exact h.updPartition
  · exact h
  · exact h.release

theorem Keeps.destroy {t : Taken} (h : Keeps s0 s) : Keeps s0 (s.destroy t).2 := by
  unfold State.destroy
  dsimp only
  split
  · exact h
  · split
    · exact h
    · split
      · exact h.destroyNow
      · dsimp only
        exact h.updPartition

theorem Keeps.destroyDue {p : ℕ} (h : Keeps s0 s) : Keeps s0 (s.destroyDue p) := by
  unfold State.destroyDue
  split
  · exact h.destroyNow.ite h
  · exact h

theorem Keeps.writeRecord {p : ℕ} (h : Keeps s0 s) : Keeps s0 (s.writeRecord p) := by
  unfold State.writeRecord
  dsimp only
  split
  · exact h
  · exact h.ite (((h.updPartition.ite h.updPartition.poke).notifyPartition).ite
      (h.updPartition.ite h.updPartition.poke))

theorem Keeps.endTeardown {p : ℕ} (h : Keeps s0 s) : Keeps s0 (s.endTeardown p) := by
  unfold State.endTeardown
  dsimp only
  split
  · exact h
  · split
    · exact ((h.updPartition.mkSet le_rfl).release).ite (h.updPartition.mkSet le_rfl)
    · exact h.updPartition.mkSet le_rfl

theorem Keeps.secureSet {t : Taken} (h : Keeps s0 s) : Keeps s0 (s.secureSet t).2 := by
  unfold State.secureSet
  dsimp only
  split
  · exact h
  · split
    · exact h
    · dsimp only
      exact h.updPartition

theorem Keeps.loadSeed {p : ℕ} {seed : Bytes} (h : Keeps s0 s) : Keeps s0 (s.loadSeed p seed) := by
  unfold State.loadSeed
  exact (Keeps.foldl _ _ (fun _ _ h => h.updCore.ite h) h).mkSet le_rfl

theorem Keeps.seedLoad {t : Taken} {host : Option Bytes} (h : Keeps s0 s) : Keeps s0 (s.seedLoad t host).2 := by
  unfold State.seedLoad
  dsimp only
  split
  · exact h
  · split
    · next e =>
        exact Keeps.sndOfEq e h.readPblock
    · next e =>
        split
        · exact Keeps.sndOfEq e h.readPblock
        · dsimp only
          exact ((Keeps.sndOfEq e h.readPblock).loadSeed).updPartition

theorem Keeps.newStore {job : BitVec 32} {imageMax base : ℕ} (h : Keeps s0 s) :
    Keeps s0 (s.newStore job imageMax base).2 := by
  unfold State.newStore
  dsimp only
  split
  · split
    · exact h
    · exact (Keeps.foldl _ _ (fun _ _ h => h.zeroRange) (h.pick.pick.freeAlloc.mkSet le_rfl)).mkSet le_rfl
  · exact h

theorem Keeps.dewSetup {t : Taken} (h : Keeps s0 s) : Keeps s0 (s.dewSetup t).2 := by
  unfold State.dewSetup
  dsimp only
  split
  · exact h
  · split
    · exact h
    · exact h.newStore

theorem Keeps.dewRelease {t : Taken} (h : Keeps s0 s) : Keeps s0 (s.dewRelease t).2 := by
  unfold State.dewRelease
  dsimp only
  split
  · exact h
  · split
    · exact h
    · exact h.mkSet le_rfl

theorem Keeps.frostSetup {t : Taken} (h : Keeps s0 s) : Keeps s0 (s.frostSetup t).2 := by
  unfold State.frostSetup
  dsimp only
  split
  · exact h
  · exact h.mkSet le_rfl

theorem Keeps.readManifest {t : Taken} {host : Option Bytes} (h : Keeps s0 s) : Keeps s0 (s.readManifest t host).2 := by
  unfold State.readManifest
  split
  · next e =>
      exact Keeps.sndOfEq e h.readPblock
  · next e =>
      dsimp only
      split
      · exact Keeps.sndOfEq e h.readPblock
      · exact (Keeps.sndOfEq e h.readPblock).readPblock

theorem Keeps.ckptFault {t : Taken} {r : FaultRec} (h : Keeps s0 s) : Keeps s0 (s.ckptFault t r).2 := by
  unfold State.ckptFault
  exact h.raise

theorem Keeps.readRanges {p : ℕ} {x2 : List CkptRange} (h : Keeps s0 s) : Keeps s0 (s.readRanges p x2).2 := by
  induction x2 generalizing s p with
  | nil =>
    exact h
  | cons a' x2 ih =>
    unfold State.readRanges
    split
    · next e =>
        exact Keeps.sndOfEq e h.peek
    · next e =>
        split
        · next e1 =>
            exact Keeps.sndOfEq e1 (ih (Keeps.sndOfEq e h.peek))
        · next e1 =>
            exact Keeps.sndOfEq e1 (ih (Keeps.sndOfEq e h.peek))

theorem Keeps.ckptWriteTo {p : ℕ} {dst : PkgId} {addr : ℕ} {data : Bytes} (h : Keeps s0 s) :
    Keeps s0 (s.ckptWriteTo p dst addr data) := by
  unfold State.ckptWriteTo
  exact h.newXact

theorem Keeps.ckptSend {p : ℕ} {dst : PkgId} {addr : ℕ} {data : Bytes} (h : Keeps s0 s) :
    Keeps s0 (s.ckptSend p dst addr data) := by
  unfold State.ckptSend
  exact Keeps.foldl _ _ (fun _ _ h => h.ckptWriteTo) h

theorem Keeps.sendShard {p : ℕ} {d : DewStore} {m : Manifest} {n k : ℕ} {shard : Bytes} (h : Keeps s0 s) :
    Keeps s0 (s.sendShard p d m n k shard) := by
  unfold State.sendShard
  exact h.poke.poke.poke.ite h.ckptWriteTo.ckptSend.ckptWriteTo

theorem Keeps.sendImage {t : Taken} {m : Manifest} {image : Bytes} (h : Keeps s0 s) : Keeps s0 (s.sendImage t m image)
    := by
  unfold State.sendImage
  dsimp only
  split
  · exact (Keeps.foldl _ _ (fun _ _ h => h.sendShard) h).mkSet le_rfl
  · exact h.ckptSend.mkSet le_rfl
  · exact h.mkSet le_rfl

theorem Keeps.ckptWrite {t : Taken} {host : Option Bytes} (h : Keeps s0 s) : Keeps s0 (s.ckptWrite t host).2 := by
  unfold State.ckptWrite
  split
  · next e =>
      exact Keeps.sndOfEq e h.readManifest
  · next e =>
      dsimp only
      split
      · exact Keeps.sndOfEq e h.readManifest
      · split
        · next e2 =>
            exact (Keeps.sndOfEq e2 ((Keeps.sndOfEq e h.readManifest).readRanges)).ckptFault
        · next e2 =>
            exact ((Keeps.sndOfEq e2 ((Keeps.sndOfEq e h.readManifest).readRanges)).mkSet le_rfl).sendImage

theorem Keeps.keepGen {r : CkptRun} (h : Keeps s0 s) : Keeps s0 (s.keepGen r) := by
  unfold State.keepGen
  split
  · split
    · exact h.mkSet le_rfl
    · exact h
  · exact (h.mkSet le_rfl).emit
  · exact h.mkSet le_rfl

theorem Keeps.endRun {p : ℕ} (h : Keeps s0 s) : Keeps s0 (s.endRun p) := by
  unfold State.endRun
  exact h.mkSet le_rfl

theorem Keeps.ckptWriteEnd {p : ℕ} {mediaOk : Bool} (h : Keeps s0 s) : Keeps s0 (s.ckptWriteEnd p mediaOk) := by
  unfold State.ckptWriteEnd
  split
  · exact h
  · exact h.ite (h.endRun.finishCommand.ite (h.ite (h.endRun.raise.finishCommand.ite h.keepGen.endRun.finishCommand)))

theorem Keeps.localShard {p : ℕ} {d : DewStore} {gen : ℕ} (h : Keeps s0 s) : Keeps s0 (s.localShard p d gen).2 := by
  unfold State.localShard
  dsimp only
  split
  · next e =>
      exact Keeps.sndOfEq e h.peek
  · next e =>
      split
      · exact Keeps.sndOfEq e h.peek
      · split
        · next e1 =>
            exact Keeps.sndOfEq e1 ((Keeps.sndOfEq e h.peek).peek)
        · next e1 =>
            exact Keeps.sndOfEq e1 ((Keeps.sndOfEq e h.peek).peek)

theorem Keeps.shardsOf {p : ℕ} {d : DewStore} {m : Manifest} {stored : List (ℕ × Option Bytes)} (h : Keeps s0 s) : Keeps
    s0 (s.shardsOf p d m stored).2.2 := by
  unfold State.shardsOf
  split
  · next e =>
      exact Keeps.sndOfEq e h.localShard

theorem Keeps.storedImage {t : Taken} {m : Manifest} {stored : List (ℕ × Option Bytes)} (h : Keeps s0 s) :
    Keeps s0 (s.storedImage t m stored).2 := by
  unfold State.storedImage
  split
  · split
    · exact h
    · split
      · next e2 =>
          dsimp only
          split
          · exact Keeps.trdOfEq e2 h.shardsOf
          · exact Keeps.trdOfEq e2 h.shardsOf
  · split
    · exact h
    · split
      · exact h
      · exact h
  · split
    · exact h
    · exact h

theorem Keeps.noteMargin {m : Manifest} {available : ℕ} (h : Keeps s0 s) : Keeps s0 (s.noteMargin m available) := by
  unfold State.noteMargin
  split
  · exact (h.mkSet le_rfl).ite h
  · exact h

theorem Keeps.readShards {p : ℕ} {d : DewStore} {gen : ℕ} (h : Keeps s0 s) : Keeps s0 (s.readShards p d gen) := by
  unfold State.readShards
  exact Keeps.foldl _ _ (fun _ _ h => h.newXact) h

theorem Keeps.ckptRestore {t : Taken} {host : Option Bytes} {stored : List (ℕ × Option Bytes)} (h : Keeps s0 s) : Keeps
    s0 (s.ckptRestore t host stored).2 := by
  unfold State.ckptRestore
  split
  · next e =>
      exact Keeps.sndOfEq e h.readManifest
  · next e =>
      dsimp only
      split
      · exact Keeps.sndOfEq e h.readManifest
      · split
        · exact Keeps.sndOfEq e h.readManifest
        · split
          · exact ((Keeps.sndOfEq e h.readManifest).mkSet le_rfl).readShards
          · split
            · next e3 =>
                exact (Keeps.sndOfEq e3 ((Keeps.sndOfEq e h.readManifest).storedImage)).ckptFault
            · next e3 =>
                split
                · exact (Keeps.sndOfEq e3 ((Keeps.sndOfEq e h.readManifest).storedImage)).ckptFault
                · exact (Keeps.sndOfEq e3 ((Keeps.sndOfEq e h.readManifest).storedImage)).mkSet le_rfl

theorem Keeps.writeRanges {p : ℕ} {data : Bytes} {x3 : List CkptRange} (h : Keeps s0 s) :
    Keeps s0 (s.writeRanges p data x3) := by
  induction x3 generalizing s p data with
  | nil =>
    exact h
  | cons a' x3 ih =>
    unfold State.writeRanges
    exact ih h.poke

theorem Keeps.restoreFault {p : ℕ} {r : CkptRun} {f : FaultRec} (h : Keeps s0 s) : Keeps s0 (s.restoreFault p r f) := by
  unfold State.restoreFault
  exact h.raise.finishCommand

theorem Keeps.writeImage {p : ℕ} {r : CkptRun} (h : Keeps s0 s) : Keeps s0 (s.writeImage p r) := by
  unfold State.writeImage
  exact h.writeRanges.finishCommand.ite (((h.mkSet (Nat.le_add_right _ _)).writeRanges).restoreFault)

theorem Keeps.restoreDew {p : ℕ} {r : CkptRun} (h : Keeps s0 s) : Keeps s0 (s.restoreDew p r) := by
  unfold State.restoreDew
  dsimp only
  split
  · next e =>
      exact ((Keeps.sndOfEq e h.storedImage).noteMargin).restoreFault
  · next e =>
      split
      · exact ((Keeps.sndOfEq e h.storedImage).noteMargin).restoreFault
      · exact ((Keeps.sndOfEq e h.storedImage).noteMargin).writeImage

theorem Keeps.ckptRestoreEnd {p : ℕ} (h : Keeps s0 s) : Keeps s0 (s.ckptRestoreEnd p) := by
  unfold State.ckptRestoreEnd
  split
  · exact h
  · exact h.ite (h.endRun.finishCommand.ite (h.endRun.restoreDew.ite h.endRun.writeImage))

theorem Keeps.secureCheck {b : ℕ} {scores : List ℕ} {p : ℕ} (h : Keeps s0 s) : Keeps s0 (s.secureCheck b scores p) := by
  unfold State.secureCheck
  exact h.ite (((Keeps.foldl _ _ (fun _ _ h => h.notify) h.updPartition).noticeArea).ite (h.updPartition.ite h))

theorem Keeps.baroUpdate (h : Keeps s0 s) : Keeps s0 s.baroUpdate := by
  unfold State.baroUpdate
  exact h.ite (Keeps.foldl _ _ (fun _ _ h => h.secureCheck) (h.mkSet le_rfl))

theorem Keeps.launchStart {c : ℕ} (h : Keeps s0 s) : Keeps s0 (s.launchStart c) := by
  unfold State.launchStart
  dsimp only
  split
  · exact h
  · exact h.ite h.updItem.updCore

theorem Keeps.markStarted {p pos : ℕ} (h : Keeps s0 s) : Keeps s0 (s.markStarted p pos) := by
  unfold State.markStarted
  exact h.updItem

theorem Keeps.equinoxReached {w : WorkRef} (h : Keeps s0 s) : Keeps s0 (s.equinoxReached w) := by
  unfold State.equinoxReached
  split
  · exact h
  · split
    · exact h
    · exact h
    · split
      · exact h.markStarted.ite h
      · exact h
    · split
      · exact h.markStarted.ite h
      · exact h
    · exact h.startColl
    · exact h.startDue

theorem Keeps.wordFault {c : CoreId} {p : ℕ} (h : Keeps s0 s) : KeepsSome s0 (s.wordFault c p) := by
  unfold State.wordFault
  split
  · dsimp only
    split
    · exact .some h.wideWord
    · exact .none
  · exact .none

theorem Keeps.savedMissed {p c : ℕ} (h : Keeps s0 s) : Keeps s0 (s.savedMissed p c) := by
  unfold State.savedMissed
  split
  · exact h.raise
  · exact h

theorem Keeps.entryMissed {p pos : ℕ} (h : Keeps s0 s) : Keeps s0 (s.entryMissed p pos) := by
  unfold State.entryMissed
  split
  · exact h
  · exact h.raise.ite h

theorem Keeps.allocPort {a : Agent} {q : ℕ} (h : Keeps s0 s) : Keeps s0 (s.allocPort a q) := by
  unfold State.allocPort
  split
  · split
    · next e1 =>
        exact (Keeps.sndOfEq e1 h.bpmAllocOp).emit
  · exact h.emit

theorem Keeps.refPort {a : Agent} {up : Bool} {g : Word} (h : Keeps s0 s) : Keeps s0 (s.refPort a up g) := by
  unfold State.refPort
  split
  · exact h.bpmRefOp.emit
  · exact h.emit

theorem Keeps.grantPort {a : Agent} {q : ℕ} {v : Word} (h : Keeps s0 s) : Keeps s0 (s.grantPort a q v) := by
  unfold State.grantPort
  split
  · exact h.bpmGrantOp.emit
  · exact h.emit

theorem Keeps.serveRead {k : Pkt} (h : Keeps s0 s) : Keeps s0 (s.serveRead k) := by
  unfold State.serveRead
  dsimp only
  split
  · exact h.reply
  · split
    · next e1 =>
        exact (Keeps.trdOfEq e1 h.readUpTo).reply
    · next e1 =>
        exact (Keeps.trdOfEq e1 h.readUpTo).reply

theorem Keeps.landWrite {k : Pkt} {data : Bytes} (h : Keeps s0 s) : Keeps s0 (s.landWrite k data).2 := by
  unfold State.landWrite
  split
  · exact h
  · split
    · next e1 =>
        exact Keeps.sndOfEq e1 h.writeMem
    · next e1 =>
        exact Keeps.sndOfEq e1 h.writeMem

theorem Keeps.serveWrite {k : Pkt} {data : Bytes} (h : Keeps s0 s) : Keeps s0 (s.serveWrite k data) := by
  unfold State.serveWrite
  split
  · next e =>
      exact (Keeps.sndOfEq e h.landWrite).reply

theorem Keeps.forwardCopies {k : Pkt} {data : Bytes} (h : Keeps s0 s) : Keeps s0 (s.forwardCopies k data) := by
  unfold State.forwardCopies
  exact Keeps.foldl _ _ (fun _ _ h => h.newXact.updXact) h

theorem Keeps.serveMcast {k : Pkt} {data : Bytes} (h : Keeps s0 s) : Keeps s0 (s.serveMcast k data) := by
  unfold State.serveMcast
  dsimp only
  split
  · exact h.reply.ite h
  · split
    · exact h.reply
    · split
      · next e =>
          exact (((Keeps.sndOfEq e h.landWrite).updXdie).reply).ite
              ((((Keeps.sndOfEq e h.landWrite).updXdie).updFabric).forwardCopies)
      · next e =>
          exact ((Keeps.sndOfEq e h.landWrite).reply).forwardCopies

theorem Keeps.answerProbe {k : Pkt} (h : Keeps s0 s) : Keeps s0 (s.answerProbe k) := by
  unfold State.answerProbe
  split
  · exact h
  · split
    · exact h.takeRx.reply
    · exact h

theorem Keeps.jobTeardown {n : ℕ} {k : Pkt} (h : Keeps s0 s) : Keeps s0 (s.jobTeardown n k) := by
  unfold State.jobTeardown
  split
  · exact h
  · exact h.takeRx.ite h.takeRx.updFabric.sendTeardown.abortJob

theorem Keeps.readClaim {t : Taken} {host : Option Bytes} (h : Keeps s0 s) : Keeps s0 (s.readClaim t host).2 := by
  unfold State.readClaim
  split
  · next e =>
      exact Keeps.sndOfEq e h.readPblock
  · next e =>
      exact (Keeps.sndOfEq e h.readPblock).readPblock

theorem Keeps.yearSet {t : Taken} (h : Keeps s0 s) : Keeps s0 (s.yearSet t).2 := by
  unfold State.yearSet
  dsimp only
  split
  · exact h
  · split
    · exact h
    · dsimp only
      exact h.updSeason

theorem Keeps.scheduleStart (h : Keeps s0 s) : Keeps s0 s.scheduleStart := by
  unfold State.scheduleStart
  split
  · exact h.updSeason.ite h
  · exact h

theorem Keeps.stopCore {c : ℕ} (h : Keeps s0 s) : Keeps s0 (s.stopCore c) := by
  unfold State.stopCore
  dsimp only
  split
  · split
    · exact h.updCore.ite h.settleCore
    · exact h.settleCore
  · exact h

theorem Keeps.handover {m : Month} (h : Keeps s0 s) : Keeps s0 (s.handover m) := by
  unfold State.handover
  exact Keeps.foldl _ _ (fun _ _ h => Keeps.foldl _ _ (fun _ _ h => h.ite h.stopCore) h)
      (Keeps.foldl _ _ (fun _ _ h => h.lendIn) h)

theorem Keeps.execMonthHandoverStart {i : Fin 64} (h : Keeps s0 s) : Completes s0 (execMonthHandoverStart i s) := by
  unfold Machine.execMonthHandoverStart
  split
  · exact .next h.handover
  · exact .next h

theorem Keeps.endMonth {p : ℕ} (h : Keeps s0 s) : Keeps s0 (s.endMonth p) := by
  unfold State.endMonth
  exact Keeps.foldl _ _ (fun _ _ h => Keeps.foldl _ _ (fun _ _ h => h.stopCore.ite h) h) h

theorem Keeps.quiesceTimeout {c : ℕ} (h : Keeps s0 s) : Keeps s0 (s.quiesceTimeout c) := by
  unfold State.quiesceTimeout
  split
  · exact h.ite h.updFabric.updCore
  · exact h

theorem Keeps.clearHome {c : ℕ} (h : Keeps s0 s) : Keeps s0 (s.clearHome c) := by
  unfold State.clearHome
  split
  · exact h.updSeason.ite h
  · exact h

theorem Keeps.resumeXacts {p c : ℕ} (h : Keeps s0 s) : Keeps s0 (s.resumeXacts p c) := by
  unfold State.resumeXacts
  exact Keeps.foldl _ _ (fun _ _ h => h.resumeXact) h

theorem Keeps.windowAccess {a : Agent} {addr len : ℕ} {w : Option Bytes} (h : Keeps s0 s) :
    Keeps s0 (s.windowAccess a addr len w) := by
  unfold State.windowAccess
  dsimp only
  split
  · split
    · exact h
    · split
      · exact h.stewardFault
      · split
        · exact h.emit
        · split
          · split
            · next e2 =>
                exact (Keeps.sndOfEq e2 h.writeMem).emit
            · next e2 =>
                exact ((Keeps.sndOfEq e2 h.writeMem).emit).raiseAgent
          · split
            · next e2 =>
                exact (Keeps.sndOfEq e2 h.readMem).emit
            · next e2 =>
                exact ((Keeps.sndOfEq e2 h.readMem).emit).raiseAgent
  · exact h

theorem Keeps.reassemble {x sl : ℕ} {key : ℕ × ℕ} {dense chunk : ℕ} {last : Bool} {bs : Bytes} {o : Option Bytes}
    {t : State} (h : Keeps s0 s) (e : s.reassemble x sl key dense chunk last bs = some (o, t)) : Keeps s0 t := by
  unfold State.reassemble at e
  extract_lets d is rest put at e
  have hput (r : Reassembly) : Keeps s0 (put r).2 := by
    simp only [put]
    split
    · dsimp only
      exact h.updXdie
    · dsimp only
      exact h.updXdie
  split at e
  · exact Keeps.sndOfEq (Option.some.inj e) (hput _)
  · split at e
    · cases e
    · exact Keeps.sndOfEq (Option.some.inj e) (hput _)

theorem Keeps.onDispatch {sl x : ℕ} {st : Step} {c : ChunkHead} (h : Keeps s0 s) :
    KeepsSome s0 (s.onDispatch sl x st c) := by
  unfold State.onDispatch
  dsimp only
  split
  · exact .some h
  · split
    · exact .some h
    · split
      · exact .some h.placeDense
      · split
        · exact .none
        · next e => exact .some (h.reassemble e)
        · next e => exact .some ((h.reassemble e).unitWrite.stepEnd fun _ _ h => h.rowIn)

theorem Keeps.dispatchWrite {x : ℕ} {k : Pkt} {data : Bytes} (h : Keeps s0 s) : Keeps s0 (s.dispatchWrite x k data) :=
    by
  unfold State.dispatchWrite
  split
  · exact h
  · next e =>
    have hu := h.takeMon e
    split
    · exact hu.reply
    · split
      · exact h
      · split
        · next e => exact (hu.onDispatch _ e).reply
        · exact hu.reply

theorem Keeps.stageResult {sl x : ℕ} {st : Step} {c : ChunkHead} {row rank : ℕ} (h : Keeps s0 s) :
    KeepsSome s0 (s.stageResult sl x st c row rank) := by
  unfold State.stageResult
  dsimp only
  split
  · exact .some h
  · split
    · exact .some (h.unitWrite.stepEnd fun _ _ h => h.updStep.resultIn.ite h.updStep)
    · split
      · exact .none
      · next e => exact .some (h.reassemble e).updStep
      · next e => exact .some ((h.reassemble e).unitWrite.stepEnd fun _ _ h => h.updStep.resultIn)

theorem Keeps.onReturn {sl x : ℕ} {st : Step} {c : ChunkHead} (h : Keeps s0 s) : KeepsSome s0 (s.onReturn sl x st c) :=
    by
  unfold State.onReturn
  extract_lets row rank
  split
  · exact .some h
  · split
    · exact .some h.returnInvalid
    · split
      · exact .some h.returnInvalid
      · split
        · exact .none
        · split
          · exact .some h.returnInvalid
          · exact h.stageResult

theorem Keeps.returnWrite {x : ℕ} {k : Pkt} {data : Bytes} (h : Keeps s0 s) : Keeps s0 (s.returnWrite x k data) := by
  unfold State.returnWrite
  split
  · exact h
  · next e =>
    have hu := h.takeMon e
    split
    · exact hu.strayReturn.reply
    · split
      · exact h
      · split
        · next e => exact (hu.onReturn _ e).reply
        · exact hu.reply

theorem Keeps.fetchRow {p : ℕ} {t : EntryType} (h : Keeps s0 s) : Keeps s0 (s.fetchRow p t) := by
  unfold State.fetchRow
  extract_lets x r
  refine h.ite (h.serveRing.nextSlot.tryRaise fun bs s' h' => ?_)
  extract_lets e
  refine h'.updPartition.ite (h.ite ?_)
  split
  · exact h.ite (h'.entryCheck.tryRaise fun _ _ h => h.fetchEntry)
  · exact h'.entryCheck.tryRaise fun _ _ h => h

theorem Keeps.kernelRow {p : ℕ} (h : Keeps s0 s) : Keeps s0 (s.kernelRow p) := by
  unfold State.kernelRow
  split
  · exact h.deliverLaunch.ite h
  · exact h.fetchRow

theorem Keeps.rxPacket {n : ℕ} {f : Flit} (h : Keeps s0 s) : Keeps s0 (s.rxPacket n f) := by
  unfold State.rxPacket
  exact ((h.header fun _ h => h).ite h).ite (h.rxKind fun _ h => h.openPacket)

/-- The end of a start's step; the name of this operation is also that of a Monsoon unit's step. -/
theorem Keeps.startStepEnd {r : StepResult} (h : Keeps s0 s) : Keeps s0 (s.stepEnd r) := by
  unfold State.stepEnd
  split
  · exact h
  · split
    · exact h.endPower
    · exact h.endBootRom
    · exact h.halt.ite h
    · exact h.halt.ite h
    · exact h.endAuth
    · exact h.endBist
    · exact h.endBist
    · exact h.endHbmTraining.nextStep
    · exact h.trainFail
    · exact h.nextStep.ite h
    · exact h.endMemTest.ite h
    · exact h.nextStep.ite h
    · exact h.endAddress
    · exact h.lockStep
    · exact h.endStart
    · exact h

theorem Keeps.tapCapture {f : State → ℕ → State} (h : Keeps s0 s) (hf : ∀ s n, Keeps s0 s → Keeps s0 (f s n)) :
    Keeps s0 (s.tapCapture f) :=
  hf _ _ (h.mkSet (Nat.le_succ _))

theorem Keeps.samplePreload {v : ℕ} (h : Keeps s0 s) :
    Keeps s0 (s.tapCapture fun s p =>
      let s := s.tapLoad .samplePreload p
      if s.mgmt.standby then { s with tap := { s.tap with cells := v } } else s) :=
  h.tapCapture fun _ _ h => (h.tapLoad.mkSet le_rfl).ite h.tapLoad

/-- The steps of a reservation after the regions: the ranges and the save area. -/
theorem Keeps.reserveRest {c : CreateBlock} {n : ℕ} {rs : List ℕ} (h : Keeps s0 s) :
    Keeps s0 (match s.reserveRanges [] c.ranges with
      | (none, s) => (none, s)
      | (some ls, s) => let (alloc, s) := s.freeAlloc; match s.reserveRegion n false alloc none with
        | (none, s) => (none, s)
        | (some i, s) => (some (⟨s.freeStewards.take c.stewards, rs, ls, i⟩ : Reserved), s) :
      Option Reserved × State).2 := by
  have hr := h.reserveRanges (taken := []) (x2 := c.ranges)
  generalize s.reserveRanges [] c.ranges = r at hr ⊢
  rcases r with ⟨_ | ls, u⟩
  · exact hr
  · have hu := Keeps.freeAlloc (s := u) hr
    dsimp only
    generalize u.freeAlloc = v at hu ⊢
    have hw := hu.reserveRegion (size := n) (detect := false) (alloc := v.1) (owner := none)
    generalize v.2.reserveRegion n false v.1 none = r at hw ⊢
    rcases r with ⟨_ | i, w⟩
    · exact hw
    · exact hw

theorem Keeps.reserve {c : CreateBlock} (h : Keeps s0 s) : Keeps s0 (s.reserve c).2 := by
  rw [State.reserve]
  split
  · exact h
  · have hr := h.reserveRegions (p := c.id) (x2 := c.regions)
    generalize s.reserveRegions c.id c.regions = r at hr ⊢
    generalize c.saveUnits = n
    rcases r with ⟨_ | rs, t⟩
    · exact hr
    · exact Keeps.reserveRest hr

theorem Keeps.createNow {c : CreateBlock} {creator : BitVec 16} (h : Keeps s0 s) : Keeps s0 (s.createNow c creator).2 :=
    by
  unfold State.createNow
  split
  · next s' e => exact h.mkSet (Keeps.sndOfEq e (Keeps.refl s).reserve).free
  · next r s' e =>
    have hr : Keeps s0 s' := Keeps.sndOfEq e h.reserve
    have hf : s.free ≤ s'.free := (Keeps.sndOfEq e (Keeps.refl s).reserve).free
    dsimp only
    split
    · exact hr.install.activate
    · split
      · exact h.mkSet hf
      · split
        · exact h.mkSet hf
        · dsimp only
          exact hr.install.updPartition

theorem Keeps.create {t : Taken} {host : Option Bytes} (h : Keeps s0 s) : Keeps s0 (s.create t host).2 := by
  unfold State.create
  split
  · next e => exact Keeps.sndOfEq e h.readPblock
  · next e =>
    have hr := Keeps.sndOfEq e h.readPblock
    dsimp only
    split
    · exact hr
    · split
      · exact hr
      · split
        · exact hr
        · exact hr.createNow

theorem Keeps.coreMissed {c : CoreId} (h : Keeps s0 s) : Keeps s0 (s.coreMissed c) := by
  unfold State.coreMissed
  dsimp only
  split
  · next l _ =>
    cases e : s.wordFault c l.part with
    | none => exact h.raise
    | some t => exact h.wordFault t e
  · exact h

theorem Keeps.deadlineMissed {w : WorkRef} (h : Keeps s0 s) : Keeps s0 (s.deadlineMissed w) := by
  unfold State.deadlineMissed
  split
  · exact h
  · split
    · exact h.coreMissed
    · exact h.savedMissed
    · exact h.stepMissed
    · exact h.fcMissed
    · exact h.collMissed
    · exact h.entryMissed

theorem Keeps.once {k : Pkt} {op : Byte} {f : State → ℕ × Word × State} (h : Keeps s0 s)
 (hf : ∀ s, Keeps s0 s → Keeps s0 (f s).2.2) : Keeps s0 (s.once k op f) := by
  unfold State.once
  dsimp only
  split
  · exact h.reply
  · split
    · exact h.reply
    · split
      · exact h.reply
      · split
        · next e => exact (Keeps.trdOfEq e (hf s h)).updXdie.reply
        · next e => exact (Keeps.trdOfEq e (hf s h)).reply

theorem Keeps.serveAtomic {k : Pkt} (h : Keeps s0 s) : Keeps s0 (s.serveAtomic k) := by
  unfold State.serveAtomic
  refine h.once fun s h => ?_
  split
  · exact h
  · split
    · next e => exact Keeps.sndOfEq e h.atomicAt
    · next e => exact Keeps.sndOfEq e h.atomicAt

theorem Keeps.serveReduce {k : Pkt} {data : Bytes} (h : Keeps s0 s) : Keeps s0 (s.serveReduce k data) := by
  unfold State.serveReduce
  refine h.once fun s h => ?_
  split
  · exact h
  · split
    · next e => exact Keeps.sndOfEq e h.reduceAt
    · next e => exact Keeps.sndOfEq e h.reduceAt

theorem Keeps.takeRequest {op : Byte} {k : Pkt} {data : Bytes} {f : State → Bytes → State} (h : Keeps s0 s)
 (hf : ∀ s d, Keeps s0 s → Keeps s0 (f s d)) : Keeps s0 (s.takeRequest op k data f) := by
  unfold State.takeRequest
  split
  · exact h
  · split
    · exact hf _ _ h.takeRx
    · exact h

theorem Keeps.putImage {a : ℕ} {cells : List (ℕ × Byte)} (h : Keeps s0 s) : Keeps s0 (s.putImage a cells) :=
  h.zeroRange.mkAll (fun hm => Memory.wf_foldl _ _ _ (fun m _ hm => Memory.wf_memSet m _ _ hm) hm) ⟨[], rfl⟩ le_rfl

theorem Keeps.setClaim {p : ℕ} {mask : BitVec 288} (h : Keeps s0 s) : Keeps s0 (s.setClaim p mask) := by
  unfold State.setClaim
  extract_lets
  exact Keeps.foldl _ _ (fun _ _ h => h.releaseCore) (Keeps.foldl _ _ (fun _ _ h => h.putImage)
    (Keeps.foldl _ _ (fun _ _ h => h.zeroRange)
        ((Keeps.foldl _ _ (fun _ _ h => h.zeroRange) h).mkSet le_rfl).setPartition))

theorem Keeps.claim {t : Taken} {host : Option Bytes} (h : Keeps s0 s) : Keeps s0 (s.claim t host).2 := by
  unfold State.claim
  split
  · next e => exact Keeps.sndOfEq e h.readClaim
  · next e =>
    have hr := Keeps.sndOfEq e h.readClaim
    dsimp only
    split
    · exact hr
    · split
      · exact hr
      · split
        · exact hr
        · split
          · exact hr
          · dsimp only
            exact hr.setClaim.updSeason

theorem Keeps.saveDone {c : ℕ} (h : Keeps s0 s) : Keeps s0 (s.saveDone c) := by
  unfold State.saveDone
  dsimp only
  split
  · exact h
  · split
    · exact h
    · exact (h.putImage.mkAll (Memory.wf_memClear _ _ _) ⟨[], rfl⟩ le_rfl).settleCore.clearHome

theorem Keeps.restoreFrom {p c : ℕ} {k : Core} (h : Keeps s0 s) : Keeps s0 (s.restoreFrom p c k) := by
  unfold State.restoreFrom
  dsimp only
  split
  · exact h.raiseMem
  · exact (h.putImage.mkSet le_rfl).setCore.resumeXacts.armLaunch.clearHome

theorem Keeps.restoreDone {c : ℕ} (h : Keeps s0 s) : Keeps s0 (s.restoreDone c) := by
  unfold State.restoreDone
  split
  · exact h
  · split
    · exact h.assignCore
    · split
      · exact h.settleCore.clearHome
      · split
        · exact h.restoreFrom
        · exact h.assignCore.armLaunch.clearHome

/-- Every command answers a next state, which follows the one before it. -/
theorem exec_completes (c : Instr) (s : State) : Completes s (exec c s) := by
  have h := Keeps.refl s
  cases c with
  | wideWordIssue => exact .next h.wideWord
  | matrixOpStart => exact .next h.laneStart
  | matrixOpDone => exact .next h.laneDone
  | loadDataReturn => exact .next h.loadReturn
  | storeAcknowledgement => exact .next h.storeAck
  | dmaTagComplete => exact .next h.tagComplete
  | mbsendAnswer => exact .next h.mbAnswer
  | kernelCompletion => exact .next h.kernelEnd
  | launchArm => exact .next h.armLaunch
  | launchStart => exact .next h.launchStart
  | equinoxReached => exact .next h.equinoxReached
  | deadlineMissed => exact .next h.deadlineMissed
  | dieFailed => exact .next (h.ite h.failAny)
  | controlDieFailed => exact .next (h.failControl.ite h)
  | countSync => exact .next (h.syncCheck.ite h)
  | beaconIntervalEnd => exact .next h.endInterval
  | holdoverEnd => exact .next (h.endHoldover.ite h)
  | linkDelayRefresh => exact .next (h.refreshDelays.ite h)
  | ppsEdge => exact .next (h.pps.ite h)
  | timerefCountCheck => exact .next (h.updSeason.checkRef.ite h)
  | monsoonStepArm => exact .next h.monsoonArm
  | routerInputPost => exact .next h.routerPost
  | scoringStart => exact .next h.scoringStart
  | countRoundStart => exact .next h.countRound
  | countPacket => exact .next h.takeExchange
  | prefixPacket => exact .next h.takeExchange
  | abortPacket => exact .next h.takeExchange
  | dispatchChoice => exact .next h.dispatchChoice
  | dispatchPortWrite => exact .next h.dispatchWrite
  | batchComplete => exact .next h.batchComplete
  | stepPairExpiry => exact .next h.expirePair
  | returnStart => exact .next h.returnStart
  | returnRowSend => exact .next h.returnRow
  | returnPortWrite => exact .next h.returnWrite
  | tokenCombine => exact .next h.tokenCombine
  | stepComplete => exact .next h.stepComplete
  | stepCommitDone => exact .next h.stepCommit
  | forecastArm => exact .next h.forecastArm
  | forecastStart => exact .next h.forecastStart
  | forecastSegment => exact .next h.forecastSegment
  | forecastListAssembly => exact .next h.forecastList
  | forecastComplete => exact .next h.forecastComplete
  | bpmAlloc => exact .next h.allocPort
  | bpmIncr => exact .next h.refPort
  | bpmDecr => exact .next h.refPort
  | bpmGrant => exact .next h.grantPort
  | bpmCacheRefill => exact .next (h.poolRefill.ite h)
  | bpmCacheWriteback => exact .next (h.poolWriteback.ite h)
  | hbmRead => exact .next h.hubReadFor
  | hbmWrite => exact .next h.hubWriteFor
  | correctionWriteback => exact .next h.writeBack
  | patrolScrub => exact .next h.scrub
  | rowClose => exact .next (h.closeRow.ite h)
  | stackTemperatureReading => exact .next h.stackRead
  | spprRepair => exact .next h.softRepair
  | trafficGeneratorStart => exact .next h.startGen
  | trafficGeneratorDone => exact .next h.endGen
  | packet => exact .next (h.receive fun _ h => h.rxPacket)
  | dataFlit => exact .next (h.receive (fun _ h => h.rxData))
  | stompedFlit => exact .next (h.receive (fun _ h => h.rxStomped))
  | badSlot => exact .next (h.receive (fun _ h => h.rxBad))
  | idle => exact .next (h.receive (fun _ h => h.rxIdle))
  | credit => exact .next (h.receive (fun _ h => h.rxCredit))
  | beacon => exact .next (h.receive (fun _ h => h.rxBeacon))
  | discovery => exact .next (h.receive (fun _ h => h.rxDiscovery))
  | marker => exact .next (h.trainMarker.ite (h.receive (fun _ h => h.rxMarker)))
  | creditSend => exact .next h.txCredit
  | beaconSend => exact .next h.txBeacon
  | discoverySend => exact .next h.txDiscovery
  | markerSend => exact .next h.txMarker
  | loseLock => exact .next h.loseLock
  | portTrainingDone => exact .next h.trained
  | trainingTimeout => exact .next h.fullTimeout
  | fastRetrainTimeout => exact .next h.fastTimeout
  | fabPortRetrain => exact .next h.fullRetrain
  | requestSend => exact .next h.requestSend
  | read => exact .next (h.takeRequest fun _ _ h => h.serveRead)
  | write => exact .next (h.ite (h.takeRequest fun _ _ h => h.serveWrite))
  | writeMcast => exact .next (h.takeRequest fun _ _ h => h.serveMcast)
  | reduceInto => exact .next (h.takeRequest fun _ _ h => h.serveReduce)
  | addInt => exact .next (h.takeRequest fun _ _ h => h.serveAtomic)
  | addFp32 => exact .next (h.takeRequest fun _ _ h => h.serveAtomic)
  | atomicMin => exact .next (h.takeRequest fun _ _ h => h.serveAtomic)
  | atomicMax => exact .next (h.takeRequest fun _ _ h => h.serveAtomic)
  | swap => exact .next (h.takeRequest fun _ _ h => h.serveAtomic)
  | cas => exact .next (h.takeRequest fun _ _ h => h.serveAtomic)
  | fetchAdd => exact .next (h.takeRequest fun _ _ h => h.serveAtomic)
  | probe => exact .next h.answerProbe
  | jobTeardown => exact .next (h.jobTeardown.ite h)
  | readReply => exact .next h.takeReply
  | ack => exact .next h.takeReply
  | atomicReply => exact .next h.takeReply
  | attemptTimeout => exact .next h.attemptTimeout
  | busyResend => exact .next h.busyResend
  | probeTimeout => exact .next h.probeTimeout
  | combineWindowClose => exact .next h.closeWindow
  | routeEpochSwitch => exact .next h.switchEpoch
  | routeEpochRetire => exact .next h.retireEpoch
  | collUp => exact .next h.takeTree
  | collDown => exact .next h.takeTree
  | collRoot => exact .next h.takeTree
  | collAbort => exact .next h.takeTree
  | collectiveComplete => exact .next h.completeColl
  | collectiveCommitDone => exact .next h.commitColl
  | kernel => exact .next h.kernelRow
  | dma => exact .next h.fetchRow
  | monsoon => exact .next h.fetchRow
  | forecast => exact .next h.fetchRow
  | returnEntry => exact .next h.fetchRow
  | collective => exact .next h.fetchRow
  | waitSeason => exact .next h.fetchRow
  | waitSem => exact .next h.fetchRow
  | loopUntil => exact .next h.fetchRow
  | loopTest => exact .next h.loopTest
  | signalSem => exact .next h.fetchRow
  | signalWord => exact .next h.fetchRow
  | signalTime => exact .next h.fetchRow
  | ringPoll => exact .next h.wakeRing
  | cmdReserve => exact .next h.cmdReserve
  | cmdDoorbell => exact h.execCmdDoorbell
  | cmdSemAdd => exact .next h.cmdSemAdd
  | cmdSemTake => exact .next h.cmdSemTake
  | stewardException => exact .next h.stewardTrap
  | wfi => exact .next h.wfi
  | wfiEnd => exact .next h.wfiEnd
  | create => exact .next (h.command fun _ _ h => h.create)
  | destroy => exact .next (h.command (fun _ _ h => h.destroy))
  | destroyAt => exact .next h.destroyDue
  | deferredPlacement => exact .next h.placeDeferred
  | claim => exact .next (h.command fun _ _ h => h.claim)
  | yearSet => exact .next (h.command (fun _ _ h => h.yearSet))
  | scheduleTakesEffect => exact .next h.scheduleStart
  | monthHandoverStart => exact h.execMonthHandoverStart
  | monthEnd => exact .next ((Keeps.foldl _ _ (fun _ _ h => h.endMonth) h).ite h)
  | quiesceTimeout => exact .next h.quiesceTimeout
  | contextSaveDone => exact .next h.saveDone
  | contextRestoreDone => exact .next h.restoreDone
  | windowAccess => exact .next h.windowAccess
  | faultRecordWrite => exact .next h.writeRecord
  | teardownComplete => exact .next h.endTeardown
  | chOpen => exact .next (h.command (fun _ _ h => h.chOpen))
  | chClose => exact h.execChClose
  | windowMap => exact .next (h.command (fun _ _ h => h.windowMap))
  | pkgQuery => exact .next (h.command (fun _ _ h => h))
  | fwReset => exact .next (h.commandThen (fun _ _ h => h) (fun _ _ h => h.firmwareDown))
  | poolCreate => exact .next (h.command (fun _ _ h => h.poolCreate))
  | poolDestroy => exact .next (h.command (fun _ _ h => h.poolDestroy))
  | groupDefine => exact .next (h.command (fun _ _ h => h.groupDefine))
  | groupDestroy => exact .next (h.command (fun _ _ h => h.groupDestroy))
  | seasonSet => exact .next (h.command (fun _ _ h => h.seasonSet))
  | wvSet => exact .next (h.command (fun _ _ h => h.wvSet))
  | anemSelect => exact h.execAnemSelect
  | routeLoad => exact .next (h.command (fun _ _ h => h.routeLoad))
  | routeSwitch => exact h.execRouteSwitch
  | xactTimeoutSet => exact h.execXactTimeoutSet
  | quiesce => exact h.execQuiesce
  | resume => exact h.execResume
  | llmMode => exact h.execLlmMode
  | memTest => exact h.execMemTest
  | secureSet => exact .next (h.command (fun _ _ h => h.secureSet))
  | seedLoad => exact .next (h.command (fun _ _ h => h.seedLoad))
  | dewSetup => exact .next (h.command (fun _ _ h => h.dewSetup))
  | dewRelease => exact .next (h.command (fun _ _ h => h.dewRelease))
  | frostSetup => exact .next (h.command (fun _ _ h => h.frostSetup))
  | ckptWrite => exact .next (h.commandThen (fun _ _ h => h.ckptWrite) (fun _ _ h => h))
  | ckptWriteComplete => exact .next h.ckptWriteEnd
  | ckptRestore => exact .next (h.commandThen (fun _ _ h => h.ckptRestore) (fun _ _ h => h))
  | ckptQuery => exact .next (h.command (fun _ _ h => h))
  | barometerUpdate => exact .next h.baroUpdate
  | chDoorbell => exact .next h.doorbell
  | chControlEnable => exact .next h.chControl
  | channelFetch => exact .next h.channelFetch
  | channelTimeout => exact .next h.channelTimeout
  | functionLevelReset => exact .next h.flr
  | channelDrained => exact .next h.channelDrained
  | filinaWatchdog => exact .next h.firmwareDown
  | firmwareRestart => exact .next (h.ite h.restart)
  | commandServiceTake => exact .next h.serviceTake
  | mbxPost => exact .next h.stewardPost
  | lockAcquire => exact .next h.lockAcquire
  | lockRelease => exact .next h.lockRelease
  | hostWindowAccess => exact .next h.hostWindow
  | getVersion => exact .next h.spdm
  | getCapabilities => exact .next h.spdm
  | negotiateAlgorithms => exact .next h.spdm
  | getDigests => exact .next h.spdm
  | getCertificate => exact .next h.spdm
  | challenge => exact .next h.spdm
  | getMeasurements => exact .next h.spdm
  | pwrokLow => exact .next (h.enterOff.tapBypass.updMgmt.ite h)
  | pwrokHigh => exact .next (h.updMgmt.ite h)
  | coldResetAssert => exact .next (h.enterOff.updMgmt.ite h)
  | coldStart => exact .next h.coldStart
  | warmEntry => exact .next (h.ite ((h.ite h.warmEntry).ite h.updMgmt))
  | warmStart => exact .next h.warmStart
  | startStepEnd => exact .next h.startStepEnd
  | addressAssignmentTimeout => exact .next (h.halt.ite h)
  | seasonLockTimeout => exact .next (h.halt.ite h)
  | entdaa => exact .next (h.updMgmt.emit.ite h)
  | pkgMgmtTray => exact .next (h.updMgmt.recheckTrays.ite h)
  | pkgMgmtDim => exact .next (h.updMgmt.ite h)
  | pkgMgmtPwrCap => exact .next (h.updMgmt.ite h)
  | thermtrip => exact h.execThermtrip
  | hostPerstN => exact .next h.hostPerst
  | powerSample => exact .next h.powerSample
  | powerStepEval => exact .next h.powerEval
  | vin48Undervoltage => exact .next h.powerFail
  | vin48Overvoltage => exact .next h.powerFail
  | inputPowerExcess => exact .next (h.ite h.powerFail)
  | railOutOfRegulation => exact h.execRailOutOfRegulation
  | vstby12Low => exact .next (h.standbyLost.ite h)
  | droopTrip => exact .next h.droopTrip
  | junctionSensorRead => exact .next h.junctionRead
  | refclkLoss => exact .next h.refclkLost
  | pcieRefclkLoss => exact .next h.hostPerst.updMgmt
  | bypass => exact .next h.tapLoad
  | idcode => exact .next h.tapLoad
  | samplePreload => exact .next h.samplePreload
  | extest => exact .next (h.tapCapture fun _ _ h => h.tapGated)
  | extestPulse => exact .next (h.tapCapture fun _ _ h => h.tapGated)
  | extestTrain => exact .next (h.tapCapture fun _ _ h => h.tapGated)
  | clamp => exact .next h.tapGated
  | highz => exact .next h.tapGated
  | rcRead => exact .next h.readReg.keepAt
  | w1cWrite => exact .next h.clearBits
  | registerWrite => exact .next h.writeReg
  | vstby12InRange => exact .next (h.ite h.updMgmt)
  | peerSignalDetected => exact .next h.peerSignal
  | ppsEdgeLate => exact h.execPpsEdgeLate
  | pcieRefclkReturn => exact .next h.updMgmt
  | hbmRefresh => exact .next h.closeRow
  | ckptRestoreComplete => exact .next h.ckptRestoreEnd

/-- A command leaves the queue, the part, the time, the canonical form, and what was sent and drawn as `Keeps` says. -/
theorem exec_keeps {c : Instr} {s t : State} (e : exec c s = .next t) : Keeps s t := by
  obtain ⟨u, hu, hk⟩ := exec_completes c s
  cases hu.symm.trans e
  exact hk

@[simp] theorem State.tick_mem (s : State) : s.tick.mem = s.mem := by
  unfold State.tick
  split
  · rfl
  · rfl

end Sys2Proof.Machine

end WhatEveryCommandKeeps

namespace Sys2Proof.Machine

open Sys2Proof

/-- Settles O4, by what every command keeps, and of a tick by what its link slots keep. -/
theorem everyStepKeepsTheMemoryCanonical : Obligations.EveryStepKeepsTheMemoryCanonical := by
  intro s t hm hs
  unfold step at hs
  split at hs
  · exact (exec_keeps hs).mem hm
  · cases hs
    exact (Keeps.refl s.tick).linkTick.mem (s.tick_mem ▸ hm)

/-- Settles O6, by what every command keeps. -/
theorem everyCommandCompletesAndKeepsTheQueue : Obligations.EveryCommandCompletesAndKeepsTheQueue := by
  constructor
  · intro c s t e
    have hk := exec_keeps e
    exact ⟨hk.pending, hk.part, hk.time⟩
  · intro c s
    obtain ⟨t, ht, _⟩ := exec_completes c s
    exact ⟨t, ht⟩

/-- Settles O7, by what every command keeps. -/
theorem commandsNeverRecallWhatWasSent : Obligations.CommandsNeverRecallWhatWasSent := by
  intro c s t e
  have hk := exec_keeps e
  exact ⟨hk.out, hk.free⟩

/-- Settles O1: a step on a queue that is not empty is its front command by definition. -/
theorem stepRunsTheFrontCommand : Obligations.StepRunsTheFrontCommand := by
  intro c rest s
  rfl

/-- Settles O3: the values are those of the reset state. -/
theorem resetHoldsTheStatedValues : Obligations.ResetHoldsTheStatedValues := by
  have hport (n : ℕ) : (State.reset.port n).state = .disabled ∧ (State.reset.port n).creditCfg = creditReset n :=
    ⟨rfl, rfl⟩
  have hcore (c : ℕ) : (State.reset.core c).rs 0 = 0 ∧ (State.reset.core c).rp 0 = true ∧
      (State.reset.core c).rvm 0 = BitVec.allOnes 64 := ⟨rfl, rfl, rfl⟩
  exact ⟨rfl, rfl, rfl, rfl, rfl, rfl, rfl, rfl, rfl, rfl, rfl, rfl, hport, fun _ => rfl, fun _ => rfl, hcore, rfl⟩

/-- Settles O5: the memory after reset lists no byte. -/
theorem resetMemoryIsCanonical : Obligations.ResetMemoryIsCanonical := Memory.wf_nil

end Sys2Proof.Machine

/-! ## Byte strings and the numbers they hold -/

namespace Sys2Proof.Machine

open Sys2Proof

@[simp] theorem length_leBytes (n v : ℕ) : (leBytes n v).length = n := by
  induction n generalizing v with
  | zero => rfl
  | succ n ih => simp [leBytes, ih]

@[simp] theorem length_zeros (n : ℕ) : (zeros n).length = n := List.length_replicate

theorem leNat_append (a b : Bytes) : leNat (a ++ b) = leNat a + 256 ^ a.length * leNat b := by
  induction a with
  | nil => simp [leNat]
  | cons x a ih =>
    simp only [List.cons_append, leNat, ih, List.length_cons]
    ring

theorem leNat_lt (bs : Bytes) : leNat bs < 256 ^ bs.length := by
  induction bs with
  | nil => simp [leNat]
  | cons b bs ih =>
    have := b.isLt
    simp only [leNat, List.length_cons, pow_succ]
    omega

theorem leNat_leBytes (n v : ℕ) : leNat (leBytes n v) = v % 256 ^ n := by
  induction n generalizing v with
  | zero => simp [leBytes, leNat, Nat.mod_one]
  | succ n ih =>
    rw [leBytes, leNat, ih, BitVec.toNat_ofNat, pow_succ' 256 n]
    exact (Nat.mod_mul (x := v) (a := 256) (b := 256 ^ n)).symm

@[simp] theorem leNat_zeros (n : ℕ) : leNat (zeros n) = 0 := by
  induction n with
  | zero => rfl
  | succ n ih => simpa [zeros, List.replicate_succ, leNat] using ih

@[simp] theorem leNat_padTo_of_length_le {n : ℕ} {bs : Bytes} (h : bs.length ≤ n) : leNat (padTo n bs) = leNat bs := by
  simp [padTo, leNat_append, List.take_of_length_le h]

/-- A flit holds the number of a byte string of at most 64 bytes. -/
theorem toNat_flitOf {bs : Bytes} (h : bs.length ≤ 64) : (flitOf bs).toNat = leNat bs := by
  have hb : leNat bs < 2 ^ 512 :=
    calc leNat bs < 256 ^ bs.length := leNat_lt bs
      _ ≤ 256 ^ 64 := Nat.pow_le_pow_right (by decide) h
      _ = 2 ^ 512 := (pow_mul 2 8 64).symm
  rw [flitOf, leNat_padTo_of_length_le h, BitVec.toNat_ofNat, Nat.mod_eq_of_lt hb]

/-- A field of a number as a quotient and a remainder. -/
theorem fld_eq (v hi lo : ℕ) : fld v hi lo = v / 2 ^ lo % 2 ^ (hi + 1 - lo) := by
  rw [fld, Nat.shiftRight_eq_div_pow]

end Sys2Proof.Machine

/-! ## A tick of an idle package (O2) -/

namespace Sys2Proof.Machine

open Sys2Proof

theorem kindOf_idleFlit (s : State) (n : ℕ) : kindOf (s.idleFlit n) = 1 := by
  unfold kindOf ffld State.idleFlit
  rw [toNat_flitOf (by simp), fld_eq, leNat_append, leNat_leBytes]
  simp only [length_leBytes, linkWord]
  omega

/-- State `t` follows `s` by what the ports do in a tick: stalls are counted, and IDLE flits go out. -/
structure IdleSlots (s t : State) : Prop where
  state : t = { s with ports := t.ports, fabric := t.fabric, out := t.out }
  port : ∀ n, { t.port n with idleSent := (s.port n).idleSent } = s.port n
  fabric : { t.fabric with swqStall := s.fabric.swqStall, anem := s.fabric.anem } = s.fabric
  out : ∃ l, t.out = l ++ s.out ∧ ∀ m ∈ l, ∃ n f w, m = .flit n f w ∧ kindOf f = 1

theorem IdleSlots.refl (s : State) : IdleSlots s s := ⟨rfl, fun _ => rfl, rfl, [], rfl, by simp⟩

theorem IdleSlots.trans {s t u : State} (h : IdleSlots s t) (k : IdleSlots t u) : IdleSlots s u where
  state := by rw [k.state, h.state]
  port n := by rw [← h.port n, ← k.port n]
  fabric := by rw [← h.fabric, ← k.fabric]
  out := by
    obtain ⟨l, hl, hidle⟩ := h.out
    obtain ⟨r, hr, ridle⟩ := k.out
    exact ⟨r ++ l, by rw [hr, hl, List.append_assoc], fun m hm => (List.mem_append.1 hm).elim (ridle m) (hidle m)⟩

theorem IdleSlots.foldl {α : Type} {f : State → α → State} (hf : ∀ s a, IdleSlots s (f s a)) (l : List α) (s : State) :
    IdleSlots s (l.foldl f s) := by
  induction l generalizing s with
  | nil => exact .refl s
  | cons a l ih => exact (hf s a).trans (ih _)

theorem idleSlots_noteAnem (s : State) (sel : ℕ → Bool) (f : Anem → Anem) : IdleSlots s (s.noteAnem sel f) :=
  ⟨rfl, fun _ => rfl, rfl, [], rfl, by simp⟩

theorem idleSlots_stallSlots (s : State) (n : ℕ) : IdleSlots s (s.stallSlots n) := by
  unfold State.stallSlots
  split
  · exact idleSlots_noteAnem _ _ _
  · exact .refl s

theorem idleSlots_stallQueue (s : State) (key : ℕ) : IdleSlots s (s.stallQueue key) := by
  unfold State.stallQueue
  split
  · split
    · exact ⟨rfl, fun _ => rfl, rfl, [], rfl, by simp⟩
    · exact .refl s
  · exact .refl s

theorem idleSlots_sendFlit (s : State) (n cls : ℕ) {f : Flit} (hf : kindOf f = 1) : IdleSlots s (s.sendFlit n f cls) := by
  unfold State.sendFlit
  split
  · exact ⟨rfl, fun _ => rfl, rfl, [_], rfl, fun m hm => ⟨_, f, _, List.mem_singleton.1 hm, hf⟩⟩
  · exact .refl s

theorem idleSlots_updPort (s : State) (n : ℕ) (f : Port → Port)
    (hf : ∀ p : Port, { f p with idleSent := p.idleSent } = p) : IdleSlots s (s.updPort n f) where
  state := rfl
  port m := by
    by_cases h : m = n
    · subst h
      rw [State.updPort_port_self]
      exact hf _
    · rw [State.updPort_port_ne s n f m h]
  fabric := rfl
  out := ⟨[], rfl, by simp⟩

theorem idleSlots_sendIdle (s : State) (n : ℕ) : IdleSlots s (s.sendIdle n) := by
  unfold State.sendIdle
  split
  · exact (idleSlots_sendFlit s n 0 (kindOf_idleFlit s n)).trans (idleSlots_updPort _ _ _ fun _ => rfl)
  · exact .refl s

theorem idleSlots_linkTick (s : State) : IdleSlots s s.linkTick := by
  unfold State.linkTick
  split
  · exact .refl s
  · exact ((IdleSlots.foldl idleSlots_stallSlots _ _).trans (IdleSlots.foldl idleSlots_stallQueue _ _)).trans
      (IdleSlots.foldl (fun s n => IdleSlots.foldl (fun s _ => idleSlots_sendIdle s n) _ s) _ _)

theorem State.linkTick_of_still {s : State} (h : s.moves = false) : s.linkTick = s := by
  simp [State.linkTick, h]

theorem State.tick_of_still {s : State} (h : s.moves = false) : s.tick = { s with time := s.time + 1 } := by
  simp [State.tick, State.ticks, h]

/-- Without a correction to make the K0 copy advances by one tick. -/
theorem State.tick_of_ticks {s : State} (h : s.ticks = true) (hz : s.season.slew = 0) :
    s.tick = { s with
      time := s.time + 1
      season := { s.season with
        k0 := s.season.k0 + 1
        islands := s.season.islands.map fun e => (e.1, e.2.advance s.season.k0.toNat 1) }
      cores := s.cores.map fun e => (e.1, e.2.tick (s.coreStep (e.1 / 256)))
      stewards := s.stewards.map fun e => (e.1, e.2.tick) } := by
  simp [State.tick, h, Season.advance, hz]

/-- Settles O2: the tick itself is `State.tick`'s two cases, and what the ports do in it is `IdleSlots`. -/
theorem idleStepIsOneTick : Obligations.IdleStepIsOneTick := by
  intro s hq
  have hstep : step s = .next s.tick.linkTick := by simp [step, hq]
  constructor
  · intro hm
    rw [hstep, State.tick_of_still hm, State.linkTick_of_still (s := { s with time := s.time + 1 }) hm]
  · intro ht hz
    have hl := idleSlots_linkTick s.tick
    refine ⟨_, hstep, ?_⟩
    generalize s.tick.linkTick = t at hl ⊢
    rw [State.tick_of_ticks ht hz] at hl
    obtain ⟨hstate, hport, hfabric, hout⟩ := hl
    exact ⟨by rw [hstate], by rw [hstate], hport, hfabric, by rw [hstate]; rfl, by rw [hstate], by rw [hstate], hout,
      by rw [hstate]⟩

end Sys2Proof.Machine

/-! ## Issue of a wide word (O8 to O11) -/

namespace Sys2Proof.Machine

open Sys2Proof

theorem exec_wideWordIssue (c : CoreId) (s : State) : exec (.wideWordIssue c) s = .next (s.wideWord c.val) := rfl

/-- The slots of two lists in order are those of the first, then those of the second. -/
theorem State.slots_append (s : State) (c : ℕ) (r : Core) (w : ℕ) (l l' : List ℕ) :
    s.slots c r w (l ++ l') = (s.slots c r w l).bind fun t => t.slots c r w l' := by
  induction l generalizing s with
  | nil => rfl
  | cons i l ih =>
    simp only [List.cons_append, State.slots]
    split
    · rfl
    · split
      · rfl
      · split
        · split
          · rfl
          · exact ih _
        · exact ih s

/-- The core moves on to the next word. -/
def State.advancePc (s : State) (c : ℕ) : State := s.updCore c fun k => { k with pc := k.pc + 32 }

theorem State.wordSlots_of_unmarked {w : ℕ} (h : wMv w = false) (s : State) (c : ℕ) (r : Core) (l : List ℕ) :
    s.wordSlots c r w l = (s.advancePc c).slots c r w l := by
  simp [State.wordSlots, State.advancePc, h]

theorem State.canIssue.unmarked {s s1 : State} {c w : ℕ} (h : s.canIssue c w s1) : wMv w = false := by
  obtain ⟨-, -, -, -, -, -, hmv⟩ := h
  exact hmv

theorem State.canIssue.ready {s s1 : State} {c w : ℕ} (h : s.canIssue c w s1) : s1.wordWaits c w = false := by
  obtain ⟨-, -, -, -, -, hwaits, -⟩ := h
  exact hwaits

/-- A word that is not an executing SEMWAIT issues from the state that its fetch leaves. -/
theorem State.wideWord_of_canIssue {s s1 : State} {c w : ℕ} (h : s.canIssue c w s1)
    (hsem : (s.core c).runs w 4 = false ∨ cOp (slotOf w 4) ≠ 0x19) : s.wideWord c = s1.issueWord c w := by
  obtain ⟨hrun, hlive, hstop, htail, hfetch, hwaits, -⟩ := h
  have hno : ¬((s.core c).runs w 4 = true ∧ cOp (slotOf w 4) = 0x19) := by
    rintro ⟨h4, hop⟩
    exact hsem.elim (fun h => by simp [h] at h4) (· hop)
  simp [State.wideWord, hrun, hlive, hstop, htail, hfetch, hwaits, hno]

/-- Without a fault all slots take effect, but for those that the M slot, or the store of the S slot, holds back. -/
theorem State.issueWord_of_slots {s all part : State} {c w : ℕ} (hmv : wMv w = false)
    (hall : (s.advancePc c).slots c (s.core c) w [0, 1, 2, 3, 4] = .ok all)
    (hpart : (s.advancePc c).slots c (s.core c) w [0, 1, 2] = .ok part) :
    s.issueWord c w = if part.tailWaits c (s.core c) w then part.updCore c fun k => { k with tail := some (s.tailOf c w) }
      else all.wordStop c (s.core c) w := by
  simp [State.issueWord, State.wordSlots_of_unmarked hmv, hall, hpart]

/-- The first slot that faults gives the word's fault. -/
theorem State.issueWord_of_fault {s : State} {c w : ℕ} {f : FaultRec} (hmv : wMv w = false)
    (hall : (s.advancePc c).slots c (s.core c) w [0, 1, 2, 3, 4] = .error f) : s.issueWord c w = s.issueFault c f := by
  simp [State.issueWord, State.wordSlots_of_unmarked hmv, hall]

theorem State.slots_prefix_of_ok {s all : State} {c w : ℕ} {r : Core}
    (h : s.slots c r w [0, 1, 2, 3, 4] = .ok all) : ∃ part, s.slots c r w [0, 1, 2] = .ok part := by
  rw [show [0, 1, 2, 3, 4] = [0, 1, 2] ++ [3, 4] from rfl, State.slots_append] at h
  cases hp : s.slots c r w [0, 1, 2] with
  | error f => simp [hp, Except.bind] at h
  | ok part => exact ⟨part, rfl⟩

/-- The end of a word sets the registers that the next one waits for, and nothing else. -/
theorem State.wordStop_eq (s : State) (c : ℕ) (r : Core) (w : ℕ) :
    ∃ stop, s.wordStop c r w = s.updCore c fun k => { k with tail := none, stopRegs := stop } :=
  ⟨if wStop w then (((List.range 5).filter fun i => r.executes w i).flatMap fun i => slotWrites i (slotOf w i)).filterMap
      fun x => if (s.core c).pendingRegs.contains x then some (BitVec.ofNat 5 x) else none
    else [], rfl⟩

theorem State.wideWord_of_tail {s : State} {c : ℕ} {t : WordTail} (hrun : (s.core c).phase = .running)
    (ht : (s.core c).tail = some t) : s.wideWord c = s.finishWord c t := by
  simp [State.wideWord, hrun, ht]

/-- Settles O8: a word's slots are all its slots, or those before its D slot where the tail waits; a held word then ends
with its D and C slots. -/
theorem wideWordTakesItsSlotsInOrder : Obligations.WideWordTakesItsSlotsInOrder := by
  constructor
  · intro c s s1 s2 w r s' hissue hsem hall
    have hmv := hissue.unmarked
    obtain ⟨part, hpart⟩ := State.slots_prefix_of_ok hall
    have hword := State.wideWord_of_canIssue hissue hsem
    rw [State.issueWord_of_slots hmv hall hpart] at hword
    constructor
    · intro hnot
      rw [exec_wideWordIssue, hword, hnot part hpart]
      rfl
    · intro p hp hwait
      obtain rfl : part = p := Except.ok.inj (hpart.symm.trans hp)
      rw [exec_wideWordIssue, hword, hwait]
      rfl
  · intro c s s2 t r hrun ht hdrains
    have hword : exec (.wideWordIssue c) s = .next (s.finishWord c.val t) := by
      rw [exec_wideWordIssue, State.wideWord_of_tail hrun ht]
    have hr : (s.core c.val).atIssue t = r := rfl
    constructor
    · intro hwait
      simp [hword, State.finishWord, hr, hwait]
    · intro hwait hslots
      have hend : s.finishWord c.val t = s2.wordStop c.val r t.word := by
        simp [State.finishWord, hr, hwait, hdrains, hslots]
      obtain ⟨stop, hstop⟩ := s2.wordStop_eq c.val r t.word
      exact ⟨stop, by rw [hword, hend, hstop]⟩

end Sys2Proof.Machine

/-! ## Words of one slot (O9 to O11) -/

namespace Sys2Proof.Machine

open Sys2Proof

theorem onlySlot.executes_of_ne {w i j : ℕ} (h : onlySlot w i) (r : Core) (hj : j < 5) (hne : j ≠ i) :
    r.executes w j = false := by
  have : wValid w j = false := by simpa [hne] using h j hj
  simp [Core.executes, this]

/-- No two slots of which one at most executes name one destination. -/
theorem Core.conflict_eq_none {r : Core} {w i : ℕ} (h : ∀ j, j < 5 → j ≠ i → r.executes w j = false) :
    r.conflict w = none := by
  unfold Core.conflict
  refine List.findSome?_eq_none_iff.2 fun a ha => List.findSome?_eq_none_iff.2 fun b hb => ?_
  simp only [List.mem_filter, List.mem_range, decide_eq_true_eq] at ha hb
  obtain ⟨ha5, hax⟩ := ha
  obtain ⟨⟨hb5, hbx⟩, hab⟩ := hb
  have hai : a = i := by_contra fun hne => by simp [h a ha5 hne] at hax
  have hbi : b = i := by_contra fun hne => by simp [h b hb5 hne] at hbx
  omega

theorem State.slots_of_idle {r : Core} {w : ℕ} {l : List ℕ} (s : State) (c : ℕ) (hc : r.conflict w = none)
    (hl : ∀ j ∈ l, r.executes w j = false ∧ (wValid w j = true → slotIllegal r.matrix.ahead.stratus j (slotOf w j) = false)) :
    s.slots c r w l = .ok s := by
  induction l with
  | nil => rfl
  | cons j l ih =>
    obtain ⟨hx, hlegal⟩ := hl j (by simp)
    have hno : (wValid w j && slotIllegal r.matrix.ahead.stratus j (slotOf w j)) = false := by
      cases hv : wValid w j with
      | false => rfl
      | true => simp [hlegal hv]
    simp [State.slots, hno, hc, hx, ih fun j hj => hl j (by simp [hj])]

/-- The slots around the only one of a word have no effect. -/
theorem State.slots_of_onlySlot {r : Core} {w i : ℕ} {l : List ℕ} (s : State) (c : ℕ) (h : onlySlot w i)
    (hl : ∀ j ∈ l, j < 5) (hnodup : l.Nodup) :
    s.slots c r w l = if i ∈ l then s.slots c r w [i] else .ok s := by
  have hc : r.conflict w = none := Core.conflict_eq_none fun j hj hne => h.executes_of_ne r hj hne
  have hidle (j : ℕ) (hj : j < 5) (hne : j ≠ i) : r.executes w j = false ∧
      (wValid w j = true → slotIllegal r.matrix.ahead.stratus j (slotOf w j) = false) :=
    ⟨h.executes_of_ne r hj hne, fun hv => absurd ((h j hj).1 hv) hne⟩
  by_cases hi : i ∈ l
  · obtain ⟨a, b, rfl⟩ := List.append_of_mem hi
    have hni : i ∉ a ∧ i ∉ b := by
      simp only [List.nodup_append, List.nodup_cons, List.mem_cons] at hnodup
      exact ⟨fun ha => hnodup.2.2 i ha i (.inl rfl) rfl, hnodup.2.1.1⟩
    have ha : s.slots c r w a = .ok s := s.slots_of_idle c hc fun j hj =>
      hidle j (hl j (by simp [hj])) fun e => hni.1 (e ▸ hj)
    have hb (t : State) : t.slots c r w b = .ok t := t.slots_of_idle c hc fun j hj =>
      hidle j (hl j (by simp [hj])) fun e => hni.2 (e ▸ hj)
    rw [if_pos hi, State.slots_append, ha, show i :: b = [i] ++ b from rfl]
    change s.slots c r w ([i] ++ b) = _
    rw [State.slots_append]
    cases s.slots c r w [i] with
    | error f => rfl
    | ok t => exact hb t
  · rw [if_neg hi]
    exact s.slots_of_idle c hc fun j hj => hidle j (hl j hj) fun e => hi (e ▸ hj)

/-- An only slot that executes and is listed is the slot's own effect. -/
theorem State.slots_singleton {r : Core} {w i : ℕ} (s : State) (c : ℕ) (h : onlySlot w i) (hx : r.executes w i = true)
    (hlegal : slotIllegal r.matrix.ahead.stratus i (slotOf w i) = false) :
    s.slots c r w [i] = match s.slot c r w i with
      | .error f => .error (s.slotRecord c r w i f)
      | .ok t => .ok t := by
  have hc : r.conflict w = none := Core.conflict_eq_none fun j hj hne => h.executes_of_ne r hj hne
  simp [State.slots, hlegal, hc, hx] <;> rfl

theorem State.driftBusy_advancePc (s : State) (c : ℕ) (r : Core) (w : ℕ) :
    (s.advancePc c).driftBusy c r w = s.driftBusy c r w := by
  have hfind (k : ℕ) : (s.advancePc c).driftFind c k = s.driftFind c k := rfl
  have hhole (n : ℕ) : (s.advancePc c).driftHole c n = s.driftHole c n := rfl
  have hlatch : (s.advancePc c).driftLatch c = s.driftLatch c := rfl
  have hdrift : ((s.advancePc c).core c).drift = (s.core c).drift := by simp [State.advancePc]
  have hbusy (a : ℕ) : ((s.advancePc c).core c).blockBusy a = (s.core c).blockBusy a := by simp [State.advancePc, Core.blockBusy]
  simp [State.driftBusy, State.driftBlocks, hfind, hhole, hlatch, hdrift, hbusy]

/-- A DADD or a DDRAIN whose D slot does not wait meets no batch that earlier accesses have still to reach. -/
theorem State.driftBusy_of_dWaits {s : State} {c w : ℕ} {r : Core} (h : s.dWaits c r w = false) :
    s.driftBusy c r w = false := by
  by_cases h18 : dOp (slotOf w 3) = 0x18
  · simp only [State.dWaits, h18] at h
    simp_all
  · by_cases h1A : dOp (slotOf w 3) = 0x1A
    · simp only [State.dWaits, h1A] at h
      simp_all
    · simp [State.driftBusy, h18, h1A]

/-- Nothing holds back a slot of a word that has no other. -/
theorem State.tailWaits_of_onlySlot {s : State} {c w i : ℕ} {r : Core} (h : onlySlot w i)
    (hd : i = 3 → r.runs w 3 = true → s.driftBusy c r w = false) : s.tailWaits c r w = false := by
  have hruns (j : ℕ) (hj : j < 5) (hne : j ≠ i) : r.runs w j = false := by
    simp [Core.runs, h.executes_of_ne r hj hne]
  unfold State.tailWaits
  by_cases h3 : i = 3
  · subst h3
    rw [hruns 2 (by omega) (by omega)]
    cases hr : r.runs w 3 with
    | false => rfl
    | true => simp [hd rfl hr]
  · rw [hruns 3 (by omega) (Ne.symm h3)]
    by_cases h2 : i = 2
    · rw [hruns 4 (by omega) (by omega)]
      simp
    · rw [hruns 2 (by omega) (Ne.symm h2)]
      rfl

/-- A word whose only slot executes without a fault is that slot's effect, from the advanced PC, and the end of the
word. -/
theorem State.exec_of_soleSlot {s s1 t : State} {c : CoreId} {w i : ℕ} (h : s.canIssue c.val w s1)
    (hsole : (s1.core c.val).soleSlot w i) (hi : i < 5)
    (hlegal : slotIllegal (s1.core c.val).matrix.ahead.stratus i (slotOf w i) = false)
    (hsem : i = 4 → cOp (slotOf w 4) ≠ 0x19)
    (hslot : (s1.advancePc c.val).slot c.val (s1.core c.val) w i = .ok t) :
    exec (.wideWordIssue c) s = .next (t.updCore c.val fun k => { k with tail := none, stopRegs := [] }) := by
  obtain ⟨honly, hstop, hx⟩ := hsole
  have hone := (s1.advancePc c.val).slots_singleton c.val honly hx hlegal
  rw [hslot] at hone
  have hall : (s1.advancePc c.val).slots c.val (s1.core c.val) w [0, 1, 2, 3, 4] = .ok t := by
    rw [State.slots_of_onlySlot _ _ honly (by simp) (by simp), if_pos (by simp; omega), hone]
  have hpart := State.slots_of_onlySlot (r := s1.core c.val) (l := [0, 1, 2]) (s1.advancePc c.val) c.val honly
    (by simp) (by simp)
  obtain ⟨part, hp⟩ := State.slots_prefix_of_ok hall
  have htail : part.tailWaits c.val (s1.core c.val) w = false := by
    refine State.tailWaits_of_onlySlot honly fun h3 hr => ?_
    have hwaits : s1.dWaits c.val (s1.core c.val) w = false := by
      have hready := h.ready
      simp only [State.wordWaits, Bool.or_eq_false_iff] at hready
      obtain ⟨⟨-, hd⟩, -⟩ := hready
      simpa [hr] using hd
    rw [hp, if_neg (by simp [h3])] at hpart
    rw [Except.ok.inj hpart, State.driftBusy_advancePc, State.driftBusy_of_dWaits hwaits]
  have hsem' : (s.core c.val).runs w 4 = false ∨ cOp (slotOf w 4) ≠ 0x19 := by
    by_cases h4 : i = 4
    · exact .inr (hsem h4)
    · exact .inl (by simp [Core.runs, honly.executes_of_ne _ (show 4 < 5 by omega) (Ne.symm h4)])
  rw [exec_wideWordIssue, State.wideWord_of_canIssue h hsem', State.issueWord_of_slots h.unmarked hall hp, htail]
  simp [State.wordStop, hstop]

end Sys2Proof.Machine

/-! ## Words of one S or C operation (O9) -/

namespace Sys2Proof.Machine

open Sys2Proof

theorem State.slot_zero (s : State) (c : ℕ) (r : Core) (w : ℕ) : s.slot c r w 0 = s.sSlot c r w := rfl
theorem State.slot_one (s : State) (c : ℕ) (r : Core) (w : ℕ) : s.slot c r w 1 = s.vSlotStep c r w := rfl
theorem State.slot_two (s : State) (c : ℕ) (r : Core) (w : ℕ) : s.slot c r w 2 = s.mSlot c r w := rfl
theorem State.slot_three (s : State) (c : ℕ) (r : Core) (w : ℕ) : s.slot c r w 3 = s.dSlot c r w := rfl
theorem State.slot_four (s : State) (c : ℕ) (r : Core) (w : ℕ) : s.slot c r w 4 = s.cSlot c r w := rfl

/-- An S slot that is neither a compare nor an access writes the result of its arithmetic. -/
theorem State.sSlot_of_alu {s : State} {c w : ℕ} {r : Core} (hp : sPset (sOp (slotOf w 0)) = false)
    (hm : sMem (slotOf w 0) = false) :
    s.sSlot c r w = .ok (s.updCore c fun k => k.ws (sRd (slotOf w 0)) (r.aluResult (slotOf w 0))) := by
  simp [State.sSlot, hp, hm]

/-- The codes of the S slot's stores. -/
theorem sStore_of_bounds {b : ℕ} (hlo : 0x28 ≤ sOp b) (hhi : sOp b ≤ 0x2B) :
    sListed (sOp b) = true ∧ sPset (sOp b) = false ∧ sMem b = true := by
  refine ⟨?_, ?_, ?_⟩
  · simp [sListed, hlo, hhi]
  · simp only [sPset, Bool.or_eq_false_iff, Bool.and_eq_false_iff, decide_eq_false_iff_not]
    omega
  · simp only [sMem, Bool.and_eq_true, decide_eq_true_eq]
    omega

/-- An aligned store that may be made, to the scratchpad or the accumulator store, writes its bytes. -/
theorem State.sSlot_of_store {s : State} {c w off : ℕ} {r : Core} (hlo : 0x28 ≤ sOp (slotOf w 0))
    (hhi : sOp (slotOf w 0) ≤ 0x2B) (halign : (r.sAddr (slotOf w 0)).toNat % accessSize (sOp (slotOf w 0)) = 0)
    (hfault : s.addrFault c (r.sAddr (slotOf w 0)) (accessSize (sOp (slotOf w 0))) 2 = none)
    (hdirect : s.direct c (r.sAddr (slotOf w 0)) = some off) (hoff : off < 0x120000) :
    s.sSlot c r w = .ok { s with
      mem := memWrite s.mem (gLocal (r.sAddr (slotOf w 0)))
        (leBytes (accessSize (sOp (slotOf w 0))) (r.rs (sRb (slotOf w 0))).toNat) } := by
  obtain ⟨-, hp, hm⟩ := sStore_of_bounds hlo hhi
  have h1 : ¬ 0x130000 ≤ off := by omega
  have h2 : ¬ 0x120000 ≤ off := by omega
  simp [State.sSlot, hp, hm, halign, hlo, hfault, hdirect, h1, h2]

/-- A C slot that returns no time takes its code's row of 03 R109. -/
theorem State.cSlot_of_branch (s : State) (c : ℕ) (r : Core) (w : ℕ) :
    (cOp (slotOf w 4) = 0x01 → s.cSlot c r w =
      .ok (s.updCore c fun k => { k with pc := r.pc + sext64 16 (cImm (slotOf w 4)) * 32 })) ∧
    (cOp (slotOf w 4) = 0x02 → s.cSlot c r w =
      .ok (s.updCore c fun k => { k.ws 31 (r.pc + 32) with pc := r.pc + sext64 16 (cImm (slotOf w 4)) * 32 })) ∧
    (cOp (slotOf w 4) = 0x03 → (r.rs (cRa (slotOf w 4))).toNat % 32 = 0 → s.cSlot c r w =
      .ok (s.updCore c fun k => { k with pc := r.rs (cRa (slotOf w 4)) })) ∧
    (cOp (slotOf w 4) = 0x04 → s.cSlot c r w = .ok (s.updCore c fun k => { k with phase := .halting })) := by
  refine ⟨fun h => ?_, fun h => ?_, fun h ha => ?_, fun h => ?_⟩
  · simp [State.cSlot, State.unmarkedTime, h]
  · simp [State.cSlot, State.unmarkedTime, h]
  · simp [State.cSlot, State.unmarkedTime, h, ha]
  · simp [State.cSlot, State.unmarkedTime, h]

/-- A slot that changes its core alone does so between the advance of the PC and the end of the word. -/
theorem State.exec_of_coreSlot {s s1 : State} {c : CoreId} {w i : ℕ} {f : Core → Core} (h : s.canIssue c.val w s1)
    (hsole : (s1.core c.val).soleSlot w i) (hi : i < 5)
    (hlegal : slotIllegal (s1.core c.val).matrix.ahead.stratus i (slotOf w i) = false)
    (hsem : i = 4 → cOp (slotOf w 4) ≠ 0x19)
    (hslot : (s1.advancePc c.val).slot c.val (s1.core c.val) w i = .ok ((s1.advancePc c.val).updCore c.val f)) :
    exec (.wideWordIssue c) s = .next (s1.updCore c.val fun k =>
      { f { k with pc := k.pc + 32 } with tail := none, stopRegs := [] }) := by
  rw [State.exec_of_soleSlot h hsole hi hlegal hsem hslot, State.advancePc, State.updCore_updCore,
    State.updCore_updCore]

/-- The fields of a core that writing a scalar register keeps. -/
@[simp] theorem Core.ws_pc (k : Core) (i : ℕ) (v : Word) (pc : Word) :
    { ({ k with pc := pc } : Core).ws i v with pc := k.pc } = k.ws i v := by
  unfold Core.ws
  split
  · split
    · rfl
    · rfl
  · rfl

/-- Settles O9: each word's only slot is its row's effect, between the advance of the PC and the end of the word. -/
theorem scalarAndBranchWordsHaveTheirFrame : Obligations.ScalarAndBranchWordsHaveTheirFrame := by
  refine ⟨?_, ?_, ?_⟩
  · intro c s s1 w h hsole hl hm hp
    exact State.exec_of_coreSlot h hsole (by omega) (by simp [slotIllegal, sIllegal, hl, hp]) (by simp)
      (State.sSlot_of_alu hp hm)
  · intro c s s1 w off h hsole hlo hhi halign hfault hdirect hoff hwf
    obtain ⟨hl, hp, -⟩ := sStore_of_bounds hlo hhi
    have hslot := State.sSlot_of_store (s := s1.advancePc c.val) hlo hhi halign hfault hdirect hoff
    refine ⟨_, State.exec_of_soleSlot h hsole (by omega) (by simp [slotIllegal, sIllegal, hl, hp]) (by simp) hslot,
      ?_, ?_, ?_⟩
    · have := memRead_memWrite_self s1.mem (gLocal ((s1.core c.val).sAddr (slotOf w 0)))
        (leBytes (accessSize (sOp (slotOf w 0))) ((s1.core c.val).rs (sRb (slotOf w 0))).toNat) hwf
      rwa [length_leBytes] at this
    · exact fun x hx => memGet_memWrite_outside _ _ _ _ (by rwa [length_leBytes]) hwf
    · simp only [State.advancePc, State.updCore, State.setCore, State.core]
      simp
  · intro c s s1 w h hsole b rel
    obtain ⟨hjmp, hjal, hjr, hhalt⟩ := (s1.advancePc c.val).cSlot_of_branch c.val (s1.core c.val) w
    refine ⟨fun hop => ?_, fun hop => ?_, fun hop ha => ?_, fun hop => ?_⟩
    · exact State.exec_of_coreSlot h hsole (by omega) (by simp [slotIllegal, cIllegal, b, hop]) (by simp [b, hop]) (hjmp hop)
    · exact State.exec_of_coreSlot h hsole (by omega) (by simp [slotIllegal, cIllegal, b, hop]) (by simp [b, hop]) (hjal hop)
    · exact State.exec_of_coreSlot h hsole (by omega) (by simp [slotIllegal, cIllegal, b, hop]) (by simp [b, hop]) (hjr hop ha)
    · exact State.exec_of_coreSlot h hsole (by omega) (by simp [slotIllegal, cIllegal, b, hop]) (by simp [b, hop]) (hhalt hop)

end Sys2Proof.Machine

/-! ## What a memory access leaves alone

A read or a write of memory changes the memory, its errors, the caches and counters of the hubs, the Barometer's count of
corrections and the count of free values; `MemFrame s0 s` says that nothing else of `s` differs from `s0`. -/

section MemoryFrame

namespace Sys2Proof.Machine

open Sys2Proof

variable {s0 s : State}

/-- State `t` follows `s` by accesses to memory. -/
structure MemFrame (s t : State) : Prop where
  eq : t = { s with
    mem := t.mem, poison := t.poison, upsets := t.upsets, writebacks := t.writebacks, testRuns := t.testRuns
    openRows := t.openRows, rowErrors := t.rowErrors, hubs := t.hubs, baro := t.baro, free := t.free }

theorem MemFrame.refl (s : State) : MemFrame s s := ⟨rfl⟩

/-- An update of the fields that an access changes. -/
theorem MemFrame.set {m p u w r o e h b f} (hs : MemFrame s0 s) : MemFrame s0 { s with
    mem := m, poison := p, upsets := u, writebacks := w, testRuns := r, openRows := o, rowErrors := e, hubs := h
    baro := b, free := f } := ⟨by rw [hs.eq]⟩

theorem MemFrame.foldl {α : Type} (f : State → α → State) (l : List α)
    (hf : ∀ s a, MemFrame s0 s → MemFrame s0 (f s a)) (h : MemFrame s0 s) : MemFrame s0 (l.foldl f s) := by
  induction l generalizing s with
  | nil => exact h
  | cons a l ih => exact ih (hf s a h)

theorem MemFrame.foldlSnd {α β : Type} (f : β × State → α → β × State) (l : List α) (b : β × State)
    (hf : ∀ b a, MemFrame s0 b.2 → MemFrame s0 (f b a).2) (h : MemFrame s0 b.2) : MemFrame s0 (l.foldl f b).2 := by
  induction l generalizing b with
  | nil => exact h
  | cons a l ih => exact ih _ (hf b a h)

theorem MemFrame.sndOfEq {α : Type} {t : State} {p : α × State} {a : α} (e : p = (a, t)) (h : MemFrame s0 p.2) :
    MemFrame s0 t := by rw [e] at h; exact h

theorem MemFrame.trdOfEq {α β : Type} {t : State} {p : α × β × State} {a : α} {b : β} (e : p = (a, b, t))
    (h : MemFrame s0 p.2.2) : MemFrame s0 t := by rw [e] at h; exact h

/-- What reads the state apart from those fields reads the same. -/
theorem MemFrame.same {α : Type} (h : MemFrame s0 s) (f : State → α)
    (hf : ∀ s m p u w r o e h b n, f { s with
      mem := m, poison := p, upsets := u, writebacks := w, testRuns := r, openRows := o, rowErrors := e, hubs := h
      baro := b, free := n } = f s) : f s = f s0 := by
  rw [h.eq]
  exact hf ..

theorem MemFrame.core (h : MemFrame s0 s) (c : ℕ) : s.core c = s0.core c := h.same (·.core c) (by intros; rfl)

theorem MemFrame.partition (h : MemFrame s0 s) (p : ℕ) : s.partition p = s0.partition p :=
  h.same (·.partition p) (by intros; rfl)

theorem MemFrame.ite {c : Prop} [Decidable c] {t u : State} (ht : MemFrame s0 t) (hu : MemFrame s0 u) :
    MemFrame s0 (if c then t else u) := by
  split
  · exact ht
  · exact hu

theorem MemFrame.updHub {m : ℕ} {f : HubState → HubState} (h : MemFrame s0 s) : MemFrame s0 (s.updHub m f) := by
  unfold State.updHub
  exact h.set

theorem MemFrame.draw (h : MemFrame s0 s) : MemFrame s0 (s.draw).2 := by
  unfold State.draw
  exact h.set

theorem MemFrame.pick {α : Type} {l : List α} (h : MemFrame s0 s) : MemFrame s0 (s.pick l).2 := by
  unfold State.pick
  exact h.set

theorem MemFrame.drawBytes {n : ℕ} (h : MemFrame s0 s) : MemFrame s0 (s.drawBytes n).2 := by
  unfold State.drawBytes
  exact h.set

theorem MemFrame.noteCorrected {a : ℕ} {bs : Bytes} (h : MemFrame s0 s) : MemFrame s0 (s.noteCorrected a bs) := by
  unfold State.noteCorrected
  exact h.updHub.set

theorem MemFrame.poisonBlock {a : ℕ} (h : MemFrame s0 s) : MemFrame s0 (s.poisonBlock a) := by
  unfold State.poisonBlock
  exact h.set

theorem MemFrame.notePoisoned {detect : Bool} {a : ℕ} (h : MemFrame s0 s) : MemFrame s0 (s.notePoisoned detect a) := by
  unfold State.notePoisoned
  exact h.poisonBlock.updHub

theorem MemFrame.openRow {a : ℕ} (h : MemFrame s0 s) : MemFrame s0 (s.openRow a) := by
  unfold State.openRow
  exact h.set

theorem MemFrame.hbmBlock {region : ℕ} {r : Region} {a : ℕ} (h : MemFrame s0 s) : MemFrame s0 (s.hbmBlock region r a).2 := by
  unfold State.hbmBlock
  dsimp only
  split
  · exact h.openRow
  · split
    · exact h.openRow
    · exact h.openRow.noteCorrected
    · exact h.openRow.notePoisoned

theorem MemFrame.writeBackLine {l : LlmLine} (h : MemFrame s0 s) : MemFrame s0 (s.writeBackLine l) := by
  unfold State.writeBackLine
  exact MemFrame.foldl _ _ (fun s a h => by
      split
      · dsimp only
        split
        · split
          · exact ((h.openRow.set).poisonBlock).updHub
          · exact ((h.openRow.set).poisonBlock).updHub
        · split
          · exact h.openRow.set
          · exact h.openRow.set
      · exact h) h

theorem MemFrame.allocLine {m : ℕ} {l : LlmLine} (h : MemFrame s0 s) : MemFrame s0 (s.allocLine m l) := by
  unfold State.allocLine
  dsimp only
  split
  · exact h
  · split
    · exact h.updHub
    · split
      · exact h.writeBackLine.updHub
      · exact h

theorem MemFrame.fillRead {region : ℕ} {r : Region} {g : ℕ} (h : MemFrame s0 s) : MemFrame s0 (s.fillRead region r g).2 := by
  unfold State.fillRead
  exact MemFrame.foldlSnd _ _ _ (fun b a h => by
      split
      · exact h
      · split
        · next e1 =>
            exact MemFrame.sndOfEq e1 h.hbmBlock
        · next e1 =>
            exact MemFrame.sndOfEq e1 h.hbmBlock) h

theorem MemFrame.fill {region : ℕ} {r : Region} {g : ℕ} (h : MemFrame s0 s) : MemFrame s0 (s.fill region r g).2 := by
  unfold State.fill
  split
  · next e =>
      exact MemFrame.sndOfEq e h.fillRead
  · next e =>
      exact (MemFrame.sndOfEq e h.fillRead).allocLine

theorem MemFrame.spoilWord {bs : Bytes} {w : ℕ} (h : MemFrame s0 s) : MemFrame s0 (s.spoilWord bs w).2 := by
  unfold State.spoilWord
  exact h.set

theorem MemFrame.hubMiss {region : ℕ} {r : Region} {a : ℕ} (h : MemFrame s0 s) : MemFrame s0 (s.hubMiss region r a).2 := by
  unfold State.hubMiss
  dsimp only
  split
  · split
    · next e =>
        exact MemFrame.sndOfEq e h.updHub.fill
    · next e =>
        exact MemFrame.sndOfEq e h.updHub.fill
  · exact h.updHub.hbmBlock

theorem MemFrame.noteSram {m last : ℕ} (h : MemFrame s0 s) : MemFrame s0 (s.noteSram m last) := by
  unfold State.noteSram
  exact h.updHub.set

theorem MemFrame.hubHit {region : ℕ} {r : Region} {a : ℕ} {u : Upset} {l : LlmLine} (h : MemFrame s0 s) :
    MemFrame s0 (s.hubHit region r a u l).2 := by
  unfold State.hubHit
  dsimp only
  split
  · split
    · dsimp only
      exact h.updHub.spoilWord
    · dsimp only
      exact h.updHub
  · split
    · exact h.updHub.noteSram
    · split
      · dsimp only
        exact h.updHub.spoilWord.updHub
      · exact h.writeBackLine.updHub.hubMiss

theorem MemFrame.hubRead {region : ℕ} {r : Region} {a : ℕ} {u : Upset} (h : MemFrame s0 s) :
    MemFrame s0 (s.hubRead region r a u).2 := by
  unfold State.hubRead
  split
  · exact h.hubMiss
  · exact h.hubHit

theorem MemFrame.sramRead {m off : ℕ} {u : Upset} (h : MemFrame s0 s) : MemFrame s0 (s.sramRead m off u).2 := by
  unfold State.sramRead
  dsimp only
  split
  · exact h
  · split
    · exact h
    · split
      · exact h.noteSram
      · exact h.poisonBlock.updHub.set

theorem MemFrame.readBlock {job : BitVec 32} {a : ℕ} {u : Upset} (h : MemFrame s0 s) : MemFrame s0 (s.readBlock job a u).2 := by
  unfold State.readBlock
  split
  · split
    · next e1 =>
        exact MemFrame.sndOfEq e1 h.hubRead
    · next e1 =>
        exact MemFrame.sndOfEq e1 h.hubRead
  · exact h.sramRead
  · split
    · split
      · next e2 =>
          exact MemFrame.sndOfEq e2 h.hubRead
      · next e2 =>
          exact MemFrame.sndOfEq e2 h.hubRead
    · exact h
  · exact h

theorem MemFrame.readBlocks {job : BitVec 32} {a n : ℕ} (h : MemFrame s0 s) : MemFrame s0 (s.readBlocks job a n).2.2 := by
  induction n generalizing s a with
  | zero => exact h
  | succ n ih =>
    unfold State.readBlocks
    split
    · next e => exact MemFrame.sndOfEq e h.readBlock
    · next e => exact ih (MemFrame.sndOfEq e h.readBlock)

theorem MemFrame.readUpTo {job : BitVec 32} {a n : ℕ} (h : MemFrame s0 s) : MemFrame s0 (s.readUpTo job a n).2.2 := by
  unfold State.readUpTo
  split
  · exact h
  · dsimp only
    exact h.readBlocks

theorem MemFrame.readMem {job : BitVec 32} {a n : ℕ} (h : MemFrame s0 s) : MemFrame s0 (s.readMem job a n).2 := by
  unfold State.readMem
  split
  · next e =>
      exact MemFrame.trdOfEq e h.readUpTo
  · next e =>
      exact MemFrame.trdOfEq e h.readUpTo

theorem MemFrame.freshBlock {b : ℕ} (h : MemFrame s0 s) : MemFrame s0 (s.freshBlock b) := by
  unfold State.freshBlock
  exact h.set

theorem MemFrame.dirtyLine {a : ℕ} {whole : Bool} (h : MemFrame s0 s) : MemFrame s0 (s.dirtyLine a whole) := by
  unfold State.dirtyLine
  split
  · exact h.updHub
  · exact h.openRow

theorem MemFrame.cacheWrite {region : ℕ} {r : Region} {a : ℕ} (h : MemFrame s0 s) : MemFrame s0 (s.cacheWrite region r a).2 := by
  unfold State.cacheWrite
  dsimp only
  split
  · dsimp only
    exact h.updHub
  · split
    · split
      · next e1 =>
          exact (MemFrame.sndOfEq e1 h.updHub.fill).dirtyLine
      · next e1 =>
          exact (MemFrame.sndOfEq e1 h.updHub.fill).openRow
    · exact h.updHub.openRow

theorem MemFrame.putBlock {b : ℕ} {bs : Bytes} (h : MemFrame s0 s) : MemFrame s0 (s.putBlock b bs) := by
  unfold State.putBlock
  exact h.freshBlock.set

theorem MemFrame.mergeBlock {b : ℕ} {old bs : Bytes} (h : MemFrame s0 s) : MemFrame s0 (s.mergeBlock b old bs) := by
  unfold State.mergeBlock
  exact h.freshBlock.set

theorem MemFrame.writeHbm {i : ℕ} {r : Region} {b : ℕ} {bs : Bytes} {u : Upset} (h : MemFrame s0 s) :
    MemFrame s0 (s.writeHbm i r b bs u).2 := by
  unfold State.writeHbm
  split
  · exact h.putBlock.cacheWrite
  · split
    · split
      · next e1 =>
          exact MemFrame.sndOfEq e1 h.hubHit
      · next e1 =>
          exact ((MemFrame.sndOfEq e1 h.hubHit).mergeBlock).dirtyLine
    · split
      · next e1 =>
          exact MemFrame.sndOfEq e1 h.hbmBlock
      · next e1 =>
          exact ((MemFrame.sndOfEq e1 h.hbmBlock).mergeBlock).cacheWrite

theorem MemFrame.writeBlockMeeting {job : BitVec 32} {a : ℕ} {bs : Bytes} {u : Upset} (h : MemFrame s0 s) :
    MemFrame s0 (s.writeBlockMeeting job a bs u).2 := by
  unfold State.writeBlockMeeting
  split
  · split
    · next e1 =>
        exact MemFrame.sndOfEq e1 h.writeHbm
    · next e1 =>
        exact MemFrame.sndOfEq e1 h.writeHbm
  · split
    · exact h.putBlock
    · split
      · next e1 =>
          exact MemFrame.sndOfEq e1 h.sramRead
      · next e1 =>
          exact (MemFrame.sndOfEq e1 h.sramRead).putBlock
  · split
    · exact h
    · split
      · split
        · next e2 =>
            exact MemFrame.sndOfEq e2 h.writeHbm
        · next e2 =>
            exact MemFrame.sndOfEq e2 h.writeHbm
      · exact h.set
  · exact h

theorem MemFrame.writeBlock {job : BitVec 32} {a : ℕ} {bs : Bytes} (h : MemFrame s0 s) : MemFrame s0 (s.writeBlock job a bs).2 :=
    by
  unfold State.writeBlock
  exact h.writeBlockMeeting

theorem MemFrame.writeBlocks {job : BitVec 32} {a : ℕ} {bs : Bytes} {n : ℕ} (h : MemFrame s0 s) :
    MemFrame s0 (s.writeBlocks job a bs n).2 := by
  induction n generalizing s a bs with
  | zero => exact h
  | succ n ih =>
    unfold State.writeBlocks
    dsimp only
    split
    · exact h
    · split
      · next e => exact MemFrame.sndOfEq e h.writeBlock
      · next e => exact ih (MemFrame.sndOfEq e h.writeBlock)

theorem MemFrame.writeMem {job : BitVec 32} {a : ℕ} {bs : Bytes} (h : MemFrame s0 s) : MemFrame s0 (s.writeMem job a bs).2 := by
  unfold State.writeMem
  exact h.writeBlocks

theorem MemFrame.pokeBlocks {job : BitVec 32} {a : ℕ} {bs : Bytes} {n : ℕ} (h : MemFrame s0 s) :
    MemFrame s0 (s.pokeBlocks job a bs n) := by
  induction n generalizing s a bs with
  | zero => exact h
  | succ n ih =>
    unfold State.pokeBlocks
    dsimp only
    split
    · exact h
    · exact ih h.writeBlock

theorem MemFrame.poke {p a : ℕ} {bs : Bytes} (h : MemFrame s0 s) : MemFrame s0 (s.poke p a bs) := by
  unfold State.poke
  exact h.pokeBlocks

theorem MemFrame.peek {p a n : ℕ} (h : MemFrame s0 s) : MemFrame s0 (s.peek p a n).2 := by
  unfold State.peek
  exact h.readMem

theorem MemFrame.upsetStack {addr : ℕ} {u : Upset} (h : MemFrame s0 s) : MemFrame s0 (s.upsetStack addr u) := by
  unfold State.upsetStack
  exact (h.ite (h.set)).ite (((h.ite (h.set)).updHub).set)

theorem MemFrame.upset {addr : ℕ} {u : Upset} (h : MemFrame s0 s) : MemFrame s0 (s.upset addr u) := by
  unfold State.upset
  exact h.upsetStack

theorem MemFrame.cacheFill {l : List CacheLine} {sets : ℕ} {x : CacheLine} (h : MemFrame s0 s) :
    MemFrame s0 (s.cacheFill l sets x).2 := by
  unfold State.cacheFill
  dsimp only
  split
  · exact h
  · split
    · next e =>
        exact MemFrame.sndOfEq e h.pick
    · next e =>
        exact MemFrame.sndOfEq e h.pick

end Sys2Proof.Machine

end MemoryFrame

/-! ## V and D slots, predicates and special registers (O10) -/

namespace Sys2Proof.Machine

open Sys2Proof

/-- A fetch leaves the core as it was, but for its instruction cache. -/
theorem State.fetchWord_core {s s1 : State} {c w : ℕ} (h : s.fetchWord c = (.ok w, s1)) :
    ∃ l, s1.core c = { s.core c with icache := l } := by
  unfold State.fetchWord at h
  dsimp only at h
  split at h
  · cases h
  · split at h
    · cases h
      exact ⟨_, rfl⟩
    · split at h
      · cases h
      · next bs t e =>
        cases h
        have ht : MemFrame s t := MemFrame.sndOfEq e (MemFrame.refl s).readBlock
        exact ⟨_, (State.updCore_core_self _ _ _).trans (by rw [ht.cacheFill.core])⟩

theorem State.canIssue.core {s s1 : State} {c w : ℕ} (h : s.canIssue c w s1) :
    ∃ l, s1.core c = { s.core c with icache := l } := by
  obtain ⟨-, -, -, -, hfetch, -, -⟩ := h
  exact State.fetchWord_core hfetch

theorem State.canIssue.executes {s s1 : State} {c w : ℕ} (h : s.canIssue c w s1) (i : ℕ) :
    (s1.core c).executes w i = (s.core c).executes w i := by
  obtain ⟨l, hl⟩ := h.core
  rw [hl]
  rfl

theorem State.canIssue.noTail {s s1 : State} {c w : ℕ} (h : s.canIssue c w s1) : (s1.core c).tail = none := by
  obtain ⟨l, hl⟩ := h.core
  obtain ⟨-, -, -, htail, -, -, -⟩ := h
  rw [hl]
  exact htail

theorem State.advancePc_core (s : State) (c : ℕ) :
    (s.advancePc c).core c = { s.core c with pc := (s.core c).pc + 32 } := State.updCore_core_self _ _ _

/-- A word of which no slot executes only advances the PC. -/
theorem State.exec_of_idleWord {s s1 : State} {c : CoreId} {w : ℕ} (h : s.canIssue c.val w s1)
    (hidle : ∀ i, i < 5 → (s1.core c.val).executes w i = false ∧
      (wValid w i = true → slotIllegal (s1.core c.val).matrix.ahead.stratus i (slotOf w i) = false)) :
    exec (.wideWordIssue c) s = .next (s1.updCore c.val fun k => { k with pc := k.pc + 32, tail := none, stopRegs := [] }) := by
  have hx (i : ℕ) (hi : i < 5) : (s1.core c.val).executes w i = false := (hidle i hi).1
  have hc : (s1.core c.val).conflict w = none := Core.conflict_eq_none (i := 5) fun j hj _ => hx j hj
  have hslots (l : List ℕ) (hl : ∀ j ∈ l, j < 5) :
      (s1.advancePc c.val).slots c.val (s1.core c.val) w l = .ok (s1.advancePc c.val) :=
    State.slots_of_idle _ _ hc fun j hj => hidle j (hl j hj)
  have hsem : (s.core c.val).runs w 4 = false ∨ cOp (slotOf w 4) ≠ 0x19 :=
    .inl (by simp [Core.runs, ← h.executes 4, hx 4])
  have htail : (s1.advancePc c.val).tailWaits c.val (s1.core c.val) w = false := by
    simp [State.tailWaits, Core.runs, hx 2, hx 3]
  rw [exec_wideWordIssue, State.wideWord_of_canIssue h hsem,
    State.issueWord_of_slots h.unmarked (hslots _ (by simp)) (hslots _ (by simp)), htail]
  have hnone : (List.range 5).filter (fun i => (s1.core c.val).executes w i) = [] :=
    List.filter_eq_nil_iff.2 fun i hi => by simp [hx i (List.mem_range.1 hi)]
  simp [State.wordStop, State.advancePc, State.updCore_updCore, hnone]

/-- A word whose only slot faults raises the slot's record. -/
theorem State.exec_of_soleSlot_fault {s s1 : State} {c : CoreId} {w i : ℕ} {f : SFault} (h : s.canIssue c.val w s1)
    (hsole : (s1.core c.val).soleSlot w i) (hi : i < 5)
    (hlegal : slotIllegal (s1.core c.val).matrix.ahead.stratus i (slotOf w i) = false)
    (hsem : i = 4 → cOp (slotOf w 4) ≠ 0x19)
    (hslot : (s1.advancePc c.val).slot c.val (s1.core c.val) w i = .error f) :
    exec (.wideWordIssue c) s =
      .next (s1.issueFault c.val ((s1.advancePc c.val).slotRecord c.val (s1.core c.val) w i f)) := by
  obtain ⟨honly, hstop, hx⟩ := hsole
  have hone := (s1.advancePc c.val).slots_singleton c.val honly hx hlegal
  rw [hslot] at hone
  have hall : (s1.advancePc c.val).slots c.val (s1.core c.val) w [0, 1, 2, 3, 4] =
      .error ((s1.advancePc c.val).slotRecord c.val (s1.core c.val) w i f) := by
    rw [State.slots_of_onlySlot _ _ honly (by simp) (by simp), if_pos (by simp; omega), hone]
  have hsem' : (s.core c.val).runs w 4 = false ∨ cOp (slotOf w 4) ≠ 0x19 := by
    by_cases h4 : i = 4
    · exact .inr (hsem h4)
    · exact .inl (by simp [Core.runs, honly.executes_of_ne _ (show 4 < 5 by omega) (Ne.symm h4)])
  rw [exec_wideWordIssue, State.wideWord_of_canIssue h hsem', State.issueWord_of_fault h.unmarked hall]

theorem State.issueFault_of_owner {s : State} {c p : ℕ} (r : FaultRec) (h : (s.landStores c).coreOwner c = some p) :
    s.issueFault c r = (s.landStores c).raise p r := by
  simp [State.issueFault, State.raiseCore, h]

/-! ### The S slot's compares -/

theorem State.sSlot_of_compare {s : State} {c w : ℕ} {r : Core} (hp : sPset (sOp (slotOf w 0)) = true) :
    s.sSlot c r w = .ok (s.updCore c fun k => k.wp (sRd (slotOf w 0) % 8) (cmpOp (sOp (slotOf w 0)) (r.rs (sRa (slotOf w 0)))
      (if sOp (slotOf w 0) < 0x38 then r.rs (sRb (slotOf w 0)) else sImm (slotOf w 0)))) := by
  simp [State.sSlot, hp]

theorem sListed_of_sPset {op : ℕ} (h : sPset op = true) : sListed op = true := by
  simp only [sPset, Bool.or_eq_true, Bool.and_eq_true, decide_eq_true_eq] at h
  simp only [sListed, Bool.or_eq_true, Bool.and_eq_true, decide_eq_true_eq]
  omega

/-! ### The V slot -/

/-- A V-slot operation changes the core as its table row says. -/
theorem State.exec_of_vSlot {s s1 : State} {c : CoreId} {w : ℕ} {k : Core} (h : s.canIssue c.val w s1)
    (hsole : (s1.core c.val).soleSlot w 1) (hlegal : vIllegal (slotOf w 1) = false)
    (hk : vSlot (s1.core c.val) { s1.core c.val with pc := (s1.core c.val).pc + 32 } (slotOf w 1) = some k) :
    exec (.wideWordIssue c) s = .next (s1.updCore c.val fun _ => { k with tail := none, stopRegs := [] }) := by
  have hslot : (s1.advancePc c.val).slot c.val (s1.core c.val) w 1 = .ok ((s1.advancePc c.val).setCore c.val k) := by
    rw [State.slot_one, State.vSlotStep, State.advancePc_core, hk]
  rw [State.exec_of_soleSlot h hsole (by omega) hlegal (by simp) hslot]
  simp [State.advancePc, State.updCore, State.setCore, State.core]

/-- The lane operations of 03 R98. -/
theorem vSlot_of_lanes {r k : Core} {b : ℕ} (h : vOp b ≤ 0x08) :
    let x := mapLanes (vTy b) (r.rvm (vVm b)) (r.rv (vVd b)) fun i =>
      laneOp (vTy b) (vOp b) (lane (vTy b) (r.rv (vVa b)) i) (lane (vTy b) (r.rv (vVb b)) i) (lane (vTy b) (r.rv (vVc b)) i)
    vSlot r k b = some { k.wv (vVd b) x.1 with fpflags := (k.wv (vVd b) x.1).fpflags ||| x.2 } := by
  simp [vSlot, h]

theorem fld_lt (v hi lo : ℕ) : fld v hi lo < 2 ^ (hi + 1 - lo) := by
  rw [fld_eq]
  exact Nat.mod_lt _ (Nat.two_pow_pos _)

theorem vVd_lt (b : ℕ) : vVd b < 32 := fld_lt b 55 51

theorem Core.wv_of_lt {k : Core} {i : ℕ} (h : i < 32) (v : Vec) : k.wv i v = { k with v := k.v.set i v h } := by
  simp [Core.wv, h]

theorem Core.rv_wv_self {k : Core} {i : ℕ} (h : i < 32) (v : Vec) : (k.wv i v).rv i = v := by
  simp [Core.wv_of_lt h, Core.rv, h]

theorem Core.rv_wv_ne {k : Core} {i j : ℕ} (h : i < 32) (hne : j ≠ i) (v : Vec) : (k.wv i v).rv j = k.rv j := by
  simp [Core.wv_of_lt h, Core.rv, List.getD_eq_getElem?_getD, Vector.getElem?_set_ne h (Ne.symm hne)]

/-- The lane operations write the lanes that the mask selects and join the sticky flags; the rest of the core stays. -/
theorem State.exec_of_lanes {s s1 : State} {c : CoreId} {w : ℕ} (h : s.canIssue c.val w s1)
    (hsole : (s1.core c.val).soleSlot w 1) (hlegal : vIllegal (slotOf w 1) = false) (hop : vOp (slotOf w 1) ≤ 0x08) :
    let b := slotOf w 1
    let r := s1.core c.val
    ∃ t, exec (.wideWordIssue c) s = .next t ∧ t.mem = s1.mem ∧ (∀ j, j ≠ c.val → t.core j = s1.core j) ∧
      let x := mapLanes (vTy b) (r.rvm (vVm b)) (r.rv (vVd b)) fun i =>
        laneOp (vTy b) (vOp b) (lane (vTy b) (r.rv (vVa b)) i) (lane (vTy b) (r.rv (vVb b)) i) (lane (vTy b) (r.rv (vVc b)) i)
      (t.core c.val).rv (vVd b) = x.1 ∧ (t.core c.val).fpflags = r.fpflags ||| x.2 ∧ (t.core c.val).pc = r.pc + 32 ∧
      (∀ i, (t.core c.val).rs i = r.rs i) ∧ (∀ i, i < 32 → i ≠ vVd b → (t.core c.val).rv i = r.rv i) := by
  intro b r
  have hk := vSlot_of_lanes (r := r) (k := { r with pc := r.pc + 32 }) (b := b) hop
  have hexec := State.exec_of_vSlot h hsole hlegal hk
  refine ⟨_, hexec, rfl, fun j hj => State.updCore_core_ne _ _ _ _ hj, ?_⟩
  rw [State.updCore_core_self]
  have hd := vVd_lt b
  refine ⟨Core.rv_wv_self hd _, ?_, ?_, fun i => ?_, fun i _ hi => Core.rv_wv_ne hd hi _⟩
  · rw [Core.wv_of_lt hd]
  · rw [Core.wv_of_lt hd]
  · rw [Core.wv_of_lt hd]
    rfl

/-! ### The D slot -/

theorem State.advancePc_nextAccess (s : State) (c : ℕ) : ((s.advancePc c).core c).nextAccess = (s.core c).nextAccess := by
  rw [State.advancePc_core]
  rfl

/-- A VLD or a VST whose address is aligned and lies in the scratchpad moves its 128 bytes. -/
theorem State.dSlot_of_vector {s : State} {c w : ℕ} {r : Core} (halign : (r.vAddr (slotOf w 3)).toNat % 128 = 0)
    (hin : (r.vAddr (slotOf w 3)).toNat < 0x100000) :
    (dOp (slotOf w 3) = 0x01 → s.dSlot c r w = .ok (s.updCore c fun k => k.wv (dRc (slotOf w 3))
      (BitVec.ofNat 1024 (leNat (memRead s.mem (spBase c + (r.vAddr (slotOf w 3)).toNat) 128))))) ∧
    (dOp (slotOf w 3) = 0x02 → s.dSlot c r w = .ok { s with
      mem := memWrite s.mem (spBase c + (r.vAddr (slotOf w 3)).toNat) (leBytes 128 (r.rv (dRc (slotOf w 3))).toNat) }) := by
  have hin' : ¬ 0x100000 ≤ (r.vAddr (slotOf w 3)).toNat := by omega
  constructor
  · intro hop
    simp [State.dSlot, State.unmarkedFloat, Core.dmaOf, hop, halign, hin']
  · intro hop
    simp [State.dSlot, State.unmarkedFloat, Core.dmaOf, hop, halign, hin']

/-- A DADD or a DDRAIN that its unit takes is the unit's. -/
theorem State.dSlot_of_drift {s t : State} {c w : ℕ} {r : Core} :
    (dOp (slotOf w 3) = 0x18 →
      s.dadd c (r.rs (dRa (slotOf w 3))).toNat ((r.rs (dRb (slotOf w 3))).toNat % 2 ^ 32) = (.ok (), t) →
      s.dSlot c r w = .ok t) ∧
    (∀ n, dOp (slotOf w 3) = 0x1A →
      s.ddrain c (r.rs (dRc (slotOf w 3))).toNat (r.rs (dRb (slotOf w 3))).toNat = (.ok n, t) →
      s.dSlot c r w = .ok (t.updCore c fun k => k.ws (dRc (slotOf w 3)) (BitVec.ofNat 64 n))) := by
  constructor
  · intro hop ht
    have hd : s.dadd c (r.dmaOf w).ga.toNat ((r.dmaOf w).so.toNat % 2 ^ 32) = (.ok (), t) := ht
    have hf : s.unmarkedFloat c w { r.dmaOf w with seq := (s.core c).nextAccess } = false := by
      simp [State.unmarkedFloat, Core.dmaOf, hop]
    simp only [State.dSlot, hop, hf, hd]
    rfl
  · intro n hop ht
    have hd : s.ddrain c (r.dmaOf w).len.toNat (r.dmaOf w).so.toNat = (.ok n, t) := ht
    have hf : s.unmarkedFloat c w { r.dmaOf w with seq := (s.core c).nextAccess } = false := by
      simp [State.unmarkedFloat, Core.dmaOf, hop]
    simp only [State.dSlot, hop, hf, hd]
    rfl

/-- A transfer that passes its checks starts, but for one of length 0 that is neither a DATOM nor a DPOST. -/
theorem State.dSlot_of_transfer {s : State} {c w : ℕ} {r : Core} (hlo : 8 ≤ dOp (slotOf w 3)) (hhi : dOp (slotOf w 3) ≤ 0x10)
    (hf : s.unmarkedFloat c w { r.dmaOf w with seq := (s.core c).nextAccess } = false)
    (hd : s.dmaFault c { r.dmaOf w with seq := (s.core c).nextAccess } = none) :
    s.dSlot c r w = if (r.dmaOf w).len = 0 ∧ dOp (slotOf w 3) ≠ 0x0D ∧ dOp (slotOf w 3) ≠ 0x10 then .ok s
      else .ok (s.dmaStart c { r.dmaOf w with seq := (s.core c).nextAccess }) := by
  unfold State.dSlot
  simp only [hf]
  split
  · contradiction
  · split
    · omega
    · omega
    · omega
    · omega
    · rw [hd]

/-! ### The C slot -/

/-- A read of a special register, of a time only in a partition that is not Calm. -/
theorem State.cSlot_of_rsr {s : State} {c w : ℕ} {r : Core} (hop : cOp (slotOf w 4) = 0x28)
    (ht : cImm (slotOf w 4) % 4096 = 4 → (s.partition (s.corePart c)).calm = false) :
    s.cSlot c r w =
      .ok (s.updCore c fun k => k.ws (cRa (slotOf w 4)) (s.specialReg c r (cImm (slotOf w 4) % 4096))) := by
  have hm : s.unmarkedTime c w (slotOf w 4) = false := by
    by_cases h4 : cImm (slotOf w 4) % 4096 = 4
    · simp [State.unmarkedTime, ht h4]
    · simp [State.unmarkedTime, hop, h4]
  simp [State.cSlot, hop, hm]

/-- A write of CORE_STATUS or CORE_FPFLAGS clears the bits that it writes as one. -/
theorem State.cSlot_of_wsr {s : State} {c w : ℕ} {r : Core} (hop : cOp (slotOf w 4) = 0x29) :
    (cImm (slotOf w 4) % 4096 = 2 → s.cSlot c r w = .ok (s.updCore c fun k =>
      { k with status := k.status &&& ~~~((r.rs (cRa (slotOf w 4))).setWidth 2) })) ∧
    (cImm (slotOf w 4) % 4096 = 3 → s.cSlot c r w = .ok (s.updCore c fun k =>
      { k with fpflags := k.fpflags &&& ~~~((r.rs (cRa (slotOf w 4))).setWidth 5) })) := by
  constructor
  · intro hn
    simp [State.cSlot, State.unmarkedTime, hop, hn]
  · intro hn
    simp [State.cSlot, State.unmarkedTime, hop, hn]

theorem State.cSlot_of_sread {s : State} {c w : ℕ} {r : Core} (hop : cOp (slotOf w 4) = 0x10) (htail : r.tail = none)
    (hcalm : (s.partition (s.corePart c)).calm = false) :
    s.cSlot c r w =
      .ok (s.updCore c fun k => k.ws (cRa (slotOf w 4)) (BitVec.ofNat 64 (s.copyAt (coreIsland c)))) := by
  simp [State.cSlot, State.unmarkedTime, hop, htail, hcalm]

theorem State.advancePc_corePart (s : State) (c : ℕ) : (s.advancePc c).corePart c = s.corePart c := by
  have hhome : (s.advancePc c).homeOf (blockOf c) = s.homeOf (blockOf c) := rfl
  simp [State.corePart, State.coreOwner, State.advancePc_core, hhome]

/-- What a special register's value does not depend on: the advance of the PC. -/
theorem State.specialReg_advancePc (s : State) (c n : ℕ) (r : Core) :
    (s.advancePc c).specialReg c r n = s.specialReg c r n := by
  have hpart : (s.advancePc c).partition = s.partition := rfl
  have hself : (s.advancePc c).self = s.self := rfl
  simp only [State.specialReg, State.advancePc_corePart, hpart, hself]

theorem State.specialReg_six (s : State) (c : ℕ) (r : Core) :
    s.specialReg c r 6 = BitVec.ofNat 64 (r.size.toNat * 2 ^ 16 + r.rank.toNat) := rfl

theorem State.specialReg_seven (s : State) (c : ℕ) (r : Core) :
    s.specialReg c r 7 = BitVec.ofNat 64 (!r.keys.isEmpty).toNat := rfl

/-- A C slot that changes its core alone, in a word of no other slot. -/
theorem State.exec_of_cSlot {s s1 : State} {c : CoreId} {w : ℕ} {f : Core → Core} (h : s.canIssue c.val w s1)
    (hsole : (s1.core c.val).soleSlot w 4) (hlegal : cIllegal (slotOf w 4) = false) (hsem : cOp (slotOf w 4) ≠ 0x19)
    (hslot : (s1.advancePc c.val).cSlot c.val (s1.core c.val) w = .ok ((s1.advancePc c.val).updCore c.val f)) :
    exec (.wideWordIssue c) s = .next (s1.updCore c.val fun k =>
      { f { k with pc := k.pc + 32 } with tail := none, stopRegs := [] }) :=
  State.exec_of_coreSlot h hsole (by omega) hlegal (fun _ => hsem) hslot

/-- The word's only slot reads a special register. -/
theorem State.exec_of_rsr {s s1 : State} {c : CoreId} {w n : ℕ} (h : s.canIssue c.val w s1)
    (hsole : (s1.core c.val).soleSlot w 4) (hop : cOp (slotOf w 4) = 0x28) (hn : cImm (slotOf w 4) % 4096 = n)
    (hle : n ≤ 7) (ht : n = 4 → (s1.partition (s1.corePart c.val)).calm = false) :
    exec (.wideWordIssue c) s = .next (s1.updCore c.val fun k =>
      { (({ k with pc := k.pc + 32 } : Core).ws (cRa (slotOf w 4)) (s1.specialReg c.val (s1.core c.val) n)) with
        tail := none, stopRegs := [] }) := by
  refine State.exec_of_cSlot (f := fun k => k.ws (cRa (slotOf w 4)) (s1.specialReg c.val (s1.core c.val) n)) h hsole
    (by simp [cIllegal, hop, srListed, hn, hle]) (by simp [hop]) ?_
  rw [State.cSlot_of_rsr hop fun h4 => ?_, hn, State.specialReg_advancePc]
  rw [State.advancePc_corePart]
  exact ht (hn.symm.trans h4)

/-- Settles O10: each word's only slot is its row's effect, between the advance of the PC and the end of the word. -/
theorem vectorDataAndControlSlotsTakeEffect : Obligations.VectorDataAndControlSlotsTakeEffect := by
  refine ⟨?_, ?_, ?_, ?_⟩
  · intro c s s1 w h
    refine ⟨State.exec_of_idleWord h, ?_⟩
    intro b hsole hp hrd
    exact State.exec_of_coreSlot h hsole (by omega)
      (by simp only [slotIllegal, sIllegal]; simp [b, sListed_of_sPset hp, hp, hrd]) (by simp) (State.sSlot_of_compare hp)
  · intro c s s1 w h hsole b r hlegal
    refine ⟨fun k hk => State.exec_of_vSlot h hsole hlegal hk, fun _ hop => State.exec_of_lanes h hsole hlegal hop, ?_⟩
    intro p hnone hp
    have hslot : (s1.advancePc c.val).slot c.val r w 1 = .error (.core 0x0106 (some r.pc)) := by
      rw [State.slot_one, State.vSlotStep, State.advancePc_core, hnone]
    rw [State.exec_of_soleSlot_fault h hsole (by omega) hlegal (by simp) hslot, State.issueFault_of_owner _ hp]
    rfl
  · intro c s s1 w h hsole b r s' d ends
    have hs : s' = s1.advancePc c.val := rfl
    have hdma : { r.dmaOf w with seq := ((s1.advancePc c.val).core c.val).nextAccess } = d := by
      rw [State.advancePc_nextAccess]
    have hlegal (hop : dIllegal b = false) {t : State} (ht : s'.dSlot c.val r w = .ok t) :
        exec (.wideWordIssue c) s = .next (ends t) := State.exec_of_soleSlot h hsole (by omega) hop (by simp) ht
    refine ⟨fun hop halign hin => ?_, fun hop halign hin => ?_, fun t hop ht => ?_, fun t n hop ht => ?_,
      fun hlo hhi hop hf hd => ⟨fun h0 h0D h10 => ?_, fun hne => ?_⟩⟩
    · exact hlegal (by simp [dIllegal, hop]) ((State.dSlot_of_vector halign hin).1 hop)
    · exact hlegal (by simp [dIllegal, hop]) ((State.dSlot_of_vector halign hin).2 hop)
    · exact hlegal (by simp [dIllegal, hop]) (State.dSlot_of_drift.1 hop ht)
    · exact hlegal (by simp [dIllegal, hop]) (State.dSlot_of_drift.2 n hop ht)
    · refine hlegal hop ?_
      rw [State.dSlot_of_transfer hlo hhi (by rw [hs] at hf ⊢; rw [hdma]; exact hf) (by rw [hs] at hd ⊢; rw [hdma]; exact hd),
        if_pos ⟨h0, h0D, h10⟩]
    · refine hlegal hop ?_
      rw [State.dSlot_of_transfer hlo hhi (by rw [hs] at hf ⊢; rw [hdma]; exact hf) (by rw [hs] at hd ⊢; rw [hdma]; exact hd),
        if_neg (by rintro ⟨h0, h0D, h10⟩; rcases hne with h | h | h <;> contradiction)]
      rw [hs, hdma]
  · intro c s s1 w h hsole b x writes
    have hr (n : ℕ) (hop : cOp b = 0x28) (hn : cImm b % 4096 = n) (hle : n ≤ 7)
        (ht : n = 4 → x.calm = false) := State.exec_of_rsr h hsole hop hn hle ht
    refine ⟨fun hop => ⟨fun hn => ?_, fun hn => ?_, fun hn => ?_, fun hn => ?_, fun hn hc => ?_, fun hn => ?_, fun hn => ?_,
      fun hn => ?_⟩, fun hop => ⟨fun hn => ?_, fun hn => ?_⟩, fun hop hc => ?_⟩
    · exact hr 0 hop hn (by omega) (by omega)
    · exact hr 1 hop hn (by omega) (by omega)
    · exact hr 2 hop hn (by omega) (by omega)
    · exact hr 3 hop hn (by omega) (by omega)
    · exact hr 4 hop hn (by omega) fun _ => hc
    · exact hr 5 hop hn (by omega) (by omega)
    · have h6 := hr 6 hop hn (by omega) (by omega)
      rw [State.specialReg_six] at h6
      simp only [writes, State.updCore] at h6 ⊢
      exact h6
    · have h7 := hr 7 hop hn (by omega) (by omega)
      rw [State.specialReg_seven] at h7
      exact h7
    · exact State.exec_of_cSlot h hsole (by simp [cIllegal, b, hop, hn]) (by simp [b, hop])
        ((State.cSlot_of_wsr hop).1 hn)
    · exact State.exec_of_cSlot h hsole (by simp [cIllegal, b, hop, hn]) (by simp [b, hop])
        ((State.cSlot_of_wsr hop).2 hn)
    · exact State.exec_of_cSlot h hsole (by simp [cIllegal, b, hop]) (by simp [b, hop])
        (State.cSlot_of_sread hop h.noTail (by rw [State.advancePc_corePart]; exact hc))

end Sys2Proof.Machine

/-! ## Unlisted codes and the matrix lanes (O11) -/

namespace Sys2Proof.Machine

open Sys2Proof

/-- An unlisted code in the only slot of a word is the word's fault. -/
theorem State.slots_of_illegal {s : State} {c w i : ℕ} {r : Core} {l : List ℕ} (h : onlySlot w i) (hi : i < 5)
    (hill : slotIllegal r.matrix.ahead.stratus i (slotOf w i) = true) (hl : ∀ j ∈ l, j < 5) (hnodup : l.Nodup)
    (hmem : i ∈ l) : s.slots c r w l = .error (s.coreRecord c 0x0101 (some r.pc) r.pc i (slotOf w i)) := by
  rw [State.slots_of_onlySlot s c h hl hnodup, if_pos hmem]
  have hv : wValid w i = true := (h i hi).2 rfl
  simp [State.slots, hv, hill]

/-- A word whose only slot is not listed raises ILLEGAL_WORD. -/
theorem State.exec_of_illegal {s s1 : State} {c : CoreId} {w i p : ℕ} (hi : i < 5) (h : s.canIssue c.val w s1)
    (honly : onlySlot w i) (hill : slotIllegal (s1.core c.val).matrix.ahead.stratus i (slotOf w i) = true)
    (hp : (s1.landStores c.val).coreOwner c.val = some p) :
    exec (.wideWordIssue c) s = .next ((s1.landStores c.val).raise p
      ((s1.advancePc c.val).coreRecord c.val 0x0101 (some (s1.core c.val).pc) (s1.core c.val).pc i (slotOf w i))) := by
  have hsem : (s.core c.val).runs w 4 = false ∨ cOp (slotOf w 4) ≠ 0x19 := by
    by_cases h4 : i = 4
    · subst h4
      refine .inr fun hop => ?_
      simp [slotIllegal, cIllegal, hop] at hill
    · exact .inl (by simp [Core.runs, honly.executes_of_ne _ (show 4 < 5 by omega) (Ne.symm h4)])
  rw [exec_wideWordIssue, State.wideWord_of_canIssue h hsem, State.issueWord_of_fault h.unmarked
    (State.slots_of_illegal honly hi hill (by simp) (by simp) (by simp; omega)), State.issueFault_of_owner _ hp]

theorem exec_matrixOpStart (c : CoreId) (l : Lane) (s : State) : exec (.matrixOpStart c l) s = .next (s.laneStart c.val l) := rfl
theorem exec_matrixOpDone (c : CoreId) (l : Lane) (s : State) : exec (.matrixOpDone c l) s = .next (s.laneDone c.val l) := rfl

/-- Swapping the banks leaves the lanes alone. -/
theorem Matrix.swap_compQ (m : Matrix) (o : MatOp) : (m.swap o).compQ = m.compQ := by
  unfold Matrix.swap
  generalize o.engines = l
  induction l generalizing m with
  | nil => rfl
  | cons e l ih => exact ih _

theorem Matrix.compQ_ite_swap (m : Matrix) (o : MatOp) (c : Prop) [Decidable c] :
    (if c then m.swap o else m).compQ = m.compQ := by
  split
  · exact m.swap_compQ o
  · rfl

theorem State.withFree_core (s : State) (n c : ℕ) : ({ s with free := n } : State).core c = s.core c := rfl

/-- The compute lane's head, its operands read, runs from its own lane's matrix. -/
theorem State.compStart_of_result {s : State} {c : ℕ} {o : MatOp} {m : Matrix} {r : Written}
    (hm : m = if o.code = 0x03 then (s.core c).matrix.swap o else (s.core c).matrix) (hr : s.compResult c o m = .ok r) :
    s.compStart c o = { s.updCore c (fun k => { k with matrix := { m with
      compQ := { o with running := true, entries := r.entries, bytes := r.bytes, flags := r.flags } :: m.compQ.tail } }) with
      free := s.free + 2097152 } := by
  subst hm
  simp [State.compStart, hr]

/-- Settles O11: the only slot of a word decides for its fault, and each lane's head starts and ends by its lane's rule. -/
theorem illegalWordsAndMatrixLanes : Obligations.IllegalWordsAndMatrixLanes := by
  refine ⟨fun c s s1 w i p hi h honly hill hp => State.exec_of_illegal hi h honly hill hp, ?_⟩
  intro c s o rest hdrains
  refine ⟨fun o' hq hready ho' => ?_, fun r m hq hready hm hr => ?_, fun hq hrun => ?_, fun hq hrun => ?_⟩
  · simp [exec_matrixOpStart, State.laneStart, hdrains, hq, hready, State.loadStart, ho', State.updCore]
  · have hstart : s.laneStart c.val .compute = s.compStart c.val o := by
      simp [State.laneStart, hdrains, hq, hready]
    have hcomp : m.compQ = o :: rest := by rw [hm, Matrix.compQ_ite_swap, hq]
    have hexec := exec_matrixOpStart c .compute s
    rw [hstart, State.compStart_of_result hm hr] at hexec
    refine ⟨_, hexec, rfl, rfl, ?_, fun j hj => ?_⟩
    · rw [State.withFree_core, State.updCore_core_self, hcomp]
      rfl
    · rw [State.withFree_core, State.updCore_core_ne s c.val _ j hj]
  · simp [exec_matrixOpDone, State.laneDone, hdrains, hq, hrun, State.loadDone, State.updCore]
  · have hdone : s.laneDone c.val .compute = s.compDone c.val o := by
      simp [State.laneDone, hdrains, hq, hrun]
    refine ⟨s.compDone c.val o, by rw [exec_matrixOpDone, hdone], rfl, ?_,
      fun j hj => State.updCore_core_ne _ _ _ _ hj, rfl⟩
    unfold State.compDone
    rw [State.updCore_core_self]
    have hcore (m : List Host.Cell) : ({ s with mem := m } : State).core c.val = s.core c.val := rfl
    rw [hcore]
    simp [hq]

end Sys2Proof.Machine

/-! ## Outstanding accesses (O12) -/

namespace Sys2Proof.Machine

open Sys2Proof

theorem exec_loadDataReturn (c : CoreId) (i : ℕ) (s : State) : exec (.loadDataReturn c i) s = .next (s.loadReturn c.val i) := rfl
theorem exec_storeAcknowledgement (c : CoreId) (i : ℕ) (s : State) :
    exec (.storeAcknowledgement c i) s = .next (s.storeAck c.val i) := rfl
theorem exec_dmaTagComplete (c : CoreId) (tag : Fin 32) (s : State) :
    exec (.dmaTagComplete c tag) s = .next (s.tagComplete c.val tag.val) := rfl
theorem exec_mbsendAnswer (c : CoreId) (s : State) : exec (.mbsendAnswer c) s = .next (s.mbAnswer c.val) := rfl

@[simp] theorem Core.ws_stopRegs (k : Core) (i : ℕ) (v : Word) : (k.ws i v).stopRegs = k.stopRegs := by
  unfold Core.ws
  split
  · split
    · rfl
    · rfl
  · rfl

/-- A ready access leaves the list, and its load takes its answer or meets memory. -/
theorem State.loadReturn_of_ready {s : State} {c i : ℕ} {m : MemOp} (h : (s.core c).mopReady? i false = some m)
    (hheld : s.mopHeld c m = false) : s.loadReturn c i = match m.answer with
      | some v => s.updCore c fun k => (k.dropMop i).loaded m v.toNat
      | none => (s.updCore c fun k => k.dropMop i).localLoad c m := by
  simp only [State.loadReturn, h, hheld]
  cases m.answer with
  | none => rfl
  | some v => simp [State.updCore_updCore]

theorem State.storeAck_of_ready {s : State} {c i : ℕ} {m : MemOp} (h : (s.core c).mopReady? i true = some m)
    (hheld : s.mopHeld c m = false) : s.storeAck c i = if m.answer.isSome then s.updCore c fun k => k.dropMop i
      else (s.updCore c fun k => k.dropMop i).localStore c m := by
  simp [State.storeAck, h, hheld]

/-- A line that enters a cache may use up free values; the rest of the state stays. -/
theorem State.cacheFill_eq (s : State) (l : List CacheLine) (n : ℕ) (x : CacheLine) :
    ∃ l' f, s.cacheFill l n x = (l', { s with free := f }) := by
  unfold State.cacheFill
  dsimp only
  split
  · exact ⟨_, s.free, rfl⟩
  · unfold State.pick
    split
    · next e =>
      obtain ⟨-, rfl⟩ := Prod.mk.inj e
      exact ⟨_, _, rfl⟩
    · next e =>
      obtain ⟨-, rfl⟩ := Prod.mk.inj e
      exact ⟨_, _, rfl⟩

/-- A load of the last-level memory scratchpad writes its register. -/
theorem State.localLoad_of_llm {s s1 : State} {c n off : ℕ} {m : MemOp} {bs : Bytes}
    (hp : s.place (gLocal m.addr) = .llm n off)
    (hr : s.readBlock (s.partition (s.corePart c)).job (gLocal m.addr / 64 * 64) noUpset = (.ok bs, s1)) :
    s.localLoad c m = s1.updCore c fun k => k.loaded m (field bs (gLocal m.addr % 64) m.size) := by
  simp [State.localLoad, hp, hr]

/-- A load of HBM writes its register, and may put its line into the data cache. -/
theorem State.localLoad_of_hbm {s s1 : State} {c n : ℕ} {r : Region} {m : MemOp} {bs : Bytes}
    (hp : s.place (gLocal m.addr) = .hbm n r)
    (hr : s.readBlock (s.partition (s.corePart c)).job (gLocal m.addr / 64 * 64) noUpset = (.ok bs, s1)) :
    ∃ dc f, s.localLoad c m = { (s1.updCore c fun k =>
      { k.loaded m (field bs (gLocal m.addr % 64) m.size) with dcache := dc }) with free := f } := by
  unfold State.localLoad
  simp only [hp, hr]
  split
  · exact ⟨_, s1.free, by rw [State.updCore_updCore]; rfl⟩
  · generalize hs2 : (s1.updCore c fun k => k.loaded m (field bs (gLocal m.addr % 64) m.size)) = s2
    obtain ⟨l, f, hf⟩ := s2.cacheFill_eq (s2.core c).dcache 128 ⟨gLocal m.addr / 64 * 64,
      ((s2.core c).mops.filter fun x => x.store && !x.remote && gLocal x.addr / 64 = gLocal m.addr / 64).foldl
        MemOp.patch bs⟩
    refine ⟨l, f, ?_⟩
    rw [hf]
    subst hs2
    have hcore := State.updCore_updCore s1 c (fun k => k.loaded m (field bs (gLocal m.addr % 64) m.size))
      fun k => { k with dcache := l }
    exact congrArg (fun t : State => { t with free := f }) hcore

/-- A store to HBM or to the last-level memory scratchpad is its write. -/
theorem State.localStore_of_write {s s1 : State} {c : ℕ} {m : MemOp} (hp : ∀ off, s.place (gLocal m.addr) ≠ .ctrl off)
    (hw : s.writeMem (s.partition (s.corePart c)).job (gLocal m.addr) (leBytes m.size m.data.toNat) = (.ok (), s1)) :
    s.localStore c m = s1 := by
  unfold State.localStore
  dsimp only
  split
  · next off h => exact absurd h (hp off)
  · simp [hw]

/-- A transfer whose parts are done, without a fault or a value to return, frees its tag. -/
theorem State.tagComplete_of_done {s : State} {c tag : ℕ} {d : Dma} (hd : (s.core c).dma? tag = some d) (hleft : d.left = 0)
    (hdrains : (s.core c).drains = true) (hfirst : (s.core c).dmaFirst d = true) (hpieces : d.pieces = [])
    (hfault : d.fault = none) (hop : d.op ≠ 0x0D) :
    s.tagComplete c tag = s.updCore c fun k => { k with dmas := k.dmas.filter fun x => x.tag ≠ d.tag } := by
  have hruns : s.waitsFor (s.corePart c) d.runs = false := by
    rw [Dma.runs, if_neg hop, hpieces]
    rfl
  have hend : s.dmaEnd c d = (none, s.updCore c fun k => { k with dmas := k.dmas.filter fun x => x.tag ≠ d.tag }) := by
    unfold State.dmaEnd
    simp only [hpieces, State.piecesGo, hfault, if_neg hop]
  simp [State.tagComplete, hd, hleft, hdrains, hfirst, hruns, hend]

/-- Settles O12: an access that is ready takes its answer, or is the read or the write of memory. -/
theorem outstandingAccessesMeetMemory : Obligations.OutstandingAccessesMeetMemory := by
  constructor
  · intro c s i m
    refine ⟨fun v hm hheld ha => ?_, fun v hm hheld ha => ?_, fun tag d hd hl hdr hf hp hfa hop => ?_,
      fun a rest hmb hdr => ?_⟩
    · rw [exec_loadDataReturn, State.loadReturn_of_ready hm hheld, ha]
    · rw [exec_storeAcknowledgement, State.storeAck_of_ready hm hheld, ha]
      rfl
    · rw [exec_dmaTagComplete, State.tagComplete_of_done hd hl hdr hf hp hfa hop]
    · simp [exec_mbsendAnswer, State.mbAnswer, hmb, hdr]
  · intro c s s1 i m' off r m hplace hans hheld
    refine ⟨fun bs hm hr => ?_, fun hm hw => ?_⟩
    · rw [exec_loadDataReturn, State.loadReturn_of_ready hm hheld, hans]
      rcases hplace with hp | hp
      · have hl := State.localLoad_of_llm (s := s.updCore c.val fun k => k.dropMop i) hp hr
        exact ⟨fun _ => congrArg _ hl, ((s1.core c.val).loaded m (field bs (gLocal m.addr % 64) m.size)).dcache, s1.free,
          congrArg _ (hl.trans rfl)⟩
      · refine ⟨fun h => ?_, ?_⟩
        · rw [hp] at h
          cases h
        · obtain ⟨dc, f, hl⟩ := State.localLoad_of_hbm (s := s.updCore c.val fun k => k.dropMop i) hp hr
          exact ⟨dc, f, congrArg _ hl⟩
    · rw [exec_storeAcknowledgement, State.storeAck_of_ready hm hheld, hans]
      refine congrArg _ (State.localStore_of_write (s := s.updCore c.val fun k => k.dropMop i) (fun o h => ?_) hw)
      rcases hplace with hp | hp <;> exact absurd (hp.symm.trans h) (by simp)

end Sys2Proof.Machine

/-! ## Launches, EQUINOX, deadlines and the end of a kernel (O13) -/

namespace Sys2Proof.Machine

open Sys2Proof

theorem exec_launchArm (c : CoreId) (s : State) : exec (.launchArm c) s = .next (s.armLaunch c.val) := rfl
theorem exec_launchStart (c : CoreId) (s : State) : exec (.launchStart c) s = .next (s.launchStart c.val) := rfl
theorem exec_equinoxReached (w : WorkRef) (s : State) : exec (.equinoxReached w) s = .next (s.equinoxReached w) := rfl
theorem exec_deadlineMissed (w : WorkRef) (s : State) : exec (.deadlineMissed w) s = .next (s.deadlineMissed w) := rfl
theorem exec_kernelCompletion (c : CoreId) (s : State) : exec (.kernelCompletion c) s = .next (s.kernelEnd c.val) := rfl

/-- Core `c` may arm launch `l`. -/
structure State.mayArm (s : State) (c : ℕ) (l : Launch) : Prop where
  pending : (s.core c).pendingLaunch = some l
  idle : (s.core c).phase = .idle
  free : (s.core c).armed = none
  live : (s.core c).preempt = .live
  ctx : (s.core c).ctx = some l.part

/-- How late a launch is armed. -/
def State.lateness (s : State) (c : ℕ) (l : Launch) : Option ℕ :=
  if l.equinox ≠ 0 ∧ l.equinox ≤ s.copyAt (coreIsland c) then some (s.copyAt (coreIsland c) - l.equinox) else none

/-- A launch is armed with its lateness, but for a Calm partition's that is later than its window. -/
theorem State.armLaunch_of_mayArm {s : State} {c : ℕ} {l : Launch} (h : s.mayArm c l) :
    s.armLaunch c = if (s.partition l.part).calm ∧ (s.lateness c l).getD 0 > l.window then
        s.raise l.part (s.lateRecord (coreUnit c) (s.copyAt (coreIsland c)) l.equinox)
      else s.updCore c fun k => { k with pendingLaunch := none, armed := some (l, s.lateness c l) } := by
  obtain ⟨hpending, hidle, hfree, hlive, hctx⟩ := h
  simp [State.armLaunch, hpending, hidle, hfree, hlive, hctx, State.lateness]

theorem State.lateness_of_early {s : State} {c : ℕ} {l : Launch}
    (h : l.equinox = 0 ∨ s.copyAt (coreIsland c) < l.equinox) : s.lateness c l = none :=
  if_neg (by omega)

theorem State.lateness_of_late {s : State} {c : ℕ} {l : Launch} (h0 : l.equinox ≠ 0)
    (h : l.equinox ≤ s.copyAt (coreIsland c)) : s.lateness c l = some (s.copyAt (coreIsland c) - l.equinox) :=
  if_pos ⟨h0, h⟩

/-- The general registers of a kernel that starts. -/
theorem Core.start_rs (k : Core) (l : Launch) (late : Option ℕ) :
    (k.start l late).rs 1 = l.args ∧ (k.start l late).rs 2 = BitVec.ofNat 64 l.rank ∧
    (k.start l late).rs 3 = BitVec.ofNat 64 l.size ∧ ∀ i, 3 < i → (k.start l late).rs i = 0 := by
  refine ⟨rfl, rfl, rfl, fun i hi => ?_⟩
  have h1 : 1 ≠ i := by omega
  have h2 : 2 ≠ i := by omega
  have h3 : 3 ≠ i := by omega
  have hget : (Vector.replicate 32 (0 : Word))[i]?.getD 0 = 0 := by
    rw [Vector.getElem?_replicate]
    split <;> rfl
  simp only [Core.start, Core.rs, List.getD_eq_getElem?_getD, Vector.getElem?_toList]
  rw [Vector.getElem?_set_ne _ h3, Vector.getElem?_set_ne _ h2, Vector.getElem?_set_ne _ h1, hget, ite_self]

theorem State.launchStart_of_armed {s : State} {c : ℕ} {l : Launch} {late : Option ℕ}
    (harmed : (s.core c).armed = some (l, late)) (hidle : (s.core c).phase = .idle) (hlive : (s.core c).preempt = .live)
    (hdue : l.equinox ≤ s.copyAt (coreIsland c)) :
    s.launchStart c = (s.updItem l.part l.pos fun i => { i with started := true }).updCore c fun k => k.start l late := by
  simp [State.launchStart, harmed, hidle, hlive, hdue]

theorem State.moves_of_step? {s : State} {sl : ℕ} {st : Step} (h : s.step? sl = some st) : s.moves = true := by
  simp [State.step?, Option.filter_eq_some_iff] at h
  exact h.2.2

theorem State.moves_of_fc? {s : State} {sl : ℕ} {q : Fc} (h : s.fc? sl = some q) : s.moves = true := by
  simp [State.fc?, Option.filter_eq_some_iff] at h
  exact h.2

/-- A core's own comparison, when no word of it faults at the same tick. -/
theorem State.coreMissed_of_work {s : State} {c : CoreId} {l : Launch}
    (hl : missedLaunch ((s.core c.val).work false) (s.copyAt (coreIsland c.val)) = some l)
    (hw : s.wordFault c l.part = none) :
    s.coreMissed c = s.raise l.part (s.deadlineRecord (coreUnit c.val) (s.copyAt (coreIsland c.val)) l.deadline l.equinox) := by
  simp [State.coreMissed, hl, hw]

theorem State.deadlineMissed_kernel {s : State} (hm : s.moves = true) (c : CoreId) :
    s.deadlineMissed (.kernel c) = s.coreMissed c := by
  simp [State.deadlineMissed, hm]

/-- Settles O13, by the rules of arming, starting, comparing and ending. -/
theorem kernelsStartAndEnd : Obligations.KernelsStartAndEnd := by
  refine ⟨?_, ?_, ?_, ?_⟩
  · intro c s l
    refine ⟨fun hp hi hf hl hc hearly => ?_, fun hp hi hf hl hc h0 hlate hwin => ?_, fun late ha hi hl hdue => ?_⟩
    · rw [exec_launchArm, State.armLaunch_of_mayArm ⟨hp, hi, hf, hl, hc⟩, State.lateness_of_early hearly]
      simp
    · rw [exec_launchArm, State.armLaunch_of_mayArm ⟨hp, hi, hf, hl, hc⟩, State.lateness_of_late h0 hlate, if_neg]
      rintro ⟨hcalm, hbeyond⟩
      have := hwin hcalm
      simp only [Option.getD_some] at hbeyond
      omega
    · obtain ⟨h1, h2, h3, hrest⟩ := Core.start_rs (s.core c.val) l late
      refine ⟨_, by rw [exec_launchStart, State.launchStart_of_armed ha hi hl hdue], ?_⟩
      rw [State.updCore_core_self]
      exact ⟨rfl, rfl, h1, h2, h3, hrest, rfl, rfl, rfl, fun j hj => State.updCore_core_ne _ _ _ _ hj, rfl⟩
  · intro c s l hp hi hf hl hc hcalm h0 hlate
    rw [exec_launchArm, State.armLaunch_of_mayArm ⟨hp, hi, hf, hl, hc⟩, State.lateness_of_late h0 (by omega), if_pos]
    exact ⟨hcalm, by simp only [Option.getD_some]; omega⟩
  · intro s
    refine ⟨fun sl st hst hdue => ?_, fun f q hq hdue => ?_, fun c => ?_, fun c l hcur hd hw hm => ?_,
      fun c l late hcur harmed hd hw hm => ?_⟩
    · have hany : s.xCopies.any (st.equinox ≤ ·) = true := by simpa using hdue
      simp [exec_equinoxReached, State.equinoxReached, State.moves_of_step? hst, hst, hany, State.markStarted]
    · have hany : s.xCopies.any (q.equinox ≤ ·) = true := by simpa using hdue
      simp [exec_equinoxReached, State.equinoxReached, State.moves_of_fc? hq, hq, hany, State.markStarted]
    · simp [exec_equinoxReached, State.equinoxReached]
    · rw [exec_deadlineMissed, State.deadlineMissed_kernel hm, State.coreMissed_of_work _ hw]
      simp [missedLaunch, Core.work, hcur, hd]
    · rw [exec_deadlineMissed, State.deadlineMissed_kernel hm, State.coreMissed_of_work _ hw]
      simp [missedLaunch, Core.work, hcur, harmed, hd]
  · intro c s l hcur hphase hlive hstores hdmas hload hcomp hd
    have hstores' : (s.core c.val).mops.any (fun m => m.store) = false := by simpa using hstores
    simp [exec_kernelCompletion, State.kernelEnd, hcur, hphase, hlive, hstores', hdmas, hload, hcomp, hd]

end Sys2Proof.Machine

/-! ## What faults, aborts and halts of work leave alone -/

section RaiseFrame

namespace Sys2Proof.Machine

open Sys2Proof

variable {s0 s : State}

/-- State `t` follows `s` by faults, aborts and halts of the work of partitions: the dies, the Season registers, the ports,
the supplies, what was sent and the management registers stay; of firmware only lock words are freed, and running checkpoint
commands marked. -/
structure RaiseFrame (s t : State) : Prop where
  eq : t = { s with
    mem := t.mem, poison := t.poison, upsets := t.upsets, writebacks := t.writebacks, testRuns := t.testRuns
    openRows := t.openRows, rowErrors := t.rowErrors, hubs := t.hubs, baro := t.baro, free := t.free
    cores := t.cores, saved := t.saved, partitions := t.partitions, stewards := t.stewards, steps := t.steps
    pairs := t.pairs, forecasts := t.forecasts, xdies := t.xdies, pools := t.pools, fabric := t.fabric
    colls := t.colls, collPast := t.collPast, groups := t.groups
    fw := { s.fw with locks := t.fw.locks }, ckpt := { s.ckpt with running := t.ckpt.running } }
  idle : s.ckpt.running = [] → t.ckpt.running = []

theorem RaiseFrame.refl (s : State) : RaiseFrame s s := ⟨rfl, id⟩

/-- An update of the fields that such work changes. -/
theorem RaiseFrame.set {m p u w r o e h b f c sv pa st sp pr fc x pl fb co cp g} (hs : RaiseFrame s0 s) :
    RaiseFrame s0 { s with
      mem := m, poison := p, upsets := u, writebacks := w, testRuns := r, openRows := o, rowErrors := e, hubs := h
      baro := b, free := f, cores := c, saved := sv, partitions := pa, stewards := st, steps := sp, pairs := pr
      forecasts := fc, xdies := x, pools := pl, fabric := fb, colls := co, collPast := cp, groups := g } :=
  ⟨by rw [hs.eq], hs.idle⟩

theorem RaiseFrame.setLocks {l : List (ℕ × BitVec 16 × ℕ)} (h : RaiseFrame s0 s) :
    RaiseFrame s0 (s.updFw fun f => { f with locks := l }) :=
  ⟨by rw [h.eq]; rfl, h.idle⟩

theorem RaiseFrame.markRunning {f : ℕ × CkptRun → ℕ × CkptRun} (h : RaiseFrame s0 s) :
    RaiseFrame s0 { s with ckpt := { s.ckpt with running := s.ckpt.running.map f } } :=
  ⟨by rw [h.eq], fun h0 => by rw [h.idle h0]; rfl⟩

theorem RaiseFrame.trans {t u : State} (h : RaiseFrame s t) (k : RaiseFrame t u) : RaiseFrame s u :=
  ⟨by rw [k.eq, h.eq], k.idle ∘ h.idle⟩

theorem RaiseFrame.of_mem {t : State} (h : RaiseFrame s0 s) (k : MemFrame s t) : RaiseFrame s0 t :=
  h.trans ⟨by rw [k.eq], fun h0 => by rw [k.eq]; exact h0⟩

theorem RaiseFrame.peek {p a n : ℕ} (h : RaiseFrame s0 s) : RaiseFrame s0 (s.peek p a n).2 :=
  h.of_mem (MemFrame.refl s).peek

theorem RaiseFrame.poke {p a : ℕ} {bs : Bytes} (h : RaiseFrame s0 s) : RaiseFrame s0 (s.poke p a bs) :=
  h.of_mem (MemFrame.refl s).poke

theorem RaiseFrame.foldl {α : Type} (f : State → α → State) (l : List α)
    (hf : ∀ s a, RaiseFrame s0 s → RaiseFrame s0 (f s a)) (h : RaiseFrame s0 s) : RaiseFrame s0 (l.foldl f s) := by
  induction l generalizing s with
  | nil => exact h
  | cons a l ih => exact ih (hf s a h)

theorem RaiseFrame.sndOfEq {α : Type} {t : State} {p : α × State} {a : α} (e : p = (a, t)) (h : RaiseFrame s0 p.2) :
    RaiseFrame s0 t := by rw [e] at h; exact h

theorem RaiseFrame.ite {c : Prop} [Decidable c] {t u : State} (ht : RaiseFrame s0 t) (hu : RaiseFrame s0 u) :
    RaiseFrame s0 (if c then t else u) := by
  split
  · exact ht
  · exact hu

theorem RaiseFrame.setCore {c : ℕ} {k : Core} (h : RaiseFrame s0 s) : RaiseFrame s0 (s.setCore c k) := by
  unfold State.setCore
  exact h.set

theorem RaiseFrame.updCore {c : ℕ} {f : Core → Core} (h : RaiseFrame s0 s) : RaiseFrame s0 (s.updCore c f) := by
  unfold State.updCore
  exact h.setCore

theorem RaiseFrame.setPartition {p : ℕ} {x : Partition} (h : RaiseFrame s0 s) : RaiseFrame s0 (s.setPartition p x) := by
  unfold State.setPartition
  exact h.set

theorem RaiseFrame.updPartition {p : ℕ} {f : Partition → Partition} (h : RaiseFrame s0 s) : RaiseFrame s0 (s.updPartition p f) := by
  unfold State.updPartition
  exact h.setPartition

theorem RaiseFrame.updSteward {k : ℕ} {f : Steward → Steward} (h : RaiseFrame s0 s) : RaiseFrame s0 (s.updSteward k f) := by
  unfold State.updSteward
  exact h.set

theorem RaiseFrame.updXdie {x : ℕ} {f : XDieState → XDieState} (h : RaiseFrame s0 s) : RaiseFrame s0 (s.updXdie x f) := by
  unfold State.updXdie
  exact h.set

theorem RaiseFrame.updStep {sl : ℕ} {f : Step → Step} (h : RaiseFrame s0 s) : RaiseFrame s0 (s.updStep sl f) := by
  unfold State.updStep
  split
  · exact h.set
  · exact h

theorem RaiseFrame.updFabric {f : Fabric → Fabric} (h : RaiseFrame s0 s) : RaiseFrame s0 (s.updFabric f) := by
  unfold State.updFabric
  exact h.set

theorem RaiseFrame.draw (h : RaiseFrame s0 s) : RaiseFrame s0 (s.draw).2 := by
  unfold State.draw
  exact h.set

theorem RaiseFrame.newXact {k : Pkt} {data : Bytes} {owner : Owner} {part : ℕ} (h : RaiseFrame s0 s) :
    RaiseFrame s0 (s.newXact k data owner part) := by
  unfold State.newXact
  exact h.updFabric

theorem RaiseFrame.newTree {k : TreePkt} {data : Bytes} {owner : Owner} {part : ℕ} (h : RaiseFrame s0 s) :
    RaiseFrame s0 (s.newTree k data owner part) := by
  unfold State.newTree
  exact h.updFabric

theorem RaiseFrame.assignCore {c : ℕ} {p : Option ℕ} {keys : List (BitVec 128)} (h : RaiseFrame s0 s) :
    RaiseFrame s0 (s.assignCore c p keys) := by
  unfold State.assignCore
  exact h.set.setCore

theorem RaiseFrame.settleCore {c : ℕ} (h : RaiseFrame s0 s) : RaiseFrame s0 (s.settleCore c) := by
  unfold State.settleCore
  split
  · exact h.updCore.ite h.updCore
  · exact h.assignCore

theorem RaiseFrame.haltMatOp {op : MatOp} (h : RaiseFrame s0 s) : RaiseFrame s0 (s.haltMatOp op) := by
  unfold State.haltMatOp
  exact RaiseFrame.foldl _ _ (fun _ _ h => h.set.ite
      (h.set.set))
      (RaiseFrame.foldl _ _ (fun s a h => by
      split
      · next e =>
          split
          · exact (RaiseFrame.sndOfEq e h.draw).ite
              ((RaiseFrame.sndOfEq e h.draw).set)
          · exact RaiseFrame.sndOfEq e h.draw) h)

theorem RaiseFrame.haltCore {c : ℕ} (h : RaiseFrame s0 s) : RaiseFrame s0 (s.haltCore c) := by
  unfold State.haltCore
  exact ((RaiseFrame.foldl _ _ (fun _ _ h => h.haltMatOp) h).updCore).set

theorem RaiseFrame.discardDrift {c : ℕ} (h : RaiseFrame s0 s) : RaiseFrame s0 (s.discardDrift c) := by
  unfold State.discardDrift
  exact h.updCore.set

theorem RaiseFrame.sendPairAborts {sl p : ℕ} {group : BitVec 12} {step : BitVec 16} {round : ℕ} {digest : Word}
    {members : List PkgId} {code : ℕ} (h : RaiseFrame s0 s) :
    RaiseFrame s0 (s.sendPairAborts sl p group step round digest members code) := by
  unfold State.sendPairAborts
  exact RaiseFrame.foldl _ _ (fun _ _ h => h.newXact) h

theorem RaiseFrame.sendStepAborts {sl : ℕ} {st : Step} {code : ℕ} (h : RaiseFrame s0 s) : RaiseFrame s0 (s.sendStepAborts sl st code)
    := by
  unfold State.sendStepAborts
  exact h.sendPairAborts

theorem RaiseFrame.rememberPair {group : BitVec 12} {step : BitVec 16} (h : RaiseFrame s0 s) :
    RaiseFrame s0 (s.rememberPair group step) := by
  unfold State.rememberPair
  exact RaiseFrame.foldl _ _ (fun _ _ h => h.updXdie) h.set

theorem RaiseFrame.sendCollAborts {c : Coll} {code : ℕ} {origin : PkgId} {but : Option PkgId} (h : RaiseFrame s0 s) :
    RaiseFrame s0 (s.sendCollAborts c code origin but) := by
  unfold State.sendCollAborts
  split
  · exact h
  · exact RaiseFrame.foldl _ _ (fun _ _ h => h.ite h.newTree) h

theorem RaiseFrame.noteCollFault {group : BitVec 12} {code : ℕ} (h : RaiseFrame s0 s) : RaiseFrame s0 (s.noteCollFault group code) :=
    by
  unfold State.noteCollFault
  exact RaiseFrame.foldl _ _ (fun _ _ h => h.updXdie) h

theorem RaiseFrame.teardownCores {p : ℕ} (h : RaiseFrame s0 s) : RaiseFrame s0 (s.teardownCores p) := by
  unfold State.teardownCores
  exact RaiseFrame.foldl _ _ (fun _ _ h => h.updSteward)
      (RaiseFrame.foldl _ _ (fun _ _ h => (h.haltCore.discardDrift.settleCore.ite h.haltCore.discardDrift).ite
      (h.settleCore.ite h)) h.set)

theorem RaiseFrame.haltCopy {p src dst n : ℕ} (h : RaiseFrame s0 s) : RaiseFrame s0 (s.haltCopy p src dst n) := by
  unfold State.haltCopy
  exact RaiseFrame.foldl _ _ (fun s a h => by
      split
      · next e =>
          split
          · exact RaiseFrame.sndOfEq e h.draw
          · split
            · next e1 =>
                exact (RaiseFrame.sndOfEq e1 ((RaiseFrame.sndOfEq e h.draw).peek)).poke
            · next e1 =>
                exact RaiseFrame.sndOfEq e1 ((RaiseFrame.sndOfEq e h.draw).peek)) h

theorem RaiseFrame.endColl {p code : ℕ} {c : Coll} (h : RaiseFrame s0 s) : RaiseFrame s0 (s.endColl p code c) := by
  unfold State.endColl
  dsimp only
  split
  · split
    · exact h.noteCollFault
    · split
      · exact h.sendCollAborts.noteCollFault
      · exact h.sendCollAborts.noteCollFault
  · split
    · split
      · exact h
      · split
        · exact h.sendCollAborts
        · exact h.sendCollAborts
    · split
      · exact h.haltCopy
      · split
        · exact h.sendCollAborts.haltCopy
        · exact h.sendCollAborts.haltCopy

theorem RaiseFrame.dropRows {sl : ℕ} (h : RaiseFrame s0 s) : RaiseFrame s0 (s.dropRows sl) := by
  unfold State.dropRows
  exact RaiseFrame.foldl _ _ (fun _ _ h => h.updXdie) h

theorem RaiseFrame.endStep {p code sl : ℕ} {st : Step} (h : RaiseFrame s0 s) : RaiseFrame s0 (s.endStep p code sl st) := by
  unfold State.endStep
  exact (((((RaiseFrame.foldl _ _ (fun _ _ h => h.haltCopy) h).ite h).sendStepAborts).rememberPair).dropRows).updStep

theorem RaiseFrame.teardownWork {p code : ℕ} (h : RaiseFrame s0 s) : RaiseFrame s0 (s.teardownWork p code) := by
  unfold State.teardownWork
  exact (RaiseFrame.foldl _ _ (fun _ _ h => h.endColl)
      ((RaiseFrame.foldl _ _ (fun _ _ h => h.endStep.ite h) h.updFabric).set)).set

theorem RaiseFrame.teardownRest {p : ℕ} (h : RaiseFrame s0 s) : RaiseFrame s0 (s.teardownRest p).1 := by
  unfold State.teardownRest
  exact h.set.set.updPartition.setLocks.markRunning

theorem RaiseFrame.raiseOne {p : ℕ} {r : FaultRec} (h : RaiseFrame s0 s) : RaiseFrame s0 (s.raiseOne p r).1 := by
  unfold State.raiseOne
  split
  · exact h
  · dsimp only
    exact h.updPartition
  · dsimp only
    exact h.updPartition
  · exact h.updPartition.teardownCores.teardownWork.teardownRest
  · exact h.updPartition.teardownCores.teardownWork.teardownRest

theorem RaiseFrame.raiseAll {n : ℕ} {l : List (ℕ × FaultRec)} (h : RaiseFrame s0 s) : RaiseFrame s0 (State.raiseAll n l s) := by
  induction n generalizing s l with
  | zero => exact h
  | succ n ih =>
    cases l with
    | nil => exact h
    | cons e l => exact ih h.raiseOne

theorem RaiseFrame.raise {p : ℕ} {r : FaultRec} (h : RaiseFrame s0 s) : RaiseFrame s0 (s.raise p r) := by
  unfold State.raise
  exact h.set.raiseAll

theorem RaiseFrame.raiseMany {l : List ℕ} {f : State → FaultRec} (h : RaiseFrame s0 s) : RaiseFrame s0 (s.raiseMany l f) := by
  unfold State.raiseMany
  exact RaiseFrame.foldl _ _ (fun _ _ h => h.raise) h

end Sys2Proof.Machine

end RaiseFrame

/-! ## Failures that halt the package (01 R37 to R39, 18 R594, 19 R604, R616, R621) -/

section Failures

namespace Sys2Proof.Machine

open Sys2Proof

variable {s0 s : State}

/-- State `t` follows `s` by cores that halt: beside the cores, only what their running matrix operations write and the
values that they draw have changed. -/
structure CoresHalted (s t : State) : Prop where
  eq : t = { s with mem := t.mem, free := t.free, cores := t.cores }

theorem CoresHalted.set {m f c} (h : CoresHalted s0 s) : CoresHalted s0 { s with mem := m, free := f, cores := c } :=
  ⟨by rw [h.eq]⟩

theorem CoresHalted.foldl {α : Type} (f : State → α → State) (l : List α)
    (hf : ∀ s a, CoresHalted s0 s → CoresHalted s0 (f s a)) (h : CoresHalted s0 s) : CoresHalted s0 (l.foldl f s) := by
  induction l generalizing s with
  | nil => exact h
  | cons a l ih => exact ih (hf s a h)

theorem CoresHalted.haltMatOp {op : MatOp} (h : CoresHalted s0 s) : CoresHalted s0 (s.haltMatOp op) := by
  unfold State.haltMatOp
  refine CoresHalted.foldl _ _ (fun s e h => ?_) (CoresHalted.foldl _ _ (fun s e h => ?_) h)
  · dsimp only [State.draw]
    split
    · exact h.set
    · exact h.set
  · dsimp only [State.draw]
    split
    · split
      · exact h.set
      · exact h.set
    · exact h.set

theorem CoresHalted.haltCore {c : ℕ} (h : CoresHalted s0 s) : CoresHalted s0 (s.haltCore c) := by
  unfold State.haltCore State.updCore State.setCore
  exact (CoresHalted.foldl _ _ (fun _ _ h => h.haltMatOp) h).set

/-- What the halt of every core and steward leaves of the package. -/
theorem State.stopAll_eq (s : State) : s.stopAll = { s with
    mem := s.stopAll.mem, free := s.stopAll.free, cores := s.stopAll.cores
    stewards := s.stewards.map fun e => (e.1, { e.2 with running := false, waiting := none }) } := by
  have h : CoresHalted s (s.cores.foldl (fun s e => s.haltCore e.1) s) :=
    CoresHalted.foldl _ _ (fun _ _ h => h.haltCore) ⟨rfl⟩
  unfold State.stopAll
  rw [h.eq]

@[simp] theorem State.stopAll_mgmt (s : State) : s.stopAll.mgmt = s.mgmt := by rw [s.stopAll_eq]
@[simp] theorem State.stopAll_dieFail (s : State) : s.stopAll.dieFail = s.dieFail := by rw [s.stopAll_eq]
@[simp] theorem State.stopAll_dieOk (s : State) : s.stopAll.dieOk = s.dieOk := by rw [s.stopAll_eq]
@[simp] theorem State.stopAll_partitions (s : State) : s.stopAll.partitions = s.partitions := by rw [s.stopAll_eq]

/-- The management registers of a package that halts: of its cause, its DETAIL and STATE_CHANGE. -/
theorem State.halt_mgmt (s : State) (code : Byte) (detail : ℕ) :
    (s.halt code detail).mgmt.state = .haltRefused ∧ (s.halt code detail).mgmt.causeCode = code ∧
      (s.halt code detail).mgmt.causeDetail = BitVec.ofNat 16 detail ∧ (s.halt code detail).mgmt.pending = true :=
  ⟨rfl, rfl, rfl, rfl⟩

theorem State.halt_out_head (s : State) (code : Byte) (detail : ℕ) :
    (s.halt code detail).out.head? = some .alertN := rfl

@[simp] theorem State.halt_dieFail (s : State) (code : Byte) (detail : ℕ) : (s.halt code detail).dieFail = s.dieFail := by
  unfold State.halt
  dsimp only [State.emit, State.updMgmt]
  split <;> simp [State.updFw]

@[simp] theorem State.halt_dieOk (s : State) (code : Byte) (detail : ℕ) : (s.halt code detail).dieOk = s.dieOk := by
  unfold State.halt
  dsimp only [State.emit, State.updMgmt]
  split <;> simp [State.updFw]

@[simp] theorem State.halt_partitions (s : State) (code : Byte) (detail : ℕ) :
    (s.halt code detail).partitions = s.partitions := by
  unfold State.halt
  dsimp only [State.emit, State.updMgmt]
  split <;> simp [State.updFw]

/-! ### Dies -/

theorem foldl_min_le_init (l : List ℕ) (n : ℕ) : l.foldl min n ≤ n := by
  induction l generalizing n with
  | nil => exact le_rfl
  | cons a l ih => exact (ih _).trans (min_le_left n a)

theorem foldl_min_le_of_mem {l : List ℕ} {d : ℕ} (h : d ∈ l) (n : ℕ) : l.foldl min n ≤ d := by
  induction l generalizing n with
  | nil => cases h
  | cons a l ih =>
    rcases List.mem_cons.mp h with rfl | h
    · exact (foldl_min_le_init l _).trans (min_le_right n d)
    · exact ih h _

theorem le_foldl_min {l : List ℕ} {n m : ℕ} (hn : m ≤ n) (h : ∀ d ∈ l, m ≤ d) : m ≤ l.foldl min n := by
  induction l generalizing n with
  | nil => exact hn
  | cons a l ih =>
    exact ih (le_min hn (h a List.mem_cons_self)) fun d hd => h d (List.mem_cons_of_mem a hd)

/-- K0 among failed control dies is the lowest of them. -/
theorem lowest_control {l : List ℕ} (h : 38 ∈ l) : lowest (l.filter (38 ≤ ·)) = 38 :=
  le_antisymm (foldl_min_le_of_mem (List.mem_filter.mpr ⟨h, by decide⟩) _)
    (le_foldl_min (by decide) fun _ hd => of_decide_eq_true (List.mem_filter.mp hd).2)

@[simp] theorem State.markDies_partitions (s : State) (l : List ℕ) : (s.markDies l).partitions = s.partitions := rfl

/-- The package after a control die has failed. -/
theorem State.failControl_halted (s : State) (d : ℕ) :
    (s.failControl d).mgmt.state = .haltRefused ∧ (s.failControl d).mgmt.causeCode = 0x0D ∧
      (s.failControl d).mgmt.causeDetail = BitVec.ofNat 16 d ∧ (s.failControl d).mgmt.pending = true ∧
      (s.failControl d).out.head? = some .alertN ∧ (d = 38 → (s.failControl d).fw.up = false) := by
  unfold State.failControl
  by_cases h : d = 38
  · rw [if_pos h]
    exact ⟨rfl, rfl, rfl, rfl, rfl, fun _ => rfl⟩
  · rw [if_neg h]
    exact ⟨rfl, rfl, rfl, rfl, rfl, fun e => absurd e h⟩

/-- The registers of the dies after a control die has failed; no partition gets a record. -/
theorem State.failControl_dies (s : State) (d : ℕ) :
    (s.failControl d).dieFail = (s.markDies [d]).dieFail ∧ (s.failControl d).dieOk = (s.markDies [d]).dieOk ∧
      (s.failControl d).partitions = s.partitions := by
  unfold State.failControl
  dsimp only
  split <;> simp [State.updFw]

/-- PKG_DIE_FAIL after dies other than the control dies have failed. -/
theorem State.failDies_dieFail (s : State) (l : List ℕ) (code : Byte) (detail : ℕ) :
    (s.failDies l code detail).dieFail = (s.markDies l).dieFail := by
  unfold State.failDies
  dsimp only
  rw [State.halt_dieFail, ((RaiseFrame.refl (s.markDies l)).raiseMany).eq]

/-- A failure of dies halts the package with the cause of its lowest die, or of its lowest control die. -/
theorem State.failAny_halted (s : State) (l : List ℕ) :
    (s.failAny l).mgmt.state = .haltRefused ∧ (s.failAny l).mgmt.pending = true ∧
      (s.failAny l).out.head? = some .alertN ∧
      ((∀ d ∈ l, d < 38) →
        (s.failAny l).mgmt.causeCode = 0x0B ∧ (s.failAny l).mgmt.causeDetail = BitVec.ofNat 16 (lowest l)) ∧
      ((∃ d ∈ l, 38 ≤ d) → (s.failAny l).mgmt.causeCode = 0x0D ∧
        (s.failAny l).mgmt.causeDetail = BitVec.ofNat 16 (lowest (l.filter (38 ≤ ·))) ∧
        (38 ∈ l → (s.failAny l).fw.up = false)) := by
  unfold State.failAny
  split
  · next hnone =>
    refine ⟨rfl, rfl, rfl, fun _ => ⟨rfl, rfl⟩, fun ⟨d, hd, hk⟩ => ?_⟩
    have : d ∈ l.filter (38 ≤ ·) := List.mem_filter.mpr ⟨hd, decide_eq_true hk⟩
    simp [hnone] at this
  · next hsome =>
    obtain ⟨hst, hcode, hdet, hpend, hout, hfw⟩ :=
      (s.markDies l).failControl_halted (lowest (l.filter (38 ≤ ·)))
    refine ⟨hst, hpend, hout, fun hlow => absurd ?_ hsome, fun _ => ⟨hcode, hdet, fun h38 => hfw (lowest_control h38)⟩⟩
    exact List.filter_eq_nil_iff.mpr fun d hd => by simpa using hlow d hd

theorem exec_dieFailed (f : FailedUnits) (s : State) : exec (.dieFailed f) s = execDieFailed f s := rfl
theorem exec_controlDieFailed (k : Fin 2) (s : State) : exec (.controlDieFailed k) s = execControlDieFailed k s := rfl
theorem exec_thermtrip (src : TripSource) (s : State) : exec (.thermtrip src) s = execThermtrip src s := rfl
theorem exec_refclkLoss (w : Fin 2) (s : State) : exec (.refclkLoss w) s = .next (s.refclkLost w.val) := rfl

/-- The command of a failure of dies, at a package in operation. -/
theorem exec_dieFailed_of_operational {s : State} (ho : s.operational = true) {dies : List DieId}
    {modules : List ModuleRef} {l : List ℕ}
    (hl : l = (dies.map (·.val)).filter (· < 38) ++ modules.flatMap ModuleRef.dies) (hne : l ≠ []) :
    exec (.dieFailed ⟨dies, modules⟩) s = .next (s.failAny l) := by
  rw [exec_dieFailed, execDieFailed, ← hl]
  simp [ho, hne]

/-- The command of a failed control die, at a package in operation. -/
theorem exec_controlDieFailed_of_operational {s : State} (ho : s.operational = true) (k : Fin 2) :
    exec (.controlDieFailed k) s = .next (s.failControl (38 + k.val)) := by
  rw [exec_controlDieFailed, execControlDieFailed, if_pos ho]

/-- PKG_DIE_FAIL and PKG_DIE_OK after one die has failed. -/
theorem State.markDies_singleton (s : State) (d : ℕ) :
    (s.markDies [d]).dieFail = s.dieFail ||| (1#40 <<< d) ∧ (s.markDies [d]).dieOk = s.dieOk &&& ~~~(1#40 <<< d) := by
  simp [State.markDies]

/-! ### Supplies -/

/-- HALT_REFUSED with cause POWER: the rails go off, and memory is lost. -/
theorem State.powerFail_halted (s : State) (h : s.mgmt.state ≠ .off) (detail : ℕ) :
    (s.powerFail detail).mgmt.state = .haltRefused ∧ (s.powerFail detail).mgmt.causeCode = 0x0F ∧
      (s.powerFail detail).mgmt.causeDetail = BitVec.ofNat 16 detail ∧ (s.powerFail detail).mgmt.pending = true ∧
      (s.powerFail detail).mgmt.mainRails = false ∧ (s.powerFail detail).mem = [] := by
  unfold State.powerFail
  rw [if_neg h]
  exact ⟨rfl, rfl, rfl, rfl, rfl, rfl⟩

theorem State.powerFail_off (s : State) (h : s.mgmt.state = .off) (detail : ℕ) : s.powerFail detail = s := by
  unfold State.powerFail
  rw [if_pos h]

/-- The commands of supplies out of range, with the DETAIL of each. -/
def supplyFailures (d : DieId) (st : StackId) : List (Instr × ℕ) :=
  [(.vin48Undervoltage, 1), (.vin48Overvoltage, 2), (.inputPowerExcess, 3),
    (.railOutOfRegulation (.die d), 0x10 + d.val), (.railOutOfRegulation (.hbm st), 0x40 + st.val)]

/-- A supply out of range is a failure of power; excess input power is one while the fast cut holds. -/
theorem exec_supplyFailure {c : Instr} {detail : ℕ} {d : DieId} {st : StackId} (hc : (c, detail) ∈ supplyFailures d st)
    (s : State) : (c = .inputPowerExcess → s.power.fastHold ≠ 0) → exec c s = .next (s.powerFail detail) := by
  simp only [supplyFailures, List.mem_cons, Prod.mk.injEq, List.not_mem_nil, or_false] at hc
  obtain ⟨rfl, rfl⟩ | ⟨rfl, rfl⟩ | ⟨rfl, rfl⟩ | ⟨rfl, rfl⟩ | ⟨rfl, rfl⟩ := hc
  · exact fun _ => rfl
  · exact fun _ => rfl
  · intro hf
    change execInputPowerExcess s = _
    rw [execInputPowerExcess, if_neg (hf rfl)]
  · exact fun _ => rfl
  · exact fun _ => rfl

/-- In OFF a supply out of range has no effect. -/
theorem exec_supplyFailure_off {c : Instr} {detail : ℕ} {d : DieId} {st : StackId}
    (hc : (c, detail) ∈ supplyFailures d st) (s : State) (hoff : s.mgmt.state = .off) : exec c s = .next s := by
  by_cases hf : c = .inputPowerExcess → s.power.fastHold ≠ 0
  · rw [exec_supplyFailure hc s hf, s.powerFail_off hoff]
  · obtain ⟨rfl, hhold⟩ := Classical.not_imp.mp hf
    change execInputPowerExcess s = _
    rw [execInputPowerExcess, if_pos (not_not.mp hhold)]

/-! ### Heat -/

/-- The sensor of a trip, as DETAIL. -/
def tripDetail : TripSource → ℕ
  | .die d => d.val
  | .stack st => 0x80 + st.val
  | .board => 0xFF

theorem exec_thermtrip_tripDetail (src : TripSource) (s : State) :
    exec (.thermtrip src) s = .next (s.thermTrip (tripDetail src) (decide (src ≠ .board))) := by
  rw [exec_thermtrip]
  cases src <;> rfl

@[simp] theorem State.stopHot_mgmt (s : State) (d : ℕ) : (s.stopHot d).mgmt = s.mgmt := by
  unfold State.stopHot
  split
  · rfl
  · split <;> rfl

@[simp] theorem State.stopHot_mem (s : State) (d : ℕ) : (s.stopHot d).mem = s.mem := by
  unfold State.stopHot
  split
  · rfl
  · split <;> rfl

@[simp] theorem State.stopHot_out (s : State) (d : ℕ) : (s.stopHot d).out = s.out := by
  unfold State.stopHot
  split
  · rfl
  · split <;> rfl

/-- K0 that is hot takes firmware with it. -/
theorem State.stopHot_fw (s : State) : (s.stopHot 38).fw.up = false := rfl

theorem Tab.get?_map {α β : Type} (f : ℕ → α → β) (t : List (ℕ × α)) (k : ℕ) :
    Tab.get? (t.map fun e => (e.1, f e.1 e.2)) k = (Tab.get? t k).map (f k) := by
  induction t with
  | nil => rfl
  | cons e t ih =>
    obtain ⟨i, a⟩ := e
    simp only [List.map_cons, Tab.get?]
    split
    · next h => rw [h]; rfl
    · exact ih

/-- A steward core of a control die that is hot does not run. -/
theorem State.stopHot_steward (s : State) {k d : ℕ} (hd : d = 38 ∨ d = 39) (hk : stewardDie k = d) :
    ((s.stopHot d).steward k).running = false := by
  have hstop : ((s.stopStewards d).steward k).running = false := by
    unfold State.steward State.stopStewards Tab.get
    rw [Tab.get?_map fun i (x : Steward) => if stewardDie i = d then { x with running := false, waiting := none } else x]
    cases Tab.get? s.stewards k with
    | none => rfl
    | some x => simp [hk]
  rcases hd with rfl | rfl
  · exact hstop
  · exact hstop

/-- The package as a sensor trips it: halted without memory, with the latch set. -/
theorem State.thermTrip_halted (s : State) (detail : ℕ) (own : Bool) (hs : s.mgmt.standby = true)
    (hp : s.mgmt.pwrok = true) (hc : s.mgmt.coldRst = true) (hl : s.mgmt.thermLatch = false) :
    ∃ u : State, s.thermTrip detail own = u.stopHot detail ∧ u.mgmt.state = .haltRefused ∧ u.mgmt.causeCode = 0x0E ∧
      u.mgmt.causeDetail = BitVec.ofNat 16 detail ∧ u.mgmt.thermLatch = true ∧ u.mgmt.mainRails = false ∧ u.mem = [] := by
  have hcold : (if own then s.emit .thermtripN else s).mgmt.coldRst = true := by
    cases own
    · exact hc
    · exact hc
  refine ⟨((((if own then s.emit .thermtripN else s).halt 0x0E detail).railsOff).updMgmt fun m =>
    { m with thermLatch := true }), ?_, rfl, rfl, rfl, rfl, rfl, rfl⟩
  unfold State.thermTrip
  simp [hs, hp, hl, hcold]

/-- With COLD_RST_N low the latch is set, and the package stays in its state. -/
theorem State.thermTrip_cold (s : State) (detail : ℕ) (own : Bool) (hs : s.mgmt.standby = true)
    (hp : s.mgmt.pwrok = true) (hc : s.mgmt.coldRst = false) (hl : s.mgmt.thermLatch = false) :
    s.thermTrip detail own =
      (((if own then s.emit .thermtripN else s).updMgmt fun m => { m with thermLatch := true })).stopHot detail := by
  have hcold : (if own then s.emit .thermtripN else s).mgmt.coldRst = false := by
    cases own
    · exact hc
    · exact hc
  unfold State.thermTrip
  simp [hs, hp, hl, hcold]

theorem State.thermTrip_latched (s : State) (detail : ℕ) (own : Bool) (hs : s.mgmt.standby = true)
    (hp : s.mgmt.pwrok = true) (hl : s.mgmt.thermLatch = true) : s.thermTrip detail own = s.stopHot detail := by
  unfold State.thermTrip
  simp [hs, hp, hl]

theorem State.thermTrip_unpowered (s : State) (detail : ℕ) (own : Bool)
    (h : s.mgmt.standby = false ∨ s.mgmt.pwrok = false) : s.thermTrip detail own = s := by
  unfold State.thermTrip
  rw [if_pos (by simpa using h)]

/-! ### References -/

/-- The dies of a SerDes reference, in PKG_DIE_FAIL. -/
theorem getLsbD_markDies_refclk (s : State) (w : Fin 2) (i : ℕ) (hi : i < 40) :
    (s.markDies ((List.range 4).map (30 + 4 * w.val + ·))).dieFail.getLsbD i =
      (s.dieFail.getLsbD i || decide (30 + 4 * w.val ≤ i ∧ i < 34 + 4 * w.val)) := by
  have key : ∀ w : Fin 2, ∀ i : Fin 40,
      (((List.range 4).map (30 + 4 * w.val + ·)).foldl (fun acc d => acc ||| (1#40 <<< d)) 0#40).getLsbD i.val =
        decide (30 + 4 * w.val ≤ i.val ∧ i.val < 34 + 4 * w.val) := by decide
  unfold State.markDies
  dsimp only
  rw [BitVec.getLsbD_or]
  exact congrArg (s.dieFail.getLsbD i || ·) (key w ⟨i, hi⟩)

/-- The state in which a lost reference is looked at: the reference is away, and Season of reference 0 unlocked. -/
def State.withoutRefclk (s : State) (w : Fin 2) : State :=
  let t := s.updMgmt fun m => if w = 0 then { m with refclk0 := false } else { m with refclk1 := false }
  if w = 0 then t.updSeason fun z => { z.setLock .unlocked with parent := none } else t

theorem State.refclkLost_stopped (s : State) (w : Fin 2) (h : s.mgmt.state = .haltRefused ∨ s.mgmt.state = .off) :
    s.refclkLost w.val = s.updMgmt fun m => if w = 0 then { m with refclk0 := false } else { m with refclk1 := false } := by
  match w with
  | 0 => simp [State.refclkLost, State.updMgmt, h.symm]
  | 1 => simp [State.refclkLost, State.updMgmt, h.symm]

theorem State.refclkLost_of_running (s : State) (w : Fin 2) (hh : s.mgmt.state ≠ .haltRefused) (ho : s.mgmt.state ≠ .off) :
    s.refclkLost w.val = if s.starting then (s.withoutRefclk w).halt 0x10 w.val
      else (s.withoutRefclk w).failDies ((List.range 4).map (30 + 4 * w.val + ·)) 0x0B
        (lowest ((List.range 4).map (30 + 4 * w.val + ·))) := by
  match w with
  | 0 => simp [State.refclkLost, State.withoutRefclk, State.updMgmt, State.updSeason, State.starting, hh, ho]
  | 1 => simp [State.refclkLost, State.withoutRefclk, State.updMgmt, State.starting, hh, ho]

@[simp] theorem State.withoutRefclk_dieFail (s : State) (w : Fin 2) : (s.withoutRefclk w).dieFail = s.dieFail := by
  unfold State.withoutRefclk
  dsimp only
  split <;> rfl

end Sys2Proof.Machine

open Sys2Proof Sys2Proof.Machine

/-- Settles O14: a failure of each kind is a halt with its cause; what the halt stops and what the rails lose follows from
the rules of each. -/
theorem Sys2Proof.failuresHaltThePackage : Obligations.FailuresHaltThePackage := by
  unfold Obligations.FailuresHaltThePackage
  refine ⟨fun s ho => ⟨fun dies modules l hl hne => ?_, fun k => ?_⟩, fun s c detail d st hc => ⟨fun hon hf => ?_, fun hoff => ?_⟩,
    fun s src => ?_, fun s w => ⟨fun h => ?_, fun hh hoff => ?_, rfl⟩⟩
  · exact ⟨_, exec_dieFailed_of_operational ho hl hne, s.failAny_halted l⟩
  · obtain ⟨hst, hcode, hdet, -, -, hfw⟩ := s.failControl_halted (38 + k.val)
    obtain ⟨hfail, hok, hparts⟩ := s.failControl_dies (38 + k.val)
    obtain ⟨hfail', hok'⟩ := s.markDies_singleton (38 + k.val)
    exact ⟨_, exec_controlDieFailed_of_operational ho k, hst, hcode, hdet, hfail.trans hfail', hok.trans hok', hparts,
      fun hk => hfw (by rw [hk]; rfl)⟩
  · exact ⟨_, exec_supplyFailure hc s hf, s.powerFail_halted hon detail⟩
  · exact exec_supplyFailure_off hc s hoff
  · intro detail
    have hdetail : detail = tripDetail src := by cases src <;> rfl
    clear_value detail
    subst hdetail
    refine ⟨fun hs hp hc hl => ?_, fun hs hp hc hl => ?_, fun hs hp hl => ?_, fun h => ?_⟩
    · obtain ⟨u, hu, hst, hcode, hdet, hlatch, hrails, hmem⟩ :=
        s.thermTrip_halted (tripDetail src) (decide (src ≠ .board)) hs hp hc hl
      refine ⟨_, (exec_thermtrip_tripDetail src s).trans (congrArg Host.Outcome.next hu), ?_⟩
      simp only [State.stopHot_mgmt, State.stopHot_mem]
      exact ⟨hst, hcode, hdet, hlatch, hrails, hmem, fun h38 => by rw [h38]; rfl, fun k hd hk => u.stopHot_steward hd hk⟩
    · refine ⟨_, (exec_thermtrip_tripDetail src s).trans (congrArg Host.Outcome.next (s.thermTrip_cold _ _ hs hp hc hl)), ?_⟩
      simp only [State.stopHot_mgmt, State.stopHot_out]
      refine ⟨rfl, ?_, fun hb => ?_, fun h38 => by rw [h38]; rfl⟩
      · split <;> rfl
      · rw [if_pos (decide_eq_true hb)]
        rfl
    · rw [exec_thermtrip_tripDetail, s.thermTrip_latched _ _ hs hp hl]
      rfl
    · rw [exec_thermtrip_tripDetail, s.thermTrip_unpowered _ _ h]
  · rw [exec_refclkLoss, s.refclkLost_stopped w h]
  · refine ⟨_, exec_refclkLoss w s, ?_⟩
    rw [s.refclkLost_of_running w hh hoff]
    cases hst : s.starting with
    | true => exact ⟨rfl, rfl, fun _ => ⟨rfl, by simp⟩, fun h => nomatch h⟩
    | false =>
      refine ⟨rfl, rfl, fun h => (nomatch h), fun _ i hi => ?_⟩
      simp only [Bool.false_eq_true, if_false]
      rw [State.failDies_dieFail, getLsbD_markDies_refclk _ _ _ hi, State.withoutRefclk_dieFail]

end Failures

/-! ## The inputs of Season (02 R45 to R57, 11 R393, 19 R615) -/

section SeasonInputs

namespace Sys2Proof.Machine

open Sys2Proof

theorem exec_countSync (meas : List (IslandRef × ℤ)) (s : State) : exec (.countSync meas) s = execCountSync meas s := rfl
theorem exec_ppsEdge (s : State) : exec .ppsEdge s = execPpsEdge s := rfl
theorem exec_ppsEdgeLate (s : State) : exec .ppsEdgeLate s = execPpsEdgeLate s := rfl
theorem exec_timerefCountCheck (edges : ℕ) (s : State) :
    exec (.timerefCountCheck edges) s = execTimerefCountCheck edges s := rfl
theorem exec_linkDelayRefresh (s : State) : exec .linkDelayRefresh s = execLinkDelayRefresh s := rfl
theorem exec_holdoverEnd (s : State) : exec .holdoverEnd s = execHoldoverEnd s := rfl
theorem exec_beaconIntervalEnd (n : PortId) (s : State) :
    exec (.beaconIntervalEnd n) s = .next (s.endInterval n.val) := rfl

/-- The count-sync word with every island in step. -/
theorem State.syncCheck_nil (s : State) (h : s.season.islands = []) : s.syncCheck [] = s := by
  simp [State.syncCheck, State.updSeason, h]

/-- One island that is ahead by no more than 4 ticks is slewed back, and its slip is counted. -/
theorem State.syncCheck_singleton (s : State) (i : ℕ) (m : ℤ) (h : s.season.islands = []) (h0 : 0 < m) (h4 : m ≤ 4) :
    s.syncCheck [(i, m)] = s.updSeason fun z => { z with
      islands := [(i, { off := 0, drift := m, slew := -m, lastSlew := z.lastSlew })]
      islandSlips := satAdd z.islandSlips 1 } := by
  have hnear : ¬ 4 < m.natAbs := by omega
  have hne : m ≠ 0 := by omega
  simp [State.syncCheck, State.updSeason, Season.measureIsland, Season.checkIsland, Island.difference, Island.inStep,
    Tab.get, Tab.get?, Tab.put, h, hnear, hne]

/-- REF_PRESENT, which was not shown, is not shown while no reference is complete. -/
theorem State.checkRef_absent (s : State) (hp : s.season.refPresent = false)
    (h : s.season.timerefOk = false ∨ s.season.ppsEdges = []) :
    s.checkRef = s.updSeason fun z => { z with refPresent := false } := by
  rcases h with h | h <;> simp [State.checkRef, hp, h]

/-- A port's part of the refresh of SEA_LINK_DELAY. -/
def State.refreshDelay (s : State) (n : ℕ) : State :=
  let b := (s.port n).beacon
  if b.exchanges = 0 then s
  else
    let mean := b.delaySum.tdiv b.exchanges
    (s.updSeason fun z => { z with linkDelay := Tab.put z.linkDelay n (BitVec.ofInt 32 mean) }).updPort n fun p =>
      { p with beacon := { p.beacon with exchanges := 0, delaySum := 0 } }

theorem State.refreshDelays_eq (s : State) : s.refreshDelays = (List.range 56).foldl State.refreshDelay s := rfl

/-- The port's exchanges have been taken, and its link delay is `v`. -/
structure DelayTaken (s : State) (n : ℕ) (v : BitVec 32) : Prop where
  delay : Tab.get 0 s.season.linkDelay n = v
  exchanges : (s.port n).beacon.exchanges = 0
  sum : (s.port n).beacon.delaySum = 0

theorem State.refreshDelay_self (s : State) (n : ℕ) (h : (s.port n).beacon.exchanges ≠ 0) :
    DelayTaken (s.refreshDelay n) n
      (BitVec.ofInt 32 ((s.port n).beacon.delaySum.tdiv (s.port n).beacon.exchanges)) := by
  unfold State.refreshDelay
  dsimp only
  rw [if_neg h]
  exact ⟨by simp [State.updSeason], by simp, by simp⟩

theorem State.refreshDelay_ne (s : State) {n k : ℕ} (h : n ≠ k) :
    (s.refreshDelay k).port n = s.port n ∧
      Tab.get 0 (s.refreshDelay k).season.linkDelay n = Tab.get 0 s.season.linkDelay n := by
  unfold State.refreshDelay
  dsimp only
  split
  · exact ⟨rfl, rfl⟩
  · exact ⟨State.updPort_port_ne _ _ _ _ h, Tab.get_put_ne _ _ _ _ _ h⟩

/-- A refresh takes the exchanges of a port once. -/
theorem DelayTaken.refreshDelay {s : State} {n : ℕ} {v : BitVec 32} (h : DelayTaken s n v) (k : ℕ) :
    DelayTaken (s.refreshDelay k) n v := by
  by_cases hk : n = k
  · subst hk
    have : s.refreshDelay n = s := by
      unfold State.refreshDelay
      exact if_pos h.exchanges
    rwa [this]
  · obtain ⟨hport, hdelay⟩ := s.refreshDelay_ne hk
    exact ⟨hdelay.trans h.delay, by rw [hport]; exact h.exchanges, by rw [hport]; exact h.sum⟩

theorem DelayTaken.foldl {n : ℕ} {v : BitVec 32} (l : List ℕ) {s : State} (h : DelayTaken s n v) :
    DelayTaken (l.foldl State.refreshDelay s) n v := by
  induction l generalizing s with
  | nil => exact h
  | cons k l ih => exact ih (h.refreshDelay k)

/-- A refresh of the ports of a list takes the mean of each port of it that has had exchanges. -/
theorem foldl_refreshDelay (l : List ℕ) {s : State} {n : ℕ} (hn : n ∈ l) (h : (s.port n).beacon.exchanges ≠ 0) :
    DelayTaken (l.foldl State.refreshDelay s) n
      (BitVec.ofInt 32 ((s.port n).beacon.delaySum.tdiv (s.port n).beacon.exchanges)) := by
  induction l generalizing s with
  | nil => cases hn
  | cons k l ih =>
    by_cases hk : n = k
    · subst hk
      exact (s.refreshDelay_self n h).foldl l
    · obtain ⟨hport, -⟩ := s.refreshDelay_ne hk
      have := ih (s := s.refreshDelay k) ((List.mem_cons.mp hn).resolve_left hk) (by rwa [hport])
      rwa [hport] at this

/-- HOLDOVER that ends with no partition present. -/
theorem State.endHoldover_of_noPartitions (s : State) (h : s.livePartitions = []) :
    s.endHoldover = s.updSeason fun z => z.setLock .unlocked := by
  have hl : (s.updSeason fun z => z.setLock .unlocked).livePartitions = [] := h
  unfold State.endHoldover
  dsimp only
  rw [hl]
  rfl

/-- A beacon interval with an exchange counts no miss. -/
theorem State.endInterval_hit (s : State) (n : ℕ) (hc : s.carries n = true) (hr : portRole n ≠ 2)
    (hx : (s.port n).beacon.intervalExchange = true) :
    ∃ f : Port → Port, s.endInterval n = s.updPort n f ∧ (f (s.port n)).beacon.misses = 0 ∧
      (f (s.port n)).beacon.intervalExchange = false ∧ (f (s.port n)).beaconMiss = (s.port n).beaconMiss := by
  unfold State.endInterval
  rw [if_pos ⟨hc, hr⟩]
  simp only [hx]
  exact ⟨_, if_neg (fun h => nomatch h.1), rfl, rfl, rfl⟩

/-- A beacon interval without an exchange counts a miss; one before the fourth in a row does no more. -/
theorem State.endInterval_miss (s : State) (n : ℕ) (hc : s.carries n = true) (hr : portRole n ≠ 2)
    (hx : (s.port n).beacon.intervalExchange = false) (hm : (s.port n).beacon.misses < 3) :
    ∃ f : Port → Port, s.endInterval n = s.updPort n f ∧
      (f (s.port n)).beacon.misses = (s.port n).beacon.misses + 1 ∧
      (f (s.port n)).beaconMiss = satAdd (s.port n).beaconMiss 1 := by
  unfold State.endInterval
  rw [if_pos ⟨hc, hr⟩]
  simp only [hx]
  refine ⟨_, if_neg fun h => ?_, rfl, rfl⟩
  have h4 := h.2
  rw [State.updPort_port_self] at h4
  exact absurd h4 (by simp; omega)

end Sys2Proof.Machine

open Sys2Proof Sys2Proof.Machine

/-- Settles O15: each input changes Season as the rule of its work says; the refresh by induction on the ports. -/
theorem Sys2Proof.seasonFollowsItsInputs : Obligations.SeasonFollowsItsInputs := by
  unfold Obligations.SeasonFollowsItsInputs
  refine ⟨fun s => ⟨fun hc hm hi => ?_, fun m i hc hm hi hk h0 h4 => ?_, fun ht hr hp ho => ?_, fun a rest ht he hl hp => ?_,
    fun edges ht hp he => ?_, fun ht n hn hx => ?_⟩, fun s => ⟨fun ho hl => ?_, fun n hc hr hx => ?_, fun n hc hr hx hm => ?_⟩⟩
  · rw [exec_countSync, execCountSync, if_pos ⟨hc, hm⟩]
    exact congrArg Host.Outcome.next (s.syncCheck_nil hi)
  · have hl : ([(i, m)].map fun e : IslandRef × ℤ => (IslandRef.no e.1, e.2)).filter (fun e => e.1 ≠ k0Island) =
        [(IslandRef.no i, m)] := by simp [hk]
    have hexec : exec (.countSync [(i, m)]) s = .next (s.syncCheck [(IslandRef.no i, m)]) := by
      rw [exec_countSync, execCountSync, if_pos ⟨hc, hm⟩, hl]
    rw [s.syncCheck_singleton _ m hi h0 h4] at hexec
    exact ⟨_, hexec, rfl, rfl, rfl, rfl⟩
  · have hcheck : (s.updSeason fun z => { z with ppsEdges := (s.time :: z.ppsEdges).take 4 }).checkRef =
        s.updSeason fun z => { z with ppsEdges := (s.time :: z.ppsEdges).take 4, refPresent := false } :=
      State.checkRef_absent _ hp (.inl ho)
    rw [exec_ppsEdge, execPpsEdge, if_pos ht, State.pps]
    dsimp only
    rw [hcheck, if_neg fun h => hr h.1]
  · rw [exec_ppsEdgeLate, execPpsEdgeLate, he]
    dsimp only
    have hcheck : (s.updSeason fun z => { z with ppsEdges := [] }).checkRef =
        s.updSeason fun z => { z with ppsEdges := [], refPresent := false } := State.checkRef_absent _ hp (.inr rfl)
    rw [if_pos ⟨ht, hl⟩, hcheck]
  · have hcheck : (s.updSeason fun z => { z with timerefOk := decide (edges = 10000) }).checkRef =
        s.updSeason fun z => { z with timerefOk := decide (edges = 10000), refPresent := false } :=
      State.checkRef_absent _ hp (.inr he)
    rw [exec_timerefCountCheck, execTimerefCountCheck, if_pos ht, hcheck]
  · have hexec : exec .linkDelayRefresh s = .next ((List.range 56).foldl State.refreshDelay s) := by
      rw [exec_linkDelayRefresh, execLinkDelayRefresh, if_pos ht, State.refreshDelays_eq]
    obtain ⟨hdelay, hexch, hsum⟩ := foldl_refreshDelay (List.range 56) (List.mem_range.mpr hn) hx
    exact ⟨_, hexec, hdelay, hexch, hsum⟩
  · rw [exec_holdoverEnd, execHoldoverEnd, if_pos ho, s.endHoldover_of_noPartitions hl]
  · obtain ⟨f, heq, hmiss, hint, hcount⟩ := s.endInterval_hit n.val hc hr hx
    refine ⟨s.updPort n.val f, by rw [exec_beaconIntervalEnd, heq], ?_⟩
    rw [State.updPort_port_self]
    exact ⟨hmiss, hint, hcount, rfl⟩
  · obtain ⟨f, heq, hmiss, hcount⟩ := s.endInterval_miss n.val hc hr hx hm
    refine ⟨s.updPort n.val f, by rw [exec_beaconIntervalEnd, heq], ?_⟩
    rw [State.updPort_port_self]
    exact ⟨hmiss, hcount, rfl⟩

end SeasonInputs

/-! ## Slots received on a port (11 R365, R369, R376 to R379) -/

section ReceivedSlots

namespace Sys2Proof.Machine

open Sys2Proof

variable {s t u : State} {n : ℕ}

/-- State `t` follows `s` by what the FEC decoder of port `n` counts. -/
structure FecNoted (n : ℕ) (s t : State) : Prop where
  eq : t = { s with ports := t.ports, baro := t.baro }
  other : ∀ m, m ≠ n → t.port m = s.port m
  self : t.port n = { s.port n with fecCorrected := (t.port n).fecCorrected, fecUncorr := (t.port n).fecUncorr }

theorem FecNoted.trans (h : FecNoted n s t) (k : FecNoted n t u) : FecNoted n s u :=
  ⟨by rw [k.eq, h.eq], fun m hm => (k.other m hm).trans (h.other m hm), by rw [k.self, h.self]⟩

@[simp] theorem State.noteLinkErrors_port (s : State) (n k m : ℕ) : (s.noteLinkErrors n k).port m = s.port m := rfl

theorem fecNoted_noteWord (s : State) (n : ℕ) (c : LaneWord) : FecNoted n s (s.noteWord n c) := by
  unfold State.noteWord
  split
  · exact ⟨rfl, fun _ _ => rfl, rfl⟩
  · exact ⟨rfl, fun m hm => State.updPort_port_ne _ _ _ _ hm, by rw [State.updPort_port_self]⟩
  · exact ⟨rfl, fun m hm => by rw [State.noteLinkErrors_port, State.updPort_port_ne _ _ _ _ hm],
      by rw [State.noteLinkErrors_port, State.updPort_port_self]⟩

theorem fecNoted_foldl (l : List LaneWord) (s : State) (n : ℕ) :
    FecNoted n s (l.foldl (fun s c => s.noteWord n c) s) := by
  induction l generalizing s with
  | nil => exact ⟨rfl, fun _ _ => rfl, rfl⟩
  | cons c l ih => exact (fecNoted_noteWord s n c).trans (ih _)

theorem fecNoted_noteFec (s : State) (n : ℕ) (w : Slot) : FecNoted n s (s.noteFec n w) := fecNoted_foldl _ _ _

@[simp] theorem State.noteFec_mgmt (s : State) (n : ℕ) (w : Slot) : (s.noteFec n w).mgmt = s.mgmt := by
  rw [(fecNoted_noteFec s n w).eq]
@[simp] theorem State.noteFec_season (s : State) (n : ℕ) (w : Slot) : (s.noteFec n w).season = s.season := by
  rw [(fecNoted_noteFec s n w).eq]
@[simp] theorem State.noteFec_fabric (s : State) (n : ℕ) (w : Slot) : (s.noteFec n w).fabric = s.fabric := by
  rw [(fecNoted_noteFec s n w).eq]
@[simp] theorem State.noteFec_selfId (s : State) (n : ℕ) (w : Slot) : (s.noteFec n w).selfId = s.selfId := by
  rw [(fecNoted_noteFec s n w).eq]
@[simp] theorem State.noteFec_open (s : State) (n m : ℕ) (w : Slot) :
    ((s.noteFec n w).port m).open_ = (s.port m).open_ := by
  by_cases h : m = n
  · rw [h, (fecNoted_noteFec s n w).self]
  · rw [(fecNoted_noteFec s n w).other m h]
@[simp] theorem State.noteFec_state (s : State) (n m : ℕ) (w : Slot) :
    ((s.noteFec n w).port m).state = (s.port m).state := by
  by_cases h : m = n
  · rw [h, (fecNoted_noteFec s n w).self]
  · rw [(fecNoted_noteFec s n w).other m h]
@[simp] theorem State.noteFec_moves (s : State) (n : ℕ) (w : Slot) : (s.noteFec n w).moves = s.moves := by
  simp [State.moves]
@[simp] theorem State.noteFec_framed (s : State) (n m : ℕ) (w : Slot) : (s.noteFec n w).framed m = s.framed m := by
  simp [State.framed]
@[simp] theorem State.noteFec_carries (s : State) (n m : ℕ) (w : Slot) : (s.noteFec n w).carries m = s.carries m := by
  simp [State.carries]

/-- A port that carries packets has framed its stream. -/
theorem State.framed_of_carries (h : s.carries n = true) : s.framed n = true := by
  obtain ⟨hm, hu⟩ := Bool.and_eq_true_iff.mp h
  simp only [State.framed, hm, Bool.true_and, hu, Bool.true_or]

/-- A slot of its command's class on a framed port. -/
theorem State.receive_framed {w : Slot} {cls : Option ℕ} {f : State → State} (hf : s.framed n = true)
    (hc : slotClass (s.port n).quick w = cls) : s.receive n w cls f = f (s.noteFec n w) := by
  unfold State.receive
  rw [if_pos hc, if_pos hf]

/-- With no open packet a header flit ends none. -/
theorem State.cutShort_of_noOpen (h : (s.port n).open_ = none) (k : ℕ) : s.cutShort n k = s := by
  cases k with
  | zero => rfl
  | succ k =>
    unfold State.cutShort
    rw [h]

theorem State.header_good {f : Flit} {f' : State → State} (ho : (s.port n).open_ = none)
    (hb : badLinkWord f = false) : s.header n f false f' = f' s := by
  unfold State.header
  rw [State.cutShort_of_noOpen ho]
  exact if_neg (by simp [hb])

theorem State.header_bad {f : Flit} {bad : Bool} {f' : State → State} (ho : (s.port n).open_ = none)
    (hb : badLinkWord f = true ∨ bad = true) : s.header n f bad f' = s.countProto n := by
  unfold State.header
  rw [State.cutShort_of_noOpen ho]
  exact if_pos hb

/-- A header flit of a kind has its effect on a port that is UP. -/
theorem State.rxKind_good {f : Flit} {kind : ℕ} {f' : State → State} (hc : s.carries n = true)
    (ho : (s.port n).open_ = none) (hk : kindOf f = kind) (hb : badLinkWord f = false) :
    s.rxKind n kind f false f' = f' s := by
  unfold State.rxKind
  rw [if_pos ⟨State.framed_of_carries hc, hk⟩, State.header_good ho hb, if_pos hc]

/-- An open packet that lacks flits goes on. -/
theorem State.endIfFull_of_short {o : OpenPkt} (h : (s.port n).open_ = some o) (hl : o.flits.length < o.expect) :
    s.endIfFull n = s := by
  unfold State.endIfFull
  rw [h]
  exact if_neg (by omega)

end Sys2Proof.Machine

end ReceivedSlots

/-! ## Packets that open (11 R369, R377) -/

section OpenedPackets

namespace Sys2Proof.Machine

open Sys2Proof

variable {s : State} {n : ℕ}

theorem exec_packet (n : PortId) (w : Slot) (s : State) : exec (.packet n w) s = execPacket n w s := rfl
theorem exec_dataFlit (n : PortId) (w : Slot) (s : State) : exec (.dataFlit n w) s = execDataFlit n w s := rfl
theorem exec_stompedFlit (n : PortId) (w : Slot) (s : State) : exec (.stompedFlit n w) s = execStompedFlit n w s := rfl
theorem exec_badSlot (n : PortId) (w : Slot) (s : State) : exec (.badSlot n w) s = execBadSlot n w s := rfl

theorem State.rxData_orphan (hf : s.framed n = true) (ho : (s.port n).open_ = none) (f : Flit) :
    s.rxData n f = s.noteOrphan n := by
  simp [State.rxData, hf, ho]

theorem State.rxStomped_orphan (hf : s.framed n = true) (ho : (s.port n).open_ = none) :
    s.rxStomped n = s.noteOrphan n := by
  simp [State.rxStomped, hf, ho]

theorem State.rxBad_noOpen (hf : s.framed n = true) (ho : (s.port n).open_ = none) :
    s.rxBad n = (s.updPort n fun p => { p with crcDiscard := satAdd p.crcDiscard 1 }).noteLinkErrors n 1 := by
  have h : (((s.updPort n fun p => { p with crcDiscard := satAdd p.crcDiscard 1 }).noteLinkErrors n 1).port n).open_ =
      none := by
    rw [State.noteLinkErrors_port, State.updPort_port_self]
    exact ho
  unfold State.rxBad
  rw [hf]
  dsimp only
  rw [if_neg (by decide), h]

/-- A data flit of an open packet that is not forwarded, before its last. -/
theorem State.rxData_next {o : OpenPkt} (hf : s.framed n = true) (ho : (s.port n).open_ = some o)
    (hfw : o.forward = none) (hl : o.flits.length + 1 < o.expect) (f : Flit) :
    s.rxData n f = s.updPort n fun p => { p with open_ := some { o with flits := o.flits ++ [f] } } := by
  unfold State.rxData
  simp only [hf, ho, hfw, Bool.not_true, Bool.false_eq_true, if_false]
  refine State.endIfFull_of_short (o := { o with flits := o.flits ++ [f] }) ?_ ?_
  · rw [State.updPort_port_self, hfw]
  · rwa [List.length_append, List.length_singleton]

/-- A stomped flit of such a packet. -/
theorem State.rxStomped_next {o : OpenPkt} (hf : s.framed n = true) (ho : (s.port n).open_ = some o)
    (hfw : o.forward = none) (hl : o.flits.length + 1 < o.expect) :
    s.rxStomped n =
      s.updPort n fun p => { p with open_ := some { o with flits := o.flits ++ [0], stomped := true } } := by
  unfold State.rxStomped State.stompSlot
  simp only [hf, ho, hfw, Bool.not_true, Bool.false_eq_true, if_false]
  refine State.endIfFull_of_short (o := { o with flits := o.flits ++ [0], stomped := true }) ?_ ?_
  · rw [State.updPort_port_self, hfw]
  · rwa [List.length_append, List.length_singleton]

/-- A header of a refused kind or bit is counted. -/
theorem State.rxPacket_bad {f : Flit} (hf : s.framed n = true) (ho : (s.port n).open_ = none)
    (hk : kindOf f = 0 ∨ kindOf f > 5) (hb : badLinkWord f = true) : s.rxPacket n f = s.countProto n := by
  unfold State.rxPacket
  rcases hk with hk | hk
  · rw [if_neg (by omega), State.rxKind, if_pos ⟨hf, hk⟩, State.header_bad ho (.inl hb)]
  · rw [if_pos hk, if_pos hf, State.header_bad ho (.inl hb)]

/-! ### What the telemetry of headers leaves of the ports -/

theorem State.noteAnem_ports (s : State) (sel : ℕ → Bool) (f : Anem → Anem) : (s.noteAnem sel f).ports = s.ports := rfl

theorem State.wvNote_ports (s : State) (p n : ℕ) (sent : Bool) (f : Flit) : (s.wvNote p n sent f).ports = s.ports := by
  have hmem : ∀ {u t : State}, MemFrame u t → t.ports = u.ports := fun h => h.same (·.ports) (by intros; rfl)
  unfold State.wvNote
  dsimp only
  split
  · rfl
  · split
    · rfl
    · generalize hu : s.updFabric _ = u
      have hports : u.ports = s.ports := by rw [← hu]; rfl
      rw [← hports]
      split
      · next e => exact hmem (MemFrame.sndOfEq e (MemFrame.refl u).peek)
      · next e =>
        have hpeek := MemFrame.sndOfEq e (MemFrame.refl u).peek
        split
        · exact hmem hpeek.poke
        · exact hmem hpeek.poke.poke

theorem State.noteHeader_ports (s : State) (n : ℕ) (sent : Bool) (f : Flit) :
    (s.noteHeader n sent f).ports = s.ports := by
  have hfold : ∀ (l : List ℕ) (u : State), (l.foldl (fun s p => s.wvNote p n sent f) u).ports = u.ports := by
    intro l
    induction l with
    | nil => exact fun _ => rfl
    | cons p l ih => exact fun u => (ih _).trans (u.wvNote_ports p n sent f)
  exact (hfold _ _).trans (s.noteAnem_ports _ _)

@[simp] theorem State.noteHeader_port (s : State) (n m : ℕ) (sent : Bool) (f : Flit) :
    (s.noteHeader n sent f).port m = s.port m := by
  simp [State.port, State.noteHeader_ports]

theorem State.sendFlit_ports (s : State) (n : ℕ) (f : Flit) (cls : ℕ) : (s.sendFlit n f cls).ports = s.ports := by
  unfold State.sendFlit
  split <;> rfl

@[simp] theorem State.sendFlit_port (s : State) (n m : ℕ) (f : Flit) (cls : ℕ) :
    (s.sendFlit n f cls).port m = s.port m := by
  simp [State.port, State.sendFlit_ports]

theorem State.noteDepth_port (s : State) (n m : ℕ) : (s.noteDepth n).port m = s.port m := by
  rw [State.port, State.noteDepth, State.noteAnem_ports]
  rfl

/-- An open packet with no flits yet may go on: it stays open, and what was received of its channel stays. -/
theorem State.startCut_open {o : OpenPkt} (ho : (s.port n).open_ = some o) (hfl : o.flits = []) :
    (∃ fw, ((s.startCut n).port n).open_ = some { o with forward := fw }) ∧
      ((s.startCut n).port n).pseqRx = (s.port n).pseqRx := by
  unfold State.startCut
  rw [ho]
  dsimp only
  split
  · exact ⟨⟨o.forward, ho⟩, rfl⟩
  · next m _ =>
    rw [hfl, List.foldl_nil, State.updPort_port_self, ← hfl]
    refine ⟨⟨some m, rfl⟩, ?_⟩
    simp only [State.noteHeader_port, State.sendFlit_port]
    by_cases h : n = m
    · rw [h, State.updPort_port_self]
    · rw [State.updPort_port_ne _ _ _ _ h]

/-- A header of a packet with data opens it. -/
theorem State.openPacket_open (s : State) (n : ℕ) (f : Flit) (hd : dflitsOf f ≠ 0) :
    ∃ o, ((s.openPacket n f).port n).open_ = some o ∧ o.header = f ∧ o.vc = vcIn f ∧ o.expect = dflitsOf f ∧
      o.flits = [] ∧ o.stomped = false ∧
      Tab.get 0 ((s.openPacket n f).port n).pseqRx (vcIn f) = BitVec.ofNat 16 (pseqIn f) := by
  unfold State.openPacket
  extract_lets vc q s1 s2 s3 s4
  have hopen : (s4.port n).open_ = some ⟨f, vc, dflitsOf f, [], false, none⟩ := by
    rw [State.updPort_port_self]
  have hseq : Tab.get 0 (s4.port n).pseqRx vc = q := by
    rw [State.updPort_port_self, State.noteHeader_port, State.updPort_port_self]
    exact Tab.get_put_self ..
  obtain ⟨⟨fw, hcut⟩, hcutSeq⟩ := State.startCut_open hopen rfl
  have hdepth := State.noteDepth_port (s4.startCut n) n n
  have hend : ((s4.startCut n).noteDepth n).endIfFull n = (s4.startCut n).noteDepth n :=
    State.endIfFull_of_short (o := ⟨f, vc, dflitsOf f, [], false, fw⟩) (by rw [hdepth]; exact hcut) (Nat.pos_of_ne_zero hd)
  rw [hend, hdepth, hcutSeq]
  exact ⟨_, hcut, rfl, rfl, rfl, rfl, rfl, hseq⟩

end Sys2Proof.Machine

open Sys2Proof Sys2Proof.Machine

/-- Settles O16: a slot of its command's class has the effect of its class, by whether a packet is open. -/
theorem Sys2Proof.receivedFlitsAreAccounted : Obligations.ReceivedFlitsAreAccounted := by
  unfold Obligations.ReceivedFlitsAreAccounted
  refine ⟨fun n s w hf ho => ?_, fun n s w o hf ho hfw hl => ?_⟩
  · have hf' : (s.noteFec n.val w).framed n.val = true := by simpa using hf
    have ho' : ((s.noteFec n.val w).port n.val).open_ = none := by simpa using ho
    refine ⟨fun hc => ?_, fun hc => ?_, fun hc => ?_, fun hc hk hb => ?_, fun hc hup hk hb hd => ?_⟩
    · rw [exec_dataFlit, execDataFlit, State.receive_framed hf hc, State.rxData_orphan hf' ho']
      rfl
    · rw [exec_stompedFlit, execStompedFlit, State.receive_framed hf hc, State.rxStomped_orphan hf' ho']
      rfl
    · rw [exec_badSlot, execBadSlot, State.receive_framed hf hc, State.rxBad_noOpen hf' ho']
    · rw [exec_packet, execPacket, State.receive_framed hf hc, State.rxPacket_bad hf' ho' hk hb]
      rfl
    · have hexec : exec (.packet n w) s = .next ((s.noteFec n.val w).openPacket n.val w.flit) := by
        rw [exec_packet, execPacket, State.receive_framed hf hc, State.rxPacket, if_neg (by omega),
          State.rxKind_good (by simpa using hup) ho' hk hb]
      obtain ⟨o, hopen⟩ := (s.noteFec n.val w).openPacket_open n.val w.flit hd
      exact ⟨_, o, hexec, hopen⟩
  · have hf' : (s.noteFec n.val w).framed n.val = true := by simpa using hf
    have ho' : ((s.noteFec n.val w).port n.val).open_ = some o := by simpa using ho
    refine ⟨fun hc => ?_, fun hc => ?_⟩
    · rw [exec_dataFlit, execDataFlit, State.receive_framed hf hc, State.rxData_next hf' ho' hfw hl]
    · rw [exec_stompedFlit, execStompedFlit, State.receive_framed hf hc, State.rxStomped_next hf' ho' hfw hl]

end OpenedPackets

/-! ## Link flits received (11 R374, R375, R389, R393) -/

section LinkFlits

namespace Sys2Proof.Machine

open Sys2Proof

variable {s t u : State} {n : ℕ}

theorem exec_idle (n : PortId) (w : Slot) (s : State) :
    exec (.idle n w) s = .next (s.receive n.val w (some 0) fun s => s.rxIdle n.val w.flit) := rfl
theorem exec_credit (n : PortId) (w : Slot) (s : State) :
    exec (.credit n w) s = .next (s.receive n.val w (some 0) fun s => s.rxCredit n.val w.flit) := rfl
theorem exec_beacon (n : PortId) (w : Slot) (rx : BitVec 4) (s : State) :
    exec (.beacon n w rx) s = .next (s.receive n.val w (some 0) fun s => s.rxBeacon n.val w.flit rx.toNat) := rfl
theorem exec_discovery (n : PortId) (w : Slot) (s : State) :
    exec (.discovery n w) s = .next (s.receive n.val w (some 0) fun s => s.rxDiscovery n.val w.flit) := rfl
theorem exec_marker (n : PortId) (m : MarkerSlot) (s : State) : exec (.marker n m) s = execMarker n m s := rfl
theorem exec_creditSend (n : PortId) (s : State) : exec (.creditSend n) s = .next (s.txCredit n.val) := rfl
theorem exec_beaconSend (n : PortId) (fr : BitVec 4) (s : State) :
    exec (.beaconSend n fr) s = .next (s.txBeacon n.val fr.toNat) := rfl
theorem exec_discoverySend (n : PortId) (s : State) : exec (.discoverySend n) s = .next (s.txDiscovery n.val) := rfl
theorem exec_markerSend (n : PortId) (s : State) : exec (.markerSend n) s = .next (s.txMarker n.val) := rfl
theorem exec_loseLock (l : LockLoss) (s : State) : exec (.loseLock l) s = .next (s.loseLock l.port.val l.lanes) := rfl
theorem exec_peerSignalDetected (n : PortId) (s : State) :
    exec (.peerSignalDetected n) s = .next (s.peerSignal n.val) := rfl
theorem exec_fabPortRetrain (n : PortId) (s : State) : exec (.fabPortRetrain n) s = .next (s.fullRetrain n.val) := rfl
theorem exec_portTrainingDone (n : PortId) (good peerQuick : Bool) (r : TrainReport) (s : State) :
    exec (.portTrainingDone n good peerQuick r) s = .next (s.trained n.val good peerQuick r) := rfl
theorem exec_trainingTimeout (n : PortId) (s : State) : exec (.trainingTimeout n) s = .next (s.fullTimeout n.val) := rfl
theorem exec_fastRetrainTimeout (n : PortId) (s : State) :
    exec (.fastRetrainTimeout n) s = .next (s.fastTimeout n.val) := rfl

/-! ### IDLE -/

/-- State `t` follows `s` by packet counts that port `n` has taken. -/
structure CountsTaken (n : ℕ) (s t : State) : Prop where
  eq : t = { s with ports := t.ports }
  other : ∀ m, m ≠ n → t.port m = s.port m
  self : { t.port n with pseqRx := (s.port n).pseqRx, freed := (s.port n).freed } = s.port n

/-- What port `n` holds of channel `vc` is the same. -/
def SameCounts (n vc : ℕ) (s t : State) : Prop :=
  Tab.get 0 (t.port n).pseqRx vc = Tab.get 0 (s.port n).pseqRx vc ∧
    Tab.get 0 (t.port n).freed vc = Tab.get 0 (s.port n).freed vc

/-- Port `n` has taken count `q` of channel `vc`: packets that it has not seen count as freed. -/
def CountTaken (n vc : ℕ) (q : BitVec 16) (s t : State) : Prop :=
  let miss := q - Tab.get 0 (s.port n).pseqRx vc
  (miss.toNat < 32768 → Tab.get 0 (t.port n).pseqRx vc = q ∧
    Tab.get 0 (t.port n).freed vc = Tab.get 0 (s.port n).freed vc + miss) ∧
  (32768 ≤ miss.toNat → SameCounts n vc s t)

theorem CountsTaken.refl (n : ℕ) (s : State) : CountsTaken n s s := ⟨rfl, fun _ _ => rfl, rfl⟩

theorem CountsTaken.trans (h : CountsTaken n s t) (k : CountsTaken n t u) : CountsTaken n s u := by
  refine ⟨by rw [k.eq, h.eq], fun m hm => (k.other m hm).trans (h.other m hm), ?_⟩
  rw [← h.self, ← k.self]

/-- The two updates of a count that is taken. -/
theorem State.catchUp_taken (s : State) (hn : n < 56) (vc : ℕ) (q : BitVec 16)
    (h : (q - Tab.get 0 (s.port n).pseqRx vc).toNat < 32768) :
    s.catchUp n vc q = s.updPort n fun p => { p with
      freed := Tab.put p.freed vc (Tab.get 0 p.freed vc + (q - Tab.get 0 (s.port n).pseqRx vc))
      pseqRx := Tab.put p.pseqRx vc q } := by
  unfold State.catchUp
  dsimp only
  rw [if_pos h, State.freeBuffers, if_pos hn, State.updPort_updPort, BitVec.ofNat_toNat, BitVec.setWidth_eq]

theorem State.catchUp_old (s : State) (vc : ℕ) (q : BitVec 16)
    (h : ¬ (q - Tab.get 0 (s.port n).pseqRx vc).toNat < 32768) : s.catchUp n vc q = s := by
  unfold State.catchUp
  exact if_neg h

theorem State.countsTaken_catchUp (s : State) (hn : n < 56) (vc : ℕ) (q : BitVec 16) :
    CountsTaken n s (s.catchUp n vc q) := by
  by_cases h : (q - Tab.get 0 (s.port n).pseqRx vc).toNat < 32768
  · rw [s.catchUp_taken hn vc q h]
    exact ⟨rfl, fun m hm => State.updPort_port_ne _ _ _ _ hm, by rw [State.updPort_port_self]⟩
  · rw [s.catchUp_old vc q h]
    exact .refl n s

theorem State.countTaken_catchUp (s : State) (hn : n < 56) (vc : ℕ) (q : BitVec 16) :
    CountTaken n vc q s (s.catchUp n vc q) := by
  refine ⟨fun h => ?_, fun h => ?_⟩
  · rw [s.catchUp_taken hn vc q h, State.updPort_port_self]
    exact ⟨Tab.get_put_self .., Tab.get_put_self ..⟩
  · rw [s.catchUp_old vc q (by omega)]
    exact ⟨rfl, rfl⟩

theorem State.sameCounts_catchUp (s : State) (hn : n < 56) {vc v : ℕ} (hv : v ≠ vc) (q : BitVec 16) :
    SameCounts n v s (s.catchUp n vc q) := by
  by_cases h : (q - Tab.get 0 (s.port n).pseqRx vc).toNat < 32768
  · rw [s.catchUp_taken hn vc q h, SameCounts, State.updPort_port_self]
    exact ⟨Tab.get_put_ne _ _ _ _ _ hv, Tab.get_put_ne _ _ _ _ _ hv⟩
  · rw [s.catchUp_old vc q h]
    exact ⟨rfl, rfl⟩

theorem SameCounts.trans {vc : ℕ} (h : SameCounts n vc s t) (k : SameCounts n vc t u) : SameCounts n vc s u :=
  ⟨k.1.trans h.1, k.2.trans h.2⟩

theorem CountTaken.of_same {vc : ℕ} {q : BitVec 16} (h : SameCounts n vc s t) (k : CountTaken n vc q t u) :
    CountTaken n vc q s u := by
  obtain ⟨hseq, hfreed⟩ := h
  unfold CountTaken SameCounts at *
  rwa [hseq, hfreed] at k

theorem CountTaken.same {vc : ℕ} {q : BitVec 16} (h : CountTaken n vc q s t) (k : SameCounts n vc t u) :
    CountTaken n vc q s u := by
  obtain ⟨hseq, hfreed⟩ := k
  unfold CountTaken SameCounts at *
  rwa [hseq, hfreed]

/-- Counts of a list of channels, each named once. -/
theorem State.foldl_catchUp (f : Flit) (hn : n < 56) (l : List ℕ) (hl : l.Nodup) (s : State) :
    CountsTaken n s (l.foldl (fun s vc => s.catchUp n vc (countsOf f vc)) s) ∧
      (∀ v ∉ l, SameCounts n v s (l.foldl (fun s vc => s.catchUp n vc (countsOf f vc)) s)) ∧
      ∀ v ∈ l, CountTaken n v (countsOf f v) s (l.foldl (fun s vc => s.catchUp n vc (countsOf f vc)) s) := by
  induction l generalizing s with
  | nil => exact ⟨.refl n s, fun _ _ => ⟨rfl, rfl⟩, fun v hv => nomatch hv⟩
  | cons vc l ih =>
    obtain ⟨hvc, hl⟩ := List.nodup_cons.mp hl
    obtain ⟨hframe, hout, hin⟩ := ih hl (s.catchUp n vc (countsOf f vc))
    refine ⟨(s.countsTaken_catchUp hn vc _).trans hframe, fun v hv => ?_, fun v hv => ?_⟩
    · obtain ⟨hne, hnot⟩ := not_or.mp (mt List.mem_cons.mpr hv)
      exact (s.sameCounts_catchUp hn hne _).trans (hout v hnot)
    · by_cases he : v = vc
      · subst he
        exact (s.countTaken_catchUp hn v _).same (hout v hvc)
      · exact .of_same (s.sameCounts_catchUp hn he _) (hin v ((List.mem_cons.mp hv).resolve_left he))

/-! ### CREDIT -/

theorem Tab.get_foldl_put {α : Type} (d : α) (g : ℕ → α) (l : List ℕ) (t : List (ℕ × α)) (k : ℕ)
    (h : k ∈ l ∨ Tab.get d t k = g k) : Tab.get d (l.foldl (fun t v => Tab.put t v (g v)) t) k = g k := by
  induction l generalizing t with
  | nil => exact h.resolve_left List.not_mem_nil
  | cons v l ih =>
    refine ih _ ?_
    by_cases hk : k = v
    · exact .inr (by rw [hk, Tab.get_put_self])
    · rw [Tab.get_put_ne _ _ _ _ _ hk]
      exact h.imp_left fun hm => (List.mem_cons.mp hm).resolve_left hk

theorem State.startCut_of_noOpen (h : (s.port n).open_ = none) : s.startCut n = s := by
  unfold State.startCut
  rw [h]

/-- Nothing leaves on a port for which nothing waits. -/
theorem State.freePort_idle (hq : ∀ o ∈ s.fabric.outQ, o.port ≠ n) (ho : ∀ m, (s.port m).open_ = none) (k : ℕ) :
    s.freePort n k = s := by
  have hdrain : s.drainPort n k = s := by
    cases k with
    | zero => rfl
    | succ k =>
      unfold State.drainPort
      rw [List.find?_eq_none.mpr fun o h => by simp [hq o h]]
  have hfold : ∀ l : List ℕ, l.foldl State.startCut s = s := by
    intro l
    induction l with
    | nil => rfl
    | cons m l ih => rw [List.foldl_cons, State.startCut_of_noOpen (ho m), ih]
  unfold State.freePort
  dsimp only
  rw [hdrain, hfold]

/-! ### The choice of the source -/

/-- State `t` differs from `s` in the Season registers at most. -/
def SeasonOnly (s t : State) : Prop := t = { s with season := t.season }

theorem SeasonOnly.refl (s : State) : SeasonOnly s s := rfl

theorem SeasonOnly.updSeason (h : SeasonOnly s t) (f : Season → Season) : SeasonOnly s (t.updSeason f) := by
  unfold SeasonOnly at *
  rw [h]
  rfl

theorem seasonOnly_becomeMaster (s : State) (role : BitVec 2) : SeasonOnly s (s.becomeMaster role) :=
  (SeasonOnly.refl s).updSeason _

theorem seasonOnly_follow (s : State) (n hops : ℕ) (h : n < 56) : SeasonOnly s (s.follow n hops h) := by
  unfold State.follow
  exact (SeasonOnly.refl s).updSeason _

theorem seasonOnly_loseSource (s : State) : SeasonOnly s s.loseSource := (SeasonOnly.refl s).updSeason _

theorem seasonOnly_electTray (s : State) : SeasonOnly s s.electTray := by
  unfold State.electTray
  dsimp only
  split
  · split
    · exact seasonOnly_becomeMaster ..
    · split
      · exact seasonOnly_follow ..
      · exact .refl s
  · split
    · exact seasonOnly_becomeMaster ..
    · exact (seasonOnly_loseSource s).updSeason _

theorem seasonOnly_electSystem (s : State) : SeasonOnly s s.electSystem := by
  unfold State.electSystem
  dsimp only
  split
  · exact seasonOnly_becomeMaster ..
  · split
    · exact seasonOnly_becomeMaster ..
    · split
      · split
        · exact seasonOnly_follow ..
        · exact .refl s
      · exact .refl s

theorem seasonOnly_elect (s : State) : SeasonOnly s s.elect := by
  unfold State.elect
  split
  · exact .refl s
  · split
    · exact seasonOnly_electTray s
    · exact seasonOnly_electSystem s

theorem seasonOnly_loseParent (s : State) (n : ℕ) : SeasonOnly s (s.loseParent n) := by
  unfold State.loseParent
  split
  · rw [SeasonOnly, seasonOnly_elect s.loseSource, seasonOnly_loseSource s]
  · exact .refl s

theorem State.elect_ports (s : State) : s.elect.ports = s.ports := by rw [seasonOnly_elect s]
theorem State.loseParent_ports (s : State) (n : ℕ) : (s.loseParent n).ports = s.ports := by
  rw [seasonOnly_loseParent s n]

theorem SeasonOnly.withBaro (h : SeasonOnly s t) : t = { s with season := t.season, baro := t.baro } := by
  have hb : t.baro = s.baro := by rw [h]
  rw [hb]
  exact h

theorem State.elect_of_noSelf (h : s.selfId = none) : s.elect = s := by
  simp [State.elect, h]

theorem State.measured_eq (s : State) (off : ℤ) :
    s.measured off = { s with season := (s.measured off).season, baro := (s.measured off).baro } := by
  unfold State.measured
  split <;> rfl

end Sys2Proof.Machine

end LinkFlits

/-! ## What a port receives, sends and trains (11 R367, R373 to R393) -/

section LinkEffects

namespace Sys2Proof.Machine

open Sys2Proof

variable {s t u : State} {n : ℕ}

/-! ### BEACON -/

/-- What a beacon tells the port that it arrives on. -/
structure BeaconHeard (n : ℕ) (f : Flit) (s t : State) : Prop where
  eq : t = { s with ports := t.ports, season := t.season, baro := t.baro }
  other : ∀ m, m ≠ n → t.port m = s.port m
  self : { t.port n with beacon := (s.port n).beacon } = s.port n
  season : s.selfId = none → s.season.parent = none → t.season = s.season
  heard : (t.port n).beacon.heard = true
  priority : (t.port n).beacon.peerPriority = BitVec.ofNat 8 (ffld f 5 7 0)
  master : (t.port n).beacon.peerMaster = BitVec.ofNat 15 (ffld f 6 14 0)
  hops : (t.port n).beacon.peerHops = BitVec.ofNat 8 (ffld f 34 7 0)
  role : (t.port n).beacon.peerRole = BitVec.ofNat 2 (ffld f 35 1 0)

/-- What a port keeps of a beacon of its peer, and of the exchange that it makes. -/
def BeaconState.take (b : BeaconState) (f : Flit) (t3 t4 : ℕ) (ex : Option (ℤ × ℤ)) : BeaconState :=
  let b := { b with
    lastRxTx := t3, lastRxAt := t4, heard := true, peerPriority := BitVec.ofNat 8 (ffld f 5 7 0)
    peerMaster := BitVec.ofNat 15 (ffld f 6 14 0), peerHops := BitVec.ofNat 8 (ffld f 34 7 0)
    peerRole := BitVec.ofNat 2 (ffld f 35 1 0) }
  match ex with
  | some (d, _) => { b with exchanges := b.exchanges + 1, delaySum := b.delaySum + d, intervalExchange := true }
  | none => b

theorem beaconHeard_take (s : State) (n : ℕ) (f : Flit) (t3 t4 : ℕ) (ex : Option (ℤ × ℤ)) :
    BeaconHeard n f s (s.updPort n fun p => { p with beacon := BeaconState.take p.beacon f t3 t4 ex }) := by
  refine ⟨rfl, fun m hm => State.updPort_port_ne _ _ _ _ hm, ?_, fun _ _ => rfl, ?_, ?_, ?_, ?_, ?_⟩ <;>
    rw [State.updPort_port_self] <;> cases ex <;> rfl

/-- A state that differs in Season and the Barometer has heard the same. -/
theorem BeaconHeard.of_eq {f : Flit} (h : BeaconHeard n f s t)
    (hu : u = { t with season := u.season, baro := u.baro })
    (hs : t.selfId = none → t.season.parent = none → u.season = t.season) : BeaconHeard n f s u := by
  have hport : ∀ m, u.port m = t.port m := fun m => by rw [hu]; rfl
  have hself : t.selfId = s.selfId := by rw [h.eq]
  refine ⟨by rw [hu, h.eq], fun m hm => (hport m).trans (h.other m hm), by rw [hport]; exact h.self, fun h1 h2 => ?_,
    by rw [hport]; exact h.heard, by rw [hport]; exact h.priority, by rw [hport]; exact h.master,
    by rw [hport]; exact h.hops, by rw [hport]; exact h.role⟩
  have ht := h.season h1 h2
  exact (hs (hself.trans h1) (by rw [ht]; exact h2)).trans ht

/-- The choice of the source, and the measurement of the offset, after a beacon. -/
theorem State.rxBeacon_heard (f : Flit) (rx : ℕ) (hc : s.carries n = true) (hr : portRole n ≠ 2)
    (ho : (s.port n).open_ = none) (hk : kindOf f = 3) (hb : badLinkWord f = false) (h1 : ffld f 6 15 15 = 0)
    (h2 : ffld f 33 7 3 = 0) (h3 : ffld f 35 7 2 = 0) (h4 : ffld f 36 15 15 = 0) :
    BeaconHeard n f s (s.rxBeacon n f rx) := by
  unfold State.rxBeacon
  simp only [h1, h2, h3, h4, ne_eq, not_true_eq_false, decide_false, Bool.or_false]
  rw [State.rxKind_good hc ho hk hb, if_neg hr]
  generalize (s.port n).beacon.exchange _ _ _ _ = ex
  have htake := beaconHeard_take s n f (ffld f 8 63 0 * 16 + ffld f 4 3 0) (s.now * 16 + rx % 16) ex
  have helect := htake.of_eq (u := (s.updPort n fun p =>
      { p with beacon := BeaconState.take p.beacon f (ffld f 8 63 0 * 16 + ffld f 4 3 0) (s.now * 16 + rx % 16) ex }).elect)
    (seasonOnly_elect _).withBaro (fun hid _ => by rw [State.elect_of_noSelf hid])
  cases ex with
  | none => exact helect
  | some e =>
    obtain ⟨d, off⟩ := e
    dsimp only
    split
    · next hp =>
      refine helect.of_eq (State.measured_eq _ _) fun _ hnone => ?_
      have hbad : (none : Option ℕ) = some n := (congrArg (Option.map Fin.val) hnone).symm.trans hp
      cases hbad
    · exact helect

end Sys2Proof.Machine

end LinkEffects

/-! ## What training leaves of a port: the division that its receiver is given (11 R373, R395) -/

section CreditDivision

namespace Sys2Proof.Machine

open Sys2Proof

variable {s0 s t : State} {n : ℕ}

/-- FAB_CREDIT_CFG of every port is the same. -/
def CreditCfgKept (s t : State) : Prop := ∀ m, (t.port m).creditCfg = (s.port m).creditCfg

theorem CreditCfgKept.refl (s : State) : CreditCfgKept s s := fun _ => rfl

theorem CreditCfgKept.ofPorts (h : CreditCfgKept s0 s) (e : t.ports = s.ports) : CreditCfgKept s0 t := fun m => by
  rw [State.port, e]
  exact h m

theorem CreditCfgKept.emit {m : OutMsg} (h : CreditCfgKept s0 s) : CreditCfgKept s0 (s.emit m) := h.ofPorts rfl

theorem CreditCfgKept.updFabric {f : Fabric → Fabric} (h : CreditCfgKept s0 s) : CreditCfgKept s0 (s.updFabric f) :=
  h.ofPorts rfl

theorem CreditCfgKept.updPort {f : Port → Port} (h : CreditCfgKept s0 s)
    (hf : ∀ p, (f p).creditCfg = p.creditCfg := by intro p; rfl) : CreditCfgKept s0 (s.updPort n f) := fun m => by
  by_cases hm : m = n
  · rw [hm, State.updPort_port_self, hf]
    exact h n
  · rw [State.updPort_port_ne _ _ _ _ hm]
    exact h m

theorem CreditCfgKept.foldl {α : Type} (f : State → α → State) (l : List α)
    (hf : ∀ s a, CreditCfgKept s0 s → CreditCfgKept s0 (f s a)) (h : CreditCfgKept s0 s) :
    CreditCfgKept s0 (l.foldl f s) := by
  induction l generalizing s with
  | nil => exact h
  | cons a l ih => exact ih (hf s a h)

theorem CreditCfgKept.freeBuffers {vc k : ℕ} (h : CreditCfgKept s0 s) : CreditCfgKept s0 (s.freeBuffers n vc k) := by
  unfold State.freeBuffers
  split
  · exact h.updPort
  · exact h

theorem CreditCfgKept.noteHeader {sent : Bool} {f : Flit} (h : CreditCfgKept s0 s) :
    CreditCfgKept s0 (s.noteHeader n sent f) := h.ofPorts (s.noteHeader_ports n sent f)

theorem CreditCfgKept.sendFlit {f : Flit} {cls : ℕ} (h : CreditCfgKept s0 s) : CreditCfgKept s0 (s.sendFlit n f cls) :=
  h.ofPorts (s.sendFlit_ports n f cls)

theorem CreditCfgKept.sendOn {vc : ℕ} {f : Flit} {data : Bytes} (h : CreditCfgKept s0 s) :
    CreditCfgKept s0 (s.sendOn n vc f data) := by
  unfold State.sendOn
  dsimp only
  split
  · exact h.updPort.emit
  · exact h.updPort

theorem CreditCfgKept.swqStep {f : Flit} {up : Bool} (h : CreditCfgKept s0 s) : CreditCfgKept s0 (s.swqStep f up) :=
  h.ofPorts rfl

theorem CreditCfgKept.transmit {src : ℕ} {f : Flit} {data : Bytes} (h : CreditCfgKept s0 s) :
    CreditCfgKept s0 (s.transmit src n f data) := by
  unfold State.transmit
  dsimp only
  split
  · exact h.freeBuffers
  · split
    · exact h.sendOn.noteHeader.freeBuffers
    · exact h.ofPorts rfl

theorem CreditCfgKept.drainPort {k : ℕ} (h : CreditCfgKept s0 s) : CreditCfgKept s0 (s.drainPort n k) := by
  induction k generalizing s with
  | zero => exact h
  | succ k ih =>
    unfold State.drainPort
    split
    · exact h
    · next o _ =>
      have hq : CreditCfgKept s0 ((s.updFabric fun b => { b with outQ := b.outQ.erase o }).swqStep o.header false) :=
        h.ofPorts rfl
      exact ih hq.sendOn.noteHeader.freeBuffers

theorem CreditCfgKept.startCut (h : CreditCfgKept s0 s) : CreditCfgKept s0 (s.startCut n) := by
  unfold State.startCut
  split
  · exact h
  · split
    · exact h
    · exact (CreditCfgKept.foldl _ _ (fun _ _ h => h.sendFlit) h.updPort.sendFlit.noteHeader).updPort

theorem CreditCfgKept.freePort {k : ℕ} (h : CreditCfgKept s0 s) : CreditCfgKept s0 (s.freePort n k) :=
  CreditCfgKept.foldl _ _ (fun _ _ h => h.startCut) h.drainPort

theorem CreditCfgKept.countProto (h : CreditCfgKept s0 s) : CreditCfgKept s0 (s.countProto n) := by
  unfold State.countProto
  exact h.updPort

theorem CreditCfgKept.deliver {o : OpenPkt} (h : CreditCfgKept s0 s) : CreditCfgKept s0 (s.deliver n o) := by
  unfold State.deliver
  dsimp only
  split
  · exact h.countProto.freeBuffers
  · split
    · split
      · exact h.ofPorts rfl
      · exact h.countProto.freeBuffers
    · exact h.transmit
    · exact h.updFabric.freeBuffers
    · exact h.freeBuffers

theorem CreditCfgKept.endPacket (h : CreditCfgKept s0 s) : CreditCfgKept s0 (s.endPacket n) := by
  unfold State.endPacket
  split
  · exact h
  · dsimp only
    split
    · split
      · exact h.updPort.updPort.freeBuffers.freePort
      · exact h.updPort.updPort.freeBuffers
    · split
      · exact h.updPort.freeBuffers.freePort
      · exact h.updPort.deliver

theorem CreditCfgKept.stompSlot {o : OpenPkt} (h : CreditCfgKept s0 s) : CreditCfgKept s0 (s.stompSlot n o) := by
  unfold State.stompSlot
  split
  · split
    · exact h.sendFlit.updPort.updPort
    · exact h.updPort
  · exact h.updPort

theorem CreditCfgKept.cutShort {k : ℕ} (h : CreditCfgKept s0 s) : CreditCfgKept s0 (s.cutShort n k) := by
  induction k generalizing s with
  | zero => exact h
  | succ k ih =>
    unfold State.cutShort
    split
    · exact h
    · split
      · exact h.endPacket
      · exact ih h.stompSlot

/-- What forwarding to a lost port makes of a port whose packet is arriving. -/
def Port.cutForward (n : ℕ) (p : Port) : Port := match p.open_ with
  | some o => if o.forward = some n then { p with open_ := some { o with forward := some 56 } } else p
  | none => p

theorem Port.cutForward_creditCfg (n : ℕ) (p : Port) : (p.cutForward n).creditCfg = p.creditCfg := by
  unfold Port.cutForward
  split
  · split <;> rfl
  · rfl

theorem State.cutForward_port (s : State) (n m : ℕ) : (s.cutForward n).port m = (s.port m).cutForward n := by
  have h : (s.cutForward n).ports = s.ports.map fun e => (e.1, e.2.cutForward n) := rfl
  unfold State.port Tab.get
  rw [h, Tab.get?_map fun _ (p : Port) => p.cutForward n]
  cases Tab.get? s.ports m <;> rfl

theorem CreditCfgKept.cutForward (h : CreditCfgKept s0 s) : CreditCfgKept s0 (s.cutForward n) := fun m => by
  rw [State.cutForward_port, Port.cutForward_creditCfg]
  exact h m

theorem CreditCfgKept.dropLink (h : CreditCfgKept s0 s) : CreditCfgKept s0 (s.dropLink n) := by
  unfold State.dropLink
  exact (CreditCfgKept.foldl _ _ (fun _ _ h => h.swqStep.freeBuffers) h.cutForward).ofPorts rfl

/-! ### A port in training -/

/-- The port has begun a training of a kind, with the division of its own buffers from FAB_CREDIT_CFG. -/
structure Trains (n : ℕ) (k : TrainKind) (s t : State) : Prop where
  state : (t.port n).state = .training
  training : (t.port n).training = some k
  peer : (t.port n).peer = none
  noOpen : (t.port n).open_ = none
  sent : (t.port n).pseqTx = []
  received : (t.port n).pseqRx = []
  division : (t.port n).division = (s.port n).creditCfg

theorem CreditCfgKept.trains {k : TrainKind} (h : CreditCfgKept s0 s) : Trains n k s0 (s.train n k) := by
  have hdiv : ((s.takeDims.dropLink n).port n).creditCfg = (s0.port n).creditCfg :=
    (CreditCfgKept.dropLink (h.ofPorts (t := s.takeDims) rfl)) n
  unfold State.train
  dsimp only
  constructor <;> rw [State.updPort_port_self]
  exact hdiv

/-- Other fields of the port may change after its training has begun. -/
theorem Trains.updPort {k : TrainKind} {f : Port → Port} (h : Trains n k s t)
    (hf : ∀ p, ((f p).state, (f p).training, (f p).peer, (f p).open_, (f p).pseqTx, (f p).pseqRx, (f p).division) =
      (p.state, p.training, p.peer, p.open_, p.pseqTx, p.pseqRx, p.division) := by intro p; rfl) :
    Trains n k s (t.updPort n f) := by
  obtain ⟨h1, h2, h3, h4, h5, h6, h7⟩ := h
  have e := hf (t.port n)
  simp only [Prod.mk.injEq] at e
  obtain ⟨e1, e2, e3, e4, e5, e6, e7⟩ := e
  constructor <;> rw [State.updPort_port_self]
  · exact e1.trans h1
  · exact e2.trans h2
  · exact e3.trans h3
  · exact e4.trans h4
  · exact e5.trans h5
  · exact e6.trans h6
  · exact e7.trans h7

theorem Trains.unlink {k : TrainKind} {p : Port} (h : Trains n k s t) : Trains n k s (t.unlink n p) := by
  have hport (m : ℕ) : (t.unlink n p).port m =
      (t.updPort n fun q => { q with oldPeer := if p.state = .up then p.peer.map PeerInfo.ident else q.oldPeer }).port m := by
    rw [State.unlink, State.port, State.loseParent_ports]
    rfl
  obtain ⟨h1, h2, h3, h4, h5, h6, h7⟩ :=
    h.updPort (f := fun q => { q with oldPeer := if p.state = .up then p.peer.map PeerInfo.ident else q.oldPeer })
  constructor <;> rw [hport] <;> assumption

end Sys2Proof.Machine

end CreditDivision

/-! ## Links are kept (11 R366 to R374, R386 to R391) -/

section LinksKept

namespace Sys2Proof.Machine

open Sys2Proof

variable {s t u : State} {n : ℕ}

/-! ### DISCOVERY -/

theorem State.noteFec_samePeer (s : State) (n : ℕ) (w : Slot) (p : PeerInfo) :
    (s.noteFec n w).samePeer n p = s.samePeer n p := by
  have hold : ((s.noteFec n w).port n).oldPeer = (s.port n).oldPeer := by rw [(fecNoted_noteFec s n w).self]
  simp only [State.samePeer, State.inService, State.noteFec_mgmt, hold]

theorem State.noteFec_wired (s : State) (n : ℕ) (w : Slot) (p : PeerInfo) :
    (s.noteFec n w).wired n p = s.wired n p := by
  rw [(fecNoted_noteFec s n w).eq]
  rfl

/-- The right peer on a port in DISCOVERY makes it UP. -/
theorem State.rxDiscovery_up {f : Flit} (hm : s.moves = true) (hd : (s.port n).state = .discovery)
    (ho : (s.port n).open_ = none) (hk : kindOf f = 4) (hb : badLinkWord f = false) (h1 : ffld f 4 15 12 = 0)
    (h2 : ffld f 4 7 6 = 0) (h3 : ffld f 6 14 11 = 0) (hw : s.wired n (peerOf f) = true)
    (hp : s.samePeer n (peerOf f) = true) :
    s.rxDiscovery n f = (s.updPort n fun q =>
      { q with peer := some (peerOf f), peerIdent := BitVec.ofNat 64 (ffld f 16 63 0) }).portUp n := by
  have hframed : s.framed n = true := by simp [State.framed, hm, hd]
  unfold State.rxDiscovery
  dsimp only
  rw [if_pos ⟨hframed, hk⟩]
  simp only [h1, h2, h3, ne_eq, not_true_eq_false, decide_false, Bool.or_false]
  rw [State.header_good ho hb]
  generalize hv : s.updPort n (fun q =>
    { q with peer := some (peerOf f), peerIdent := BitVec.ofNat 64 (ffld f 16 63 0) }) = v
  have hstate : (v.port n).state = .discovery := by rw [← hv, State.updPort_port_self]; exact hd
  have hwired : v.wired n (peerOf f) = true := by rw [← hw, ← hv]; rfl
  have hsame : v.samePeer n (peerOf f) = true := by
    rw [← hp, ← hv, State.samePeer, State.updPort_port_self]
    rfl
  rw [if_neg (by rw [hstate]; decide), if_neg (by simp [hwired, hsame]), if_pos hstate]

/-- What a port that enters UP leaves. -/
theorem State.portUp_eq (s : State) (n : ℕ) :
    s.portUp n = { s.updPort n fun p => { p with
        state := .up, training := none, oldPeer := none
        retrains := satAdd p.retrains (s.inService && (s.port n).training.isSome).toNat } with
      baro := (s.portUp n).baro } := by
  unfold State.portUp
  dsimp only
  split <;> rfl

theorem State.portUp_baro (s : State) (n : ℕ) (h : (s.inService && (s.port n).training.isSome) = false) :
    (s.portUp n).baro = s.baro := by
  unfold State.portUp
  dsimp only
  rw [if_neg (by rw [h]; decide)]
  rfl

/-! ### Flits that a port sends of its own -/

theorem State.sendFlit_port_lt (s : State) (n : PortId) (f : Flit) (cls : ℕ) :
    s.sendFlit n.val f cls = s.emit (.flit n f (checkWord f cls)) := by
  unfold State.sendFlit
  rw [dif_pos n.isLt]

theorem State.txCredit_changed (hb : s.portBusy n = false) (hc : s.carries n = true)
    (hv : ∃ vc, vc < 8 ∧ Tab.get 0 (s.port n).freed vc ≠ Tab.get 0 (s.port n).freedSent vc) :
    s.txCredit n = (s.sendFlit n (s.creditFlit n) 0).updPort n fun p => { p with freedSent := p.freed } := by
  obtain ⟨vc, hvc, hne⟩ := hv
  unfold State.txCredit
  refine if_pos ⟨hc, by rw [hb]; rfl, List.any_eq_true.mpr ⟨vc, List.mem_range.mpr hvc, decide_eq_true hne⟩⟩

/-! ### Training -/

theorem State.loseLock_trains (lanes : BitVec 4) (hf : s.framed n = true) :
    Trains n (if s.mgmt.state = .coldStart then .full else .fast) s (s.loseLock n lanes) := by
  unfold State.loseLock
  rw [if_neg (show ¬ (!s.framed n) = true by rw [hf]; decide)]
  exact (CreditCfgKept.cutShort (.refl s)).trains.updPort.unlink

theorem State.fullRetrain_trains (hm : s.moves = true) (he : (s.port n).enable = true) :
    Trains n .full s (s.fullRetrain n) ∧ ((s.fullRetrain n).port n).retrain = true := by
  unfold State.fullRetrain
  rw [if_pos ⟨hm, he⟩]
  refine ⟨(CreditCfgKept.cutShort (.refl s)).trains.updPort.unlink, ?_⟩
  rw [State.unlink, State.port, State.loseParent_ports, ← State.port, State.updPort_port_self, State.updPort_port_self]

theorem State.peerSignal_trains (hm : s.moves = true) (he : (s.port n).enable = true) (hd : (s.port n).state = .down) :
    Trains n (if s.mgmt.state = .coldStart ∨ (s.port n).savedCoeff = false then .full else .fast) s
      (s.peerSignal n) := by
  unfold State.peerSignal
  rw [if_pos (show s.moves = true ∧ (s.port n).enable = true ∧ (s.port n).state = .down from ⟨hm, he, hd⟩)]
  simp only [Bool.not_eq_true']
  exact (CreditCfgKept.refl s).trains

theorem State.trained_done {good peerQuick : Bool} {r : TrainReport} (hm : s.moves = true)
    (ht : (s.port n).state = .training)
    (hk : 3 ≤ (if (s.port n).modeOf n good peerQuick r.optical then (s.port n).markersQuick else (s.port n).markersSeen)) :
    s.trained n good peerQuick r = s.updPort n fun p => { p with
      state := .discovery, retrain := false, wantQuick := p.request n good r.optical, optical := r.optical, laneLock := 15
      quick := (s.port n).modeOf n good peerQuick r.optical, markersSeen := 3
      creditInForce := r.division, lanes := laneWords r, coeff := r.coeff } := by
  unfold State.trained
  refine if_neg fun h => ?_
  rcases h with h | h | h
  · simp [hm] at h
  · exact h ht
  · omega

/-- A full training that times out in SERVICE with no partition refuses service. -/
theorem State.fullTimeout_service (ht : (s.port n).state = .training) (hk : (s.port n).training = some .full)
    (hw : s.trainedFor n 2000000000 = true) (hs : s.mgmt.state = .service) :
    ∃ u : State, s.fullTimeout n = u.halt 0x0C n := by
  have hm : s.moves = true := by simp [State.moves, hs]
  unfold State.fullTimeout
  dsimp only
  rw [if_pos ⟨hm, ht, hk, hw⟩, if_neg (by rw [hs]; decide), State.portFailed]
  exact ⟨_, (if_pos (decide_eq_true hs)).trans rfl⟩

theorem State.fastTimeout_warmStart (ht : (s.port n).state = .training) (hk : (s.port n).training = some .fast)
    (hw : s.trainedFor n 10000000 = true) (hs : s.mgmt.state = .warmStart) :
    s.fastTimeout n = s.train n .full := by
  have hm : s.moves = true := by simp [State.moves, hs]
  unfold State.fastTimeout
  dsimp only
  rw [if_pos ⟨hm, hk, hw, .inl ht⟩, if_neg (by simp [State.inService, hs])]

end Sys2Proof.Machine

open Sys2Proof Sys2Proof.Machine

/-- Settles O17: a flit of a kind has its kind's effect on the port that counted it, which the counters of the decoder do
not hide; a training takes the division of the port's own buffers whatever packets it ends. -/
theorem Sys2Proof.linksAreKept : Obligations.LinksAreKept := by
  unfold Obligations.LinksAreKept
  refine ⟨fun n s w ho hb hcls => ?_, fun n s hb => ⟨fun hc hv => ?_, fun fr hc hr hrun => ?_, fun hf => ?_, fun hf => ?_⟩,
    fun n s => ⟨fun lanes hf => ?_, fun hm he => ?_, fun hm he hd => ?_, fun w slots hm ht => ?_,
      fun good peerQuick r hm ht => ?_, fun ht hk hw hs _ => ?_, fun ht hk hw hs => ?_⟩⟩
  · have ho' : ((s.noteFec n.val w).port n.val).open_ = none := by simpa using ho
    have hfec := fecNoted_noteFec s n.val w
    have hrecv {f : State → State} (hf : s.framed n.val = true) :
        s.receive n.val w (some 0) f = f (s.noteFec n.val w) := State.receive_framed hf hcls
    refine ⟨fun hc hk => ?_, fun hc hk => ?_, fun hc hk hq hopen => ?_, fun rx hc hr hk h1 h2 h3 h4 => ?_,
      fun hm hd hk h1 h2 h3 hw hp => ?_, fun slots hf hk => ?_⟩
    · have hexec : exec (.idle n w) s = .next ((List.range 8).foldl
          (fun s vc => s.catchUp n.val vc (countsOf w.flit vc)) (s.noteFec n.val w)) := by
        rw [exec_idle, hrecv (State.framed_of_carries hc), State.rxIdle,
          State.rxKind_good (by simpa using hc) ho' hk hb]
      obtain ⟨hframe, -, hin⟩ := State.foldl_catchUp w.flit n.isLt (List.range 8) List.nodup_range (s.noteFec n.val w)
      refine ⟨_, hexec, hframe.eq, hframe.other, hframe.self, fun vc hvc => ?_⟩
      have hvc := hin vc (List.mem_range.mpr hvc)
      rw [CountTaken, SameCounts, hfec.self] at hvc
      exact hvc
    · refine ⟨_, fun vc hvc => Tab.get_foldl_put 0 (countsOf w.flit) (List.range 8)
        ((s.noteFec n.val w).port n.val).peerFreed vc (.inl (List.mem_range.mpr hvc)), ?_⟩
      rw [exec_credit, hrecv (State.framed_of_carries hc), State.rxCredit,
        State.rxKind_good (by simpa using hc) ho' hk hb]
      rfl
    · have hexec : exec (.credit n w) s = .next (((s.noteFec n.val w).updPort n.val fun p => { p with
          peerFreed := (List.range 8).foldl (fun t vc => Tab.put t vc (countsOf w.flit vc)) p.peerFreed }).freePort
            n.val 4096) := by
        rw [exec_credit, hrecv (State.framed_of_carries hc), State.rxCredit,
          State.rxKind_good (by simpa using hc) ho' hk hb]
      rw [State.freePort_idle] at hexec
      · refine ⟨_, hexec, rfl, fun m hm => State.updPort_port_ne _ _ _ _ hm, ?_, fun vc hvc => ?_⟩
        · rw [State.updPort_port_self]
        · rw [State.updPort_port_self]
          exact Tab.get_foldl_put 0 (countsOf w.flit) (List.range 8) _ vc (.inl (List.mem_range.mpr hvc))
      · simpa using hq
      · intro m
        by_cases hm : m = n.val
        · rw [hm, State.updPort_port_self]
          exact ho'
        · rw [State.updPort_port_ne _ _ _ _ hm]
          simpa using hopen m
    · have hexec : exec (.beacon n w rx) s = .next ((s.noteFec n.val w).rxBeacon n.val w.flit rx.toNat) := by
        rw [exec_beacon, hrecv (State.framed_of_carries hc)]
      obtain ⟨heq, hother, hself, hseason, hheard, hprio, hmaster, hhops, hrole⟩ :=
        State.rxBeacon_heard (s := s.noteFec n.val w) w.flit rx.toNat (by simpa using hc) hr ho' hk hb h1 h2 h3 h4
      refine ⟨_, hexec, heq, hother, hself, fun hid hpar => ?_, hheard, hprio, hmaster, hhops, hrole⟩
      rw [hseason (by simpa using hid) (by simpa using hpar), State.noteFec_season]
    · have hf : s.framed n.val = true := by simp [State.framed, hm, hd]
      have hexec : exec (.discovery n w) s = .next (((s.noteFec n.val w).updPort n.val fun q =>
          { q with peer := some (peerOf w.flit), peerIdent := BitVec.ofNat 64 (ffld w.flit 16 63 0) }).portUp n.val) := by
        rw [exec_discovery, hrecv hf, State.rxDiscovery_up (by simpa using hm) (by simpa using hd) ho' hk hb h1 h2 h3
          (by rw [State.noteFec_wired]; exact hw) (by rw [State.noteFec_samePeer]; exact hp)]
      have htrain : ((s.noteFec n.val w).port n.val).training = (s.port n.val).training := by rw [hfec.self]
      have hretr : ((s.noteFec n.val w).port n.val).retrains = (s.port n.val).retrains := by rw [hfec.self]
      have hserv : (s.noteFec n.val w).inService = s.inService := by simp [State.inService]
      generalize hv : (s.noteFec n.val w).updPort n.val (fun q =>
          { q with peer := some (peerOf w.flit), peerIdent := BitVec.ofNat 64 (ffld w.flit 16 63 0) }) = v at hexec
      have hagain : (v.inService && (v.port n.val).training.isSome) =
          (s.inService && (s.port n.val).training.isSome) := by
        rw [← hv, State.updPort_port_self, ← htrain, ← hserv]
        rfl
      have hport (m : ℕ) : (v.portUp n.val).port m = (v.updPort n.val fun p => { p with
          state := .up, training := none, oldPeer := none
          retrains := satAdd p.retrains (v.inService && (v.port n.val).training.isSome).toNat }).port m := by
        rw [State.portUp_eq]
        rfl
      intro again
      refine ⟨_, hexec, ?_, fun hno => ?_, fun m hm => ?_, ?_⟩
      · rw [State.portUp_eq, ← hv]
        rfl
      · rw [State.portUp_baro v n.val (hagain.trans hno), ← hv]
        rfl
      · rw [hport, State.updPort_port_ne _ _ _ _ hm, ← hv, State.updPort_port_ne _ _ _ _ hm]
      · rw [hport, State.updPort_port_self, hagain, ← hv, State.updPort_port_self, ← hretr]
    · have hnot : ¬ (s.moves = true ∧ (s.port n.val).state = .training) := fun h => by
        simp [State.framed, h.2] at hf
      rw [exec_marker, execMarker, if_neg hnot, hrecv hf, State.rxMarker, if_pos ⟨by simpa using hf, hk⟩,
        if_neg (by rw [hb]; decide)]
      rfl
  · rw [exec_creditSend, State.txCredit_changed hb hc hv, State.sendFlit_port_lt]
    rfl
  · have hfr : fr.toNat % 16 = fr.toNat := Nat.mod_eq_of_lt fr.isLt
    rw [exec_beaconSend, State.txBeacon, if_pos ⟨hc, hr, hrun, by rw [hb]; rfl⟩, State.sendFlit_port_lt, hfr]
  · rw [exec_discoverySend, State.txDiscovery, if_pos ⟨hf, by rw [hb]; rfl⟩, State.sendFlit_port_lt]
  · intro f
    have hsend : exec (.markerSend n) s = .next ((s.sendFlit n.val f 0).updPort n.val fun p =>
        { p with markerSeq := p.markerSeq + 1 }) := by
      rw [exec_markerSend, State.txMarker, if_pos hf]
      rfl
    rw [hsend, State.sendFlit_port_lt]
  · have h := State.loseLock_trains lanes hf
    exact ⟨_, exec_loseLock _ _, h.state, h.peer, h.noOpen, h.sent, h.received, h.division, h.training⟩
  · obtain ⟨h, hretrain⟩ := State.fullRetrain_trains hm he
    exact ⟨_, exec_fabPortRetrain _ _, h.state, h.training, hretrain, h.peer, h.division⟩
  · have h := State.peerSignal_trains hm he hd
    exact ⟨_, exec_peerSignalDetected _ _, h.state, h.division, h.training⟩
  · rw [exec_marker, execMarker, if_pos ⟨hm, ht⟩, State.trainMarker]
    simp only [markerUnder, Bool.and_eq_true, decide_eq_true_eq, Bool.not_eq_true', and_assoc]
    rfl
  · intro quick hk
    refine ⟨_, by rw [exec_portTrainingDone, State.trained_done hm ht hk], ?_⟩
    rw [State.updPort_port_self]
    exact ⟨rfl, rfl, rfl, rfl, rfl, rfl, fun m hm => State.updPort_port_ne _ _ _ _ hm, rfl⟩
  · obtain ⟨u, hu⟩ := State.fullTimeout_service ht hk hw hs
    obtain ⟨hstate, hcode, hdetail, -⟩ := u.halt_mgmt 0x0C n.val
    exact ⟨_, by rw [exec_trainingTimeout, hu], hstate, hcode, hdetail⟩
  · have h := (CreditCfgKept.refl s).trains (n := n.val) (k := .full)
    exact ⟨_, by rw [exec_fastRetrainTimeout, State.fastTimeout_warmStart ht hk hw hs], h.state, h.training⟩

end LinksKept

/-! ## Steps are armed and scored (06 R204 to R214, R242 to R248) -/

section StepsArmed

namespace Sys2Proof.Machine

open Sys2Proof

variable {s s1 s2 : State} {p sl : ℕ} {i : Item} {bs map : Bytes}

theorem exec_monsoonStepArm (p : PartId) (s : State) : exec (.monsoonStepArm p) s = .next (s.monsoonArm p.val) := rfl
theorem exec_routerInputPost (c : CoreId) (tag : Fin 32) (s : State) :
    exec (.routerInputPost c tag) s = .next (s.routerPost c.val tag.val) := rfl
theorem exec_scoringStart (sl : Fin 8) (x : XDie) (s : State) :
    exec (.scoringStart sl x) s = .next (s.scoringStart sl.val x.val) := rfl

/-- Nothing is applied to a free slot. -/
theorem State.applyEarly_free (h : s.freeStep = some sl) (n : ℕ) : s.applyEarly sl n = s := by
  have hnone : Tab.get? s.steps sl = none := by
    have := List.find?_some h
    simpa using this
  cases n with
  | zero => rfl
  | succ n =>
    unfold State.applyEarly State.step?
    rw [hnone]
    rfl

/-- An active partition's next Monsoon entry is armed in the lowest free slot. -/
theorem State.monsoonArm_eq (ha : (s.partition p).state = .active)
    (hi : ((s.partition p).ring.items.find? fun i => i.type = .monsoon && !i.armed) = some i)
    (hsl : s.freeStep = some sl) (hr : s.pairRoom = true) (hm : s.moves = true) :
    s.monsoonArm p = (s.armStep p sl i).applyEarly sl 4096 := by
  unfold State.monsoonArm
  dsimp only
  rw [if_pos ⟨ha, hm⟩, hi, hsl]
  exact if_pos hr

/-- The descriptor of a step lies in a window that is held. -/
theorem State.armStep_waits (h : s.waitsFor p [(gLocal i.arg, 192)] = true) : s.armStep p sl i = s := by
  unfold State.armStep
  exact if_pos h

/-- The slot map of a descriptor. -/
def slotMapOf (map : Bytes) : Table SlotEntry :=
  (List.range 256).map fun n => (n, slotEntryOf ((map.drop (n * 32)).take 32))

/-- A step whose descriptor has been read and passes the checks. -/
structure DescRead (s : State) (p : ℕ) (i : Item) (bs : Bytes) (s1 : State) : Prop where
  free : s.waitsFor p [(gLocal i.arg, 192)] = false
  read : s.unitRead p (xUnit 0 uAdmitter) (gLocal i.arg) 192 = (.ok bs, s1)
  ok : s1.stepDescOk bs = true

/-- A step of a new pair whose slot map has been read, with pools that hold its rows. -/
structure MapRead (s : State) (p : ℕ) (i : Item) (bs : Bytes) (s1 : State) (map : Bytes) (s2 : State) : Prop
    extends DescRead s p i bs s1 where
  unknown : s1.pairKnown (stepDescOf bs).group (stepDescOf bs).step = false
  mapFree : s.waitsFor p [(loc (stepDescOf bs).slotMap, 8192)] = false
  mapRead : s1.unitRead p (xUnit 0 uAdmitter) (loc (stepDescOf bs).slotMap) 8192 = (.ok map, s2)
  pools : s2.badPool p (stepDescOf bs) (slotMapOf map) = none

/-- The batches of the step to be armed lie in a window that is held. -/
def batchesHeld (s : State) (p : ℕ) (i : Item) (bs map : Bytes) (s2 : State) : Bool :=
  s.waitsFor p ([0, 1, 2, 3].flatMap (s2.newStep i p (stepDescOf bs) (slotMapOf map)).batchAreas)

theorem State.armStep_mapWaits (h : DescRead s p i bs s1)
    (hk : s1.pairKnown (stepDescOf bs).group (stepDescOf bs).step = false)
    (hw : s.waitsFor p [(loc (stepDescOf bs).slotMap, 8192)] = true) : s.armStep p sl i = s := by
  unfold State.armStep
  simp only [h.free, h.read, h.ok, hk, hw, Bool.false_eq_true, Bool.not_true, if_false, if_true]

theorem State.armStep_batchesWait (h : MapRead s p i bs s1 map s2) (hw : batchesHeld s p i bs map s2 = true) :
    s.armStep p sl i = s := by
  have hpools := h.pools
  unfold batchesHeld at hw
  unfold slotMapOf at hw hpools
  unfold State.armStep
  simp only [h.free, h.read, h.ok, h.unknown, h.mapFree, h.mapRead, hpools, hw, Bool.false_eq_true, Bool.not_true,
    if_false, if_true]

theorem State.armStep_known (h : DescRead s p i bs s1)
    (hk : s1.pairKnown (stepDescOf bs).group (stepDescOf bs).step = true) :
    s.armStep p sl i = s1.raisePair p 0 (stepDescOf bs).group (stepDescOf bs).step (stepDescOf bs).digest
      { s1.recordOpen 0x0311 (xUnit 0 uAdmitter) 0 with d0 := i.arg } := by
  unfold State.armStep
  simp only [h.free, h.read, h.ok, hk, Bool.false_eq_true, Bool.not_true, if_false, if_true]
  rfl

theorem State.armStep_armed (h : MapRead s p i bs s1 map s2) (hw : batchesHeld s p i bs map s2 = false)
    (hl : (s2.partition p).calm = false ∨ s2.lateDie i.equinox i.window = none) :
    s.armStep p sl i = { s2 with steps := Tab.put s2.steps sl (s2.newStep i p (stepDescOf bs) (slotMapOf map)) }.updItem
      p i.pos fun i => { i with armed := true, slot := sl } := by
  have hpools := h.pools
  have hlate : (if (s2.partition p).calm then s2.lateDie i.equinox i.window else none) = none := by
    rcases hl with hl | hl
    · rw [if_neg (by rw [hl]; decide)]
    · rw [hl, ite_self]
  unfold batchesHeld at hw
  unfold slotMapOf at hw hpools ⊢
  unfold State.armStep
  simp only [h.free, h.read, h.ok, h.unknown, h.mapFree, h.mapRead, hpools, hw, hlate, Bool.false_eq_true, Bool.not_true,
    if_false]

/-! ### Posts of router input rows -/

variable {c tag : ℕ} {d : Dma}

/-- A post that the core's transfer unit gives to the router. -/
structure Posts (s : State) (c tag : ℕ) (d : Dma) : Prop where
  dma : (s.core c).dma? tag = some d
  op : d.op = 0x10
  left : d.left ≠ 0
  fault : d.fault = none
  drains : (s.core c).drains = true

theorem Posts.passes (h : Posts s c tag d) :
    ¬ (d.op ≠ 0x10 ∨ d.left = 0 ∨ d.fault.isSome = true ∨ (!(s.core c).drains) = true) := by
  simp [h.op, h.left, h.fault, h.drains]

/-- The armed step of the core's partition to whose descriptor a post goes. -/
def State.postStep (s : State) (c : ℕ) (d : Dma) : Option (ℕ × Step) :=
  s.steps.find? fun e => !e.2.faulted && e.2.part = s.corePart c && e.2.desc = d.ga.toNat

theorem State.routerPost_written {st : Step} (h : Posts s c tag d) (hst : s.postStep c d = some (sl, st))
    (hok : State.postRefused d (s.post c d).1 (s.post c d).2 st = false)
    (hw : s.waitsFor (s.corePart c)
      [(loc st.d.routerIn + (s.post c d).1 * st.d.rowBytes, (s.post c d).2 * st.d.rowBytes)] = false)
    (hwr : s.writeMem (s.partition (s.corePart c)).job (loc st.d.routerIn + (s.post c d).1 * st.d.rowBytes)
      (memRead s.mem (spBase c + d.so.toNat + 64) ((s.post c d).2 * st.d.rowBytes)) = (.ok (), s1)) :
    s.routerPost c tag = (s1.updStep sl fun st => { st with
      arrived := st.arrived ++ (List.range (s.post c d).2).map ((s.post c d).1 + ·) }).updCore c
        fun k => k.updDma tag Dma.partDone := by
  unfold State.postStep at hst
  unfold State.routerPost
  simp only [h.dma]
  rw [if_neg h.passes]
  simp only [hst, hok, hw, hwr, Bool.false_eq_true, if_false]

theorem State.routerPost_refused {st : Step} (h : Posts s c tag d) (hst : s.postStep c d = some (sl, st))
    (hbad : State.postRefused d (s.post c d).1 (s.post c d).2 st = true) :
    s.routerPost c tag = (s.noteMonFault 0 st.d.step 0x0307).raise (s.corePart c)
      { (s.noteMonFault 0 st.d.step 0x0307).recordOpen 0x0307 (xUnit 0 uAdmitter) d.ga with d0 := d.word } := by
  unfold State.postStep at hst
  unfold State.routerPost
  simp only [h.dma]
  rw [if_neg h.passes]
  simp only [hst, hbad, if_true]

theorem State.routerPost_nowhere (h : Posts s c tag d) (hst : s.postStep c d = none) :
    s.routerPost c tag = (s.draw.2.noteMonFault 0 (BitVec.ofNat 16 s.draw.1) 0x0307).raise (s.corePart c)
      { (s.draw.2.noteMonFault 0 (BitVec.ofNat 16 s.draw.1) 0x0307).recordOpen 0x0307 (xUnit 0 uAdmitter) d.ga with
        d0 := d.word } := by
  unfold State.postStep at hst
  unfold State.routerPost
  simp only [h.dma]
  rw [if_neg h.passes]
  simp only [hst]

/-! ### Scoring -/

theorem State.scoringStart_eq {s3 : State} {st : Step} {x : ℕ} {t : List ExpertEntry} {l : List (ℕ × Cands)}
    (hst : s.step? sl = some st) (hm : s.mayScore x st = true) (hf : s.stageFirst st (s.mayScore x) = true)
    (hfc : s.fcFirst x st.equinox st.seq = false) (hw : s.waitsFor st.part (st.d.scoreAreas x) = false)
    (ht : s.tableRead st x = (.ok t, s1))
    (hq : s1.scoreQuarter { st with entries := Tab.put st.entries x t } x = (.ok l, s2))
    (hc : s2.checkCands { st with entries := Tab.put st.entries x t } x l = (.ok (), s3)) :
    s.scoringStart sl x = (s3.draw.2.updXdie x fun d => { d with scoreBusy := satAdd d.scoreBusy s3.draw.1 }).updStep sl
      fun _ => { st with entries := Tab.put st.entries x t }.addQuarter s3.draw.2.self x l := by
  unfold State.scoringStart
  simp only [hst]
  rw [if_neg (by simp [hm, hf, hfc, hw]), ht]
  simp only [tryThen, hq, hc]
  rfl

end Sys2Proof.Machine

open Sys2Proof Sys2Proof.Machine

/-- Settles O18: each outcome of arming, of a post and of a scoring start is one path through its checks. -/
theorem Sys2Proof.monsoonStepsAreArmedAndScored : Obligations.MonsoonStepsAreArmedAndScored := by
  unfold Obligations.MonsoonStepsAreArmedAndScored
  refine ⟨fun p s s1 s2 i sl bs map ha hi hsl hr hm => ⟨fun hw => ?_, fun hfree hread hok => ?_⟩,
    fun c tag s d hdma hop hleft hfault hdrains => ?_, fun sl x s s1 s2 s3 st t l hst hm hf hfc hw ht => ?_⟩
  · rw [exec_monsoonStepArm, State.monsoonArm_eq ha hi hsl hr hm, State.armStep_waits hw, State.applyEarly_free hsl]
  · have hdesc : DescRead s p.val i bs s1 := ⟨hfree, hread, hok⟩
    refine ⟨fun hk hw => ?_, fun hk hmap hpool hmf hw => ?_, fun hk hmap hpool hmf hw hl => ?_, fun hk => ?_⟩
    · rw [exec_monsoonStepArm, State.monsoonArm_eq ha hi hsl hr hm, State.armStep_mapWaits hdesc hk hw,
        State.applyEarly_free hsl]
    · rw [exec_monsoonStepArm, State.monsoonArm_eq ha hi hsl hr hm,
        State.armStep_batchesWait ⟨hdesc, hk, hmf, hmap, hpool⟩ hw, State.applyEarly_free hsl]
    · rw [exec_monsoonStepArm, State.monsoonArm_eq ha hi hsl hr hm,
        State.armStep_armed ⟨hdesc, hk, hmf, hmap, hpool⟩ hw hl]
      rfl
    · refine ⟨{ s1.recordOpen 0x0311 (xUnit 0 uAdmitter) 0 with d0 := i.arg }, rfl, rfl, ?_⟩
      rw [exec_monsoonStepArm, State.monsoonArm_eq ha hi hsl hr hm, State.armStep_known hdesc hk]
  · have hpost : Posts s c.val tag.val d := ⟨hdma, hop, hleft, hfault, hdrains⟩
    refine ⟨fun sl st s1 hst hok hw hwr => ?_, fun sl st hst hbad => ?_, fun hst => ?_⟩
    · rw [exec_routerInputPost, State.routerPost_written hpost hst hok hw hwr]
    · rw [exec_routerInputPost, State.routerPost_refused hpost hst hbad]
    · rw [exec_routerInputPost, State.routerPost_nowhere hpost hst]
  · intro st' hq hc
    rw [exec_scoringStart, State.scoringStart_eq hst hm hf hfc hw ht hq hc]

end StepsArmed

/-! ## The order of scores, and selection (06 R214, R215) -/

section Selection

namespace Sys2Proof.Machine

open Sys2Proof

/-! ### Scores are in one linear order -/

/-- The number that a finite value stands for. -/
def finRat (n : Bool) (m : ℕ) (e : ℤ) : ℚ := (if n then -1 else 1) * m * 2 ^ e

/-- The rank of a score: the infinities about the numbers, and a NaN above all. -/
def Val.rank : Val → ℕ ×ₗ ℚ
  | .nan => toLex (3, 0)
  | .inf false => toLex (2, 0)
  | .fin n m e => toLex (1, finRat n m e)
  | .inf true => toLex (0, 0)

theorem cast_scaled (n : Bool) (m : ℕ) {e q : ℤ} (h : q ≤ e) : ((scaled n m e q : ℤ) : ℚ) * 2 ^ q = finRat n m e := by
  have hpow : (2 : ℚ) ^ ((e - q).toNat) * 2 ^ q = 2 ^ e := by
    rw [← zpow_natCast, Int.toNat_of_nonneg (by omega), ← zpow_add₀ (by norm_num)]
    congr 1
    omega
  unfold scaled finRat
  rw [← hpow]
  cases n with
  | false => simp [mul_assoc]
  | true => simp [mul_assoc]

theorem finRat_lt (n n' : Bool) (m m' : ℕ) (e e' : ℤ) :
    scaled n m e (min e e') < scaled n' m' e' (min e e') ↔ finRat n m e < finRat n' m' e' := by
  rw [← cast_scaled n m (min_le_left e e'), ← cast_scaled n' m' (min_le_right e e'),
    mul_lt_mul_iff_of_pos_right (by positivity), Int.cast_lt]

/-- Of two scores the one of the higher rank goes first. -/
theorem scoreLe_iff (a b : ℕ) : scoreLe a b = true ↔ (fp32.decode b).rank ≤ (fp32.decode a).rank := by
  unfold scoreLe
  generalize fp32.decode a = x
  generalize fp32.decode b = y
  cases x with
  | nan => cases y with
    | nan => simp [Val.rank]
    | inf n => cases n <;> simp [Val.rank, Prod.Lex.toLex_le_toLex]
    | fin n m e => simp [Val.rank, Prod.Lex.toLex_le_toLex]
  | inf n => cases y with
    | nan => cases n <;> simp [Val.rank, Prod.Lex.toLex_le_toLex]
    | inf n' => cases n <;> cases n' <;> simp [Val.rank, Val.lt, Prod.Lex.toLex_le_toLex]
    | fin n' m' e' => cases n <;> simp [Val.rank, Val.lt, Prod.Lex.toLex_le_toLex]
  | fin n m e => cases y with
    | nan => simp [Val.rank, Prod.Lex.toLex_le_toLex]
    | inf n' => cases n' <;> simp [Val.rank, Val.lt, Prod.Lex.toLex_le_toLex]
    | fin n' m' e' =>
      have hlt := finRat_lt n n' m m' e e'
      rw [Val.rank, Val.rank, Prod.Lex.toLex_le_toLex, ← not_lt (a := finRat n m e), ← hlt]
      simp [Val.lt]

theorem scoreLe_trans (a b c : ℕ) (h : scoreLe a b = true) (k : scoreLe b c = true) : scoreLe a c = true :=
  (scoreLe_iff a c).mpr (((scoreLe_iff b c).mp k).trans ((scoreLe_iff a b).mp h))

theorem scoreLe_total (a b : ℕ) : (scoreLe a b || scoreLe b a) = true := by
  simp only [Bool.or_eq_true, scoreLe_iff]
  exact le_total _ _

/-! ### The experts in the order of their scores -/

/-- The experts with their scores, highest first. -/
def rankedExperts (scores : List ℕ) : List (ℕ × ℕ) :=
  ((List.range scores.length).zip scores).mergeSort fun a b => scoreLe a.2 b.2

theorem topExperts_eq (scores : List ℕ) (n : ℕ) : topExperts scores n = ((rankedExperts scores).map (·.1)).take n := by
  rw [← List.map_take]
  rfl

theorem mem_rankedExperts {scores : List ℕ} {a : ℕ × ℕ} :
    a ∈ rankedExperts scores ↔ a.1 < scores.length ∧ a.2 = scores.getD a.1 0 := by
  unfold rankedExperts
  rw [List.mem_mergeSort]
  constructor
  · intro h
    obtain ⟨i, hi, rfl⟩ := List.mem_iff_getElem.mp h
    have hi' : i < scores.length := by simpa using hi
    simp [hi']
  · rintro ⟨hlt, hval⟩
    rw [List.mem_iff_getElem]
    refine ⟨a.1, by simpa using hlt, ?_⟩
    ext <;> simp [hval, hlt]

theorem map_fst_zip_range (scores : List ℕ) :
    ((List.range scores.length).zip scores).map (·.1) = List.range scores.length := by
  rw [List.map_fst_zip (by simp)]

theorem length_rankedExperts (scores : List ℕ) : (rankedExperts scores).length = scores.length := by
  simp [rankedExperts]

theorem nodup_rankedExperts (scores : List ℕ) : ((rankedExperts scores).map (·.1)).Nodup := by
  have hperm : ((rankedExperts scores).map (·.1)).Perm (List.range scores.length) := by
    rw [← map_fst_zip_range scores]
    exact (List.mergeSort_perm _ _).map _
  exact hperm.nodup_iff.mpr List.nodup_range

theorem pairwise_rankedExperts (scores : List ℕ) : (rankedExperts scores).Pairwise fun a b => scoreLe a.2 b.2 = true := by
  unfold rankedExperts
  exact List.pairwise_mergeSort (le := fun a b : ℕ × ℕ => scoreLe a.2 b.2)
    (fun a b c => scoreLe_trans a.2 b.2 c.2) (fun a b => scoreLe_total a.2 b.2) _

/-- Two entries of the list before it is ordered, in one order or the other. -/
theorem sublist_pair_of_mem {α : Type} {l : List α} {a b : α} (ha : a ∈ l) (hb : b ∈ l) (hne : a ≠ b) :
    [a, b].Sublist l ∨ [b, a].Sublist l := by
  induction l with
  | nil => cases ha
  | cons x l ih =>
    rcases List.mem_cons.mp ha with rfl | ha'
    · exact .inl (List.Sublist.cons_cons _ (List.singleton_sublist.mpr ((List.mem_cons.mp hb).resolve_left hne.symm)))
    · rcases List.mem_cons.mp hb with rfl | hb
      · exact .inr (List.Sublist.cons_cons _ (List.singleton_sublist.mpr ha'))
      · exact (ih ha' hb).imp (·.cons x) (·.cons x)

/-- Two entries of a list without repetition are in one order only. -/
theorem not_sublist_swap {α : Type} {l : List α} (hl : l.Nodup) {a b : α} (hab : [a, b].Sublist l) :
    ¬ [b, a].Sublist l := by
  intro hba
  have hne : a ≠ b := by
    rintro rfl
    exact absurd (hab.nodup hl) (by simp)
  induction l with
  | nil => cases hab
  | cons x l ih =>
    obtain ⟨hx, hl⟩ := List.nodup_cons.mp hl
    by_cases ha : a = x
    · subst ha
      exact hx ((List.Sublist.of_cons_of_ne hne.symm hba).subset (by simp))
    · by_cases hb : b = x
      · subst hb
        exact hx ((List.Sublist.of_cons_of_ne ha hab).subset (by simp))
      · exact ih hl (List.Sublist.of_cons_of_ne ha hab) (List.Sublist.of_cons_of_ne hb hba)

/-- Of equal scores the lower expert goes first. -/
theorem rankedExperts_stable (scores : List ℕ) :
    (rankedExperts scores).Pairwise fun a b => scoreLe b.2 a.2 = true → a.1 < b.1 := by
  rw [List.pairwise_iff_forall_sublist]
  intro a b hab hle
  have hnodup : (rankedExperts scores).Nodup := (nodup_rankedExperts scores).of_map _
  have hne : a ≠ b := by
    rintro rfl
    exact absurd (hab.nodup hnodup) (by simp)
  have hmem : ∀ {x : ℕ × ℕ}, x ∈ rankedExperts scores → x ∈ (List.range scores.length).zip scores :=
    fun h => List.mem_mergeSort.mp h
  have hlt : ∀ {x y : ℕ × ℕ}, [x, y].Sublist ((List.range scores.length).zip scores) → x.1 < y.1 := by
    intro x y h
    have hmap := h.map (·.1)
    rw [map_fst_zip_range] at hmap
    have := List.pairwise_lt_range.sublist hmap
    simpa using this
  rcases sublist_pair_of_mem (hmem (hab.subset (by simp))) (hmem (hab.subset (by simp))) hne with h | h
  · exact hlt h
  · have hba : [b, a].Sublist (rankedExperts scores) :=
      List.pair_sublist_mergeSort (fun a b c => scoreLe_trans a.2 b.2 c.2) (fun a b => scoreLe_total a.2 b.2) hle h
    exact absurd hba (not_sublist_swap hnodup hab)

/-! ### The candidates of a row -/

/-- The experts picked, in their order. -/
theorem topExperts_pairwise (scores : List ℕ) (n : ℕ) :
    (topExperts scores n).Pairwise fun a b => scoreLe (scores.getD a 0) (scores.getD b 0) = true ∧
      (scoreLe (scores.getD b 0) (scores.getD a 0) = true → a < b) := by
  rw [topExperts_eq]
  refine List.Pairwise.take ?_
  rw [List.pairwise_map]
  refine (((pairwise_rankedExperts scores).and (rankedExperts_stable scores)).imp_of_mem ?_)
  intro a b ha hb h
  rwa [← (mem_rankedExperts.mp ha).2, ← (mem_rankedExperts.mp hb).2]

theorem topExperts_nodup (scores : List ℕ) (n : ℕ) : (topExperts scores n).Nodup := by
  rw [topExperts_eq]
  exact (nodup_rankedExperts scores).sublist (List.take_sublist _ _)

theorem length_topExperts (scores : List ℕ) (n : ℕ) : (topExperts scores n).length = min n scores.length := by
  rw [topExperts_eq, List.length_take, List.length_map, length_rankedExperts]

theorem lt_of_mem_topExperts {scores : List ℕ} {n e : ℕ} (h : e ∈ topExperts scores n) : e < scores.length := by
  rw [topExperts_eq] at h
  obtain ⟨a, ha, rfl⟩ := List.mem_map.mp (List.mem_of_mem_take h)
  exact (mem_rankedExperts.mp ha).1

/-- An expert that is not picked has no higher score than one that is. -/
theorem scoreLe_of_not_mem_topExperts {scores : List ℕ} {n c e : ℕ} (hc : c ∈ topExperts scores n)
    (he : e < scores.length) (hnot : e ∉ topExperts scores n) :
    scoreLe (scores.getD c 0) (scores.getD e 0) = true := by
  rw [topExperts_eq, ← List.map_take] at hc hnot
  obtain ⟨a, ha, rfl⟩ := List.mem_map.mp hc
  have hmem : (e, scores.getD e 0) ∈ rankedExperts scores := mem_rankedExperts.mpr ⟨he, rfl⟩
  have hdrop : (e, scores.getD e 0) ∈ (rankedExperts scores).drop n := by
    rw [← List.take_append_drop n (rankedExperts scores)] at hmem
    exact (List.mem_append.mp hmem).resolve_left fun h => hnot (List.mem_map_of_mem h)
  have hpair := pairwise_rankedExperts scores
  rw [← List.take_append_drop n (rankedExperts scores)] at hpair
  have hle := (List.pairwise_append.mp hpair).2.2 a ha _ hdrop
  rwa [(mem_rankedExperts.mp (List.mem_of_mem_take ha)).2] at hle

theorem length_gatesOf (mode k : ℕ) (l : List ℕ) : (gatesOf mode k l).length = l.length := by
  simp [gatesOf]

end Sys2Proof.Machine

open Sys2Proof Sys2Proof.Machine

/-- Settles O19: the scores are in one linear order, and the stable sort by it picks its first experts. -/
theorem Sys2Proof.selectionTakesTheHighestScores : Obligations.SelectionTakesTheHighestScores := by
  unfold Obligations.SelectionTakesTheHighestScores
  intro s st x row bias logits l scores picked gates bad
  have hlen : scores.length = logits.length := by simp [scores]
  have hids : (picked.zip gates).map (·.1) = picked := List.map_fst_zip (by simp [gates, length_gatesOf])
  have hpick : ∀ c ∈ picked.zip gates, c.1 ∈ picked := fun c hc => by
    rw [← hids]
    exact List.mem_map_of_mem hc
  have hsel : s.selectRow st x bias row logits = match (picked.zip gates).find? bad with
      | some e => .error (s.stepRecord st x uSelector 0x0304 (st.d.tokenBase + row) e.1)
      | none => .ok (picked.zip gates) := rfl
  refine ⟨fun e he => by rw [hsel, he], fun hgood => ⟨picked.zip gates, ?_⟩, fun hok => ?_⟩
  · have hnone : (picked.zip gates).find? bad = none := List.find?_eq_none.mpr fun e he => by simp [hgood e he]
    rw [hsel, hnone]
  · rw [hsel] at hok
    split at hok
    · cases hok
    · next hnone =>
      have hl : picked.zip gates = l := Except.ok.inj hok
      subst hl
      refine ⟨?_, by rw [hids]; exact topExperts_nodup _ _, fun c hc => ?_, ?_, fun c hc e he hnot => ?_⟩
      · rw [← List.length_map (·.1), hids, length_topExperts, hlen]
      · have hbad := List.find?_eq_none.mp hnone c hc
        simp only [bad, Bool.or_eq_true, not_or, Bool.not_eq_true] at hbad
        obtain ⟨⟨hlogit, hscore⟩, hgate⟩ := hbad
        exact ⟨hlen ▸ lt_of_mem_topExperts (hpick c hc), hlogit, hscore, hgate⟩
      · have hpair := topExperts_pairwise scores (st.d.k + st.d.spares)
        change picked.Pairwise _ at hpair
        rw [← hids, List.pairwise_map] at hpair
        exact hpair
      · rw [hids] at hnot
        exact scoreLe_of_not_mem_topExperts (hpick c hc) (hlen ▸ he) hnot

end Selection

/-! ## Rounds of counts and prefixes (06 R222 to R230, R242 to R245) -/

section CapacityRounds

namespace Sys2Proof.Machine

open Sys2Proof

variable {s : State} {sl x kind : ℕ} {st : Step} {k : Pkt} {data : Bytes} {e : ℕ × ℕ × Flit × Bytes}

theorem exec_countRoundStart (sl : Fin 8) (s : State) : exec (.countRoundStart sl) s = .next (s.countRound sl.val) := rfl
theorem exec_countPacket (x : XDie) (k : Pkt) (data : Bytes) (s : State) :
    exec (.countPacket x k data) s = .next (s.takeExchange x.val 0 k data) := rfl
theorem exec_prefixPacket (x : XDie) (k : Pkt) (data : Bytes) (s : State) :
    exec (.prefixPacket x k data) s = .next (s.takeExchange x.val 1 k data) := rfl
theorem exec_abortPacket (x : XDie) (k : Pkt) (data : Bytes) (s : State) :
    exec (.abortPacket x k data) s = .next (s.takeExchange x.val 2 k data) := rfl

/-- The X-dies and members that a step exchanges counts with. -/
def Step.pairs (st : Step) : List (ℕ × PkgId) := [0, 1, 2, 3].flatMap fun x => st.members.map fun m => (x, m)

/-- The prefixes that a step waits for once its counts are out. -/
def Step.awaited (st : Step) : List (ℕ × PkgId × ℕ) :=
  (st.pairs.filter fun e => st.asks e.2 e.1).map fun e => (st.round, e.2, e.1)

/-- A round's counts go out from the first step that has any to send. -/
theorem State.countRound_eq (hst : s.step? sl = some st) (hm : st.mayCount = true)
    (hf : s.stageFirst st Step.mayCount = true) (hw : s.waitsFor st.part st.d.resultAreas = false) :
    s.countRound sl =
      let sent := st.pairs.foldl (fun s e => s.sendCounts sl st e.1 e.2) s
      let st' := { st with countsSent := true, prefixFrom := st.awaited }
      if st.awaited.isEmpty then (sent.updStep sl fun _ => st').endRound sl st' else sent.updStep sl fun _ => st' := by
  unfold State.countRound
  simp only [hst]
  rw [if_neg (by simp [hm, hf, hw])]
  rfl

/-- A packet of the exchange port that an X-die takes from its buffer. -/
structure ExchangeTaken (s : State) (x kind : ℕ) (k : Pkt) (data : Bytes) (e : ℕ × ℕ × Flit × Bytes) : Prop where
  operational : s.operational = true
  found : s.findRx k data = some e
  packet : monPacket k (exchangePort x)
  kind : fld (field data 0 8) 31 30 = kind

theorem ExchangeTaken.find (h : ExchangeTaken s x kind k data e) :
    (if (k.op = 2 && vcOf k.op.toNat k.srcUnit.toNat = 4 && exchangePort x ≤ k.addr.toNat &&
        k.addr.toNat < exchangePort x + 0x8000 && fld (field data 0 8) 31 30 = kind) = true ∧ s.operational = true
      then s.findRx k data else none) = some e := by
  obtain ⟨hop, hvc, hlo, hhi⟩ := h.packet
  rw [if_pos ⟨by simp [hop, ← hvc, hlo, hhi, h.kind], h.operational⟩, h.found]

/-- A packet for an armed step is acknowledged and applied. -/
theorem State.takeExchange_armed (h : ExchangeTaken s x kind k data e)
    (hst : (s.takeRx e).stepOf (exchangePair (e.2.2.2.take k.length.toNat)).1
      (exchangePair (e.2.2.2.take k.length.toNat)).2 = some (sl, st))
    (hw : (s.takeRx e).waitsFor st.part (st.batchAreas x ++ st.d.resultAreas) = false) :
    s.takeExchange x kind k data =
      ((s.takeRx e).reply k 0x81 0 0 []).onExchange sl x st k.src (e.2.2.2.take k.length.toNat) := by
  unfold State.takeExchange
  dsimp only
  rw [h.find]
  simp only [hst, hw, Bool.false_eq_true, if_false]

/-- A packet of a pair that no step is armed for. -/
theorem State.takeExchange_unarmed (h : ExchangeTaken s x kind k data e)
    (hst : (s.takeRx e).stepOf (exchangePair (e.2.2.2.take k.length.toNat)).1
      (exchangePair (e.2.2.2.take k.length.toNat)).2 = none) :
    s.takeExchange x kind k data =
      let u := s.takeRx e
      let d := e.2.2.2.take k.length.toNat
      if u.pairKnown (exchangePair d).1 (exchangePair d).2 then u.reply k 0x81 0 0 []
      else if (u.xdie x).early.any fun e => e.1.src = k.src && e.1.srcUnit = k.srcUnit && e.2 = d then
        u.reply k 0x81 0 0 []
      else if (u.xdie x).early.length ≥ 1024 then u
      else (u.updXdie x fun y => { y with
        early := y.early ++ [(k, d)], earlyHigh := max y.earlyHigh (y.early.length + 1) }).reply k 0x81 0 0 [] := by
  unfold State.takeExchange
  dsimp only
  rw [h.find]
  simp only [hst]

/-! ### What an armed step does with a packet -/

variable {m : PkgId} {d : Bytes}

theorem State.onExchange_counts (h : fld (field d 0 8) 31 30 = 0) : s.onExchange sl x st m d = s.onCounts sl x st m d := by
  simp only [State.onExchange, h]

theorem State.onExchange_prefix (h : fld (field d 0 8) 31 30 = 1) : s.onExchange sl x st m d = s.onPrefix sl x st m d := by
  simp only [State.onExchange, h]

theorem State.onExchange_abort (h : fld (field d 0 8) 31 30 = 2) : s.onExchange sl x st m d = s.onAbort sl x st m d := by
  simp only [State.onExchange, h]

theorem State.onCounts_diverged (hnew : st.countFrom.contains (fld (field d 0 8) 29 28, x, m) = false)
    (hm : st.members.contains m = true) (hd : BitVec.ofNat 64 (field d 8 8) ≠ st.digest) :
    s.onCounts sl x st m d = s.raiseStep st x (s.stepRecord st x uAdmitter 0x0305 m.toNat 0xFFFF) := by
  unfold State.onCounts
  dsimp only
  rw [if_neg (by rw [hnew, hm]; decide), if_pos hd]

theorem State.onCounts_joined {recs : List CountRec}
    (hnew : st.countFrom.contains (fld (field d 0 8) 29 28, x, m) = false) (hm : st.members.contains m = true)
    (hd : BitVec.ofNat 64 (field d 8 8) = st.digest)
    (hr : recs = if bit (field d 0 8) 32 then [] else countRecs (fld (field d 0 8) 29 28) x m d)
    (hgood : recs.find? st.countBad = none) :
    s.onCounts sl x st m d =
      let st' := { st with countFrom := (fld (field d 0 8) 29 28, x, m) :: st.countFrom, counts := st.counts ++ recs }
      if st'.countsIn (fld (field d 0 8) 29 28) x
      then (s.updStep sl fun _ => st').hostRound sl x (fld (field d 0 8) 29 28) else s.updStep sl fun _ => st' := by
  unfold State.onCounts
  dsimp only
  rw [if_neg (by rw [hnew, hm]; decide), if_neg (not_not.mpr hd), ← hr, hgood]

theorem State.onPrefix_awaited (h : st.prefixFrom.contains (fld (field d 0 8) 29 28, m, x) = true) :
    s.onPrefix sl x st m d =
      let st' := { st with
        prefixFrom := st.prefixFrom.erase (fld (field d 0 8) 29 28, m, x)
        prefixes := st.prefixes ++ (List.range 64).map fun j =>
          (fld (field d 0 8) 29 28, m, 4 * j + x, field d (32 + 2 * j) 2) }
      if st'.prefixFrom.isEmpty then (s.updStep sl fun _ => st').endRound sl st' else s.updStep sl fun _ => st' := by
  unfold State.onPrefix
  dsimp only
  rw [if_neg (by rw [h]; decide)]

theorem State.onAbort_running (h : st.complete = false) :
    s.onAbort sl x st m d =
      let s' := s.updStep sl fun st => { st with abort := some (field d 16 2) }
      s'.raiseStep st x (s'.stepRecord st x uAdmitter 0x0306 m.toNat (field d 16 2)) := by
  unfold State.onAbort
  dsimp only
  rw [if_neg (by rw [h]; decide)]

end Sys2Proof.Machine

open Sys2Proof Sys2Proof.Machine

/-- Settles O20: a packet is taken as its pair and its kind say, and each kind joins the step or ends it. -/
theorem Sys2Proof.capacityRoundsExchange : Obligations.CapacityRoundsExchange := by
  unfold Obligations.CapacityRoundsExchange
  refine ⟨fun sl s st hst h4 hs ha hf hw => ?_, fun x k data s e sl st ho hrx hp => ?_,
    fun x k data s e ho hrx hp hkind => ?_⟩
  · intro pairs sent wait st'
    have hcount := State.countRound_eq hst (by simp [Step.mayCount, h4, hs, ha]) hf hw
    refine ⟨fun hne => ?_, fun hnil => ?_⟩
    · rw [exec_countRoundStart, hcount]
      exact congrArg _ (if_neg fun h => hne (List.isEmpty_iff.mp h))
    · rw [exec_countRoundStart, hcount]
      exact congrArg _ (if_pos (List.isEmpty_iff.mpr hnil))
  · intro d round acked hst hsame hw
    have htake {kind : ℕ} (hk : fld (field d 0 8) 31 30 = kind) :
        s.takeExchange x.val kind k data = acked.onExchange sl x.val st k.src d :=
      State.takeExchange_armed ⟨ho, hrx, hp, hsame.trans hk⟩ hst hw
    refine ⟨fun hk hnew hm => ⟨fun hd => ?_, fun recs hd hr hgood => ?_⟩, fun hk hc => ?_, fun hk hc => ?_⟩
    · rw [exec_countPacket, htake hk, State.onExchange_counts hk, State.onCounts_diverged hnew hm hd]
    · rw [exec_countPacket, htake hk, State.onExchange_counts hk, State.onCounts_joined hnew hm hd hr hgood]
    · rw [exec_prefixPacket, htake hk, State.onExchange_prefix hk, State.onPrefix_awaited hc]
    · rw [exec_abortPacket, htake hk, State.onExchange_abort hk, State.onAbort_running hc]
  · intro d u group step hst
    have htake := State.takeExchange_unarmed ⟨ho, hrx, hp, hkind⟩ hst
    refine ⟨fun hknown => ?_, fun hknown hearly => ⟨fun hlt => ?_, fun hfull => ?_⟩⟩
    · rw [exec_countPacket, htake]
      exact congrArg _ (if_pos hknown)
    · rw [exec_countPacket, htake]
      dsimp only
      rw [if_neg (Bool.not_eq_true _ ▸ hknown), if_neg (Bool.not_eq_true _ ▸ hearly), if_neg (Nat.not_le.mpr hlt)]
    · rw [exec_countPacket, htake]
      dsimp only
      rw [if_neg (Bool.not_eq_true _ ▸ hknown), if_neg (Bool.not_eq_true _ ▸ hearly), if_pos hfull]

end CapacityRounds

/-! ## Rows go to the experts (06 R233 to R240, 07 R264, R276) -/

section RowsDispatched

namespace Sys2Proof.Machine

open Sys2Proof

variable {s s1 : State} {sl x : ℕ} {st : Step} {k : Pkt} {data : Bytes} {e : ℕ × ℕ × Flit × Bytes}

theorem exec_dispatchChoice (sl : Fin 8) (x : XDie) (s : State) :
    exec (.dispatchChoice sl x) s = .next (s.dispatchChoice sl.val x.val) := rfl
theorem exec_dispatchPortWrite (x : XDie) (k : Pkt) (data : Bytes) (s : State) :
    exec (.dispatchPortWrite x k data) s = .next (s.dispatchWrite x.val k data) := rfl
theorem exec_returnPortWrite (x : XDie) (k : Pkt) (data : Bytes) (s : State) :
    exec (.returnPortWrite x k data) s = .next (s.returnWrite x.val k data) := rfl
theorem exec_batchComplete (sl : Fin 8) (slot : Fin 256) (s : State) :
    exec (.batchComplete sl slot) s = .next (s.batchComplete sl.val slot.val) := rfl

/-- The packets of a choice's row, and the counts of the dispatcher. -/
theorem State.dispatchChoice_sent {c : Choice} {r : ℕ} {bs : Bytes} (hst : s.step? sl = some st)
    (hc : st.nextChoice s.self x = some c) (hr : c.state = .admitted r)
    (hf : s.stageFirst st (Step.mayDispatch x) = true)
    (hw : s.waitsFor st.part [(loc st.d.routerIn + c.row * st.d.rowBytes, st.d.rowBytes)] = false)
    (hrd : s.unitRead st.part (xUnit x uDispatcher) (loc st.d.routerIn + c.row * st.d.rowBytes) st.d.rowBytes =
      (.ok bs, s1)) :
    s.dispatchChoice sl x =
      let n := Tab.get 0 st.sentTo (x * 65536 + c.pkg.toNat)
      let enc := encodeRow st.d.fmtIn.toNat st.d.width bs
      let sent := (rowPackets (st.dispatchHead s1.self c r enc.2.length) enc.1 enc.2).foldl (fun s d =>
        s.newXact (monWrite c.pkg (xUnit x uDispatcher) (dispatchPort (c.slot % 4) + n % 2 * 64) d) d
          (.monsoon sl) st.part) s1
      (sent.draw.2.updXdie x fun d => { d with
        choicesOut := satAdd d.choicesOut 1, dispatchStall := satAdd d.dispatchStall sent.draw.1 }).updStep sl
          fun st => { st with
            sentTo := Tab.put st.sentTo (x * 65536 + c.pkg.toNat) (n + 1)
            choices := st.choices.map fun y => if y.row = c.row ∧ y.rank = c.rank then { y with sent := true } else y } := by
  unfold State.dispatchChoice
  simp only [hst, hc]
  rw [if_neg (by simp [hf, hw]), hrd]
  simp only [hr]
  rfl

/-- A packet of a Monsoon port leaves its buffer. -/
theorem State.takeMon_eq {lo : ℕ} (ho : s.operational = true) (hrx : s.findRx k data = some e) (hp : monPacket k lo) :
    s.takeMon k data lo = some (s.takeRx e, chunkHead (e.2.2.2.take k.length.toNat)) := by
  obtain ⟨hop, hvc, hlo, hhi⟩ := hp
  unfold State.takeMon
  dsimp only
  rw [if_pos ⟨by simp [hop, ← hvc, hlo, hhi], ho⟩, hrx]

variable {s0 u : State} {h : ChunkHead}

theorem State.dispatchWrite_unarmed (ht : s0.takeMon k data (dispatchPort x) = some (u, h))
    (hst : u.stepOf h.group (tagStep h.tag) = none) : s0.dispatchWrite x k data = u.reply k 0x81 0 0 [] := by
  simp only [State.dispatchWrite, ht, hst]

/-- What the receiver takes of a chunk is acknowledged, and what it cannot take yet gets BUSY. -/
theorem State.dispatchWrite_armed (ht : s0.takeMon k data (dispatchPort x) = some (u, h))
    (hst : u.stepOf h.group (tagStep h.tag) = some (sl, st))
    (hw : u.waitsFor st.part ((u.batchRow st h.slot h.row).map fun a => (a, st.d.rowStride)).toList = false) :
    (∀ t, u.onDispatch sl x st h = some t → s0.dispatchWrite x k data = t.reply k 0x81 0 0 []) ∧
      (u.onDispatch sl x st h = none → s0.dispatchWrite x k data = u.reply k 0x81 6 0 []) := by
  unfold State.dispatchWrite
  simp only [ht, hst, hw, Bool.false_eq_true, if_false]
  exact ⟨fun t h => by rw [h], fun h => by rw [h]⟩

theorem State.returnWrite_unarmed (ht : s0.takeMon k data (returnPort x) = some (u, h))
    (hst : u.stepOf h.group (tagStep h.tag) = none) :
    s0.returnWrite x k data = (u.strayReturn x k h).reply k 0x81 0 0 [] := by
  simp only [State.returnWrite, ht, hst]

/-- What the combiner takes of a chunk is acknowledged, and what it cannot take yet gets BUSY. -/
theorem State.returnWrite_armed (ht : s0.takeMon k data (returnPort x) = some (u, h))
    (hst : u.stepOf h.group (tagStep h.tag) = some (sl, st))
    (hw : u.waitsFor st.part [(st.d.stageAt (tagToken h.tag - st.d.tokenBase) (tagRank h.tag), st.d.sstride)] = false) :
    (∀ t, u.onReturn sl x st h = some t → s0.returnWrite x k data = t.reply k 0x81 0 0 []) ∧
      (u.onReturn sl x st h = none → s0.returnWrite x k data = u.reply k 0x81 6 0 []) := by
  unfold State.returnWrite
  simp only [ht, hst, hw, Bool.false_eq_true, if_false]
  exact ⟨fun t h => by rw [h], fun h => by rw [h]⟩

/-- A batch whose rows are all there writes its record. -/
theorem State.batchComplete_eq {slot : ℕ} (hst : s.step? sl = some st) (hd : st.batchDue slot = true)
    (hf : s.stageFirst st (Step.mayComplete (slot % 4)) = true)
    (hw : s.waitsFor st.part [(loc (Tab.get ⟨0, false, 0, 0, 0⟩ st.slots slot).batch, 64)] = false)
    (hwr : s.unitWrite st.part (xUnit (slot % 4) uReceiver) (loc (Tab.get ⟨0, false, 0, 0, 0⟩ st.slots slot).batch)
      (leBytes 4 (st.batchRows slot) ++ leBytes 4 (Tab.get [] st.buffers slot).length ++ leBytes 4 st.d.rowStride ++
        zeros 52) = (.ok (), s1)) :
    s.batchComplete sl slot = (s1.updStep sl fun st => { st with batchDone := slot :: st.batchDone }).semAdd st.part
      (Tab.get ⟨0, false, 0, 0, 0⟩ st.slots slot).sem 1 (xUnit (slot % 4) uReceiver) := by
  unfold State.batchComplete
  simp only [hst]
  rw [if_neg (by simp [hd, hf, hw]), hwr]
  rfl

end Sys2Proof.Machine

open Sys2Proof Sys2Proof.Machine

/-- Settles O21: the dispatcher, the ports and the receiver each go one way through their checks. -/
theorem Sys2Proof.rowsAreDispatchedAndReceived : Obligations.RowsAreDispatchedAndReceived := by
  unfold Obligations.RowsAreDispatchedAndReceived
  refine ⟨fun sl x s s1 st c r bs hst hc hr hf hw hrd => ?_, fun x k data s e ho hrx => ?_,
    fun sl slot s s1 st hst => ?_⟩
  · intro n enc sent
    rw [exec_dispatchChoice, State.dispatchChoice_sent hst hc hr hf hw hrd]
  · intro h u
    refine ⟨fun hp => ?_, fun hp => ?_⟩
    · have ht := State.takeMon_eq ho hrx hp
      refine ⟨fun hst => ?_, fun sl st hst hw => ?_⟩
      · rw [exec_dispatchPortWrite, State.dispatchWrite_unarmed ht hst]
      · obtain ⟨htaken, hbusy⟩ := State.dispatchWrite_armed ht hst hw
        exact ⟨fun t ht => congrArg _ (htaken t ht), fun hn => congrArg _ (hbusy hn)⟩
    · have ht := State.takeMon_eq ho hrx hp
      refine ⟨fun hst => ?_, fun sl st hst hw => ?_⟩
      · rw [exec_returnPortWrite, State.returnWrite_unarmed ht hst]
      · obtain ⟨htaken, hbusy⟩ := State.returnWrite_armed ht hst hw
        exact ⟨fun t ht => congrArg _ (htaken t ht), fun hn => congrArg _ (hbusy hn)⟩
  · intro e hv hn hd hrows hf hw hwr
    have hdue : st.batchDue slot.val = true := by
      rw [Step.batchDue, Bool.and_eq_true_iff, Bool.and_eq_true_iff, Bool.and_eq_true_iff]
      exact ⟨⟨⟨hv, hn⟩, List.all_eq_true.mpr fun r hr => hrows r (List.mem_range.mp hr)⟩, by rw [hd]; rfl⟩
    rw [exec_batchComplete, State.batchComplete_eq hst hdue hf hw hwr]

end RowsDispatched

/-! ## Results return and commit (06 R244, 07 R258 to R274) -/

section ResultsReturned

namespace Sys2Proof.Machine

open Sys2Proof

variable {s s1 s2 s3 : State} {sl slot row : ℕ} {st : Step}

theorem exec_stepPairExpiry (s : State) : exec .stepPairExpiry s = .next s.expirePair := rfl
theorem exec_returnStart (sl : Fin 8) (slot : Fin 256) (s : State) :
    exec (.returnStart sl slot) s = .next (s.returnStart sl.val slot.val) := rfl
theorem exec_returnRowSend (sl : Fin 8) (slot : Fin 256) (s : State) :
    exec (.returnRowSend sl slot) s = .next (s.returnRow sl.val slot.val) := rfl
theorem exec_tokenCombine (sl : Fin 8) (row : ℕ) (s : State) :
    exec (.tokenCombine sl row) s = .next (s.tokenCombine sl.val row) := rfl
theorem exec_stepComplete (sl : Fin 8) (s : State) : exec (.stepComplete sl) s = .next (s.stepComplete sl.val) := rfl
theorem exec_stepCommitDone (sl : Fin 8) (s : State) : exec (.stepCommitDone sl) s = .next (s.stepCommit sl.val) := rfl

theorem State.returnStart_eq {v : ℕ × ℕ × ℕ × ℕ} (hst : s.step? sl = some st) (hv : Tab.get? st.returns slot = some v)
    (hd : st.batchDone.contains slot = true) (hr : Tab.get? st.returning slot = none) :
    s.returnStart sl slot =
      (s.updStep sl fun st => { st with returning := Tab.put st.returning slot (0, 0) }).endReturn sl slot := by
  unfold State.returnStart
  simp only [hst]
  exact if_neg (by rw [hv, hd, hr]; simp)

/-- The next row of a slot's batch, whose tag has been read. -/
structure RowDue (s : State) (sl slot : ℕ) (st : Step) (v : ℕ × ℕ × ℕ × ℕ) (row left at_ : ℕ) (tb : Bytes) (s1 : State) :
    Prop where
  step : s.step? sl = some st
  launched : Tab.get? st.returns slot = some v
  returning : Tab.get? st.returning slot = some (row, left)
  lt : row < st.batchRows slot
  first : s.stageFirst st (Step.mayDispatch (slot % 4)) = true
  place : s.batchRow st slot row = some at_
  free : s.waitsFor st.part [(at_, 16), (v.2.1 + row * v.2.2.1, st.d.width * retSize v.2.2.2)] = false
  read : s.unitRead st.part (xUnit (slot % 4) uDispatcher) at_ 16 = (.ok tb, s1)

variable {v : ℕ × ℕ × ℕ × ℕ} {left at_ : ℕ} {tb : Bytes}

theorem RowDue.place_if (h : RowDue s sl slot st v row left at_ tb s1) :
    (if row < st.batchRows slot ∧ s.stageFirst st (Step.mayDispatch (slot % 4)) = true then s.batchRow st slot row
      else none) = some at_ := by
  rw [if_pos ⟨h.lt, h.first⟩, h.place]

theorem State.returnRow_badTag (h : RowDue s sl slot st v row left at_ tb s1)
    (hbad : st.badTag (BitVec.ofNat 128 (leNat tb)) = true) :
    s.returnRow sl slot = s1.raiseStep st (slot % 4) (s1.stepRecord st (slot % 4) uDispatcher 0x030B slot row) := by
  unfold State.returnRow
  simp only [h.step, h.returning, h.launched, h.place_if, h.free, h.read, hbad, tryThen, Bool.false_eq_true, if_false,
    if_true]
  rfl

theorem State.returnRow_sent {bs : Bytes} (h : RowDue s sl slot st v row left at_ tb s1)
    (hgood : st.badTag (BitVec.ofNat 128 (leNat tb)) = false)
    (hrd : s1.unitRead st.part (xUnit (slot % 4) uDispatcher) (v.2.1 + row * v.2.2.1) (st.d.width * retSize v.2.2.2) =
      (.ok bs, s2)) :
    s.returnRow sl slot =
      let t : BitVec 128 := BitVec.ofNat 128 (leNat tb)
      let enc := encodeRow v.2.2.2 st.d.width bs
      let ps := rowPackets (st.returnHead t row slot v.2.2.2 enc.2.length) enc.1 enc.2
      (ps.foldl (fun s d => s.newXact (monWrite (tagSource t) (xUnit (slot % 4) uDispatcher)
        (returnPort (tagToken t % 4)) d) d (.ret sl slot) st.part) s2).updStep sl fun st =>
          { st with returning := Tab.put st.returning slot (row + 1, left + ps.length) } := by
  unfold State.returnRow
  simp only [h.step, h.returning, h.launched, h.place_if, h.free, h.read, hgood, hrd, tryThen,
    Bool.false_eq_true, if_false]
  rfl

/-- A token whose results are all staged is combined. -/
theorem State.tokenCombine_eq {l : List (BitVec 16 × Bytes)} (hst : s.step? sl = some st) (hlt : row < st.d.tokens)
    (hc : st.combined.contains row = false) (hr : st.ready row = true)
    (hf : s.stageFirst st (Step.mayCombine ((st.d.tokenBase + row) % 4)) = true)
    (hw : s.waitsFor st.part [(st.d.stageAt row 0, st.d.k * st.d.sstride),
      (loc st.d.status + row, (decide (st.d.status ≠ 0)).toNat)] = false)
    (hread : tryList (fun (c : Choice) s => tryThen (s.unitRead st.part (xUnit ((st.d.tokenBase + row) % 4) uCombiner)
      (st.d.stageAt row c.rank) (st.d.width * retSize st.d.retFmt.toNat)) fun bs s => (.ok (c.gate, bs), s))
        (st.admittedOf row) s = (.ok l, s1))
    (hwrite : s1.unitWrite st.part (xUnit ((st.d.tokenBase + row) % 4) uCombiner) (st.d.stageAt row 0)
      (st.combineRow (s1.partition st.part).calm l) = (.ok (), s2))
    (hstatus : (if st.d.status = 0 then (.ok (), s2)
      else s2.unitWrite st.part (xUnit ((st.d.tokenBase + row) % 4) uCombiner) (loc st.d.status + row)
        [st.statusByte row]) = (.ok (), s3)) :
    s.tokenCombine sl row = s3.updStep sl fun st => { st with combined := row :: st.combined } := by
  have hgo : ¬ (st.d.tokens ≤ row ∨ st.combined.contains row = true ∨ (!st.ready row) = true ∨
      (!s.stageFirst st (Step.mayCombine ((st.d.tokenBase + row) % 4))) = true ∨
      s.waitsFor st.part [(st.d.stageAt row 0, st.d.k * st.d.sstride),
        (loc st.d.status + row, (decide (st.d.status ≠ 0)).toNat)] = true) := by
    rw [hc, hr, hf, hw]
    simpa using hlt
  unfold State.tokenCombine
  simp only [hst]
  rw [if_neg hgo, hread]
  simp only [tryThen, hwrite]
  rw [hstatus]
  rfl

theorem State.stepComplete_eq (hst : s.step? sl = some st) (hc : st.complete = false) (hf : st.finished = true)
    (hd : s.xNow 0 ≤ st.deadline) :
    s.stepComplete sl = (s.updStep sl fun st => { st with complete := true, doneAt := s.xNow 0 }).rememberPair
      st.d.group st.d.step := by
  unfold State.stepComplete
  simp only [hst]
  exact if_neg (by simpa [hc, hf] using hd)

theorem State.stepCommit_eq {l : List Unit} (hst : s.step? sl = some st) (hc : st.complete = true)
    (hf : s.stageFirst st (·.complete) = true)
    (hw : s.waitsFor st.part ((List.range st.d.tokens).flatMap fun i =>
      [(st.d.stageAt i 0, st.d.outBytes), (st.d.outRow i, st.d.outBytes)]) = false)
    (hcopy : tryList (fun i s =>
      tryThen (s.unitRead st.part (xUnit ((st.d.tokenBase + i) % 4) uCombiner) (st.d.stageAt i 0) st.d.outBytes)
        fun bs s => s.unitWrite st.part (xUnit ((st.d.tokenBase + i) % 4) uCombiner) (st.d.outRow i) bs)
      (List.range st.d.tokens) s = (.ok l, s1)) :
    s.stepCommit sl =
      let t := { s1 with steps := Tab.del s1.steps sl }.finishItem st.part st.pos st.doneAt st.late
      if st.d.combineSem.getLsbD 7 then t.semAdd st.part (st.d.combineSem.toNat % 64) 1 (xUnit 0 uAdmitter) else t := by
  have hgo : ¬ ((!st.complete) = true ∨ (!s.stageFirst st (·.complete)) = true ∨
      s.waitsFor st.part ((List.range st.d.tokens).flatMap fun i =>
        [(st.d.stageAt i 0, st.d.outBytes), (st.d.outRow i, st.d.outBytes)]) = true) := by
    rw [hc, hf, hw]
    decide
  unfold State.stepCommit
  simp only [hst]
  rw [if_neg hgo, hcopy]
  rfl

theorem State.expirePair_eq {g : BitVec 12} {p : BitVec 16} {t : ℕ} {rest : List (BitVec 12 × BitVec 16 × ℕ)}
    (h : s.pairs = (g, p, t) :: rest) :
    s.expirePair = if t + 1000000 ≤ s.now ∧ s.moves = true then { s with pairs := rest } else s := by
  simp only [State.expirePair, h]

end Sys2Proof.Machine

open Sys2Proof Sys2Proof.Machine

/-- Settles O22: each part of the way back goes one way through its checks. -/
theorem Sys2Proof.resultsReturnAndCommit : Obligations.ResultsReturnAndCommit := by
  unfold Obligations.ResultsReturnAndCommit
  refine ⟨fun sl slot s st v hst hv => ⟨fun hd hr => ?_, fun row left at_ s1 tb hr hlt hf hat hw hrd => ?_⟩,
    fun sl row s s1 s2 s3 st l hst hlt hc hr hf hw => ?_,
    fun s => ⟨fun sl st hst hc hf hd => ?_, fun sl st s1 l hst hc hf hw hcopy => ?_, fun g p t rest h => ?_⟩⟩
  · rw [exec_returnStart, State.returnStart_eq hst hv hd hr]
  · intro t unit
    have hdue : RowDue s sl.val slot.val st v row left at_ tb s1 := ⟨hst, hv, hr, hlt, hf, hat, hw, hrd⟩
    refine ⟨fun hbad => ?_, fun s2 bs hgood hrd => ?_⟩
    · rw [exec_returnRowSend, State.returnRow_badTag hdue hbad]
    · rw [exec_returnRowSend, State.returnRow_sent hdue hgood hrd]
  · intro unit hread hwrite hstatus
    rw [exec_tokenCombine, State.tokenCombine_eq hst hlt hc hr hf hw hread hwrite hstatus]
  · rw [exec_stepComplete, State.stepComplete_eq hst hc hf hd]
  · intro t
    rw [exec_stepCommitDone, State.stepCommit_eq hst hc hf hw hcopy]
  · rw [exec_stepPairExpiry, State.expirePair_eq h]

end ResultsReturned

/-! ## Forecast requests (08 R285 to R299) -/

section ForecastRequests

namespace Sys2Proof.Machine

open Sys2Proof

variable {s s1 s2 : State} {p sl x : ℕ} {i : Item} {bs : Bytes} {f : Fc}

theorem exec_forecastArm (p : PartId) (s : State) : exec (.forecastArm p) s = .next (s.forecastArm p.val) := rfl
theorem exec_forecastStart (n : Fin 16) (s : State) : exec (.forecastStart n) s = .next (s.forecastStart n.val) := rfl
theorem exec_forecastSegment (n : Fin 16) (x : XDie) (s : State) :
    exec (.forecastSegment n x) s = .next (s.forecastSegment n.val x.val) := rfl
theorem exec_forecastListAssembly (n : Fin 16) (s : State) :
    exec (.forecastListAssembly n) s = .next (s.forecastList n.val) := rfl
theorem exec_forecastComplete (n : Fin 16) (s : State) :
    exec (.forecastComplete n) s = .next (s.forecastComplete n.val) := rfl

/-- The next Forecast entry of an active partition's ring, with the lowest free slot and its descriptor read. -/
structure FcDue (s : State) (p : ℕ) (i : Item) (sl : ℕ) (bs : Bytes) (s1 : State) : Prop where
  active : (s.partition p).state = .active
  moves : s.moves = true
  next : ((s.partition p).ring.items.find? fun i => i.type = .forecast && !i.armed) = some i
  slot : ((List.range 16).find? fun i => (Tab.get? s.forecasts i).isNone) = some sl
  free : s.waitsFor p [(gLocal i.arg, 128)] = false
  read : s.unitRead p (fcUnit 0) (gLocal i.arg) 128 = (.ok bs, s1)

/-- A request as it is armed. -/
def State.newFc (s : State) (p : ℕ) (i : Item) (bs : Bytes) : Fc where
  part := p
  pos := i.pos
  desc := i.arg.toNat
  d := fcDescOf bs
  equinox := i.equinox
  deadline := i.deadline
  late := s.xLate i.equinox
  phase := 1
  pinList := []
  scored := []
  kept := []
  hg := 0
  lists := 0
  seq := s.nextSeq

/-- A request whose descriptor has been read is refused, or late, or armed. -/
theorem State.forecastArm_eq (h : FcDue s p i sl bs s1) :
    s.forecastArm p =
      if !s1.fcDescOk bs then s1.raise p (s1.fcRecord 0 0x030D i.arg.toNat)
      else match (if (s1.partition p).calm then s1.lateDie i.equinox i.window else none) with
        | some x => s1.raise p (s1.lateRecord (fcUnit x) (s1.xNow x) i.equinox)
        | none => { s1 with forecasts := Tab.put s1.forecasts sl (s1.newFc p i bs) }.updItem p i.pos fun i =>
            { i with armed := true, slot := sl } := by
  unfold State.forecastArm
  dsimp only
  rw [if_pos ⟨h.active, h.moves⟩, h.next, h.slot]
  dsimp only
  unfold State.armFc
  rw [h.free, h.read]
  rfl

/-- A request's update depends on what it makes of the request that is there. -/
theorem State.updFc_congr (hf : Tab.get? s.forecasts sl = some f) {g g' : Fc → Fc} (h : g f = g' f) :
    s.updFc sl g = s.updFc sl g' := by
  simp only [State.updFc, hf, h]

theorem MemFrame.unitRead {unit a n : ℕ} {s0 : State} (h : MemFrame s0 s) :
    MemFrame s0 (s.unitRead p unit a n).2 := by
  unfold State.unitRead
  split
  · next e => exact MemFrame.sndOfEq e h.peek
  · next e => exact MemFrame.sndOfEq e h.peek

theorem State.fc?_some (hf : s.fc? sl = some f) : Tab.get? s.forecasts sl = some f := by
  unfold State.fc? at hf
  exact (Option.filter_eq_some_iff.mp hf).1

theorem State.forecastStart_eq (hf : s.fc? sl = some f) (hp : f.phase = 1) (he : f.equinox ≤ s.xNow 0)
    (hw : s.waitsFor f.part [(loc f.d.pins, 4 * f.d.pinCount)] = false)
    (hrd : s.unitRead f.part (fcUnit 0) (loc f.d.pins) (4 * f.d.pinCount) = (.ok bs, s1))
    (hpin : badPin f.d.nblk ((List.range f.d.pinCount).map fun i => field bs (4 * i) 4) = none) :
    s.forecastStart sl = (s1.updItem f.part f.pos fun i => { i with started := true }).updFc sl fun f =>
      Fc.settle { f with phase := 2, pinList := (List.range f.d.pinCount).map fun i => field bs (4 * i) 4 } := by
  have hgo : ¬ (f.phase ≠ 1 ∨ s.xNow 0 < f.equinox ∨
      s.waitsFor f.part [(loc f.d.pins, 4 * f.d.pinCount)] = true) := by
    rw [hp, hw]
    simpa using he
  unfold State.forecastStart
  simp only [hf]
  rw [if_neg hgo, hrd]
  simp only [hpin]
  have hsame : s1.forecasts = s.forecasts :=
    (MemFrame.sndOfEq hrd (MemFrame.refl s).unitRead).same (·.forecasts) (by intros; rfl)
  refine State.updFc_congr (f := f) ?_ rfl
  exact (congrArg (Tab.get? · sl) hsame).trans (State.fc?_some hf)

theorem State.forecastComplete_eq (hf : s.fc? sl = some f) (hp : f.phase = 4) (hd : s.xNow 0 ≤ f.deadline) :
    s.forecastComplete sl =
      let t := { s with forecasts := Tab.del s.forecasts sl, fcRequests := satAdd s.fcRequests 1 }.finishItem
        f.part f.pos (s.xNow 0) f.late
      if f.d.sem.getLsbD 7 then t.semAdd f.part (f.d.sem.toNat % 64) 1 (fcUnit 0) else t := by
  have hgo : ¬ (f.phase ≠ 4 ∨ s.xNow 0 > f.deadline) := by
    rw [hp]
    simpa using hd
  unfold State.forecastComplete
  simp only [hf]
  rw [if_neg hgo]
  rfl

/-! ### Segments -/

theorem State.updFc_forecasts_some (hf : Tab.get? s.forecasts sl = some f) (g : Fc → Fc) :
    Tab.get? (s.updFc sl g).forecasts sl = some (g f) := by
  simp only [State.updFc, hf]
  exact Tab.get?_put_self ..

/-- The best candidates of each row in a segment. -/
def Fc.best (f : Fc) (h g : ℕ) (sc : List (List ℕ)) : List (ℕ × ℕ × ℕ × Word32) :=
  (List.range f.d.rows).flatMap fun r =>
    (fcTop f.d.kseg ((f.cands g).zip (sc.map fun l => l.getD r 0))).map fun e => (h, r, e.1, BitVec.ofNat 32 e.2)

/-- A request once a segment of it has been scored. -/
def Fc.scoredSeg (h g : ℕ) (kept : List (ℕ × ℕ × ℕ × Word32)) (f : Fc) : Fc :=
  let f := { f with scored := (h, g) :: f.scored, kept := f.kept ++ kept }
  Fc.settle { f with hg := (([0, 1, 2, 3].flatMap f.todo).map (·.1)).foldl min (f.d.hgroups - 1) }

theorem Fc.scoredSeg_scored (h g : ℕ) (kept : List (ℕ × ℕ × ℕ × Word32)) (f : Fc) :
    (f.scoredSeg h g kept).scored = (h, g) :: f.scored := rfl

theorem Fc.scoredSeg_kept (h g : ℕ) (kept : List (ℕ × ℕ × ℕ × Word32)) (f : Fc) :
    (f.scoredSeg h g kept).kept = f.kept ++ kept := rfl

/-- The next segment of an X-die, when no other request and no step goes first. -/
theorem State.forecastSegment_eq {h g : ℕ} {rest : List (ℕ × ℕ)} {pb : Bytes} {sc : List (List ℕ)}
    (hf : s.fc? sl = some f) (he : f.equinox ≤ s.xNow x) (ht : f.todo x = (h, g) :: rest)
    (hfirst : s.fcFirst x f.equinox f.seq = false)
    (hsteps : ∀ e ∈ s.steps, e.2.faulted = false → s.mayScore x e.2 = true →
      f.equinox < e.2.equinox ∨ (f.equinox = e.2.equinox ∧ f.seq ≤ e.2.seq))
    (hw : s.waitsFor f.part (f.segAreas h g) = false)
    (hrd : s.unitRead f.part (fcUnit x) (loc f.d.probes + h * f.d.rows * 128) (f.d.rows * 128) = (.ok pb, s1))
    (hsc : tryList (fun b s => s.fcCand x f h ((List.range f.d.rows).map fun r =>
      fcVals f.d.fmt.toNat ((pb.drop (r * 128)).take 128)) b) (f.cands g) s1 = (.ok sc, s2)) :
    s.forecastSegment sl x =
      { s2.draw.2.updXdie x fun d => { d with scoreBusy := satAdd d.scoreBusy s2.draw.1 } with
        fcScored := satAdd s2.fcScored (f.cands g).length }.updFc sl (Fc.scoredSeg h g (f.best h g sc)) := by
  have hgo : ¬ (s.fcFirst x f.equinox f.seq = true ∨ (s.steps.any fun e => !e.2.faulted && s.mayScore x e.2 &&
      (e.2.equinox < f.equinox || (e.2.equinox = f.equinox && e.2.seq < f.seq))) = true) := by
    rw [hfirst]
    simp only [Bool.false_eq_true, false_or, List.any_eq_true, not_exists, not_and, Bool.and_eq_true, Bool.not_eq_true',
      Bool.or_eq_true, decide_eq_true_eq]
    rintro e hmem ⟨hfault, hmay⟩ hlt
    have := hsteps e hmem hfault hmay
    omega
  unfold State.forecastSegment
  simp only [hf]
  rw [if_pos he, ht]
  dsimp only
  rw [if_neg hgo, hw, if_neg Bool.false_ne_true, hrd]
  simp only [tryThen, hsc]
  rfl

/-! ### Lists -/

theorem State.forecastList_eq {h r : ℕ} {l : List Unit} (hf : s.fc? sl = some f) (hm : f.mayAssemble = true)
    (hrows : 0 < f.d.rows) (hh : h = f.lists / f.d.rows) (hr : r = f.lists % f.d.rows)
    (hfirst : ∀ e ∈ s.forecasts, e.2.mayAssemble = true → f.after e.2 = false)
    (hw : s.waitsFor f.part (f.listAreas (loc f.d.out + (h * f.d.rows + r) * f.d.outStride) h r) = false)
    (hl : tryList (fun (e : ℕ × ℕ × Bool × Bool) s =>
      s.fcEntry f (loc f.d.out + (h * f.d.rows + r) * f.d.outStride) h e.1 e.2)
      ((List.range (f.selected h r).length).zip (f.selected h r)) s = (.ok l, s1))
    (hwr : s1.unitWrite f.part (fcUnit 0) (loc f.d.out + (h * f.d.rows + r) * f.d.outStride) (f.header h r) =
      (.ok (), s2)) :
    s.forecastList sl = s2.updFc sl fun f => Fc.settle { f with lists := f.lists + 1 } := by
  have hmax : max 1 f.d.rows = f.d.rows := max_eq_right hrows
  have hgo : ¬ ((!f.mayAssemble) = true ∨ (s.forecasts.any fun e => e.2.mayAssemble && f.after e.2) = true ∨
      s.waitsFor f.part (f.listAreas (loc f.d.out + (h * f.d.rows + r) * f.d.outStride) h r) = true) := by
    have hno : (s.forecasts.any fun e => e.2.mayAssemble && f.after e.2) = false := by
      simp only [List.any_eq_false, Bool.and_eq_true, not_and, Bool.not_eq_true]
      exact hfirst
    rw [hm, hno, hw]
    decide
  unfold State.forecastList
  simp only [hf, hmax, ← hh, ← hr]
  rw [if_neg hgo, hl]
  simp only [tryThen, hwr]
  rfl

end Sys2Proof.Machine

open Sys2Proof Sys2Proof.Machine

/-- Settles O23: each part of a request's work goes one way through its checks. -/
theorem Sys2Proof.forecastRequestsRun : Obligations.ForecastRequestsRun := by
  unfold Obligations.ForecastRequestsRun
  refine ⟨fun s s1 sl bs => ⟨fun p i ha hm hi hsl hw hrd => ?_, fun n f hf hp he hw hrd hpin => ?_, fun n f hf hp hd => ?_⟩,
    fun n s s1 s2 f hf => ⟨fun x h g rest pb sc he ht hfirst hsteps hw hrd hsc => ?_,
      fun h r l hm hrows hh hr hfirst hw hl hwr => ?_⟩⟩
  · have harm := State.forecastArm_eq ⟨ha, hm, hi, hsl, hw, hrd⟩
    refine ⟨fun hbad => ?_, fun x hok hcalm hlate => ?_, fun hok hlate => ?_⟩
    · rw [exec_forecastArm, harm, if_pos (by rw [hbad]; rfl)]
    · rw [exec_forecastArm, harm, if_neg (by rw [hok]; decide), if_pos hcalm, hlate]
    · have hnone : (if (s1.partition p.val).calm then s1.lateDie i.equinox i.window else none) = none := by
        rcases hlate with hlate | hlate
        · rw [if_neg (by rw [hlate]; decide)]
        · rw [hlate, ite_self]
      refine ⟨s1.newFc p.val i bs, rfl, rfl, rfl, rfl, rfl, rfl, rfl, rfl, ?_⟩
      rw [exec_forecastArm, harm, if_neg (by rw [hok]; decide), hnone]
  · rw [exec_forecastStart, State.forecastStart_eq hf hp he hw hrd hpin]
  · intro t
    rw [exec_forecastComplete, State.forecastComplete_eq hf hp hd]
  · have hseg := State.forecastSegment_eq hf he ht hfirst hsteps hw hrd hsc
    refine ⟨_, (exec_forecastSegment n x s).trans (congrArg _ hseg), ?_, ?_, ?_, fun f' hf' => ?_⟩
    · rw [State.updFc_mem]
      rfl
    · rw [State.xdie, State.updFc_xdies]
      have hx := s2.draw.2.updXdie_xdie_self x.val fun d => { d with scoreBusy := satAdd d.scoreBusy s2.draw.1 }
      exact congrArg XDieState.scoreBusy hx
    · rw [State.updFc_fcScored]
    · refine ⟨_, State.updFc_forecasts_some ?_ _, Fc.scoredSeg_scored .., Fc.scoredSeg_kept ..⟩
      exact hf'
  · rw [exec_forecastListAssembly, State.forecastList_eq hf hm hrows hh hr hfirst hw hl hwr]

end ForecastRequests

/-! ## Buffer pools (09 R310 to R319) -/

section BufferPools

namespace Sys2Proof.Machine

open Sys2Proof

variable {s s1 s2 : State} {p n i : ℕ} {x : Pool} {g : Word} {bs : Bytes} {a : Agent}

/-- An access of a port of the manager by its caller. -/
theorem exec_bpmAlloc (h : s.poolCaller a = some p) (q : Fin 8) :
    exec (.bpmAlloc a q) s = .next ((s.bpmAllocOp p q.val).2.emit (.answer a (some (s.bpmAllocOp p q.val).1))) := by
  change Host.Outcome.next (s.allocPort a q.val) = _
  rw [State.allocPort, h]

theorem exec_bpmIncr (h : s.poolCaller a = some p) (g : Word) :
    exec (.bpmIncr a g) s = .next ((s.bpmRefOp p true g).emit (.answer a (some 0))) := by
  change Host.Outcome.next (s.refPort a true g) = _
  rw [State.refPort, h]

theorem exec_bpmDecr (h : s.poolCaller a = some p) (g : Word) :
    exec (.bpmDecr a g) s = .next ((s.bpmRefOp p false g).emit (.answer a (some 0))) := by
  change Host.Outcome.next (s.refPort a false g) = _
  rw [State.refPort, h]

theorem exec_bpmGrant (h : s.poolCaller a = some p) (q : Fin 8) (v : Word) :
    exec (.bpmGrant a q v) s = .next ((s.bpmGrantOp p q.val v).emit (.answer a (some 0))) := by
  change Host.Outcome.next (s.grantPort a q.val v) = _
  rw [State.grantPort, h]

theorem exec_bpmCacheRefill (n : Fin 256) (s : State) :
    exec (.bpmCacheRefill n) s = .next (if s.poolLow n.val then s.poolRefill n.val else s) := rfl
theorem exec_bpmCacheWriteback (n : Fin 256) (s : State) :
    exec (.bpmCacheWriteback n) s = .next (if s.poolFull n.val then s.poolWriteback n.val else s) := rfl

theorem State.updPool_pools_some (h : Tab.get? s.pools n = some x) (f : Pool → Pool) :
    Tab.get? (s.updPool n f).pools n = some (f x) := by
  simp only [State.updPool, h]
  exact Tab.get?_put_self ..

/-! ### Allocation -/

/-- The newest index of the cache is taken. -/
theorem State.poolTake_cached {rest : List ℕ} (hx : Tab.get? s.pools n = some x) (hc : x.cache = i :: rest)
    (hs : s.setBuffer n x i 1 = (true, s1)) :
    s.poolTake n = (some i, { s1.updPool n (fun x => { x with cache := rest, low := min x.low (x.freeCount - 1) }) with
      bpm := { s1.bpm with allocs := satAdd s1.bpm.allocs 1 } }) := by
  unfold State.poolTake
  simp only [hx, hc, hs, List.isEmpty_cons, Bool.false_eq_true, false_and, if_false, State.updPool_bpm]

/-- A pool without free buffers has neither cached indices nor a ring. -/
theorem Pool.freeCount_eq_zero (h : x.freeCount = 0) : x.cache = [] ∧ x.ringLen = 0 := by
  unfold Pool.freeCount at h
  exact ⟨List.length_eq_zero_iff.mp (by omega), by omega⟩

theorem State.poolTake_empty (hx : Tab.get? s.pools n = some x) (h : x.freeCount = 0) : s.poolTake n = (none, s) := by
  obtain ⟨hc, hr⟩ := Pool.freeCount_eq_zero h
  unfold State.poolTake
  simp only [hx, hc, hr, ne_eq, not_true_eq_false, and_false, if_false]

theorem State.bpmAllocOp_cached {q : ℕ} {rest : List ℕ} (hx : Tab.get? s.pools (p * 8 + q) = some x)
    (hc : x.cache = i :: rest) (hs : s.setBuffer (p * 8 + q) x i 1 = (true, s1)) :
    s.bpmAllocOp p q =
      let s2 := { s1.updPool (p * 8 + q) (fun x => { x with cache := rest, low := min x.low (x.freeCount - 1) }) with
        bpm := { s1.bpm with allocs := satAdd s1.bpm.allocs 1 } }
      (s2.global (x.bufAddr i), s2) := by
  unfold State.bpmAllocOp
  simp only [hx, State.poolTake_cached hx hc hs]

theorem State.bpmAllocOp_empty {q : ℕ} (hx : Tab.get? s.pools (p * 8 + q) = some x) (h : x.freeCount = 0) :
    s.bpmAllocOp p q = (0x8000000000000001, s.noteEmpty) := by
  unfold State.bpmAllocOp
  simp only [hx, State.poolTake_empty hx h]
  rw [if_pos h]
  rfl

theorem State.bpmAllocOp_undefined {q : ℕ} (hx : Tab.get? s.pools (p * 8 + q) = none) :
    s.bpmAllocOp p q = (Config.freeWord s.free, { s with free := s.free + 1 }.bpmAbsent p 0x0703 (p * 8 + q)
      (s.global (bpmBase + 0x20000 + q * 8)) 1) := by
  unfold State.bpmAllocOp
  simp only [hx]

/-! ### Reference counts -/

/-- A reference operation on a buffer whose count has been read. -/
theorem State.bpmRefOp_counted (hb : s.bufferAt g = some (n, x, i))
    (hr : s.metaRead n x (x.countAddr i) 2 = (some bs, s1)) (up : Bool) :
    s.bpmRefOp p up g =
      if x.owner ≠ p ∧ !x.grant.getLsbD p then s1.bpmFault p 0x0702 n g (leNat bs) (if up then 2 else 3)
      else if leNat bs = 0 then
        s1.bpmFault p (if up then 0x0704 else 0x0701) n g (leNat bs) (if up then 2 else 3)
      else if up then
        (if leNat bs ≥ 0xFFFF then s1.bpmFault p 0x0705 n g (leNat bs) (if up then 2 else 3)
          else (s1.setBuffer n x i (leNat bs + 1)).2)
      else if leNat bs = 1 then s1.lastRelease n x i
      else (s1.setBuffer n x i (leNat bs - 1)).2 := by
  unfold State.bpmRefOp
  simp only [hb, hr]

/-- The owner of a pool and the holders of its grant may count. -/
theorem Pool.mayCount (h : x.owner = p ∨ x.grant.getLsbD p = true) :
    ¬ (x.owner ≠ p ∧ (!x.grant.getLsbD p) = true) := by
  rintro ⟨hne, hno⟩
  rcases h with h | h
  · exact hne h
  · simp [h] at hno

/-- A buffer's last reference goes, and its index enters the cache. -/
theorem State.lastRelease_cached (hf : s.cacheFull n = false) (hs : s.setBuffer n x i 0 = (true, s1)) :
    s.lastRelease n x i = s1.poolFree n i := by
  unfold State.lastRelease
  simp only [hf, hs, Bool.false_eq_true, if_false]

/-! ### The free ring -/

theorem State.poolRefill_eq (hx : Tab.get? s.pools n = some x)
    (hr : s.metaRead n x (x.ringAddr x.ringHead) (4 * min 64 x.ringLen) = (some bs, s1)) :
    s.poolRefill n = s1.updPool n fun y => { y with
      cache := (List.range (min 64 x.ringLen)).map (fun i => field bs (4 * i) 4) ++ y.cache
      ringHead := y.ringHead + min 64 x.ringLen } := by
  unfold State.poolRefill
  simp only [hx, hr]

theorem State.poolWriteback_eq (hx : Tab.get? s.pools n = some x) (hl : 448 < x.cache.length)
    (hw : s.metaWrite n x (x.ringAddr x.ringTail)
      ((x.cache.drop (x.cache.length - 64)).reverse.flatMap (leBytes 4)) = (true, s1)) :
    s.poolWriteback n = s1.updPool n fun y => { y with
      cache := y.cache.take (y.cache.length - 64), ringTail := y.ringTail + 64 } := by
  have hmin : min 64 x.cache.length = 64 := by omega
  unfold State.poolWriteback
  simp only [hx, hmin, hw]

end Sys2Proof.Machine

open Sys2Proof Sys2Proof.Machine

/-- Settles O24: each operation of the manager goes one way through its checks, and a move between cache and ring keeps
their sum. -/
theorem Sys2Proof.poolsKeepTheirBuffers : Obligations.PoolsKeepTheirBuffers := by
  unfold Obligations.PoolsKeepTheirBuffers
  refine ⟨fun a q s p hp => ?_, fun a s p g hp => ⟨fun n x i s1 bs hb hr hmay => ?_, fun n x i s1 bs hb hr hown hgrant => ?_,
    fun hb => ?_, fun q x m hx => ?_⟩, fun n s x hx hm => ⟨fun s1 bs hc hlt hr hsame => ?_, fun s1 hc hle hw hsame => ?_⟩⟩
  · intro n
    refine ⟨fun x i rest hx hc s1 hs => ?_, fun x hx h => ?_, fun hx => ?_⟩
    · intro s2
      rw [exec_bpmAlloc hp, State.bpmAllocOp_cached hx hc hs]
    · rw [exec_bpmAlloc hp, State.bpmAllocOp_empty hx h]
    · rw [exec_bpmAlloc hp, State.bpmAllocOp_undefined hx]
  · have hcount := State.bpmRefOp_counted (p := p) hb hr
    refine ⟨fun h1 hmax => ?_, fun h1 => ?_, fun s2 h1 hfull hset => ?_, fun h0 => ⟨?_, ?_⟩⟩
    · rw [exec_bpmIncr hp, hcount, if_neg (Pool.mayCount hmay), if_neg (by omega), if_pos rfl, if_neg (by omega)]
    · rw [exec_bpmDecr hp, hcount, if_neg (Pool.mayCount hmay), if_neg (by omega), if_neg Bool.false_ne_true,
        if_neg (by omega)]
    · rw [exec_bpmDecr hp, hcount, if_neg (Pool.mayCount hmay), if_neg (by omega), if_neg Bool.false_ne_true,
        if_pos h1, State.lastRelease_cached hfull hset]
    · rw [exec_bpmIncr hp, hcount, if_neg (Pool.mayCount hmay), if_pos h0, h0]
      rfl
    · rw [exec_bpmDecr hp, hcount, if_neg (Pool.mayCount hmay), if_pos h0, h0]
      rfl
  · rw [exec_bpmDecr hp, State.bpmRefOp_counted hb hr, if_pos ⟨hown, by rw [hgrant]; rfl⟩]
    rfl
  · rw [exec_bpmDecr hp, State.bpmRefOp, hb]
    rfl
  · rw [exec_bpmGrant hp, State.bpmGrantOp]
    simp only [hx]
  · have hlow : s.poolLow n.val = true := by
      have hne : x.ringTail - x.ringHead ≠ 0 := by omega
      simp [State.poolLow, hx, hc, hm, Pool.ringLen, hne]
    refine ⟨_, _, (exec_bpmCacheRefill n s).trans (congrArg _ ((if_pos hlow).trans (State.poolRefill_eq hx hr))),
      State.updPool_pools_some (by rw [hsame]; exact hx) _, ?_, rfl, rfl, rfl⟩
    simp only [Pool.freeCount, Pool.ringLen, List.length_append, List.length_map, List.length_range]
    omega
  · have hfull : s.poolFull n.val = true := by simp [State.poolFull, hx, hc, hm]
    refine ⟨_, _, (exec_bpmCacheWriteback n s).trans (congrArg _ ((if_pos hfull).trans (State.poolWriteback_eq hx hc hw))),
      State.updPool_pools_some (by rw [hsame]; exact hx) _, ?_, rfl, rfl, rfl⟩
    simp only [Pool.freeCount, Pool.ringLen, List.length_take]
    omega

end BufferPools

/-! ## The Reed–Solomon code of GUARD_CORRECT (10 R330)

Multiplication by α is a map on bytes that respects XOR. Two such maps that agree on the eight powers of two agree on every
byte, so that an equation of the field that is linear in one factor is checked on eight values of it. -/

section ReedSolomon

namespace Sys2Proof.Machine

open Sys2Proof

/-- A map on bytes that respects XOR. -/
structure ByteLinear (f : ℕ → ℕ) : Prop where
  lt : ∀ a, a < 256 → f a < 256
  xor : ∀ a b, a < 256 → b < 256 → f (a ^^^ b) = f a ^^^ f b

theorem ByteLinear.zero {f : ℕ → ℕ} (hf : ByteLinear f) : f 0 = 0 := by
  have h := hf.xor 0 0 (by decide) (by decide)
  rwa [Nat.xor_self, Nat.xor_self] at h

theorem ByteLinear.id : ByteLinear fun a => a := ⟨fun _ h => h, fun _ _ _ _ => rfl⟩

theorem ByteLinear.const_zero : ByteLinear fun _ => 0 := ⟨fun _ _ => by decide, fun _ _ _ _ => rfl⟩

theorem ByteLinear.comp {f g : ℕ → ℕ} (hf : ByteLinear f) (hg : ByteLinear g) : ByteLinear fun a => f (g a) :=
  ⟨fun a h => hf.lt _ (hg.lt a h), fun a b ha hb => by
    rw [hg.xor a b ha hb, hf.xor _ _ (hg.lt a ha) (hg.lt b hb)]⟩

theorem ByteLinear.add {f g : ℕ → ℕ} (hf : ByteLinear f) (hg : ByteLinear g) : ByteLinear fun a => f a ^^^ g a :=
  ⟨fun a h => Nat.xor_lt_two_pow (n := 8) (hf.lt a h) (hg.lt a h), fun a b ha hb => by
    rw [hf.xor a b ha hb, hg.xor a b ha hb]
    ac_rfl⟩

theorem ByteLinear.iterate {f : ℕ → ℕ} (hf : ByteLinear f) (n : ℕ) : ByteLinear f^[n] := by
  induction n with
  | zero => exact ByteLinear.id
  | succ n ih => exact ih.comp hf

/-- The power of two of a bit of a byte, if it is set. -/
def bitPart (v k : ℕ) : ℕ := if v.testBit k then 2 ^ k else 0

/-- A byte is the sum of its bits. -/
theorem eq_xor_bitParts : ∀ v < 256, v = bitPart v 0 ^^^ (bitPart v 1 ^^^ (bitPart v 2 ^^^ (bitPart v 3 ^^^
    (bitPart v 4 ^^^ (bitPart v 5 ^^^ (bitPart v 6 ^^^ bitPart v 7)))))) := by decide +kernel

theorem bitPart_lt {v k : ℕ} (hk : k < 8) : bitPart v k < 256 := by
  unfold bitPart
  split
  · exact (Nat.pow_lt_pow_right (by decide) hk)
  · decide

/-- Linear maps that agree on the powers of two are the same on bytes. -/
theorem ByteLinear.ext {f g : ℕ → ℕ} (hf : ByteLinear f) (hg : ByteLinear g)
    (h : ∀ k < 8, f (2 ^ k) = g (2 ^ k)) {v : ℕ} (hv : v < 256) : f v = g v := by
  have hpart : ∀ k < 8, f (bitPart v k) = g (bitPart v k) := by
    intro k hk
    unfold bitPart
    split
    · exact h k hk
    · rw [hf.zero, hg.zero]
  have hsum : ∀ {a b : ℕ}, a < 256 → b < 256 → f a = g a → f b = g b → f (a ^^^ b) = g (a ^^^ b) := by
    intro a b ha hb ea eb
    rw [hf.xor a b ha hb, hg.xor a b ha hb, ea, eb]
  have hlt : ∀ {a b : ℕ}, a < 256 → b < 256 → a ^^^ b < 256 := fun ha hb => Nat.xor_lt_two_pow (n := 8) ha hb
  have b0 := bitPart_lt (v := v) (k := 0) (by decide)
  have b1 := bitPart_lt (v := v) (k := 1) (by decide)
  have b2 := bitPart_lt (v := v) (k := 2) (by decide)
  have b3 := bitPart_lt (v := v) (k := 3) (by decide)
  have b4 := bitPart_lt (v := v) (k := 4) (by decide)
  have b5 := bitPart_lt (v := v) (k := 5) (by decide)
  have b6 := bitPart_lt (v := v) (k := 6) (by decide)
  have b7 := bitPart_lt (v := v) (k := 7) (by decide)
  rw [eq_xor_bitParts v hv]
  refine hsum b0 (hlt b1 (hlt b2 (hlt b3 (hlt b4 (hlt b5 (hlt b6 b7)))))) (hpart 0 (by decide)) ?_
  refine hsum b1 (hlt b2 (hlt b3 (hlt b4 (hlt b5 (hlt b6 b7))))) (hpart 1 (by decide)) ?_
  refine hsum b2 (hlt b3 (hlt b4 (hlt b5 (hlt b6 b7)))) (hpart 2 (by decide)) ?_
  refine hsum b3 (hlt b4 (hlt b5 (hlt b6 b7))) (hpart 3 (by decide)) ?_
  refine hsum b4 (hlt b5 (hlt b6 b7)) (hpart 4 (by decide)) ?_
  refine hsum b5 (hlt b6 b7) (hpart 5 (by decide)) ?_
  exact hsum b6 b7 (hpart 6 (by decide)) (hpart 7 (by decide))

/-! ### Multiplication -/

/-- Multiplication by α. -/
def gfAlpha (a : ℕ) : ℕ := gfTwo rsPoly a

/-- A byte doubled, and reduced where its highest bit is set. -/
theorem gfAlpha_eq {a : ℕ} (h : a < 256) : gfAlpha a = 2 * a ^^^ (if a.testBit 7 then rsPoly else 0) := by
  have hbit : a.testBit 7 = decide (128 ≤ a) := by
    rw [Nat.testBit_eq_decide_div_mod_eq]
    congr 1
    rw [eq_iff_iff]
    omega
  unfold gfAlpha gfTwo
  rw [hbit]
  by_cases h7 : a < 128
  · rw [if_pos h7, if_neg (by simpa using h7), Nat.xor_zero]
  · rw [if_neg h7, if_pos (by simpa using h7)]

theorem byteLinear_gfAlpha : ByteLinear gfAlpha := by
  refine ⟨by decide +kernel, fun a b ha hb => ?_⟩
  rw [gfAlpha_eq ha, gfAlpha_eq hb, gfAlpha_eq (Nat.xor_lt_two_pow (n := 8) ha hb), Nat.testBit_xor]
  have hdouble : 2 * (a ^^^ b) = 2 * a ^^^ 2 * b := by
    have h := Nat.shiftLeft_xor_distrib (a := a) (b := b) (i := 1)
    simpa [Nat.shiftLeft_eq, Nat.mul_comm] using h
  rw [hdouble]
  cases a.testBit 7 <;> cases b.testBit 7 <;> simp [Nat.xor_comm, Nat.xor_left_comm]

theorem byteLinear_gfMulGo (k b : ℕ) : ByteLinear fun a => gfMulGo rsPoly k a b := by
  induction k generalizing b with
  | zero => exact ByteLinear.const_zero
  | succ k ih =>
    refine ByteLinear.add (f := fun a => if b % 2 = 1 then a else 0) ?_ ((ih (b / 2)).comp byteLinear_gfAlpha)
    by_cases hb : b % 2 = 1
    · simp only [if_pos hb]
      exact ByteLinear.id
    · simp only [if_neg hb]
      exact ByteLinear.const_zero

theorem byteLinear_gfMul (b : ℕ) : ByteLinear fun a => gfMul rsPoly a b := byteLinear_gfMulGo 8 b

/-- α times the first factor. -/
theorem gfMul_gfAlpha_left {a : ℕ} (ha : a < 256) (b : ℕ) : gfMul rsPoly (gfAlpha a) b = gfAlpha (gfMul rsPoly a b) := by
  have hgo : ∀ k a b, a < 256 → gfMulGo rsPoly k (gfAlpha a) b = gfAlpha (gfMulGo rsPoly k a b) := by
    intro k
    induction k with
    | zero => exact fun _ _ _ => rfl
    | succ k ih =>
      intro a b ha
      have hstep : ∀ a, gfMulGo rsPoly (k + 1) a b = (if b % 2 = 1 then a else 0) ^^^ gfMulGo rsPoly k (gfAlpha a) (b / 2) :=
        fun _ => rfl
      have hlt := (byteLinear_gfMulGo k (b / 2)).lt _ (byteLinear_gfAlpha.lt a ha)
      rw [hstep, hstep, ih _ _ (byteLinear_gfAlpha.lt a ha), byteLinear_gfAlpha.xor _ _ (by split <;> omega) hlt]
      congr 1
      split
      · rfl
      · exact byteLinear_gfAlpha.zero.symm
  exact hgo 8 a b ha

/-- α times the second factor. -/
theorem gfMul_gfAlpha_right {a b : ℕ} (ha : a < 256) (hb : b < 256) :
    gfMul rsPoly a (gfAlpha b) = gfAlpha (gfMul rsPoly a b) := by
  have hbasis : ∀ b < 256, ∀ k < 8, gfMul rsPoly (2 ^ k) (gfAlpha b) = gfAlpha (gfMul rsPoly (2 ^ k) b) := by decide +kernel
  exact (byteLinear_gfMul (gfAlpha b)).ext (byteLinear_gfAlpha.comp (byteLinear_gfMul b)) (hbasis b hb) ha

theorem gfMul_one {a : ℕ} (ha : a < 256) : gfMul rsPoly a 1 = a :=
  (byteLinear_gfMul 1).ext ByteLinear.id (by decide) ha

theorem one_gfMul : ∀ b < 256, gfMul rsPoly 1 b = b := by decide +kernel

theorem two_gfMul : ∀ b < 256, gfMul rsPoly 2 b = gfAlpha b := by decide +kernel

theorem iterate_gfAlpha_lt (n : ℕ) {a : ℕ} (ha : a < 256) : gfAlpha^[n] a < 256 :=
  (byteLinear_gfAlpha.iterate n).lt a ha

theorem gfMul_iterate_right {a b : ℕ} (ha : a < 256) (hb : b < 256) (n : ℕ) :
    gfMul rsPoly a (gfAlpha^[n] b) = gfAlpha^[n] (gfMul rsPoly a b) := by
  induction n with
  | zero => rfl
  | succ n ih =>
    rw [Function.iterate_succ_apply', Function.iterate_succ_apply', gfMul_gfAlpha_right ha (iterate_gfAlpha_lt n hb), ih]

theorem gfMul_iterate_left {a b : ℕ} (ha : a < 256) (n : ℕ) :
    gfMul rsPoly (gfAlpha^[n] a) b = gfAlpha^[n] (gfMul rsPoly a b) := by
  induction n with
  | zero => rfl
  | succ n ih =>
    rw [Function.iterate_succ_apply', Function.iterate_succ_apply', gfMul_gfAlpha_left (iterate_gfAlpha_lt n ha), ih]

/-- A power of α as multiplications by α. -/
theorem gfPow_two (k : ℕ) : gfPow rsPoly 2 k = gfAlpha^[k] 1 := by
  induction k with
  | zero => rfl
  | succ k ih =>
    rw [Function.iterate_succ_apply', ← two_gfMul _ (iterate_gfAlpha_lt k (by decide)), ← ih]
    rfl

/-- A power of a locator. -/
theorem gfPow_rsLoc (i j : ℕ) : gfPow rsPoly (rsLoc i) j = gfAlpha^[(73 - i) * j] 1 := by
  induction j with
  | zero => rfl
  | succ j ih =>
    have hstep : gfPow rsPoly (rsLoc i) (j + 1) = gfMul rsPoly (rsLoc i) (gfPow rsPoly (rsLoc i) j) := rfl
    rw [hstep, ih, rsLoc, gfPow_two, gfMul_iterate_left (by decide),
      one_gfMul _ (iterate_gfAlpha_lt _ (by decide)), ← Function.iterate_add_apply]
    congr 1
    ring_nf

/-- Multiplication by a power of a locator. -/
theorem gfMul_rsLoc {v : ℕ} (hv : v < 256) (i j : ℕ) :
    gfMul rsPoly v (gfPow rsPoly (rsLoc i) j) = gfAlpha^[(73 - i) * j] v := by
  rw [gfPow_rsLoc, gfMul_iterate_right hv (by decide), gfMul_one hv]

theorem gfMul_rsLoc_one {v : ℕ} (hv : v < 256) (i : ℕ) : gfMul rsPoly v (rsLoc i) = gfAlpha^[73 - i] v := by
  rw [rsLoc, gfPow_two, gfMul_iterate_right hv (by decide), gfMul_one hv]

/-! ### Locators differ -/

theorem gfAlpha_period {v : ℕ} (hv : v < 256) : Function.IsPeriodicPt gfAlpha 255 v :=
  (byteLinear_gfAlpha.iterate 255).ext ByteLinear.id (by decide +kernel) hv

/-- α^51 and α^15 move every byte but 0: their differences from 1 have an inverse. -/
theorem eq_zero_of_period {v : ℕ} (hv : v < 256)
    (h : Function.IsPeriodicPt gfAlpha 51 v ∨ Function.IsPeriodicPt gfAlpha 15 v) : v = 0 := by
  have key : ∀ n w, (∀ k < 8, gfMul rsPoly (gfAlpha^[n] (2 ^ k) ^^^ 2 ^ k) w = 2 ^ k) → gfAlpha^[n] v = v → v = 0 := by
    intro n w hw hper
    have hinv := ((byteLinear_gfMul w).comp ((byteLinear_gfAlpha.iterate n).add ByteLinear.id)).ext ByteLinear.id hw hv
    simp only [hper, Nat.xor_self] at hinv
    rw [← hinv]
    exact (byteLinear_gfMul w).zero
  rcases h with h | h
  · exact key 51 152 (by decide +kernel) h
  · exact key 15 138 (by decide +kernel) h

/-- Fewer than 74 multiplications by α move every byte but 0. -/
theorem eq_zero_of_short_period {v m : ℕ} (hv : v < 256) (h0 : 0 < m) (hm : m < 74)
    (h : Function.IsPeriodicPt gfAlpha m v) : v = 0 := by
  have hgcd := h.gcd (gfAlpha_period hv)
  have hdvd : ∀ m < 74, 0 < m → Nat.gcd m 255 ∣ 51 ∨ Nat.gcd m 255 ∣ 15 := by decide
  exact eq_zero_of_period hv ((hdvd m hm h0).imp hgcd.trans_dvd hgcd.trans_dvd)

/-- Different locators give different products. -/
theorem iterate_gfAlpha_inj {v a b : ℕ} (hv : v < 256) (h0 : v ≠ 0) (ha : a < 74) (hb : b < 74)
    (h : gfAlpha^[a] v = gfAlpha^[b] v) : a = b := by
  have key : ∀ {a b : ℕ}, a < b → b < 74 → gfAlpha^[a] v = gfAlpha^[b] v → False := by
    intro a b hab hb h
    refine h0 (eq_zero_of_short_period hv (m := b - a) (by omega) (by omega) ?_)
    have hback := congrArg gfAlpha^[255 - a] h
    rw [← Function.iterate_add_apply, ← Function.iterate_add_apply, show 255 - a + a = 255 by omega,
      show 255 - a + b = (b - a) + 255 by omega, Function.iterate_add_apply] at hback
    have hper : gfAlpha^[255] v = v := gfAlpha_period hv
    rw [hper] at hback
    exact hback.symm
  rcases Nat.lt_trichotomy a b with hab | hab | hab
  · exact (key hab hb h).elim
  · exact hab
  · exact (key hab ha h.symm).elim

/-! ### One symbol -/

theorem rsSyndrome_singleton (i : ℕ) (v : Byte) (j : ℕ) :
    rsSyndrome [(i, v)] j = gfAlpha^[(73 - i) * j] v.toNat := by
  simp only [rsSyndrome, List.foldl_cons, List.foldl_nil, Nat.zero_xor]
  exact gfMul_rsLoc v.isLt i j

/-- The four syndromes of one symbol name its position and its value. -/
theorem rsFind_singleton {i : ℕ} {v : ℕ} (hi : i < 74) (hv : v < 256) (h0 : v ≠ 0) :
    rsFind v (gfAlpha^[73 - i] v) (gfAlpha^[(73 - i) * 2] v) (gfAlpha^[(73 - i) * 3] v) = some [(i, v)] := by
  have hstep : ∀ k n, gfMul rsPoly (gfAlpha^[n] v) (rsLoc k) = gfAlpha^[(73 - k) + n] v := fun k n => by
    rw [gfMul_rsLoc_one (iterate_gfAlpha_lt n hv), ← Function.iterate_add_apply]
  have hone : ((List.range 74).find? fun k => decide (v ≠ 0) && decide (gfMul rsPoly v (rsLoc k) = gfAlpha^[73 - i] v) &&
      decide (gfMul rsPoly (gfAlpha^[73 - i] v) (rsLoc k) = gfAlpha^[(73 - i) * 2] v) &&
      decide (gfMul rsPoly (gfAlpha^[(73 - i) * 2] v) (rsLoc k) = gfAlpha^[(73 - i) * 3] v)) = some i := by
    have hgood : decide (v ≠ 0) && decide (gfMul rsPoly v (rsLoc i) = gfAlpha^[73 - i] v) &&
        decide (gfMul rsPoly (gfAlpha^[73 - i] v) (rsLoc i) = gfAlpha^[(73 - i) * 2] v) &&
        decide (gfMul rsPoly (gfAlpha^[(73 - i) * 2] v) (rsLoc i) = gfAlpha^[(73 - i) * 3] v) := by
      simp only [Bool.and_eq_true, decide_eq_true_eq]
      exact ⟨⟨⟨h0, gfMul_rsLoc_one hv i⟩, by rw [hstep, show 73 - i + (73 - i) = (73 - i) * 2 by omega]⟩,
        by rw [hstep, show 73 - i + (73 - i) * 2 = (73 - i) * 3 by omega]⟩
    rw [List.find?_range_eq_some]
    refine ⟨hgood, List.mem_range.mpr hi, fun k hk => ?_⟩
    have hne : gfMul rsPoly v (rsLoc k) ≠ gfAlpha^[73 - i] v := by
      rw [gfMul_rsLoc_one hv]
      intro h
      have := iterate_gfAlpha_inj hv h0 (by omega) (by omega) h
      omega
    simp [hne]
  unfold rsFind
  dsimp only
  rw [hone]

end Sys2Proof.Machine

open Sys2Proof Sys2Proof.Machine

/-- Settles O25: the syndromes of one symbol are its products with the powers of its locator, and no other locator has the
same. -/
theorem Sys2Proof.oneSymbolIsCorrected : Obligations.OneSymbolIsCorrected := by
  unfold Obligations.OneSymbolIsCorrected
  intro i v hs hv
  have hi : i < 74 := by
    simp only [rsStored, Bool.or_eq_true, Bool.and_eq_true, decide_eq_true_eq] at hs
    omega
  have hv0 : v.toNat ≠ 0 := fun h => hv (BitVec.eq_of_toNat_eq h)
  have h0 : rsSyndrome [(i, v)] 0 = v.toNat := rsSyndrome_singleton i v 0
  have h1 : rsSyndrome [(i, v)] 1 = gfAlpha^[73 - i] v.toNat := by rw [rsSyndrome_singleton, Nat.mul_one]
  refine ⟨?_, fun j => ?_⟩
  · unfold checkCorrect
    dsimp only
    rw [h0, h1, rsSyndrome_singleton, rsSyndrome_singleton, if_neg (fun h => hv0 h.1), rsFind_singleton hi v.isLt hv0]
    simp [hs]
  · by_cases hij : i = j <;> simp [symbolAt, hij]

end ReedSolomon

/-! ## The check of GUARD_DETECT (10 R331)

A single byte leaves a remainder that is not zero, and the bytes of zeros behind it keep it so, for the generator is odd. -/

section CyclicCheck

namespace Sys2Proof.Machine

open Sys2Proof

theorem crcStep_ne_zero {r : BitVec 16} (h : r ≠ 0) : crcStep 0x8BB7#16 r false ≠ 0 := by
  unfold crcStep
  dsimp only
  cases hm : r.msb with
  | true =>
    intro h0
    have hodd := congrArg (fun x : BitVec 16 => x.getLsbD 0) h0
    simp at hodd
  | false =>
    intro h0
    have hlt : r.toNat < 2 ^ 15 := by simpa [BitVec.msb_eq_decide] using hm
    have hdouble : (r <<< 1).toNat = 0 := congrArg BitVec.toNat h0
    rw [BitVec.toNat_shiftLeft, Nat.shiftLeft_eq] at hdouble
    exact h (BitVec.eq_of_toNat_eq (by simp; omega))

theorem crcByte_zero_ne_zero {r : BitVec 16} (h : r ≠ 0) : crcByte 0x8BB7#16 r 0 ≠ 0 := by
  have hfold : ∀ (l : List ℕ) (r : BitVec 16), r ≠ 0 → l.foldl (fun r i => crcStep 0x8BB7#16 r ((0 : Byte).getLsbD i)) r ≠ 0 := by
    intro l
    induction l with
    | nil => exact fun _ h => h
    | cons i l ih => exact fun r h => ih _ (by simpa using crcStep_ne_zero h)
  exact hfold _ r h

theorem foldl_crcByte_zeros_ne_zero (n : ℕ) {r : BitVec 16} (h : r ≠ 0) : (zeros n).foldl (crcByte 0x8BB7#16) r ≠ 0 := by
  induction n generalizing r with
  | zero => exact h
  | succ n ih => exact ih (crcByte_zero_ne_zero h)

theorem crc16_zeros (n : ℕ) : crc16 (zeros n) = 0 := by
  induction n with
  | zero => rfl
  | succ n ih => exact ih

theorem crcByte_ne_zero : ∀ v : Byte, v ≠ 0 → crcByte 0x8BB7#16 0 v ≠ 0 := by decide +kernel

/-- One byte among zeros leaves a remainder. -/
theorem crc16_ne_zero {v : Byte} (hv : v ≠ 0) (m n : ℕ) : crc16 (zeros m ++ v :: zeros n) ≠ 0 := by
  have hzero : (zeros m).foldl (crcByte 0x8BB7#16) 0 = 0 := crc16_zeros m
  rw [crc16, List.foldl_append, hzero]
  exact foldl_crcByte_zeros_ne_zero n (crcByte_ne_zero v hv)

theorem symbolAt_singleton (i j : ℕ) (v : Byte) : symbolAt [(i, v)] j = if i = j then v else 0 := by
  simp only [symbolAt, List.foldl_cons, List.foldl_nil]
  split
  · exact BitVec.zero_xor
  · rfl

/-- The data bytes of an error in a check byte are zero. -/
theorem map_symbolAt_of_le {i : ℕ} (v : Byte) (hi : 64 ≤ i) : (List.range 64).map (symbolAt [(i, v)]) = zeros 64 := by
  refine List.ext_getElem (by simp [zeros]) fun j hj _ => ?_
  simp only [List.length_map, List.length_range] at hj
  rw [List.getElem_map, List.getElem_range, symbolAt_singleton, if_neg (by omega)]
  exact (List.getElem_replicate _).symm

/-- The data bytes of an error in a data byte. -/
theorem map_symbolAt_of_lt {i : ℕ} (v : Byte) (hi : i < 64) :
    (List.range 64).map (symbolAt [(i, v)]) = zeros i ++ v :: zeros (63 - i) := by
  refine List.ext_getElem (by simp [zeros]; omega) fun j hj _ => ?_
  simp only [List.length_map, List.length_range] at hj
  rcases Nat.lt_trichotomy i j with h | h | h
  · have hpos : j - i = (j - i - 1) + 1 := by omega
    rw [List.getElem_append_right (by simp [zeros]; omega)]
    simp [symbolAt_singleton, zeros, show i ≠ j by omega, List.getElem_cons, show j - i ≠ 0 by omega]
  · subst h
    simp [symbolAt_singleton, zeros]
  · simp [symbolAt_singleton, zeros, List.getElem_append_left, h, show i ≠ j by omega]

theorem checkDetect_bad {e : List (ℕ × Byte)}
    (h : (crc16 ((List.range 64).map (symbolAt e) ++ zeros 6)).toNat ^^^ leNat [symbolAt e 70, symbolAt e 71] ≠ 0) :
    ∃ syn, checkDetect e = .bad syn :=
  ⟨_, if_neg h⟩

end Sys2Proof.Machine

open Sys2Proof Sys2Proof.Machine

/-- Settles O26: a data byte alone leaves a remainder, and a check byte alone differs from the remainder of zeros. -/
theorem Sys2Proof.oneByteIsDetected : Obligations.OneByteIsDetected := by
  unfold Obligations.OneByteIsDetected
  intro i v hi hv
  have hv0 : v.toNat ≠ 0 := fun h => hv (BitVec.eq_of_toNat_eq h)
  refine checkDetect_bad ?_
  by_cases hdata : i < 64
  · rw [map_symbolAt_of_lt v hdata, symbolAt_singleton, symbolAt_singleton, if_neg (by omega), if_neg (by omega),
      List.append_assoc, List.cons_append, show zeros (63 - i) ++ zeros 6 = zeros (63 - i + 6) from List.replicate_append_replicate]
    intro h
    exact crc16_ne_zero hv i _ (BitVec.eq_of_toNat_eq (by simpa [leNat] using h))
  · have hcheck : i = 70 ∨ i = 71 := by omega
    rw [map_symbolAt_of_le v (by omega), show zeros 64 ++ zeros 6 = zeros 70 from List.replicate_append_replicate, crc16_zeros]
    rcases hcheck with rfl | rfl <;> simp [symbolAt_singleton, leNat, hv0]

end CyclicCheck

/-! ## The memory hubs (10) -/

section Hubs

namespace Sys2Proof.Machine

open Sys2Proof

variable {s t : State} {a : Agent} {addr i : ℕ} {r : Region} {u : Upset} {job : BitVec 32} {bs : Bytes} {e : MemErr}

/-! ### The block of an address -/

theorem block_div (addr : ℕ) : addr / 64 * 64 / 64 = addr / 64 := Nat.mul_div_cancel _ (by decide)

theorem block_granule (addr : ℕ) : addr / 64 * 64 / 256 = addr / 256 := by omega

theorem hubOf_block (addr : ℕ) : hubOf (addr / 64 * 64) = hubOf addr := by
  unfold hubOf
  simp only [Nat.shiftRight_eq_div_pow, Nat.reducePow, block_granule]

theorem blockBytes_block (s : State) (addr : ℕ) : s.blockBytes (addr / 64 * 64) = s.blockBytes addr := by
  unfold State.blockBytes
  rw [block_div]

/-! ### Reads -/

/-- A read passes the slice's cache by: no line holds the granule, and the region allocates none. -/
structure PastCache (s : State) (addr : ℕ) (r : Region) : Prop where
  line : (s.hub (hubOf (addr / 64 * 64))).line? (addr / 64 * 64 / 256) = none
  alloc : r.llmAlloc = 0

/-- A hub counts a miss. -/
def State.missed (s : State) (addr : ℕ) : State :=
  s.updHub (hubOf (addr / 64 * 64)) fun h => { h with llmMisses := satAdd h.llmMisses 1 }

/-- The errors that an access past the cache leaves. -/
theorem upset_symbols (h : PastCache s addr r) (hup : Tab.get [] s.upsets (addr / 64) = []) (hdie : u.onDie = 0)
    (hu : u.symbols ≠ []) :
    s.upset addr u = { s with upsets := Tab.put s.upsets (addr / 64) u.symbols } := by
  have hline := h.line
  rw [hubOf_block, block_granule] at hline
  have hserve : s.lineServes addr u = false := by simp only [State.lineServes, hline]
  have hempty : u.symbols.isEmpty = false := by simpa using hu
  simp only [State.upset, State.upsetStack, hserve, hempty, hdie, hup, Bool.false_eq_true, if_false, if_true,
    List.nil_append]

theorem upset_none (hdie : u.onDie = 0) (hu : u.symbols = []) : s.upset addr u = s := by
  have hstack : ∀ u : Upset, u.onDie = 0 → u.symbols = [] → s.upsetStack addr u = s := fun u hdie hu => by
    simp [State.upsetStack, hdie, hu]
  unfold State.upset
  split
  · exact hstack _ hdie rfl
  · exact hstack _ hdie hu

theorem readBlock_miss_ok (hplace : s.place (addr / 64 * 64) = .hbm i r) (h : PastCache s addr r)
    (hread : (s.missed addr).hbmBlock i r (addr / 64 * 64) = (.ok bs, t)) :
    s.readBlock job (addr / 64 * 64) u = (.ok bs, t) := by
  have halloc := h.alloc
  have hmiss : s.hubMiss i r (addr / 64 * 64) = (.ok bs, t) := by
    unfold State.hubMiss
    exact (if_neg (by simp [halloc])).trans hread
  simp only [State.readBlock, hplace, State.hubRead, h.line, hmiss]

theorem readBlock_miss_error (hplace : s.place (addr / 64 * 64) = .hbm i r) (h : PastCache s addr r)
    (hread : (s.missed addr).hbmBlock i r (addr / 64 * 64) = (.error e, t)) :
    s.readBlock job (addr / 64 * 64) u = (.error (e.issuedAt (addr / 64 * 64)), t) := by
  have halloc := h.alloc
  have hmiss : s.hubMiss i r (addr / 64 * 64) = (.error e, t) := by
    unfold State.hubMiss
    exact (if_neg (by simp [halloc])).trans hread
  simp only [State.readBlock, hplace, State.hubRead, h.line, hmiss]

theorem hubReadFor_ok (hserve : s.hubServes addr = true) (hbar : s.stewardBarred a (addr / 64 * 64) 64 = none)
    (hread : (s.upset addr u).readBlock ((s.upset addr u).agentJob a) (addr / 64 * 64) u = (.ok bs, t)) :
    s.hubReadFor a addr u = (t.updHub (hubOf addr) fun h => { h with lastRead := some (addr / 64 * 64, bs) }).emit
      (.bytes a (some bs)) := by
  simp only [State.hubReadFor, hserve, hbar, hread, Bool.not_true, Bool.false_eq_true, if_false]

theorem hubReadFor_error (hserve : s.hubServes addr = true) (hbar : s.stewardBarred a (addr / 64 * 64) 64 = none)
    (hread : (s.upset addr u).readBlock ((s.upset addr u).agentJob a) (addr / 64 * 64) u = (.error e, t)) :
    s.hubReadFor a addr u = (t.emit (.bytes a none)).raiseAgent a e addr := by
  simp only [State.hubReadFor, hserve, hbar, hread, Bool.not_true, Bool.false_eq_true, if_false]

/-! ### One block of HBM -/

theorem checkOf_nil (detect : Bool) : (if detect then checkDetect [] else checkCorrect []) = .clean [] := by
  cases detect
  · decide
  · have hdata : (List.range 64).map (symbolAt []) = zeros 64 := by decide
    have hzero : zeros 64 ++ zeros 6 = zeros 70 := List.replicate_append_replicate
    simp [checkDetect, hdata, hzero, crc16_zeros, symbolAt, leNat]

theorem applyErr_nil (bs : Bytes) : applyErr [] bs = bs := by
  have hbyte : ∀ (i : ℕ) (b : Byte), b ^^^ symbolAt [] i = b := fun _ b => BitVec.xor_zero
  simp only [applyErr, hbyte]
  exact List.ext_getElem (by simp) fun _ _ _ => by simp

theorem hbmBlock_clean (hpoison : s.poison.contains (addr / 64) = false) (hup : Tab.get [] s.upsets (addr / 64) = []) :
    s.hbmBlock i r (addr / 64 * 64) = (.ok (s.blockBytes addr), s.openRow (addr / 64 * 64)) := by
  have hbytes : (s.openRow (addr / 64 * 64)).blockBytes (addr / 64 * 64) = s.blockBytes addr := blockBytes_block s addr
  unfold State.hbmBlock
  simp only [block_div, show (s.openRow (addr / 64 * 64)).poison = s.poison from rfl,
    show (s.openRow (addr / 64 * 64)).upsets = s.upsets from rfl, hpoison, hup, checkOf_nil, hbytes, applyErr_nil,
    Bool.false_eq_true, if_false]

theorem hbmBlock_corrected {d : List (ℕ × Byte)} (hpoison : s.poison.contains (addr / 64) = false)
    (hr : r.detect = false) (hcheck : checkCorrect (Tab.get [] s.upsets (addr / 64)) = .corrected d) :
    s.hbmBlock i r (addr / 64 * 64) = (.ok (applyErr d (s.blockBytes addr)),
      (s.openRow (addr / 64 * 64)).noteCorrected (addr / 64 * 64) (applyErr d (s.blockBytes addr))) := by
  have hbytes : (s.openRow (addr / 64 * 64)).blockBytes (addr / 64 * 64) = s.blockBytes addr := blockBytes_block s addr
  unfold State.hbmBlock
  simp only [block_div, show (s.openRow (addr / 64 * 64)).poison = s.poison from rfl,
    show (s.openRow (addr / 64 * 64)).upsets = s.upsets from rfl, hpoison, hr, hcheck, hbytes,
    Bool.false_eq_true, if_false]

theorem hbmBlock_bad {syn : ℕ} (hpoison : s.poison.contains (addr / 64) = false)
    (hcheck : (if r.detect then checkDetect (Tab.get [] s.upsets (addr / 64))
      else checkCorrect (Tab.get [] s.upsets (addr / 64))) = .bad syn) :
    s.hbmBlock i r (addr / 64 * 64) = (.error (MemErr.hbm r.detect i (addr / 64 * 64) syn),
      (s.openRow (addr / 64 * 64)).notePoisoned r.detect (addr / 64 * 64)) := by
  unfold State.hbmBlock
  simp only [block_div, show (s.openRow (addr / 64 * 64)).poison = s.poison from rfl,
    show (s.openRow (addr / 64 * 64)).upsets = s.upsets from rfl, hpoison, hcheck, Bool.false_eq_true, if_false]

theorem hbmBlock_poisoned (hpoison : s.poison.contains (addr / 64) = true) :
    s.hbmBlock i r (addr / 64 * 64) = (.error (MemErr.hbm r.detect i (addr / 64 * 64) oldPoison), s.openRow (addr / 64 * 64)) := by
  unfold State.hbmBlock
  simp only [block_div, show (s.openRow (addr / 64 * 64)).poison = s.poison from rfl, hpoison, if_true]

theorem noteCorrected_writebacks (s : State) (addr : ℕ) (bs : Bytes) :
    Tab.get? (s.noteCorrected (addr / 64 * 64) bs).writebacks (addr / 64) = some bs := by
  unfold State.noteCorrected
  simp only [block_div]
  exact Tab.get?_put_self _ _ _

theorem notePoisoned_mem_poison (s : State) (detect : Bool) (addr : ℕ) :
    addr / 64 ∈ (s.notePoisoned detect (addr / 64 * 64)).poison := by
  simp only [State.notePoisoned, State.updHub_poison, State.poisonBlock, block_div]
  split <;> simp_all

theorem notePoisoned_mem (s : State) (detect : Bool) (addr : ℕ) : (s.notePoisoned detect addr).mem = s.mem := by
  simp only [State.notePoisoned, State.updHub_mem, State.poisonBlock]

theorem raiseAgent_core {c : CoreId} {p : ℕ} (hp : s.coreOwner c.val = some p) :
    s.raiseAgent (.core c) e addr = s.raiseMem p e (coreUnit c.val) (s.global addr) 1 := by
  have hpart : s.agentPart (.core c) = some p := hp
  unfold State.raiseAgent
  rw [hpart]
  rfl

/-! ### Writes -/

theorem cacheWrite_miss (hline : (s.hub (hubOf addr)).line? (addr / 256) = none) (halloc : r.llmAlloc = 0) :
    s.cacheWrite i r addr = (.ok (), (s.updHub (hubOf addr) fun h => { h with llmMisses := satAdd h.llmMisses 1 }).openRow addr) := by
  simp only [State.cacheWrite, hline]
  exact if_neg (by simp [halloc])

/-- A whole block is written past the cache. -/
theorem hubWriteFor_block (hserve : s.hubServes addr = true) (hplace : s.place addr = .hbm i r) (halign : addr % 64 = 0)
    (hlen : bs.length = 64) (hbar : s.stewardBarred a addr 64 = none)
    (hline : (s.hub (hubOf addr)).line? (addr / 256) = none) (halloc : r.llmAlloc = 0) :
    s.hubWriteFor a addr bs noUpset = (((s.putBlock addr bs).updHub (hubOf addr) fun h =>
      { h with llmMisses := satAdd h.llmMisses 1 }).openRow addr).emit (.bytes a (some [])) := by
  have hgo : ¬((!s.hubServes addr) = true ∨ bs.isEmpty = true ∨ addr % 64 + bs.length > 64) := by
    have hne : bs ≠ [] := List.ne_nil_of_length_pos (by omega)
    simp [hserve, hne, hlen, halign]
  have hcache : (s.putBlock addr bs).cacheWrite i r addr = _ := cacheWrite_miss hline halloc
  unfold State.hubWriteFor
  rw [if_neg hgo]
  simp only [hlen, hbar, upset_none (s := s) (addr := addr) (u := noUpset) rfl rfl, State.writeBlockMeeting, hplace,
    State.writeHbm, if_true, hcache]

/-! ### The hubs' own work -/

theorem holdLine_mem (s : State) (addr : ℕ) : (s.holdLine addr).mem = s.mem := by
  unfold State.holdLine
  split <;> rfl

theorem holdLine_freshBlock (s : State) (addr b : ℕ) :
    ((s.holdLine addr).freshBlock b).writebacks = Tab.del s.writebacks b ∧
      ((s.holdLine addr).freshBlock b).upsets = Tab.del s.upsets b ∧
      ((s.holdLine addr).freshBlock b).poison = s.poison.filter (· ≠ b) := by
  unfold State.holdLine
  split <;> exact ⟨rfl, rfl, rfl⟩

theorem Tab.get?_del_self {α : Type} (t : List (ℕ × α)) (k : ℕ) : Tab.get? (Tab.del t k) k = none := by
  rw [Tab.get?_del, if_pos rfl]

theorem Tab.get_del_self {α : Type} (d : α) (t : List (ℕ × α)) (k : ℕ) : Tab.get d (Tab.del t k) k = d := by
  rw [Tab.get, Tab.get?_del_self]
  rfl

theorem writeBack_eq (hmoves : s.moves = true) (hw : Tab.get? s.writebacks (addr / 64) = some bs) :
    s.writeBack addr = if s.dirtyAt addr then (s.openRow addr).freshBlock (addr / 64)
      else { ((s.openRow addr).holdLine addr).freshBlock (addr / 64) with
        mem := memWrite s.mem (addr / 64 * 64) bs } := by
  unfold State.writeBack
  simp only [hmoves, if_true, hw]
  rw [show (s.openRow addr).dirtyAt addr = s.dirtyAt addr from rfl, holdLine_mem]
  rfl

theorem memGet_filter_of_keep (m : List Host.Cell) (f : ℕ → Bool) (x : ℕ) (h : f x = true) :
    memGet (m.filter fun c => f c.1) x = memGet m x := by
  induction m with
  | nil => rfl
  | cons c m ih =>
    obtain ⟨k, b⟩ := c
    by_cases hk : f k = true
    · rw [List.filter_cons_of_pos (by exact hk), memGet, memGet, ih]
    · rw [List.filter_cons_of_neg (by exact hk), memGet, ih, if_neg (fun hkx : k = x => hk (hkx.symm ▸ h))]

/-- A new run of ones shows in every block that it tested. -/
theorem blockBytes_onesRun {run : TestRun} {l : List TestRun} {b : ℕ} (hruns : s.testRuns = run :: l)
    (hones : run.pattern = 4) (hb : inRun run.hub run.chan run.first run.count (b * 64) = true) (hnew : run.since = []) :
    s.blockBytes (b * 64) = List.replicate 64 0xFF := by
  have hholds : run.holds (b * 64 / 64) = true := by
    simp [TestRun.holds, hnew, hb]
  unfold State.blockBytes
  rw [hruns, List.find?_cons_of_pos (p := fun r : TestRun => r.holds (b * 64 / 64)) hholds]
  simp only [TestRun.byte, hones]
  decide

theorem exec_hbmRead (a : Agent) (addr : BitVec 48) (u : Upset) (s : State) :
    exec (.hbmRead a addr u) s = .next (s.hubReadFor a addr.toNat u) := rfl

theorem exec_hbmWrite (a : Agent) (addr : BitVec 48) (data : Bytes) (u : Upset) (s : State) :
    exec (.hbmWrite a addr data u) s = .next (s.hubWriteFor a addr.toNat data u) := rfl

theorem exec_correctionWriteback (addr : BitVec 48) (s : State) :
    exec (.correctionWriteback addr) s = .next (s.writeBack addr.toNat) := rfl

theorem exec_patrolScrub (h : HubId) (u : Upset) (s : State) : exec (.patrolScrub h u) s = .next (s.scrub h.val u) := rfl

theorem exec_rowClose (st : StackId) (pc : Fin 64) (bank : ℕ) (s : State) : exec (.rowClose st pc bank) s =
    .next (if s.idleRow st.val pc.val bank then s.closeRow st.val pc.val bank else s) := rfl

theorem exec_spprRepair (st : StackId) (pc : Fin 64) (bank row : ℕ) (s : State) :
    exec (.spprRepair st pc bank row) s = .next (s.softRepair st.val pc.val bank row) := rfl

theorem exec_trafficGeneratorStart (h : HubId) (ch : Fin 96) (s : State) :
    exec (.trafficGeneratorStart h ch) s = .next (s.startGen h.val ch.val) := rfl

theorem exec_trafficGeneratorDone (h : HubId) (ch : Fin 96) (e : BitVec 32) (f : BitVec 16) (s : State) :
    exec (.trafficGeneratorDone h ch e f) s = .next (s.endGen h.val ch.val e f) := rfl

/-! ### Reads that meet errors -/

/-- The state in which a read finds the errors that it meets. -/
def State.withUpsets (s : State) (b : ℕ) (symbols : List (ℕ × Byte)) : State :=
  { s with upsets := Tab.put s.upsets b symbols }

theorem withUpsets_missed_blockBytes (s : State) (b : ℕ) (symbols : List (ℕ × Byte)) (addr k : ℕ) :
    ((s.withUpsets b symbols).missed addr).blockBytes k = s.blockBytes k := rfl

theorem withUpsets_missed_upsets (s : State) (b : ℕ) (symbols : List (ℕ × Byte)) (addr : ℕ) :
    Tab.get [] ((s.withUpsets b symbols).missed addr).upsets b = symbols := Tab.get_put_self _ _ _ _

section

variable {addr : BitVec 48} {d : List (ℕ × Byte)} (hserve : s.hubServes addr.toNat = true)
  (hbar : s.stewardBarred a (addr.toNat / 64 * 64) 64 = none) (hblock : s.place (addr.toNat / 64 * 64) = .hbm i r)
  (hpast : PastCache s addr.toNat r) (hup : Tab.get [] s.upsets (addr.toNat / 64) = []) (hdie : u.onDie = 0)

include hserve hbar hblock hpast hup hdie

theorem hbmRead_corrected (hpoison : s.poison.contains (addr.toNat / 64) = false) (hsym : u.symbols ≠ [])
    (hr : r.detect = false) (hcheck : checkCorrect u.symbols = .corrected d) :
    ∃ t, exec (.hbmRead a addr u) s = .next t ∧ t.mem = s.mem ∧ t.poison = s.poison ∧
      t.out = .bytes a (some (applyErr d (s.blockBytes addr.toNat))) :: s.out ∧
      Tab.get? t.writebacks (addr.toNat / 64) = some (applyErr d (s.blockBytes addr.toNat)) ∧
      t.baro.eccTotal = s.baro.eccTotal + 1 := by
  have hread : ((s.withUpsets (addr.toNat / 64) u.symbols).missed addr.toNat).hbmBlock i r (addr.toNat / 64 * 64) = _ :=
    hbmBlock_corrected hpoison hr (by rw [withUpsets_missed_upsets, hcheck])
  rw [withUpsets_missed_blockBytes] at hread
  have hpastU : PastCache (s.withUpsets (addr.toNat / 64) u.symbols) addr.toNat r := ⟨hpast.line, hpast.alloc⟩
  rw [exec_hbmRead, hubReadFor_ok hserve hbar (by
    rw [upset_symbols hpast hup hdie hsym]
    exact readBlock_miss_ok hblock hpastU hread)]
  refine ⟨_, rfl, rfl, rfl, rfl, ?_, rfl⟩
  rw [State.emit_writebacks, State.updHub_writebacks, noteCorrected_writebacks]

theorem hbmRead_bad {c : CoreId} {p syn : ℕ} (ha : a = .core c) (hp : s.coreOwner c.val = some p)
    (hpoison : s.poison.contains (addr.toNat / 64) = false) (hsym : u.symbols ≠ [])
    (hcheck : (if r.detect then checkDetect u.symbols else checkCorrect u.symbols) = .bad syn) :
    ∃ (t : State) (e : MemErr), exec (.hbmRead a addr u) s = .next ((t.emit (.bytes a none)).raiseMem p e (coreUnit c.val)
        ((t.emit (.bytes a none)).global addr.toNat) 1) ∧
      addr.toNat / 64 ∈ t.poison ∧ t.mem = s.mem ∧ e.code = if r.detect then 0x0402 else 0x0401 := by
  have hread : ((s.withUpsets (addr.toNat / 64) u.symbols).missed addr.toNat).hbmBlock i r (addr.toNat / 64 * 64) = _ :=
    hbmBlock_bad hpoison (by rw [withUpsets_missed_upsets, hcheck])
  have hpastU : PastCache (s.withUpsets (addr.toNat / 64) u.symbols) addr.toNat r := ⟨hpast.line, hpast.alloc⟩
  rw [exec_hbmRead, hubReadFor_error hserve hbar (by
    rw [upset_symbols hpast hup hdie hsym]
    exact readBlock_miss_error hblock hpastU hread), ha, raiseAgent_core (by exact hp)]
  refine ⟨_, _, rfl, notePoisoned_mem_poison _ _ _, notePoisoned_mem _ _ _, ?_⟩
  cases r.detect <;> rfl

end

end Sys2Proof.Machine

open Sys2Proof Sys2Proof.Machine

/-- Settles O27, by the branches of a read past the cache, of a whole write past it, and of the hubs' own work. -/
theorem Sys2Proof.hubsServeMemory : Obligations.HubsServeMemory := by
  unfold Obligations.HubsServeMemory
  refine ⟨?_, ?_, ?_⟩
  · intro a addr u s i r hplace hblock hmoves
    have hserve : s.hubServes addr.toNat = true := by simp [State.hubServes, hmoves, hplace]
    refine ⟨?_, ?_⟩
    · intro k hk
      rw [exec_hbmRead]
      simp only [State.hubReadFor, hserve, hk, Bool.not_true, Bool.false_eq_true, if_false]
    intro hbar hline halloc hup hdie
    have hpast : PastCache s addr.toNat r := ⟨hline, halloc⟩
    refine ⟨?_, ?_, ?_, ?_⟩
    · intro hpoison hsym
      rw [exec_hbmRead, hubReadFor_ok hserve hbar (by
        rw [upset_none hdie hsym]
        exact readBlock_miss_ok hblock hpast (hbmBlock_clean hpoison hup))]
      exact ⟨_, rfl, rfl, rfl, rfl, rfl⟩
    · exact fun d => hbmRead_corrected hserve hbar hblock hpast hup hdie
    · exact fun d c p => hbmRead_bad hserve hbar hblock hpast hup hdie
    · intro c ha hpoison hsym
      rw [exec_hbmRead, hubReadFor_error hserve hbar (by
        rw [upset_none hdie hsym]
        exact readBlock_miss_error hblock hpast (hbmBlock_poisoned hpoison)), ha]
      exact ⟨_, rfl, rfl, rfl, rfl⟩
  · intro a addr data s i r hplace halign hlen hwf hmoves
    have hserve : s.hubServes addr.toNat = true := by simp [State.hubServes, hmoves, hplace]
    refine ⟨?_, ?_⟩
    · intro k hk
      have hgo : ¬((!s.hubServes addr.toNat) = true ∨ data.isEmpty = true ∨ addr.toNat % 64 + data.length > 64) := by
        have hne : data ≠ [] := List.ne_nil_of_length_pos (by omega)
        simp [hserve, hne, hlen, halign]
      rw [exec_hbmWrite, State.hubWriteFor, if_neg hgo]
      simp only [hlen, hk]
    · intro hbar hline halloc
      rw [exec_hbmWrite, hubWriteFor_block hserve hplace halign hlen hbar hline halloc]
      refine ⟨_, rfl, ?_, ?_, ?_, Tab.get?_del_self _ _, rfl⟩
      · have h := memRead_memWrite_self s.mem addr.toNat data hwf
        rw [hlen] at h
        exact h
      · intro x hx
        exact memGet_memWrite_outside s.mem addr.toNat x data (by omega) hwf
      · change addr.toNat / 64 ∉ s.poison.filter (· ≠ addr.toNat / 64)
        simp
  · intro s
    refine ⟨?_, ?_, ?_, ?_, ?_, ?_, ?_⟩
    · intro addr bs hmoves hw
      rw [exec_correctionWriteback, writeBack_eq hmoves hw]
      refine ⟨_, rfl, ?_⟩
      obtain ⟨hwb, hups, hpoi⟩ := holdLine_freshBlock (s.openRow addr.toNat) addr.toNat (addr.toNat / 64)
      by_cases hd : s.dirtyAt addr.toNat = true
      · rw [if_pos hd, if_pos hd]
        refine ⟨rfl, Tab.get?_del_self _ _, Tab.get_del_self _ _ _, ?_⟩
        change addr.toNat / 64 ∉ s.poison.filter (· ≠ addr.toNat / 64)
        simp
      · rw [if_neg hd, if_neg hd]
        refine ⟨rfl, ?_, ?_, ?_⟩
        · rw [hwb]
          exact Tab.get?_del_self _ _
        · rw [hups]
          exact Tab.get_del_self _ _ _
        · rw [hpoi]
          simp
    · intro h u hmoves hcap hsym hdie hregion
      have hgo : ¬((s.stack (stackOf (hubBlock h.val (s.hub h.val).scrubNext))).cap ≠ 0xC8 ∨ (!s.moves) = true) := by
        simp [hcap, hmoves]
      have hups : s.upsetStack (hubBlock h.val (s.hub h.val).scrubNext) u = s := by simp [State.upsetStack, hsym, hdie]
      rw [exec_patrolScrub, State.scrub, if_neg hgo]
      simp only [hups, hregion]
    · intro st pc bank
      refine ⟨?_, rfl⟩
      intro row last hrow
      have hidle : (s.idleRow st.val pc.val bank = true) = (last + 200 ≤ s.time ∧ s.moves = true) := by
        simp [State.idleRow, hrow]
      rw [exec_rowClose]
      simp only [hidle]
      rfl
    · intro st pc bank row hserv herr hspare
      have hgo : ¬((!s.inService) = true ∨ Tab.get 0 s.rowErrors (rowKey st.val pc.val bank row) < 16 ∨
          (s.stack st.val).sparesLeft = 0) := by
        rintro (hs | he | hz)
        · simp [hserv] at hs
        · exact absurd herr (Nat.not_le.mpr he)
        · exact hspare hz
      rw [exec_spprRepair, State.softRepair, if_neg hgo]
    · intro h ch htest
      rw [exec_trafficGeneratorStart, State.startGen, htest]
      rfl
    · intro h ch e f hmoves hbusy hmode
      have hgo : ¬((!(Tab.get TrafficGen.zero (s.hub h.val).gens ch.val).busy) = true ∨ (!s.moves) = true) := by
        simp [hbusy, hmoves]
      rw [exec_trafficGeneratorDone, State.endGen, if_neg hgo, State.testRows, if_pos hmode]
    · intro h ch e f g first count hmoves hbusy hmode
      have hgo : ¬((!(Tab.get TrafficGen.zero (s.hub h.val).gens ch.val).busy) = true ∨ (!s.moves) = true) := by
        simp [show (Tab.get TrafficGen.zero (s.hub h.val).gens ch.val).busy = true from hbusy, hmoves]
      rw [exec_trafficGeneratorDone, State.endGen, if_neg hgo, State.testRows, if_neg hmode]
      refine ⟨_, rfl, rfl, ?_, ?_⟩
      · intro b hb
        refine ⟨fun hmem => ?_, fun hones => ?_⟩
        · have hout : (!inRun h.val ch.val first count (b * 64)) = true := (List.mem_filter.mp hmem).2
          rw [hb] at hout
          exact absurd hout (by decide)
        · exact blockBytes_onesRun rfl (by exact hones) (by exact hb) rfl
      · intro x hx
        exact memGet_filter_of_keep s.mem (fun k => !inRun h.val ch.val first count k) x (by simp [hx])

end Hubs

/-! ## Header flits as rows of fields (11 R370, 12 R400, 13 R447) -/

section Headers

namespace Sys2Proof.Machine

open Sys2Proof

/-- The bytes of a row of fields, each of a number of bytes and with a value. -/
def fieldsBytes (l : List (ℕ × ℕ)) : Bytes := l.flatMap fun e => leBytes e.1 e.2

/-- The length of a row. -/
def fieldsLength (l : List (ℕ × ℕ)) : ℕ := (l.map (·.1)).sum

theorem length_fieldsBytes (l : List (ℕ × ℕ)) : (fieldsBytes l).length = fieldsLength l := by
  simp [fieldsBytes, fieldsLength, List.length_flatMap]

theorem fld_add_mul_pow {v w n hi lo : ℕ} (hlt : v < 2 ^ n) (hhi : hi < n) : fld (v + 2 ^ n * w) hi lo = fld v hi lo := by
  rcases Nat.lt_or_ge hi lo with h | h
  · rw [fld_eq, fld_eq, show hi + 1 - lo = 0 by omega, pow_zero, Nat.mod_one, Nat.mod_one]
  · obtain ⟨d, rfl⟩ := Nat.exists_eq_add_of_le (show lo + (hi + 1 - lo) ≤ n by omega)
    rw [fld_eq, fld_eq, pow_add, pow_add, Nat.mul_assoc, Nat.mul_assoc, Nat.add_mul_div_left _ _ (Nat.two_pow_pos lo),
      Nat.add_mul_mod_self_left]

theorem fld_skip {u w n hi lo : ℕ} (hlt : u < 2 ^ n) : fld (u + 2 ^ n * w) (n + hi) (n + lo) = fld w hi lo := by
  rw [fld_eq, fld_eq, pow_add, ← Nat.div_div_eq_div_mul, Nat.add_mul_div_left _ _ (Nat.two_pow_pos n),
    Nat.div_eq_of_lt hlt, Nat.zero_add, show n + hi + 1 - (n + lo) = hi + 1 - lo by omega]

theorem pow_256 (n : ℕ) : 256 ^ n = 2 ^ (8 * n) := (pow_mul 2 8 n).symm

/-- A field of a flit is the field of its entry in the row. -/
theorem ffld_row {l : List (ℕ × ℕ)} {off n v hi lo : ℕ} (i : ℕ) (hlen : fieldsLength l ≤ 64) (hi? : l[i]? = some (n, v))
    (hoff : fieldsLength (l.take i) = off) (hv : v < 2 ^ (8 * n)) (hhi : hi < 8 * n) :
    ffld (flitOf (fieldsBytes l)) off hi lo = fld v hi lo := by
  obtain ⟨hlt, hget⟩ := List.getElem?_eq_some_iff.mp hi?
  have hsplit : fieldsBytes l = fieldsBytes (l.take i) ++ (leBytes n v ++ fieldsBytes (l.drop (i + 1))) := by
    have hdrop : l.drop i = (n, v) :: l.drop (i + 1) := by rw [List.drop_eq_getElem_cons hlt, hget]
    calc fieldsBytes l = fieldsBytes (l.take i ++ l.drop i) := by rw [List.take_append_drop]
      _ = fieldsBytes (l.take i) ++ fieldsBytes (l.drop i) := List.flatMap_append
      _ = _ := by rw [hdrop]; rfl
  have hpre : leNat (fieldsBytes (l.take i)) < 2 ^ (8 * off) := by
    have h := leNat_lt (fieldsBytes (l.take i))
    rwa [length_fieldsBytes, hoff, pow_256] at h
  rw [ffld, toNat_flitOf (by rw [length_fieldsBytes]; exact hlen), hsplit, leNat_append, length_fieldsBytes, hoff, pow_256,
    fld_skip hpre, leNat_append, leNat_leBytes, length_leBytes, pow_256, Nat.mod_eq_of_lt hv, fld_add_mul_pow hv hhi]

theorem fld_of_lt {v hi : ℕ} (h : v < 2 ^ (hi + 1)) : fld v hi 0 = v := by
  rw [fld_eq, pow_zero, Nat.div_one, Nat.sub_zero, Nat.mod_eq_of_lt h]

theorem fld_eq_zero {v hi lo : ℕ} (h : v < 2 ^ lo) : fld v hi lo = 0 := by
  rw [fld_eq, Nat.div_eq_of_lt h, Nat.zero_mod]

/-! ### Transaction headers -/

/-- The flag byte of a transaction header. -/
def pktFlags (k : Pkt) : ℕ := k.epoch.toNat + k.retry.toNat * 4 + k.comp.toNat * 16 + k.mv.toNat * 32 +
  k.combined.toNat * 64 + k.locked.toNat * 128

/-- The fields of a transaction header. -/
def pktRow (k : Pkt) : List (ℕ × ℕ) :=
  [(4, linkWord 0 (vcOf k.op.toNat k.srcUnit.toNat) (pktFlits k) 0), (1, k.op.toNat), (1, pktFlags k), (2, k.dst.toNat),
    (2, k.src.toNat), (2, k.srcUnit.toNat), (4, k.reqId.toNat), (4, k.job.toNat), (1, k.part.toNat), (1, k.status.toNat),
    (2, k.length.toNat), (8, k.addr.toNat), (8, k.arg0.toNat), (8, k.arg1.toNat), (8, k.origTime.toNat),
    (2, k.group.toNat + k.height.toNat * 4096), (6, 0)]

theorem leBytes_zero (n : ℕ) : leBytes n 0 = zeros n := by
  induction n with
  | zero => rfl
  | succ n ih => exact congrArg (List.cons _) ih

theorem pktToFlit_eq_row (k : Pkt) : pktToFlit k = flitOf (fieldsBytes (pktRow k)) := by
  have hbyte : ∀ v : ℕ, leBytes 1 v = [BitVec.ofNat 8 v] := fun _ => rfl
  refine congrArg flitOf ?_
  simp only [pktRow, fieldsBytes, List.flatMap_cons, List.flatMap_nil, List.append_nil, List.append_assoc, leBytes_zero, hbyte,
    BitVec.ofNat_toNat, BitVec.setWidth_eq, pktFlags, List.cons_append, List.nil_append]

theorem fieldsLength_pktRow (k : Pkt) : fieldsLength (pktRow k) = 64 := by
  simp [fieldsLength, pktRow]

theorem pktFlags_fields : ∀ (e r : BitVec 2) (c m b l : Bool),
    let v := e.toNat + r.toNat * 4 + c.toNat * 16 + m.toNat * 32 + b.toNat * 64 + l.toNat * 128
    v < 256 ∧ BitVec.ofNat 2 v = e ∧ BitVec.ofNat 2 (v / 4) = r ∧ bit v 4 = c ∧ bit v 5 = m ∧ bit v 6 = b ∧ bit v 7 = l := by
  decide +kernel

theorem pktFlags_lt (k : Pkt) : pktFlags k < 256 :=
  (pktFlags_fields k.epoch k.retry k.comp k.mv k.combined k.locked).1

theorem pktFlags_bits (k : Pkt) : BitVec.ofNat 2 (pktFlags k) = k.epoch ∧ BitVec.ofNat 2 (pktFlags k / 4) = k.retry ∧
    bit (pktFlags k) 4 = k.comp ∧ bit (pktFlags k) 5 = k.mv ∧ bit (pktFlags k) 6 = k.combined ∧
    bit (pktFlags k) 7 = k.locked :=
  (pktFlags_fields k.epoch k.retry k.comp k.mv k.combined k.locked).2

theorem vcOf_lt (op u : ℕ) : vcOf op u < 6 := by
  unfold vcOf
  repeat' split
  all_goals decide

theorem pktFlits_le {k : Pkt} (h : k.length.toNat ≤ 512) : pktFlits k ≤ 8 := by
  unfold pktFlits cdiv
  split <;> omega

theorem linkWord_fields {vc d : ℕ} (hvc : vc < 6) (hd : d ≤ 8) : linkWord 0 vc d 0 < 2 ^ 32 ∧
    fld (linkWord 0 vc d 0) 3 0 = 0 ∧ fld (linkWord 0 vc d 0) 7 4 = d ∧ fld (linkWord 0 vc d 0) 10 8 = vc ∧
    fld (linkWord 0 vc d 0) 31 16 = 0 := by
  simp only [fld_eq, linkWord]
  omega

theorem groupHeight_fields (g : BitVec 12) (h : BitVec 4) : g.toNat + h.toNat * 4096 < 2 ^ 16 ∧
    BitVec.ofNat 12 (fld (g.toNat + h.toNat * 4096) 11 0) = g ∧ BitVec.ofNat 4 (fld (g.toNat + h.toNat * 4096) 15 12) = h := by
  have hg := g.isLt
  have hh := h.isLt
  refine ⟨by omega, BitVec.eq_of_toNat_eq ?_, BitVec.eq_of_toNat_eq ?_⟩ <;>
  · rw [BitVec.toNat_ofNat, fld_eq]
    omega

/-- The field of a bit vector in the lowest bits of its entry. -/
theorem ofNat_fld_toNat {w : ℕ} (x : BitVec w) {hi : ℕ} (h : hi + 1 = w) : BitVec.ofNat w (fld x.toNat hi 0) = x := by
  subst h
  rw [fld_of_lt x.isLt, BitVec.ofNat_toNat, BitVec.setWidth_eq]

/-- The header that a flit's fields hold. -/
def headerOf (f : Flit) : Pkt where
  op := BitVec.ofNat 8 (ffld f 4 7 0)
  epoch := BitVec.ofNat 2 (ffld f 5 7 0)
  retry := BitVec.ofNat 2 (ffld f 5 7 0 / 4)
  comp := bit (ffld f 5 7 0) 4
  mv := bit (ffld f 5 7 0) 5
  combined := bit (ffld f 5 7 0) 6
  locked := bit (ffld f 5 7 0) 7
  dst := BitVec.ofNat 15 (ffld f 6 14 0)
  src := BitVec.ofNat 15 (ffld f 8 14 0)
  srcUnit := BitVec.ofNat 16 (ffld f 10 15 0)
  reqId := BitVec.ofNat 32 (ffld f 12 31 0)
  job := BitVec.ofNat 32 (ffld f 16 31 0)
  part := BitVec.ofNat 5 (ffld f 20 4 0)
  status := BitVec.ofNat 8 (ffld f 21 7 0)
  length := BitVec.ofNat 10 (ffld f 22 9 0)
  addr := BitVec.ofNat 48 (ffld f 24 47 0)
  arg0 := BitVec.ofNat 64 (ffld f 32 63 0)
  arg1 := BitVec.ofNat 64 (ffld f 40 63 0)
  origTime := BitVec.ofNat 64 (ffld f 48 63 0)
  group := BitVec.ofNat 12 (ffld f 56 11 0)
  height := BitVec.ofNat 4 (ffld f 56 15 12)

/-- A flit with a listed operation and its reserved bits zero holds a header. -/
theorem pktOfFlit_some {f : Flit} (hop : listedOp (ffld f 4 7 0) = true)
    (hres : ffld f 6 15 15 + ffld f 8 15 15 + ffld f 20 7 5 + ffld f 22 15 10 + ffld f 24 63 48 + ffld f 58 47 0 +
      (if ffld f 4 7 0 < 0x80 then ffld f 21 7 0 else 0) = 0) (hvc : vcIn f < 6)
    (hcomp : ffld f 4 7 0 = 3 ∨ ffld f 4 7 0 = 4 → (headerOf f).comp = false) : pktOfFlit f = some (headerOf f) := by
  have hcomp' : ((decide (ffld f 4 7 0 = 3) || decide (ffld f 4 7 0 = 4)) && bit (ffld f 5 7 0) 4) = false := by
    by_cases h : ffld f 4 7 0 = 3 ∨ ffld f 4 7 0 = 4
    · rw [show bit (ffld f 5 7 0) 4 = false from hcomp h, Bool.and_false]
    · obtain ⟨h3, h4⟩ := not_or.mp h
      simp [h3, h4]
  unfold pktOfFlit
  exact if_neg (by simp [hop, hres, hcomp', hvc])

end Sys2Proof.Machine

open Sys2Proof Sys2Proof.Machine

/-- Settles O28: each field that the decoder reads is the field of one entry of the header's row. -/
theorem Sys2Proof.packetHeadersRoundTrip : Obligations.PacketHeadersRoundTrip := by
  unfold Obligations.PacketHeadersRoundTrip
  intro k hlisted hlen hstatus hcomp
  obtain ⟨hlink, hkind, hdflits, hvc, hpseq⟩ := linkWord_fields (vcOf_lt k.op.toNat k.srcUnit.toNat) (pktFlits_le hlen)
  have hflags := pktFlags_lt k
  obtain ⟨hgh, hgroup, hheight⟩ := groupHeight_fields k.group k.height
  have hfield : ∀ (i off n v : ℕ), (pktRow k)[i]? = some (n, v) → fieldsLength ((pktRow k).take i) = off →
      v < 2 ^ (8 * n) → ∀ {hi lo : ℕ}, hi < 8 * n → ffld (pktToFlit k) off hi lo = fld v hi lo := fun i _ _ _ h1 h2 h3 _ _ h4 => by
    rw [pktToFlit_eq_row]
    exact ffld_row i (fieldsLength_pktRow k).le h1 h2 h3 h4
  have hf0 : ∀ {hi lo}, hi < 32 → ffld (pktToFlit k) 0 hi lo = fld (linkWord 0 (vcOf k.op.toNat k.srcUnit.toNat) (pktFlits k) 0) hi lo :=
    hfield 0 0 4 _ rfl (by simp [fieldsLength, pktRow]) hlink
  have hf4 : ffld (pktToFlit k) 4 7 0 = k.op.toNat := (hfield 1 4 1 k.op.toNat rfl (by simp [fieldsLength, pktRow]) k.op.isLt (by decide)).trans (fld_of_lt k.op.isLt)
  have hf5 : ffld (pktToFlit k) 5 7 0 = pktFlags k := (hfield 2 5 1 (pktFlags k) rfl (by simp [fieldsLength, pktRow]) hflags (by decide)).trans (fld_of_lt hflags)
  have hf6 : ∀ {hi lo}, hi < 16 → ffld (pktToFlit k) 6 hi lo = fld k.dst.toNat hi lo := hfield 3 6 2 k.dst.toNat rfl (by simp [fieldsLength, pktRow]) (by omega)
  have hf8 : ∀ {hi lo}, hi < 16 → ffld (pktToFlit k) 8 hi lo = fld k.src.toNat hi lo := hfield 4 8 2 k.src.toNat rfl (by simp [fieldsLength, pktRow]) (by omega)
  have hf10 : ffld (pktToFlit k) 10 15 0 = fld k.srcUnit.toNat 15 0 := hfield 5 10 2 k.srcUnit.toNat rfl (by simp [fieldsLength, pktRow]) k.srcUnit.isLt (by decide)
  have hf12 : ffld (pktToFlit k) 12 31 0 = fld k.reqId.toNat 31 0 := hfield 6 12 4 k.reqId.toNat rfl (by simp [fieldsLength, pktRow]) k.reqId.isLt (by decide)
  have hf16 : ffld (pktToFlit k) 16 31 0 = fld k.job.toNat 31 0 := hfield 7 16 4 k.job.toNat rfl (by simp [fieldsLength, pktRow]) k.job.isLt (by decide)
  have hf20 : ∀ {hi lo}, hi < 8 → ffld (pktToFlit k) 20 hi lo = fld k.part.toNat hi lo := hfield 8 20 1 k.part.toNat rfl (by simp [fieldsLength, pktRow]) (by omega)
  have hf21 : ffld (pktToFlit k) 21 7 0 = k.status.toNat := (hfield 9 21 1 k.status.toNat rfl (by simp [fieldsLength, pktRow]) k.status.isLt (by decide)).trans (fld_of_lt k.status.isLt)
  have hf22 : ∀ {hi lo}, hi < 16 → ffld (pktToFlit k) 22 hi lo = fld k.length.toNat hi lo := hfield 10 22 2 k.length.toNat rfl (by simp [fieldsLength, pktRow]) (by omega)
  have hf24 : ∀ {hi lo}, hi < 64 → ffld (pktToFlit k) 24 hi lo = fld k.addr.toNat hi lo := hfield 11 24 8 k.addr.toNat rfl (by simp [fieldsLength, pktRow]) (by omega)
  have hf32 : ffld (pktToFlit k) 32 63 0 = fld k.arg0.toNat 63 0 := hfield 12 32 8 k.arg0.toNat rfl (by simp [fieldsLength, pktRow]) k.arg0.isLt (by decide)
  have hf40 : ffld (pktToFlit k) 40 63 0 = fld k.arg1.toNat 63 0 := hfield 13 40 8 k.arg1.toNat rfl (by simp [fieldsLength, pktRow]) k.arg1.isLt (by decide)
  have hf48 : ffld (pktToFlit k) 48 63 0 = fld k.origTime.toNat 63 0 := hfield 14 48 8 k.origTime.toNat rfl (by simp [fieldsLength, pktRow]) k.origTime.isLt (by decide)
  have hf56 : ∀ {hi lo}, hi < 16 → ffld (pktToFlit k) 56 hi lo = fld (k.group.toNat + k.height.toNat * 4096) hi lo :=
    hfield 15 56 2 _ rfl (by simp [fieldsLength, pktRow]) hgh
  have hf58 : ffld (pktToFlit k) 58 47 0 = 0 := (hfield 16 58 6 0 rfl (by simp [fieldsLength, pktRow]) (by decide) (by decide)).trans (fld_of_lt (by decide))
  refine ⟨?_, (hf0 (by decide)).trans hkind, (hf0 (by decide)).trans hpseq, (hf0 (by decide)).trans hvc, (hf0 (by decide)).trans hdflits⟩
  have hvcIn : vcIn (pktToFlit k) < 6 := by
    rw [vcIn, hf0 (by decide), hvc]
    exact vcOf_lt _ _
  have hreserved : ffld (pktToFlit k) 6 15 15 + ffld (pktToFlit k) 8 15 15 + ffld (pktToFlit k) 20 7 5 +
      ffld (pktToFlit k) 22 15 10 + ffld (pktToFlit k) 24 63 48 + ffld (pktToFlit k) 58 47 0 +
      (if ffld (pktToFlit k) 4 7 0 < 0x80 then ffld (pktToFlit k) 21 7 0 else 0) = 0 := by
    have hst : (if k.op.toNat < 0x80 then k.status.toNat else 0) = 0 := by
      split
      · rw [hstatus ‹_›]
        rfl
      · rfl
    rw [hf6 (by decide), hf8 (by decide), hf20 (by decide), hf22 (by decide), hf24 (by decide), hf58, hf21, hf4,
      fld_eq_zero k.dst.isLt, fld_eq_zero k.src.isLt, fld_eq_zero k.part.isLt, fld_eq_zero k.length.isLt,
      fld_eq_zero k.addr.isLt, hst]
  have hheader : headerOf (pktToFlit k) = k := by
    obtain ⟨he, hr, hc, hm, hb, hl⟩ := pktFlags_bits k
    unfold headerOf
    rw [hf4, hf5, hf6 (by decide), hf8 (by decide), hf10, hf12, hf16, hf20 (by decide), hf21, hf22 (by decide),
      hf24 (by decide), hf32, hf40, hf48, hf56 (by decide), hf56 (by decide), he, hr, hc, hm, hb, hl, hgroup, hheight]
    simp only [ofNat_fld_toNat, BitVec.ofNat_toNat, BitVec.setWidth_eq]
  refine (pktOfFlit_some ?_ hreserved hvcIn ?_).trans (congrArg some hheader)
  · rw [hf4]
    exact hlisted
  · rw [hf4, hheader]
    exact fun h => hcomp (h.imp (fun h => BitVec.eq_of_toNat_eq h) fun h => BitVec.eq_of_toNat_eq h)

end Headers

/-! ## Tree packet headers (13 R447) -/

section TreeHeaders

namespace Sys2Proof.Machine

open Sys2Proof

/-- The fields of a tree packet's header. -/
def treeRow (k : TreePkt) : List (ℕ × ℕ) :=
  [(4, linkWord 0 3 (cdiv k.length.toNat 64) 0), (1, k.op.toNat), (1, k.epoch.toNat + k.retry.toNat * 4), (2, k.dst.toNat),
    (2, k.src.toNat), (2, k.srcUnit.toNat), (4, k.reqId.toNat), (4, k.job.toNat), (1, k.part.toNat), (1, 0),
    (2, k.length.toNat), (8, k.addr.toNat), (8, k.digest.toNat), (8, k.equinox.toNat), (2, k.group.toNat),
    (1, k.tree.toNat + k.empty.toNat * 2 + k.special.toNat * 4), (1, k.limbBase.toNat + k.limbCount.toNat * 16),
    (2, k.abortCode.toNat), (2, k.origin.toNat), (8, 0)]

theorem treeToFlit_eq_row (k : TreePkt) : treeToFlit k = flitOf (fieldsBytes (treeRow k)) := by
  have hbyte : ∀ v : ℕ, leBytes 1 v = [BitVec.ofNat 8 v] := fun _ => rfl
  refine congrArg flitOf ?_
  simp only [treeRow, fieldsBytes, List.flatMap_cons, List.flatMap_nil, List.append_nil, List.append_assoc, leBytes_zero, hbyte,
    BitVec.ofNat_toNat, BitVec.setWidth_eq, List.cons_append, List.nil_append]
  rfl

theorem fieldsLength_treeRow (k : TreePkt) : fieldsLength (treeRow k) = 64 := by
  simp [fieldsLength, treeRow]

/-- The bytes of a tree header with more than one field. -/
theorem treeBytes_fields : (∀ e r : BitVec 2, let v := e.toNat + r.toNat * 4
      v < 256 ∧ BitVec.ofNat 2 (fld v 1 0) = e ∧ BitVec.ofNat 2 (fld v 3 2) = r ∧ fld v 7 4 = 0) ∧
    (∀ (t : BitVec 1) (e p : Bool), let v := t.toNat + e.toNat * 2 + p.toNat * 4
      v < 256 ∧ BitVec.ofNat 1 (fld v 0 0) = t ∧ bit (fld v 7 0) 1 = e ∧ bit (fld v 7 0) 2 = p ∧ fld v 7 3 = 0) ∧
    (∀ b c : BitVec 4, let v := b.toNat + c.toNat * 16
      v < 256 ∧ BitVec.ofNat 4 (fld v 3 0) = b ∧ BitVec.ofNat 4 (fld v 7 4) = c) := by
  decide +kernel

/-- The header that the fields of a tree packet's flit hold. -/
def treeHeaderOf (f : Flit) : TreePkt where
  op := BitVec.ofNat 8 (ffld f 4 7 0)
  epoch := BitVec.ofNat 2 (ffld f 5 1 0)
  retry := BitVec.ofNat 2 (ffld f 5 3 2)
  dst := BitVec.ofNat 15 (ffld f 6 14 0)
  src := BitVec.ofNat 15 (ffld f 8 14 0)
  srcUnit := BitVec.ofNat 16 (ffld f 10 15 0)
  reqId := BitVec.ofNat 32 (ffld f 12 31 0)
  job := BitVec.ofNat 32 (ffld f 16 31 0)
  part := BitVec.ofNat 5 (ffld f 20 4 0)
  length := BitVec.ofNat 10 (ffld f 22 9 0)
  addr := BitVec.ofNat 48 (ffld f 24 47 0)
  digest := BitVec.ofNat 64 (ffld f 32 63 0)
  equinox := BitVec.ofNat 64 (ffld f 40 63 0)
  group := BitVec.ofNat 12 (ffld f 48 11 0)
  tree := BitVec.ofNat 1 (ffld f 50 0 0)
  empty := bit (ffld f 50 7 0) 1
  special := bit (ffld f 50 7 0) 2
  limbBase := BitVec.ofNat 4 (ffld f 51 3 0)
  limbCount := BitVec.ofNat 4 (ffld f 51 7 4)
  abortCode := BitVec.ofNat 16 (ffld f 52 15 0)
  origin := BitVec.ofNat 15 (ffld f 54 14 0)

theorem treeOfFlit_some {f : Flit} (hlow : 0x40 ≤ ffld f 4 7 0) (hhigh : ffld f 4 7 0 ≤ 0x43)
    (hres : ffld f 5 7 4 + ffld f 6 15 15 + ffld f 8 15 15 + ffld f 20 7 5 + ffld f 21 7 0 + ffld f 22 15 10 +
      ffld f 24 63 48 + ffld f 48 15 12 + ffld f 50 7 3 + ffld f 54 15 15 + ffld f 56 63 0 = 0) :
    treeOfFlit f = some (treeHeaderOf f) := by
  unfold treeOfFlit
  exact if_pos ⟨hlow, hhigh, hres⟩

end Sys2Proof.Machine

open Sys2Proof Sys2Proof.Machine

/-- Settles O29: each field that the decoder reads is the field of one entry of the header's row. -/
theorem Sys2Proof.treeHeadersRoundTrip : Obligations.TreeHeadersRoundTrip := by
  unfold Obligations.TreeHeadersRoundTrip
  intro k hlow hhigh hlen
  obtain ⟨htries, hflags, hlimbs⟩ := treeBytes_fields
  obtain ⟨hb5, hepoch, hretry, hres5⟩ := htries k.epoch k.retry
  obtain ⟨hb50, htree, hempty, hspecial, hres50⟩ := hflags k.tree k.empty k.special
  obtain ⟨hb51, hbase, hcount⟩ := hlimbs k.limbBase k.limbCount
  have hfield : ∀ (i off n v : ℕ), (treeRow k)[i]? = some (n, v) → fieldsLength ((treeRow k).take i) = off →
      v < 2 ^ (8 * n) → ∀ {hi lo : ℕ}, hi < 8 * n → ffld (treeToFlit k) off hi lo = fld v hi lo := fun i _ _ _ h1 h2 h3 _ _ h4 => by
    rw [treeToFlit_eq_row]
    exact ffld_row i (fieldsLength_treeRow k).le h1 h2 h3 h4
  have hf4 : ffld (treeToFlit k) 4 7 0 = k.op.toNat :=
    (hfield 1 4 1 k.op.toNat rfl (by simp [fieldsLength, treeRow]) k.op.isLt (by decide)).trans (fld_of_lt k.op.isLt)
  have hf5 : ∀ {hi lo}, hi < 8 → ffld (treeToFlit k) 5 hi lo = fld (k.epoch.toNat + k.retry.toNat * 4) hi lo :=
    hfield 2 5 1 _ rfl (by simp [fieldsLength, treeRow]) hb5
  have hf6 : ∀ {hi lo}, hi < 16 → ffld (treeToFlit k) 6 hi lo = fld k.dst.toNat hi lo :=
    hfield 3 6 2 k.dst.toNat rfl (by simp [fieldsLength, treeRow]) (by omega)
  have hf8 : ∀ {hi lo}, hi < 16 → ffld (treeToFlit k) 8 hi lo = fld k.src.toNat hi lo :=
    hfield 4 8 2 k.src.toNat rfl (by simp [fieldsLength, treeRow]) (by omega)
  have hf10 : ffld (treeToFlit k) 10 15 0 = fld k.srcUnit.toNat 15 0 :=
    hfield 5 10 2 k.srcUnit.toNat rfl (by simp [fieldsLength, treeRow]) k.srcUnit.isLt (by decide)
  have hf12 : ffld (treeToFlit k) 12 31 0 = fld k.reqId.toNat 31 0 :=
    hfield 6 12 4 k.reqId.toNat rfl (by simp [fieldsLength, treeRow]) k.reqId.isLt (by decide)
  have hf16 : ffld (treeToFlit k) 16 31 0 = fld k.job.toNat 31 0 :=
    hfield 7 16 4 k.job.toNat rfl (by simp [fieldsLength, treeRow]) k.job.isLt (by decide)
  have hf20 : ∀ {hi lo}, hi < 8 → ffld (treeToFlit k) 20 hi lo = fld k.part.toNat hi lo :=
    hfield 8 20 1 k.part.toNat rfl (by simp [fieldsLength, treeRow]) (by omega)
  have hf21 : ffld (treeToFlit k) 21 7 0 = fld 0 7 0 :=
    hfield 9 21 1 0 rfl (by simp [fieldsLength, treeRow]) (by decide) (by decide)
  have hf22 : ∀ {hi lo}, hi < 16 → ffld (treeToFlit k) 22 hi lo = fld k.length.toNat hi lo :=
    hfield 10 22 2 k.length.toNat rfl (by simp [fieldsLength, treeRow]) (by omega)
  have hf24 : ∀ {hi lo}, hi < 64 → ffld (treeToFlit k) 24 hi lo = fld k.addr.toNat hi lo :=
    hfield 11 24 8 k.addr.toNat rfl (by simp [fieldsLength, treeRow]) (by omega)
  have hf32 : ffld (treeToFlit k) 32 63 0 = fld k.digest.toNat 63 0 :=
    hfield 12 32 8 k.digest.toNat rfl (by simp [fieldsLength, treeRow]) k.digest.isLt (by decide)
  have hf40 : ffld (treeToFlit k) 40 63 0 = fld k.equinox.toNat 63 0 :=
    hfield 13 40 8 k.equinox.toNat rfl (by simp [fieldsLength, treeRow]) k.equinox.isLt (by decide)
  have hf48 : ∀ {hi lo}, hi < 16 → ffld (treeToFlit k) 48 hi lo = fld k.group.toNat hi lo :=
    hfield 14 48 2 k.group.toNat rfl (by simp [fieldsLength, treeRow]) (by omega)
  have hf50 : ∀ {hi lo}, hi < 8 → ffld (treeToFlit k) 50 hi lo = fld (k.tree.toNat + k.empty.toNat * 2 + k.special.toNat * 4) hi lo :=
    hfield 15 50 1 _ rfl (by simp [fieldsLength, treeRow]) hb50
  have hf51 : ∀ {hi lo}, hi < 8 → ffld (treeToFlit k) 51 hi lo = fld (k.limbBase.toNat + k.limbCount.toNat * 16) hi lo :=
    hfield 16 51 1 _ rfl (by simp [fieldsLength, treeRow]) hb51
  have hf52 : ffld (treeToFlit k) 52 15 0 = fld k.abortCode.toNat 15 0 :=
    hfield 17 52 2 k.abortCode.toNat rfl (by simp [fieldsLength, treeRow]) k.abortCode.isLt (by decide)
  have hf54 : ∀ {hi lo}, hi < 16 → ffld (treeToFlit k) 54 hi lo = fld k.origin.toNat hi lo :=
    hfield 18 54 2 k.origin.toNat rfl (by simp [fieldsLength, treeRow]) (by omega)
  have hf56 : ffld (treeToFlit k) 56 63 0 = fld 0 63 0 :=
    hfield 19 56 8 0 rfl (by simp [fieldsLength, treeRow]) (by decide) (by decide)
  have hheader : treeHeaderOf (treeToFlit k) = k := by
    unfold treeHeaderOf
    rw [hf4, hf5 (by decide), hf5 (by decide), hf6 (by decide), hf8 (by decide), hf10, hf12, hf16, hf20 (by decide),
      hf22 (by decide), hf24 (by decide), hf32, hf40, hf48 (by decide), hf50 (by decide), hf50 (by decide), hf51 (by decide),
      hf51 (by decide), hf52, hf54 (by decide), hepoch, hretry, htree, hempty, hspecial, hbase, hcount]
    simp only [ofNat_fld_toNat, BitVec.ofNat_toNat, BitVec.setWidth_eq]
  refine (treeOfFlit_some (by rw [hf4]; exact hlow) (by rw [hf4]; exact hhigh) ?_).trans (congrArg some hheader)
  rw [hf5 (by decide), hf6 (by decide), hf8 (by decide), hf20 (by decide), hf21, hf22 (by decide), hf24 (by decide),
    hf48 (by decide), hf50 (by decide), hf54 (by decide), hf56, hres5, fld_eq_zero k.dst.isLt, fld_eq_zero k.src.isLt,
    fld_eq_zero k.part.isLt, fld_of_lt (v := 0) (hi := 7) (by decide), fld_eq_zero k.length.isLt, fld_eq_zero k.addr.isLt,
    fld_eq_zero k.group.isLt, hres50, fld_eq_zero k.origin.isLt, fld_of_lt (v := 0) (hi := 63) (by decide)]

end TreeHeaders

/-! ## Requests at their target (12) -/

section Targets

namespace Sys2Proof.Machine

open Sys2Proof

variable {s s1 u : State} {k : Pkt} {data bs : Bytes} {e : ℕ × ℕ × Flit × Bytes} {a n : ℕ} {job : BitVec 32} {st : ℕ}

/-! ### Access -/

theorem accessRefused_ctrl {j : ℕ} (h : s.place a = .ctrl j) : s.accessRefused job a n = some 4 := by
  simp only [State.accessRefused, h]

theorem accessRefused_unmapped (h : s.place a = .unmapped) : s.accessRefused job a n = some 1 := by
  simp only [State.accessRefused, h]

/-- Mapped memory is refused by what is unmapped of it and by who owns it. -/
theorem accessRefused_mapped (hctrl : s.ctrlAt a = false) (hmap : s.place a ≠ .unmapped) : s.accessRefused job a n =
    if s.unmappedIn a n then some 1 else if s.jobOwns job a n then none else some 4 := by
  unfold State.ctrlAt at hctrl
  unfold State.accessRefused
  cases hp : s.place a <;> simp_all

theorem ctrlAt_eq_true_iff : s.ctrlAt a = true ↔ ∃ j, s.place a = .ctrl j := by
  unfold State.ctrlAt
  cases hp : s.place a <;> simp

theorem ctrlAt_of_rmw (h : s.rmwRefused job a n = none) : s.ctrlAt a = false := by
  unfold State.rmwRefused at h
  unfold State.ctrlAt
  cases hp : s.place a <;> simp_all

theorem rmwRefused_unmapped (h : s.place a = .unmapped) :
    s.rmwRefused job a n = some (.mem (MemErr.unmapped a)) := by
  simp only [State.rmwRefused, h]

/-- Mapped memory that no partition of the job owns is denied to an atomic. -/
theorem rmwRefused_denied (hctrl : s.ctrlAt a = false) (hmap : s.place a ≠ .unmapped) (hun : s.unmappedIn a n = false)
    (howns : s.jobOwns job a n = false) : s.rmwRefused job a n = some .denied := by
  unfold State.ctrlAt at hctrl
  unfold State.rmwRefused
  cases hp : s.place a <;> simp_all

/-! ### Taking a request -/

theorem takeRequest_held {op : Byte} {serve : State → Bytes → State} (hop : k.op = op)
    (hheld : s.heldAt k.job k.addr.toNat = false) (he : s.heldRx k data = some e) :
    s.takeRequest op k data serve = serve (s.takeRx e) (e.2.2.2.take k.length.toNat) := by
  have hgo : ¬(k.op ≠ op ∨ s.heldAt k.job k.addr.toNat = true) := by simp [hop, hheld]
  rw [State.takeRequest, if_neg hgo, he]

/-! ### Reads and writes -/

theorem serveRead_ok (hacc : s.accessRefused k.job k.addr.toNat k.length.toNat = none)
    (hread : s.readUpTo k.job k.addr.toNat k.length.toNat = (bs, none, s1)) : s.serveRead k = s1.reply k 0x80 0 0 bs := by
  simp only [State.serveRead, hacc, hread]

theorem serveRead_refused (hacc : s.accessRefused k.job k.addr.toNat k.length.toNat = some st) :
    s.serveRead k = s.reply k 0x80 st 0 [] := by
  simp only [State.serveRead, hacc]

theorem landWrite_ok (hacc : s.accessRefused k.job k.addr.toNat k.length.toNat = none)
    (hwrite : s.writeMem k.job k.addr.toNat data = (.ok (), s1)) : s.landWrite k data = (0, s1) := by
  simp only [State.landWrite, hacc, hwrite]

theorem landWrite_refused (hacc : s.accessRefused k.job k.addr.toNat k.length.toNat = some st) :
    s.landWrite k data = (st, s) := by
  simp only [State.landWrite, hacc]

theorem serveWrite_eq (hland : s.landWrite k data = (st, s1)) : s.serveWrite k data = s1.reply k 0x81 st 0 [] := by
  simp only [State.serveWrite, hland]

/-! ### Once -/

section

variable {op : Byte} {apply : State → ℕ × Word × State} {v : Word}

theorem once_replayed {st : Byte} (h : (s.xdie (pktEngine k)).replayed k.src k.reqId = some (st, v)) :
    s.once k op apply = s.reply k op st.toNat v [] := by
  simp only [State.once, h]

theorem once_busy (h : (s.xdie (pktEngine k)).replayed k.src k.reqId = none) (hmay : s.mayApply k = true)
    (hroom : (s.xdie (pktEngine k)).replayRoom s.now = false) : s.once k op apply = s.reply k op 6 0 [] := by
  simp only [State.once, h, hmay, hroom, Bool.not_true, Bool.false_eq_true, if_false, Bool.not_false, if_true]

theorem once_applied (h : (s.xdie (pktEngine k)).replayed k.src k.reqId = none) (hmay : s.mayApply k = true)
    (hroom : (s.xdie (pktEngine k)).replayRoom s.now = true) (happly : apply s = (0, v, s1)) :
    s.once k op apply = (s1.updXdie (pktEngine k) fun d => d.putReplay k.src k.reqId 0 v s1.now).reply k op 0 v [] := by
  simp only [State.once, h, hmay, hroom, Bool.not_true, Bool.false_eq_true, if_false, happly]

theorem once_refused (h : (s.xdie (pktEngine k)).replayed k.src k.reqId = none) (hmay : s.mayApply k = true)
    (hroom : (s.xdie (pktEngine k)).replayRoom s.now = true) (happly : apply s = (st, v, s1)) (hst : st ≠ 0) :
    s.once k op apply = s1.reply k op st v [] := by
  obtain ⟨m, rfl⟩ := Nat.exists_eq_succ_of_ne_zero hst
  simp only [State.once, h, hmay, hroom, Bool.not_true, Bool.false_eq_true, if_false, happly]

end

/-! ### Atomics -/

/-- What an atomic does at its target, once. -/
def State.applyAtomic (k : Pkt) (s : State) : ℕ × Word × State :=
  if s.ctrlAt k.addr.toNat then (4, 0, s)
  else match s.atomicAt k.job (k.op.toNat - 0x10) (8 * k.length.toNat) k.addr.toNat k.arg0 k.arg1 with
  | (.ok v, s) => (0, v, s)
  | (.error r, s) => (r.status, 0, s)

theorem serveAtomic_eq (s : State) (k : Pkt) : s.serveAtomic k = s.once k 0x82 (State.applyAtomic k) := rfl

theorem rmwRefused_none_of_atomicAt {op w : ℕ} {arg cmp v : Word} (h : s.atomicAt job op w a arg cmp = (.ok v, s1)) :
    s.rmwRefused job a ((if op = 1 then 32 else w) / 8) = none := by
  unfold State.atomicAt at h
  cases hr : s.rmwRefused job a ((if op = 1 then 32 else w) / 8) with
  | none => rfl
  | some r => simp [hr] at h

theorem atomicAt_refused {op w : ℕ} {arg cmp : Word} {r : Refused}
    (h : s.rmwRefused job a ((if op = 1 then 32 else w) / 8) = some r) :
    s.atomicAt job op w a arg cmp = (.error r, s) := by
  simp only [State.atomicAt, h]

theorem applyAtomic_ok {v : Word} (h : s.atomicAt k.job (k.op.toNat - 0x10) (8 * k.length.toNat) k.addr.toNat k.arg0 k.arg1 =
    (.ok v, s1)) : s.applyAtomic k = (0, v, s1) := by
  simp only [State.applyAtomic, ctrlAt_of_rmw (rmwRefused_none_of_atomicAt h), h, Bool.false_eq_true, if_false]

theorem applyAtomic_ctrl (h : s.ctrlAt k.addr.toNat = true) : s.applyAtomic k = (4, 0, s) := by
  simp only [State.applyAtomic, h, if_true]

theorem applyAtomic_refused {r : Refused} (hctrl : s.ctrlAt k.addr.toNat = false)
    (h : s.rmwRefused k.job k.addr.toNat ((if k.op.toNat - 0x10 = 1 then 32 else 8 * k.length.toNat) / 8) = some r) :
    s.applyAtomic k = (r.status, 0, s) := by
  simp only [State.applyAtomic, hctrl, atomicAt_refused h, Bool.false_eq_true, if_false]

/-- An atomic's operand is 4 bytes long for ADD_FP32 and LENGTH bytes for the others. -/
theorem atomicBytes {k : Pkt} (hop : 0x10 ≤ k.op.toNat) : (if k.op.toNat - 0x10 = 1 then 32 else 8 * k.length.toNat) / 8 =
    if k.op = 0x11 then 4 else k.length.toNat := by
  have hiff : k.op.toNat - 0x10 = 1 ↔ k.op = 0x11 := by
    constructor
    · exact fun h => BitVec.eq_of_toNat_eq (by change k.op.toNat = 17; omega)
    · rintro h
      rw [h]
      rfl
  by_cases h : k.op = 0x11
  · rw [if_pos (hiff.mpr h), if_pos h]
  · rw [if_neg (fun h' => h (hiff.mp h')), if_neg h, Nat.mul_div_cancel_left _ (by decide)]

/-- Every atomic command takes its request to the same service. -/
theorem exec_atomic {c : Instr} (hc : (k.op, c) ∈ [(0x10, Instr.addInt k), (0x11, Instr.addFp32 k), (0x12, Instr.atomicMin k),
    (0x13, Instr.atomicMax k), (0x14, Instr.swap k), (0x15, Instr.cas k), (0x16, Instr.fetchAdd k)])
    (hheld : s.heldAt k.job k.addr.toNat = false) (he : s.heldRx k [] = some e) :
    exec c s = .next ((s.takeRx e).serveAtomic k) ∧ 0x10 ≤ k.op.toNat := by
  have hnext : ∀ op : Byte, k.op = op → (s.takeRequest op k [] fun s _ => s.serveAtomic k) = (s.takeRx e).serveAtomic k :=
    fun op hop => takeRequest_held (serve := fun s _ => s.serveAtomic k) hop hheld he
  simp only [List.mem_cons, Prod.mk.injEq, List.not_mem_nil, or_false] at hc
  rcases hc with ⟨hop, rfl⟩ | ⟨hop, rfl⟩ | ⟨hop, rfl⟩ | ⟨hop, rfl⟩ | ⟨hop, rfl⟩ | ⟨hop, rfl⟩ | ⟨hop, rfl⟩ <;>
  exact ⟨congrArg _ (hnext _ hop), by rw [hop]; decide⟩

/-! ### Reductions and multicasts -/

/-- What a reduction does at its target, once. -/
def State.applyReduce (k : Pkt) (data : Bytes) (s : State) : ℕ × Word × State :=
  if !reduceListed (k.arg0.toNat % 16) (k.arg0.toNat / 16 % 16) ∨ s.ctrlAt k.addr.toNat then (4, 0, s)
  else match s.reduceAt k.job (k.arg0.toNat % 16) (k.arg0.toNat / 16 % 16) k.addr.toNat data with
    | (.ok _, s) => (0, 0, s)
    | (.error r, s) => (r.status, 0, s)

theorem serveReduce_eq (s : State) (k : Pkt) (data : Bytes) :
    s.serveReduce k data = s.once k 0x81 (State.applyReduce k data) := rfl

theorem applyReduce_ok (hlisted : reduceListed (k.arg0.toNat % 16) (k.arg0.toNat / 16 % 16) = true)
    (h : s.reduceAt k.job (k.arg0.toNat % 16) (k.arg0.toNat / 16 % 16) k.addr.toNat data = (.ok (), s1)) :
    State.applyReduce k data s = (0, 0, s1) := by
  have hrmw : s.rmwRefused k.job k.addr.toNat data.length = none := by
    unfold State.reduceAt at h
    cases hr : s.rmwRefused k.job k.addr.toNat data.length with
    | none => rfl
    | some r => simp [hr] at h
  have hgo : ¬((!reduceListed (k.arg0.toNat % 16) (k.arg0.toNat / 16 % 16)) = true ∨ s.ctrlAt k.addr.toNat = true) := by
    simp [hlisted, ctrlAt_of_rmw hrmw]
  rw [State.applyReduce, if_neg hgo, h]

theorem serveMcast_landed (hnone : (s.xdie (pktEngine k)).replayed k.src k.reqId = none)
    (hroom : (s.xdie (pktEngine k)).replayRoom s.now = true) (hland : s.landWrite k data = (0, s1)) :
    s.serveMcast k data =
      let w := s1.updXdie (pktEngine k) fun d => d.putReplay k.src k.reqId 0 0 s1.now
      if (w.mcastTargets k).length = 0 then w.reply k 0x81 0 0 []
      else (w.updFabric fun b => { b with mcastIn := b.mcastIn ++ [⟨k, (w.mcastTargets k).length⟩] }).forwardCopies k data := by
  simp only [State.serveMcast, hnone, hroom, hland, Option.isSome_none, Bool.false_eq_true, if_false, Bool.not_true]

theorem serveMcast_refused (hnone : (s.xdie (pktEngine k)).replayed k.src k.reqId = none)
    (hroom : (s.xdie (pktEngine k)).replayRoom s.now = true)
    (hacc : s.accessRefused k.job k.addr.toNat k.length.toNat = some st) (hst : st ≠ 0) :
    s.serveMcast k data = (s.reply k 0x81 st 0 []).forwardCopies k data := by
  obtain ⟨m, rfl⟩ := Nat.exists_eq_succ_of_ne_zero hst
  simp only [State.serveMcast, hnone, hroom, landWrite_refused hacc, Option.isSome_none, Bool.false_eq_true, if_false,
    Bool.not_true]

theorem exec_read (k : Pkt) (s : State) : exec (.read k) s = .next (s.takeRequest 1 k [] fun s _ => s.serveRead k) := rfl

theorem exec_write (k : Pkt) (data : Bytes) (s : State) : exec (.write k data) s =
    .next (if pktFromMonsoon k ∧ monPort k.addr.toNat then s else s.takeRequest 2 k data fun s d => s.serveWrite k d) := rfl

theorem exec_write_plain (h : pktFromMonsoon k = false) : exec (.write k data) s =
    .next (s.takeRequest 2 k data fun s d => s.serveWrite k d) := by
  rw [exec_write, if_neg (by simp [h])]

theorem exec_writeMcast (k : Pkt) (data : Bytes) (s : State) :
    exec (.writeMcast k data) s = .next (s.takeRequest 3 k data fun s d => s.serveMcast k d) := rfl

theorem exec_reduceInto (k : Pkt) (data : Bytes) (s : State) :
    exec (.reduceInto k data) s = .next (s.takeRequest 4 k data fun s d => s.serveReduce k d) := rfl

theorem exec_probe (k : Pkt) (s : State) : exec (.probe k) s = .next (s.answerProbe k) := rfl

theorem exec_jobTeardown (n : PortId) (k : Pkt) (s : State) :
    exec (.jobTeardown n k) s = .next (if k.op = 0x21 then s.jobTeardown n.val k else s) := rfl

end Sys2Proof.Machine

open Sys2Proof Sys2Proof.Machine

/-- Settles O30, by the order of the checks of each service: access, the replay cache, and the operation. -/
theorem Sys2Proof.targetsServeRequests : Obligations.TargetsServeRequests := by
  unfold Obligations.TargetsServeRequests
  refine ⟨?_, ?_, ?_⟩
  · intro k data s e hheld
    have hread : k.op = 1 → s.heldRx k [] = some e → exec (.read k) s = .next ((s.takeRx e).serveRead k) := fun hop he =>
      (exec_read k s).trans (congrArg _ (takeRequest_held (serve := fun s _ => s.serveRead k) hop hheld he))
    have hwrite : k.op = 2 → pktFromMonsoon k = false → s.heldRx k data = some e →
        exec (.write k data) s = .next ((s.takeRx e).serveWrite k (e.2.2.2.take k.length.toNat)) := fun hop hm he =>
      (exec_write_plain hm).trans (congrArg _ (takeRequest_held (serve := fun s d => s.serveWrite k d) hop hheld he))
    have hdenied : ∀ st, (s.takeRx e).accessRefused k.job k.addr.toNat k.length.toNat = some st →
        (k.op = 1 → s.heldRx k [] = some e → exec (.read k) s = .next ((s.takeRx e).reply k 0x80 st 0 [])) ∧
        (k.op = 2 → pktFromMonsoon k = false → s.heldRx k data = some e →
          exec (.write k data) s = .next ((s.takeRx e).reply k 0x81 st 0 [])) := fun st hacc =>
      ⟨fun hop he => (hread hop he).trans (congrArg _ (serveRead_refused hacc)),
        fun hop hm he => (hwrite hop hm he).trans (congrArg _ (serveWrite_eq (landWrite_refused hacc)))⟩
    refine ⟨?_, ?_, ?_, ?_, ?_⟩
    · intro bs s1 hop he hacc hbs
      exact (hread hop he).trans (congrArg _ (serveRead_ok hacc hbs))
    · intro s1 hop hm he hacc hw
      exact (hwrite hop hm he).trans (congrArg _ (serveWrite_eq (landWrite_ok hacc hw)))
    · exact fun j hj => hdenied 4 (accessRefused_ctrl hj)
    · exact fun hu => hdenied 1 (accessRefused_unmapped hu)
    · intro hctrl hmap
      refine ⟨fun hun => hdenied 1 ?_, fun hun how => hdenied 4 ?_⟩
      · rw [accessRefused_mapped hctrl hmap, if_pos hun]
      · rw [accessRefused_mapped hctrl hmap, if_neg (by simp [hun]), if_neg (by simp [how])]
  · intro k c s e hc hheld he u d
    obtain ⟨hexec, hop⟩ := exec_atomic hc hheld he
    rw [hexec, serveAtomic_eq]
    refine ⟨?_, ?_, ?_, ?_⟩
    · exact fun v s1 hnone hmay hroom hat => congrArg _ (once_applied hnone hmay hroom (applyAtomic_ok hat))
    · exact fun st v hre => congrArg _ (once_replayed hre)
    · exact fun hnone hmay hroom => congrArg _ (once_busy hnone hmay hroom)
    · intro hnone hmay hroom
      refine ⟨fun hctrl => congrArg _ (once_refused hnone hmay hroom (applyAtomic_ctrl hctrl) (by decide)), fun hu => ?_, ?_⟩
      · have hctrl : u.ctrlAt k.addr.toNat = false := by simp only [State.ctrlAt, hu]
        exact congrArg _ (once_refused hnone hmay hroom (applyAtomic_refused hctrl (rmwRefused_unmapped hu)) (by decide))
      · intro n hctrl hmap hun how
        refine congrArg _ (once_refused hnone hmay hroom (applyAtomic_refused (r := .denied) hctrl ?_) (by decide))
        rw [atomicBytes hop]
        exact rmwRefused_denied hctrl hmap hun how
  · intro k data s s1 e u d
    have hmcast : k.op = 3 → s.heldAt k.job k.addr.toNat = false → s.heldRx k data = some e →
        exec (.writeMcast k data) s = .next (u.serveMcast k (e.2.2.2.take k.length.toNat)) := fun hop hheld he =>
      (exec_writeMcast k data s).trans (congrArg _ (takeRequest_held (serve := fun s d => s.serveMcast k d) hop hheld he))
    refine ⟨?_, ?_, ?_, ?_, ?_, ?_⟩
    · intro hop hheld he hnone hmay hroom hlisted hred
      rw [exec_reduceInto, takeRequest_held (serve := fun s d => s.serveReduce k d) hop hheld he]
      exact congrArg _ (once_applied hnone hmay hroom (applyReduce_ok hlisted hred))
    · intro hop hheld he hnone hroom hacc hw htargets
      rw [hmcast hop hheld he, serveMcast_landed hnone hroom (landWrite_ok hacc hw)]
      dsimp only
      rw [htargets]
      rfl
    · intro w hop hheld he hnone hroom hacc hw htargets
      rw [hmcast hop hheld he, serveMcast_landed hnone hroom (landWrite_ok hacc hw)]
      exact congrArg _ (if_neg (fun h => htargets (List.eq_nil_of_length_eq_zero h)))
    · intro st hop hheld he hnone hroom hacc hst
      rw [hmcast hop hheld he, serveMcast_refused hnone hroom hacc hst]
    · intro hop hup he
      have hgo : ¬((!s.fw.up) = true ∨ k.op ≠ 0x20) := by simp [hup, hop]
      rw [exec_probe, State.answerProbe, if_neg hgo, he]
    · intro n hop hoper hfind
      refine ⟨fun hin => ?_, fun hout => ?_⟩
      · rw [exec_jobTeardown, if_pos hop, State.jobTeardown, if_pos hoper, hfind]
        exact congrArg _ (if_pos hin)
      · rw [exec_jobTeardown, if_pos hop, State.jobTeardown, if_pos hoper, hfind]
        exact congrArg _ (if_neg (by rw [hout]; decide))

end Targets

/-! ## The table of atomics (12 R403) -/

section AtomicTable

open Sys2Proof Sys2Proof.Machine

/-- Settles O31, by the operations of the table. -/
theorem Sys2Proof.atomicsComputeTheTable : Obligations.AtomicsComputeTheTable := by
  unfold Obligations.AtomicsComputeTheTable
  intro s s1 s2 job op w a arg cmp bs hop hfp hw hrmw halign hread hlen hwrite
  have hops : op = 0 ∨ op = 2 ∨ op = 3 ∨ op = 4 ∨ op = 5 ∨ op = 6 := by omega
  have hvalue : BitVec.ofNat 64 (atomicOp op w (leNat bs) arg.toNat cmp.toNat).2 =
      if op = 0 then 0 else BitVec.ofNat 64 (leNat bs) := by
    rcases hops with rfl | rfl | rfl | rfl | rfl | rfl <;> rfl
  refine ⟨?_, ?_⟩
  · simp only [State.atomicAt, if_neg hfp, hrmw, halign, ne_eq, not_true_eq_false, if_false, hread, hwrite, hvalue]
  · rcases hops with rfl | rfl | rfl | rfl | rfl | rfl <;> rfl

end AtomicTable

/-! ## Combine windows and routing epochs (12 R419, R426) -/

section Windows

namespace Sys2Proof.Machine

open Sys2Proof

/-- The transaction that has just been made is there. -/
theorem xact?_newXact_isSome (s : State) (k : Pkt) (data : Bytes) (owner : Owner) (part : ℕ) :
    ((s.newXact k data owner part).xact? s.fabric.nextReq).isSome := by
  rw [State.xact?, List.find?_isSome]
  exact ⟨_, List.mem_append_right _ (List.mem_singleton.mpr rfl), by simp⟩

/-- The members of a window: those whose transaction it is and those that joined it. -/
def State.windowMembers (s : State) (id : BitVec 32) : List Xact :=
  bySource (s.fabric.xacts.filter fun y => y.k.reqId = id || y.state = .joined id)

/-- The members wait for the combined transaction. -/
def State.joinWindow (s : State) (id : BitVec 32) (ids : List (BitVec 32)) : State :=
  ids.foldl (fun s i => s.updXact i fun y => { y with state := .joined id }) s

/-- The combined transaction of a window. -/
def State.combinedPkt (s : State) (id : BitVec 32) (x : Xact) : Pkt :=
  { x.k with
    combined := true
    arg0 := match s.windowMembers id with
      | m :: rest => rest.foldl (fun acc y => combineStep x.k.op.toNat (pktWidth x.k) acc y.k.arg0) m.k.arg0
      | [] => 0
    srcUnit := BitVec.ofNat 16 (xUnit (engineOf x.k.addr.toNat) 0x31)
    mv := (s.windowMembers id).any fun m => m.k.mv }

/-- The state in which the combined transaction of a window is sent. -/
def State.windowClosed (s : State) (id : BitVec 32) (x : Xact) : State :=
  ((s.joinWindow id ((s.windowMembers id).map fun m => m.k.reqId)).newXact (s.combinedPkt id x) []
    (.combined ((s.windowMembers id).map fun m => (m.k.reqId, m.k.arg0))) x.part).updFabric fun b =>
      { b with combinedCnt := satAdd b.combinedCnt (s.windowMembers id).length }

theorem closeWindow_eq {s : State} {id : BitVec 32} {x y : Xact} (hx : s.xact? id = some x) (hwin : x.state = .window)
    (hold : x.sentAt + 64 ≤ s.now) (hmoves : s.moves = true)
    (hy : (s.windowClosed id x).xact? (s.joinWindow id ((s.windowMembers id).map fun m => m.k.reqId)).fabric.nextReq = some y) :
    s.closeWindow id = (s.windowClosed id x).sendAttempt y 0 true := by
  have hgo : ¬(x.state ≠ .window ∨ (!s.moves) = true ∨ s.now < x.sentAt + 64) := by
    simp only [hwin, hmoves, ne_eq, not_true_eq_false, Bool.not_true, Bool.false_eq_true, false_or]
    omega
  have hjoin : ((s.windowMembers id).map fun m => (m.k.reqId, m.k.arg0)).foldl
      (fun s i => s.updXact i.1 fun y => { y with state := .joined id }) s =
      s.joinWindow id ((s.windowMembers id).map fun m => m.k.reqId) := by
    simp only [State.joinWindow, List.foldl_map]
  unfold State.closeWindow
  rw [hx]
  refine (if_neg hgo).trans ?_
  unfold State.windowClosed at hy ⊢
  rw [← hjoin] at hy ⊢
  dsimp only
  split
  · next y' h =>
    obtain rfl : y' = y := Option.some.inj (h.symm.trans hy)
    rfl
  · next h => exact absurd (h.symm.trans hy) (by simp)

theorem exec_combineWindowClose (id : BitVec 32) (s : State) :
    exec (.combineWindowClose id) s = .next (s.closeWindow id) := rfl

theorem exec_routeEpochSwitch (s : State) : exec .routeEpochSwitch s = .next s.switchEpoch := rfl

theorem exec_routeEpochRetire (s : State) : exec .routeEpochRetire s = .next s.retireEpoch := rfl

end Sys2Proof.Machine

open Sys2Proof Sys2Proof.Machine

/-- Settles O33: the combined transaction is found where it was made, and an epoch's end is read off its register. -/
theorem Sys2Proof.windowsCloseAndEpochsSwitch : Obligations.WindowsCloseAndEpochsSwitch := by
  unfold Obligations.WindowsCloseAndEpochsSwitch
  refine ⟨?_, ?_⟩
  · intro id s x hx hwin hold hmoves members joined
    obtain ⟨y, hy⟩ := Option.isSome_iff_exists.mp (xact?_newXact_isSome joined (s.combinedPkt id x) []
      (.combined (members.map fun m => (m.k.reqId, m.k.arg0))) x.part)
    refine ⟨s.combinedPkt id x, y, rfl, rfl, rfl, rfl, List.any_eq_true, hy, ?_⟩
    rw [exec_combineWindowClose]
    exact congrArg _ (closeWindow_eq hx hwin hold hmoves hy)
  · intro s hmoves
    refine ⟨?_, ?_⟩
    · intro hat hdone hnow hret
      have hzero : s.fabric.epochAt.toNat ≠ 0 := fun h => hat (BitVec.eq_of_toNat_eq h)
      have hgo : ¬(s.fabric.epochAt.toNat = 0 ∨ s.fabric.epochAt = s.fabric.epochDone ∨
          s.now < s.fabric.epochAt.toNat ∨ s.fabric.retiring.isSome = true ∨ (!s.moves) = true) := by
        simp only [hret, hmoves, Option.isSome_none, Bool.not_true, Bool.false_eq_true, or_false]
        rintro (h | h | h)
        · exact hzero h
        · exact hdone h
        · omega
      rw [exec_routeEpochSwitch, State.switchEpoch, if_neg hgo]
      exact ⟨_, rfl, rfl, rfl, rfl, rfl, rfl, rfl, rfl⟩
    · intro j at_ hret hnow
      have hgo : ¬(s.now < at_ ∨ (!s.moves) = true) := by
        simp only [hmoves, Bool.not_true, Bool.false_eq_true, or_false]
        omega
      rw [exec_routeEpochRetire, State.retireEpoch, hret]
      refine ⟨_, congrArg _ (if_neg hgo), rfl, rfl, ?_, rfl⟩
      exact congrArg RouteTable.valid (Tab.get_put_self _ _ _ _)

end Windows

/-! ## Tree packets and the end of collectives (13) -/

section Trees

namespace Sys2Proof.Machine

open Sys2Proof

variable {s t : State} {k : TreePkt} {data : Bytes} {e : ℕ × ℕ × Flit × Bytes} {c : Coll} {g : Group} {n : ℕ}

/-! ### Packets taken -/

theorem takeTree_eq {op : Byte} (hop : k.op = op) (hoper : s.operational = true) (he : s.findRxTree k data = some e) :
    s.takeTree op k data = (s.takeRx e).onTree k (e.2.2.2.take k.length.toNat) := by
  have hgo : ¬(k.op ≠ op ∨ (!s.operational) = true) := by simp [hop, hoper]
  rw [State.takeTree, if_neg hgo, he]

theorem onTree_denied (h : s.treeAllowed k = false) : s.onTree k data = s.replyTree k 4 := by
  simp only [State.onTree, h, Bool.not_false, if_true]

/-- A packet of an armed collective that finds its place is answered, and the early stores are looked through. -/
theorem onTree_applied (hallow : s.treeAllowed k = true) (hc : s.coll? k.group k.equinox = some c)
    (hg : Tab.get? s.groups k.group.toNat = some g) (happly : s.applyTree c g k data = some t) :
    s.onTree k data = (t.replyTree k 0).drainEarly k.group k.equinox 4096 := by
  simp only [State.onTree, hallow, Bool.not_true, Bool.false_eq_true, if_false, hc, hg, happly]

theorem onTree_full (hallow : s.treeAllowed k = true) (hc : s.coll? k.group k.equinox = some c)
    (hg : Tab.get? s.groups k.group.toNat = some g) (happly : s.applyTree c g k data = none) :
    s.onTree k data = s.replyTree k 6 := by
  simp only [State.onTree, hallow, Bool.not_true, Bool.false_eq_true, if_false, hc, hg, happly]

theorem onTree_unarmed (hallow : s.treeAllowed k = true) (hc : s.coll? k.group k.equinox = none) :
    s.onTree k data = s.treeUnarmed k data := by
  simp only [State.onTree, hallow, Bool.not_true, Bool.false_eq_true, if_false, hc]

/-! ### Packets of an armed collective -/

theorem applyTree_input (hop : k.op ≠ 0x43) (hin : c.inputOf g k = some n) :
    s.applyTree c g k data = s.collAccept c n k data := by
  rw [State.applyTree, if_neg hop, hin]

theorem applyTree_abort (hop : k.op = 0x43) : s.applyTree c g k data = some (s.collAborted c k) := by
  rw [State.applyTree, if_pos hop]

theorem collAccept_arrived (h : c.arrived k n = true) : s.collAccept c n k data = some s := by
  rw [State.collAccept, if_pos (Or.inl h)]

theorem collAccept_mismatch (harr : c.arrived k n = false) (hcomp : c.complete = false) (hd : k.digest ≠ c.digest) :
    s.collAccept c n k data = some (s.raiseColl c 0x0601 (treeDie k) k.src.toNat k.digest.toNat) := by
  rw [State.collAccept, if_neg (by simp [harr, hcomp]), if_pos hd]

/-- The buffers of an input that a packet's X-die holds. -/
def Coll.used (c : Coll) (k : TreePkt) (n : ℕ) : ℕ :=
  c.got.countP fun x => x.input = n && x.tree = k.tree.toNat && x.chunk % 4 = treeDie k && c.holds x

theorem collAccept_room (harr : c.arrived k n = false) (hcomp : c.complete = false) (hd : k.digest = c.digest)
    (hroom : c.used k n < 8) : s.collAccept c n k data =
      some ((s.updColl c fun c => { c with got := c.got ++ [⟨k.tree.toNat, treeChunk k, treePart k, n, k, data⟩] }).collRun
        c.group c.equinox c.fuel) := by
  rw [State.collAccept, if_neg (by simp [harr, hcomp]), if_neg (fun h => h hd)]
  exact if_neg (Nat.not_le.mpr hroom)

theorem collAccept_full (harr : c.arrived k n = false) (hcomp : c.complete = false) (hd : k.digest = c.digest)
    (hfull : 8 ≤ c.used k n) : s.collAccept c n k data = none := by
  rw [State.collAccept, if_neg (by simp [harr, hcomp]), if_neg (fun h => h hd)]
  exact if_pos hfull

/-! ### Packets before their collective -/

theorem treeUnarmed_early (hpast : (s.collPast.find? fun c => c.group = k.group && c.equinox = k.equinox) = none)
    (hnew : ((s.xdie (treeDie k)).collEarly.any fun e => sameTree e.1 k) = false)
    (hroom : (s.xdie (treeDie k)).collEarly.length < 1024) :
    s.treeUnarmed k data = (s.storeEarlyTree k data).replyTree k 0 := by
  simp only [State.treeUnarmed, hpast, hnew, Bool.false_eq_true, if_false]
  exact if_neg (Nat.not_le.mpr hroom)

theorem treeUnarmed_busy (hpast : (s.collPast.find? fun c => c.group = k.group && c.equinox = k.equinox) = none)
    (hnew : ((s.xdie (treeDie k)).collEarly.any fun e => sameTree e.1 k) = false)
    (hfull : 1024 ≤ (s.xdie (treeDie k)).collEarly.length) :
    s.treeUnarmed k data = s.replyTree k 6 := by
  simp only [State.treeUnarmed, hpast, hnew, Bool.false_eq_true, if_false]
  exact if_pos hfull

/-- The three commands of packets that carry partials and results do the same. -/
theorem exec_tree {i : Instr}
    (hi : (k.op, i) ∈ [(0x40, Instr.collUp k data), (0x41, Instr.collDown k data), (0x42, Instr.collRoot k data)])
    (hoper : s.operational = true) (he : s.findRxTree k data = some e) :
    exec i s = .next ((s.takeRx e).onTree k (e.2.2.2.take k.length.toNat)) ∧ k.op ≠ 0x43 := by
  simp only [List.mem_cons, Prod.mk.injEq, List.not_mem_nil, or_false] at hi
  rcases hi with ⟨hop, rfl⟩ | ⟨hop, rfl⟩ | ⟨hop, rfl⟩ <;>
  exact ⟨congrArg _ (takeTree_eq hop hoper he), by rw [hop]; decide⟩

/-! ### Aborts -/

theorem exec_collAbort (hop : k.op = 0x43) (hoper : s.operational = true) (he : s.findRxTree k [] = some e)
    (hallow : (s.takeRx e).treeAllowed k = true) (hc : (s.takeRx e).coll? k.group k.equinox = some c)
    (hg : Tab.get? (s.takeRx e).groups k.group.toNat = some g) :
    exec (.collAbort k) s = .next ((((s.takeRx e).collAborted c k).replyTree k 0).drainEarly k.group k.equinox 4096) := by
  change Host.Outcome.next (s.takeTree 0x43 k []) = _
  rw [takeTree_eq hop hoper he, onTree_applied hallow hc hg (applyTree_abort hop)]

theorem collAborted_again (h : c.aborted = true) : s.collAborted c k = s := by
  rw [State.collAborted, if_pos h]

theorem collAborted_complete (h : c.aborted = false) (hcomp : c.complete = true) : s.collAborted c k =
    (s.sendCollAborts c k.abortCode.toNat k.origin (some k.src)).updColl c fun c => { c with aborted := true } := by
  rw [State.collAborted, if_neg (by simp [h]), if_neg (by simp [hcomp]), if_pos hcomp]

/-- The collective keeps the code and the member of its first abort. -/
def State.noteAbort (s : State) (c : Coll) (k : TreePkt) : State :=
  s.updColl c fun c => { c with abort := some (k.abortCode.toNat, k.origin, k.src) }

theorem collAborted_mismatch (h : c.aborted = false) (hcomp : c.complete = false) (hd : k.digest ≠ c.digest) :
    s.collAborted c k = (s.noteAbort c k).raiseColl c 0x0601 (treeDie k) k.src.toNat k.digest.toNat := by
  rw [State.collAborted, if_neg (by simp [h]), if_pos ⟨by simp [hcomp], hd⟩]
  rfl

theorem collAborted_first (h : c.aborted = false) (hcomp : c.complete = false) (hd : k.digest = c.digest) :
    s.collAborted c k = if k.abortCode = 0x0601 then
        (s.noteAbort c k).raiseColl c 0x0601 (treeDie k) k.origin.toNat k.digest.toNat
      else (s.noteAbort c k).raiseColl c 0x0603 (treeDie k) k.origin.toNat k.abortCode.toNat := by
  rw [State.collAborted, if_neg (by simp [h]), if_neg (fun h => h.2 hd), if_neg (by simp [hcomp])]
  rfl

/-! ### Completion and commit -/

theorem exec_collectiveComplete (group : BitVec 12) (equinox : Word) (s : State) :
    exec (.collectiveComplete group equinox) s = .next (s.completeColl group equinox) := rfl

theorem exec_collectiveCommitDone (group : BitVec 12) (equinox : Word) (s : State) :
    exec (.collectiveCommitDone group equinox) s = .next (s.commitColl group equinox) := rfl

end Sys2Proof.Machine

open Sys2Proof Sys2Proof.Machine

/-- Settles O34, by the checks of a tree packet in their order. -/
theorem Sys2Proof.treePacketsAreTaken : Obligations.TreePacketsAreTaken := by
  unfold Obligations.TreePacketsAreTaken
  refine ⟨?_, ?_⟩
  · intro k data i s e c g n hi hoper he u d hallow hc hg hin hcomp
    obtain ⟨hexec, hop⟩ := exec_tree hi hoper he
    rw [hexec]
    refine ⟨fun harr => congrArg _ ?_, fun harr hd => congrArg _ ?_, fun harr hd => ⟨fun hroom => congrArg _ ?_,
      fun hfull => congrArg _ ?_⟩⟩
    · exact onTree_applied hallow hc hg ((applyTree_input hop hin).trans (collAccept_arrived harr))
    · exact onTree_applied hallow hc hg ((applyTree_input hop hin).trans (collAccept_mismatch harr hcomp hd))
    · exact onTree_applied hallow hc hg ((applyTree_input hop hin).trans (collAccept_room harr hcomp hd hroom))
    · exact onTree_full hallow hc hg ((applyTree_input hop hin).trans (collAccept_full harr hcomp hd hfull))
  · intro k data s e hop hoper he u d
    have hexec : exec (.collUp k data) s = .next (u.onTree k d) := congrArg Host.Outcome.next (takeTree_eq hop hoper he)
    rw [hexec]
    refine ⟨fun hdenied => congrArg _ (onTree_denied hdenied), fun hallow hc hpast hnew => ⟨fun hroom => congrArg _ ?_,
      fun hfull => congrArg _ ?_⟩⟩
    · exact (onTree_unarmed hallow hc).trans (treeUnarmed_early hpast hnew hroom)
    · exact (onTree_unarmed hallow hc).trans (treeUnarmed_busy hpast hnew hfull)

/-- Settles O35, by what an abort finds of its collective, and by the branches of completion and commit. -/
theorem Sys2Proof.collectivesEnd : Obligations.CollectivesEnd := by
  unfold Obligations.CollectivesEnd
  refine ⟨?_, ?_⟩
  · intro k s e c g hop hoper he u hallow hc hg
    rw [exec_collAbort hop hoper he hallow hc hg]
    refine ⟨fun h => ?_, fun h => ⟨fun hcomp => ?_, fun hcomp hd => ?_, fun hcomp hd => ⟨fun hcode => ?_, fun hcode => ?_⟩⟩⟩
    · rw [collAborted_again h]
    · rw [collAborted_complete h hcomp]
    · rw [collAborted_mismatch h hcomp hd]
      rfl
    · rw [collAborted_first h hcomp hd, if_pos hcode]
      rfl
    · rw [collAborted_first h hcomp hd, if_neg hcode]
      rfl
  · intro group equinox s c hc
    refine ⟨?_, ?_⟩
    · intro hcomp hfin hdead c' t
      have hgo : ¬(c.complete = true ∨ (!c.finished) = true ∨ s.xNow 0 > c.deadline) := by
        simp only [hcomp, hfin, Bool.not_true, Bool.false_eq_true, false_or]
        omega
      rw [exec_collectiveComplete, State.completeColl, hc]
      exact congrArg _ (if_neg hgo)
    · intro bs s1 s2 hcomp hwaits hpeek hwrite
      have hgo : ¬((!c.complete) = true ∨ s.waitsFor c.part [(c.stage, c.bytes), (c.dst, c.bytes)] = true) := by
        simp [hcomp, hwaits]
      rw [exec_collectiveCommitDone, State.commitColl, hc]
      refine congrArg _ ((if_neg hgo).trans ?_)
      rw [hpeek]
      dsimp only
      rw [hwrite]

end Trees

/-! ## The command processor (14) -/

section Rings

namespace Sys2Proof.Machine

open Sys2Proof

variable {s s1 s2 : State} {p : ℕ} {e : Entry} {bs d : Bytes} {t u : EntryType} {r : FaultRec} {i : Item} {l : Loop}

/-! ### A turn of a ring -/

theorem entryWaits_eq_false
    (hfence : e.fence = false ∨ ∀ i ∈ (s.partition p).ring.items, i.pos < e.pos → i.complete = true)
    (hheld : s.waitsFor p [(loc e.arg, 64)] = false) : s.entryWaits p e = false := by
  have hfence' : (e.fence && (s.partition p).ring.items.any fun i => i.pos < e.pos && !i.complete) = false := by
    rcases hfence with h | h
    · rw [h, Bool.false_and]
    · rw [Bool.and_eq_false_iff, List.any_eq_false]
      refine Or.inr fun i hi => ?_
      simp only [Bool.and_eq_true, decide_eq_true_eq, Bool.not_eq_true', not_and, Bool.not_eq_false]
      exact h i hi
  rw [State.entryWaits, hfence', hheld, Bool.and_false, Bool.or_false]

theorem entryWaits_fence (hf : e.fence = true)
    (h : ∃ i ∈ (s.partition p).ring.items, i.pos < e.pos ∧ i.complete = false) : s.entryWaits p e = true := by
  obtain ⟨i, hi, hpos, hcomp⟩ := h
  have hany : ((s.partition p).ring.items.any fun i => i.pos < e.pos && !i.complete) = true :=
    List.any_eq_true.mpr ⟨i, hi, by simp [hpos, hcomp]⟩
  rw [State.entryWaits, hf, hany, Bool.true_and, Bool.true_or]

/-- In its turn a ring looks at its next slot. -/
theorem fetchRow_turn (h : s.mayFetchRing p) (hread : (s.serveRing p).nextSlot p = (.ok bs, s1)) :
    s.fetchRow p t =
      let e := (s.partition p).ring.entry (s.partition p).ring.fetched bs
      if !(s.partition p).ring.valid e then s1.updPartition p fun x => { x with ring := { x.ring with awake := false } }
      else if s.entryWaits p e then s
      else match e.type with
        | some u => if u ≠ t then s else tryRaise p (s1.entryCheck p e) fun d s => s.fetchEntry p e u d
        | none => tryRaise p (s1.entryCheck p e) fun _ s => s := by
  obtain ⟨hact, hserv, hawake, hblock, -, hturn⟩ := h
  have hgo : ¬((s.partition p).state ≠ .active ∨ (!s.inService) = true ∨ (!(s.partition p).ring.awake) = true ∨
      (s.partition p).ring.blocked = true ∨ (!s.ringTurn p) = true) := by
    simp [hact, hserv, hawake, hblock, hturn]
  unfold State.fetchRow
  refine (if_neg hgo).trans ?_
  rw [hread]
  rfl

theorem fetchRow_invalid (h : s.mayFetchRing p) (hread : (s.serveRing p).nextSlot p = (.ok bs, s1))
    (hv : (s.partition p).ring.valid ((s.partition p).ring.entry (s.partition p).ring.fetched bs) = false) :
    s.fetchRow p t = s1.updPartition p fun x => { x with ring := { x.ring with awake := false } } := by
  rw [fetchRow_turn h hread]
  exact if_pos (by rw [hv]; rfl)

theorem fetchRow_waits (h : s.mayFetchRing p) (hread : (s.serveRing p).nextSlot p = (.ok bs, s1))
    (he : e = (s.partition p).ring.entry (s.partition p).ring.fetched bs) (hv : (s.partition p).ring.valid e = true)
    (hw : s.entryWaits p e = true) : s.fetchRow p t = s := by
  rw [fetchRow_turn h hread, ← he]
  exact (if_neg (by simp [hv])).trans (if_pos hw)

/-- An entry of the row's type that need not wait meets its checks. -/
theorem fetchRow_checked (h : s.mayFetchRing p) (hread : (s.serveRing p).nextSlot p = (.ok bs, s1))
    (he : e = (s.partition p).ring.entry (s.partition p).ring.fetched bs) (hv : (s.partition p).ring.valid e = true)
    (hw : s.entryWaits p e = false) (ht : e.type = some t) :
    s.fetchRow p t = tryRaise p (s1.entryCheck p e) fun d s => s.fetchEntry p e t d := by
  rw [fetchRow_turn h hread, ← he]
  refine (if_neg (by simp [hv])).trans ((if_neg (by simp [hw])).trans ?_)
  rw [ht]
  exact if_neg (fun h => h rfl)

theorem fetchRow_untyped (h : s.mayFetchRing p) (hread : (s.serveRing p).nextSlot p = (.ok bs, s1))
    (he : e = (s.partition p).ring.entry (s.partition p).ring.fetched bs) (hv : (s.partition p).ring.valid e = true)
    (hw : s.entryWaits p e = false) (ht : e.type = none) :
    s.fetchRow p t = tryRaise p (s1.entryCheck p e) fun _ s => s := by
  rw [fetchRow_turn h hread, ← he]
  refine (if_neg (by simp [hv])).trans ((if_neg (by simp [hw])).trans ?_)
  rw [ht]

theorem kernelRow_fetches (h : s.mayFetchRing p) : s.kernelRow p = s.fetchRow p .kernel := by
  obtain ⟨-, -, -, -, hwait, -⟩ := h
  rw [State.kernelRow, hwait]

/-- Each work type's command is its row. -/
theorem exec_row {p : PartId} {i : Instr} (h : s.mayFetchRing p.val)
    (hi : (t, i) ∈ [(EntryType.kernel, Instr.kernel p), (.dma, .dma p), (.monsoon, .monsoon p), (.forecast, .forecast p),
      (.ret, .returnEntry p), (.collective, .collective p), (.waitSeason, .waitSeason p), (.waitSem, .waitSem p),
      (.loopUntil, .loopUntil p), (.signalSem, .signalSem p), (.signalWord, .signalWord p),
      (.signalTime, .signalTime p)]) : exec i s = .next (s.fetchRow p.val t) := by
  simp only [List.mem_cons, Prod.mk.injEq, List.not_mem_nil, or_false] at hi
  rcases hi with ⟨rfl, rfl⟩ | hi
  · exact congrArg Host.Outcome.next (kernelRow_fetches h)
  · rcases hi with ⟨rfl, rfl⟩ | ⟨rfl, rfl⟩ | ⟨rfl, rfl⟩ | ⟨rfl, rfl⟩ | ⟨rfl, rfl⟩ | ⟨rfl, rfl⟩ | ⟨rfl, rfl⟩ | ⟨rfl, rfl⟩ |
      ⟨rfl, rfl⟩ | ⟨rfl, rfl⟩ | ⟨rfl, rfl⟩ <;> rfl

theorem exec_kernel (p : PartId) (s : State) : exec (.kernel p) s = .next (s.kernelRow p.val) := rfl

/-! ### Delivery of a KERNEL -/

/-- The members of a launch get it, by rank. -/
def State.giveLaunches (s : State) (p : ℕ) (i : Item) (size : ℕ) (l : List (ℕ × ℕ)) : State :=
  l.foldl (fun s c => s.updCtx p c.2 fun k => { k with pendingLaunch := some (i.launch p c.1 size) }) s

theorem updCtx_live {c : ℕ} (h : (s.core c).ctx = some p) (f : Core → Core) : s.updCtx p c f = s.updCore c f := by
  rw [State.updCtx, if_pos h]

theorem ctxCore_live {c : ℕ} (h : (s.core c).ctx = some p) : s.ctxCore p c = s.core c := by
  rw [State.ctxCore, if_pos h]

/-- A core that is not among the members keeps what it holds. -/
theorem giveLaunches_core_ne {size c : ℕ} (l : List (ℕ × ℕ)) (hc : c ∉ l.map (·.2))
    (hctx : ∀ x ∈ l, (s.core x.2).ctx = some p) : (s.giveLaunches p i size l).core c = s.core c := by
  induction l generalizing s with
  | nil => rfl
  | cons x l ih =>
    simp only [List.map_cons, List.mem_cons, not_or] at hc
    have hx := hctx x (List.mem_cons_self ..)
    rw [State.giveLaunches, List.foldl_cons, updCtx_live hx]
    refine (ih hc.2 fun y hy => ?_).trans (State.updCore_core_ne _ _ _ _ hc.1)
    by_cases hyx : y.2 = x.2
    · rw [hyx, State.updCore_core_self]
      exact hx
    · rw [State.updCore_core_ne _ _ _ _ hyx]
      exact hctx y (List.mem_cons_of_mem _ hy)

/-- A member holds the launch of its rank. -/
theorem giveLaunches_pending {size rank c : ℕ} (l : List (ℕ × ℕ)) (hnodup : (l.map (·.2)).Nodup)
    (hctx : ∀ x ∈ l, (s.core x.2).ctx = some p) (hmem : (rank, c) ∈ l) :
    ((s.giveLaunches p i size l).core c).pendingLaunch = some (i.launch p rank size) := by
  induction l generalizing s with
  | nil => exact absurd hmem (List.not_mem_nil)
  | cons x l ih =>
    have hx := hctx x (List.mem_cons_self ..)
    have htail : ∀ y ∈ l, ((s.updCore x.2 fun k => { k with pendingLaunch := some (i.launch p x.1 size) }).core y.2).ctx = some p := by
      intro y hy
      by_cases hyx : y.2 = x.2
      · rw [hyx, State.updCore_core_self]
        exact hx
      · rw [State.updCore_core_ne _ _ _ _ hyx]
        exact hctx y (List.mem_cons_of_mem _ hy)
    rw [List.map_cons, List.nodup_cons] at hnodup
    rw [State.giveLaunches, List.foldl_cons, updCtx_live hx]
    rcases List.mem_cons.mp hmem with hhead | hin
    · subst hhead
      refine (congrArg Core.pendingLaunch (giveLaunches_core_ne l hnodup.1 htail)).trans ?_
      rw [State.updCore_core_self]
    · exact ih hnodup.2 htail hin

theorem kernelCores_length : (s.kernelCores p i).length = fld i.param.toNat 28 16 := by
  rw [State.kernelCores, List.length_map, List.length_range]

theorem map_snd_zip_range (cs : List ℕ) : ((List.range cs.length).zip cs).map (·.2) = cs :=
  List.map_snd_zip (by simp)

theorem deliverLaunch_waits (h : ∃ c ∈ s.kernelCores p i, (s.ctxCore p c).pendingLaunch.isSome = true) :
    s.deliverLaunch p i = s :=
  if_pos (List.any_eq_true.mpr h)

/-- With no launch pending at its members, a KERNEL is given to them. -/
theorem deliverLaunch_gives
    (h : ∀ c ∈ s.kernelCores p i, (s.core c).ctx = some p ∧ (s.core c).pendingLaunch = none) :
    s.deliverLaunch p i = (s.updItem p i.pos fun x => { x with armed := true, left := (s.kernelCores p i).length }).giveLaunches
      p i (s.kernelCores p i).length ((List.range (s.kernelCores p i).length).zip (s.kernelCores p i)) := by
  have hnone : ¬((s.kernelCores p i).any fun c => (s.ctxCore p c).pendingLaunch.isSome) = true := by
    rw [List.any_eq_true]
    rintro ⟨c, hc, hpend⟩
    rw [ctxCore_live (h c hc).1, (h c hc).2] at hpend
    exact absurd hpend (by decide)
  exact if_neg hnone

theorem exec_ringPoll (p : PartId) (s : State) : exec (.ringPoll p) s = .next (s.wakeRing p.val) := rfl

theorem exec_loopTest (p : PartId) (s : State) : exec (.loopTest p) s = .next (s.loopTest p.val) := rfl

end Sys2Proof.Machine

open Sys2Proof Sys2Proof.Machine

/-- Settles O36, by the checks of a fetch in their order; the delivery of a launch, by induction over the members. -/
theorem Sys2Proof.ringEntriesAreFetched : Obligations.RingEntriesAreFetched := by
  unfold Obligations.RingEntriesAreFetched
  refine ⟨?_, ?_, ?_⟩
  · intro p s s1 s2 bs d e t i hmay hi hread he hv ht hfence hheld hcheck
    rw [exec_row hmay hi, fetchRow_checked hmay hread he hv (entryWaits_eq_false hfence hheld) ht, hcheck]
    cases t <;> rfl
  · intro p s s1 s2 bs r hmay hread e
    rw [exec_kernel, kernelRow_fetches hmay]
    refine ⟨fun hv => congrArg _ (fetchRow_invalid hmay hread hv), fun hv hf hw => congrArg _ ?_, fun hv hf hheld ht hcheck => congrArg _ ?_⟩
    · exact fetchRow_waits hmay hread rfl hv (entryWaits_fence hf hw)
    · have hwait := entryWaits_eq_false (e := e) (Or.inl hf) hheld
      rcases ht with ht | ht
      · rw [fetchRow_checked hmay hread rfl hv hwait ht, hcheck]
        rfl
      · rw [fetchRow_untyped hmay hread rfl hv hwait ht, hcheck]
        rfl
  · intro p s
    refine ⟨fun e d => ?_, fun i hwait hact hmoves => ?_, fun i h => deliverLaunch_waits h, fun i c r hnodup hfree hr => ?_⟩
    · refine ⟨{ e.item .kernel none (s.window p.val) with buf := [(0, d)] }, rfl, rfl, BitVec.toNat_ofNat _ _, ?_, rfl, rfl, rfl⟩
      simp [Item.bufBytes]
    · rw [exec_kernel, State.kernelRow, hwait]
      exact congrArg _ (if_pos ⟨hact, hmoves⟩)
    · have hmem : (r, c) ∈ (List.range (s.kernelCores p.val i).length).zip (s.kernelCores p.val i) := by
        obtain ⟨hlt, hget⟩ := List.getElem?_eq_some_iff.mp hr
        exact List.mem_iff_getElem.mpr ⟨r, by simpa using hlt, by simp [hget]⟩
      have hctx : ∀ f, ∀ x ∈ (List.range (s.kernelCores p.val i).length).zip (s.kernelCores p.val i),
          ((s.updItem p.val i.pos f).core x.2).ctx = some p.val := fun f x hx => (hfree x.2 (List.of_mem_zip hx).2).1
      rw [deliverLaunch_gives hfree, giveLaunches_pending _ (by rw [map_snd_zip_range]; exact hnodup) (hctx _) hmem,
        kernelCores_length]
      rfl

end Rings

/-! ## Signals, semaphores and loops (14 R478 to R485) -/

section Signals

namespace Sys2Proof.Machine

open Sys2Proof

variable {s s1 : State} {p i a source : ℕ} {bs : Bytes} {l : Loop} {x : Item}

/-! ### Semaphores -/

theorem wakeStewards_partition (s : State) (p q : ℕ) : (s.wakeStewards p).partition q = s.partition q := by
  have hfold : ∀ (l : List ℕ) (s : State),
      (l.foldl (fun s k => s.updSteward k fun w => { w with woken := true }) s).partition q = s.partition q := by
    intro l
    induction l with
    | nil => exact fun _ => rfl
    | cons k l ih => exact fun s => (ih _).trans (State.updSteward_partition _ _ _ _)
  exact hfold _ s

theorem serveQueue_empty (n : ℕ) (h : (s.partition p).queue i = []) : s.serveQueue p i n = s := by
  cases n with
  | zero => rfl
  | succ n => simp only [State.serveQueue, h]

theorem semAdd_overflow (h : 2 ^ 32 ≤ a ∨ 2 ^ 32 ≤ ((s.partition p).sem i).toNat + a) :
    s.semAdd p i a source = s.raise p (s.recordOpen 0x0807 source 0) :=
  if_pos (by omega)

/-- An addition that fits, to a semaphore with no queue, writes the sum and wakes the partition's stewards. -/
theorem semAdd_fits (hfit : ((s.partition p).sem i).toNat + a < 2 ^ 32) (hqueue : (s.partition p).queue i = []) :
    s.semAdd p i a source = (s.updPartition p fun x => { x with
      sems := Tab.put x.sems i (BitVec.ofNat 32 (((s.partition p).sem i).toNat + a)) }).wakeStewards p := by
  refine (if_neg (by omega)).trans (serveQueue_empty _ ?_)
  rw [wakeStewards_partition, State.updPartition_partition_self]
  exact hqueue

theorem semAdd_fits_sem (hfit : ((s.partition p).sem i).toNat + a < 2 ^ 32) (hqueue : (s.partition p).queue i = []) (j : ℕ) :
    ((s.semAdd p i a source).partition p).sem j =
      Tab.get 0 (Tab.put (s.partition p).sems i (BitVec.ofNat 32 (((s.partition p).sem i).toNat + a))) j := by
  rw [semAdd_fits hfit hqueue, wakeStewards_partition, State.updPartition_partition_self]
  rfl

/-! ### Loops -/

/-- What LOOP_TEST asks for: the entries before it are done, its count has come and its deadline has not passed. -/
structure LoopTestable (s : State) (p : ℕ) (l : Loop) (x : Item) : Prop where
  active : (s.partition p).state = .active
  loop : (s.partition p).ring.loop = some l
  item : s.item? p l.pos = some x
  fetched : l.pos ≤ (s.partition p).ring.fetched
  done : ∀ y ∈ (s.partition p).ring.items, y.pos < l.pos → y.complete = true
  due : x.equinox ≤ s.now
  inTime : s.now ≤ x.deadline
  moves : s.moves = true

theorem loopTest_read (h : LoopTestable s p l x) (hread : s.cmdRead p l.word 8 = (.ok bs, s1)) : s.loopTest p =
    if l.test (leNat bs) ∨ (l.exitAt ∧ l.exitCount ≤ s1.now) then s1.endLoop p l
    else if l.trip + 1 = l.bound then s1.raise p (s1.loopRecord p l x (leNat bs))
    else s1.nextTrip p l := by
  obtain ⟨hact, hloop, hitem, hfetched, hdone, hdue, htime, hmoves⟩ := h
  have hany : ((s.partition p).ring.items.any fun y => y.pos < l.pos && !y.complete) = false := by
    rw [List.any_eq_false]
    intro y hy
    simp only [Bool.and_eq_true, decide_eq_true_eq, Bool.not_eq_true', not_and, Bool.not_eq_false]
    exact hdone y hy
  have hgo : ¬((s.partition p).ring.fetched < l.pos ∨
      ((s.partition p).ring.items.any fun y => y.pos < l.pos && !y.complete) = true ∨ s.now < x.equinox ∨
      s.now > x.deadline ∨ (s.partition p).state ≠ .active ∨ (!s.moves) = true) := by
    simp only [hany, hact, hmoves, Bool.false_eq_true, false_or, ne_eq, not_true_eq_false, Bool.not_true, or_false]
    omega
  unfold State.loopTest
  simp only [hloop, hitem]
  refine (if_neg hgo).trans ?_
  rw [hread]
  rfl

end Sys2Proof.Machine

open Sys2Proof Sys2Proof.Machine

/-- Settles O37, by the type of the entry, by what the addition comes to, and by the branches of LOOP_TEST. -/
theorem Sys2Proof.signalsSemaphoresAndLoops : Obligations.SignalsSemaphoresAndLoops := by
  unfold Obligations.SignalsSemaphoresAndLoops
  refine ⟨?_, ?_, ?_⟩
  · intro p s s1 i u
    refine ⟨fun ht => ?_, fun ht hw => ?_, fun ht hw => ?_, fun ht => ?_, fun ht => ?_⟩
    · rw [State.startEntry, ht]
    · rw [State.startEntry, ht]
      exact congrArg (fun r => tryRaise p r fun _ s => s.finishItem p i.pos s.now none) hw
    · rw [State.startEntry, ht]
      exact congrArg (fun r => tryRaise p r fun _ s => s.finishItem p i.pos s.now none) hw
    · rw [State.startEntry, ht]
      rfl
    · rw [State.startEntry, ht]
  · intro s p i a source
    refine ⟨fun ha hfit hqueue => ⟨?_, fun j hj => ?_⟩, semAdd_overflow⟩
    · rw [semAdd_fits_sem hfit hqueue, Tab.get_put_self]
      exact BitVec.eq_of_toNat_eq (by simp)
    · rw [semAdd_fits_sem hfit hqueue, Tab.get_put_ne _ _ _ _ _ hj]
      rfl
  · intro p s s1 l i bs
    refine ⟨fun hact => congrArg _ (if_pos hact), ?_⟩
    intro hact hloop hitem hfetched hdone hdue htime hmoves hread
    have htest := loopTest_read ⟨hact, hloop, hitem, hfetched, hdone, hdue, htime, hmoves⟩ hread
    rw [exec_loopTest, htest]
    have hstay : l.test (leNat bs) = false → (l.exitAt = false ∨ s1.now < l.exitCount) →
        ¬(l.test (leNat bs) = true ∨ (l.exitAt = true ∧ l.exitCount ≤ s1.now)) := by
      rintro h0 hexit (h | ⟨he, hc⟩)
      · rw [h0] at h
        exact absurd h (by decide)
      · rcases hexit with h | h
        · rw [h] at he
          exact absurd he (by decide)
        · omega
    refine ⟨fun hend => congrArg _ (if_pos hend), fun h0 hexit hb => congrArg _ ?_, fun h0 hexit hb => congrArg _ ?_⟩
    · rw [if_neg (hstay h0 hexit), if_pos hb]
    · rw [if_neg (hstay h0 hexit), if_neg hb]

end Signals

/-! ## Stewards (14) -/

section Stewards

namespace Sys2Proof.Machine

open Sys2Proof

variable {s : State} {k : StewardId} {p : ℕ}

/-- A steward core that runs has an active partition. -/
theorem stewardPart_active {k : ℕ} (h : s.stewardPart k = some p) : (s.partition p).state = .active := by
  unfold State.stewardPart at h
  split at h
  · obtain ⟨-, hact⟩ := Option.filter_eq_some_iff.mp h
    simpa using hact
  · exact absurd h (by simp)

theorem exec_cmdReserve (m : Word) (hp : s.stewardPart k.val = some p) : exec (.cmdReserve k m) s =
    .next (if 1 ≤ m.toNat ∧ m.toNat ≤ 16 ∧
        (s.partition p).ring.reserved + m.toNat - (s.partition p).ring.consumer ≤ (s.partition p).ring.size then
      (s.updPartition p fun x => { x with ring := { x.ring with reserved := x.ring.reserved + m.toNat } }).csrAnswer k
        (BitVec.ofNat 64 (s.partition p).ring.reserved)
      else s.csrAnswer k (BitVec.allOnes 64)) := by
  change Host.Outcome.next (s.cmdReserve k m) = _
  rw [State.cmdReserve, hp]

theorem exec_cmdDoorbell (hp : s.stewardPart k.val = some p) : exec (.cmdDoorbell k) s =
    .next (s.updPartition p fun x => { x with ring := { x.ring with awake := true } }) := by
  change Host.Outcome.next (match s.stewardPart k.val with
    | some p => s.wakeRing p
    | none => s.csrIllegal k.val 0x801) = _
  rw [hp]
  exact congrArg _ (if_pos (stewardPart_active hp))

theorem exec_cmdSemAdd (m : Word) (hp : s.stewardPart k.val = some p) : exec (.cmdSemAdd k m) s =
    .next (s.semAdd p (s.steward k.val).semSel.toNat (m.toNat % 2 ^ 32) (stewardUnit k.val)) := by
  change Host.Outcome.next (s.cmdSemAdd k.val m) = _
  rw [State.cmdSemAdd, hp]

theorem exec_cmdSemTake (m : Word) (hp : s.stewardPart k.val = some p) {ok : Bool} {s1 : State}
    (htry : s.semTry p (s.steward k.val).semSel.toNat m.toNat = (ok, s1)) : exec (.cmdSemTake k m) s =
    .next ((s1.updSteward k.val fun w => { w with semTake := if ok then 1 else 0 }).emit
      (.answer (.steward k) (some (if ok then 1 else 0)))) := by
  change Host.Outcome.next (s.cmdSemTake k m) = _
  rw [State.cmdSemTake, hp]
  dsimp only
  rw [htry]
  rfl

theorem exec_stewardException (cause : BitVec 6) (pc tval : Word) (s : State) :
    exec (.stewardException k cause pc tval) s = .next (s.stewardTrap k.val cause pc tval) := rfl

theorem exec_wfi (k : StewardId) (s : State) : exec (.wfi k) s = .next (s.wfi k.val) := rfl

theorem exec_wfiEnd (k : StewardId) (s : State) : exec (.wfiEnd k) s = .next (s.wfiEnd k.val) := rfl

end Sys2Proof.Machine

open Sys2Proof Sys2Proof.Machine

/-- Settles O38, by the branches of each steward register and of the wait. -/
theorem Sys2Proof.stewardsWorkTheirRing : Obligations.StewardsWorkTheirRing := by
  unfold Obligations.StewardsWorkTheirRing
  refine ⟨?_, ?_, ?_⟩
  · intro k s p m hp r
    refine ⟨fun h1 h16 hroom => ?_, fun hbad => ?_, exec_cmdDoorbell hp, exec_cmdSemAdd m hp,
      fun ok s1 htry => exec_cmdSemTake m hp htry⟩
    · rw [exec_cmdReserve m hp, if_pos ⟨h1, h16, hroom⟩]
      rfl
    · rw [exec_cmdReserve m hp, if_neg]
      · rfl
      · rintro ⟨h1, h16, hroom⟩
        rcases hbad with h | h | h
        · rw [h] at h1
          exact absurd h1 (by decide)
        · omega
        · exact absurd hroom (Nat.not_le.mpr h)
  · intro k s p cause pc tval hp
    rw [exec_stewardException, State.stewardTrap, hp]
    refine ⟨fun hvec htrap => congrArg _ (if_pos ⟨hvec, by simp [htrap]⟩), fun hno => ?_⟩
    refine ⟨_, ?_, ?_, ?_, congrArg _ (if_neg ?_)⟩
    · rfl
    · rfl
    · rfl
    · rintro ⟨hvec, htrap⟩
      rcases hno with h | h
      · exact hvec h
      · rw [h] at htrap
        exact absurd htrap (by decide)
  · intro k s p
    refine ⟨fun hp hw => ?_, fun t hw hend => ?_⟩
    · have hmod : Config.freeNat s.free % 1000000 < 1000000 := Nat.mod_lt _ (by decide)
      rw [exec_wfi, State.wfi, hp]
      refine ⟨_, s.now + 1 + Config.freeNat s.free % 1000000, congrArg _ (if_neg (by simp [hw])), ?_, ?_, ?_, ?_, rfl, rfl⟩
      · exact congrArg Steward.waiting (State.updSteward_steward_self _ _ _)
      · omega
      · omega
      · exact congrArg Steward.woken (State.updSteward_steward_self _ _ _)
    · rw [exec_wfiEnd, State.wfiEnd, hw]
      refine congrArg _ (if_pos ?_)
      rcases hend with h | h | h
      · exact Or.inl h
      · exact Or.inr (Or.inr h)
      · exact Or.inr (Or.inl h)

end Stewards

/-! ## Firmware commands: the checks and the own part (16 R545, R546) -/

section Commands

namespace Sys2Proof.Machine

open Sys2Proof

variable {s v w : State} {op : ℕ} {u : Rule} {t : Taken} {a : Answer} {st : Status}

/-- A command that a check refuses completes with that check's status. -/
theorem commandThen_refused {body : State → Taken → Option Answer × State} {after : State → Taken → State}
    (hnext : s.nextFor op = some t) (hpre : (s.updFw fun f => { f with taken := f.taken.erase t }).precheck u t = some st) :
    s.commandThen op u body after =
      (s.updFw fun f => { f with taken := f.taken.erase t }).finishCommand t ⟨st, none, none⟩ := by
  simp only [State.commandThen, hnext, hpre]

/-- A command whose own part answers completes, and after OK comes what follows it. -/
theorem commandThen_answers {body : State → Taken → Option Answer × State} {after : State → Taken → State}
    (h : s.runsNext op u t v) (hbody : body v t = (some a, w)) :
    s.commandThen op u body after = if a.status = .ok then after (w.finishCommand t a) t else w.finishCommand t a := by
  obtain ⟨hnext, rfl, hpre⟩ := h
  simp only [State.commandThen, hnext, hpre, hbody]

/-- A command whose own part goes on leaves what that part leaves. -/
theorem commandThen_goesOn {body : State → Taken → Option Answer × State} {after : State → Taken → State}
    (h : s.runsNext op u t v) (hbody : body v t = (none, w)) : s.commandThen op u body after = w := by
  obtain ⟨hnext, rfl, hpre⟩ := h
  simp only [State.commandThen, hnext, hpre, hbody]

/-- A command that completes at once. -/
theorem command_answers {body : State → Taken → Answer × State} (h : s.runsNext op u t v) (hbody : body v t = (a, w)) :
    s.command op u body = w.finishCommand t a := by
  have hthen : (fun (s : State) (t : Taken) => match body s t with | (a, s) => ((some a, s) : Option Answer × State)) v t =
      (some a, w) := by
    simp only [hbody]
  exact (commandThen_answers h hthen).trans (ite_self _)

/-- The rows of the command table. -/
def commandRows (pb : Option Bytes) (stored : List (ℕ × Option Bytes)) : List (ℕ × Rule × Instr) :=
  [(0x01, ⟨.manager, [.service, .quiesced], [(24, 25), (28, 32)], some 32⟩, Instr.chOpen),
    (0x02, ⟨.closer, [.service, .quiesced], [(24, 25)], none⟩, .chClose),
    (0x03, ⟨.manager, [.service, .quiesced], [(32, 39)], none⟩, .windowMap),
    (0x04, ⟨.anyone, allStates, [], none⟩, .pkgQuery),
    (0x05, ⟨.manager, allStates, [], none⟩, .fwReset),
    (0x10, ⟨.manager, [.service], [(24, 31)], none⟩, .create pb),
    (0x11, ⟨.manager, [.service], [(24, 24), (32, 39)], none⟩, .destroy),
    (0x12, ⟨.manager, [.service], [(24, 31)], none⟩, .claim pb),
    (0x13, ⟨.manager, [.service], [(24, 24), (32, 47)], none⟩, .yearSet),
    (0x18, ⟨.manager, [.service], [(24, 26), (28, 47)], some 24⟩, .poolCreate),
    (0x19, ⟨.manager, [.service], [(24, 25)], some 24⟩, .poolDestroy),
    (0x20, ⟨.owner 26, [.service], [(24, 26), (32, 41)], some 26⟩, .groupDefine),
    (0x21, ⟨.owner 26, [.service], [(24, 26)], some 26⟩, .groupDestroy),
    (0x28, ⟨.manager, [.service, .quiesced], [(24, 24), (32, 55)], none⟩, .seasonSet),
    (0x29, ⟨.owner 24, [.service], [(24, 26), (32, 43)], some 24⟩, .wvSet),
    (0x2A, ⟨.manager, [.service, .quiesced], [(24, 31)], none⟩, .anemSelect),
    (0x30, ⟨.manager, [.service, .quiesced], [(24, 24), (32, 39)], none⟩, .routeLoad pb),
    (0x31, ⟨.manager, [.service], [(32, 39)], none⟩, .routeSwitch),
    (0x32, ⟨.manager, [.service, .quiesced], [(24, 27)], none⟩, .xactTimeoutSet),
    (0x38, ⟨.manager, [.service], [], none⟩, .quiesce),
    (0x39, ⟨.manager, [.quiesced], [], none⟩, .resume),
    (0x3A, ⟨.manager, [.quiesced], [(24, 25)], none⟩, .llmMode),
    (0x3B, ⟨.manager, [.quiesced], [(24, 25), (32, 39)], none⟩, .memTest),
    (0x60, ⟨.owner 24, [.service], [(24, 25)], some 24⟩, .secureSet),
    (0x61, ⟨.owner 24, [.service], [(24, 24), (32, 39)], some 24⟩, .seedLoad pb),
    (0x62, ⟨.manager, [.service, .quiesced], [(24, 27), (32, 47)], none⟩, .dewSetup),
    (0x63, ⟨.manager, [.service, .quiesced], [(24, 27)], none⟩, .dewRelease),
    (0x64, ⟨.manager, [.service, .quiesced], [(24, 28)], none⟩, .frostSetup),
    (0x65, ⟨.owner 24, [.service], [(24, 25), (32, 47)], some 24⟩, .ckptWrite pb),
    (0x66, ⟨.owner 24, [.service], [(24, 25), (32, 47)], some 24⟩, .ckptRestore pb stored),
    (0x67, ⟨.anyone, [.service, .quiesced], [(24, 27)], none⟩, .ckptQuery)]

theorem exec_memTest_idle (h : s.fw.testing = none) : exec .memTest s =
    .next (s.commandThen 0x3B ⟨.manager, [.quiesced], [(24, 25), (32, 39)], none⟩ (fun s t => s.memTest t) fun s _ => s) := by
  change Host.Outcome.next (match s.fw.testing with
    | some (t, m, l) => if s.fw.up then s.memTestEnd t m l else s
    | none => s.commandThen 0x3B ⟨.manager, [.quiesced], [(24, 25), (32, 39)], none⟩ (fun s t => s.memTest t) fun s _ => s) = _
  rw [h]

/-- Every command of the table is its row's checks and then a part of its own. -/
theorem exec_commandRow {pb : Option Bytes} {stored : List (ℕ × Option Bytes)} {c : Instr} (s : State)
    (h : (op, u, c) ∈ commandRows pb stored) (htest : op = 0x3B → s.fw.testing = none) :
    ∃ body after, exec c s = .next (s.commandThen op u body after) := by
  have hrow : ∀ r ∈ commandRows pb stored, (r.1 = 0x3B → s.fw.testing = none) →
      ∃ body after, exec r.2.2 s = .next (s.commandThen r.1 r.2.1 body after) := by
    intro r hr
    fin_cases hr
    on_goal 23 => exact fun htest => ⟨_, _, exec_memTest_idle (htest rfl)⟩
    all_goals exact fun _ => ⟨_, _, rfl⟩
  exact hrow _ h htest

end Sys2Proof.Machine

end Commands

/-! ## The order of the checks (16 R546) -/

section CommandChecks

namespace Sys2Proof.Machine

open Sys2Proof

variable {s : State} {u : Rule} {t : Taken}

theorem precheck_denied (h : u.issuer.allows t = false) : s.precheck u t = some .denied := by
  rw [State.precheck, if_pos (by rw [h]; rfl)]

/-- An issuer with the right comes to the package state. -/
theorem precheck_state (hallow : u.issuer.allows t = true) (h : s.mgmt.state ∉ u.states) :
    s.precheck u t = some .stateConflict := by
  rw [State.precheck, if_neg (by rw [hallow]; decide), if_pos (by simpa using h)]

/-- In an allowed state come the partition that the command names and then the reserved bytes. -/
theorem precheck_rest (hallow : u.issuer.allows t = true) (h : s.mgmt.state ∈ u.states) : s.precheck u t =
    if (u.names.map fun b => s.tornSince t (t.byte b)) = some true then some .faulted
    else if !u.reservedOk t then some .invalidArgument else none := by
  rw [State.precheck, if_neg (by rw [hallow]; decide), if_neg (by simpa using h)]

theorem names_torn_iff : (u.names.map fun b => s.tornSince t (t.byte b)) = some true ↔
    ∃ b, u.names = some b ∧ s.tornSince t (t.byte b) = true := Option.map_eq_some_iff

end Sys2Proof.Machine

open Sys2Proof Sys2Proof.Machine

/-- Settles O39: every row of the table is its checks and then its own part, and the checks are read in their order. -/
theorem Sys2Proof.firmwareCommandsAreCheckedInOrder : Obligations.FirmwareCommandsAreCheckedInOrder := by
  unfold Obligations.FirmwareCommandsAreCheckedInOrder
  refine ⟨?_, ?_⟩
  · intro pb stored op u c s t st hrow hnext htest v hpre
    obtain ⟨body, after, hexec⟩ := exec_commandRow s hrow htest
    rw [hexec, commandThen_refused hnext hpre]
  · intro s u t
    refine ⟨precheck_denied, precheck_state, fun hallow hstate b hb htorn => ?_, fun hallow hstate hkept => ?_,
      fun hmanager => ?_, fun hother hissuer => ?_⟩
    · rw [precheck_rest hallow hstate, if_pos (names_torn_iff.mpr ⟨b, hb, htorn⟩)]
    · rw [precheck_rest hallow hstate, if_neg]
      · cases u.reservedOk t <;> rfl
      · rintro h
        obtain ⟨b, hb, htorn⟩ := names_torn_iff.mp h
        rw [hkept b hb] at htorn
        exact absurd htorn (by decide)
    · simp [Issuer.allows, hmanager]
    · simp [Issuer.allows, hother, hissuer]

end CommandChecks

/-! ## Channel, pool, group and package commands (16 R545) -/

section CommandEffects

namespace Sys2Proof.Machine

open Sys2Proof

variable {s v w : State} {t : Taken} {a : Answer} {pb : Option Bytes}

/-! ### Bytes of a parameter -/

theorem field_lt (bs : Bytes) (off n : ℕ) : field bs off n < 256 ^ n :=
  (leNat_lt _).trans_le (Nat.pow_le_pow_right (by decide) (by simp [List.length_take]))

/-! ### Channels and queries -/

theorem chOpen_ok (h0 : 0 < t.half 24) (h1023 : t.half 24 ≤ 1023) (hres : fld (t.word 28) 30 20 = 0) (hp : t.byte 32 ≤ 31)
    (hclosed : (v.channel (t.half 24)).open_ = false) (hdrained : (v.channel (t.half 24)).draining = false)
    (hfree : v.bindingUsed (bit (t.word 28) 31) (BitVec.ofNat 20 (t.word 28)) = false)
    (hpart : (v.partition (t.byte 32)).state = .active ∨ (v.partition (t.byte 32)).state = .deferred) :
    v.chOpen t = (⟨.ok, some (BitVec.ofNat 64 (t.half 24)), none⟩, v.updChannel (t.half 24) fun _ =>
      { Channel.closed with open_ := true, part := t.byte 32, noPasid := bit (t.word 28) 31, pasid := BitVec.ofNat 20 (t.word 28) }) := by
  have hargs : ¬(t.half 24 = 0 ∨ t.half 24 > 1023 ∨ fld (t.word 28) 30 20 ≠ 0 ∨ t.byte 32 > 31) := by omega
  have hstate : ¬((v.channel (t.half 24)).open_ = true ∨ (v.channel (t.half 24)).draining = true ∨
      v.bindingUsed (bit (t.word 28) 31) (BitVec.ofNat 20 (t.word 28)) = true ∨
      ((v.partition (t.byte 32)).state ≠ .active ∧ (v.partition (t.byte 32)).state ≠ .deferred)) := by
    simp only [hclosed, hdrained, hfree, Bool.false_eq_true, false_or]
    exact fun h => hpart.elim h.1 h.2
  exact (if_neg hargs).trans (if_neg hstate)

theorem chClose_ok (h0 : 0 < t.half 24) (h1023 : t.half 24 ≤ 1023) (hopen : (v.channel (t.half 24)).open_ = true)
    (hdrain : (v.channel (t.half 24)).draining = false) : v.chClose t = (⟨.ok, none, none⟩, v) := by
  have hargs : ¬(t.half 24 = 0 ∨ t.half 24 > 1023) := by omega
  have hstate : ¬((!(v.channel (t.half 24)).open_) = true ∨ (v.channel (t.half 24)).draining = true) := by
    simp [hopen, hdrain]
  exact (if_neg hargs).trans (if_neg hstate)

theorem windowMap_ok (halign : t.long 32 % 0x40000000 = 0) (hend : t.long 32 + 0x1000000000 ≤ ctrlBase) :
    v.windowMap t = (⟨.ok, none, none⟩, v.updFw fun f => { f with windowBase := BitVec.ofNat 48 (t.long 32) }) :=
  if_neg (by omega)

/-! ### Groups -/

theorem groupDefine_ok {v1 : State} {bs : Bytes} (hg : t.half 24 ≤ 4095) (hp : t.byte 26 ≤ 31) (halign : t.long 32 % 64 = 0)
    (hn : 1 ≤ t.half 40) (hmax : t.half 40 ≤ 32768) (hin : v.inRegion (t.byte 26) (t.long 32) (2 * t.half 40) false = true)
    (hread : v.peek (t.byte 26) (t.long 32) (2 * t.half 40) = (.ok bs, v1))
    (hlist : v1.badList (memberList bs (t.half 40)) = false) (hact : (v1.partition (t.byte 26)).state = .active)
    (hnew : Tab.get? v1.groups (t.half 24) = none)
    (howns : v1.owns (t.byte 26) (t.long 32) (roundUp (2 * t.half 40) 64 +
      2 * (v1.groupOf (t.byte 26) (t.long 32) bs (memberList bs (t.half 40))).leaders.length) = true) :
    v.groupDefine t = (⟨.ok, none, none⟩, v1.putGroup (t.half 24) (t.byte 26)
      (v1.groupOf (t.byte 26) (t.long 32) bs (memberList bs (t.half 40)))) := by
  have hargs : ¬(t.half 24 > 4095 ∨ t.byte 26 > 31 ∨ t.long 32 % 64 ≠ 0 ∨ t.half 40 = 0 ∨ t.half 40 > 32768 ∨
      (!v.inRegion (t.byte 26) (t.long 32) (2 * t.half 40) false) = true) := by
    simp only [hin, Bool.not_true, Bool.false_eq_true, or_false]
    omega
  refine (if_neg hargs).trans ?_
  unfold State.groupDefineList
  rw [hread]
  simp [hlist, hact, hnew, howns]

theorem groupDestroy_ok {g : Group} (hg : t.half 24 ≤ 4095) (hp : t.byte 26 ≤ 31)
    (hget : Tab.get? v.groups (t.half 24) = some g) (howner : g.owner = t.byte 26) (hidle : v.groupArmed (t.half 24) = false) :
    v.groupDestroy t = (⟨.ok, none, none⟩, { v with
      groups := Tab.del v.groups (t.half 24)
      collPast := v.collPast.filter fun c => c.group.toNat ≠ t.half 24 }) := by
  have hargs : ¬(t.half 24 > 4095 ∨ t.byte 26 > 31) := by omega
  have hstate : ¬((Tab.get? v.groups (t.half 24)).map (·.owner) ≠ some (t.byte 26) ∨ v.groupArmed (t.half 24) = true) := by
    simp [hget, howner, hidle]
  exact (if_neg hargs).trans (if_neg hstate)

/-! ### Pools -/

theorem poolCreate_ok {p q cls count base meta_ : ℕ} (hP : p = t.byte 24) (hQ : q = t.byte 25) (hCls : cls = t.byte 26)
    (hCount : count = t.word 28) (hBase : base = t.long 32) (hMeta : meta_ = t.long 40) (hp : p ≤ 31) (hq : q ≤ 7)
    (hcls : cls ≤ 2) (hmod : count % 512 = 0) (hmin : 512 ≤ count) (hmax : count ≤ 67108864)
    (halign : base % classSize cls = 0) (hpage : meta_ % 4096 = 0)
    (hin : v.inRegion p base (count * classSize cls) false = true) (hmeta : v.inRegion p meta_ (metaBytes count) true = true)
    (hact : (v.partition p).state = .active) (hnew : Tab.get? v.pools (p * 8 + q) = none)
    (hapart : (v.pools.any fun e => base < e.2.base + e.2.count * e.2.bufSize && e.2.base < base + count * classSize cls) = false) :
    v.poolCreate t = (⟨.ok, none, none⟩,
      let w := v.poke p meta_ ((List.range count).flatMap (fun i => leBytes 4 i) ++ zeros (metaBytes count - 4 * count))
      { w with pools := Tab.put w.pools (p * 8 + q) (Pool.new p cls count base meta_) }) := by
  subst hP hQ hCls hCount hBase hMeta
  have hargs : ¬(t.byte 24 > 31 ∨ t.byte 25 > 7 ∨ t.byte 26 > 2 ∨ t.word 28 % 512 ≠ 0 ∨ t.word 28 < 512 ∨
      t.word 28 > 67108864 ∨ t.long 32 % classSize (t.byte 26) ≠ 0 ∨ t.long 40 % 4096 ≠ 0 ∨
      (!v.inRegion (t.byte 24) (t.long 32) (t.word 28 * classSize (t.byte 26)) false) = true ∨
      (!v.inRegion (t.byte 24) (t.long 40) (metaBytes (t.word 28)) true) = true) := by
    simp only [hin, hmeta, Bool.not_true, Bool.false_eq_true, or_false]
    omega
  have hstate : ¬((v.partition (t.byte 24)).state ≠ .active ∨ (Tab.get? v.pools (t.byte 24 * 8 + t.byte 25)).isSome = true ∨
      (v.pools.any fun e => t.long 32 < e.2.base + e.2.count * e.2.bufSize &&
        e.2.base < t.long 32 + t.word 28 * classSize (t.byte 26)) = true) := by
    simp only [hact, hnew, hapart, ne_eq, not_true_eq_false, Option.isSome_none, Bool.false_eq_true, or_self, not_false_eq_true]
  exact (if_neg hargs).trans (if_neg hstate)

theorem poolDestroy_ok {x : Pool} (hp : t.byte 24 ≤ 31) (hq : t.byte 25 ≤ 7)
    (hx : Tab.get? v.pools (t.byte 24 * 8 + t.byte 25) = some x) :
    v.poolDestroy t = (⟨.ok, none, none⟩, v.destroyPool (t.byte 24 * 8 + t.byte 25) x) := by
  refine (if_neg (show ¬(t.byte 24 > 31 ∨ t.byte 25 > 7) by omega)).trans ?_
  rw [hx]

/-! ### Season and telemetry -/

/-- SEASON_SET writes the registers that its mask names. -/
theorem seasonSet_ok (hm : t.byte 24 ≤ 7) : v.seasonSet t = (⟨.ok, none, none⟩, v.updSeason fun z => { z with
    source := if bit (t.byte 24) 0 then bit (t.long 32) 0 else z.source
    priority := if bit (t.byte 24) 0 then BitVec.ofNat 8 (t.long 32 / 256) else z.priority
    ppsBase := if bit (t.byte 24) 1 then BitVec.ofNat 64 (t.long 40) else z.ppsBase
    holdoverMax := if bit (t.byte 24) 2 then BitVec.ofNat 64 (t.long 48) else z.holdoverMax }) := by
  have hlong : (BitVec.ofNat 64 (t.long 32)).toNat = t.long 32 := by
    rw [BitVec.toNat_ofNat]
    exact Nat.mod_eq_of_lt (field_lt t.entry 32 8)
  have hsrc : ∀ s : State, s.seaWrite 0x10 (BitVec.ofNat 64 (t.long 32)) = s.updSeason fun z => { z with
      source := bit (t.long 32) 0, priority := BitVec.ofNat 8 (t.long 32 / 256) } := fun s => by
    unfold State.seaWrite
    rw [hlong]
    rfl
  have hpps : ∀ (s : State) (x : Word), s.seaWrite 0x28 x = s.updSeason fun z => { z with ppsBase := x } := fun _ _ => rfl
  have hhold : ∀ (s : State) (x : Word), s.seaWrite 0x30 x = s.updSeason fun z => { z with holdoverMax := x } := fun _ _ => rfl
  refine (if_neg (Nat.not_lt.mpr hm)).trans ?_
  rw [hsrc]
  simp only [hpps, hhold]
  cases bit (t.byte 24) 0 <;> cases bit (t.byte 24) 1 <;> cases bit (t.byte 24) 2 <;> rfl

/-- The telemetry of a partition as WV_SET makes it. -/
def Taken.vane (t : Taken) (on : Bool) : Vane :=
  { Vane.reset with n := BitVec.ofNat 5 (t.byte 25), on := on, base := BitVec.ofNat 64 (t.long 32), size := BitVec.ofNat 24 (t.word 40) }

/-- The ring of a WV_SET is one that may be sampled into. -/
def State.vaneRing (v : State) (t : Taken) : Bool :=
  decide (6 ≤ t.byte 25 ∧ t.byte 25 ≤ 20 ∧ t.word 40 ≠ 0 ∧ gPkg (BitVec.ofNat 64 (t.long 32)) = v.self ∧
    gLocal (BitVec.ofNat 64 (t.long 32)) % 64 = 0) && canonical (BitVec.ofNat 64 (t.long 32)) &&
    v.owns (t.byte 24) (gLocal (BitVec.ofNat 64 (t.long 32))) (64 + t.word 40 * 128)

theorem badRing_eq (v : State) (t : Taken) : (decide (t.byte 25 < 6) || decide (t.byte 25 > 20) || decide (t.word 40 = 0) ||
    !canonical (BitVec.ofNat 64 (t.long 32)) || decide (gPkg (BitVec.ofNat 64 (t.long 32)) ≠ v.self) ||
    decide (gLocal (BitVec.ofNat 64 (t.long 32)) % 64 ≠ 0) ||
    !v.owns (t.byte 24) (gLocal (BitVec.ofNat 64 (t.long 32))) (64 + t.word 40 * 128)) = !v.vaneRing t := by
  rw [Bool.eq_iff_iff]
  simp only [State.vaneRing, Bool.or_eq_true, decide_eq_true_eq, Bool.not_eq_true', Bool.and_eq_false_iff, decide_eq_false_iff_not,
    ne_eq]
  by_cases hself : gPkg (BitVec.ofNat 64 (t.long 32)) = v.self
  · simp only [hself, not_true_eq_false, or_false, true_and]
    cases canonical (BitVec.ofNat 64 (t.long 32)) with
    | false => simp
    | true =>
      cases v.owns (t.byte 24) (gLocal (BitVec.ofNat 64 (t.long 32))) (64 + t.word 40 * 128) with
      | false => simp
      | true =>
        simp
        omega
  · simp [hself]

/-- WV_SET refuses a value of ENABLE other than 0 and 1, and 1 with a ring that may not be sampled into. -/
theorem wvSet_refused (h : 1 < t.byte 26 ∨ (t.byte 26 = 1 ∧ v.vaneRing t = false)) :
    v.wvSet t = (⟨.invalidArgument, none, none⟩, v) := by
  unfold State.wvSet
  dsimp only
  rw [badRing_eq]
  refine if_pos ?_
  rcases h with h | ⟨h, hring⟩
  · exact Or.inr (Or.inr (Or.inl h))
  · exact Or.inr (Or.inr (Or.inr (Or.inr ⟨h, by rw [hring]; rfl⟩)))

theorem wvSet_ok {on : Bool} (hp : t.byte 24 ≤ 31) (hn : t.byte 25 ≤ 31) (hsize : t.word 40 < 2 ^ 24)
    (hact : (v.partition (t.byte 24)).state = .active) (hon : t.byte 26 = on.toNat)
    (hring : on = true → v.vaneRing t = true) :
    v.wvSet t = (⟨.ok, none, none⟩, v.updFabric fun b => { b with wv := Tab.put b.wv (t.byte 24) (t.vane on) }) := by
  have hargs : ¬(t.byte 24 > 31 ∨ t.byte 25 > 31 ∨ t.byte 26 > 1 ∨ t.word 40 ≥ 2 ^ 24 ∨
      (t.byte 26 = 1 ∧ (!v.vaneRing t) = true)) := by
    have hbad : ¬(t.byte 26 = 1 ∧ (!v.vaneRing t) = true) := by
      rintro ⟨h1, hno⟩
      cases on
      · rw [hon] at h1
        exact absurd h1 (by decide)
      · rw [hring rfl] at hno
        exact absurd hno (by decide)
    have hle := Bool.toNat_le on
    rintro (h | h | h | h | h)
    · omega
    · omega
    · omega
    · omega
    · exact hbad h
  have hset : (t.byte 26 == 1) = on := by
    rw [hon]
    cases on <;> rfl
  unfold State.wvSet
  dsimp only
  rw [badRing_eq]
  refine (if_neg hargs).trans ((if_neg (fun h => h hact)).trans ?_)
  rw [hset]
  rfl

/-! ### Routing -/

theorem routeLoad_ok {b : Bytes} {v1 v2 : State} {j : ℕ} (he : t.byte 24 ≤ 3)
    (hread : v.readPblock t pb (t.long 32) 40 = (.ok b, v1)) (hpick : v1.pick v1.freeTables = (some j, v2)) :
    v.routeLoad t pb = (⟨.ok, none, none⟩, v2.updFabric fun x => { x with tables := Tab.put x.tables j (routeOf (t.byte 24) b) }) := by
  refine (if_neg (Nat.not_lt.mpr he)).trans ?_
  rw [hread]
  dsimp only
  rw [hpick]

/-! ### The memory test -/

theorem memTest_one (hm : t.byte 24 ≤ 7) (hc : t.byte 25 ≤ 95) : v.memTest t =
    (none, ((v.updGen (t.byte 24) (t.byte 25) fun g => { g with ctrl := BitVec.ofNat 64 (t.long 32) &&& 0xFFFFFFFF00F8 }).startGen
      (t.byte 24) (t.byte 25)).updFw fun f => { f with testing := some (t, t.byte 24, [t.byte 25]) }) := by
  have hargs : ¬(t.byte 24 > 7 ∨ (t.byte 25 > 95 ∧ t.byte 25 ≠ 0xFF)) := by omega
  have hone : testChannels (t.byte 25) = [t.byte 25] := if_neg (by omega)
  refine (if_neg hargs).trans ?_
  rw [hone]
  rfl

theorem updGen_gens (v : State) (m ch : ℕ) (f : TrafficGen → TrafficGen) :
    Tab.get TrafficGen.zero ((v.updGen m ch f).hub m).gens ch = f (Tab.get TrafficGen.zero (v.hub m).gens ch) := by
  rw [State.updGen, State.updHub_hub_self]
  exact Tab.get_put_self _ _ _ _

theorem startGen_updGen {m ch : ℕ} (h : v.mayTest = true) (f : TrafficGen → TrafficGen) :
    (v.updGen m ch f).startGen m ch = (v.updGen m ch f).updGen m ch fun g =>
      { g with ctrl := g.ctrl ||| 1, errors := 0, firstRow := 0, done := false, busy := true } := by
  have hmay : (v.updGen m ch f).mayTest = true := h
  rw [State.startGen, if_neg (by rw [hmay]; decide)]

theorem memTestEnd_eq {m : ℕ} {l : List ℕ} (hidle : ∀ ch ∈ l, (Tab.get TrafficGen.zero (s.hub m).gens ch).busy = false) :
    ∃ r1, s.memTestEnd t m l = (s.updFw fun f => { f with testing := none }).finishCommand t
      ⟨.ok, some (BitVec.ofNat 64 ((l.map fun ch => (Tab.get TrafficGen.zero (s.hub m).gens ch).errors.toNat).sum)), r1⟩ := by
  have hnone : ¬((l.map fun ch => Tab.get TrafficGen.zero (s.hub m).gens ch).any (·.busy)) = true := by
    rw [List.any_map, List.any_eq_true]
    rintro ⟨ch, hch, hbusy⟩
    rw [Function.comp_apply, hidle ch hch] at hbusy
    exact absurd hbusy (by decide)
  refine ⟨((l.map fun ch => Tab.get TrafficGen.zero (s.hub m).gens ch).find? fun g => g.errors ≠ 0).map
    fun g => g.firstRow.setWidth 64, (if_neg hnone).trans ?_⟩
  rw [List.map_map]
  rfl

theorem exec_memTest_running {m : ℕ} {l : List ℕ} (h : s.fw.testing = some (t, m, l)) (hup : s.fw.up = true) :
    exec .memTest s = .next (s.memTestEnd t m l) := by
  change Host.Outcome.next (match s.fw.testing with
    | some (t, m, l) => if s.fw.up then s.memTestEnd t m l else s
    | none => s.commandThen 0x3B ⟨.manager, [.quiesced], [(24, 25), (32, 39)], none⟩ (fun s t => s.memTest t) fun s _ => s) = _
  rw [h]
  exact congrArg _ (if_pos hup)

end Sys2Proof.Machine

open Sys2Proof Sys2Proof.Machine

/-- Settles O40: each command's own part answers OK, and its completion follows. -/
theorem Sys2Proof.channelCommandsTakeEffect : Obligations.ChannelCommandsTakeEffect := by
  unfold Obligations.ChannelCommandsTakeEffect
  intro s v t
  refine ⟨fun hrun h0 h1 h2 h3 h4 h5 h6 h7 => ?_, fun hrun h0 h1 h2 h3 => ?_, fun hrun h0 h1 => ?_, fun hrun => ?_, fun hrun => ?_⟩
  · exact congrArg Host.Outcome.next (command_answers hrun (chOpen_ok h0 h1 h2 h3 h4 h5 h6 h7))
  · exact congrArg Host.Outcome.next ((commandThen_answers (a := ⟨.ok, none, none⟩) (w := v) hrun (by
      rw [chClose_ok h0 h1 h2 h3])).trans (if_pos rfl))
  · exact congrArg Host.Outcome.next (command_answers hrun (windowMap_ok h0 h1))
  · exact congrArg Host.Outcome.next (command_answers hrun rfl)
  · exact congrArg Host.Outcome.next ((commandThen_answers (a := ⟨.ok, none, none⟩) (w := v) hrun rfl).trans (if_pos rfl))

/-- Settles O41: each command's own part passes its checks and answers OK. -/
theorem Sys2Proof.poolAndGroupCommandsTakeEffect : Obligations.PoolAndGroupCommandsTakeEffect := by
  unfold Obligations.PoolAndGroupCommandsTakeEffect
  intro s v t
  refine ⟨?_, ?_, ?_, ?_⟩
  · intro p q cls count base meta_ hP hQ hCls hCount hBase hMeta hrun hp hq hcls hmod hmin hmax halign hpage hin hmeta hact
      hnew hapart w
    exact congrArg Host.Outcome.next (command_answers hrun (poolCreate_ok hP hQ hCls hCount hBase hMeta hp hq hcls hmod hmin
      hmax halign hpage hin hmeta hact hnew hapart))
  · intro x hrun hp hq hx
    exact congrArg Host.Outcome.next (command_answers hrun (poolDestroy_ok hp hq hx))
  · intro v1 bs hrun hg hp halign hn hmax hin hread hlist hact hnew x howns
    exact congrArg Host.Outcome.next (command_answers hrun (groupDefine_ok hg hp halign hn hmax hin hread hlist hact hnew howns))
  · intro g hrun hg hp hget howner hidle
    exact congrArg Host.Outcome.next (command_answers hrun (groupDestroy_ok hg hp hget howner hidle))

/-- Settles O42: each command's own part passes or fails its argument's checks. -/
theorem Sys2Proof.packageCommandsTakeEffect : Obligations.PackageCommandsTakeEffect := by
  unfold Obligations.PackageCommandsTakeEffect
  intro s v t
  refine ⟨?_, ?_, ?_, ?_, ?_, ?_, ?_, ?_⟩
  · intro hrun
    refine ⟨fun hm => ?_, fun hm => ?_⟩
    · exact congrArg Host.Outcome.next (command_answers hrun (seasonSet_ok hm))
    · exact congrArg Host.Outcome.next (command_answers (w := v) hrun (if_pos hm))
  · intro hrun hp hn hsize hact entry
    refine ⟨fun h0 => ?_, fun h1 hring => ?_, fun h1 hring => ?_, fun h => ?_⟩
    · exact congrArg Host.Outcome.next (command_answers hrun (wvSet_ok (on := false) hp hn hsize hact h0 (fun h => absurd h (by decide))))
    · exact congrArg Host.Outcome.next (command_answers hrun (wvSet_ok (on := true) hp hn hsize hact h1 (fun _ => hring)))
    · exact congrArg Host.Outcome.next (command_answers hrun (wvSet_refused (Or.inr ⟨h1, hring⟩)))
    · exact congrArg Host.Outcome.next (command_answers hrun (wvSet_refused (Or.inl h)))
  · exact fun hrun => congrArg Host.Outcome.next (command_answers hrun rfl)
  · intro pb b v1 j v2 hrun he hread hpick
    exact congrArg Host.Outcome.next (command_answers hrun (routeLoad_ok he hread hpick))
  · exact fun hrun hat => congrArg Host.Outcome.next (command_answers hrun (if_neg (Nat.not_lt.mpr hat)))
  · intro hrun
    refine ⟨fun hmin hmax => ?_, fun hbad => ?_⟩
    · exact congrArg Host.Outcome.next (command_answers hrun (if_neg (by omega)))
    · exact congrArg Host.Outcome.next (command_answers hrun (if_pos hbad))
  · intro hrun
    by_cases hbusy : v.busyPartition = true
    · rw [if_pos hbusy]
      exact congrArg Host.Outcome.next (command_answers hrun (if_pos hbusy))
    · rw [if_neg hbusy]
      exact congrArg Host.Outcome.next (command_answers hrun (if_neg hbusy))
  · intro hrun
    by_cases hports : v.portsUp = true
    · rw [if_pos hports]
      exact congrArg Host.Outcome.next (command_answers hrun (if_pos hports))
    · rw [if_neg hports]
      exact congrArg Host.Outcome.next (command_answers hrun (if_neg hports))

/-- Settles O43: the slices in the order of the mask, and the one generator of a test that names one. -/
theorem Sys2Proof.memoryCommandsTakeEffect : Obligations.MemoryCommandsTakeEffect := by
  unfold Obligations.MemoryCommandsTakeEffect
  intro s v t
  refine ⟨fun hrun hmode => ?_, ?_, ?_⟩
  · exact congrArg Host.Outcome.next (command_answers hrun (if_neg (Nat.not_lt.mpr hmode)))
  · rintro ch hrun htest hm rfl hc hmay
    have hexec := (exec_memTest_idle htest).trans (congrArg _ (commandThen_goesOn hrun (memTest_one hm hc)))
    refine ⟨_, hexec, rfl, ?_, ?_⟩
    · rw [State.updFw_hub, startGen_updGen hmay, updGen_gens]
    · rw [State.updFw_hub, startGen_updGen hmay, updGen_gens, updGen_gens]
  · intro m l htest hup hidle
    obtain ⟨r1, hend⟩ := memTestEnd_eq (t := t) hidle
    exact ⟨r1, (exec_memTest_running htest hup).trans (congrArg _ hend)⟩

end CommandEffects

/-! ## Partitions (15 R489 to R516) -/

section Placement

namespace Sys2Proof.Machine

open Sys2Proof

variable {s v v1 v2 : State} {t : Taken} {pb : Option Bytes} {b : Bytes} {r : Reserved} {p : ℕ}

/-! ### Creating and destroying -/

theorem createNow_ok {c : CreateBlock} {creator : BitVec 16} (hres : v1.reserve c = (some r, v2))
    (hblocks : c.blocks ≤ v1.available.1) : v1.createNow c creator =
      (⟨.ok, none, (r.regions.head?.bind (Tab.get? v2.regions)).map fun g => BitVec.ofNat 64 g.start⟩,
        (v2.install c r creator).activate c.id c.affinity c.blocks) := by
  unfold State.createNow
  rw [hres]
  exact if_pos hblocks

theorem create_ok (hread : v.readPblock t pb (t.long 24) 256 = (.ok b, v1)) (h0 : (createBlockOf b).id ≠ 0)
    (h31 : (createBlockOf b).id ≤ 31) (hjob : (createBlockOf b).job ≠ 0)
    (habsent : (v1.partition (createBlockOf b).id).state = .absent)
    (hnew : v1.partsOfJob (BitVec.ofNat 32 (createBlockOf b).job) = []) (hgood : v1.badCreate (createBlockOf b) = false)
    (hres : v1.reserve (createBlockOf b) = (some r, v2)) (hblocks : (createBlockOf b).blocks ≤ v1.available.1) :
    v.create t pb = (⟨.ok, none, (r.regions.head?.bind (Tab.get? v2.regions)).map fun g => BitVec.ofNat 64 g.start⟩,
      (v2.install (createBlockOf b) r t.sender).activate (createBlockOf b).id (createBlockOf b).affinity
        (createBlockOf b).blocks) := by
  have hargs : ¬((createBlockOf b).id = 0 ∨ (createBlockOf b).id > 31 ∨ (createBlockOf b).job = 0) := by omega
  have hstate : ¬((v1.partition (createBlockOf b).id).state ≠ .absent ∨
      (!(v1.partsOfJob (BitVec.ofNat 32 (createBlockOf b).job)).isEmpty) = true) := by
    simp [habsent, hnew]
  unfold State.create
  rw [hread]
  exact (if_neg hargs).trans ((if_neg hstate).trans ((if_neg (by rw [hgood]; decide)).trans (createNow_ok hres hblocks)))

theorem destroyNow_active {at_ : ℕ} {sender : BitVec 16} (hact : (s.partition p).state = .active) :
    s.destroyNow p at_ sender = (s.updPartition p fun x => { x with destroyAt := some (at_, sender) }).raise p
      (s.record 0x0808 serviceUnit 0 at_ sender.toNat 0 0) := by
  rw [State.destroyNow, hact]

theorem destroy_now (h0 : 0 < t.byte 24) (h31 : t.byte 24 ≤ 31) (hact : (v.partition (t.byte 24)).state = .active)
    (hnow : t.long 32 ≤ v.now) : v.destroy t = (⟨.ok, none, none⟩, v.destroyNow (t.byte 24) 0 t.sender) := by
  have hargs : ¬(t.byte 24 = 0 ∨ t.byte 24 > 31) := by omega
  have hthere : ¬(v.partition (t.byte 24)).state = .absent := by simp [hact]
  exact (if_neg hargs).trans ((if_neg hthere).trans (if_pos (Or.inr hnow)))

theorem destroy_later (h0 : 0 < t.byte 24) (h31 : t.byte 24 ≤ 31) (hact : (v.partition (t.byte 24)).state = .active)
    (hlater : v.now < t.long 32) (hfirst : (v.partition (t.byte 24)).destroyAt = none) : v.destroy t =
      (⟨.ok, none, none⟩, v.updPartition (t.byte 24) fun x => { x with destroyAt := some (t.long 32, t.sender) }) := by
  have hargs : ¬(t.byte 24 = 0 ∨ t.byte 24 > 31) := by omega
  have hthere : ¬(v.partition (t.byte 24)).state = .absent := by simp [hact]
  refine (if_neg hargs).trans ((if_neg hthere).trans ((if_neg (by omega)).trans ?_))
  rw [hfirst]

theorem destroyDue_active {at_ : ℕ} {sender : BitVec 16} (hat : (s.partition p).destroyAt = some (at_, sender))
    (hup : s.fw.up = true) (hnow : at_ ≤ s.now) (hact : (s.partition p).state = .active) :
    s.destroyDue p = s.destroyNow p at_ sender := by
  rw [State.destroyDue, hat]
  exact if_pos ⟨hup, hnow, by simp [hact]⟩

/-! ### What firmware does on its own -/

theorem placeDeferred_eq {at_ n o : ℕ} {aff : List ℕ} (hup : s.fw.up = true) (hdef : (s.partition p).state = .deferred)
    (hX : (s.partition p).deferral = some (at_, n, aff, o)) (hnow : at_ ≤ s.now) (hfree : n ≤ s.freeBlocks.length)
    (hfirst : (s.deferredList.head?.map (·.2.2.2)) = some p) : s.placeDeferred p =
      (s.activate p aff n).notifyPartition p false ⟨1, BitVec.ofNat 64 p, (s.partition p).job.setWidth 64, []⟩ := by
  have hgo : ¬((!s.fw.up) = true ∨ s.now < at_ ∨ s.freeBlocks.length < n ∨
      (s.deferredList.head?.map (·.2.2.2)) ≠ some p) := by
    simp only [hup, hfirst, Bool.not_true, Bool.false_eq_true, false_or, ne_eq, not_true_eq_false, or_false]
    omega
  unfold State.placeDeferred
  simp only [hdef, hX]
  exact if_neg hgo

/-- The oldest record leaves the partition's list, and is written to its slot where there is a fault area. -/
def State.recordWritten (s : State) (p slot : ℕ) (rest : List FaultRec) (bs : Bytes) : State :=
  let u := s.updPartition p fun x => { x with records := rest, recordsWritten := slot + 1 }
  if (s.partition p).faultArea = 0 then u else u.poke p ((s.partition p).faultArea + slot * 64) bs

theorem writeRecord_eq {r : FaultRec} {rest : List FaultRec} (hup : s.fw.up = true) (hrec : (s.partition p).records = r :: rest)
    (hthere : (s.partition p).state ≠ .absent) : s.writeRecord p =
      if (s.partition p).recordsWritten = 0 then
        (s.recordWritten p (s.partition p).recordsWritten rest
          (recordBytes p (s.partition p).job (s.partition p).recordsWritten r)).notifyPartition p true
            ⟨2, BitVec.ofNat 64 p, (s.partition p).job.setWidth 64,
              recordBytes p (s.partition p).job (s.partition p).recordsWritten r⟩
      else s.recordWritten p (s.partition p).recordsWritten rest
        (recordBytes p (s.partition p).job (s.partition p).recordsWritten r) := by
  have hgo : ¬((!s.fw.up) = true ∨ (s.partition p).state = .absent) := by simp [hup, hthere]
  unfold State.writeRecord
  simp only [hrec]
  exact if_neg hgo

theorem endTeardown_kept (hup : s.fw.up = true) (hstate : (s.partition p).state = .teardown)
    (hrec : (s.partition p).records = []) (hkept : (s.partition p).destroyAt = none) : s.endTeardown p =
      { s.updPartition p fun x => { x with state := .faulted } with
        steps := s.steps.filter fun e => !(e.2.part = p && e.2.faulted)
        forecasts := s.forecasts.filter fun e => !(e.2.part = p && e.2.phase = 5) } := by
  have hgo : ¬((s.partition p).state ≠ .teardown ∨ (!(s.partition p).records.isEmpty) = true ∨ (!s.fw.up) = true) := by
    simp [hup, hstate, hrec]
  refine (if_neg hgo).trans ?_
  rw [hkept]
  rfl

theorem exec_destroyAt (p : PartId) (s : State) : exec (.destroyAt p) s = .next (s.destroyDue p.val) := rfl

theorem exec_deferredPlacement (p : PartId) (s : State) :
    exec (.deferredPlacement p) s = .next (s.placeDeferred p.val) := rfl

theorem exec_faultRecordWrite (p : PartId) (s : State) : exec (.faultRecordWrite p) s = .next (s.writeRecord p.val) := rfl

theorem exec_teardownComplete (p : PartId) (s : State) : exec (.teardownComplete p) s = .next (s.endTeardown p.val) := rfl

end Sys2Proof.Machine

open Sys2Proof Sys2Proof.Machine

/-- Settles O44, by the checks of CREATE and DESTROY in their order and by the branches of firmware's own work. -/
theorem Sys2Proof.partitionsAreMadeAndServed : Obligations.PartitionsAreMadeAndServed := by
  unfold Obligations.PartitionsAreMadeAndServed
  refine ⟨?_, ?_⟩
  · intro s v v1 v2 t pb b r
    refine ⟨?_, ?_, ?_⟩
    · intro hrun hread c h0 h31 hjob habsent hnew hgood hres hblocks
      exact congrArg Host.Outcome.next (command_answers hrun (create_ok hread h0 h31 hjob habsent hnew hgood hres hblocks))
    · intro hrun h0 h31 hact
      refine ⟨fun hnow => ?_, fun hlater hfirst => ?_⟩
      · rw [← destroyNow_active (at_ := 0) (sender := t.sender) hact]
        exact congrArg Host.Outcome.next (command_answers hrun (destroy_now h0 h31 hact hnow))
      · exact congrArg Host.Outcome.next (command_answers hrun (destroy_later h0 h31 hact hlater hfirst))
    · intro p at_ sender hat hup hnow hact
      rw [exec_destroyAt, destroyDue_active hat hup hnow hact, destroyNow_active hact]
  · intro p s hup
    refine ⟨?_, ?_, ?_, ?_⟩
    · intro at_ n aff o hdef hX hnow hfree hfirst
      rw [exec_deferredPlacement, placeDeferred_eq hup hdef hX hnow hfree hfirst]
    · intro r rest hrec hthere hslot harea n
      rw [exec_faultRecordWrite, writeRecord_eq hup hrec hthere, if_neg hslot, State.recordWritten, if_neg harea]
    · intro r rest hrec hthere hslot bs u
      rw [exec_faultRecordWrite, writeRecord_eq hup hrec hthere, if_pos hslot, hslot, State.recordWritten, Nat.zero_mul,
        Nat.add_zero]
      rfl
    · intro hstate hrec hkept
      rw [exec_teardownComplete, endTeardown_kept hup hstate hrec hkept]
      have hself := congrArg Partition.state
        (State.updPartition_partition_self s p.val fun x => { x with state := .faulted })
      exact ⟨_, rfl, hself, rfl, rfl, fun q hq =>
        (State.updPartition_partition_ne s p.val (fun x => { x with state := .faulted }) q hq :)⟩

end Placement

/-! ## The cyclic schedule and quiescing (15 R500 to R512, R518) -/

section Schedule

namespace Sys2Proof.Machine

open Sys2Proof

variable {s u v v1 : State} {t : Taken} {pb : Option Bytes} {b : Bytes} {m : Month} {c j p q : ℕ}

/-- A step of a fold that reaches a property, which the other steps then keep. -/
theorem foldl_reaches {α β : Type*} {I Q : α → Prop} {f : α → β → α} {x : β} {l : List β} (hx : x ∈ l)
    (hkeep : ∀ a y, I a → I (f a y)) (hreach : ∀ a, I a → Q (f a x)) (hstay : ∀ a y, I a → Q a → Q (f a y)) {a : α}
    (ha : I a) : Q (l.foldl f a) := by
  have hrest : ∀ (l : List β) a, I a → Q a → Q (l.foldl f a) := by
    intro l
    induction l with
    | nil => exact fun _ _ hq => hq
    | cons y l ih => exact fun a hi hq => ih (f a y) (hkeep a y hi) (hstay a y hi hq)
  induction l generalizing a with
  | nil => exact absurd hx List.not_mem_nil
  | cons y l ih =>
    obtain rfl | hmem := List.mem_cons.mp hx
    · exact hrest l _ (hkeep a x ha) (hreach a ha)
    · exact ih hmem (hkeep a y ha)

theorem foldl_invariant {α β : Type*} {I : α → Prop} {f : α → β → α} (hkeep : ∀ a y, I a → I (f a y)) (l : List β) {a : α}
    (ha : I a) : I (l.foldl f a) := by
  induction l generalizing a with
  | nil => exact ha
  | cons y l ih => exact ih (hkeep a y ha)

theorem mem_maskBlocks {k : BitVec 288} {b : ℕ} (hb : b < 288) (h : k.getLsbD b = true) : b ∈ maskBlocks k :=
  List.mem_filter.mpr ⟨List.mem_range.mpr hb, h⟩

/-! ### Setting the schedule -/

theorem yearSet_ok (hk : t.byte 24 = 0 ∨ (16 ≤ t.byte 24 ∧ t.byte 24 ≤ 30)) (hnone : v.season.months = [])
    (hcommit : v.season.commitAt = none) : v.yearSet t = (⟨.ok, none, none⟩, v.updSeason fun z => { z with
      yearLog2 := BitVec.ofNat 5 (t.byte 24), yearBase := BitVec.ofNat 64 (t.long 32)
      handoverLead := BitVec.ofNat 64 (t.long 40) }) := by
  have hargs : ¬(t.byte 24 ≠ 0 ∧ (t.byte 24 < 16 ∨ t.byte 24 > 30)) := by omega
  have hstate : ¬((!v.season.months.isEmpty) = true ∨ v.season.commitAt.isSome = true) := by simp [hnone, hcommit]
  exact (if_neg hargs).trans (if_neg hstate)

theorem claim_ok (hread : v.readClaim t pb = (.ok b, v1)) (hid : (claimBlockOf b).id ≤ 31)
    (hmonths : (claimBlockOf b).months ≤ 64) (hclean : (claimBlockOf b).clean = true) (hyear : v1.yearLen ≠ 0)
    (hlist : ∀ e ∈ (claimBlockOf b).list, e.2 ≠ 0 ∧ (e.1 + e.2) * 64 ≤ v1.yearLen)
    (htorn : v1.tornSince t (claimBlockOf b).id = false) (hact : (v1.partition (claimBlockOf b).id).state = .active)
    (hreal : (v1.partition (claimBlockOf b).id).realtime = true) (hcommit : v1.season.commitAt = none)
    (href : v1.claimRefused (claimBlockOf b).id (claimBlockOf b).mask
      (v1.nextMonths (claimBlockOf b).id (claimBlockOf b).list) = false) :
    v.claim t pb = (⟨.ok, some (BitVec.ofNat 64 (v1.yearStartAfter (v1.now + 1000000))), none⟩,
      (v1.setClaim (claimBlockOf b).id (claimBlockOf b).mask).updSeason fun z => { z with
        monthsNext := v1.nextMonths (claimBlockOf b).id (claimBlockOf b).list, monthsIdle := []
        commitAt := some (v1.yearStartAfter (v1.now + 1000000)) }) := by
  have hmonth : ((claimBlockOf b).list.any fun e => e.2 = 0 || (v1.yearLen ≠ 0 && (e.1 + e.2) * 64 > v1.yearLen)) =
      false := by
    refine List.any_eq_false.mpr fun e he => ?_
    obtain ⟨h0, hend⟩ := hlist e he
    simp [h0, hyear, hend]
  have hargs : ¬((claimBlockOf b).id > 31 ∨ (claimBlockOf b).months > 64 ∨ (!(claimBlockOf b).clean) = true ∨
      ((claimBlockOf b).list.any fun e => e.2 = 0 || (v1.yearLen ≠ 0 && (e.1 + e.2) * 64 > v1.yearLen)) = true) := by
    rw [hmonth, hclean]
    simp [hid, hmonths]
  have hstate : ¬((v1.partition (claimBlockOf b).id).state ≠ .active ∨
      (!(v1.partition (claimBlockOf b).id).realtime) = true ∨ v1.season.commitAt.isSome = true ∨ v1.yearLen = 0) := by
    simp [hact, hreal, hcommit, hyear]
  unfold State.claim
  rw [hread]
  exact (if_neg hargs).trans ((if_neg (by rw [htorn]; decide)).trans ((if_neg hstate).trans
    (if_neg (by rw [href]; decide))))

theorem scheduleStart_some {n : ℕ} (h : s.season.commitAt = some n) : s.scheduleStart =
    if n ≤ s.now ∧ s.moves = true then s.updSeason fun z => { z with months := z.monthsNext, commitAt := none } else s := by
  rw [State.scheduleStart, h]

/-! ### SEA_RESUME_AT -/

theorem seaReg_resume (hq : q < 32) : s.seaReg (0x600 + 8 * q) = s.resumeWord q := by
  have hlow : ¬0x600 + 8 * q < 0x100 := by omega
  have hdelay : ¬0x600 + 8 * q < 0x200 := by omega
  have hlink : ¬0x600 + 8 * q < 0x200 + 56 * 8 := by omega
  have hlog : ¬0x600 + 8 * q = 0x400 := by omega
  have hbase : ¬0x600 + 8 * q = 0x408 := by omega
  have hlead : ¬0x600 + 8 * q = 0x410 := by omega
  have hin : 0x600 ≤ 0x600 + 8 * q ∧ 0x600 + 8 * q < 0x700 := by omega
  have hidx : (0x600 + 8 * q - 0x600) / 8 = q := by omega
  exact (if_neg hlow).trans ((if_neg hdelay).trans ((if_neg hlink).trans ((if_neg hlog).trans ((if_neg hbase).trans
    ((if_neg hlead).trans ((if_pos hin).trans (congrArg s.resumeWord hidx)))))))

theorem resumeWord_back (h : ∀ b ∈ maskBlocks (s.partition q).home, s.blockBack q b = true) : s.resumeWord q = 0 := by
  have hnone : ((maskBlocks (s.partition q).home).filter fun b => !s.blockBack q b) = [] :=
    List.filter_eq_nil_iff.mpr fun b hb => by simp [h b hb]
  rw [State.resumeWord, hnone]
  rfl

theorem resumeWord_one {b : ℕ} {w : BitVec 64} (h : ((maskBlocks (s.partition q).home).filter fun b => !s.blockBack q b) = [b])
    (hw : Tab.get? s.season.resumeAt b = some w) :
    s.resumeWord q = if w.toNat < s.now then 2 ^ 64 - 1 else w.toNat := by
  rw [State.resumeWord, h]
  simp [Tab.get, hw]

/-! ### Stopping cores -/

/-- Only cores and their memories have changed. -/
def StopFrame (s u : State) : Prop := ∃ cs mem, u = { s with cores := cs, mem := mem }

theorem StopFrame.rfl : StopFrame s s := ⟨_, _, Eq.refl s⟩

theorem StopFrame.trans {w : State} (h : StopFrame s u) (h2 : StopFrame u w) : StopFrame s w := by
  obtain ⟨_, _, rfl⟩ := h
  obtain ⟨cs, mem, rfl⟩ := h2
  exact ⟨cs, mem, Eq.refl _⟩

theorem StopFrame.season (h : StopFrame s u) : u.season = s.season := by
  obtain ⟨_, _, rfl⟩ := h
  exact Eq.refl _

theorem StopFrame.now (h : StopFrame s u) : u.now = s.now := by
  obtain ⟨_, _, rfl⟩ := h
  exact Eq.refl _

theorem StopFrame.partition (h : StopFrame s u) (p : ℕ) : u.partition p = s.partition p := by
  obtain ⟨_, _, rfl⟩ := h
  exact Eq.refl _

theorem StopFrame.claimantOf (h : StopFrame s u) (b : ℕ) : u.claimantOf b = s.claimantOf b := by
  obtain ⟨_, _, rfl⟩ := h
  exact Eq.refl _

theorem StopFrame.updCore (s : State) (c : ℕ) (f : Core → Core) : StopFrame s (s.updCore c f) := ⟨_, _, Eq.refl _⟩

theorem StopFrame.assignCore (s : State) (c : ℕ) (p : Option ℕ) (keys : List (BitVec 128)) :
    StopFrame s (s.assignCore c p keys) := ⟨_, _, Eq.refl _⟩

theorem assignCore_core_ne (s : State) (p : Option ℕ) (keys : List (BitVec 128)) (h : j ≠ c) :
    (s.assignCore c p keys).core j = s.core j := State.setCore_core_ne _ _ _ _ h

/-- A core that is settled is changed, or assigned to nobody. -/
theorem settleCore_cases (s : State) (c : ℕ) :
    (∃ f, s.settleCore c = s.updCore c f) ∨ s.settleCore c = s.assignCore c none [] := by
  unfold State.settleCore
  split
  · split
    · exact .inl ⟨_, rfl⟩
    · exact .inl ⟨_, rfl⟩
  · exact .inr rfl

/-- A core that is told to stop is changed, assigned to nobody, or left as it was. -/
theorem stopCore_cases (s : State) (c : ℕ) :
    (∃ f, s.stopCore c = s.updCore c f) ∨ s.stopCore c = s.assignCore c none [] ∨ s.stopCore c = s := by
  have hsettle := (settleCore_cases s c).imp_right (Or.inl (b := s.settleCore c = s))
  unfold State.stopCore
  dsimp only
  split
  · split
    · split
      · exact .inl ⟨_, rfl⟩
      · exact hsettle
    · exact hsettle
  · exact .inr (.inr rfl)

theorem StopFrame.stopCore (s : State) (c : ℕ) : StopFrame s (s.stopCore c) := by
  obtain ⟨f, h⟩ | h | h := stopCore_cases s c
  · rw [h]
    exact .updCore s c f
  · rw [h]
    exact .assignCore s c none []
  · rw [h]
    exact .rfl

theorem stopCore_core_ne (s : State) (h : j ≠ c) : (s.stopCore c).core j = s.core j := by
  obtain ⟨f, hf⟩ | hf | hf := stopCore_cases s c
  · rw [hf, State.updCore_core_ne _ _ _ _ h]
  · rw [hf, assignCore_core_ne _ _ _ h]
  · rw [hf]

theorem stopCore_of_quiescing {n : ℕ} (h : (s.core c).preempt = .quiescing n) : s.stopCore c = s := by
  rw [State.stopCore, h]

theorem stopCore_of_live (hlive : (s.core c).preempt = .live) (hctx : (s.core c).ctx = some q)
    (hact : (s.partition q).state = .active) :
    s.stopCore c = s.updCore c fun k => { k with preempt := .quiescing s.now } := by
  rw [State.stopCore, hlive, hctx]
  exact if_pos hact

/-- While cores are told to stop: a core of interest is as it was, or has been told to stop. -/
structure Stopping (s : State) (c : ℕ) (u : State) : Prop where
  frame : StopFrame s u
  core : u.core c = s.core c ∨ (u.core c).preempt = .quiescing s.now

theorem stopCore_keeps_quiescing (d : ℕ) (h : (u.core c).preempt = .quiescing s.now) :
    ((u.stopCore d).core c).preempt = .quiescing s.now := by
  by_cases hd : c = d
  · rwa [← hd, stopCore_of_quiescing h]
  · rwa [stopCore_core_ne u hd]

section Sweep

variable (hlive : (s.core c).preempt = .live) (hctx : (s.core c).ctx = some q) (hact : (s.partition q).state = .active)

include hlive hctx hact

theorem Stopping.stopped (h : Stopping s c u) : ((u.stopCore c).core c).preempt = .quiescing s.now := by
  obtain hsame | hq := h.core
  · rw [stopCore_of_live (by rw [hsame, hlive]) (by rw [hsame, hctx]) (by rw [h.frame.partition, hact]),
      State.updCore_core_self, h.frame.now]
  · exact stopCore_keeps_quiescing c hq

theorem Stopping.stopCore (h : Stopping s c u) (d : ℕ) : Stopping s c (u.stopCore d) where
  frame := h.frame.trans (.stopCore u d)
  core := by
    by_cases hd : c = d
    · subst hd
      exact .inr (h.stopped hlive hctx hact)
    · rw [stopCore_core_ne u hd]
      exact h.core

end Sweep

/-- The cores of blocks are visited, and each is told to stop or left. -/
def sweep (g : State → ℕ → ℕ → State) (l : List ℕ) (s : State) : State :=
  l.foldl (fun u b => (List.range 16).foldl (fun u j => g u b j) u) s

theorem StopFrame.sweep {g : State → ℕ → ℕ → State} (hg : ∀ u b j, g u b j = u ∨ g u b j = u.stopCore (16 * b + j))
    (l : List ℕ) (s : State) : StopFrame s (sweep g l s) := by
  refine foldl_invariant (fun u b hu => foldl_invariant (fun w j hw => ?_) _ hu) l .rfl
  obtain h | h := hg w b j
  · rwa [h]
  · exact h ▸ hw.trans (.stopCore w _)

/-- A live core of a running partition that the visit stops is told to stop. -/
theorem sweep_stops {g : State → ℕ → ℕ → State} (hg : ∀ u b j, g u b j = u ∨ g u b j = u.stopCore (16 * b + j))
    {l : List ℕ} {b : ℕ} (hb : b ∈ l) (hj : j < 16) (hlive : (s.core (16 * b + j)).preempt = .live)
    (hctx : (s.core (16 * b + j)).ctx = some q) (hact : (s.partition q).state = .active)
    (hhit : ∀ u, StopFrame s u → u.core (16 * b + j) = s.core (16 * b + j) → g u b j = u.stopCore (16 * b + j)) :
    ((sweep g l s).core (16 * b + j)).preempt = .quiescing s.now := by
  have hkeep : ∀ u b' j', Stopping s (16 * b + j) u → Stopping s (16 * b + j) (g u b' j') := by
    intro u b' j' hu
    obtain h | h := hg u b' j'
    · rwa [h]
    · exact h ▸ hu.stopCore hlive hctx hact _
  have hstay : ∀ u b' j', Stopping s (16 * b + j) u → (u.core (16 * b + j)).preempt = .quiescing s.now →
      ((g u b' j').core (16 * b + j)).preempt = .quiescing s.now := by
    intro u b' j' _ hq
    obtain h | h := hg u b' j'
    · rwa [h]
    · exact h ▸ stopCore_keeps_quiescing _ hq
  have hreach : ∀ u, Stopping s (16 * b + j) u → ((g u b j).core (16 * b + j)).preempt = .quiescing s.now := by
    intro u hu
    obtain hsame | hq := hu.core
    · exact hhit u hu.frame hsame ▸ hu.stopped hlive hctx hact
    · exact hstay u b j hu hq
  refine foldl_reaches (I := Stopping s (16 * b + j))
    (Q := fun u => (u.core (16 * b + j)).preempt = .quiescing s.now) hb
    (fun u b' hu => foldl_invariant (fun w j' hw => hkeep w b' j' hw) _ hu)
    (fun u hu => foldl_reaches (f := fun w j' => g w b j')
      (Q := fun u => (u.core (16 * b + j)).preempt = .quiescing s.now) (List.mem_range.mpr hj)
      (fun w j' hw => hkeep w b j' hw) hreach (fun w j' hw => hstay w b j' hw) hu)
    (fun u b' hu hq => ?_) ⟨.rfl, .inl rfl⟩
  exact (foldl_invariant (I := fun w => Stopping s (16 * b + j) w ∧ (w.core (16 * b + j)).preempt = .quiescing s.now)
    (fun w j' hw => ⟨hkeep w b' j' hw.1, hstay w b' j' hw.1 hw.2⟩) _ ⟨hu, hq⟩).2

/-! ### Handing over -/

/-- Only the planned returns have changed. -/
def LendFrame (s u : State) : Prop := ∃ r, u = { s with season := { s.season with resumeAt := r } }

theorem LendFrame.lendIn (h : LendFrame s u) (b : ℕ) (m : Month) : LendFrame s (u.lendIn b m) := by
  obtain ⟨r, rfl⟩ := h
  exact ⟨_, rfl⟩

/-- The blocks that a Month takes from other partitions are lent in it. -/
def State.lendAll (s : State) (m : Month) : State := (s.lentTo m.part).foldl (fun s b => s.lendIn b m) s

theorem LendFrame.lendAll (s : State) (m : Month) : LendFrame s (s.lendAll m) :=
  foldl_invariant (fun _ b h => h.lendIn b m) _ ⟨_, rfl⟩

/-- A Month's handover tells a core to stop that does not hold the claimant's context. -/
def State.stopForeign (m : Month) (s : State) (b j : ℕ) : State :=
  if (s.core (16 * b + j)).ctx = some m.part then s else s.stopCore (16 * b + j)

theorem handover_eq (s : State) (m : Month) :
    s.handover m = sweep (State.stopForeign m) (maskBlocks ((s.lendAll m).partition m.part).claim) (s.lendAll m) := rfl

theorem stopForeign_cases (m : Month) (u : State) (b j : ℕ) :
    State.stopForeign m u b j = u ∨ State.stopForeign m u b j = u.stopCore (16 * b + j) := ite_eq_or_eq _ _ _

theorem handover_stops {b : ℕ} (hb : (s.partition m.part).claim.getLsbD b = true) (hlt : b < 288) (hj : j < 16)
    (hq : q ≠ m.part) (hlive : (s.core (16 * b + j)).preempt = .live) (hctx : (s.core (16 * b + j)).ctx = some q)
    (hact : (s.partition q).state = .active) : ((s.handover m).core (16 * b + j)).preempt = .quiescing s.now := by
  rw [handover_eq]
  obtain ⟨r, hr⟩ := LendFrame.lendAll s m
  rw [hr]
  refine sweep_stops (stopForeign_cases m) (mem_maskBlocks hlt hb) hj hlive hctx hact fun u _ hsame => if_neg ?_
  have hcore : u.core (16 * b + j) = s.core (16 * b + j) := hsame
  rw [hcore, hctx]
  exact fun h => hq (Option.some.inj h)

theorem lendIn_resumeAt_self (u : State) (b : ℕ) (m : Month) : Tab.get? (u.lendIn b m).season.resumeAt b =
    some (BitVec.ofNat 64 (u.monthEndAt m + u.season.handoverLead.toNat)) := Tab.get?_put_self _ _ _

theorem lendAll_resumeAt {b : ℕ} (hb : b ∈ s.lentTo m.part) : Tab.get? (s.lendAll m).season.resumeAt b =
    some (BitVec.ofNat 64 (s.monthEndAt m + s.season.handoverLead.toNat)) := by
  have hself : ∀ u, LendFrame s u → Tab.get? (u.lendIn b m).season.resumeAt b =
      some (BitVec.ofNat 64 (s.monthEndAt m + s.season.handoverLead.toNat)) := by
    rintro u ⟨r, rfl⟩
    exact lendIn_resumeAt_self _ b m
  refine foldl_reaches (I := LendFrame s) (Q := fun u => Tab.get? u.season.resumeAt b =
    some (BitVec.ofNat 64 (s.monthEndAt m + s.season.handoverLead.toNat))) hb (fun _ y h => h.lendIn y m) hself ?_ ⟨_, rfl⟩
  intro u y hu hq
  by_cases hy : b = y
  · exact hy ▸ hself u hu
  · exact (Tab.get?_put_ne _ _ _ _ hy).trans hq

theorem handover_resumeAt {b : ℕ} (hb : (s.partition m.part).claim.getLsbD b = true) (hlt : b < 288)
    (hhome : s.homeOf b = some q) (hq : q ≠ m.part) : Tab.get? (s.handover m).season.resumeAt b =
      some (BitVec.ofNat 64 (s.monthEndAt m + s.season.handoverLead.toNat)) := by
  have hlent : b ∈ s.lentTo m.part :=
    List.mem_filter.mpr ⟨mem_maskBlocks hlt hb, by simp [hhome, hq]⟩
  rw [handover_eq, (StopFrame.sweep (stopForeign_cases m) _ _).season]
  exact lendAll_resumeAt hlent

theorem monthDue_some {i : ℕ} (hmoves : s.moves = true) (hm : Tab.get? s.season.months i = some m)
    (hact : s.monthActive m = true) (hpart : (s.partition m.part).state = .active) : s.monthDue i = some m := by
  rw [State.monthDue, hm]
  simp [hact, hpart, hmoves]

theorem exec_monthHandoverStart (i : Fin 64) (s : State) : exec (.monthHandoverStart i) s =
    .next (match s.monthDue i.val with
      | some m => s.handover m
      | none => s) := rfl

/-! ### The end of a Month -/

/-- A Month's end tells a core of the claimant to stop unless another Month of it goes on. -/
def State.stopOutside (p : ℕ) (s : State) (b j : ℕ) : State :=
  if (s.core (16 * b + j)).ctx = some p ∧ s.claimantOf b ≠ some p then s.stopCore (16 * b + j) else s

theorem endMonth_eq (s : State) (p : ℕ) :
    s.endMonth p = sweep (State.stopOutside p) (maskBlocks (s.partition p).claim) s := rfl

theorem stopOutside_cases (p : ℕ) (u : State) (b j : ℕ) :
    State.stopOutside p u b j = u ∨ State.stopOutside p u b j = u.stopCore (16 * b + j) := (ite_eq_or_eq _ _ _).symm

theorem endMonth_stops {b : ℕ} (hb : (s.partition p).claim.getLsbD b = true) (hlt : b < 288) (hj : j < 16)
    (hclaim : s.claimantOf b ≠ some p) (hlive : (s.core (16 * b + j)).preempt = .live)
    (hctx : (s.core (16 * b + j)).ctx = some p) (hact : (s.partition p).state = .active) :
    ((s.endMonth p).core (16 * b + j)).preempt = .quiescing s.now := by
  rw [endMonth_eq]
  refine sweep_stops (stopOutside_cases p) (mem_maskBlocks hlt hb) hj hlive hctx hact fun u hu hsame => if_pos ⟨?_, ?_⟩
  · rw [hsame, hctx]
  · rwa [hu.claimantOf]

theorem exec_monthEnd_entry {i : Fin 64} (hmoves : s.moves = true) (hm : Tab.get? s.season.months i.val = some m) :
    exec (.monthEnd i) s = .next (s.endMonth m.part) := by
  have hparts : s.monthParts i.val = [m.part] := by rw [State.monthParts, hm]
  have hexec : exec (.monthEnd i) s = execMonthEnd i s := rfl
  rw [hexec, execMonthEnd, if_pos hmoves, hparts, List.foldl_cons, List.foldl_nil]

/-! ### Quiescing -/

/-- The transactions of a core's context that are outstanding. -/
def State.outstandingOf (s : State) (c : ℕ) : List Xact := s.fabric.xacts.filter fun x => s.ofContext c x && x.outstanding

/-- A transaction is the probe of one of a list. -/
def Xact.probes (ids : List (BitVec 32)) (x : Xact) : Bool := match x.owner with
  | .probe id => ids.contains id
  | _ => false

/-- A transaction of a list is suspended. -/
def Xact.halt (ids : List (BitVec 32)) (x : Xact) : Xact :=
  if ids.contains x.k.reqId then { x with state := .suspended } else x

theorem quiesceTimeout_due {n : ℕ} (hmoves : s.moves = true) (hq : (s.core c).preempt = .quiescing n)
    (hdue : n + s.fabric.timeout.toNat ≤ s.now) (hopen : ∀ x ∈ s.outstandingOf c, x.state ≠ .window) :
    s.quiesceTimeout c = (s.updFabric fun b => { b with
      xacts := (b.xacts.filter fun x => !x.probes ((s.outstandingOf c).map fun x => x.k.reqId)).map
        (Xact.halt ((s.outstandingOf c).map fun x => x.k.reqId)) }).updCore c fun k =>
          if k.matrix.loadQ.isEmpty ∧ k.matrix.compQ.isEmpty ∧ k.tail.isNone then { k with preempt := .saving } else k := by
  have hnone : ((s.outstandingOf c).any fun x => x.state = .window) = false :=
    List.any_eq_false.mpr fun x hx => by simp [hopen x hx]
  have hgo : ¬((!s.moves) = true ∨ s.now < n + s.fabric.timeout.toNat ∨
      ((s.outstandingOf c).any fun x => x.state = .window) = true) := by
    rw [hnone, hmoves]
    simp [hdue]
  unfold State.quiesceTimeout
  simp only [hq]
  exact if_neg hgo

/-- A core's outstanding transaction is no probe, and is suspended. -/
theorem suspended_mem {y : Xact} (hy : y ∈ s.fabric.xacts) (hctx : s.ofContext c y = true) (hout : y.outstanding = true) :
    { y with state := .suspended } ∈
      (s.fabric.xacts.filter fun x => !x.probes ((s.outstandingOf c).map fun x => x.k.reqId)).map
        (Xact.halt ((s.outstandingOf c).map fun x => x.k.reqId)) := by
  have hmine : y ∈ s.outstandingOf c := List.mem_filter.mpr ⟨hy, by rw [hctx, hout]; rfl⟩
  have hprobe : y.probes ((s.outstandingOf c).map fun x => x.k.reqId) = false := by
    have hcore : y.core? = some c := by
      unfold State.ofContext at hctx
      exact of_decide_eq_true (Bool.and_eq_true_iff.mp hctx).1
    unfold Xact.probes
    split
    next id hid =>
      rw [Xact.core?, hid] at hcore
      exact absurd hcore (by simp)
    next => rfl
  refine List.mem_map.mpr ⟨y, List.mem_filter.mpr ⟨hy, by rw [hprobe]; rfl⟩, if_pos ?_⟩
  exact List.contains_iff_mem.mpr (List.mem_map.mpr ⟨y, hmine, rfl⟩)

theorem exec_quiesceTimeout (c : CoreId) (s : State) : exec (.quiesceTimeout c) s = .next (s.quiesceTimeout c.val) := rfl

theorem exec_scheduleTakesEffect (s : State) : exec .scheduleTakesEffect s = .next s.scheduleStart := rfl

end Sys2Proof.Machine

open Sys2Proof Sys2Proof.Machine

/-- Settles O45, by the checks of YEAR_SET and CLAIM in their order, and by one sweep over the cores of a claim for the
handover and the end of a Month. -/
theorem Sys2Proof.schedulesHandCoresOver : Obligations.SchedulesHandCoresOver := by
  unfold Obligations.SchedulesHandCoresOver
  refine ⟨?_, ?_, ?_⟩
  · intro s v v1 t pb b
    refine ⟨?_, ?_, ?_⟩
    · intro hrun hk hnone hcommit
      exact congrArg Host.Outcome.next (command_answers hrun (yearSet_ok hk hnone hcommit))
    · intro hrun hread c hid hmonths hclean hyear hlist htorn hact hreal hcommit href
      exact congrArg Host.Outcome.next
        (command_answers hrun (claim_ok hread hid hmonths hclean hyear hlist htorn hact hreal hcommit href))
    · intro n hat
      rw [exec_scheduleTakesEffect, scheduleStart_some hat]
  · intro i s m hmoves
    refine ⟨?_, ?_, ?_, ?_⟩
    · intro q hq hback
      rw [seaReg_resume hq, resumeWord_back hback]
    · intro q b w hq hone hw
      rw [seaReg_resume hq, resumeWord_one hone hw]
    · intro hm hact hpart
      refine ⟨?_, ?_, ?_⟩
      · rw [exec_monthHandoverStart, monthDue_some hmoves hm hact hpart]
      · intro b j q hb hlt hj hq hlive hctx hown
        exact handover_stops hb hlt hj hq hlive hctx hown
      · intro b q hb hlt hhome hq
        exact handover_resumeAt hb hlt hhome hq
    · intro hm
      refine ⟨exec_monthEnd_entry hmoves hm, ?_⟩
      intro b j hb hlt hj hclaim hlive hctx hact
      exact endMonth_stops hb hlt hj hclaim hlive hctx hact
  · intro c s n hmoves hq hdue hopen
    have hwin : ∀ x ∈ s.outstandingOf c.val, x.state ≠ .window := by
      intro x hx
      obtain ⟨hmem, hmine⟩ := List.mem_filter.mp hx
      obtain ⟨hctx, hout⟩ := Bool.and_eq_true_iff.mp hmine
      exact hopen x hmem hctx hout
    refine ⟨_, (exec_quiesceTimeout c s).trans (congrArg _ (quiesceTimeout_due hmoves hq hdue hwin)), rfl, ?_, ?_, ?_⟩
    · rw [State.updCore_core_self]
      simp [State.updFabric_core, hq, apply_ite Core.preempt]
    · exact fun y hy hctx hout => suspended_mem hy hctx hout
    · intro j hj
      rw [State.updCore_core_ne _ _ _ _ hj]
      rfl

end Schedule

/-! ## Save and restore (15 R496, R507 to R510) -/

section Images

namespace Sys2Proof.Machine

open Sys2Proof

variable {s : State} {c p : ℕ} {k : Core}

/-! ### Contexts -/

theorem saveDone_rested (hmoves : s.moves = true) (hctx : (s.core c).ctx = some p) (hrest : s.atRest c = true) :
    s.saveDone c =
      ({ s.putImage ((s.partition p).imageAt c) (imageCells s.mem (winBase c)) with
        mem := memClear (s.putImage ((s.partition p).imageAt c) (imageCells s.mem (winBase c))).mem (winBase c) 0x130000
        saved := (p, c, { s.core c with preempt := .saved }) ::
          (s.putImage ((s.partition p).imageAt c) (imageCells s.mem (winBase c))).saved }.settleCore c).clearHome c := by
  have hgo : ¬((!s.atRest c) = true ∨ (!s.moves) = true) := by simp [hrest, hmoves]
  unfold State.saveDone
  simp only [hctx]
  exact if_neg hgo

theorem restoreFrom_sound (hgood : s.badImage ((s.partition p).imageAt c) = none) :
    s.restoreFrom p c k =
      ((({ s.putImage (winBase c) (imageCells s.mem ((s.partition p).imageAt c)) with
        saved := (s.putImage (winBase c) (imageCells s.mem ((s.partition p).imageAt c))).saved.filter
          fun e => e.1 ≠ p ∨ e.2.1 ≠ c }.setCore c { k with ctx := some p, preempt := .live }).resumeXacts p c).armLaunch
        c).clearHome c := by
  rw [State.restoreFrom]
  simp only [hgood]

theorem restoreDone_saved (hmoves : s.moves = true) (hpre : (s.core c).preempt = .restoring) (hin : s.incoming c = some p)
    (hact : (s.partition p).state = .active) (hsaved : s.savedCore p c = some k) :
    s.restoreDone c = s.restoreFrom p c k := by
  have hgo : ¬((s.core c).preempt ≠ .restoring ∨ (!s.moves) = true) := by simp [hpre, hmoves]
  rw [State.restoreDone, if_neg hgo, hin]
  simp only [hact, ne_eq, not_true_eq_false, if_false, hsaved]

theorem exec_contextSaveDone (c : CoreId) (s : State) : exec (.contextSaveDone c) s = .next (s.saveDone c.val) := rfl

theorem exec_contextRestoreDone (c : CoreId) (s : State) : exec (.contextRestoreDone c) s = .next (s.restoreDone c.val) := rfl

/-! ### Image bytes -/

/-- The bytes of an image are set one after the other. -/
def putCells (b : ℕ) (m : List Host.Cell) (cells : List (ℕ × Byte)) : List Host.Cell :=
  cells.foldl (fun m e => memSet m (b + e.1) e.2) m

theorem Memory.wf_putCells {m : List Host.Cell} (h : Memory.wf m = true) (b : ℕ) (cells : List (ℕ × Byte)) :
    Memory.wf (putCells b m cells) = true :=
  Memory.wf_foldl _ _ _ (fun m e h => Memory.wf_memSet m (b + e.1) e.2 h) h

theorem memGet_putCells_ne {b x : ℕ} {m : List Host.Cell} (hm : Memory.wf m = true) (cells : List (ℕ × Byte))
    (hx : ∀ e ∈ cells, x ≠ b + e.1) : memGet (putCells b m cells) x = memGet m x := by
  induction cells generalizing m with
  | nil => rfl
  | cons e cells ih =>
    refine (ih (Memory.wf_memSet m _ _ hm) fun d hd => hx d (List.mem_cons_of_mem _ hd)).trans ?_
    exact memGet_memSet_ne m _ x e.2 (hx e List.mem_cons_self) hm

theorem mem_imageCells_lt {m : List Host.Cell} {a : ℕ} {e : ℕ × Byte} (he : e ∈ imageCells m a) : e.1 < 0x130000 := by
  obtain ⟨d, hd, rfl⟩ := List.mem_map.mp he
  have hrange := (List.mem_filter.mp hd).2
  simp only [Bool.and_eq_true, decide_eq_true_eq] at hrange
  show d.1 - a < _
  omega

/-- A byte of the range is the cells' where they list one, and else what stood there. -/
theorem memGet_putCells_image {a b i : ℕ} (hi : i < 0x130000) (src : List Host.Cell) (hsrc : Memory.wf src = true)
    {m : List Host.Cell} (hm : Memory.wf m = true) : memGet (putCells b m (imageCells src a)) (b + i) =
      if memGet src (a + i) = 0 then memGet m (b + i) else memGet src (a + i) := by
  induction src generalizing m with
  | nil => rfl
  | cons d src ih =>
    obtain ⟨x, v⟩ := d
    obtain ⟨hv, habove, hwf⟩ := (Memory.wf_cons _ _).mp hsrc
    by_cases hin : (a ≤ x && x < a + 0x130000) = true
    · have hcells : imageCells ((x, v) :: src) a = (x - a, v) :: imageCells src a := by
        rw [imageCells, List.filter_cons_of_pos (by exact hin)]
        rfl
      have hput : putCells b m (imageCells ((x, v) :: src) a) = putCells b (memSet m (b + (x - a)) v) (imageCells src a) := by
        rw [hcells]
        rfl
      rw [hput, ih hwf (Memory.wf_memSet m _ v hm)]
      simp only [Bool.and_eq_true, decide_eq_true_eq] at hin
      by_cases hx : x = a + i
      · have hbelow : memGet src (a + i) = 0 := memGet_above src _ _ habove (by show a + i < x + 1; omega)
        have hplace : x - a = i := by omega
        have hval : v ≠ 0 := hv
        rw [if_pos hbelow, memGet, if_pos hx, if_neg hval, hplace, memGet_memSet_self m _ v hm]
      · rw [memGet, if_neg hx, memGet_memSet_ne m _ _ v (by omega) hm]
    · have hcells : imageCells ((x, v) :: src) a = imageCells src a := by
        rw [imageCells, List.filter_cons_of_neg (by exact hin)]
        rfl
      have hx : x ≠ a + i := fun h => hin (by simp [h, hi])
      rw [hcells, ih hwf hm, memGet, if_neg hx]

theorem memGet_memClear_inside {m : List Host.Cell} {a n x : ℕ} (hlo : a ≤ x) (hhi : x < a + n) :
    memGet (memClear m a n) x = 0 := by
  induction m with
  | nil => rfl
  | cons d m ih =>
    obtain ⟨y, v⟩ := d
    by_cases hy : (decide (y < a) || decide (a + n ≤ y)) = true
    · have hne : y ≠ x := by
        simp only [Bool.or_eq_true, decide_eq_true_eq] at hy
        omega
      have hcons : memClear ((y, v) :: m) a n = (y, v) :: memClear m a n := by
        rw [memClear, List.filter_cons_of_pos (by simpa using hy)]
        rfl
      rw [hcons, memGet, if_neg hne, ih]
    · have hcons : memClear ((y, v) :: m) a n = memClear m a n := by
        rw [memClear, List.filter_cons_of_neg (by simpa using hy)]
        rfl
      rw [hcons, ih]

theorem memGet_memClear_outside {m : List Host.Cell} {a n x : ℕ} (h : x < a ∨ a + n ≤ x) :
    memGet (memClear m a n) x = memGet m x := by
  have hfilter : memClear m a n = m.filter fun c => decide (c.1 < a) || decide (a + n ≤ c.1) := by
    simp only [memClear, ← Bool.decide_or]
  rw [hfilter]
  exact memGet_filter_of_keep m (fun y => decide (y < a) || decide (a + n ≤ y)) x (by simpa using h)

end Sys2Proof.Machine

open Sys2Proof Sys2Proof.Machine

/-- Settles O46, by the branches of the save and of the restore. -/
theorem Sys2Proof.contextsAreSavedAndRestored : Obligations.ContextsAreSavedAndRestored := by
  unfold Obligations.ContextsAreSavedAndRestored
  intro c s p hmoves
  refine ⟨?_, ?_⟩
  · intro hctx hrest u
    rw [exec_contextSaveDone, saveDone_rested hmoves hctx hrest]
  · intro k hpre hin hact hsaved hgood u
    rw [exec_contextRestoreDone, restoreDone_saved hmoves hpre hin hact hsaved, restoreFrom_sound hgood]

/-- Settles O47: a byte of the range is listed in the image, or was cleared before; the image has no other bytes. -/
theorem Sys2Proof.imagesKeepTheirBytes : Obligations.ImagesKeepTheirBytes := by
  unfold Obligations.ImagesKeepTheirBytes
  intro s a b hwf t
  have hclear := Memory.wf_memClear s.mem b 0x130000 hwf
  have hmem : t.mem = putCells b (memClear s.mem b 0x130000) (imageCells s.mem a) := rfl
  rw [hmem]
  refine ⟨Memory.wf_putCells hclear b _, fun i hi => ?_, fun x hx => ?_⟩
  · rw [memGet_putCells_image hi s.mem hwf hclear, memGet_memClear_inside (Nat.le_add_right b i) (by omega)]
    exact ite_eq_right_iff.mpr Eq.symm
  · rw [memGet_putCells_ne hclear _ fun e he => ?_, memGet_memClear_outside hx]
    have hlt := mem_imageCells_lt he
    omega

end Images

/-! ## Core windows and the Barometer (15 R508, 17 R552 to R556) -/

section Windows

namespace Sys2Proof.Machine

open Sys2Proof

variable {s s1 : State} {a : Agent} {addr len c off : ℕ} {w : Option Bytes} {bs : Bytes} {k : StewardId}

/-! ### Accesses to core windows -/

/-- Bytes that an access takes: its data's, or as many as it asks for. -/
def accessLength (len : ℕ) (w : Option Bytes) : ℕ := (w.map List.length).getD len

theorem windowAccess_waits (hplace : s.place addr = .core c off)
    (h : s.moves = false ∨ (s.coreHeld (s.agentJob a) c = true ∧ jobless a = false)) : s.windowAccess a addr len w = s := by
  have hwait : (!s.moves) = true ∨ (s.coreHeld (s.agentJob a) c = true ∧ (!jobless a) = true) :=
    h.imp (by simp [·]) (And.imp_right (by simp [·]))
  unfold State.windowAccess
  simp only [hplace]
  exact if_pos hwait

section Served

variable (hplace : s.place addr = .core c off) (hmoves : s.moves = true)
  (hfree : jobless a = true ∨ s.coreHeld (s.agentJob a) c = false)

include hplace hmoves hfree

theorem windowAccess_barred (hbar : s.stewardBarred a addr (accessLength len w) = some k) :
    s.windowAccess a addr len w = s.stewardFault k.val (if w.isSome then 7 else 5) addr := by
  have hgo : ¬((!s.moves) = true ∨ (s.coreHeld (s.agentJob a) c = true ∧ (!jobless a) = true)) := by
    obtain h | h := hfree <;> simp [hmoves, h]
  unfold State.windowAccess
  simp only [hplace]
  refine (if_neg hgo).trans ?_
  rw [accessLength] at hbar
  rw [hbar]

theorem windowAccess_foreign (hbar : s.stewardBarred a addr (accessLength len w) = none) (hjob : jobless a = false)
    (hown : s.jobOwns (s.agentJob a) addr (accessLength len w) = false) :
    s.windowAccess a addr len w = s.emit (.bytes a none) := by
  have hgo : ¬((!s.moves) = true ∨ (s.coreHeld (s.agentJob a) c = true ∧ (!jobless a) = true)) := by
    obtain h | h := hfree <;> simp [hmoves, h]
  have hout : (!jobless a) = true ∧ (!s.jobOwns (s.agentJob a) addr (accessLength len w)) = true := by simp [hjob, hown]
  unfold State.windowAccess
  simp only [hplace]
  refine (if_neg hgo).trans ?_
  rw [accessLength] at hbar
  rw [hbar]
  exact if_pos hout

variable (hown : jobless a = true ∨ s.jobOwns (s.agentJob a) addr (accessLength len w) = true)

include hown

theorem windowAccess_served (hbar : s.stewardBarred a addr (accessLength len w) = none) :
    s.windowAccess a addr len w = match w with
      | some bs => match s.writeMem (s.agentJob a) addr bs with
        | (.ok _, s) => s.emit (.bytes a (some []))
        | (.error e, s) => (s.emit (.bytes a none)).raiseAgent a e addr
      | none => match s.readMem (s.agentJob a) addr (accessLength len w) with
        | (.ok bs, s) => s.emit (.bytes a (some bs))
        | (.error e, s) => (s.emit (.bytes a none)).raiseAgent a e addr := by
  have hgo : ¬((!s.moves) = true ∨ (s.coreHeld (s.agentJob a) c = true ∧ (!jobless a) = true)) := by
    obtain h | h := hfree <;> simp [hmoves, h]
  have hin : ¬((!jobless a) = true ∧ (!s.jobOwns (s.agentJob a) addr (accessLength len w)) = true) := by
    obtain h | h := hown <;> simp [h]
  unfold State.windowAccess
  simp only [hplace]
  refine (if_neg hgo).trans ?_
  have hbar' := hbar
  rw [accessLength] at hbar'
  rw [hbar']
  cases w with
  | none => exact if_neg hin
  | some bs => exact if_neg hin

end Served

theorem exec_windowAccess (a : Agent) (addr : BitVec 48) (len : ℕ) (w : Option Bytes) (s : State) :
    exec (.windowAccess a addr len w) s = .next (s.windowAccess a addr.toNat len w) := rfl

/-! ### The Barometer -/

/-- The samples that an update keeps: the recent ones, and the newest of the others. -/
def Baro.kept (b : Baro) (now : ℕ) : List BaroSample :=
  b.recent now ++ (b.samples.find? fun y => y.at_ + 1000000000 ≤ (now : Int)).toList

/-- The Barometer after an update. -/
def State.baroAfter (s : State) : Baro := { s.baro with
  value := BitVec.ofNat 8 (baroValue s.baroScores), scores := s.baroScores.map (BitVec.ofNat 8)
  peak := BitVec.ofNat 8 (max s.baro.peak.toNat (baroValue s.baroScores))
  samples := ⟨s.now, s.baro.eccTotal, s.baro.poisonTotal, s.baro.linkTotal, s.baro.retrainTotal, s.baro.droopTotal,
    s.baro.seasonMax, s.locked⟩ :: s.baro.kept s.now
  seasonMax := s.season.offset.toInt.natAbs }

theorem baroUpdate_due (hup : s.fw.up = true) (hrun : s.season.running = true)
    (hdue : s.baro.lastUpdate / 10000000 < (s.now : Int) / 10000000) :
    s.baroUpdate = (s.partitions.map (·.1)).foldl (fun u p => u.secureCheck (baroValue s.baroScores) s.baroScores p)
      { s with baro := s.baroAfter } := by
  have hgo : ¬((!s.fw.up) = true ∨ (!s.season.running) = true ∨
      (s.now : Int) / 10000000 ≤ s.baro.lastUpdate / 10000000) := by simp [hup, hrun, hdue]
  exact if_neg hgo

theorem secureCheck_absent {b p : ℕ} {scores : List ℕ} (h : (s.partition p).state = .absent) :
    s.secureCheck b scores p = s := if_pos h

theorem Baro.mem_recent {b : Baro} {now : ℕ} {y : BaroSample} :
    y ∈ b.recent now ↔ y ∈ b.samples ∧ (now : Int) < y.at_ + 1000000000 := by
  simp [Baro.recent]

theorem Baro.kept_sub {b : Baro} {now : ℕ} {y : BaroSample} (h : y ∈ b.kept now) : y ∈ b.samples := by
  obtain h | h := List.mem_append.mp h
  · exact (Baro.mem_recent.mp h).1
  · exact List.mem_of_find?_eq_some (Option.mem_toList.mp h)

theorem Baro.recent_sub_kept {b : Baro} {now : ℕ} {y : BaroSample} (hy : y ∈ b.samples)
    (h : (now : Int) < y.at_ + 1000000000) : y ∈ b.kept now :=
  List.mem_append_left _ (Baro.mem_recent.mpr ⟨hy, h⟩)

theorem Baro.kept_old_le_one (b : Baro) (now : ℕ) :
    ((b.kept now).filter fun y => y.at_ + 1000000000 ≤ (now : Int)).length ≤ 1 := by
  have hrecent : ((b.recent now).filter fun y => y.at_ + 1000000000 ≤ (now : Int)) = [] :=
    List.filter_eq_nil_iff.mpr fun y hy => by simpa using (Baro.mem_recent.mp hy).2
  rw [Baro.kept, List.filter_append, hrecent, List.nil_append]
  refine (List.length_filter_le _ _).trans ?_
  cases (b.samples.find? fun y => y.at_ + 1000000000 ≤ (now : Int)) <;> simp

theorem exec_barometerUpdate (s : State) : exec .barometerUpdate s = .next s.baroUpdate := rfl

end Sys2Proof.Machine

open Sys2Proof Sys2Proof.Machine

/-- Settles O48, by the order of the checks of a window access, and by what an update of the Barometer keeps. -/
theorem Sys2Proof.coreWindowsAndBarometer : Obligations.CoreWindowsAndBarometer := by
  unfold Obligations.CoreWindowsAndBarometer
  refine ⟨?_, ?_⟩
  · intro a addr len s c off hplace
    refine ⟨?_, ?_, ?_, ?_, ?_, ?_, ?_⟩
    · intro hjob hheld w
      rw [exec_windowAccess, windowAccess_waits hplace (.inr ⟨hheld, hjob⟩)]
    · intro hmoves w
      rw [exec_windowAccess, windowAccess_waits hplace (.inl hmoves)]
    · intro k hmoves hfree hbar
      rw [exec_windowAccess, windowAccess_barred (w := none) hplace hmoves (.inr hfree) hbar]
      rfl
    · intro k bs hmoves hfree hbar
      rw [exec_windowAccess, windowAccess_barred (w := some bs) hplace hmoves (.inr hfree) hbar]
      rfl
    · intro hjob hmoves hfree hbar hown
      rw [exec_windowAccess, windowAccess_foreign (w := none) hplace hmoves (.inr hfree) hbar hjob hown]
    · intro bs s1 hmoves hbar hown hread
      have hread' : s.readMem (s.agentJob a) addr.toNat (accessLength len none) = (.ok bs, s1) := hread
      rw [exec_windowAccess, windowAccess_served (w := none) hplace hmoves (hown.imp_right And.left)
        (hown.imp_right And.right) hbar]
      simp only [hread']
    · intro bs s1 hmoves hbar hown hwrite
      rw [exec_windowAccess, windowAccess_served (w := some bs) hplace hmoves (hown.imp_right And.left)
        (hown.imp_right And.right) hbar]
      simp only [hwrite]
  · intro s hup hrun hdue
    refine ⟨{ s with baro := s.baroAfter }, rfl, rfl, ?_, fun u p h => secureCheck_absent h, rfl, rfl,
      s.baro.kept s.now, rfl, fun y hy => Baro.kept_sub hy, fun y hy h => Baro.recent_sub_kept hy h,
      s.baro.kept_old_le_one s.now⟩
    rw [exec_barometerUpdate, baroUpdate_due hup hrun hdue]

end Windows

/-! ## Checkpoint commands (17 R555 to R573) -/

section Checkpoints

namespace Sys2Proof.Machine

open Sys2Proof

variable {s v v1 v2 w : State} {t : Taken} {pb : Option Bytes} {b data seed image : Bytes} {p n kept available : ℕ}
  {d : DewStore} {r : CkptRun}

/-! ### Settings -/

theorem secureSet_ok (hid : t.byte 24 ≤ 31) (hact : (v.partition (t.byte 24)).state = .active) :
    v.secureSet t = (⟨.ok, none, none⟩, v.updPartition (t.byte 24) fun x =>
      { x with secureThreshold := BitVec.ofNat 8 (t.byte 25), secureArmed := true }) := by
  have hargs : ¬t.byte 24 > 31 := by omega
  have hstate : ¬((v.partition (t.byte 24)).state ≠ .active ∧ (v.partition (t.byte 24)).state ≠ .deferred) := by
    simp [hact]
  exact (if_neg hargs).trans (if_neg hstate)

theorem seedLoad_ok (hid : t.byte 24 ≤ 31) (hread : v.readPblock t pb (t.long 32) 16 = (.ok seed, v1))
    (hact : (v1.partition (t.byte 24)).state = .active) (hidle : v1.kernelBusy (t.byte 24) = false) :
    v.seedLoad t pb = (⟨.ok, some (crc64 seed), none⟩, (v1.loadSeed (t.byte 24) seed).updPartition (t.byte 24) fun x =>
      { x with seedDigest := some (crc64 seed) }) := by
  have hargs : ¬t.byte 24 > 31 := by omega
  have hstate : ¬((v1.partition (t.byte 24)).state ≠ .active ∨ v1.kernelBusy (t.byte 24) = true) := by simp [hact, hidle]
  refine (if_neg hargs).trans ?_
  rw [hread]
  exact if_neg hstate

theorem dewSetup_new (hmax : t.long 32 % 4096 = 0) (hbase : t.long 40 % regionUnit = 0)
    (hfit : t.long 40 / regionUnit < v.hbmUnits) (hnone : v.dewOf (BitVec.ofNat 32 (t.word 24)) = none)
    (hroom : v.ckpt.dew.length < 8) :
    v.dewSetup t = v.newStore (BitVec.ofNat 32 (t.word 24)) (t.long 32) (t.long 40 / regionUnit) := by
  have hargs : ¬(t.long 32 % 4096 ≠ 0 ∨ t.long 40 % regionUnit ≠ 0 ∨ t.long 40 / regionUnit ≥ v.hbmUnits) := by omega
  have hstate : ¬((v.dewOf (BitVec.ofNat 32 (t.word 24))).isSome = true ∨ v.ckpt.dew.length ≥ 8) := by
    simp [hnone, hroom]
  exact (if_neg hargs).trans (if_neg hstate)

theorem dewRelease_unused (hstore : v.dewOf (BitVec.ofNat 32 (t.word 24)) = some (n, d))
    (hidle : ∀ e ∈ v.ckpt.running, e.2.job ≠ BitVec.ofNat 32 (t.word 24)) :
    v.dewRelease t = (⟨.ok, none, none⟩, { v with
      regions := Tab.del v.regions d.region, ckpt := { v.ckpt with dew := Tab.del v.ckpt.dew n } }) := by
  have hbusy : (v.ckpt.running.any fun e => e.2.job = BitVec.ofNat 32 (t.word 24)) = false :=
    List.any_eq_false.mpr fun e he => by simp [hidle e he]
  rw [State.dewRelease, hstore]
  exact if_neg (by rw [hbusy]; decide)

theorem frostSetup_ok (hlo : 2 ≤ t.byte 28) (hhi : t.byte 28 ≤ 16) : v.frostSetup t = (⟨.ok, none, none⟩,
    { v with ckpt := { v.ckpt with frostKeep := Tab.put v.ckpt.frostKeep (t.word 24) (t.byte 28) } }) := by
  have hargs : ¬(t.byte 28 < 2 ∨ t.byte 28 > 16) := by omega
  exact if_neg hargs

theorem frostSetup_range (h : t.byte 28 < 2 ∨ 16 < t.byte 28) : v.frostSetup t = (⟨.invalidArgument, none, none⟩, v) :=
  if_pos h

/-! ### Writing -/

/-- The command of a checkpoint that is on its way. -/
def writeRun (v : State) (t : Taken) (b data : Bytes) : CkptRun :=
  ⟨t, false, t.byte 25, (manifestOf b).job, (manifestOf b).gen,
    v.completeManifest (t.byte 24) b (manifestOf b) (crc64 data) ++ data, crc64 data, 0, false, b, 0, []⟩

/-- A command of the checkpoint service runs for a partition. -/
def State.withRun (s : State) (p : ℕ) (r : CkptRun) : State :=
  { s with ckpt := { s.ckpt with running := Tab.put s.ckpt.running p r } }

theorem ckptWrite_goesOn (hread : v.readManifest t pb = (.ok b, v1)) (hcheck : v1.ckptCheck t (manifestOf b) true = none)
    (hdata : v1.readRanges (t.byte 24) (manifestOf b).ranges = (.ok data, v2)) :
    v.ckptWrite t pb = (none, (v2.withRun (t.byte 24) (writeRun v2 t b data)).sendImage t (manifestOf b)
      (v2.completeManifest (t.byte 24) b (manifestOf b) (crc64 data) ++ data)) := by
  rw [State.ckptWrite, hread]
  simp only [hcheck, hdata]
  rfl

theorem ckptWriteEnd_ok (hrun : Tab.get? s.ckpt.running p = some r) (hwrite : r.restore = false) (hup : s.fw.up = true)
    (hgood : r.failed = false) (hleft : r.left = 0) : s.ckptWriteEnd p true =
      ((s.keepGen r).endRun p).finishCommand r.cmd ⟨.ok, some (BitVec.ofNat 64 r.image.length), some r.digest⟩ := by
  have hgo : ¬(r.restore = true ∨ (!s.fw.up) = true) := by simp [hwrite, hup]
  have hmedia : ¬(r.tier = 1 ∧ (!true) = true) := by simp
  rw [State.ckptWriteEnd, hrun]
  exact (if_neg hgo).trans ((if_neg (by rw [hgood]; decide)).trans ((if_neg (not_not.mpr hleft)).trans (if_neg hmedia)))

/-! ### Restoring -/

section Restore

variable {stored : List (ℕ × Option Bytes)} (hread : v.readManifest t pb = (.ok b, v1))
  (hcheck : v1.ckptCheck t (manifestOf b) false = none) (hidle : v1.armedWork (t.byte 24) = false)

include hread hcheck hidle

theorem ckptRestore_stored (himage : v1.storedImage t (manifestOf b) stored = (.ok (image, kept, available), v2))
    (htier : t.byte 25 ≠ 0) (hsame : v2.mismatch (t.byte 24) (manifestOf b) (manifestOf image) = none) :
    v.ckptRestore t pb stored = (none, v2.withRun (t.byte 24) ⟨t, true, t.byte 25, (manifestOf b).job, (manifestOf b).gen,
      image, BitVec.ofNat 64 (manifestOf image).digest, 0, false, b, BitVec.ofNat 64 (14 - kept), []⟩) := by
  rw [State.ckptRestore, hread]
  simp only [hcheck, hidle, Bool.false_eq_true, if_false, if_neg htier, himage, hsame]
  rfl

theorem ckptRestore_dew (htier : t.byte 25 = 0) (hstore : v1.dewOf (manifestOf b).job = some (n, d)) :
    v.ckptRestore t pb stored = (none, (v1.withRun (t.byte 24)
      ⟨t, true, 0, (manifestOf b).job, (manifestOf b).gen, [], 0, 0, false, b, 0, []⟩).readShards (t.byte 24) d
        (manifestOf b).gen) := by
  rw [State.ckptRestore, hread]
  simp only [hcheck, hidle, Bool.false_eq_true, if_false, if_pos htier, hstore]
  rfl

end Restore

section RestoreEnd

variable (hrun : Tab.get? s.ckpt.running p = some r) (hrestore : r.restore = true) (hup : s.fw.up = true)
  (hgood : r.failed = false)

include hrun hgood

theorem ckptRestoreEnd_waits (hout : s.shardsOut p ≠ 0) : s.ckptRestoreEnd p = s := by
  have hwait : (!r.restore) = true ∨ (!s.fw.up) = true ∨ ((!r.failed) = true ∧ s.shardsOut p ≠ 0) :=
    .inr (.inr ⟨by rw [hgood]; rfl, hout⟩)
  rw [State.ckptRestoreEnd, hrun]
  exact if_pos hwait

include hrestore hup

theorem ckptRestoreEnd_ends (hout : s.shardsOut p = 0) : s.ckptRestoreEnd p =
    if r.tier = 0 then (s.endRun p).restoreDew p r else (s.endRun p).writeImage p r := by
  have hgo : ¬((!r.restore) = true ∨ (!s.fw.up) = true ∨ ((!r.failed) = true ∧ s.shardsOut p ≠ 0)) := by
    simp [hrestore, hup, hout]
  rw [State.ckptRestoreEnd, hrun]
  exact (if_neg hgo).trans (if_neg (by rw [hgood]; decide))

end RestoreEnd

theorem writeImage_sound (h : crc64 (r.image.drop 4096) = r.digest) : s.writeImage p r =
    (s.writeRanges p (r.image.drop 4096) (manifestOf r.manifest).ranges).finishCommand r.cmd
      ⟨.ok, some r.result, none⟩ := if_pos h

theorem restoreDew_sound
    (himage : s.storedImage r.cmd (manifestOf r.manifest) r.shards = (.ok (image, kept, available), w))
    (hsame : (w.noteMargin (manifestOf r.manifest) available).mismatch p (manifestOf r.manifest) (manifestOf image) = none)
    (hdigest : crc64 (image.drop 4096) = BitVec.ofNat 64 (manifestOf image).digest) :
    s.restoreDew p r = ((w.noteMargin (manifestOf r.manifest) available).writeRanges p (image.drop 4096)
      (manifestOf r.manifest).ranges).finishCommand r.cmd ⟨.ok, some (BitVec.ofNat 64 (14 - kept)), none⟩ := by
  rw [State.restoreDew, himage]
  simp only [hsame]
  exact writeImage_sound (r := { r with image := image, digest := BitVec.ofNat 64 (manifestOf image).digest,
                                        result := BitVec.ofNat 64 (14 - kept) }) hdigest

theorem exec_ckptWriteComplete (p : PartId) (ok : Bool) (s : State) :
    exec (.ckptWriteComplete p ok) s = .next (s.ckptWriteEnd p.val ok) := rfl

theorem exec_ckptRestoreComplete (p : PartId) (s : State) :
    exec (.ckptRestoreComplete p) s = .next (s.ckptRestoreEnd p.val) := rfl

end Sys2Proof.Machine

open Sys2Proof Sys2Proof.Machine

/-- Settles O49, by the checks of each checkpoint command in their order. -/
theorem Sys2Proof.checkpointsAreKept : Obligations.CheckpointsAreKept := by
  unfold Obligations.CheckpointsAreKept
  refine ⟨?_, ?_⟩
  · intro s v v1 t pb seed
    refine ⟨?_, ?_, ?_, ?_, ?_, ?_⟩
    · intro hrun hid hact
      exact congrArg Host.Outcome.next (command_answers hrun (secureSet_ok hid hact))
    · intro hrun hid hread hact hidle
      exact congrArg Host.Outcome.next (command_answers hrun (seedLoad_ok hid hread hact hidle))
    · intro hrun hmax hbase hfit hnone hroom a w hnew
      exact congrArg Host.Outcome.next (command_answers hrun ((dewSetup_new hmax hbase hfit hnone hroom).trans hnew))
    · intro n d hrun hstore hidle
      exact congrArg Host.Outcome.next (command_answers hrun (dewRelease_unused hstore hidle))
    · intro hrun
      refine ⟨fun hlo hhi => ?_, fun hrange => ?_⟩
      · exact congrArg Host.Outcome.next (command_answers hrun (frostSetup_ok hlo hhi))
      · exact congrArg Host.Outcome.next (command_answers hrun (frostSetup_range hrange))
    · intro hrun
      exact congrArg Host.Outcome.next (command_answers hrun rfl)
  · intro s v v1 v2 t pb b data
    refine ⟨?_, ?_, ?_, ?_, ?_, ?_, ?_⟩
    · intro hrun hread hcheck hdata m image run
      exact congrArg Host.Outcome.next (commandThen_goesOn hrun (ckptWrite_goesOn hread hcheck hdata))
    · intro p r hrun hwrite hup hgood hleft
      rw [exec_ckptWriteComplete, ckptWriteEnd_ok hrun hwrite hup hgood hleft]
    · intro stored image kept available hrun hread hcheck hidle himage htier hsame run
      exact congrArg Host.Outcome.next (commandThen_goesOn hrun (ckptRestore_stored hread hcheck hidle himage htier hsame))
    · intro stored n d hrun hread hcheck hidle htier hstore run
      exact congrArg Host.Outcome.next (commandThen_goesOn hrun (ckptRestore_dew hread hcheck hidle htier hstore))
    · intro p r hrun hrestore hup hgood hout
      rw [exec_ckptRestoreComplete, ckptRestoreEnd_waits hrun hgood hout]
    · intro p r image kept available w hrun hrestore hup hgood hout htier himage hsame hdigest
      rw [exec_ckptRestoreComplete, ckptRestoreEnd_ends hrun hrestore hup hgood hout, if_pos htier,
        restoreDew_sound himage hsame hdigest]
    · intro p r hrun hrestore hup hgood hout htier hdigest
      rw [exec_ckptRestoreComplete, ckptRestoreEnd_ends hrun hrestore hup hgood hout, if_neg htier,
        writeImage_sound hdigest]

end Checkpoints

/-! ## Host channels: doorbells, fetches, timers (16 R530 to R532) -/

section ChannelRings

namespace Sys2Proof.Machine

open Sys2Proof

variable {s : State} {n : ℕ} {bs : Bytes}

/-! ### A channel after firmware's work on it -/

theorem retime_channel_self (s : State) (n : ℕ) : ∃ stall since,
    (s.retime n).channel n = { s.channel n with stall := stall, since := since } := by
  unfold State.retime
  rw [State.updChannel_channel_self]
  exact ⟨_, _, rfl⟩

theorem hostRead_channel (s : State) (n m : ℕ) (a : Word) (len : ℕ) : (s.hostRead n a len).channel m = s.channel m := by
  unfold State.hostRead
  split <;> rfl

theorem hostRead_mem (s : State) (n : ℕ) (a : Word) (len : ℕ) : (s.hostRead n a len).mem = s.mem := by
  unfold State.hostRead
  split <;> rfl

theorem hostRead_out (s : State) (n : ChanId) (a : Word) (len : ℕ) :
    (s.hostRead n.val a len).out = .hostRead n (s.channel n.val).pasid? a len :: s.out := by
  rw [State.hostRead, dif_pos n.isLt]
  rfl

/-! ### Doorbells -/

theorem doorbell_within {v : BitVec 32} (hdrops : s.hostDrops = false) (hopen : (s.channel n).open_ = true)
    (hring : (v - (s.channel n).consumer).toNat ≤ 2 ^ (s.channel n).cmdLog2) :
    s.doorbell n v = (s.updChannel n fun c => { c with producer := v, hold := false }).retime n := by
  have hgo : ¬((!(s.channel n).open_) = true ∨ s.hostDrops = true) := by simp [hopen, hdrops]
  exact (if_neg hgo).trans (if_neg (not_lt.mpr hring))

theorem doorbell_beyond {v : BitVec 32} (hdrops : s.hostDrops = false) (hopen : (s.channel n).open_ = true)
    (hring : ¬(v - (s.channel n).consumer).toNat ≤ 2 ^ (s.channel n).cmdLog2) : s.doorbell n v = s.ringError n := by
  have hgo : ¬((!(s.channel n).open_) = true ∨ s.hostDrops = true) := by simp [hopen, hdrops]
  exact (if_neg hgo).trans (if_pos (not_le.mp hring))

theorem exec_chDoorbell (n : ChanId) (v : BitVec 32) (s : State) :
    exec (.chDoorbell n v) s = .next (s.doorbell n.val v) := rfl

/-! ### Fetches -/

/-- The entry that firmware fetches next, from its bytes. -/
def State.ringEntry (s : State) (n : ℕ) (bs : Bytes) (failed : Bool) : Taken :=
  ⟨BitVec.ofNat 16 n, (s.channel n).part, (s.channel n).consumer, stampEntry n bs, failed, 0⟩

/-- A channel whose next entry has been fetched. -/
def Channel.take (c : Channel) (t : Taken) : Channel :=
  { c with consumer := c.consumer + 1, fetched := c.fetched ++ [t], stall := 0, since := none, timedOut := false }

/-- The state in which the channel's next entry has been read. -/
def State.readRing (s : State) (n : ℕ) : State :=
  s.hostRead n ((s.channel n).entryAddr (s.channel n).consumer.toNat) 64

theorem takeRing_some (h : s.mayFetch n = true) : s.takeRing n (some bs) =
    ((s.readRing n).updChannel n fun c => c.take (s.ringEntry n (padTo 64 bs) false)).retime n := by
  have hgo : ¬(!s.mayFetch n) = true := by simp [h]
  exact if_neg hgo

theorem takeRing_none (h : s.mayFetch n = true) : s.takeRing n none =
    ((((s.readRing n).drawBytes 64).2.updChannel n fun c =>
      c.take (s.ringEntry n ((s.readRing n).drawBytes 64).1 true)).ringError n).retime n := by
  have hgo : ¬(!s.mayFetch n) = true := by simp [h]
  exact if_neg hgo

theorem takeRing_stays {e : Option Bytes} (h : s.mayFetch n = false) : s.takeRing n e = s :=
  if_pos (by rw [h]; rfl)

theorem takeRing_some_channel (h : s.mayFetch n = true) : ∃ stall since, (s.takeRing n (some bs)).channel n =
    { (s.channel n).take (s.ringEntry n (padTo 64 bs) false) with stall := stall, since := since } := by
  rw [takeRing_some h]
  obtain ⟨stall, since, hc⟩ := retime_channel_self
    ((s.readRing n).updChannel n fun c => c.take (s.ringEntry n (padTo 64 bs) false)) n
  rw [hc, State.updChannel_channel_self, State.readRing, hostRead_channel]
  exact ⟨stall, since, rfl⟩

theorem takeRing_none_channel (h : s.mayFetch n = true) : ∃ stall since bs, (s.takeRing n none).channel n =
    { (s.channel n).take (s.ringEntry n bs true) with ringError := true, stall := stall, since := since } := by
  rw [takeRing_none h]
  obtain ⟨stall, since, hc⟩ := retime_channel_self ((((s.readRing n).drawBytes 64).2.updChannel n fun c =>
    c.take (s.ringEntry n ((s.readRing n).drawBytes 64).1 true)).ringError n) n
  have hdraw : ((s.readRing n).drawBytes 64).2.channel n = s.channel n := hostRead_channel _ _ _ _ _
  rw [hc, State.ringError_channel_self, State.updChannel_channel_self, hdraw]
  exact ⟨stall, since, _, rfl⟩

theorem takeRing_mem (s : State) (n : ℕ) (e : Option Bytes) : (s.takeRing n e).mem = s.mem := by
  cases h : s.mayFetch n with
  | false => rw [takeRing_stays h]
  | true =>
    cases e with
    | some bs =>
      rw [takeRing_some h]
      exact hostRead_mem s n _ 64
    | none =>
      rw [takeRing_none h]
      refine (SameRings.ringError n _).mem.trans ?_
      exact hostRead_mem s n _ 64

/-- A set RING_ERROR stays set. -/
theorem takeRing_ringError {e : Option Bytes} (h : (s.channel n).ringError = true) :
    ((s.takeRing n e).channel n).ringError = true := by
  cases hfetch : s.mayFetch n with
  | false => rwa [takeRing_stays hfetch]
  | true =>
    cases e with
    | some bs =>
      obtain ⟨stall, since, hc⟩ := takeRing_some_channel (bs := bs) hfetch
      rw [hc]
      exact h
    | none =>
      obtain ⟨stall, since, bs, hc⟩ := takeRing_none_channel hfetch
      rw [hc]

theorem channelFetch_ok (s : State) (n : ℕ) (e : Option Bytes) : s.channelFetch n ⟨e, false⟩ = s.takeRing n e := rfl

theorem channelFetch_writeError {e : Option Bytes} (h : (s.channel n).open_ = true) :
    s.channelFetch n ⟨e, true⟩ = (s.ringError n).takeRing n e := by
  rw [State.channelFetch]
  simp only [h, and_self, if_true]

theorem exec_channelFetch (n : ChanId) (r : RingAnswer) (s : State) :
    exec (.channelFetch n r) s = .next (s.channelFetch n.val r) := rfl

/-! ### Timers -/

theorem channelTimeout_due (hcounts : s.chanCounts n = true) (hfirst : (s.channel n).timedOut = false)
    (hdue : (s.channel n).timeout.toNat * 1000000 ≤ s.stalled n) : s.channelTimeout n =
      (s.updChannel n fun c => { c with timeoutFlag := true, timedOut := true }).signalErr n := by
  have hgo : ¬((!s.chanCounts n) = true ∨ (s.channel n).timedOut = true ∨
      s.stalled n < (s.channel n).timeout.toNat * 1000000) := by simp [hcounts, hfirst, hdue]
  exact if_neg hgo

theorem channelTimeout_early (h : s.stalled n < (s.channel n).timeout.toNat * 1000000) : s.channelTimeout n = s :=
  if_pos (.inr (.inr h))

theorem exec_channelTimeout (n : ChanId) (s : State) : exec (.channelTimeout n) s = .next (s.channelTimeout n.val) := rfl

end Sys2Proof.Machine

open Sys2Proof Sys2Proof.Machine

/-- Settles O50, by the branches of the doorbell, of the fetch and of the timer. -/
theorem Sys2Proof.doorbellsAndFetches : Obligations.DoorbellsAndFetches := by
  unfold Obligations.DoorbellsAndFetches
  refine ⟨?_, ?_⟩
  · intro n s v hdrops hopen
    refine ⟨_, exec_chDoorbell n v s, ?_⟩
    by_cases hring : (v - (s.channel n.val).consumer).toNat ≤ 2 ^ (s.channel n.val).cmdLog2
    · rw [if_pos hring, doorbell_within hdrops hopen hring]
      have hsame := SameRings.retime n.val (s.updChannel n.val fun c => { c with producer := v, hold := false })
      obtain ⟨stall, since, hc⟩ :=
        retime_channel_self (s.updChannel n.val fun c => { c with producer := v, hold := false }) n.val
      rw [State.updChannel_channel_self] at hc
      refine ⟨hsame.mem, fun m hm => ?_, by rw [hc], by rw [hc], by rw [hc]⟩
      rw [hsame.others m hm, State.updChannel_channel_ne _ _ _ _ hm]
    · rw [if_neg hring, doorbell_beyond hdrops hopen hring]
      have hsame := SameRings.ringError n.val s
      exact ⟨hsame.mem, hsame.others, by rw [State.ringError_channel_self], by rw [State.ringError_channel_self],
        by rw [State.ringError_channel_self]⟩
  · intro n s
    refine ⟨?_, ?_, ?_, ?_, ?_, ?_⟩
    · intro bs hfetch
      obtain ⟨stall, since, hc⟩ := takeRing_some_channel (bs := bs) hfetch
      refine ⟨_, exec_channelFetch n _ s, takeRing_mem s n.val _, ?_, ?_, ?_, ?_⟩
      · rw [channelFetch_ok, takeRing_some hfetch]
        exact hostRead_out s n _ 64
      all_goals rw [channelFetch_ok, hc]; rfl
    · intro hfetch
      obtain ⟨stall, since, bs, hc⟩ := takeRing_none_channel hfetch
      refine ⟨_, s.ringEntry n.val bs true, exec_channelFetch n _ s, ?_, ?_, ?_, rfl⟩
      all_goals rw [channelFetch_ok, hc]
      all_goals rfl
    · intro e hfetch
      rw [exec_channelFetch, channelFetch_ok, takeRing_stays hfetch]
    · intro e hopen
      refine ⟨_, exec_channelFetch n _ s, ?_⟩
      rw [channelFetch_writeError hopen]
      exact takeRing_ringError (by rw [State.ringError_channel_self])
    · intro hcounts hfirst hdue
      rw [exec_channelTimeout, channelTimeout_due hcounts hfirst hdue]
    · intro hearly
      rw [exec_channelTimeout, channelTimeout_early hearly]

end ChannelRings

/-! ## Sender resets and firmware resets (16 R533, R534) -/

section FirmwareResets

namespace Sys2Proof.Machine

open Sys2Proof

variable {s s0 t u : State} {n m : ℕ}

/-! ### Sender resets -/

/-- A channel that is drained: nothing that has not been fetched is left to fetch. -/
def Channel.Drains (c d : Channel) : Prop :=
  d.draining = true ∧ d.producer = c.consumer ∧ d.notices = [] ∧ d.fetched = c.fetched

theorem senderReset_channels (s : State) (n : ℕ) : ∃ ch, s.senderReset n = { s with channels := ch } := by
  unfold State.senderReset
  split
  · exact ⟨_, rfl⟩
  · exact ⟨_, rfl⟩

theorem senderReset_ne (s : State) (h : m ≠ n) : (s.senderReset n).channel m = s.channel m := by
  unfold State.senderReset
  split
  · rfl
  · rw [(SameRings.retime n _).others m h, State.updChannel_channel_ne _ _ _ _ h]

theorem senderReset_stays (h : (s.channel n).open_ = false ∨ (s.channel n).draining = true) : s.senderReset n = s :=
  if_pos (h.imp_left fun h => by rw [h]; rfl)

theorem senderReset_self (hopen : (s.channel n).open_ = true) (hdrain : (s.channel n).draining = false) :
    (s.channel n).Drains ((s.senderReset n).channel n) := by
  have hgo : ¬((!(s.channel n).open_) = true ∨ (s.channel n).draining = true) := by simp [hopen, hdrain]
  rw [State.senderReset, if_neg hgo]
  obtain ⟨stall, since, hc⟩ := retime_channel_self
    (s.updChannel n fun c => { c with producer := c.consumer, notices := [], draining := true }) n
  rw [hc, State.updChannel_channel_self]
  exact ⟨rfl, rfl, rfl, rfl⟩

theorem flr_channels (s : State) : ∃ ch, s.flr = { s with channels := ch } := by
  refine foldl_invariant (I := fun u : State => ∃ ch, u = { s with channels := ch }) ?_ _ ⟨s.channels, rfl⟩
  rintro u n ⟨ch, rfl⟩
  obtain ⟨ch', h⟩ := senderReset_channels { s with channels := ch } n
  exact ⟨ch', h⟩

theorem flr_stays (h : (s.channel n).open_ = false ∨ (s.channel n).draining = true) :
    s.flr.channel n = s.channel n := by
  refine foldl_invariant (I := fun u : State => u.channel n = s.channel n) (fun u m hu => ?_) _ rfl
  by_cases hm : n = m
  · subst hm
    rwa [senderReset_stays (by rwa [hu])]
  · rw [senderReset_ne u hm, hu]

/-- An open channel is in the table. -/
theorem listed_of_open (h : (s.channel n).open_ = true) : ∃ c, (n, c) ∈ s.channels ∧ c.open_ = true := by
  have hrec : ∀ l : List (ℕ × Channel), (Tab.get Channel.closed l n).open_ = true → ∃ c, (n, c) ∈ l ∧ c.open_ = true := by
    intro l
    induction l with
    | nil => exact fun h => absurd h Bool.false_ne_true
    | cons e l ih =>
      obtain ⟨k, c⟩ := e
      intro h
      by_cases hk : k = n
      · have hget : Tab.get Channel.closed ((k, c) :: l) n = c := by simp [Tab.get, Tab.get?, hk]
        exact ⟨c, by rw [hk]; exact List.mem_cons_self, by rwa [hget] at h⟩
      · have hget : Tab.get Channel.closed ((k, c) :: l) n = Tab.get Channel.closed l n := by simp [Tab.get, Tab.get?, hk]
        obtain ⟨d, hd, hopen⟩ := ih (by rwa [hget] at h)
        exact ⟨d, List.mem_cons_of_mem _ hd, hopen⟩
  exact hrec s.channels h

theorem flr_drains (hopen : (s.channel n).open_ = true) (hdrain : (s.channel n).draining = false) :
    (s.channel n).Drains (s.flr.channel n) := by
  obtain ⟨c, hmem, -⟩ := listed_of_open hopen
  have hlisted : n ∈ s.channels.map (·.1) := List.mem_map.mpr ⟨_, hmem, rfl⟩
  have hstay : ∀ u : State, (s.channel n).Drains (u.channel n) → ∀ m, (s.channel n).Drains ((u.senderReset m).channel n) := by
    intro u hu m
    by_cases hm : n = m
    · subst hm
      rwa [senderReset_stays (.inr hu.1)]
    · rwa [senderReset_ne u hm]
  have hreach : ∀ u : State, u.channel n = s.channel n ∨ (s.channel n).Drains (u.channel n) →
      (s.channel n).Drains ((u.senderReset n).channel n) := by
    rintro u (hu | hu)
    · rw [← hu]
      exact senderReset_self (by rwa [hu]) (by rwa [hu])
    · exact hstay u hu n
  refine foldl_reaches (I := fun u => u.channel n = s.channel n ∨ (s.channel n).Drains (u.channel n))
    (Q := fun u => (s.channel n).Drains (u.channel n)) hlisted (fun u m hu => ?_) hreach (fun u m _ hu => hstay u hu m)
    (.inl rfl)
  by_cases hm : n = m
  · subst hm
    exact .inr (hreach u hu)
  · exact hu.imp (fun hu => by rw [senderReset_ne u hm, hu]) (fun hu => hstay u hu m)

theorem exec_functionLevelReset (s : State) : exec .functionLevelReset s = .next s.flr := rfl

theorem exec_hostPerstN (s : State) : exec .hostPerstN s = .next (s.flr.updMgmt fun m => { m with hostCfg := [] }) := rfl

theorem exec_pcieRefclkLoss (s : State) : exec .pcieRefclkLoss s =
    .next ((s.flr.updMgmt fun m => { m with hostCfg := [] }).updMgmt fun m => { m with pcieClk := false }) := rfl

/-- The lock words of a channel are free. -/
def State.freeLocks (s : State) (n : ℕ) : State :=
  s.updFw fun f => { f with locks := f.locks.filter fun e => e.2.1.toNat ≠ n }

theorem channelDrained_eq (hdrain : (s.channel n).draining = true) (hdone : s.uncompleted n = 0) :
    s.channelDrained n = if n = 0 then ((s.freeLocks n).updChannel 0 fun _ => Channel.management).updFw
      fun f => { f with windowBase := 0 } else (s.freeLocks n).updChannel n fun _ => Channel.closed := by
  have hgo : ¬((!(s.channel n).draining) = true ∨ s.uncompleted n ≠ 0) := by simp [hdrain, hdone]
  exact if_neg hgo

theorem freeLocks_locks {e : ℕ × BitVec 16 × ℕ} (h : e ∈ (s.freeLocks n).fw.locks) : e.2.1.toNat ≠ n :=
  of_decide_eq_true (List.mem_filter.mp h).2

theorem exec_channelDrained (n : ChanId) (s : State) : exec (.channelDrained n) s = .next (s.channelDrained n.val) := rfl

/-! ### Completions and the faults that they may raise -/

theorem RaiseFrame.wakeStewards {p : ℕ} (h : RaiseFrame s0 s) : RaiseFrame s0 (s.wakeStewards p) := by
  unfold State.wakeStewards
  exact RaiseFrame.foldl _ _ (fun _ _ h => h.updSteward) h

theorem RaiseFrame.updItem {p pos : ℕ} {f : Item → Item} (h : RaiseFrame s0 s) : RaiseFrame s0 (s.updItem p pos f) := by
  unfold State.updItem
  exact h.updPartition

theorem RaiseFrame.writeCompletion {p : ℕ} {i : Item} (h : RaiseFrame s0 s) : RaiseFrame s0 (s.writeCompletion p i) := by
  unfold State.writeCompletion
  dsimp only
  split
  next e => exact (RaiseFrame.sndOfEq e (h.of_mem (MemFrame.refl s).writeMem)).updItem.wakeStewards
  next e => exact (RaiseFrame.sndOfEq e (h.of_mem (MemFrame.refl s).writeMem)).raise

theorem RaiseFrame.completions {p : ℕ} (h : RaiseFrame s0 s) : RaiseFrame s0 (s.completions p) := by
  unfold State.completions
  exact (RaiseFrame.foldl _ _ (fun _ _ h => h.writeCompletion.ite h) h).updPartition

theorem RaiseFrame.finishItem {p pos doneAt : ℕ} {late : Option ℕ} (h : RaiseFrame s0 s) :
    RaiseFrame s0 (s.finishItem p pos doneAt late) := by
  unfold State.finishItem
  exact h.updItem.completions

theorem RaiseFrame.updCtx {p c : ℕ} {f : Core → Core} (h : RaiseFrame s0 s) : RaiseFrame s0 (s.updCtx p c f) := by
  unfold State.updCtx
  exact h.updCore.ite h.set

theorem RaiseFrame.serveWaiter {p : ℕ} {w : Waiter} (h : RaiseFrame s0 s) : RaiseFrame s0 (s.serveWaiter p w) := by
  cases w with
  | core c k f => exact h.updCtx
  | entry pos k => exact h.finishItem

theorem RaiseFrame.serveQueue {p i k : ℕ} (h : RaiseFrame s0 s) : RaiseFrame s0 (s.serveQueue p i k) := by
  induction k generalizing s with
  | zero => exact h
  | succ k ih =>
    unfold State.serveQueue
    dsimp only
    split
    · exact h
    · split
      · exact h.updPartition.serveWaiter
      · split
        · exact ih h.updPartition.serveWaiter.wakeStewards
        · exact h

theorem RaiseFrame.semAdd {p i a source : ℕ} (h : RaiseFrame s0 s) : RaiseFrame s0 (s.semAdd p i a source) := by
  unfold State.semAdd
  exact h.raise.ite h.updPartition.wakeStewards.serveQueue

theorem RaiseFrame.completeInternal {k : Taken} {st : Status} {r0 r1 : Word} (h : RaiseFrame s0 s) :
    RaiseFrame s0 (s.completeInternal k st r0 r1) := by
  unfold State.completeInternal
  exact (h.ite h.poke).semAdd.ite (h.ite h.poke)

theorem RaiseFrame.resultWord {r : Option Word} (h : RaiseFrame s0 s) : RaiseFrame s0 (s.resultWord r).2 := by
  cases r with
  | none => exact h.set
  | some v => exact h

theorem RaiseFrame.finishCommand {k : Taken} {a : Answer} (h : RaiseFrame s0 s) (hin : k.fromHost = false) :
    RaiseFrame s0 (s.finishCommand k a) := by
  have hbranch : s.finishCommand k a = ((s.resultWord a.r0).2.resultWord a.r1).2.completeInternal k a.status
      (s.resultWord a.r0).1 ((s.resultWord a.r0).2.resultWord a.r1).1 := if_neg (by rw [hin]; decide)
  rw [hbranch]
  exact h.resultWord.resultWord.completeInternal

theorem MemFrame.testRows {h c k : ℕ} {v : Word} (hs : MemFrame s0 s) : MemFrame s0 (s.testRows h c v k) := by
  unfold State.testRows
  exact hs.ite hs.set

theorem MemFrame.abortGens (h : MemFrame s0 s) : MemFrame s0 s.abortGens := by
  unfold State.abortGens State.abortGen
  exact MemFrame.foldl _ _ (fun _ _ h => h.ite h.set.testRows) h

/-! ### What a completion leaves alone -/

/-- The fields of a channel that completions, notices and timers change. -/
def Channel.SameLife (c d : Channel) : Prop :=
  d = { c with written := d.written, notices := d.notices, stall := d.stall, since := d.since }

theorem Channel.SameLife.refl (c : Channel) : c.SameLife c := rfl

theorem Channel.SameLife.trans {c d e : Channel} (h : c.SameLife d) (k : d.SameLife e) : c.SameLife e := by
  unfold Channel.SameLife at h k ⊢
  rw [k, h]

/-- From `s` to `t` firmware's own registers stay, and of the channels only completion rings and timers move. -/
structure CompletionFrame (s t : State) : Prop where
  fw : t.fw = { s.fw with locks := t.fw.locks }
  idle : s.ckpt.running = [] → t.ckpt.running = []
  life : ∀ m, (s.channel m).SameLife (t.channel m)

theorem CompletionFrame.refl (s : State) : CompletionFrame s s := ⟨rfl, id, fun _ => rfl⟩

theorem CompletionFrame.trans (h : CompletionFrame s t) (k : CompletionFrame t u) : CompletionFrame s u :=
  ⟨by rw [k.fw, h.fw], k.idle ∘ h.idle, fun m => (h.life m).trans (k.life m)⟩

theorem CompletionFrame.of_raise (h : RaiseFrame s t) : CompletionFrame s t := by
  refine ⟨?_, h.idle, fun m => ?_⟩
  · rw [h.eq]
  · rw [h.eq]
    exact .refl _

theorem CompletionFrame.emit (s : State) (m : OutMsg) : CompletionFrame s (s.emit m) := ⟨rfl, id, fun _ => rfl⟩

theorem CompletionFrame.updChannel {f : Channel → Channel} (hf : (s.channel n).SameLife (f (s.channel n))) :
    CompletionFrame s (s.updChannel n f) := by
  refine ⟨rfl, id, fun m => ?_⟩
  by_cases hm : m = n
  · rw [hm, State.updChannel_channel_self]
    exact hf
  · rw [State.updChannel_channel_ne _ _ _ _ hm]
    exact .refl _

theorem CompletionFrame.hostWrite (s : State) (n : ℕ) (a : Word) (bs : Bytes) : CompletionFrame s (s.hostWrite n a bs) := by
  unfold State.hostWrite
  split
  · exact .emit s _
  · exact .refl s

theorem CompletionFrame.signalCpl (s : State) (n : ℕ) : CompletionFrame s (s.signalCpl n) := by
  unfold State.signalCpl
  dsimp only
  split
  · exact .emit s _
  · exact .refl s

theorem CompletionFrame.signalErr (s : State) (n : ℕ) : CompletionFrame s (s.signalErr n) := by
  unfold State.signalErr
  dsimp only
  split
  · exact .emit s _
  · exact .refl s

theorem CompletionFrame.retime (s : State) (n : ℕ) : CompletionFrame s (s.retime n) := by
  unfold State.retime
  exact .updChannel rfl

theorem CompletionFrame.writeNotice (s : State) (n : ℕ) (x : Notice) : CompletionFrame s (s.writeNotice n x) := by
  refine .trans (.trans (.trans ?_ (.hostWrite _ n _ _)) (.updChannel (by exact rfl))) (.signalCpl _ n)
  exact foldl_invariant (fun u i hu => hu.trans (.hostWrite u n _ _)) _ (.refl s)

theorem CompletionFrame.flushNotices (s : State) (n k : ℕ) : CompletionFrame s (s.flushNotices n k) := by
  induction k generalizing s with
  | zero => exact .refl s
  | succ k ih =>
    unfold State.flushNotices
    dsimp only
    split
    · exact .refl s
    · split
      · exact .refl s
      · exact .trans (.trans (.updChannel (by exact rfl)) (.writeNotice _ n _)) (ih _)

theorem CompletionFrame.afterRoom (s : State) (n : ℕ) : CompletionFrame s (s.afterRoom n) :=
  .trans (.flushNotices s n 33) (.retime _ n)

theorem CompletionFrame.completeHost (s : State) (k : Taken) (st : Status) (r0 r1 : Word) :
    CompletionFrame s (s.completeHost k st r0 r1) := by
  unfold State.completeHost
  dsimp only
  split
  · exact .refl s
  · exact .trans (.trans (.trans (.hostWrite s _ _ _) (.updChannel (by exact rfl))) (.signalCpl _ _)) (.afterRoom _ _)

theorem CompletionFrame.finishCommand (s : State) (k : Taken) (a : Answer) : CompletionFrame s (s.finishCommand k a) := by
  cases hin : k.fromHost with
  | false => exact .of_raise ((RaiseFrame.refl s).finishCommand hin)
  | true =>
    have hbranch : s.finishCommand k a = ((s.resultWord a.r0).2.resultWord a.r1).2.completeHost k a.status
      (s.resultWord a.r0).1 ((s.resultWord a.r0).2.resultWord a.r1).1 := if_pos hin
    rw [hbranch]
    exact .trans (.of_raise (RaiseFrame.refl s).resultWord.resultWord) (.completeHost _ k _ _ _)

/-! ### The restart -/

/-- A channel after a firmware restart. -/
def Channel.Restarted (c d : Channel) : Prop :=
  d.generation = c.generation + 1 ∧ d.reset = true ∧ d.fetched = [] ∧ d.hold = true

theorem Channel.Restarted.then {c d e : Channel} (h : c.Restarted d) (k : d.SameLife e) : c.Restarted e := by
  rw [k]
  exact h

theorem Channel.Restarted.after {c d e : Channel} (h : c.SameLife d) (k : d.Restarted e) : c.Restarted e := by
  rw [h] at k
  exact k

/-- Held and fetched commands complete one after the other, each leaving the channel's list. -/
def State.abortFetched (n : ℕ) (s : State) (t : Taken) : State :=
  (s.updChannel n fun c => { c with fetched := c.fetched.tail }).finishCommand t ⟨.abortedByReset, none, none⟩

/-- While commands complete, channel `n` has its generation, RESET and hold, and what is left to complete. -/
structure Aborting (s : State) (n : ℕ) (left : List Taken) (t : State) : Prop where
  fw : t.fw = { s.fw with locks := t.fw.locks }
  idle : s.ckpt.running = [] → t.ckpt.running = []
  others : ∀ m, m ≠ n → (s.channel m).SameLife (t.channel m)
  own : ∃ c : Channel, t.channel n = { c with fetched := left } ∧
    c.generation = (s.channel n).generation + 1 ∧ c.reset = true ∧ c.hold = true

theorem Aborting.completes {left : List Taken} (h : Aborting s n left t) (k : CompletionFrame t u) : Aborting s n left u where
  fw := by rw [k.fw, h.fw]
  idle := k.idle ∘ h.idle
  others m hm := (h.others m hm).trans (k.life m)
  own := by
    obtain ⟨c, hc, hlife⟩ := h.own
    have hk := k.life n
    rw [hc] at hk
    exact ⟨{ c with written := (u.channel n).written, notices := (u.channel n).notices, stall := (u.channel n).stall,
                    since := (u.channel n).since }, hk, hlife⟩

theorem Aborting.pop {x : Taken} {left : List Taken} (h : Aborting s n (x :: left) t) (y : Taken) :
    Aborting s n left (t.abortFetched n y) := by
  have hpop : Aborting s n left (t.updChannel n fun c => { c with fetched := c.fetched.tail }) := by
    refine ⟨h.fw, h.idle, fun m hm => ?_, ?_⟩
    · rw [State.updChannel_channel_ne _ _ _ _ hm]
      exact h.others m hm
    · obtain ⟨c, hc, hlife⟩ := h.own
      rw [State.updChannel_channel_self, hc]
      exact ⟨c, rfl, hlife⟩
  unfold State.abortFetched
  exact hpop.completes (.finishCommand _ y _)

theorem Aborting.foldl (l : List Taken) (h : Aborting s n l t) : Aborting s n [] (l.foldl (State.abortFetched n) t) := by
  induction l generalizing t with
  | nil => exact h
  | cons x l ih => exact ih (h.pop x)

theorem restartChannel_aborting (s : State) (n : ℕ) (aborted : List Taken) :
    Aborting s n [] (s.restartChannel n aborted) := by
  have hstart : Aborting s n (aborted ++ (s.channel n).fetched) (s.updChannel n fun c => { c with
      generation := c.generation + 1, reset := true, fetched := aborted ++ (s.channel n).fetched, hold := true }) := by
    refine ⟨rfl, id, fun m hm => ?_, ?_⟩
    · rw [State.updChannel_channel_ne _ _ _ _ hm]
      exact .refl _
    · rw [State.updChannel_channel_self]
      exact ⟨{ s.channel n with generation := (s.channel n).generation + 1, reset := true, hold := true }, rfl, rfl, rfl, rfl⟩
  exact (Aborting.foldl _ (hstart.completes (.signalErr _ n))).completes (.afterRoom _ n)

/-- Channels that restart one after the other. -/
structure Restarting (s : State) (l : List ℕ) (t : State) : Prop where
  fw : t.fw = { s.fw with locks := t.fw.locks }
  idle : s.ckpt.running = [] → t.ckpt.running = []
  others : ∀ m, m ∉ l → (s.channel m).SameLife (t.channel m)
  own : ∀ m ∈ l, (s.channel m).Restarted (t.channel m)

theorem restarting_foldl (aborted : ℕ → List Taken) (l : List ℕ) (hl : l.Nodup) (s : State) :
    Restarting s l (l.foldl (fun s n => s.restartChannel n (aborted n)) s) := by
  induction l generalizing s with
  | nil => exact ⟨rfl, id, fun _ _ => rfl, fun m hm => absurd hm List.not_mem_nil⟩
  | cons n l ih =>
    obtain ⟨hn, hl⟩ := List.nodup_cons.mp hl
    have hfirst := restartChannel_aborting s n (aborted n)
    have hrest := ih hl (s.restartChannel n (aborted n))
    refine ⟨by rw [List.foldl_cons, hrest.fw, hfirst.fw], hrest.idle ∘ hfirst.idle, fun m hm => ?_, fun m hm => ?_⟩
    · obtain ⟨hne, hm⟩ := not_or.mp (mt List.mem_cons.mpr hm)
      exact (hfirst.others m hne).trans (hrest.others m hm)
    · by_cases hmn : m = n
      · subst hmn
        obtain ⟨c, hc, hgen, hreset, hhold⟩ := hfirst.own
        have hown : (s.channel m).Restarted ((s.restartChannel m (aborted m)).channel m) := by
          rw [hc]
          exact ⟨hgen, hreset, rfl, hhold⟩
        exact hown.then (hrest.others m hn)
      · exact .after (hfirst.others m hmn) (hrest.own m ((List.mem_cons.mp hm).resolve_left hmn))

/-- What a restart sets before commands complete. -/
def State.bootFirmware (s : State) : State :=
  ({ (if s.fw.testing.isSome then s.abortGens else s).updFw fun f =>
      { f with up := true, resets := f.resets + 1, taken := [], testing := none } with
    ckpt := { (if s.fw.testing.isSome then s.abortGens else s).ckpt with running := [] } }).updFabric fun b =>
      { b with xacts := b.xacts.filter fun x => !x.ofCkpt }

/-- The commands of internal senders complete first. -/
def State.abortInner (s : State) (l : List Taken) : State :=
  l.foldl (fun s t => s.finishCommand t ⟨.abortedByReset, none, none⟩) s

theorem restart_eq (hdown : s.fw.up = false) (hload : s.fw.loaded = true) (hwarm : s.mgmt.warmEntered = false) :
    s.restart = (((s.bootFirmware.abortInner (s.held fun t => !t.fromHost)).channels.filter fun e => e.2.open_).map
      (·.1)).foldl (fun u n => u.restartChannel n ((s.held fun t => t.fromHost).filter fun t => t.sender.toNat = n))
        (s.bootFirmware.abortInner (s.held fun t => !t.fromHost)) := by
  have hgo : ¬(s.fw.up = true ∨ (!s.fw.loaded) = true ∨ s.mgmt.warmEntered = true) := by simp [hdown, hload, hwarm]
  exact if_neg hgo

theorem abortInner_frame (s : State) (l : List Taken) (h : ∀ k ∈ l, k.fromHost = false) :
    RaiseFrame s (s.abortInner l) := by
  have hrec : ∀ l : List Taken, (∀ k ∈ l, k.fromHost = false) → ∀ u, RaiseFrame s u → RaiseFrame s (u.abortInner l) := by
    intro l
    induction l with
    | nil => exact fun _ _ hu => hu
    | cons k l ih =>
      intro h u hu
      exact ih (fun j hj => h j (List.mem_cons_of_mem _ hj)) _ (hu.finishCommand (h k List.mem_cons_self))
  exact hrec l h s (.refl s)

theorem State.bootFirmware_eq (s : State) : s.bootFirmware.channels = s.channels ∧ s.bootFirmware.ckpt.running = [] ∧
    s.bootFirmware.fw = { s.fw with
      up := true, resets := s.fw.resets + 1, taken := [], testing := none, locks := s.bootFirmware.fw.locks } := by
  have hframe : RaiseFrame s (if s.fw.testing.isSome then s.abortGens else s) :=
    ((RaiseFrame.refl s).of_mem (MemFrame.refl s).abortGens).ite (.refl s)
  refine ⟨?_, rfl, ?_⟩
  · have hch := congrArg State.channels hframe.eq
    exact hch
  · have hfw := congrArg State.fw hframe.eq
    unfold State.bootFirmware State.updFw State.updFabric
    dsimp only
    rw [hfw]

/-- The state after the commands of internal senders have completed. -/
def State.restartBase (s : State) : State := s.bootFirmware.abortInner (s.held fun t => !t.fromHost)

theorem State.restartBase_frame (s : State) : RaiseFrame s.bootFirmware s.restartBase :=
  abortInner_frame s.bootFirmware _ fun k hk => by simpa using (List.mem_filter.mp hk).2

theorem restartBase_channels (s : State) : s.restartBase.channels = s.channels := by
  rw [s.restartBase_frame.eq]
  exact s.bootFirmware_eq.1

section Restart

variable (hdown : s.fw.up = false) (hload : s.fw.loaded = true) (hwarm : s.mgmt.warmEntered = false)
  (hnodup : (s.channels.map (·.1)).Nodup)

include hdown hload hwarm hnodup

theorem restart_restarting :
    Restarting s.restartBase ((s.channels.filter fun e => e.2.open_).map (·.1)) s.restart := by
  have heq := restart_eq hdown hload hwarm
  change s.restart = ((s.restartBase.channels.filter fun e => e.2.open_).map (·.1)).foldl _ s.restartBase at heq
  rw [restartBase_channels] at heq
  rw [heq]
  exact restarting_foldl _ _ (hnodup.sublist (List.filter_sublist.map _)) _

/-- Firmware after a restart, but for lock words that a teardown frees. -/
theorem restart_fw {α : Type} (g : Firmware → α) (hg : ∀ f l, g { f with locks := l } = g f) : g s.restart.fw =
    g { s.fw with up := true, resets := s.fw.resets + 1, taken := [], testing := none } := by
  obtain ⟨-, -, hfw⟩ := s.bootFirmware_eq
  rw [(restart_restarting hdown hload hwarm hnodup).fw, hg, (CompletionFrame.of_raise s.restartBase_frame).fw, hg, hfw]
  exact hg { s.fw with up := true, resets := s.fw.resets + 1, taken := [], testing := none } _

theorem restart_running : s.restart.ckpt.running = [] := by
  obtain ⟨-, hrun, -⟩ := s.bootFirmware_eq
  exact (restart_restarting hdown hload hwarm hnodup).idle (s.restartBase_frame.idle hrun)

theorem restart_channel (hopen : (s.channel n).open_ = true) : (s.channel n).Restarted (s.restart.channel n) := by
  obtain ⟨c, hmem, hc⟩ := listed_of_open hopen
  have hsame : s.restartBase.channel n = s.channel n := by
    rw [State.channel, restartBase_channels]
    rfl
  have hown := (restart_restarting hdown hload hwarm hnodup).own n
    (List.mem_map.mpr ⟨(n, c), List.mem_filter.mpr ⟨hmem, hc⟩, rfl⟩)
  rwa [hsame] at hown

end Restart

theorem exec_filinaWatchdog (s : State) :
    exec .filinaWatchdog s = .next { s with fw := { s.fw with up := false } } := rfl

theorem exec_firmwareRestart (h : s.starting = false) : exec .firmwareRestart s = .next s.restart := by
  have hexec : exec .firmwareRestart s = .next (if s.starting then s else s.restart) := rfl
  rw [hexec, if_neg (by rw [h]; decide)]

end Sys2Proof.Machine

open Sys2Proof Sys2Proof.Machine

/-- Settles O52: a reset drains every open channel once, and a restart completes what services held and then restarts
each open channel once. -/
theorem Sys2Proof.channelsAndFirmwareReset : Obligations.ChannelsAndFirmwareReset := by
  unfold Obligations.ChannelsAndFirmwareReset
  refine ⟨?_, ?_⟩
  · intro s
    obtain ⟨ch, hflr⟩ := flr_channels s
    have hmem : s.flr.mem = s.mem := by rw [hflr]
    have hclk : s.flr.mgmt.pcieClk = s.mgmt.pcieClk := by rw [hflr]
    have hdrains : ∀ n, (s.channel n).open_ = true → (s.channel n).draining = false →
        (s.channel n).Drains (s.flr.channel n) := fun n hopen hdrain => flr_drains hopen hdrain
    refine ⟨fun c hc => ?_, ?_, ?_, ?_⟩
    · simp only [List.mem_cons, List.not_mem_nil, or_false] at hc
      obtain rfl | rfl | rfl := hc
      · exact ⟨_, exec_functionLevelReset s, hmem, hdrains, fun n => flr_stays⟩
      · exact ⟨_, exec_hostPerstN s, hmem, hdrains, fun n => flr_stays⟩
      · exact ⟨_, exec_pcieRefclkLoss s, hmem, hdrains, fun n => flr_stays⟩
    · exact ⟨_, exec_pcieRefclkLoss s, rfl, rfl⟩
    · exact ⟨_, exec_hostPerstN s, hclk, rfl⟩
    · intro n hdrain hdone
      have hexec := (exec_channelDrained n s).trans (congrArg _ (channelDrained_eq hdrain hdone))
      by_cases hn : n.val = 0
      · rw [if_pos hn] at hexec
        have hself : (((s.freeLocks n.val).updChannel 0 fun _ => Channel.management).updFw
            fun f => { f with windowBase := 0 }).channel n.val = Channel.management := by
          rw [hn, State.updFw_channel]
          exact State.updChannel_channel_self _ 0 _
        refine ⟨_, hexec, by rw [hself]; rfl, by rw [hself]; rfl, by rw [hself]; rfl, by rw [hself, hn]; rfl, fun _ => rfl,
          fun e he => freeLocks_locks he, fun m hm => ?_⟩
        rw [State.updFw_channel]
        exact State.updChannel_channel_ne _ _ _ _ (hn ▸ hm)
      · rw [if_neg hn] at hexec
        have hself : ((s.freeLocks n.val).updChannel n.val fun _ => Channel.closed).channel n.val = Channel.closed :=
          State.updChannel_channel_self _ _ _
        refine ⟨_, hexec, by rw [hself]; rfl, by rw [hself]; rfl, by rw [hself]; rfl, ?_, fun h => absurd h hn,
          fun e he => freeLocks_locks he, fun m hm => ?_⟩
        · rw [hself, decide_eq_false hn]
          rfl
        · exact State.updChannel_channel_ne _ _ _ _ hm
  · intro s
    refine ⟨exec_filinaWatchdog s, ?_⟩
    intro hstart hdown hload hwarm hnodup
    exact ⟨_, exec_firmwareRestart hstart,
      restart_fw hdown hload hwarm hnodup Firmware.up fun _ _ => rfl,
      restart_fw hdown hload hwarm hnodup Firmware.resets fun _ _ => rfl,
      restart_fw hdown hload hwarm hnodup Firmware.taken fun _ _ => rfl,
      restart_fw hdown hload hwarm hnodup Firmware.testing fun _ _ => rfl,
      restart_running hdown hload hwarm hnodup, fun n hopen => restart_channel hdown hload hwarm hnodup hopen⟩

end FirmwareResets

/-! ## Services and mailboxes (16 R542 to R544) -/

section Services

namespace Sys2Proof.Machine

open Sys2Proof

variable {s v : State} {t : Taken} {key k p m : ℕ} {ks : List ℕ} {rest : List Taken}

/-! ### Taking -/

/-- The entry of a key in a table whose keys differ. -/
theorem Tab.get_of_mem {α : Type} (d : α) {l : List (ℕ × α)} (hl : (l.map (·.1)).Nodup) {e : ℕ × α} (he : e ∈ l) :
    Tab.get d l e.1 = e.2 := by
  induction l with
  | nil => exact absurd he List.not_mem_nil
  | cons x l ih =>
    obtain ⟨hx, hl⟩ := List.nodup_cons.mp hl
    obtain rfl | he := List.mem_cons.mp he
    · simp [Tab.get, Tab.get?]
    · have hne : x.1 ≠ e.1 := fun h => hx (List.mem_map.mpr ⟨e, he, h.symm⟩)
      have hget : Tab.get d (x :: l) e.1 = Tab.get d l e.1 := by
        simp [Tab.get, Tab.get?, hne]
      rw [hget, ih hl he]

theorem ckptKeys_head (hl : (s.fw.mailboxes.map (·.1)).Nodup) (h : key ∈ s.ckptKeys) :
    ∃ t rest, Tab.get [] s.fw.mailboxes key = t :: rest := by
  obtain ⟨e, he, rfl⟩ := List.mem_map.mp h
  obtain ⟨hmem, hcond⟩ := List.mem_filter.mp he
  rw [Tab.get_of_mem [] hl hmem]
  refine List.exists_cons_of_ne_nil fun hnil => ?_
  rw [hnil] at hcond
  simp at hcond

theorem getD_mod_mem {l : List ℕ} (hl : l ≠ []) (n d : ℕ) : l.getD (n % l.length) d ∈ l := by
  have hlt : n % l.length < l.length := Nat.mod_lt _ (List.length_pos_iff.mpr hl)
  rw [List.getD_eq_getElem _ _ hlt]
  exact List.getElem_mem hlt

theorem takeMailbox_cons (h : Tab.get [] s.fw.mailboxes m = t :: rest) : s.takeMailbox m =
    (s.updFw fun f => { f with mailboxes := Tab.put f.mailboxes m rest }).accept t := by
  rw [State.takeMailbox, h]

theorem takeChannel_cons (h : (s.channel m).fetched = t :: rest) :
    s.takeChannel m = (s.updChannel m fun c => { c with fetched := rest }).accept t := by
  rw [State.takeChannel, h]

/-- The state after the free value that chooses a service. -/
def State.drawn (s : State) : State := { s with free := s.free + 1 }

/-- The senders that the command service may take from now. -/
def State.readyNow (s : State) : List ℕ := if s.serviceIdle then s.readyKeys else []

theorem readyNow_nil (h : s.serviceIdle = false ∨ s.readyKeys = []) : s.readyNow = [] := by
  obtain h | h := h
  · exact if_neg (by rw [h]; decide)
  · rw [State.readyNow, h, ite_self]

theorem readyNow_cons (hidle : s.serviceIdle = true) (h : s.readyKeys = k :: ks) : s.readyNow = k :: ks := by
  rw [State.readyNow, if_pos hidle, h]

/-- The command service's turn. -/
def State.turnKey (s : State) (k : ℕ) (ks : List ℕ) : ℕ := ((k :: ks).find? fun j => s.fw.rr < j).getD k

/-- The command service takes from the sender whose turn it is. -/
def State.takeTurn (s : State) (key : ℕ) : State :=
  if key < 48 then (s.drawn.updFw fun f => { f with rr := key }).takeMailbox key
  else (s.drawn.updFw fun f => { f with rr := key }).takeChannel (key - 48)

section Up

variable (hup : s.fw.up = true)

include hup

theorem serviceTake_none (hready : s.readyNow = []) (hckpt : s.ckptKeys = []) : s.serviceTake = s.drawn := by
  have hgo : ¬(!s.fw.up) = true := by simp [hup]
  have hckpt' : s.drawn.ckptKeys = [] := hckpt
  unfold State.serviceTake
  rw [if_neg hgo]
  change (match s.readyNow, s.drawn.ckptKeys with
    | [], [] => s.drawn
    | [], m :: ms => s.drawn.takeMailbox ((m :: ms).getD (s.draw.1 / 2 % (m :: ms).length) m)
    | k :: ks, l => _) = _
  rw [hready, hckpt']

theorem serviceTake_ckpt {ms : List ℕ} (hready : s.readyNow = []) (hckpt : s.ckptKeys = m :: ms) :
    s.serviceTake = s.drawn.takeMailbox ((m :: ms).getD (s.draw.1 / 2 % (m :: ms).length) m) := by
  have hgo : ¬(!s.fw.up) = true := by simp [hup]
  have hckpt' : s.drawn.ckptKeys = m :: ms := hckpt
  unfold State.serviceTake
  rw [if_neg hgo]
  change (match s.readyNow, s.drawn.ckptKeys with
    | [], [] => s.drawn
    | [], m :: ms => s.drawn.takeMailbox ((m :: ms).getD (s.draw.1 / 2 % (m :: ms).length) m)
    | k :: ks, l => _) = _
  rw [hready, hckpt']

theorem serviceTake_turn (hready : s.readyNow = k :: ks) : s.serviceTake =
    if s.draw.1 % 2 = 1 ∧ (!s.ckptKeys.isEmpty) = true then
      s.drawn.takeMailbox (s.ckptKeys.getD (s.draw.1 / 2 % s.ckptKeys.length) 32)
    else s.takeTurn (s.turnKey k ks) := by
  have hgo : ¬(!s.fw.up) = true := by simp [hup]
  unfold State.serviceTake
  rw [if_neg hgo]
  change (match s.readyNow, s.drawn.ckptKeys with
    | [], [] => s.drawn
    | [], m :: ms => s.drawn.takeMailbox ((m :: ms).getD (s.draw.1 / 2 % (m :: ms).length) m)
    | k :: ks, l =>
      if s.draw.1 % 2 = 1 ∧ !l.isEmpty then s.drawn.takeMailbox (l.getD (s.draw.1 / 2 % l.length) 32)
      else s.takeTurn (s.turnKey k ks)) = _
  rw [hready]
  rfl

end Up

/-- The checkpoint service takes the head of one of its mailboxes. -/
theorem takeMailbox_ckpt (hl : (s.fw.mailboxes.map (·.1)).Nodup) (h : key ∈ s.ckptKeys) :
    ∃ t rest, Tab.get [] s.fw.mailboxes key = t :: rest ∧ s.drawn.takeMailbox key =
      (s.drawn.updFw fun f => { f with mailboxes := Tab.put f.mailboxes key rest }).accept t := by
  obtain ⟨t, rest, hget⟩ := ckptKeys_head hl h
  exact ⟨t, rest, hget, takeMailbox_cons hget⟩

theorem exec_commandServiceTake (s : State) : exec .commandServiceTake s = .next s.serviceTake := rfl

/-! ### Admitting -/

/-- A command as it is taken, with the partitions that are active then. -/
def State.stamped (s : State) (t : Taken) : Taken := { t with active := s.activeMask }

theorem accept_readError (h : t.readError = true) : s.accept t = s.finishCommand (s.stamped t) ⟨.faulted, none, none⟩ :=
  if_pos h

section Readable

variable (hread : t.readError = false) (hreply : s.badReply (s.stamped t) = false)

include hread hreply

theorem accept_unlisted (hop : listedCommand t.op = false) :
    s.accept t = s.finishCommand (s.stamped t) ⟨.unsupported, none, none⟩ := by
  have hlist : (!listedCommand t.op) = true := by rw [hop]; rfl
  exact (if_neg (Bool.eq_false_iff.mp hread)).trans ((if_neg (Bool.eq_false_iff.mp hreply)).trans (if_pos hlist))

theorem accept_listed (hop : listedCommand t.op = true) :
    s.accept t = s.updFw fun f => { f with taken := f.taken ++ [s.stamped t] } := by
  have hlist : ¬(!listedCommand t.op) = true := by rw [hop]; decide
  exact (if_neg (Bool.eq_false_iff.mp hread)).trans ((if_neg (Bool.eq_false_iff.mp hreply)).trans (if_neg hlist))

end Readable

/-! ### Posts -/

/-- What a post's result does to the steward. -/
def State.postEnd (s : State) (k : StewardId) (m : ℕ) (r : ℕ) : State :=
  let v := s.updSteward k.val fun w => { w with mbxResult := BitVec.ofNat 2 r }
  if r = 0 then v.emit (.answer (.steward k) (some 0))
  else { v with free := v.free + 1 }.stewardTrap k.val 7 (Config.freeWord v.free)
    (BitVec.ofNat 64 (ctrlBase + 0x800000 + m * 8))

theorem postEnd_ok (s : State) (k : StewardId) (m : ℕ) : s.postEnd k m 0 =
    (s.updSteward k.val fun w => { w with mbxResult := 0 }).emit (.answer (.steward k) (some 0)) := rfl

theorem stewardPost_eq {k : StewardId} {addr : Word} {r : ℕ} (hpart : s.stewardPart k.val = some p)
    (hpost : s.postFrom k.val p m addr.toNat = (r, v)) : s.stewardPost k m addr = v.postEnd k m r := by
  rw [State.stewardPost, hpart]
  simp only [hpost]
  rfl

section Post

variable {a : ℕ}

theorem postFrom_down (h : s.mbxUp.testBit m = false) : s.postFrom k p m a = (2, s) :=
  if_pos (by rw [h]; rfl)

theorem postFrom_full (hup : s.mbxUp.testBit m = true) (h : 16 ≤ (Tab.get [] s.fw.mailboxes m).length) :
    s.postFrom k p m a = (1, s) :=
  (if_neg (by rw [hup]; decide)).trans (if_pos h)

theorem postFrom_badAddress (hup : s.mbxUp.testBit m = true) (hroom : (Tab.get [] s.fw.mailboxes m).length < 16)
    (h : a % 64 ≠ 0 ∨ s.owns p a 64 = false) : s.postFrom k p m a = (3, s) :=
  (if_neg (by rw [hup]; decide)).trans ((if_neg (not_le.mpr hroom)).trans (if_pos (h.imp_right fun h => by rw [h]; rfl)))

theorem postFrom_ok {bs : Bytes} (hup : s.mbxUp.testBit m = true) (hroom : (Tab.get [] s.fw.mailboxes m).length < 16)
    (halign : a % 64 = 0) (hown : s.owns p a 64 = true) (hread : s.peek p a 64 = (.ok bs, v)) (hfw : v.fw = s.fw) :
    s.postFrom k p m a = (0, v.updFw fun f => { f with mailboxes := Tab.put f.mailboxes m (Tab.get [] s.fw.mailboxes m ++
      [⟨BitVec.ofNat 16 (stewardSender k), p, 0,
        bs.take 2 ++ leBytes 2 (BitVec.ofNat 16 (stewardSender k)).toNat ++ bs.drop 4, false, 0⟩]) }) := by
  have haddr : ¬(a % 64 ≠ 0 ∨ (!s.owns p a 64) = true) := by simp [halign, hown]
  have hvup : ¬(!v.mbxUp.testBit m) = true := by
    rw [State.mbxUp, hfw, ← State.mbxUp, hup]
    decide
  have hvroom : ¬(Tab.get [] v.fw.mailboxes m).length ≥ 16 := by
    rw [hfw]
    exact not_le.mpr hroom
  refine (if_neg (by rw [hup]; decide)).trans ((if_neg (not_le.mpr hroom)).trans ((if_neg haddr).trans ?_))
  rw [hread]
  refine ((if_neg hvup).trans (if_neg hvroom)).trans ?_
  rw [hfw]

end Post

theorem stewardSender_toNat (k : StewardId) : (BitVec.ofNat 16 (stewardSender k.val)).toNat = stewardSender k.val := by
  have hlt : stewardSender k.val < 2 ^ 16 := by
    have hk := k.isLt
    unfold stewardSender
    split <;> omega
  rw [BitVec.toNat_ofNat, Nat.mod_eq_of_lt hlt]

theorem exec_mbxPost (k : StewardId) (m : Fin 64) (a : Word) (s : State) :
    exec (.mbxPost k m a) s = .next (s.stewardPost k m.val a) := rfl

end Sys2Proof.Machine

open Sys2Proof Sys2Proof.Machine

/-- Settles O53, by the branches of the choice of a sender, of the admission and of a post. -/
theorem Sys2Proof.servicesTakeCommandsAndPosts : Obligations.ServicesTakeCommandsAndPosts := by
  unfold Obligations.ServicesTakeCommandsAndPosts
  refine ⟨?_, ?_, ?_⟩
  · intro s hup ckpt
    have hckpt : ∀ n d, s.ckptKeys ≠ [] → (s.fw.mailboxes.map (·.1)).Nodup →
        ckpt (s.drawn.takeMailbox (s.ckptKeys.getD (n % s.ckptKeys.length) d)) := by
      intro n d hne hl
      have hmem := getD_mod_mem hne n d
      obtain ⟨t, rest, hget, hw⟩ := takeMailbox_ckpt hl hmem
      exact ⟨_, t, rest, hmem, hget, hw⟩
    refine ⟨fun hne hl => ⟨fun hnone => ?_, fun k ks hidle hready => ?_⟩, fun hbusy hnone => ?_,
      fun hidle hnone hready => ?_, fun k ks hidle hnone hready => ?_⟩
    · obtain ⟨m, ms, hms⟩ := List.exists_cons_of_ne_nil hne
      refine ⟨_, (exec_commandServiceTake s).trans (congrArg _ (serviceTake_ckpt hup (readyNow_nil hnone) hms)), ?_⟩
      rw [← hms]
      exact hckpt _ m hne hl
    · refine ⟨_, (exec_commandServiceTake s).trans (congrArg _ (serviceTake_turn hup (readyNow_cons hidle hready))), ?_⟩
      split
      · exact .inl (hckpt _ 32 hne hl)
      · exact .inr rfl
    · rw [exec_commandServiceTake, serviceTake_none hup (readyNow_nil (.inl hbusy)) hnone]
      rfl
    · rw [exec_commandServiceTake, serviceTake_none hup (readyNow_nil (.inr hready)) hnone]
      rfl
    · have hturn : s.serviceTake = s.takeTurn (s.turnKey k ks) := by
        have hno : ¬(s.draw.1 % 2 = 1 ∧ (!s.ckptKeys.isEmpty) = true) := by simp [hnone]
        rw [serviceTake_turn hup (readyNow_cons hidle hready), if_neg hno]
      refine ⟨fun t rest hlt hget => ?_, fun t rest hge hget => ?_⟩
      · rw [exec_commandServiceTake, hturn]
        exact congrArg _ ((if_pos hlt).trans (takeMailbox_cons hget))
      · rw [exec_commandServiceTake, hturn]
        exact congrArg _ ((if_neg (not_lt.mpr hge)).trans (takeChannel_cons hget))
  · intro s t u
    refine ⟨accept_readError, accept_unlisted, fun hread hreply hop => ?_⟩
    rw [accept_listed hread hreply hop]
    exact ⟨rfl, rfl⟩
  · intro k m a s p hpart
    refine ⟨?_, ?_⟩
    · intro bs v hup hroom halign hown hread hfw
      have hpost := stewardPost_eq hpart (postFrom_ok (k := k.val) hup hroom halign hown hread hfw)
      rw [postEnd_ok] at hpost
      refine ⟨_, (exec_mbxPost k m a s).trans (congrArg _ hpost), ?_, rfl, ?_⟩
      · rw [State.emit_steward, State.updSteward_steward_self]
      · refine (Tab.get_put_self _ _ _ _).trans ?_
        rw [stewardSender_toNat]
    · rintro r hr v
      obtain ⟨hne, hpost⟩ : r ≠ 0 ∧ s.postFrom k.val p m.val a.toNat = (r, s) := by
        obtain ⟨rfl, hdown⟩ | ⟨rfl, hup, hfull⟩ | ⟨rfl, hup, hroom, hbad⟩ := hr
        · exact ⟨by decide, postFrom_down hdown⟩
        · exact ⟨by decide, postFrom_full hup hfull⟩
        · exact ⟨by decide, postFrom_badAddress hup hroom hbad⟩
      rw [exec_mbxPost, stewardPost_eq hpart hpost]
      exact congrArg _ (if_neg hne)

end Services

/-! ## The host's window, attestation and boundary scan (16 R524, 18 R587, 19 R617, R618) -/

section HostSide

namespace Sys2Proof.Machine

open Sys2Proof

variable {s v : State} {off len : ℕ} {bs : Bytes}

/-! ### BAR2 -/

section Window

variable (hoff : s.mgmt.state ≠ .off) (hwarm : s.mgmt.state ≠ .warmStart) (hclk : s.mgmt.pcieClk = true)

include hoff hwarm hclk

/-- What an access does that reaches the package outside a warm start. -/
theorem hostWindow_reaches (w : Option Bytes) : s.hostWindow off len w =
    if s.bootsFromHost = true ∧ w.isSome = true ∧ off + (w.map List.length).getD len ≤ 0x2000000 then
      s.writeBoot off (w.getD [])
    else if (w.map List.length).getD len = 0 ∨ off + (w.map List.length).getD len > 0x1000000000 ∨
        s.unmappedIn (s.fw.windowBase.toNat + off) ((w.map List.length).getD len) = true then
      s.emit (.completion none false)
    else match w with
      | some bs => (s.writeMem 0 (s.fw.windowBase.toNat + off) bs).2
      | none => match s.readUpTo 0 (s.fw.windowBase.toNat + off) ((w.map List.length).getD len) with
        | (bs, none, s) => s.emit (.completion (some bs) false)
        | (bs, some _, s) =>
          (s.drawBytes ((w.map List.length).getD len - bs.length)).2.emit
            (.completion (some (bs ++ (s.drawBytes ((w.map List.length).getD len - bs.length)).1)) true) := by
  have hgo : ¬(s.mgmt.state = .off ∨ (!s.mgmt.pcieClk) = true) := by simp [hoff, hclk]
  refine (if_neg hgo).trans ((if_neg hwarm).trans ?_)
  cases w <;> rfl

theorem hostWindow_write (hne : bs ≠ []) (hin : off + bs.length ≤ 0x1000000000)
    (hmap : s.unmappedIn (s.fw.windowBase.toNat + off) bs.length = false) (hboot : s.bootsFromHost = false) :
    s.hostWindow off len (some bs) = (s.writeMem 0 (s.fw.windowBase.toNat + off) bs).2 := by
  have hrom : ¬(s.bootsFromHost = true ∧ (some bs).isSome = true ∧ off + bs.length ≤ 0x2000000) := by simp [hboot]
  have hgood : ¬(bs.length = 0 ∨ off + bs.length > 0x1000000000 ∨
      s.unmappedIn (s.fw.windowBase.toNat + off) bs.length = true) := by
    simp [hne, hin, hmap]
  rw [hostWindow_reaches hoff hwarm hclk]
  exact (if_neg hrom).trans (if_neg hgood)

theorem hostWindow_read (hlen : 0 < len) (hin : off + len ≤ 0x1000000000)
    (hmap : s.unmappedIn (s.fw.windowBase.toNat + off) len = false)
    (hread : s.readUpTo 0 (s.fw.windowBase.toNat + off) len = (bs, none, v)) :
    s.hostWindow off len none = v.emit (.completion (some bs) false) := by
  have hrom : ¬(s.bootsFromHost = true ∧ (none : Option Bytes).isSome = true ∧ off + len ≤ 0x2000000) := by simp
  have hgood : ¬(len = 0 ∨ off + len > 0x1000000000 ∨
      s.unmappedIn (s.fw.windowBase.toNat + off) len = true) := by
    simp only [hmap, Bool.false_eq_true, or_false]
    omega
  rw [hostWindow_reaches hoff hwarm hclk]
  refine (if_neg hrom).trans ((if_neg hgood).trans ?_)
  have hread' : s.readUpTo 0 (s.fw.windowBase.toNat + off) (((none : Option Bytes).map List.length).getD len) =
    (bs, none, v) := hread
  simp only [hread']

theorem hostWindow_error (hbad : 0x1000000000 < off + len ∨ s.unmappedIn (s.fw.windowBase.toNat + off) len = true) :
    s.hostWindow off len none = s.emit (.completion none false) := by
  have hrom : ¬(s.bootsFromHost = true ∧ (none : Option Bytes).isSome = true ∧ off + len ≤ 0x2000000) := by simp
  rw [hostWindow_reaches hoff hwarm hclk]
  exact (if_neg hrom).trans (if_pos (.inr hbad))

theorem hostWindow_boot {b : Byte} (hboot : s.bootsFromHost = true) (hin : off < 0x2000000) :
    s.hostWindow off len (some [b]) = s.updMgmt fun m => { m with bootSram := Tab.put m.bootSram off b } := by
  have hrom : s.bootsFromHost = true ∧ (some [b]).isSome = true ∧ off + [b].length ≤ 0x2000000 := ⟨hboot, rfl, hin⟩
  rw [hostWindow_reaches hoff hwarm hclk]
  exact if_pos hrom

end Window

theorem exec_hostWindowAccess (off : BitVec 36) (len : ℕ) (w : Option Bytes) (s : State) :
    exec (.hostWindowAccess off len w) s = .next (s.hostWindow off.toNat len w) := rfl

/-! ### Attestation -/

/-- The seven requests, with the parameters that their answer is formed from. -/
def spdmRows (req nonce : Bytes) (slot o l i : ℕ) : List (Instr × String × Bytes) :=
  [(.getVersion, "GET_VERSION", []), (.getCapabilities, "GET_CAPABILITIES", []),
    (.negotiateAlgorithms req, "NEGOTIATE_ALGORITHMS", req), (.getDigests, "GET_DIGESTS", []),
    (.getCertificate slot o l, "GET_CERTIFICATE", leBytes 1 slot ++ leBytes 2 o ++ leBytes 2 l),
    (.challenge slot nonce, "CHALLENGE", leBytes 1 slot ++ nonce),
    (.getMeasurements i nonce, "GET_MEASUREMENTS", leBytes 1 i ++ nonce)]

theorem exec_spdmRow {req nonce : Bytes} {slot o l i : ℕ} {r : Instr × String × Bytes}
    (h : r ∈ spdmRows req nonce slot o l i) (s : State) : exec r.1 s = .next (s.spdm r.2.1 r.2.2) := by
  simp only [spdmRows, List.mem_cons, List.not_mem_nil, or_false] at h
  obtain rfl | rfl | rfl | rfl | rfl | rfl | rfl := h <;> rfl

theorem spdm_answers {name : String} {ps : Bytes} (hoff : s.mgmt.state ≠ .off) (hclk : s.mgmt.pcieClk = true)
    (hup : s.fw.up = true ∨ (s.starting = true ∧ s.fw.loaded = true)) :
    s.spdm name ps = s.emit (.spdm (s.spdmAnswer name ps)) := by
  have hgo : ¬(s.mgmt.state = .off ∨ (!s.mgmt.pcieClk) = true) := by simp [hoff, hclk]
  exact (if_neg hgo).trans (if_pos hup)

theorem spdm_busy {name : String} {ps : Bytes} (hoff : s.mgmt.state ≠ .off) (hclk : s.mgmt.pcieClk = true)
    (hdown : s.fw.up = false) (hnone : s.starting = false ∨ s.fw.loaded = false) :
    s.spdm name ps = s.emit (.spdm SpdmAnswer.busy) := by
  have hgo : ¬(s.mgmt.state = .off ∨ (!s.mgmt.pcieClk) = true) := by simp [hoff, hclk]
  have hbusy : ¬(s.fw.up = true ∨ (s.starting = true ∧ s.fw.loaded = true)) := by
    obtain h | h := hnone <;> simp [hdown, h]
  exact (if_neg hgo).trans (if_neg hbusy)

/-! ### Boundary scan -/

theorem tapLoad_standby {i : TapInstr} {x : ℕ} (h : s.mgmt.standby = true) : s.tapLoad i x =
    { s with tap := { s.tap with instr := i, out := BitVec.ofNat 32 x } }.emit (.tdo x) :=
  if_neg (by rw [h]; decide)

/-- An instruction leaves the cells, and outside the scan all but what is shifted out and the free values. -/
structure Scanned (s : State) (i : TapInstr) (t : State) : Prop where
  instr : t.tap.instr = i
  cells : t.tap.cells = s.tap.cells
  rest : { t with tap := s.tap, out := s.out, free := s.free } = s

theorem tapGated_scanned {i : TapInstr} {x f : ℕ} (h : s.mgmt.standby = true) :
    Scanned s (if (s.mgmt.pwrok && !s.mgmt.coldRst) = true then i else .bypass)
      ({ s with free := f }.tapGated i x) := by
  have hgate : (s.mgmt.pwrok = true ∧ (!s.mgmt.coldRst) = true) ↔ (s.mgmt.pwrok && !s.mgmt.coldRst) = true :=
    (Bool.and_eq_true_iff).symm
  have hs : { s with free := f }.mgmt.standby = true := h
  by_cases hg : (s.mgmt.pwrok && !s.mgmt.coldRst) = true
  · have hto : { s with free := f }.tapGated i x = { s with free := f }.tapLoad i x := if_pos (hgate.mpr hg)
    rw [hto, tapLoad_standby hs, if_pos hg]
    exact ⟨rfl, rfl, rfl⟩
  · have hto : { s with free := f }.tapGated i x = { s with free := f }.tapLoad .bypass 0 := if_neg (mt hgate.mp hg)
    rw [hto, tapLoad_standby hs, if_neg hg]
    exact ⟨rfl, rfl, rfl⟩

/-- The instructions that only act while the package is held in reset. -/
def gatedRows : List (Instr × TapInstr) :=
  [(.extest, .extest), (.extestPulse, .extestPulse), (.extestTrain, .extestTrain), (.clamp, .clamp), (.highz, .highz)]

theorem exec_gatedRow {e : Instr × TapInstr} (h : e ∈ gatedRows) (s : State) :
    ∃ f x, exec e.1 s = .next ({ s with free := f }.tapGated e.2 x) := by
  simp only [gatedRows, List.mem_cons, List.not_mem_nil, or_false] at h
  obtain rfl | rfl | rfl | rfl | rfl := h
  · exact ⟨s.free + 1, Config.pinLevels s.free, rfl⟩
  · exact ⟨s.free + 1, Config.pinLevels s.free, rfl⟩
  · exact ⟨s.free + 1, Config.pinLevels s.free, rfl⟩
  · exact ⟨s.free, 0, rfl⟩
  · exact ⟨s.free, 0, rfl⟩

theorem exec_samplePreload (x : ℕ) (h : s.mgmt.standby = true) : exec (.samplePreload x) s =
    .next { ({ s with free := s.free + 1 }.tapLoad .samplePreload (Config.pinLevels s.free)) with
      tap := { ({ s with free := s.free + 1 }.tapLoad .samplePreload (Config.pinLevels s.free)).tap with cells := x } } := by
  have hs : ({ s with free := s.free + 1 }.tapLoad .samplePreload (Config.pinLevels s.free)).mgmt.standby = true := by
    rw [tapLoad_standby (s := { s with free := s.free + 1 }) h]
    exact h
  exact congrArg Host.Outcome.next (if_pos hs)

theorem exec_bypass (s : State) : exec .bypass s = .next (s.tapLoad .bypass 0) := rfl

theorem exec_idcode (s : State) : exec .idcode s = .next (s.tapLoad .idcode 0x10040B3B) := rfl

end Sys2Proof.Machine

open Sys2Proof Sys2Proof.Machine

/-- Settles O55, by the branches of a window access, of an SPDM request and of a boundary scan instruction. -/
theorem Sys2Proof.hostWindowAttestationAndScan : Obligations.HostWindowAttestationAndScan := by
  unfold Obligations.HostWindowAttestationAndScan
  refine ⟨?_, ?_, ?_⟩
  · intro off len s hoff hwarm hclk a
    refine ⟨?_, ?_, ?_, ?_⟩
    · intro bs hne hin hmap hboot
      rw [exec_hostWindowAccess, hostWindow_write hoff hwarm hclk hne hin hmap hboot]
    · intro bs v hlen hin hmap hread
      rw [exec_hostWindowAccess, hostWindow_read hoff hwarm hclk hlen hin hmap hread]
    · intro hbad
      rw [exec_hostWindowAccess, hostWindow_error hoff hwarm hclk hbad]
    · intro b hboot hin
      refine ⟨_, (exec_hostWindowAccess off len _ s).trans (congrArg _ (hostWindow_boot hoff hwarm hclk hboot hin)), ?_, rfl⟩
      exact Tab.get?_put_self _ _ _
  · intro s c name ps req nonce slot o l i hrow hoff hclk
    have hexec := exec_spdmRow (r := (c, name, ps)) hrow s
    refine ⟨fun hup => ?_, fun hdown hnone => ?_⟩
    · rw [spdm_answers hoff hclk hup] at hexec
      exact ⟨s.spdmAnswer name ps, hexec, rfl, rfl, rfl, rfl, rfl, rfl, rfl, rfl⟩
    · rw [spdm_busy hoff hclk hdown hnone] at hexec
      exact ⟨SpdmAnswer.busy, hexec, rfl⟩
  · intro s x hstandby gate
    refine ⟨?_, ?_, ?_, ?_⟩
    · rw [exec_bypass, tapLoad_standby hstandby]
      rfl
    · rw [exec_idcode, tapLoad_standby hstandby]
      rfl
    · have hexec := exec_samplePreload x hstandby
      rw [tapLoad_standby (s := { s with free := s.free + 1 }) hstandby] at hexec
      exact ⟨_, hexec, rfl, rfl, rfl, rfl⟩
    · intro e he
      obtain ⟨f, y, hexec⟩ := exec_gatedRow he s
      have hscan := tapGated_scanned (i := e.2) (x := y) (f := f) hstandby
      exact ⟨_, hexec, hscan.instr, hscan.cells, hscan.rest⟩

end HostSide

/-! ## Power and heat (10 R349, R350, 19 R606 to R610, R620) -/

section PowerAndHeat

namespace Sys2Proof.Machine

open Sys2Proof

variable {s : State} {t a b : ℕ}

/-! ### Sensors -/

/-- A die's step after a reading (19 R620). -/
def thermStep (t k : ℕ) : ℕ := if 400 ≤ t then max 8 (k - 1) else if t < 388 then min 16 (k + 1) else k

/-- The power controller after a reading of a die. -/
def State.readDie (s : State) (d t : ℕ) : State := s.updPower fun w => { w with
  temps := Tab.put w.temps d (BitVec.ofNat 16 t)
  therm := if d < 18 ∧ w.started = true ∧ s.moves = true then Tab.put w.therm d (thermStep t (Tab.get 16 w.therm d))
    else w.therm }

theorem junctionRead_cool {d : ℕ} (hstandby : s.mgmt.standby = true) (ht : t < 420) :
    s.junctionRead d t = s.readDie d t :=
  (if_neg (by rw [hstandby]; decide)).trans (if_neg (not_le.mpr ht))

theorem readDie_therm {d : ℕ} (hd : d < 18) (hstart : s.power.started = true) (hmoves : s.moves = true) :
    Tab.get 16 (s.readDie d t).power.therm d = thermStep t (Tab.get 16 s.power.therm d) := by
  have htherm : (s.readDie d t).power.therm = Tab.put s.power.therm d (thermStep t (Tab.get 16 s.power.therm d)) :=
    if_pos ⟨hd, hstart, hmoves⟩
  rw [htherm, Tab.get_put_self]

theorem exec_junctionSensorRead (d : DieId) (t : BitVec 16) (s : State) :
    exec (.junctionSensorRead d t) s = .next (s.junctionRead d.val t.toNat) := rfl

theorem stackRead_runs {st : ℕ} (hstart : s.power.started = true) (hmoves : s.moves = true) (ht : t < 420) :
    s.stackRead st t = s.updStack st fun x => x.read t := by
  have hgo : ¬((!s.power.started) = true ∨ (!s.moves) = true) := by simp [hstart, hmoves]
  exact (if_neg hgo).trans (if_neg (not_le.mpr ht))

theorem stackRead_stopped {st : ℕ} (hstop : s.power.started = false ∨ s.moves = false) (hstandby : s.mgmt.standby = true) :
    s.stackRead st t = s.updStack st fun x => { x with sensor := BitVec.ofNat 16 t } :=
  (if_pos (hstop.imp (fun h => by rw [h]; rfl) fun h => by rw [h]; rfl)).trans (if_pos hstandby)

theorem capThreshold_ge (cap : ℕ) : 85 ≤ capThreshold cap := by
  unfold capThreshold
  split <;> omega

/-- A stack's cap after a reading below 105 °C. -/
theorem StackState.read_cap (x : StackState) (ht : t < 420) : (x.read t).cap =
    if capAt (t / 4) ≤ x.cap.toNat ∨ t ≤ 4 * (capThreshold x.cap.toNat - 2) then BitVec.ofNat 8 (capAt (t / 4)) else x.cap :=
  if_neg (not_le.mpr ht)

theorem StackState.read_cap_le (x : StackState) (ht : t < 420) : (x.read t).cap.toNat ≤ capAt (t / 4) := by
  rw [x.read_cap ht]
  split
  · exact BitVec.toNat_ofNat _ _ ▸ Nat.mod_le _ _
  · next h =>
    obtain ⟨hcap, -⟩ := not_or.mp h
    exact (not_le.mp hcap).le

theorem StackState.read_cap_hot (x : StackState) (ht : t < 420) (hhot : 380 ≤ t) (hcap : 0x32 ≤ x.cap.toNat) :
    (x.read t).cap = 0x32 := by
  have hat : capAt (t / 4) = 0x32 := by
    unfold capAt
    rw [if_neg (by omega), if_neg (by omega)]
  rw [x.read_cap ht, hat]
  exact if_pos (.inl hcap)

theorem StackState.read_cap_cool (x : StackState) (hcool : t < 332) : (x.read t).cap = 0xC8 := by
  have hat : capAt (t / 4) = 0xC8 := if_pos (by omega)
  have hthr := capThreshold_ge x.cap.toNat
  rw [x.read_cap (by omega), hat]
  exact if_pos (.inr (by omega))

theorem exec_stackTemperatureReading (st : StackId) (t : BitVec 16) (s : State) :
    exec (.stackTemperatureReading st t) s = .next (s.stackRead st.val t.toNat) := rfl

/-! ### The power controller -/

theorem powerSample_stopped (w : ℕ) (hstop : s.power.started = false ∨ s.moves = false) : s.powerSample w = s :=
  if_pos (hstop.imp (fun h => by rw [h]; rfl) fun h => by rw [h]; rfl)

theorem powerEval_stopped (a b : ℕ) (hstop : s.power.started = false ∨ s.moves = false) : s.powerEval a b = s :=
  if_pos (hstop.elim (fun h => .inl (by rw [h]; rfl)) fun h => .inr (.inl (by rw [h]; rfl)))

theorem powerEval_notAverage (h : s.power.averages 100 a = false ∨ s.power.averages 1000000 b = false) :
    s.powerEval a b = s :=
  if_pos (.inr (.inr (h.imp (fun h => by rw [h]; rfl) fun h => by rw [h]; rfl)))

/-- The controller after a sample: the fast cut, or one microsecond less of its hold. -/
def Power.sample (w : Power) (watts : ℕ) : Power :=
  let w := { w with samples := (watts :: w.samples).take 1000000 }
  if 7000 < watts then { w with n := 8, fastHold := 1000 } else { w with fastHold := w.fastHold - 1 }

theorem powerSample_runs (w : ℕ) (hstart : s.power.started = true) (hmoves : s.moves = true) :
    ∃ throttle, s.powerSample w = s.updPower fun x => { x.sample w with throttle := throttle } := by
  have hgo : ¬((!s.power.started) = true ∨ (!s.moves) = true) := by simp [hstart, hmoves]
  have hbranch : s.powerSample w = if (s.updPower fun x => x.sample w).anySlow = true then
      (s.updPower fun x => x.sample w).updPower fun x => { x with throttle := satAdd x.throttle 1 }
    else s.updPower fun x => x.sample w := if_neg hgo
  rw [hbranch]
  split
  · exact ⟨_, rfl⟩
  · exact ⟨(s.power.sample w).throttle, rfl⟩

theorem Power.sample_samples (x : Power) (w : ℕ) : (x.sample w).samples = (w :: x.samples).take 1000000 := by
  unfold Power.sample
  dsimp only
  split <;> rfl

theorem Power.sample_cut (x : Power) {w : ℕ} (h : 7000 < w) : (x.sample w).n = 8 ∧ (x.sample w).fastHold = 1000 := by
  unfold Power.sample
  rw [if_pos h]
  exact ⟨rfl, rfl⟩

theorem Power.sample_hold (x : Power) {w : ℕ} (h : ¬7000 < w) :
    (x.sample w).n = x.n ∧ (x.sample w).fastHold = x.fastHold - 1 := by
  unfold Power.sample
  rw [if_neg h]
  exact ⟨rfl, rfl⟩

theorem exec_powerSample (w : ℕ) (s : State) : exec (.powerSample w) s = .next (s.powerSample w) := rfl

/-- The microseconds for which the 100 µs averages have been above the cap. -/
def Power.excess (w : Power) (cap a : ℕ) : ℕ := if cap < a then w.overUs + 100 else 0

/-- The package step after an evaluation. -/
def Power.stepAfter (w : Power) (cap a b : ℕ) : ℕ :=
  if cap < b ∨ 9000 ≤ w.excess cap a then max 8 (w.n - 1)
  else if w.fastHold = 0 ∧ b + 50 ≤ cap ∧ a + 100 ≤ cap then min 16 (w.n + 1)
  else w.n

theorem powerEval_runs (hstart : s.power.started = true) (hmoves : s.moves = true)
    (ha : s.power.averages 100 a = true) (hb : s.power.averages 1000000 b = true) :
    s.powerEval a b = s.updPower fun w => { w with
      overUs := w.excess s.powerCap a, n := w.stepAfter s.powerCap a b
      gating := w.stepAfter s.powerCap a b = 8 && 10000 ≤ w.excess s.powerCap a, p100us := a, p1s := b
      peak := BitVec.ofNat 16 (max w.peak.toNat (min a 65535)) } := by
  have hgo : ¬((!s.power.started) = true ∨ (!s.moves) = true ∨ (!s.power.averages 100 a) = true ∨
      (!s.power.averages 1000000 b) = true) := by simp [hstart, hmoves, ha, hb]
  exact if_neg hgo

theorem Power.stepAfter_bounds (w : Power) {cap : ℕ} (hlo : 8 ≤ w.n) (hhi : w.n ≤ 16) :
    8 ≤ w.stepAfter cap a b ∧ w.stepAfter cap a b ≤ 16 := by
  unfold Power.stepAfter
  split
  · omega
  · split <;> omega

theorem Power.stepAfter_falls (w : Power) {cap : ℕ} (h : cap < b ∨ 9000 ≤ w.excess cap a) :
    w.stepAfter cap a b = max 8 (w.n - 1) := if_pos h

theorem Power.stepAfter_rises (w : Power) {cap : ℕ} (hb : b + 50 ≤ cap) (ha : a + 100 ≤ cap) (hhold : w.fastHold = 0) :
    w.stepAfter cap a b = min 16 (w.n + 1) := by
  have hexcess : w.excess cap a = 0 := if_neg (by omega)
  have hstay : ¬(cap < b ∨ 9000 ≤ w.excess cap a) := by omega
  exact (if_neg hstay).trans (if_pos ⟨hhold, hb, ha⟩)

theorem Power.stepAfter_stays (w : Power) {cap : ℕ} (hb : b ≤ cap) (hexcess : w.excess cap a < 9000)
    (h : cap < b + 50 ∨ cap < a + 100 ∨ w.fastHold ≠ 0) : w.stepAfter cap a b = w.n := by
  have hfall : ¬(cap < b ∨ 9000 ≤ w.excess cap a) := by omega
  have hrise : ¬(w.fastHold = 0 ∧ b + 50 ≤ cap ∧ a + 100 ≤ cap) := by omega
  exact (if_neg hfall).trans (if_neg hrise)

theorem exec_powerStepEval (a b : ℕ) (s : State) : exec (.powerStepEval a b) s = .next (s.powerEval a b) := rfl

/-! ### Droops -/

theorem droopTrip_first {d : ℕ} (hrails : s.mgmt.mainRails = true) (hmoves : s.moves = true)
    (hfirst : Tab.get? s.power.droopAt d ≠ some (s.time / 1000)) : s.droopTrip d =
      { s.updPower fun w => { w with droop := satAdd w.droop 1, droopAt := Tab.put w.droopAt d (s.time / 1000) } with
        baro := { s.baro with droopTotal := s.baro.droopTotal + 1 } } := by
  have hgo : ¬((!s.mgmt.mainRails) = true ∨ (!s.moves) = true ∨ Tab.get? s.power.droopAt d = some (s.time / 1000)) := by
    simp [hrails, hmoves, hfirst]
  exact if_neg hgo

theorem droopTrip_again {d : ℕ} (h : Tab.get? s.power.droopAt d = some (s.time / 1000)) : s.droopTrip d = s :=
  if_pos (.inr (.inr h))

theorem exec_droopTrip (d : Fin 18) (r : Fin 16) (s : State) : exec (.droopTrip d r) s = .next (s.droopTrip d.val) := rfl

end Sys2Proof.Machine

open Sys2Proof Sys2Proof.Machine

/-- Settles O56, by what a reading, a sample and an evaluation set, each said once. -/
theorem Sys2Proof.powerAndHeatAreLimited : Obligations.PowerAndHeatAreLimited := by
  unfold Obligations.PowerAndHeatAreLimited
  refine ⟨?_, ?_⟩
  · intro s t ht
    refine ⟨?_, ?_, ?_⟩
    · intro d hstandby
      refine ⟨s.readDie d.val t.toNat, ?_, rfl, ?_, rfl, fun hd hstart hmoves => readDie_therm hd hstart hmoves⟩
      · rw [exec_junctionSensorRead, junctionRead_cool hstandby ht]
      · refine (Tab.get?_put_self _ _ _).trans ?_
        rw [BitVec.ofNat_toNat, BitVec.setWidth_eq]
    · intro st hstart hmoves
      have hself := State.updStack_stack_self s st.val fun x => x.read t.toNat
      refine ⟨s.updStack st.val fun x => x.read t.toNat, ?_, rfl, ?_, ?_, ?_, ?_, ?_, ?_, ?_⟩
      · rw [exec_stackTemperatureReading, stackRead_runs hstart hmoves ht]
      · rw [hself]
        exact (BitVec.ofNat_toNat 16 t).trans (BitVec.setWidth_eq t)
      all_goals rw [hself]
      · exact (s.stack st.val).read_cap_le ht
      · exact fun hhot => if_pos hhot
      · exact fun hcool => (if_neg (by omega)).trans (if_pos hcool)
      · exact fun hlo hhi => (if_neg (by omega)).trans (if_neg (by omega))
      · exact (s.stack st.val).read_cap_hot ht
      · exact (s.stack st.val).read_cap_cool
    · intro st hstop hstandby
      rw [exec_stackTemperatureReading, stackRead_stopped hstop hstandby, BitVec.ofNat_toNat, BitVec.setWidth_eq]
  · intro s
    refine ⟨?_, ?_, ?_, ?_, ?_⟩
    · intro hstop w a b
      rw [exec_powerSample, powerSample_stopped w hstop, exec_powerStepEval, powerEval_stopped a b hstop]
      exact ⟨rfl, rfl⟩
    · intro w hstart hmoves
      obtain ⟨throttle, hsample⟩ := powerSample_runs w hstart hmoves
      refine ⟨_, (exec_powerSample w s).trans (congrArg _ hsample), rfl, rfl, s.power.sample_samples w, ?_, ?_⟩
      · intro hlo hhi
        show 8 ≤ (s.power.sample w).n ∧ (s.power.sample w).n ≤ 16
        by_cases hw : 7000 < w
        · rw [(s.power.sample_cut hw).1]
          decide
        · rw [(s.power.sample_hold hw).1]
          exact ⟨hlo, hhi⟩
      · split
        next hw => exact s.power.sample_cut hw
        next hw => exact s.power.sample_hold hw
    · intro a b h
      rw [exec_powerStepEval, powerEval_notAverage h]
    · intro a b hstart hmoves ha hb
      exact ⟨_, (exec_powerStepEval a b s).trans (congrArg _ (powerEval_runs hstart hmoves ha hb)), rfl, rfl, rfl, rfl, rfl,
        rfl, rfl, s.power.stepAfter_bounds, s.power.stepAfter_falls, s.power.stepAfter_rises, s.power.stepAfter_stays⟩
    · intro d r hrails hmoves
      refine ⟨fun hfirst => ?_, fun hagain => ?_⟩
      · refine ⟨_, (exec_droopTrip d r s).trans (congrArg _ (droopTrip_first hrails hmoves hfirst)), rfl, ?_, rfl⟩
        exact Tab.get?_put_self _ _ _
      · rw [exec_droopTrip, droopTrip_again hagain]

end PowerAndHeat

/-! ## OFF and cold starts (18 R578, R582, R591 to R597) -/

section ColdStarts

namespace Sys2Proof.Machine

open Sys2Proof

variable {s u : State} {n : ℕ}

/-! ### What a halt keeps -/

/-- Every management register of a package that halts. -/
theorem State.halt_mgmt_eq (s : State) (code : Byte) (detail : ℕ) : (s.halt code detail).mgmt = { s.mgmt with
    state := .haltRefused, causeCode := code, causeDetail := BitVec.ofNat 16 detail, pending := true
    elapsed := BitVec.ofNat 32 s.elapsedMs, elapsedRuns := false
    warm := { s.mgmt.warm with valid := s.mgmt.warm.valid && !s.starting }, warmEntered := false } := by
  unfold State.halt
  dsimp only [State.emit, State.updMgmt]
  split <;> simp

theorem State.halt_selfId (s : State) (code : Byte) (detail : ℕ) : (s.halt code detail).selfId = s.selfId := by
  have hstop : s.stopAll.selfId = s.selfId := by rw [s.stopAll_eq]
  unfold State.halt
  dsimp only [State.emit, State.updMgmt]
  split
  · exact hstop
  · exact hstop

/-! ### OFF -/

/-- PKG_MGMT_PWR in OFF shows what it showed before. -/
theorem mgmtReg_pwr_stopped (h : s.power.started = false) : s.mgmtReg 0x1C = s.mgmt.pwrKept.toNat :=
  if_neg (by rw [h]; decide)

theorem enterOff_pwrKept (s : State) : s.enterOff.mgmt.pwrKept = BitVec.ofNat 32 (s.mgmtReg 0x1C) := rfl

theorem exec_pwrokLow (h : s.mgmt.standby = true) : exec .pwrokLow s = .next (s.enterOff.tapBypass.updMgmt fun m =>
    { m with pwrok := false, thermLatch := false, warm := WarmRecord.reset }) := by
  have hexec : exec .pwrokLow s = execPwrokLow s := rfl
  rw [hexec, execPwrokLow, if_pos h]

theorem exec_coldResetAssert (h : s.mgmt.standby = true) :
    exec .coldResetAssert s = .next (s.enterOff.updMgmt fun m => { m with coldRst := false }) := by
  have hexec : exec .coldResetAssert s = execColdResetAssert s := rfl
  rw [hexec, execColdResetAssert, if_pos h]

theorem exec_pwrokHigh (h : s.mgmt.standby = true) :
    exec .pwrokHigh s = .next (s.updMgmt fun m => { m with pwrok := true }) := by
  have hexec : exec .pwrokHigh s = execPwrokHigh s := rfl
  rw [hexec, execPwrokHigh, if_pos h]

theorem exec_vstby12Low (h : s.mgmt.standby = true) : exec .vstby12Low s = .next s.standbyLost := by
  have hexec : exec .vstby12Low s = execVstby12Low s := rfl
  rw [hexec, execVstby12Low, if_pos h]

theorem exec_vstby12InRange (h : s.mgmt.standby = false) : exec .vstby12InRange s =
    .next (s.updMgmt fun m => { m with standby := true, vio := true, straps := m.pins }) := by
  have hexec : exec .vstby12InRange s = execVstby12InRange s := rfl
  rw [hexec, execVstby12InRange, if_neg (by rw [h]; decide)]

/-! ### Cold starts -/

theorem State.thermTrip_straps (s : State) (detail : ℕ) (own : Bool) :
    (s.thermTrip detail own).mgmt.straps = s.mgmt.straps := by
  have hown : (if own then s.emit .thermtripN else s).mgmt.straps = s.mgmt.straps := by cases own <;> rfl
  have hhalt : ∀ v : State, (if v.mgmt.coldRst then (v.halt 0x0E detail).railsOff else v).mgmt.straps = v.mgmt.straps := by
    intro v
    split
    · have h := congrArg Mgmt.straps (v.halt_mgmt_eq 0x0E detail)
      exact h
    · rfl
  unfold State.thermTrip
  split
  · rfl
  · split
    · rw [State.stopHot_mgmt]
    · rw [State.stopHot_mgmt]
      exact (hhalt _).trans hown

/-- COLD_RST_N has risen: the straps are latched, and the latch of THERMTRIP_N is released. -/
def State.latchStraps (s : State) (slot : BitVec 4) (bs : BitVec 2) : State :=
  (s.updMgmt fun m => { m with
    coldRst := true, straps := bs ++ slot, pins := bs ++ slot, warm := WarmRecord.reset, thermLatch := false }).tapBypass

/-- Step 1 of a cold start, with no die known to be good and no package ID. -/
def State.coldBegin (s : State) : State :=
  { s with dieOk := 0, dieFail := 0, selfId := none, power := Power.reset, hbmStacks := [] }.beginStart .coldStart

theorem coldStart_eq {slot : BitVec 4} {bs : BitVec 2} (hstandby : s.mgmt.standby = true)
    (hcold : s.mgmt.coldRst = false) (hpwrok : s.mgmt.pwrok = true) : s.coldStart slot bs = match s.hotUnit with
      | some d => (s.latchStraps slot bs).thermTrip d true
      | none => (s.latchStraps slot bs).lookForRefclks.coldBegin.checkRefclks := by
  have hgo : ¬((!s.mgmt.standby) = true ∨ s.mgmt.coldRst = true) := by simp [hstandby, hcold]
  have hpower : ¬(!s.mgmt.pwrok) = true := by simp [hpwrok]
  exact (if_neg hgo).trans (if_neg hpower)

/-- A reference that was there stays; the look changes nothing else but a free value. -/
theorem lookForRefclks_cases (s : State) : ∃ f r0 r1,
    s.lookForRefclks = { s with free := f, mgmt := { s.mgmt with refclk0 := r0, refclk1 := r1 } } ∧
      (s.mgmt.refclk0 = true → r0 = true) ∧ (s.mgmt.refclk1 = true → r1 = true) := by
  unfold State.lookForRefclks
  split
  · exact ⟨s.free, s.mgmt.refclk0, s.mgmt.refclk1, rfl, id, id⟩
  · exact ⟨s.free + 1, s.mgmt.refclk0 || s.draw.1.testBit 0, s.mgmt.refclk1 || s.draw.1.testBit 1, rfl,
      fun h => by rw [h]; rfl, fun h => by rw [h]; rfl⟩

theorem checkRefclks_there (h0 : s.mgmt.refclk0 = true) (h1 : s.mgmt.refclk1 = true) : s.checkRefclks = s :=
  (if_neg (by rw [h0]; decide)).trans (if_neg (by rw [h1]; decide))

theorem checkRefclks_first (h0 : s.mgmt.refclk0 = false) : s.checkRefclks = s.halt 0x10 0 :=
  if_pos (by rw [h0]; rfl)

theorem checkRefclks_second (h0 : s.mgmt.refclk0 = true) (h1 : s.mgmt.refclk1 = false) :
    s.checkRefclks = s.halt 0x10 1 :=
  (if_neg (by rw [h0]; decide)).trans (if_pos (by rw [h1]; rfl))

/-- The references are looked at: nothing happens, or the package halts. -/
theorem checkRefclks_cases (s : State) : s.checkRefclks = s ∨ ∃ d, s.checkRefclks = s.halt 0x10 d := by
  unfold State.checkRefclks
  split
  · exact .inr ⟨0, rfl⟩
  · split
    · exact .inr ⟨1, rfl⟩
    · exact .inl rfl

/-- What a look at the references keeps. -/
structure RefclksChecked (s t : State) : Prop where
  straps : t.mgmt.straps = s.mgmt.straps
  coldRst : t.mgmt.coldRst = s.mgmt.coldRst
  step : t.mgmt.step = s.mgmt.step
  warm : s.mgmt.warm.valid = false → t.mgmt.warm.valid = false
  tray : t.mgmt.tray = s.mgmt.tray
  refclk0 : t.mgmt.refclk0 = s.mgmt.refclk0
  refclk1 : t.mgmt.refclk1 = s.mgmt.refclk1
  dieOk : t.dieOk = s.dieOk
  dieFail : t.dieFail = s.dieFail
  selfId : t.selfId = s.selfId

theorem State.checkRefclks_checked (s : State) : RefclksChecked s s.checkRefclks := by
  obtain h | ⟨d, h⟩ := checkRefclks_cases s
  · rw [h]
    exact ⟨rfl, rfl, rfl, id, rfl, rfl, rfl, rfl, rfl, rfl⟩
  · rw [h]
    have hm := s.halt_mgmt_eq 0x10 d
    refine ⟨by rw [hm], by rw [hm], by rw [hm], fun hw => ?_, by rw [hm], by rw [hm], by rw [hm], s.halt_dieOk _ _,
      s.halt_dieFail _ _, s.halt_selfId _ _⟩
    rw [hm]
    simp [hw]

theorem exec_coldStart (slot : BitVec 4) (bs : BitVec 2) (s : State) :
    exec (.coldStart slot bs) s = .next (s.coldStart slot bs) := rfl

/-! ### The management interface -/

theorem exec_entdaa (a : BitVec 7) (h : s.mgmt.standby = true) : exec (.entdaa a) s =
    .next ((s.updMgmt fun m => { m with i3cAddr := some a }).emit (.answer .bmc (some s.entdaaWord))) := by
  have hexec : exec (.entdaa a) s = execEntdaa a s := rfl
  rw [hexec, execEntdaa, if_pos h]

theorem entdaaWord_eq (s : State) :
    s.entdaaWord = BitVec.ofNat 64 ((0x0B3D * 2 ^ 33 + 0x40 * 2 ^ 16 + s.ownSlot * 2 ^ 12) * 65536) := by
  have hbcr : bcr.toNat * 256 = 0 := by decide
  have hdcr : dcr.toNat = 0 := by decide
  rw [State.entdaaWord, hbcr, hdcr, State.i3cId, Nat.add_zero]

theorem mayAssign_iff (h : s.mgmt.standby = true) :
    s.mayAssign = true ↔ s.mgmt.state = .off ∨ (s.mgmt.state = .coldStart ∧ s.mgmt.step < 8) := by
  simp [State.mayAssign, h]

/-- Before step 8 a peer that does not belong to the tray leaves the management registers. -/
theorem wrongPeer_mgmt (h : s.mgmt.state = .off ∨ (s.mgmt.state = .coldStart ∧ s.mgmt.step < 8)) (n : ℕ) :
    (s.wrongPeer n).mgmt = s.mgmt := by
  have hservice : s.inService = false := by
    obtain h | ⟨h, -⟩ := h <;> simp [State.inService, h]
  have hwarm : s.mgmt.state ≠ .warmStart := by
    obtain h | ⟨h, -⟩ := h <;> simp [h]
  have hstep : ¬(s.mgmt.state = .coldStart ∧ s.mgmt.step = 8) := by
    rintro ⟨hcold, h8⟩
    obtain h | ⟨-, h⟩ := h
    · rw [h] at hcold
      exact absurd hcold (by decide)
    · omega
  have heq : ∃ f, s.wrongPeer n = s.updPort n f :=
    ⟨_, (if_neg (Bool.eq_false_iff.mp hservice)).trans ((if_neg hwarm).trans (if_neg hstep))⟩
  obtain ⟨f, heq⟩ := heq
  rw [heq]
  rfl

theorem recheckTrays_mgmt (h : s.mgmt.state = .off ∨ (s.mgmt.state = .coldStart ∧ s.mgmt.step < 8)) :
    s.recheckTrays.mgmt = s.mgmt := by
  refine foldl_invariant (I := fun u : State => u.mgmt = s.mgmt) (fun u n hu => ?_) _ rfl
  split
  · split
    · rw [wrongPeer_mgmt (by rwa [hu]), hu]
    · exact hu
  · exact hu

theorem exec_pkgMgmtTray (v : BitVec 32) (s : State) : exec (.pkgMgmtTray v) s =
    .next (if s.mayAssign then (s.updMgmt fun m => { m with tray := v &&& 0x87FF }).recheckTrays else s) := rfl

theorem exec_pkgMgmtDim (v : BitVec 32) (s : State) : exec (.pkgMgmtDim v) s =
    .next (if s.mayAssign then s.updMgmt fun m => { m with dim := v &&& 0x800037FF } else s) := rfl

theorem exec_pkgMgmtPwrCap (v : BitVec 32) (h : s.mgmt.standby = true) : exec (.pkgMgmtPwrCap v) s =
    .next (if 2000 ≤ v.toNat % 65536 ∧ v.toNat % 65536 ≤ 6000 then
      s.updMgmt fun m => { m with pwrCap := BitVec.ofNat 16 v.toNat } else s) := by
  have hlow : BitVec.ofNat 16 (v.toNat % 65536) = BitVec.ofNat 16 v.toNat :=
    BitVec.eq_of_toNat_eq (by rw [BitVec.toNat_ofNat, BitVec.toNat_ofNat, Nat.mod_mod_of_dvd _ (by decide)])
  have hexec : exec (.pkgMgmtPwrCap v) s = .next (if s.mgmt.standby = true ∧ 2000 ≤ v.toNat % 65536 ∧
      v.toNat % 65536 ≤ 6000 then s.updMgmt fun m => { m with pwrCap := BitVec.ofNat 16 (v.toNat % 65536) } else s) := rfl
  rw [hexec, hlow]
  simp only [h, true_and]

end Sys2Proof.Machine

open Sys2Proof Sys2Proof.Machine

/-- Settles O57: by what OFF keeps, by the branches of a cold start, and by the states that take the tray and the
dimensions. -/
theorem Sys2Proof.offAndColdStarts : Obligations.OffAndColdStarts := by
  unfold Obligations.OffAndColdStarts
  refine ⟨?_, ?_, ?_⟩
  · intro s
    refine ⟨fun c hc hstandby => ?_, exec_pwrokHigh, fun hstandby => ?_, exec_vstby12InRange⟩
    · simp only [List.mem_cons, List.not_mem_nil, or_false] at hc
      obtain rfl | rfl := hc
      · refine ⟨_, exec_pwrokLow hstandby, rfl, rfl, rfl, rfl, rfl, rfl, rfl, rfl, ?_, rfl, rfl, rfl, fun _ => rfl,
          fun h => (nomatch h)⟩
        rw [mgmtReg_pwr_stopped rfl]
        exact BitVec.toNat_ofNat _ _
      · refine ⟨_, exec_coldResetAssert hstandby, rfl, rfl, rfl, rfl, rfl, rfl, rfl, rfl, ?_, rfl, rfl, rfl,
          fun h => (nomatch h), fun _ => rfl⟩
        rw [mgmtReg_pwr_stopped rfl]
        exact BitVec.toNat_ofNat _ _
    · exact ⟨_, exec_vstby12Low hstandby, rfl, rfl, rfl, rfl, rfl, rfl, rfl⟩
  · intro s slot bs hstandby hcold hpwrok
    refine ⟨fun d hhot => ?_, fun hcool => ?_⟩
    · have hexec := exec_coldStart slot bs s
      rw [coldStart_eq hstandby hcold hpwrok, hhot] at hexec
      dsimp only at hexec
      obtain ⟨u, hu, hstate, hcode, hdetail, hlatch, hrails, -⟩ :=
        (s.latchStraps slot bs).thermTrip_halted d true hstandby hpwrok rfl rfl
      refine ⟨_, hexec, (s.latchStraps slot bs).thermTrip_straps d true, ?_⟩
      rw [hu, State.stopHot_mgmt]
      exact ⟨hstate, hcode, hdetail, hlatch, hrails⟩
    · have hexec := exec_coldStart slot bs s
      rw [coldStart_eq hstandby hcold hpwrok, hcool] at hexec
      obtain ⟨f, r0, r1, hlook, hr0, hr1⟩ := lookForRefclks_cases (s.latchStraps slot bs)
      dsimp only at hexec
      rw [hlook] at hexec
      have hkept := State.checkRefclks_checked (State.coldBegin { s.latchStraps slot bs with
        free := f, mgmt := { (s.latchStraps slot bs).mgmt with refclk0 := r0, refclk1 := r1 } })
      refine ⟨_, hexec, hkept.straps, hkept.coldRst, hkept.step, hkept.warm rfl, hkept.dieOk, hkept.dieFail, hkept.selfId,
        hkept.tray, fun h => hkept.refclk0.trans (hr0 h), fun h => hkept.refclk1.trans (hr1 h), fun h0 h1 => ?_,
        fun h0 => ?_, fun h0 h1 => ?_⟩
      · rw [checkRefclks_there (hkept.refclk0.symm.trans h0) (hkept.refclk1.symm.trans h1)]
        rfl
      · rw [checkRefclks_first (hkept.refclk0.symm.trans h0)]
        exact ⟨rfl, rfl, rfl⟩
      · rw [checkRefclks_second (hkept.refclk0.symm.trans h0) (hkept.refclk1.symm.trans h1)]
        exact ⟨rfl, rfl, rfl⟩
  · intro s v hstandby
    refine ⟨fun a => ?_, fun hopen => ?_, fun hon hlate => ?_, exec_pkgMgmtPwrCap v hstandby⟩
    · rw [exec_entdaa a hstandby, entdaaWord_eq]
    · have hmay := (mayAssign_iff hstandby).mpr hopen
      have htray := recheckTrays_mgmt (s := s.updMgmt fun m => { m with tray := v &&& 0x87FF }) hopen
      refine ⟨⟨_, (exec_pkgMgmtTray v s).trans (congrArg _ (if_pos hmay)), ?_, ?_⟩, ?_⟩
      · rw [htray]
        rfl
      · rw [htray]
        rfl
      · rw [exec_pkgMgmtDim, if_pos hmay]
    · have hclosed : ¬s.mayAssign = true := by
        rw [mayAssign_iff hstandby]
        rintro (h | ⟨h, hstep⟩)
        · exact hon h
        · obtain hstate | h8 := hlate
          · exact hstate h
          · omega
      rw [exec_pkgMgmtTray, exec_pkgMgmtDim, if_neg hclosed, if_neg hclosed]
      exact ⟨rfl, rfl⟩

end ColdStarts

/-! ## Warm starts (18 R588 to R590, R597) -/

section WarmStarts

namespace Sys2Proof.Machine

open Sys2Proof

variable {s u : State} {i n : ℕ}

/-! ### Warm entry -/

theorem warmIgnored_eq (x : Option StackId) (hstandby : s.mgmt.standby = true) (hrst : s.mgmt.coldRst = true)
    (h : s.mgmt.state ≠ .quiesced) : exec (.warmEntry x) s = .next (s.updMgmt fun m => { m with warmIgnored := true }) := by
  have hgo : ¬((!s.mgmt.standby) = true ∨ (!s.mgmt.coldRst) = true) := by simp [hstandby, hrst]
  have hexec : exec (.warmEntry x) s = execWarmEntry x s := rfl
  rw [hexec, execWarmEntry, if_neg hgo, if_neg h]

theorem exec_warmEntry (x : Option StackId) (hstandby : s.mgmt.standby = true) (hrst : s.mgmt.coldRst = true)
    (h : s.mgmt.state = .quiesced) (hfirst : s.mgmt.warmEntered = false) :
    exec (.warmEntry x) s = .next (s.warmEntry x) := by
  have hgo : ¬((!s.mgmt.standby) = true ∨ (!s.mgmt.coldRst) = true) := by simp [hstandby, hrst]
  have hexec : exec (.warmEntry x) s = execWarmEntry x s := rfl
  rw [hexec, execWarmEntry, if_neg hgo, if_pos h, if_neg (by rw [hfirst]; decide)]

/-- Dirty lines are written back, and no line is held any more. -/
def State.emptyCaches (s : State) : State :=
  let s := (s.hubs.flatMap fun e => e.2.lines).foldl State.writeBackLine s
  { s with hubs := s.hubs.map fun e => (e.1, { e.2 with lines := [] }) }

/-- A stack as it enters self-refresh, its soft repairs made hard ones. -/
def StackState.sleep (x : StackState) : StackState :=
  { x with hardUsed := x.hardUsed + x.softUsed, softUsed := 0, selfRefresh := true }

/-- Every stack enters self-refresh. -/
def State.sleepStacks (s : State) : State := (List.range 24).foldl (fun s i => s.updStack i StackState.sleep) s

/-- The state that the warm record is taken of. -/
def State.entered (s : State) : State := s.firmwareDown.abortGens.emptyCaches.sleepStacks

theorem warmEntry_eq (s : State) (x : Option StackId) : s.warmEntry x = s.entered.updMgmt fun m =>
    { m with warm := s.entered.warmRecord, warmEntered := true, warmNoSpare := x } := rfl

theorem MemFrame.emptyCaches {s0 : State} (h : MemFrame s0 s) : MemFrame s0 s.emptyCaches := by
  unfold State.emptyCaches
  exact (MemFrame.foldl State.writeBackLine _ (fun _ _ h => h.writeBackLine) h).set

theorem emptyCaches_lines (s : State) (m : ℕ) : (s.emptyCaches.hub m).lines = [] := by
  have hmap : ∀ t : List (ℕ × HubState), Tab.get? (t.map fun e => (e.1, { e.2 with lines := [] })) m =
      (Tab.get? t m).map fun x => { x with lines := [] } :=
    fun t => Tab.get?_map (fun _ (x : HubState) => { x with lines := [] }) t m
  rw [State.emptyCaches, State.hub, Tab.get, hmap]
  cases Tab.get? ((s.hubs.flatMap fun e => e.2.lines).foldl State.writeBackLine s).hubs m with
  | none => rfl
  | some x => rfl

/-- What changes with stacks that enter self-refresh: those stacks. -/
theorem sleepStacks_eq (s : State) : ∃ st, s.sleepStacks = { s with hbmStacks := st } := by
  refine foldl_invariant (I := fun u : State => ∃ st, u = { s with hbmStacks := st }) ?_ _ ⟨s.hbmStacks, rfl⟩
  rintro u i ⟨st, rfl⟩
  exact ⟨_, rfl⟩

/-- Before and after its entry a stack has one training. -/
theorem sleepStacks_training (s : State) (i : ℕ) : (s.sleepStacks.stack i).training = (s.stack i).training := by
  refine foldl_invariant (I := fun u : State => (u.stack i).training = (s.stack i).training) (fun u j hu => ?_) _ rfl
  by_cases hj : i = j
  · rw [← hj, State.updStack_stack_self]
    exact hu
  · rw [State.updStack_stack_ne _ _ _ _ hj]
    exact hu

/-- A stack that has entered is in the table, in self-refresh. -/
theorem sleepStacks_slept (s : State) (hi : i < 24) :
    ∃ x, Tab.get? s.sleepStacks.hbmStacks i = some x ∧ x.selfRefresh = true := by
  refine foldl_reaches (I := fun _ => True)
    (Q := fun u : State => ∃ x, Tab.get? u.hbmStacks i = some x ∧ x.selfRefresh = true) (List.mem_range.mpr hi)
    (fun _ _ _ => trivial) (fun u _ => ⟨_, Tab.get?_put_self _ _ _, rfl⟩) (fun u j _ hu => ?_) trivial
  by_cases hj : i = j
  · subst hj
    exact ⟨_, Tab.get?_put_self _ _ _, rfl⟩
  · obtain ⟨x, hx, hsleep⟩ := hu
    exact ⟨x, (Tab.get?_put_ne _ _ _ _ hj).trans hx, hsleep⟩

/-- The package as it enters: firmware down, no line held, every stack in self-refresh, and otherwise as it was. -/
structure Entered (s u : State) : Prop where
  up : u.fw.up = false
  mgmt : u.mgmt = s.mgmt
  ports : u.ports = s.ports
  partitions : u.partitions = s.partitions
  lines : ∀ m, (u.hub m).lines = []
  asleep : ∀ i, i < 24 → ∃ x, Tab.get? u.hbmStacks i = some x ∧ x.selfRefresh = true ∧ x.training = (s.stack i).training

theorem State.entered_entered (s : State) : Entered s s.entered := by
  have hframe : MemFrame s.firmwareDown s.firmwareDown.abortGens.emptyCaches := (MemFrame.refl _).abortGens.emptyCaches
  have hlines := emptyCaches_lines s.firmwareDown.abortGens
  unfold State.entered
  generalize s.firmwareDown.abortGens.emptyCaches = v at hframe hlines
  have hstacks : ∀ i, i < 24 → ∃ x, Tab.get? v.sleepStacks.hbmStacks i = some x ∧ x.selfRefresh = true ∧
      x.training = (s.stack i).training := by
    intro i hi
    obtain ⟨x, hx, hsleep⟩ := sleepStacks_slept v hi
    have hget : v.sleepStacks.stack i = x := by rw [State.stack, Tab.get, hx, Option.getD_some]
    refine ⟨x, hx, hsleep, ?_⟩
    rw [← hget, sleepStacks_training, hframe.eq]
    rfl
  obtain ⟨st, heq⟩ := sleepStacks_eq v
  rw [heq] at hstacks ⊢
  refine ⟨?_, ?_, ?_, ?_, hlines, hstacks⟩
  all_goals rw [hframe.eq]; rfl

theorem warmRecord_training {x : StackState} (hx : Tab.get? s.hbmStacks i = some x) :
    Tab.get 0 s.warmRecord.training i = x.training := by
  have hmap : Tab.get? s.warmRecord.training i = (Tab.get? s.hbmStacks i).map StackState.training :=
    Tab.get?_map (fun _ (x : StackState) => x.training) _ i
  rw [Tab.get, hmap, hx, Option.map_some, Option.getD_some]

theorem warmRecord_coeff (s : State) (n : ℕ) :
    (Tab.get? s.warmRecord.coeffs n).getD (Port.zero n).coeff = (s.port n).coeff := by
  have hmap : Tab.get? s.warmRecord.coeffs n = (Tab.get? s.ports n).map Port.coeff :=
    Tab.get?_map (fun _ (p : Port) => p.coeff) _ n
  rw [hmap, State.port, Tab.get]
  cases Tab.get? s.ports n with
  | none => rfl
  | some p => rfl

/-! ### Warm starts -/

theorem warmStart_stays (h : s.mgmt.warmEntered = false ∨ s.mgmt.state ≠ .quiesced) : s.warmStart = s :=
  if_pos (h.imp_left fun h => by rw [h]; rfl)

/-- Step 1 of a warm start. -/
def State.warmBegin (s : State) : State :=
  (s.beginStart .warmStart).updMgmt fun m => { m with warmEntered := false, warmNoSpare := none }

theorem warmStart_eq (hentered : s.mgmt.warmEntered = true) (hstate : s.mgmt.state = .quiesced)
    (hvalid : s.mgmt.warm.valid = true) : s.warmStart = match s.mgmt.warmNoSpare with
      | some st => s.warmBegin.halt 0x0A (2 + st.val * 256)
      | none => s.warmBegin.keepPwr.warmLose.checkRefclks := by
  have hgo : ¬((!s.mgmt.warmEntered) = true ∨ s.mgmt.state ≠ .quiesced) := by simp [hentered, hstate]
  have hrecord : ¬(!s.mgmt.warm.valid) = true := by simp [hvalid]
  exact (if_neg hgo).trans (if_neg hrecord)

theorem exec_warmStart (s : State) : exec .warmStart s = .next s.warmStart := rfl

end Sys2Proof.Machine

open Sys2Proof Sys2Proof.Machine

/-- Settles O58: the entry steps one after the other, and the branches of the start. -/
theorem Sys2Proof.warmStartsKeepTheHbm : Obligations.WarmStartsKeepTheHbm := by
  unfold Obligations.WarmStartsKeepTheHbm
  intro s
  refine ⟨fun x hstandby hrst => ⟨fun hstate hfirst => ?_, fun hstate => ?_⟩, fun hentered hstate hvalid => ?_, fun hno => ?_⟩
  · have hexec := (exec_warmEntry x hstandby hrst hstate hfirst).trans (congrArg _ (warmEntry_eq s x))
    have hu := s.entered_entered
    generalize s.entered = u at hexec hu
    refine ⟨_, hexec, hu.up, (congrArg Mgmt.state hu.mgmt).trans hstate, rfl, rfl, hu.lines, fun i hi => ?_, fun i hi => ?_,
      fun n => ?_, hu.partitions⟩
    · obtain ⟨y, hy, hsleep, -⟩ := hu.asleep i hi
      have hstack : u.stack i = y := by rw [State.stack, Tab.get, hy, Option.getD_some]
      exact (congrArg StackState.selfRefresh hstack).trans hsleep
    · obtain ⟨y, hy, -, htraining⟩ := hu.asleep i hi
      exact (warmRecord_training hy).trans htraining
    · refine (warmRecord_coeff u n).trans ?_
      rw [State.port, hu.ports]
      rfl
  · rw [warmIgnored_eq x hstandby hrst hstate]
    rfl
  · refine ⟨_, (exec_warmStart s).trans (congrArg _ (warmStart_eq hentered hstate hvalid)), fun st hspare => ?_,
      fun hspare h0 h1 => ?_⟩
    · rw [hspare]
      exact ⟨rfl, rfl, rfl⟩
    · rw [hspare]
      dsimp only
      rw [checkRefclks_there (s := s.warmBegin.keepPwr.warmLose) h0 h1]
      refine ⟨rfl, rfl, rfl, rfl, rfl, fun c => ?_⟩
      exact List.mem_filter.trans (and_congr_right fun _ => decide_eq_true_iff)
  · rw [exec_warmStart, warmStart_stays hno]

end WarmStarts

/-! ## Start steps (18 R582 to R594) -/

section StartSteps

namespace Sys2Proof.Machine

open Sys2Proof

variable {s : State} {n : ℕ}

/-! ### What ports that train leave of the management registers -/

theorem State.foldl_mgmt {α : Type} (f : State → α → State) (hf : ∀ s a, (f s a).mgmt = s.mgmt) (l : List α)
    (s : State) : (l.foldl f s).mgmt = s.mgmt :=
  foldl_invariant (I := fun u : State => u.mgmt = s.mgmt) (fun u a h => (hf u a).trans h) l rfl

@[simp] theorem State.freeBuffers_mgmt (s : State) (n vc k : ℕ) : (s.freeBuffers n vc k).mgmt = s.mgmt := by
  unfold State.freeBuffers
  split <;> rfl

@[simp] theorem State.swqStep_mgmt (s : State) (f : Flit) (up : Bool) : (s.swqStep f up).mgmt = s.mgmt := rfl

@[simp] theorem State.sendFlit_mgmt (s : State) (n : ℕ) (f : Flit) (cls : ℕ) : (s.sendFlit n f cls).mgmt = s.mgmt := by
  unfold State.sendFlit
  split <;> rfl

@[simp] theorem State.sendOn_mgmt (s : State) (n vc : ℕ) (f : Flit) (data : Bytes) :
    (s.sendOn n vc f data).mgmt = s.mgmt := by
  unfold State.sendOn
  dsimp only
  split <;> rfl

theorem State.wvNote_mgmt (s : State) (p n : ℕ) (sent : Bool) (f : Flit) : (s.wvNote p n sent f).mgmt = s.mgmt := by
  have hmem : ∀ {u t : State}, MemFrame u t → t.mgmt = u.mgmt := fun h => h.same (·.mgmt) (by intros; rfl)
  unfold State.wvNote
  dsimp only
  split
  · rfl
  · split
    · rfl
    · generalize hu : s.updFabric _ = u
      have hmgmt : u.mgmt = s.mgmt := by rw [← hu]; rfl
      rw [← hmgmt]
      split
      · next e => exact hmem (MemFrame.sndOfEq e (MemFrame.refl u).peek)
      · next e =>
        have hpeek := MemFrame.sndOfEq e (MemFrame.refl u).peek
        split
        · exact hmem hpeek.poke
        · exact hmem hpeek.poke.poke

@[simp] theorem State.noteHeader_mgmt (s : State) (n : ℕ) (sent : Bool) (f : Flit) :
    (s.noteHeader n sent f).mgmt = s.mgmt :=
  (State.foldl_mgmt _ (fun u p => u.wvNote_mgmt p n sent f) _ _).trans rfl

@[simp] theorem State.transmit_mgmt (s : State) (src n : ℕ) (f : Flit) (data : Bytes) :
    (s.transmit src n f data).mgmt = s.mgmt := by
  unfold State.transmit
  dsimp only
  split
  · exact s.freeBuffers_mgmt ..
  · split
    · simp only [State.freeBuffers_mgmt, State.noteHeader_mgmt, State.sendOn_mgmt]
    · rfl

@[simp] theorem State.drainPort_mgmt (s : State) (n k : ℕ) : (s.drainPort n k).mgmt = s.mgmt := by
  induction k generalizing s with
  | zero => rfl
  | succ k ih =>
    unfold State.drainPort
    split
    · rfl
    · simp only [ih, State.freeBuffers_mgmt, State.noteHeader_mgmt, State.sendOn_mgmt, State.swqStep_mgmt,
        State.updFabric_mgmt]

@[simp] theorem State.startCut_mgmt (s : State) (n : ℕ) : (s.startCut n).mgmt = s.mgmt := by
  unfold State.startCut
  split
  · rfl
  · split
    · rfl
    · simp only [State.updPort_mgmt, State.foldl_mgmt _ fun u f => u.sendFlit_mgmt _ f _, State.noteHeader_mgmt,
        State.sendFlit_mgmt]

@[simp] theorem State.freePort_mgmt (s : State) (n k : ℕ) : (s.freePort n k).mgmt = s.mgmt :=
  (State.foldl_mgmt _ (fun u m => u.startCut_mgmt m) _ _).trans (s.drainPort_mgmt ..)

theorem State.deliver_mgmt (s : State) (n : ℕ) (o : OpenPkt) : (s.deliver n o).mgmt = s.mgmt := by
  have hproto : ∀ vc k, ((s.countProto n).freeBuffers n vc k).mgmt = s.mgmt := fun vc k => State.freeBuffers_mgmt ..
  unfold State.deliver
  dsimp only
  split
  · exact hproto ..
  · split
    · split
      · rfl
      · exact hproto ..
    · exact s.transmit_mgmt ..
    · exact State.freeBuffers_mgmt ..
    · exact s.freeBuffers_mgmt ..

theorem State.endPacket_mgmt (s : State) (n : ℕ) : (s.endPacket n).mgmt = s.mgmt := by
  unfold State.endPacket
  split
  · rfl
  · dsimp only
    split
    · split <;> simp only [State.freePort_mgmt, State.freeBuffers_mgmt, State.updPort_mgmt]
    · split
      · simp only [State.freePort_mgmt, State.freeBuffers_mgmt, State.updPort_mgmt]
      · exact State.deliver_mgmt ..

theorem State.stompSlot_mgmt (s : State) (n : ℕ) (o : OpenPkt) : (s.stompSlot n o).mgmt = s.mgmt := by
  unfold State.stompSlot
  split
  · split
    · simp only [State.updPort_mgmt, State.sendFlit_mgmt]
    · rfl
  · rfl

theorem State.cutShort_mgmt (s : State) (n k : ℕ) : (s.cutShort n k).mgmt = s.mgmt := by
  induction k generalizing s with
  | zero => rfl
  | succ k ih =>
    unfold State.cutShort
    split
    · rfl
    · split
      · exact s.endPacket_mgmt n
      · exact (ih _).trans (s.stompSlot_mgmt ..)

theorem State.dropLink_mgmt (s : State) (n : ℕ) : (s.dropLink n).mgmt = s.mgmt :=
  State.foldl_mgmt (fun (s : State) (o : OutPkt) => (s.swqStep o.header false).freeBuffers o.src o.vc 1)
    (fun u _ => (State.freeBuffers_mgmt ..).trans (u.swqStep_mgmt ..)) _ (s.cutForward n)

theorem State.train_mgmt (s : State) (n : ℕ) (k : TrainKind) : (s.train n k).mgmt = s.mgmt :=
  s.takeDims.dropLink_mgmt n

theorem State.disablePort_mgmt (s : State) (n : ℕ) : (s.disablePort n).mgmt = s.mgmt := by
  unfold State.disablePort
  split
  · exact (State.dropLink_mgmt ..).trans (s.cutShort_mgmt ..)
  · rfl

theorem State.loseParent_mgmt (s : State) (n : ℕ) : (s.loseParent n).mgmt = s.mgmt := by
  rw [seasonOnly_loseParent s n]

/-- Ports that train leave every management register. -/
@[simp] theorem State.trainPorts_mgmt (s : State) (k : TrainKind) : (s.trainPorts k).mgmt = s.mgmt := by
  refine State.foldl_mgmt _ (fun u n => ?_) _ s.takeDims
  split
  · exact (State.loseParent_mgmt ..).trans (State.train_mgmt ..)
  · exact (State.loseParent_mgmt ..).trans (u.disablePort_mgmt n)

/-! ### A step ends, and the next begins -/

/-- A step is in progress, since now. -/
def State.begun (s : State) (k : ℕ) : State := s.updMgmt fun m => { m with step := k, stepFrom := s.time }

theorem starting_of_cold (h : s.mgmt.state = .coldStart) : s.starting = true := by simp [State.starting, h]
theorem starting_of_warm (h : s.mgmt.state = .warmStart) : s.starting = true := by simp [State.starting, h]

theorem starting_not (h : s.starting = true) : ¬ (!s.starting) = true := by rw [h]; decide

theorem exec_startStepEnd {r : StepResult} {t : State} (h : s.stepEnd r = t) : exec (.startStepEnd r) s = .next t :=
  congrArg Host.Outcome.next h

/-- The step in progress and its result say which of the ends is taken. -/
theorem stepEnd_power (hs : s.starting = true) (hk : s.mgmt.step = 1) : s.stepEnd .ok = s.endPower := by
  unfold State.stepEnd
  rw [if_neg (starting_not hs), hk]
  rfl
theorem stepEnd_bootRom (hs : s.starting = true) (hk : s.mgmt.step = 2) : s.stepEnd .ok = s.endBootRom := by
  unfold State.stepEnd
  rw [if_neg (starting_not hs), hk]
  rfl
theorem stepEnd_auth (image : BootImage) (second : Option BootImage) (hs : s.starting = true) (hk : s.mgmt.step = 3) :
    s.stepEnd (.auth image second) = s.endAuth image second := by
  unfold State.stepEnd
  rw [if_neg (starting_not hs), hk]
  rfl
theorem stepEnd_bistOk (hs : s.starting = true) (hk : s.mgmt.step = 4) : s.stepEnd .ok = s.endBist [] := by
  unfold State.stepEnd
  rw [if_neg (starting_not hs), hk]
  rfl
theorem stepEnd_bist (d : DieId) (hs : s.starting = true) (hk : s.mgmt.step = 4) :
    s.stepEnd (.bist [d] []) = s.endBist [d.val] := by
  unfold State.stepEnd
  rw [if_neg (starting_not hs), hk]
  rfl
theorem stepEnd_training (hs : s.starting = true) (hk : s.mgmt.step = 5) :
    s.stepEnd .ok = s.endHbmTraining.nextStep := by
  unfold State.stepEnd
  rw [if_neg (starting_not hs), hk]
  rfl
theorem stepEnd_trainFail (st : StackId) (hs : s.starting = true) (hk : s.mgmt.step = 5) :
    s.stepEnd (.hbmTrain st) = s.trainFail st.val := by
  unfold State.stepEnd
  rw [if_neg (starting_not hs), hk]
  rfl
theorem stepEnd_links (hs : s.starting = true) (hk : s.mgmt.step = 7) :
    s.stepEnd .ok = 
      if (if s.mgmt.state = .warmStart then s.portsUp else s.portsTrained) then s.nextStep else s := by
  unfold State.stepEnd
  rw [if_neg (starting_not hs), hk]
  rfl
theorem stepEnd_address (hs : s.starting = true) (hk : s.mgmt.step = 8) : s.stepEnd .ok = s.endAddress := by
  unfold State.stepEnd
  rw [if_neg (starting_not hs), hk]
  rfl
theorem stepEnd_start (hs : s.starting = true) (hk : s.mgmt.step = 9) : s.stepEnd .ok = s.endStart := by
  unfold State.stepEnd
  rw [if_neg (starting_not hs), hk]
  rfl
theorem stepEnd_memTest (repairs : List (StackId × ℕ × ℕ)) (bad : Option StackId) (h : s.mgmt.state = .coldStart)
    (hk : s.mgmt.step = 6) : s.stepEnd (.memTest repairs bad) = s.endMemTest repairs bad := by
  unfold State.stepEnd
  rw [if_neg (starting_not (starting_of_cold h)), hk]
  exact if_pos h
theorem stepEnd_memTest_warm (repairs : List (StackId × ℕ × ℕ)) (bad : Option StackId) (h : s.mgmt.state = .warmStart)
    (hk : s.mgmt.step = 6) : s.stepEnd (.memTest repairs bad) = s := by
  unfold State.stepEnd
  rw [if_neg (starting_not (starting_of_warm h)), hk]
  exact if_neg (by rw [h]; decide)
theorem stepEnd_noTest (h : s.mgmt.state = .warmStart) (hk : s.mgmt.step = 6) : s.stepEnd .ok = s.nextStep := by
  unfold State.stepEnd
  rw [if_neg (starting_not (starting_of_warm h)), hk]
  exact if_pos h

theorem nextStep_of_ne {k : ℕ} (hk : s.mgmt.step = k) (h7 : k ≠ 7) : s.nextStep = s.beginStep (k + 1) := by
  unfold State.nextStep
  dsimp only
  rw [hk, if_neg fun hw => h7 hw.2]

theorem nextStep_cold_links (h : s.mgmt.state = .coldStart) (hk : s.mgmt.step = 7) : s.nextStep = s.beginStep 8 := by
  unfold State.nextStep
  dsimp only
  rw [hk, if_neg fun hw => by rw [h] at hw; exact nomatch hw.1]

theorem nextStep_warm_links (h : s.mgmt.state = .warmStart) (hk : s.mgmt.step = 7) : s.nextStep = s.beginStep 9 := by
  unfold State.nextStep
  dsimp only
  rw [if_pos ⟨h, hk⟩]

theorem cold_isCold (h : s.mgmt.state = .coldStart) : decide (s.mgmt.state = .coldStart) = true := by rw [h]; rfl
theorem warm_isNotCold (h : s.mgmt.state = .warmStart) : decide (s.mgmt.state = .coldStart) = false := by rw [h]; rfl

/-- What the beginning of a step of a cold start does. -/
theorem beginStep_cold_bootRom (h : s.mgmt.state = .coldStart) :
    s.beginStep 2 = (s.begun 2).updSeason fun z => { z with k0 := 0, running := true } := by
  unfold State.beginStep
  rw [cold_isCold h]
  rfl
theorem beginStep_cold_auth (h : s.mgmt.state = .coldStart) : s.beginStep 3 = s.begun 3 := by
  unfold State.beginStep
  rw [cold_isCold h]
  rfl
theorem beginStep_cold_bist (h : s.mgmt.state = .coldStart) : s.beginStep 4 = s.begun 4 := by
  unfold State.beginStep
  rw [cold_isCold h]
  rfl
theorem beginStep_cold_training (h : s.mgmt.state = .coldStart) : s.beginStep 5 = s.begun 5 := by
  unfold State.beginStep
  rw [cold_isCold h]
  rfl
theorem beginStep_cold_memTest (h : s.mgmt.state = .coldStart) : s.beginStep 6 =
    (if s.mgmt.dim.getLsbD 31 then (s.begun 6).copyDims else s.begun 6).trainPorts .full := by
  unfold State.beginStep
  rw [cold_isCold h]
  rfl
theorem beginStep_cold_links (h : s.mgmt.state = .coldStart) : s.beginStep 7 = s.begun 7 := by
  unfold State.beginStep
  rw [cold_isCold h]
  rfl
theorem beginStep_cold_address (h : s.mgmt.state = .coldStart) : s.beginStep 8 = (s.begun 8).beginAddress := by
  unfold State.beginStep
  rw [cold_isCold h]
  rfl

/-- The stacks leave self-refresh. -/
def State.wakeStacks (s : State) : State :=
  { s with hbmStacks := s.hbmStacks.map fun e => (e.1, { e.2 with selfRefresh := false }) }

theorem wakeStacks_stack (s : State) (i : ℕ) :
    s.wakeStacks.stack i = { s.stack i with selfRefresh := false } := by
  have hmap : ∀ t : List (ℕ × StackState), Tab.get? (t.map fun e => (e.1, { e.2 with selfRefresh := false })) i =
      (Tab.get? t i).map fun x => { x with selfRefresh := false } :=
    fun t => Tab.get?_map (fun _ (x : StackState) => { x with selfRefresh := false }) t i
  rw [State.stack, State.stack, Tab.get, Tab.get, State.wakeStacks, hmap]
  cases Tab.get? s.hbmStacks i with
  | none => rfl
  | some x => rfl

/-- What the beginning of a step of a warm start does. -/
theorem beginStep_warm_noTest (h : s.mgmt.state = .warmStart) : s.beginStep 6 =
    (s.begun 6).wakeStacks.updMgmt fun m => { m with warm := { m.warm with valid := false } } := by
  unfold State.beginStep
  rw [warm_isNotCold h]
  rfl
theorem beginStep_warm_links (h : s.mgmt.state = .warmStart) : s.beginStep 7 = (s.begun 7).trainPorts .fast := by
  unfold State.beginStep
  rw [warm_isNotCold h]
  rfl

/-! ### The steps of a cold start -/

/-- The rails are in regulation, and the power controller starts at 16. -/
def State.powered (s : State) : State :=
  (s.updMgmt fun m => { m with mainRails := true, hbmRails := true }).updPower fun w => { w with
    started := true, n := 16, overUs := 0, fastHold := 0 }

/-- Step 1 has ended with the rails in regulation. -/
theorem endPower_cold (h : s.mgmt.state = .coldStart) (hk : s.mgmt.step = 1) :
    s.endPower.mgmt.step = 2 ∧ s.endPower.mgmt.mainRails = true ∧ s.endPower.mgmt.hbmRails = true ∧
      s.endPower.power.started = true ∧ s.endPower.power.n = 16 ∧ s.endPower.season.running = true ∧
      s.endPower.season.k0 = 0 := by
  have hend : s.endPower = s.powered.nextStep := rfl
  rw [hend, nextStep_of_ne (s := s.powered) hk (by decide), beginStep_cold_bootRom (s := s.powered) h]
  exact ⟨rfl, rfl, rfl, rfl, rfl, rfl, rfl⟩

theorem State.halted_cause (s : State) (code : Byte) (detail : ℕ) : (s.halt code detail).mgmt.state = .haltRefused ∧
    (s.halt code detail).mgmt.causeCode = code ∧ (s.halt code detail).mgmt.causeDetail = BitVec.ofNat 16 detail := by
  rw [s.halt_mgmt_eq code detail]
  exact ⟨rfl, rfl, rfl⟩

/-- Step 2 has ended, with a boot source that there is or with the halt. -/
theorem endBootRom_cold (h : s.mgmt.state = .coldStart) (hk : s.mgmt.step = 2) :
    if s.bootSel < 2 then s.endBootRom.mgmt.step = 3 ∧ s.endBootRom.mgmt.state = .coldStart
    else s.endBootRom.mgmt.state = .haltRefused ∧ s.endBootRom.mgmt.causeCode = 0x04 ∧
      s.endBootRom.mgmt.causeDetail = BitVec.ofNat 16 s.bootSel := by
  unfold State.endBootRom
  split
  · next hb =>
    rw [if_neg (Nat.not_le.mpr hb), nextStep_of_ne hk (by decide), beginStep_cold_auth h]
    exact ⟨rfl, h⟩
  · next hb =>
    rw [if_pos (Nat.not_lt.mp hb)]
    exact s.halted_cause 0x04 s.bootSel

/-! ### Authentication -/

/-- The first image that the boot ROM tries. -/
def State.firstImage (s : State) (image : BootImage) : BootImage := if s.bootSel = 0 then image else ⟨s.hostImage⟩

theorem bootImages_head (image : BootImage) (second : Option BootImage) :
    ∃ rest, s.bootImages image second = s.firstImage image :: rest := by
  unfold State.bootImages State.firstImage
  split
  · exact ⟨_, rfl⟩
  · exact ⟨_, rfl⟩

theorem bootImages_host (image : BootImage) (second : Option BootImage) (h : s.bootSel ≠ 0) :
    s.bootImages image second = [s.firstImage image] := by
  rw [State.bootImages, State.firstImage, if_neg h, if_neg h]

theorem bootImages_both (image : BootImage) (second : Option BootImage) (h : s.bootSel = 0) :
    s.bootImages image second = s.firstImage image :: second.toList := by
  rw [State.bootImages, State.firstImage, if_pos h, if_pos h]

theorem endAuth_first {image : BootImage} {second : Option BootImage} {slot : ℕ}
    (h : s.mgmt.authenticate (s.firstImage image) = .ok slot) :
    s.endAuth image second = s.runImage (s.firstImage image) slot := by
  obtain ⟨rest, hrest⟩ := bootImages_head (s := s) image second
  simp [State.endAuth, hrest, h, Except.toOption]

theorem endAuth_second {image b : BootImage} {e : Byte × ℕ} {slot : ℕ} (hb : s.bootSel = 0)
    (h : s.mgmt.authenticate (s.firstImage image) = .error e) (hsecond : s.mgmt.authenticate b = .ok slot) :
    s.endAuth image (some b) = s.runImage b slot := by
  simp [State.endAuth, bootImages_both image (some b) hb, h, hsecond, Except.toOption]

theorem endAuth_refused_host {image : BootImage} {second : Option BootImage} {code : Byte} {detail : ℕ}
    (hb : s.bootSel ≠ 0) (h : s.mgmt.authenticate (s.firstImage image) = .error (code, detail)) :
    s.endAuth image second = s.halt code detail := by
  simp [State.endAuth, bootImages_host image second hb, h, hb, Except.toOption]

theorem endAuth_refused_both {image b : BootImage} {e : Byte × ℕ} {code : Byte} {detail : ℕ} (hb : s.bootSel = 0)
    (h : s.mgmt.authenticate (s.firstImage image) = .error e) (hsecond : s.mgmt.authenticate b = .error (code, detail)) :
    s.endAuth image (some b) = s.halt code detail := by
  simp [State.endAuth, bootImages_both image (some b) hb, h, hsecond, Except.toOption]

theorem endAuth_waits {image : BootImage} {e : Byte × ℕ} (hb : s.bootSel = 0)
    (h : s.mgmt.authenticate (s.firstImage image) = .error e) : s.endAuth image none = s := by
  simp [State.endAuth, bootImages_both image none hb, h, hb, Except.toOption]

/-- The image runs: step 4 is in progress, and the measurements are those of the image. -/
def Runs (s : State) (i : BootImage) (slot : ℕ) (t : State) : Prop :=
  t.mgmt.step = 4 ∧ t.fw.loaded = true ∧ t.mgmt.svn = BitVec.ofNat 32 (imgSvn i) ∧
    t.mgmt.measure = [(1, Config.measureExtend 0 Config.bootRomDigest),
      (2, Config.measureExtend 0 (digestOf (i.bytes.take (4096 + imgLen i)))),
      (3, Config.measureExtend 0 (Config.configDigest s.mgmt.straps (BitVec.ofNat 64 (s.pkgReg 0))
        (BitVec.ofNat 64 (s.pkgReg 8)) slot s.mgmt.minSvn)), (4, 0)]

/-- The measurement registers are set, and the image is loaded. -/
def State.withMeasures (s : State) (i : BootImage) (slot : ℕ) : State :=
  (s.updMgmt fun m => { m with
    svn := BitVec.ofNat 32 (imgSvn i)
    measure := [(1, Config.measureExtend 0 Config.bootRomDigest),
      (2, Config.measureExtend 0 (digestOf (i.bytes.take (4096 + imgLen i)))),
      (3, Config.measureExtend 0 (Config.configDigest s.mgmt.straps (BitVec.ofNat 64 (s.pkgReg 0))
        (BitVec.ofNat 64 (s.pkgReg 8)) slot s.mgmt.minSvn)), (4, 0)] }).updFw fun f => { f with loaded := true }

theorem runs_runImage (h : s.mgmt.state = .coldStart) (hk : s.mgmt.step = 3) (i : BootImage) (slot : ℕ) :
    Runs s i slot (s.runImage i slot) := by
  have hrun : s.runImage i slot = (s.withMeasures i slot).nextStep := rfl
  rw [hrun, nextStep_of_ne (s := s.withMeasures i slot) hk (by decide), beginStep_cold_bist (s := s.withMeasures i slot) h]
  exact ⟨rfl, rfl, rfl, rfl⟩

/-- The key of an image is that of a fused slot that is not revoked. -/
theorem keySlot_spec {m : Mgmt} {key : Bytes} {slot : ℕ} (h : m.keySlot key = some slot) :
    slot < 4 ∧ m.keyHashes.getD slot [] = sha384 key ∧ m.revoked.getLsbD slot = false := by
  unfold Mgmt.keySlot at h
  have hp := List.find?_some h
  simp only [Bool.and_eq_true, decide_eq_true_eq, Bool.not_eq_true'] at hp
  exact ⟨List.mem_range.mp (List.mem_of_find?_eq_some h), hp⟩

/-- An image that is accepted has passed every check. -/
theorem authenticate_ok {m : Mgmt} {i : BootImage} {slot : ℕ} (h : m.authenticate i = .ok slot) :
    m.keySlot (imgKey i) = some slot ∧ signatureOk (imgKey i) (i.bytes.take 64) (imgSig i) = true ∧
      sha384 (imgBody i) = imgDigest i ∧ imgLengthOk i = true ∧ m.minSvn.toNat ≤ imgSvn i := by
  unfold Mgmt.authenticate at h
  split at h
  · exact nomatch h
  · next slot' hslot =>
    split_ifs at h with hsig hbody hlen hsvn
    cases h
    exact ⟨hslot, by simpa using hsig, not_not.mp hbody, by simpa using hlen, Nat.not_lt.mp hsvn⟩

theorem State.halt_fw_loaded (s : State) (code : Byte) (detail : ℕ) : (s.halt code detail).fw.loaded = s.fw.loaded := by
  have hstop : s.stopAll.fw.loaded = s.fw.loaded := by rw [s.stopAll_eq]
  unfold State.halt
  dsimp only [State.emit, State.updMgmt]
  split
  · exact hstop
  · exact hstop

/-! ### Dies and stacks -/

theorem endBist_cold (h : s.mgmt.state = .coldStart) (hk : s.mgmt.step = 4) :
    (s.endBist []).mgmt.step = 5 ∧ (s.endBist []).dieOk = BitVec.allOnes 40 := by
  have hend : s.endBist [] = { s with dieOk := BitVec.allOnes 40 }.nextStep := rfl
  rw [hend, nextStep_of_ne (s := { s with dieOk := BitVec.allOnes 40 }) hk (by decide),
    beginStep_cold_training (s := { s with dieOk := BitVec.allOnes 40 }) h]
  exact ⟨rfl, rfl⟩

/-- A die that fails its self test halts the start, and PKG_DIE_FAIL shows it. -/
theorem endBist_failed (s : State) (d : DieId) : (s.endBist [d.val]).mgmt.state = .haltRefused ∧
    (s.endBist [d.val]).mgmt.causeCode = 0x01 ∧ (s.endBist [d.val]).dieFail.getLsbD d.val = true ∧
    (s.endBist [d.val]).dieOk.getLsbD d.val = false := by
  have hend : s.endBist [d.val] =
      ({ s with dieOk := BitVec.allOnes 40 }.markDies [d.val]).halt 0x01 (lowest [d.val]) := rfl
  have hd : d.val < 40 := d.isLt
  obtain ⟨hfail, hok⟩ := { s with dieOk := BitVec.allOnes 40 }.markDies_singleton d.val
  obtain ⟨hstate, hcode, -⟩ := ({ s with dieOk := BitVec.allOnes 40 }.markDies [d.val]).halted_cause 0x01 (lowest [d.val])
  rw [hend]
  refine ⟨hstate, hcode, ?_, ?_⟩
  · rw [State.halt_dieFail, hfail]
    simp [hd]
  · rw [State.halt_dieOk, hok]
    simp [hd]

/-- What training found of each stack is new. -/
theorem State.endHbmTraining_mgmt (s : State) : s.endHbmTraining.mgmt = s.mgmt := by
  unfold State.endHbmTraining
  split
  · refine State.foldl_mgmt _ (fun u i => ?_) _ s
    exact u.updStack_mgmt ..
  · refine State.foldl_mgmt _ (fun u i => ?_) _ s
    exact State.updStack_mgmt ..

theorem endTraining_cold (h : s.mgmt.state = .coldStart) (hk : s.mgmt.step = 5) :
    s.endHbmTraining.nextStep.mgmt.step = 6 := by
  have hk' : s.endHbmTraining.mgmt.step = 5 := by rw [s.endHbmTraining_mgmt, hk]
  have h' : s.endHbmTraining.mgmt.state = .coldStart := by rw [s.endHbmTraining_mgmt, h]
  rw [nextStep_of_ne hk' (by decide), beginStep_cold_memTest h', State.trainPorts_mgmt]
  split <;> rfl

theorem trainFail_cold (h : s.mgmt.state = .coldStart) (st : ℕ) : s.trainFail st = s.halt 0x05 st :=
  if_neg (by rw [h]; decide)

theorem trainFail_warm (h : s.mgmt.state = .warmStart) (st : ℕ) : s.trainFail st = s.halt 0x0A (3 + st * 256) :=
  if_pos h

/-! ### The memory test -/

/-- What the memory test says of one stack. -/
def State.noteRepairs (repairs : List (StackId × ℕ × ℕ)) (s : State) (i : ℕ) : State :=
  match repairs.find? fun e => e.1.val = i with
  | some (_, used, left) => s.updStack i fun x => { x with
      hardUsed := BitVec.ofNat 16 used, softUsed := 0, sparesLeft := BitVec.ofNat 16 left, sparesAtStart := BitVec.ofNat 16 left }
  | none =>
    s.draw.2.updStack i fun x => { x with
      softUsed := 0, sparesLeft := BitVec.ofNat 16 s.draw.1, sparesAtStart := BitVec.ofNat 16 s.draw.1 }

/-- The repairs of a stack are noted. -/
def RepairsNoted (repairs : List (StackId × ℕ × ℕ)) (i : ℕ) (u : State) : Prop :=
  (u.stack i).softUsed = 0 ∧ (u.stack i).sparesAtStart = (u.stack i).sparesLeft ∧
    ∀ x used left, (repairs.find? fun e => e.1.val = i) = some (x, used, left) →
      (u.stack i).hardUsed = BitVec.ofNat 16 used ∧ (u.stack i).sparesLeft = BitVec.ofNat 16 left

theorem repairsNoted_self (repairs : List (StackId × ℕ × ℕ)) (s : State) (i : ℕ) :
    RepairsNoted repairs i (s.noteRepairs repairs i) := by
  unfold State.noteRepairs RepairsNoted
  split
  · next hfind =>
    rw [State.updStack_stack_self, hfind]
    exact ⟨rfl, rfl, fun x used left he => by cases he; exact ⟨rfl, rfl⟩⟩
  · next hfind =>
    rw [State.updStack_stack_self, hfind]
    exact ⟨rfl, rfl, fun _ _ _ he => nomatch he⟩

theorem noteRepairs_stack_ne (repairs : List (StackId × ℕ × ℕ)) (s : State) {i j : ℕ} (h : i ≠ j) :
    (s.noteRepairs repairs j).stack i = s.stack i := by
  unfold State.noteRepairs
  split
  · exact State.updStack_stack_ne _ _ _ _ h
  · exact State.updStack_stack_ne _ _ _ _ h

theorem noteRepairs_mgmt (repairs : List (StackId × ℕ × ℕ)) (s : State) (j : ℕ) :
    (s.noteRepairs repairs j).mgmt = s.mgmt := by
  unfold State.noteRepairs
  split <;> rfl

/-- The repairs of every stack are noted. -/
def State.testedRows (s : State) (repairs : List (StackId × ℕ × ℕ)) : State :=
  (List.range 24).foldl (State.noteRepairs repairs) s

theorem repairsNoted_testedRows (s : State) (repairs : List (StackId × ℕ × ℕ)) {i : ℕ} (hi : i < 24) :
    RepairsNoted repairs i (s.testedRows repairs) := by
  refine foldl_reaches (I := fun _ => True) (List.mem_range.mpr hi) (fun _ _ _ => trivial)
    (fun u _ => repairsNoted_self repairs u i) (fun u j _ hu => ?_) trivial
  by_cases hj : i = j
  · rw [← hj]
    exact repairsNoted_self repairs u i
  · unfold RepairsNoted
    rw [noteRepairs_stack_ne repairs u hj]
    exact hu

theorem State.testedRows_mgmt (s : State) (repairs : List (StackId × ℕ × ℕ)) : (s.testedRows repairs).mgmt = s.mgmt :=
  State.foldl_mgmt _ (noteRepairs_mgmt repairs) _ s

theorem endMemTest_eq (s : State) (repairs : List (StackId × ℕ × ℕ)) (bad : Option StackId) :
    s.endMemTest repairs bad = match bad with
      | some st => (s.testedRows repairs).halt 0x06 st.val
      | none => (s.testedRows repairs).nextStep := by
  cases bad with
  | none => rfl
  | some st => rfl

theorem endMemTest_cold (repairs : List (StackId × ℕ × ℕ)) (h : s.mgmt.state = .coldStart) (hk : s.mgmt.step = 6) :
    s.endMemTest repairs none = (s.testedRows repairs).begun 7 := by
  have hk' : (s.testedRows repairs).mgmt.step = 6 := by rw [s.testedRows_mgmt repairs, hk]
  have h' : (s.testedRows repairs).mgmt.state = .coldStart := by rw [s.testedRows_mgmt repairs, h]
  rw [endMemTest_eq]
  exact (nextStep_of_ne hk' (by decide)).trans (beginStep_cold_links h')

/-! ### Links and addresses -/

/-- The dimensions that step 8 runs with. -/
def State.dimsTaken (s : State) : State :=
  if s.fabric.sysDim.getLsbD 31 ∨ !s.mgmt.dim.getLsbD 31 then s else s.copyDims.trainPorts .full

theorem dimsTaken_mgmt (s : State) : s.dimsTaken.mgmt = s.mgmt := by
  unfold State.dimsTaken
  split
  · rfl
  · exact State.trainPorts_mgmt ..

theorem dimsTaken_of_there (h : s.fabric.sysDim.getLsbD 31 = true) : s.dimsTaken = s := if_pos (.inl h)

theorem beginAddress_eq (s : State) : s.beginAddress = match s.dimsTaken.mismatched with
    | some n => s.dimsTaken.halt 0x08 (n + 1)
    | none => if s.dimsTaken.trayValid ∧ s.dimsTaken.fabric.sysDim.getLsbD 31 ∧ !s.dimsTaken.inDims s.dimsTaken.ownId then
        s.dimsTaken.halt 0x08 0x100 else s.dimsTaken := rfl

theorem State.halt_step (s : State) (code : Byte) (detail : ℕ) : (s.halt code detail).mgmt.step = s.mgmt.step := by
  rw [s.halt_mgmt_eq code detail]

/-- Step 8 is in progress, also where it has ended the start. -/
theorem beginAddress_step (s : State) : s.beginAddress.mgmt.step = s.mgmt.step := by
  have hm : s.dimsTaken.mgmt.step = s.mgmt.step := by rw [dimsTaken_mgmt]
  rw [beginAddress_eq]
  split
  · exact (State.halt_step ..).trans hm
  · split
    · exact (State.halt_step ..).trans hm
    · exact hm

theorem beginAddress_mismatched (h : s.fabric.sysDim.getLsbD 31 = true) (hn : s.mismatched = some n) :
    s.beginAddress = s.halt 0x08 (n + 1) := by
  rw [beginAddress_eq, dimsTaken_of_there h, hn]

theorem beginAddress_inDims (h : s.fabric.sysDim.getLsbD 31 = true) (hn : s.mismatched = none)
    (hin : s.inDims s.ownId = true) : s.beginAddress = s := by
  have hgo : ¬(s.trayValid = true ∧ s.fabric.sysDim.getLsbD 31 = true ∧ (!s.inDims s.ownId) = true) := by simp [hin]
  rw [beginAddress_eq, dimsTaken_of_there h, hn]
  exact if_neg hgo

theorem stepEnd_links_cold (h : s.mgmt.state = .coldStart) (hk : s.mgmt.step = 7) :
    s.stepEnd .ok = if s.portsTrained then (s.begun 8).beginAddress else s := by
  have hnot : s.mgmt.state ≠ .warmStart := by rw [h]; decide
  rw [stepEnd_links (starting_of_cold h) hk, if_neg hnot, nextStep_cold_links h hk, beginStep_cold_address h]

theorem stepEnd_links_warm (h : s.mgmt.state = .warmStart) (hk : s.mgmt.step = 7) :
    s.stepEnd .ok = if s.portsUp then s.beginStep 9 else s := by
  rw [stepEnd_links (starting_of_warm h) hk, if_pos h, nextStep_warm_links h hk]

/-- R390: the package has an address. -/
def State.assigned (s : State) : Bool :=
  s.trayValid && s.fabric.sysDim.getLsbD 31 && s.portsUp && s.traysChecked && s.inDims s.ownId

theorem assigned_iff (s : State) : s.assigned = true ↔ s.trayValid = true ∧ s.fabric.sysDim.getLsbD 31 = true ∧
    s.portsUp = true ∧ s.traysChecked = true ∧ s.inDims s.ownId = true := by
  simp only [State.assigned, Bool.and_eq_true, and_assoc]

theorem endAddress_assigned (h : s.assigned = true) (hk : s.mgmt.step = 8) :
    s.endAddress = { s with selfId := some s.ownId }.beginStep 9 := by
  rw [State.endAddress, if_pos ((assigned_iff s).mp h)]
  exact nextStep_of_ne (s := { s with selfId := some s.ownId }) hk (by decide)

theorem endAddress_waits (h : s.assigned = false) : s.endAddress = s := by
  rw [State.endAddress, if_neg fun hall => Bool.eq_false_iff.mp h ((assigned_iff s).mpr hall)]

/-! ### The steps of a warm start -/

theorem endHbmTraining_replayed (h : s.mgmt.state = .warmStart) {i : ℕ} (hi : i < 24) :
    (s.endHbmTraining.stack i).training = Tab.get 0 s.mgmt.warm.training i := by
  rw [State.endHbmTraining, if_pos h]
  refine foldl_reaches (I := fun u : State => u.mgmt = s.mgmt)
    (Q := fun u : State => (u.stack i).training = Tab.get 0 s.mgmt.warm.training i) (List.mem_range.mpr hi)
    (fun u j hu => (u.updStack_mgmt ..).trans hu) (fun u hu => ?_) (fun u j hu hq => ?_) rfl
  · rw [State.updStack_stack_self, hu]
  · by_cases hj : i = j
    · rw [← hj, State.updStack_stack_self, hu]
    · rw [State.updStack_stack_ne _ _ _ _ hj]
      exact hq

theorem endTraining_warm (h : s.mgmt.state = .warmStart) (hk : s.mgmt.step = 5) :
    s.endHbmTraining.nextStep = (s.endHbmTraining.begun 6).wakeStacks.updMgmt fun m =>
      { m with warm := { m.warm with valid := false } } := by
  have hk' : s.endHbmTraining.mgmt.step = 5 := by rw [s.endHbmTraining_mgmt, hk]
  have h' : s.endHbmTraining.mgmt.state = .warmStart := by rw [s.endHbmTraining_mgmt, h]
  rw [nextStep_of_ne hk' (by decide), beginStep_warm_noTest h']

/-- A start that halts leaves no warm record. -/
theorem State.halt_noRecord (h : s.starting = true) (code : Byte) (detail : ℕ) :
    (s.halt code detail).mgmt.warm.valid = false := by
  rw [s.halt_mgmt_eq code detail, h]
  exact Bool.and_false _

theorem noTest_warm (h : s.mgmt.state = .warmStart) (hk : s.mgmt.step = 6) : s.nextStep.mgmt.step = 7 := by
  rw [nextStep_of_ne hk (by decide), beginStep_warm_links h, State.trainPorts_mgmt]
  rfl

/-! ### The ends of a start -/

/-- Channel 0 is bound. -/
def State.bindManagement (s : State) : State :=
  if (s.channel 0).open_ then s else s.updChannel 0 fun _ => Channel.management

/-- Partition 0 exists. -/
def State.hostPartition (s : State) : State :=
  if (s.partition 0).state = .absent then s.updPartition 0 fun x => { x with state := .active } else s

theorem enterService_eq (s : State) :
    s.enterService = s.bindManagement.hostPartition.updMgmt fun m => { m with state := .service } := rfl

theorem State.bindManagement_spec (s : State) :
    (s.bindManagement.channel 0).open_ = true ∧ s.bindManagement.mgmt = s.mgmt := by
  unfold State.bindManagement
  split
  · next h => exact ⟨h, rfl⟩
  · rw [State.updChannel_channel_self]
    exact ⟨rfl, rfl⟩

theorem State.hostPartition_spec (s : State) : (s.hostPartition.partition 0).state ≠ .absent ∧
    s.hostPartition.channel 0 = s.channel 0 ∧ s.hostPartition.mgmt = s.mgmt := by
  unfold State.hostPartition
  split
  · rw [State.updPartition_partition_self]
    exact ⟨fun h => (nomatch h), rfl, rfl⟩
  · next h => exact ⟨h, rfl, rfl⟩

theorem State.enterService_spec (s : State) : s.enterService.mgmt = { s.mgmt with state := .service } ∧
    (s.enterService.channel 0).open_ = true ∧ (s.enterService.partition 0).state ≠ .absent := by
  obtain ⟨hopen, hm⟩ := s.bindManagement_spec
  obtain ⟨hpart, hchan, hm'⟩ := s.bindManagement.hostPartition_spec
  rw [enterService_eq]
  refine ⟨?_, (congrArg Channel.open_ hchan).trans hopen, hpart⟩
  rw [State.updMgmt, hm'.trans hm]

/-- What a start that has succeeded saves. -/
def State.startSaved (s : State) : State :=
  let ports : Table Port := s.ports.map fun e =>
    if e.2.state = .up then (e.1, { e.2 with savedCoeff := true, savedQuick := e.2.quick }) else e
  let cold : Bool := s.mgmt.state = .coldStart
  { s with ports := ports }.updMgmt fun m => { m with
    elapsed := BitVec.ofNat 32 s.elapsedMs, elapsedRuns := false
    minSvn := if cold ∧ m.minSvn.toNat < m.svn.toNat then m.svn else m.minSvn }

theorem startSaved_minSvn (h : s.mgmt.state = .coldStart) : s.startSaved.mgmt.minSvn =
    if s.mgmt.minSvn.toNat < s.mgmt.svn.toNat then s.mgmt.svn else s.mgmt.minSvn := by
  simp [State.startSaved, h]

theorem endStart_cold (h : s.mgmt.state = .coldStart) (hlock : s.season.state = .locked)
    (hsync : s.season.countSync = true) (hports : s.portsUp = true) (hdies : s.dieOk = BitVec.allOnes 40) :
    s.endStart = s.startSaved.loadDefaultRoutes.enterService.updFw fun f => { f with up := true } := by
  have hgo : ¬(s.season.state ≠ .locked ∨ (!s.season.countSync) = true ∨ (!s.portsUp) = true ∨
      s.dieOk ≠ BitVec.allOnes 40) := by simp [hlock, hsync, hports, hdies]
  unfold State.endStart
  rw [if_neg hgo]
  exact if_pos (cold_isCold h)

/-- A cold start that has succeeded: the package is in SERVICE, with firmware, channel 0 and partition 0. -/
theorem endStart_service (h : s.mgmt.state = .coldStart) (hlock : s.season.state = .locked)
    (hsync : s.season.countSync = true) (hports : s.portsUp = true) (hdies : s.dieOk = BitVec.allOnes 40) :
    s.endStart.mgmt.state = .service ∧ s.endStart.fw.up = true ∧ (s.endStart.channel 0).open_ = true ∧
      (s.endStart.partition 0).state ≠ .absent ∧ s.mgmt.svn.toNat ≤ s.endStart.mgmt.minSvn.toNat ∧
      s.mgmt.minSvn.toNat ≤ s.endStart.mgmt.minSvn.toNat := by
  obtain ⟨hm, hopen, hpart⟩ := s.startSaved.loadDefaultRoutes.enterService_spec
  have hsvn : s.startSaved.loadDefaultRoutes.enterService.mgmt.minSvn = s.startSaved.mgmt.minSvn := by rw [hm]; rfl
  rw [endStart_cold h hlock hsync hports hdies]
  refine ⟨?_, rfl, hopen, hpart, ?_⟩
  · rw [State.updFw_mgmt, hm]
  · rw [State.updFw_mgmt, hsvn, startSaved_minSvn h]
    split <;> omega

theorem exec_addressAssignmentTimeout (h : s.mgmt.state = .coldStart) (hk : s.mgmt.step = 8)
    (htray : s.trayValid = false) (htime : s.inStepFor 120000000000 = true) :
    exec .addressAssignmentTimeout s = .next (s.halt 0x08 0x200) := by
  have hgo : s.mgmt.state = .coldStart ∧ s.mgmt.step = 8 ∧ (!s.trayValid) = true ∧ s.inStepFor 120000000000 = true :=
    ⟨h, hk, by rw [htray]; rfl, htime⟩
  have hexec : exec .addressAssignmentTimeout s = execAddressAssignmentTimeout s := rfl
  rw [hexec, execAddressAssignmentTimeout, if_pos hgo]

theorem exec_seasonLockTimeout (h : s.starting = true) (hk : s.mgmt.step = 9) (hlock : s.season.state ≠ .locked)
    (htime : s.inStepFor 30000000000 = true) :
    exec .seasonLockTimeout s = .next (s.halt 0x09 (s.seaReg 8 % 65536)) := by
  have hexec : exec .seasonLockTimeout s = execSeasonLockTimeout s := rfl
  rw [hexec, execSeasonLockTimeout, if_pos ⟨h, hk, hlock, htime⟩]

end Sys2Proof.Machine

open Sys2Proof Sys2Proof.Machine

/-- Settles O59, by the state that each end leaves as the next step begins: `beginStep` changes the management registers
only as its step says, and what is lost of the links leaves them alone. -/
theorem Sys2Proof.startStepsEnd : Obligations.StartStepsEnd := by
  unfold Obligations.StartStepsEnd
  refine ⟨fun s hc => ?_, fun s hw => ?_, fun s => ⟨fun hc hk hlock hsync hports hdies => ?_, fun hs hk hdim => ?_,
    fun hc hk htray htime => ?_, fun hs hk hlock htime => ?_⟩⟩
  · have hs := starting_of_cold hc
    refine ⟨fun hk => ⟨_, exec_startStepEnd (stepEnd_power hs hk), endPower_cold hc hk⟩,
      fun hk => ⟨_, exec_startStepEnd (stepEnd_bootRom hs hk), endBootRom_cold hc hk⟩, fun image second hk => ?_,
      fun i slot hok => ?_, fun hk => ⟨⟨_, exec_startStepEnd (stepEnd_bistOk hs hk), endBist_cold hc hk⟩,
        fun d => ⟨_, exec_startStepEnd (stepEnd_bist d hs hk), endBist_failed s d⟩⟩,
      fun hk => ⟨⟨_, exec_startStepEnd (stepEnd_training hs hk), endTraining_cold hc hk⟩,
        fun st => ⟨_, exec_startStepEnd ((stepEnd_trainFail st hs hk).trans (trainFail_cold hc _)), s.halted_cause ..⟩⟩,
      fun hk repairs => ⟨⟨_, exec_startStepEnd ((stepEnd_memTest repairs none hc hk).trans (endMemTest_cold repairs hc hk)), rfl,
          fun st => repairsNoted_testedRows s repairs st.isLt⟩,
        fun st => ⟨_, exec_startStepEnd ((stepEnd_memTest repairs (some st) hc hk).trans (endMemTest_eq ..)),
          State.halted_cause ..⟩⟩,
      fun hk => ⟨fun hno => ?_, fun hyes => ⟨_, exec_startStepEnd ((stepEnd_links_cold hc hk).trans (if_pos hyes)),
        beginAddress_step _, fun hdim hnone _ hin => ?_, fun n hdim hn => ?_⟩⟩,
      fun hk => ⟨fun hyes => ⟨_, exec_startStepEnd ((stepEnd_address hs hk).trans (endAddress_assigned hyes hk)), rfl, rfl, hc⟩,
        fun hno => exec_startStepEnd ((stepEnd_address hs hk).trans (endAddress_waits hno))⟩⟩
    · have hexec := stepEnd_auth image second hs hk
      refine ⟨fun slot hok => ⟨_, exec_startStepEnd (hexec.trans (endAuth_first hok)), runs_runImage hc hk _ slot⟩,
        fun e b slot hb herr hsecond hok => ?_, fun code detail hrefused => ?_, fun e hb herr hsecond => ?_⟩
      · subst hsecond
        exact ⟨_, exec_startStepEnd (hexec.trans (endAuth_second hb herr hok)), runs_runImage hc hk b slot⟩
      · have hend : s.endAuth image second = s.halt code detail := by
          obtain ⟨hb, herr⟩ | ⟨hb, e, b, herr, rfl, hlast⟩ := hrefused
          · exact endAuth_refused_host hb herr
          · exact endAuth_refused_both hb herr hlast
        obtain ⟨hstate, hcode, hdetail⟩ := s.halted_cause code detail
        exact ⟨_, exec_startStepEnd (hexec.trans hend), hstate, hcode, hdetail, s.halt_fw_loaded code detail⟩
      · subst hsecond
        exact exec_startStepEnd (hexec.trans (endAuth_waits hb herr))
    · obtain ⟨hslot, hsig, hbody, hlen, hsvn⟩ := authenticate_ok hok
      obtain ⟨hlt, hkey, hrevoked⟩ := keySlot_spec hslot
      exact ⟨hlt, hkey, hrevoked, hsig, hbody, hlen, hsvn⟩
    · exact exec_startStepEnd ((stepEnd_links_cold hc hk).trans (if_neg (Bool.eq_false_iff.mp hno)))
    · rw [beginAddress_inDims (s := s.begun 8) hdim hnone hin]
      exact hc
    · rw [beginAddress_mismatched (s := s.begun 8) hdim hn]
      exact State.halted_cause ..
  · have hs := starting_of_warm hw
    refine ⟨fun hk => ⟨⟨_, exec_startStepEnd ((stepEnd_training hs hk).trans (endTraining_warm hw hk)), rfl, rfl, fun st => ?_⟩,
        fun st => ⟨_, exec_startStepEnd ((stepEnd_trainFail st hs hk).trans (trainFail_warm hw _)), ?_⟩⟩,
      fun hk => ⟨⟨_, exec_startStepEnd (stepEnd_noTest hw hk), noTest_warm hw hk⟩,
        fun repairs bad => exec_startStepEnd (stepEnd_memTest_warm repairs bad hw hk)⟩,
      fun hk => ⟨fun hup => ⟨_, exec_startStepEnd ((stepEnd_links_warm hw hk).trans (if_pos hup)), rfl⟩,
        fun hno => exec_startStepEnd ((stepEnd_links_warm hw hk).trans (if_neg (Bool.eq_false_iff.mp hno)))⟩⟩
    · have hstack := wakeStacks_stack (s.endHbmTraining.begun 6) st.val
      exact ⟨(congrArg StackState.training hstack).trans (endHbmTraining_replayed hw st.isLt),
        congrArg StackState.selfRefresh hstack⟩
    · obtain ⟨hstate, hcode, hdetail⟩ := s.halted_cause 0x0A (3 + st.val * 256)
      exact ⟨hstate, State.halt_noRecord hs _ _, hcode, hdetail⟩
  · exact ⟨_, exec_startStepEnd (stepEnd_start (starting_of_cold hc) hk), endStart_service hc hlock hsync hports hdies⟩
  · have hno : s.assigned = false := Bool.eq_false_iff.mpr fun hall => by
      obtain ⟨-, hthere, -⟩ := (assigned_iff s).mp hall
      exact Bool.eq_false_iff.mp hdim hthere
    exact exec_startStepEnd ((stepEnd_address hs hk).trans (endAddress_waits hno))
  · exact ⟨_, exec_addressAssignmentTimeout hc hk htray htime, s.halted_cause ..⟩
  · obtain ⟨hstate, hcode, -⟩ := s.halted_cause 0x09 (s.seaReg 8 % 65536)
    exact ⟨_, exec_seasonLockTimeout hs hk hlock htime, hstate, hcode⟩

end StartSteps

/-! ## Registers that have no row of their own (00 R9) -/

section RegisterAccesses

namespace Sys2Proof.Machine

open Sys2Proof

variable {s : State} {off n o : ℕ} {v : Word} {field : State → BitVec 48} {put : State → ℕ → State}

/-! ### Reads that clear -/

theorem exec_rcRead (a : Agent) (r : RegRef) (event : ℕ) (s : State) :
    exec (.rcRead a r event) s = .next ((s.readReg a r).keepAt r event) := rfl

/-- The register at an offset is an RC counter of 48 bits, which the host reads; `put` stores its value. -/
structure Counter (off : ℕ) (field : State → BitVec 48) (put : State → ℕ → State) : Prop where
  aligned : off / 8 * 8 = off
  small : off < 2 ^ 24
  readable : ∀ s : State, s.mayRead .host off = true
  value : ∀ (s : State) (a : Agent), s.regValue a off = (field s).toNat
  sets : ∀ (s : State) (n : ℕ), s.setRc off n = some (put s n)
  stored : ∀ (s : State) (n : ℕ), field (put s n) = BitVec.ofNat 48 n
  sums : ∀ x n : ℕ, recorded off x n = min (x + n) (2 ^ 48 - 1)
  emitted : ∀ (s : State) (m : OutMsg), field (s.emit m) = field s
  quiet : ∀ (s : State) (n : ℕ), (put s n).out = s.out ∧ (put s n).mem = s.mem

/-- The answer has gone out, and the counter is clear. -/
def clearedBy (field : State → BitVec 48) (put : State → ℕ → State) (s : State) : State :=
  (put s 0).emit (.answer .host (some ((field s).setWidth 64)))

theorem Counter.readReg (h : Counter off field put) (hstate : s.mgmt.state = .service)
    (hclk : s.mgmt.pcieClk = true) : s.readReg .host (.ctrl (BitVec.ofNat 24 off)) = clearedBy field put s := by
  have hones : s.hostOnes .host = false := by simp [State.hostOnes, hstate]
  have hdrops : s.dropsOf .host = false := by simp [State.dropsOf, State.hostDrops, hstate, hclk]
  have hoff : (BitVec.ofNat 24 off).toNat = off := Nat.mod_eq_of_lt h.small
  have hread : s.regRead .host off = ((field s).toNat, put s 0) := by
    rw [State.regRead, h.readable, h.value, h.sets]
    rfl
  have hctrl : s.readCtrl .host off = clearedBy field put s := by
    unfold State.readCtrl clearedBy
    rw [h.aligned, hread, ← BitVec.ofNat_toNat]
    rfl
  unfold State.readReg
  rw [hones, hdrops, ← hctrl]
  exact congrArg (s.readCtrl .host) hoff

/-- What the counter records in the cycle of its clearing stays in it. -/
theorem Counter.keepEvent (h : Counter off field put) {event : ℕ} (hevent : event < 2 ^ 48) :
    (clearedBy field put s).keepEvent off event =
      if event = 0 then clearedBy field put s else put (clearedBy field put s) event := by
  have hzero : field (clearedBy field put s) = 0#48 := (h.emitted ..).trans (h.stored s 0)
  have hmin : min (0 + event) (2 ^ 48 - 1) = event := by omega
  unfold State.keepEvent
  rw [h.value, hzero, h.sums, BitVec.toNat_ofNat, Nat.zero_mod, hmin, h.sets]
  rfl

theorem Counter.exec (h : Counter off field put) {event : ℕ} (hstate : s.mgmt.state = .service)
    (hclk : s.mgmt.pcieClk = true) (hevent : event < 2 ^ 48) :
    exec (.rcRead .host (.ctrl (BitVec.ofNat 24 off)) event) s =
      .next (if event = 0 then clearedBy field put s else put (clearedBy field put s) event) := by
  have hoff : (BitVec.ofNat 24 off).toNat = off := Nat.mod_eq_of_lt h.small
  rw [exec_rcRead, h.readReg hstate hclk, State.keepAt, hoff, h.aligned, h.keepEvent hevent]

/-- A read of a counter answers what it held, and leaves in it what it records in the cycle of the read. -/
theorem Counter.clears (h : Counter off field put) {event : ℕ} (hstate : s.mgmt.state = .service)
    (hclk : s.mgmt.pcieClk = true) (hevent : event < 2 ^ 48) :
    ∃ t, Machine.exec (.rcRead .host (.ctrl (BitVec.ofNat 24 off)) event) s = .next t ∧
      field t = BitVec.ofNat 48 event ∧ t.out = .answer .host (some ((field s).setWidth 64)) :: s.out ∧ t.mem = s.mem := by
  obtain ⟨hout, hmem⟩ := h.quiet s 0
  have hcleared : (clearedBy field put s).out = .answer .host (some ((field s).setWidth 64)) :: s.out :=
    congrArg _ hout
  refine ⟨_, h.exec hstate hclk hevent, ?_⟩
  split
  · next hnone =>
    rw [hnone]
    exact ⟨(h.emitted ..).trans (h.stored s 0), hcleared, hmem⟩
  · obtain ⟨hout', hmem'⟩ := h.quiet (clearedBy field put s) event
    exact ⟨h.stored .., hout'.trans hcleared, hmem'.trans hmem⟩

/-! ### The counters -/

theorem blockAt_hub (m : Fin 8) (ho : o < 0x40000) : blockAt (0x100000 + m.val * 0x40000 + o) = (.mh m.val, o) := by
  have hm := m.isLt
  have hdiv : (0x100000 + m.val * 0x40000 + o - 0x100000) / 0x40000 = m.val := by omega
  have hmod : (0x100000 + m.val * 0x40000 + o - 0x100000) % 0x40000 = o := by omega
  rw [blockAt, if_neg (by omega), if_neg (by omega), if_pos (by omega), hdiv, hmod]

theorem blockAt_xdie (x : Fin 4) (ho : o < 0x40000) : blockAt (0x300000 + x.val * 0x40000 + o) = (.mon x.val, o) := by
  have hx := x.isLt
  have hdiv : (0x300000 + x.val * 0x40000 + o - 0x300000) / 0x40000 = x.val := by omega
  have hmod : (0x300000 + x.val * 0x40000 + o - 0x300000) % 0x40000 = o := by omega
  rw [blockAt, if_neg (by omega), if_neg (by omega), if_neg (by omega), if_pos (by omega), hdiv, hmod]

theorem blockAt_bpm (ho : o < 0x40000) : blockAt (0x400000 + o) = (.bpm, o) := by
  have hsub : 0x400000 + o - 0x400000 = o := by omega
  rw [blockAt, if_neg (by omega), if_neg (by omega), if_neg (by omega), if_neg (by omega), if_pos (by omega), hsub]

theorem blockAt_port (f : Fin 8) (p : Fin 7) (ho : o < 0x100) :
    blockAt (0x501000 + f.val * 0x40000 + p.val * 0x100 + o) = (.fab f.val, 0x1000 + p.val * 0x100 + o) := by
  have hf := f.isLt
  have hp := p.isLt
  have hdiv : (0x501000 + f.val * 0x40000 + p.val * 0x100 + o - 0x500000) / 0x40000 = f.val := by omega
  have hmod : (0x501000 + f.val * 0x40000 + p.val * 0x100 + o - 0x500000) % 0x40000 = 0x1000 + p.val * 0x100 + o := by
    omega
  rw [blockAt, if_neg (by omega), if_neg (by omega), if_neg (by omega), if_neg (by omega), if_neg (by omega),
    if_pos (by omega), hdiv, hmod]

/-- PKG_PWR_THROTTLE and PKG_PWR_DROOP. -/
theorem counter_throttle : Counter 0x410 (fun s => s.power.throttle)
    fun s n => s.updPower fun w => { w with throttle := BitVec.ofNat 48 n } :=
  ⟨rfl, by decide, fun _ => rfl, fun _ _ => rfl, fun _ _ => rfl, fun _ _ => rfl, fun _ _ => rfl, fun _ _ => rfl,
    fun _ _ => ⟨rfl, rfl⟩⟩

theorem counter_droop : Counter 0x418 (fun s => s.power.droop)
    fun s n => s.updPower fun w => { w with droop := BitVec.ofNat 48 n } :=
  ⟨rfl, by decide, fun _ => rfl, fun _ _ => rfl, fun _ _ => rfl, fun _ _ => rfl, fun _ _ => rfl, fun _ _ => rfl,
    fun _ _ => ⟨rfl, rfl⟩⟩

/-- A register of a hub that a read clears. -/
theorem counter_hub (m : Fin 8) (o : ℕ) (g : HubState → BitVec 48) (f : ℕ → HubState → HubState)
    (ho : o < 0x40000 := by decide) (h8 : o / 8 * 8 = o := by rfl)
    (hval : ∀ s : State, s.mhReg m.val o = (g (s.hub m.val)).toNat := by intro s; rfl)
    (hset : ∀ (s : State) (n : ℕ), s.setRc (0x100000 + m.val * 0x40000 + o) n = some (s.updHub m.val (f n)) := by
      intro s n; unfold State.setRc; rw [blockAt_hub _ (by decide)]; rfl)
    (hf : ∀ n h, g (f n h) = BitVec.ofNat 48 n := by intro n h; rfl) :
    Counter (0x100000 + m.val * 0x40000 + o) (fun s => g (s.hub m.val)) fun s n => s.updHub m.val (f n) where
  aligned := by omega
  small := by
    have hm := m.isLt
    omega
  readable := fun s => by unfold State.mayRead; rw [blockAt_hub m ho]; rfl
  value := fun s a => by unfold State.regValue; rw [blockAt_hub m ho]; exact hval s
  sets := hset
  stored := fun s n => by rw [State.updHub_hub_self]; exact hf n _
  sums := fun x n => by unfold recorded; rw [blockAt_hub m ho]
  emitted := fun _ _ => rfl
  quiet := fun _ _ => ⟨rfl, rfl⟩

theorem counters_hub (m : Fin 8) : ∀ e ∈ [(0x18, HubState.corrected), (0x20, HubState.uncorrectable),
    (0x28, HubState.detected), (0x30, HubState.onDie), (0x38, HubState.llmHits), (0x40, HubState.llmMisses)],
    ∃ put, Counter (0x100000 + m.val * 0x40000 + e.1) (fun s => e.2 (s.hub m.val)) put := by
  intro e he
  simp only [List.mem_cons, List.not_mem_nil, or_false] at he
  obtain rfl | rfl | rfl | rfl | rfl | rfl := he
  · exact ⟨_, counter_hub m 0x18 HubState.corrected fun n h => { h with corrected := BitVec.ofNat 48 n }⟩
  · exact ⟨_, counter_hub m 0x20 HubState.uncorrectable fun n h => { h with uncorrectable := BitVec.ofNat 48 n }⟩
  · exact ⟨_, counter_hub m 0x28 HubState.detected fun n h => { h with detected := BitVec.ofNat 48 n }⟩
  · exact ⟨_, counter_hub m 0x30 HubState.onDie fun n h => { h with onDie := BitVec.ofNat 48 n }⟩
  · exact ⟨_, counter_hub m 0x38 HubState.llmHits fun n h => { h with llmHits := BitVec.ofNat 48 n }⟩
  · exact ⟨_, counter_hub m 0x40 HubState.llmMisses fun n h => { h with llmMisses := BitVec.ofNat 48 n }⟩

/-- A register of an X-die that a read clears. -/
theorem counter_xdie (x : Fin 4) (o : ℕ) (g : XDieState → BitVec 48) (f : ℕ → XDieState → XDieState)
    (ho : o < 0x40000 := by decide) (h8 : o / 8 * 8 = o := by rfl)
    (hval : ∀ s : State, s.monReg x.val o = (g (s.xdie x.val)).toNat := by intro s; rfl)
    (hset : ∀ (s : State) (n : ℕ), s.setRc (0x300000 + x.val * 0x40000 + o) n = some (s.updXdie x.val (f n)) := by
      intro s n; unfold State.setRc; rw [blockAt_xdie _ (by decide)]; rfl)
    (hf : ∀ n d, g (f n d) = BitVec.ofNat 48 n := by intro n d; rfl) :
    Counter (0x300000 + x.val * 0x40000 + o) (fun s => g (s.xdie x.val)) fun s n => s.updXdie x.val (f n) where
  aligned := by omega
  small := by
    have hx := x.isLt
    omega
  readable := fun s => by unfold State.mayRead; rw [blockAt_xdie x ho]; rfl
  value := fun s a => by unfold State.regValue; rw [blockAt_xdie x ho]; exact hval s
  sets := hset
  stored := fun s n => by rw [State.updXdie_xdie_self]; exact hf n _
  sums := fun y n => by unfold recorded; rw [blockAt_xdie x ho]
  emitted := fun _ _ => rfl
  quiet := fun _ _ => ⟨rfl, rfl⟩

theorem counters_xdie (x : Fin 4) : ∀ e ∈ [(0x08, XDieState.choicesOut), (0x10, XDieState.rowsIn),
    (0x18, XDieState.dropped), (0x20, XDieState.deferred), (0x28, XDieState.scoreBusy), (0x30, XDieState.dispatchStall),
    (0x408, XDieState.collDone), (0x410, XDieState.collFaults), (0x418, XDieState.collBusy)],
    ∃ put, Counter (0x300000 + x.val * 0x40000 + e.1) (fun s => e.2 (s.xdie x.val)) put := by
  intro e he
  simp only [List.mem_cons, List.not_mem_nil, or_false] at he
  obtain rfl | rfl | rfl | rfl | rfl | rfl | rfl | rfl | rfl := he
  · exact ⟨_, counter_xdie x 0x08 XDieState.choicesOut fun n d => { d with choicesOut := BitVec.ofNat 48 n }⟩
  · exact ⟨_, counter_xdie x 0x10 XDieState.rowsIn fun n d => { d with rowsIn := BitVec.ofNat 48 n }⟩
  · exact ⟨_, counter_xdie x 0x18 XDieState.dropped fun n d => { d with dropped := BitVec.ofNat 48 n }⟩
  · exact ⟨_, counter_xdie x 0x20 XDieState.deferred fun n d => { d with deferred := BitVec.ofNat 48 n }⟩
  · exact ⟨_, counter_xdie x 0x28 XDieState.scoreBusy fun n d => { d with scoreBusy := BitVec.ofNat 48 n }⟩
  · exact ⟨_, counter_xdie x 0x30 XDieState.dispatchStall fun n d => { d with dispatchStall := BitVec.ofNat 48 n }⟩
  · exact ⟨_, counter_xdie x 0x408 XDieState.collDone fun n d => { d with collDone := BitVec.ofNat 48 n }⟩
  · exact ⟨_, counter_xdie x 0x410 XDieState.collFaults fun n d => { d with collFaults := BitVec.ofNat 48 n }⟩
  · exact ⟨_, counter_xdie x 0x418 XDieState.collBusy fun n d => { d with collBusy := BitVec.ofNat 48 n }⟩

/-- A register of the buffer pools that a read clears. -/
theorem counter_bpm (o : ℕ) (g : Bpm → BitVec 48) (f : ℕ → Bpm → Bpm)
    (ho : o < 0x1000 := by decide) (h8 : o / 8 * 8 = o := by rfl)
    (hval : ∀ s : State, s.bpmReg o = (g s.bpm).toNat := by intro s; rfl)
    (hset : ∀ (s : State) (n : ℕ), s.setRc (0x400000 + o) n = some { s with bpm := f n s.bpm } := by intro s n; rfl)
    (hf : ∀ n b, g (f n b) = BitVec.ofNat 48 n := by intro n b; rfl) :
    Counter (0x400000 + o) (fun s => g s.bpm) fun s n => { s with bpm := f n s.bpm } where
  aligned := by omega
  small := by omega
  readable := fun s => by unfold State.mayRead; rw [blockAt_bpm (by omega)]; rfl
  value := fun s a => by unfold State.regValue; rw [blockAt_bpm (by omega)]; exact hval s
  sets := hset
  stored := fun _ n => hf n _
  sums := fun x n => by unfold recorded; rw [blockAt_bpm (by omega)]
  emitted := fun _ _ => rfl
  quiet := fun _ _ => ⟨rfl, rfl⟩

theorem counters_bpm : ∀ e ∈ [(0x00, Bpm.allocs), (0x08, Bpm.frees), (0x10, Bpm.empty)],
    ∃ put, Counter (0x400000 + e.1) (fun s => e.2 s.bpm) put := by
  intro e he
  simp only [List.mem_cons, List.not_mem_nil, or_false] at he
  obtain rfl | rfl | rfl := he
  · exact ⟨_, counter_bpm 0x00 Bpm.allocs fun n b => { b with allocs := BitVec.ofNat 48 n }⟩
  · exact ⟨_, counter_bpm 0x08 Bpm.frees fun n b => { b with frees := BitVec.ofNat 48 n }⟩
  · exact ⟨_, counter_bpm 0x10 Bpm.empty fun n b => { b with empty := BitVec.ofNat 48 n }⟩

/-- Where the registers of a port lie in the block of its die. -/
theorem portOffset (p : Fin 7) (ho : o < 0x100) :
    (0x1000 ≤ 0x1000 + p.val * 0x100 + o ∧ 0x1000 + p.val * 0x100 + o < 0x1700) ∧
      (0x1000 + p.val * 0x100 + o - 0x1000) / 0x100 = p.val ∧ (0x1000 + p.val * 0x100 + o) % 0x100 = o := by
  have hp := p.isLt
  omega

theorem fabReg_port (s : State) (f : Fin 8) (p : Fin 7) (ho : o < 0x100) :
    s.fabReg f.val (0x1000 + p.val * 0x100 + o) = s.portReg (7 * f.val + p.val) o := by
  obtain ⟨hin, hdiv, hmod⟩ := portOffset p ho
  unfold State.fabReg
  rw [if_neg (by omega), if_neg (by omega), if_pos hin, hdiv, hmod]

/-- A register of a port that a read clears. -/
theorem counter_port (f : Fin 8) (p : Fin 7) (o : ℕ) (g : Port → BitVec 48) (w : ℕ → Port → Port)
    (ho : o < 0x100 := by decide) (h8 : o / 8 * 8 = o := by rfl)
    (hval : ∀ s : State, s.portReg (7 * f.val + p.val) o = (g (s.port (7 * f.val + p.val))).toNat := by intro s; rfl)
    (hset : ∀ (off k : ℕ) (s : State) (n : ℕ), blockAt off = (.fab f.val, k) → (0x1000 ≤ k ∧ k < 0x1700) →
        (k - 0x1000) / 0x100 = p.val → k % 0x100 = o → s.setRc off n = some (s.updPort (7 * f.val + p.val) (w n)) := by
      intro off k s n hb hin hdiv hmod
      unfold State.setRc
      rw [hb]
      dsimp only
      rw [if_pos hin, hdiv, hmod]
      rfl)
    (hw : ∀ n q, g (w n q) = BitVec.ofNat 48 n := by intro n q; rfl) :
    Counter (0x501000 + f.val * 0x40000 + p.val * 0x100 + o) (fun s => g (s.port (7 * f.val + p.val)))
      fun s n => s.updPort (7 * f.val + p.val) (w n) where
  aligned := by omega
  small := by
    have hf := f.isLt
    have hp := p.isLt
    omega
  readable := fun s => by
    have hp := p.isLt
    have hanem : anemOffset (0x1000 + p.val * 0x100 + o) = false := decide_eq_false (by omega)
    unfold State.mayRead
    rw [blockAt_port f p ho]
    dsimp only
    rw [hanem]
    rfl
  value := fun s a => by unfold State.regValue; rw [blockAt_port f p ho]; exact (fabReg_port s f p ho).trans (hval s)
  sets := fun s n => by
    obtain ⟨hin, hdiv, hmod⟩ := portOffset p ho
    exact hset _ _ s n (blockAt_port f p ho) hin hdiv hmod
  stored := fun s n => by rw [State.updPort_port_self]; exact hw n _
  sums := fun x n => by unfold recorded; rw [blockAt_port f p ho]
  emitted := fun _ _ => rfl
  quiet := fun _ _ => ⟨rfl, rfl⟩

theorem counters_port (f : Fin 8) (p : Fin 7) : ∀ e ∈ [(0x20, Port.fecCorrected), (0x28, Port.fecUncorr),
    (0x30, Port.crcDiscard), (0x38, Port.orphan), (0x40, Port.stompedIn), (0x48, Port.stompedOut), (0x50, Port.protoErr),
    (0x58, Port.retrains), (0x60, Port.beaconMiss)],
    ∃ put, Counter (0x501000 + f.val * 0x40000 + p.val * 0x100 + e.1) (fun s => e.2 (s.port (7 * f.val + p.val))) put := by
  intro e he
  simp only [List.mem_cons, List.not_mem_nil, or_false] at he
  obtain rfl | rfl | rfl | rfl | rfl | rfl | rfl | rfl | rfl := he
  · exact ⟨_, counter_port f p 0x20 Port.fecCorrected fun n q => { q with fecCorrected := BitVec.ofNat 48 n }⟩
  · exact ⟨_, counter_port f p 0x28 Port.fecUncorr fun n q => { q with fecUncorr := BitVec.ofNat 48 n }⟩
  · exact ⟨_, counter_port f p 0x30 Port.crcDiscard fun n q => { q with crcDiscard := BitVec.ofNat 48 n }⟩
  · exact ⟨_, counter_port f p 0x38 Port.orphan fun n q => { q with orphan := BitVec.ofNat 48 n }⟩
  · exact ⟨_, counter_port f p 0x40 Port.stompedIn fun n q => { q with stompedIn := BitVec.ofNat 48 n }⟩
  · exact ⟨_, counter_port f p 0x48 Port.stompedOut fun n q => { q with stompedOut := BitVec.ofNat 48 n }⟩
  · exact ⟨_, counter_port f p 0x50 Port.protoErr fun n q => { q with protoErr := BitVec.ofNat 48 n }⟩
  · exact ⟨_, counter_port f p 0x58 Port.retrains fun n q => { q with retrains := BitVec.ofNat 48 n }⟩
  · exact ⟨_, counter_port f p 0x60 Port.beaconMiss fun n q => { q with beaconMiss := BitVec.ofNat 48 n }⟩

/-- The counters that one read leaves are the other ones. -/
theorem rcRead_droop_throttle (s : State) (event : ℕ) (hstate : s.mgmt.state = .service)
    (hclk : s.mgmt.pcieClk = true) (hevent : event < 2 ^ 48) :
    ∃ t, exec (.rcRead .host (.ctrl 0x418) event) s = .next t ∧ t.power.throttle = s.power.throttle := by
  refine ⟨_, counter_droop.exec hstate hclk hevent, ?_⟩
  split <;> rfl

/-! ### Flags that a write clears -/

theorem exec_w1cWrite_status (n : ChanId) (hdrops : s.hostDrops = false) (hopen : (s.channel n.val).open_ = true) :
    exec (.w1cWrite .host (.chan n 0x18) v) s = .next (s.updChannel n.val fun c => c.clearStatus v) := by
  have hgo : ofPage .host n = true ∧ (!s.hostDrops) = true ∧ (0x18 : BitVec 12) = 0x18 ∧
      (s.channel n.val).open_ = true := ⟨rfl, by rw [hdrops]; rfl, rfl, hopen⟩
  exact congrArg Host.Outcome.next (if_pos hgo)

theorem exec_w1cWrite_cause (h : s.mgmt.standby = true) : exec (.w1cWrite .bmc (.mgmt 4) v) s =
    .next (s.updMgmt fun m => { m with pending := m.pending && !v.getLsbD 31 }) := by
  have hgo : ¬(Agent.bmc ≠ Agent.bmc ∨ (!s.mgmt.standby) = true) := by simp [h]
  exact congrArg Host.Outcome.next (if_neg hgo)

theorem exec_w1cWrite_state (h : s.mgmt.standby = true) : exec (.w1cWrite .bmc (.mgmt 0) v) s =
    .next (s.updMgmt fun m => { m with warmIgnored := m.warmIgnored && !v.getLsbD 4 }) := by
  have hgo : ¬(Agent.bmc ≠ Agent.bmc ∨ (!s.mgmt.standby) = true) := by simp [h]
  exact congrArg Host.Outcome.next (if_neg hgo)

/-! ### Plain writes -/

/-- The page of an open channel takes a write. -/
theorem pageWrite_open (hdrops : s.hostDrops = false) (hopen : (s.channel n).open_ = true) :
    ¬((!(s.channel n).open_) = true ∨ s.hostDrops = true) := by simp [hopen, hdrops]

theorem pageWrite_cmdBase (hdrops : s.hostDrops = false) (hopen : (s.channel n).open_ = true)
    (hidle : (s.channel n).enabled = false) (hv : v.toNat % 4096 = 0) :
    s.pageWrite n 0x30 v = s.updChannel n fun c => { c with cmdBase := v } := by
  unfold State.pageWrite
  rw [if_neg (pageWrite_open hdrops hopen)]
  exact if_neg (by simp [hidle, hv])

theorem pageWrite_cplBase (hdrops : s.hostDrops = false) (hopen : (s.channel n).open_ = true)
    (hidle : (s.channel n).enabled = false) (hv : v.toNat % 4096 = 0) :
    s.pageWrite n 0x38 v = s.updChannel n fun c => { c with cplBase := v } := by
  unfold State.pageWrite
  rw [if_neg (pageWrite_open hdrops hopen)]
  exact if_neg (by simp [hidle, hv])

theorem pageWrite_intr (hdrops : s.hostDrops = false) (hopen : (s.channel n).open_ = true) :
    s.pageWrite n 0x50 v = s.updChannel n fun c => { c with intr := v &&& 0x87FF87FF } := by
  unfold State.pageWrite
  exact if_neg (pageWrite_open hdrops hopen)

theorem pageWrite_consumer (hdrops : s.hostDrops = false) (hopen : (s.channel n).open_ = true) :
    s.pageWrite n 0x10 v = s := by
  unfold State.pageWrite
  exact if_neg (pageWrite_open hdrops hopen)

theorem pageWrite_timeout (hdrops : s.hostDrops = false) (hopen : (s.channel n).open_ = true) (hlow : 1 ≤ v.toNat)
    (hhigh : v.toNat ≤ 60000) :
    s.pageWrite n 0x48 v = s.updChannel n fun c => { c with timeout := BitVec.ofNat 16 v.toNat } := by
  have hmod : v.toNat % 65536 = v.toNat := Nat.mod_eq_of_lt (by omega)
  unfold State.pageWrite
  rw [if_neg (pageWrite_open hdrops hopen), hmod]
  exact if_neg (by omega)

theorem exec_registerWrite_csr (k : StewardId) (num : BitVec 12) (v : Word) (s : State) :
    exec (.registerWrite (.steward k) (.csr k num) v) s = .next (s.csrWrite k.val num.toNat v) :=
  congrArg Host.Outcome.next (if_pos rfl)

/-- A steward core that runs for a partition writes its own registers. -/
theorem csrWrite_running {k p : ℕ} (h : s.stewardPart k = some p) : ¬(s.stewardPart k).isNone = true := by
  rw [h]
  exact Bool.false_ne_true

theorem csrIllegal_custom {k num : ℕ} (hlow : 0x800 ≤ num) (hhigh : num < 0x900) : s.csrIllegal k num =
    { s with free := s.free + 2 }.stewardTrap k 2 (Config.freeWord s.free) (Config.freeWord (s.free + 1)) :=
  if_pos ⟨hlow, hhigh⟩

theorem csrWrite_unlisted {k num : ℕ} (hlow : 0x810 ≤ num) : s.csrWrite k num v = s.csrIllegal k num := by
  unfold State.csrWrite
  split
  · rfl
  · split
    rotate_right
    · rw [if_neg (by omega), if_neg (by omega)]
    all_goals exact absurd hlow (by decide)

theorem csrWrite_noPartition {k num : ℕ} (h : s.stewardPart k = none) : s.csrWrite k num v = s.csrIllegal k num := by
  unfold State.csrWrite
  exact if_pos (by rw [h]; rfl)

end Sys2Proof.Machine

open Sys2Proof Sys2Proof.Machine

/-- Settles O60, by the counters that a read clears (`Counter`), the flags that a write clears, and the cases of a page's
and a steward's registers. -/
theorem Sys2Proof.registerAccessesTakeEffect : Obligations.RegisterAccessesTakeEffect := by
  unfold Obligations.RegisterAccessesTakeEffect
  refine ⟨fun s event hstate hclk hevent => ?_, fun s v => ⟨fun n hdrops hopen => ?_, fun hstandby =>
      ⟨exec_w1cWrite_cause hstandby, exec_w1cWrite_state hstandby⟩⟩,
    fun s v => ⟨fun n hdrops hopen => ?_, fun k p hpart => ?_, fun k num hlow hhigh hcase => ?_⟩⟩
  · have hclears : ∀ {off : ℕ} {field : State → BitVec 48}, (∃ put, Counter off field put) → ∃ t,
        exec (.rcRead .host (.ctrl (BitVec.ofNat 24 off)) event) s = .next t ∧ field t = BitVec.ofNat 48 event ∧
          t.out = .answer .host (some ((field s).setWidth 64)) :: s.out ∧ t.mem = s.mem :=
      fun ⟨_, h⟩ => h.clears hstate hclk hevent
    refine ⟨fun e he => ?_, rcRead_droop_throttle s event hstate hclk hevent, fun m e he => hclears (counters_hub m e he),
      fun x e he => hclears (counters_xdie x e he), fun e he => hclears (counters_bpm e he),
      fun f p e he => hclears (counters_port f p e he)⟩
    simp only [List.mem_cons, List.not_mem_nil, or_false] at he
    obtain rfl | rfl := he
    · exact hclears ⟨_, counter_throttle⟩
    · exact hclears ⟨_, counter_droop⟩
  · refine ⟨_, exec_w1cWrite_status n hdrops hopen, rfl, ?_⟩
    rw [State.updChannel_channel_self]
    exact ⟨rfl, rfl, rfl, rfl, rfl, hopen⟩
  · simp only [exec_registerWrite_host_chan]
    exact ⟨fun hidle hv => ⟨congrArg _ (pageWrite_cmdBase hdrops hopen hidle hv),
        congrArg _ (pageWrite_cplBase hdrops hopen hidle hv)⟩,
      fun hused => ⟨congrArg _ (s.pageWrite_base_enabled n.val _ v (.inl rfl) hused),
        congrArg _ (s.pageWrite_base_enabled n.val _ v (.inr rfl) hused)⟩,
      congrArg _ (pageWrite_intr hdrops hopen), congrArg _ (pageWrite_consumer hdrops hopen),
      fun hlow hhigh => congrArg _ (pageWrite_timeout hdrops hopen hlow hhigh)⟩
  · have hrun := csrWrite_running (s := s) hpart
    simp only [exec_registerWrite_csr]
    exact ⟨congrArg _ (if_neg hrun), congrArg _ (if_neg hrun), congrArg _ (if_neg hrun)⟩
  · rw [exec_registerWrite_csr, ← csrIllegal_custom hlow hhigh]
    obtain hnone | hunlisted := hcase
    · exact congrArg _ (csrWrite_noPartition hnone)
    · exact congrArg _ (csrWrite_unlisted hunlisted)

end RegisterAccesses
